-- ==== Sys2Proof/Word.lean ====
section
/-! DEFINITION. The words of the block: bytes, 32-bit register values, 64-bit context words, and the
plainest reading of a bit field. -/

namespace Sys2Proof

/-- A byte. -/
abbrev Byte := BitVec 8

/-- A 32-bit register value (R485: every set-up register holds its value in the low 32 bits of its slot). -/
abbrev W32 := BitVec 32

/-- A 64-bit word of a command context (R85). -/
abbrev W64 := BitVec 64

/-- Bits `hi` to `lo` of a number, bit 0 the least significant (R10). -/
def natBits (v hi lo : Nat) : Nat := (v / 2 ^ lo) % 2 ^ (hi + 1 - lo)

/-- Bits `hi` to `lo` of a register value. -/
def W32.bits (w : W32) (hi lo : Nat) : Nat := natBits w.toNat hi lo

/-- The value with every bit from `hi` to `lo` set and the others clear. -/
def maskOf (hi lo : Nat) : W32 := BitVec.ofNat 32 ((2 ^ (hi + 1 - lo) - 1) * 2 ^ lo)

/-- A register value with bits `hi` to `lo` replaced by the low bits of `v`. -/
def W32.setBits (w : W32) (hi lo v : Nat) : W32 :=
  (w &&& ~~~ maskOf hi lo) ||| (BitVec.ofNat 32 (v % 2 ^ (hi + 1 - lo) * 2 ^ lo) &&& maskOf hi lo)

/-- A counter that stops at its largest value (the spec's "saturates"). -/
def satAdd (limit v n : Nat) : Nat := min limit (v + n)

/-- A flag as a number. -/
def b2n (b : Bool) : Nat := if b then 1 else 0

/-- Division rounded up. -/
def ceilDiv (a b : Nat) : Nat := (a + b - 1) / b

end Sys2Proof
end

