-- ==== Sys2Proof/Config.lean ====
section
/-! DEFINITION. What one device fixes and the spec leaves open: constants without a body, so that nothing can be proved of
their values (see the assumption log entry named at each). -/

namespace Sys2Proof.Config

/-- OBJ of a throttle record whose input is no on-die sensor (log entry 11). -/
opaque sensorObj : Nat → Nat

/-- Whether a lease is still unexpired in the 1 ms that R69 leaves open, by the lease clock (log entry 27). -/
opaque leaseEdge : Nat → Bool

/-- The subsystem NQN, the PCI vendor ID, and bits 31:16 of the DVSEC's extended capability header (R50, R495; log entry 179). -/
opaque subsysNqn : List Byte
opaque pciVendor : Nat
opaque dvsecNext : Nat

/-! The functions of other standards that the spec names (log entry 21). -/

/-- SHA-384 of a byte string, as a number. -/
opaque sha384 : List Byte → Nat

/-- The two 48 B halves of an ECDSA P-384 signature by a key (numbered) over a byte string. -/
opaque signature : Nat → List Byte → Nat × Nat

/-- A derived key's number from its kind, the stage 2 SVN, the debug state and the image digest (R345). -/
opaque derivedKey : Nat → Nat → Bool → Nat → Nat

/-- SHA-384 of a public key (AKID of R351). -/
opaque keyDigest : Nat → Nat

/-- A certificate chain as bytes, from the slot and the numbers of the keys it certifies (R358). -/
opaque certChain : Nat → Nat → Nat → List Byte

/-- AES-256-GCM: the text of a chunk at a byte offset under key and IV, and the tag over AAD and ciphertext (R370). -/
opaque gcmText : List W32 → List W32 → Nat → List Byte → List Byte
opaque gcmTag : List W32 → List W32 → List Byte → List Byte → Nat

/-- Bytes 95:4 of the wrapped blob of a slot, generation and key number (R369). -/
opaque wrapBytes : Nat → Nat → Nat → List Byte

/-- Opening an injection blob with the KIK (R364): the two key halves, or none where the tag fails. -/
opaque openInjection : Nat → List Byte → Option (Nat × Nat)

/-- SHA-384 of the image-signing public key held in boot stage 2 (R397). -/
opaque imageSigner : Nat

/-- Whether an image header's signature verifies over its bytes (R396, R397). -/
opaque imageSigned : List Byte → Bool

/-- A byte of the calibration partition, whose layout the spec does not give (log entry 24). -/
opaque calByte : Nat → Byte

/-- The Do Not Retry bit of a completion whose status the spec names without it, by SCT and SC (log entry 29). -/
opaque dnr : Nat → Nat → Bool

/-- The guard of protection information, by guard width in bits, over a block's data (R163; the CRCs are the NVMe base
specification's, log entry 21). -/
opaque guard : Nat → Nat → Nat

/-- What a block reads as when the key that decrypts it is not the key that encrypted it, or its LBA is another (log entry 31):
key numbers and the stored data. -/
opaque wrongKey : Nat → Nat → Nat → Nat

/-- Whether the offload state of a transport connection lies in a DRAM line: the layout of that region is not given (R321, log entry
48). -/
opaque connLine : Nat → Nat → Bool

/-- The heartbeat count of a cluster's scheduler at a device time: the microcode increments it at least once every 1 ms, and no
rule says when (R27, log entry 46). -/
opaque heart : Nat → Nat → Nat

/-- The status that a Security Send of the Key Per I/O SSC completes with when the SSC fails it, by reason: 0 insufficient resources, 1 an
injection that loads nothing (R363, R364 name the SSC's manner, not the code; log entry 49). -/
opaque sscStatus : Nat → Nat × Nat

/-- The Level 0 Discovery data, with or without the Key Per I/O SSC: TCG's own layout (log entry 21). -/
opaque discovery : Bool → List Byte

/-- Bytes of a returned structure that no rule states, by structure and offset (log entry 50). -/
opaque pageByte : Nat → Nat → Byte

/-- Digests of what the device is delivered with, by the KIND of R352 (log entry 51). -/
opaque vendorDigest : Nat → Nat

/-- Bytes of the firmware store as delivered, in the partitions of boot stage 2 and of the image slots (log entry 51). -/
opaque vendorByte : Nat → Byte

/-- A value that the spec leaves undefined and that no operand fixes: the free value of a counter step (log entry 32). -/
opaque freeValue : Nat → Nat


end Sys2Proof.Config
end

