-- ==== Sys2Proof/Machine/Table.lean ====
section
/-! DEFINITION. Sparse tables keyed by a number, kept as lists with strictly rising keys: contexts, queues, instances,
namespaces and every other replicated object of the block. -/

namespace Sys2Proof.Machine

/-- A table: pairs of a key and an entry, keys strictly rising. -/
abbrev Tab (α : Type) := List (Nat × α)

/-- The entry at a key, if there is one. -/
def Tab.get? {α : Type} (t : Tab α) (k : Nat) : Option α :=
  match t with
  | [] => none
  | (j, a) :: rest => if j = k then some a else Tab.get? rest k

/-- The entry at a key, or `d` where the table holds none. -/
def Tab.getD {α : Type} (t : Tab α) (k : Nat) (d : α) : α := (Tab.get? t k).getD d

/-- Whether the table holds an entry at a key. -/
def Tab.has {α : Type} (t : Tab α) (k : Nat) : Bool := (Tab.get? t k).isSome

/-- The table with `a` at key `k`; the keys stay in rising order. -/
def Tab.set {α : Type} (t : Tab α) (k : Nat) (a : α) : Tab α :=
  match t with
  | [] => [(k, a)]
  | (j, b) :: rest =>
    if j = k then (k, a) :: rest
    else if k < j then (k, a) :: (j, b) :: rest
    else (j, b) :: Tab.set rest k a

/-- The table with key `k` taken out. -/
def Tab.erase {α : Type} (t : Tab α) (k : Nat) : Tab α := t.filter fun p => p.1 != k

/-- The entry at `k` changed by `f` where there is one; a table without one is unchanged. -/
def Tab.upd {α : Type} (t : Tab α) (k : Nat) (f : α → α) : Tab α :=
  t.map fun p => if p.1 = k then (p.1, f p.2) else p

/-- Every entry changed by `f`. -/
def Tab.mapVals {α β : Type} (t : Tab α) (f : Nat → α → β) : Tab β := t.map fun p => (p.1, f p.1 p.2)

/-- The keys of the entries that satisfy `p`, in rising order. -/
def Tab.keysWhere {α : Type} (t : Tab α) (p : Nat → α → Bool) : List Nat :=
  (t.filter fun e => p e.1 e.2).map Prod.fst

/-- The entries that satisfy `p`. -/
def Tab.keep {α : Type} (t : Tab α) (p : Nat → α → Bool) : Tab α := t.filter fun e => p e.1 e.2

/-- How many entries satisfy `p`. -/
def Tab.count {α : Type} (t : Tab α) (p : Nat → α → Bool) : Nat := (Tab.keysWhere t p).length

/-- The lowest number from `lo`, among `fuel` of them, that is no key of the table. -/
def Tab.firstFree {α : Type} (t : Tab α) (lo : Nat) : Nat → Option Nat
  | 0 => none
  | fuel + 1 => if Tab.has t lo then Tab.firstFree t (lo + 1) fuel else some lo

/-- Keys strictly rising. -/
def Tab.rising {α : Type} : Tab α → Bool
  | [] => true
  | [_] => true
  | (j, _) :: (k, b) :: rest => decide (j < k) && Tab.rising ((k, b) :: rest)

/-- The element of a list for which `key` is smallest, the first one on a tie. -/
def leastBy {α : Type} (key : α → Nat) : List α → Option α
  | [] => none
  | a :: rest =>
    match leastBy key rest with
    | none => some a
    | some b => if key b < key a then some b else some a

/-! Fetch sequence numbers (R82): 40 bits, one after another modulo 2^40. -/

/-- The number after a fetch sequence number. -/
def nextFsn (n : Nat) : Nat := (n + 1) % 2 ^ 40

/-- A fetch sequence number is earlier than another: compared modulo 2^40, the half of the numbers behind it are later (DEDUCED, log entry 28). -/
def fsnBefore (a b : Nat) : Bool := a != b && decide ((b + (2 ^ 40 - a)) % 2 ^ 40 < 2 ^ 39)

/-- Earlier or the same. -/
def fsnUpTo (a b : Nat) : Bool := a == b || fsnBefore a b

/-- The element with the earliest fetch sequence number, the first one on a tie. -/
def firstFsn {α : Type} (key : α → Nat) : List α → Option α
  | [] => none
  | a :: rest =>
    match firstFsn key rest with
    | none => some a
    | some b => if fsnBefore (key b) (key a) then some b else some a

end Sys2Proof.Machine
end

