-- ==== Sys2Proof/Machine/Csr.lean ====
section
/-! DEFINITION. The set-up registers (R12, R483 to R492): their names, their fields with access codes and reset values,
their addresses in CSR space, the locks, and the register file of a block. -/

namespace Sys2Proof.Machine

/-- The eleven blocks that own registers and report faults (R13, R483). -/
inductive Block where
  | hfu | qce | tas | ptx | mbe | dip | mss | sec | mgc | ptm | fev
  deriving DecidableEq, Repr

/-- The block index of R483. -/
def Block.index : Block → Nat
  | .hfu => 0 | .qce => 1 | .tas => 2 | .ptx => 3 | .mbe => 4 | .dip => 5 | .mss => 6 | .sec => 7 | .mgc => 8
  | .ptm => 9 | .fev => 10

/-- The access codes of R12. RWO is left out: no set-up register of this release has an RWO field (R491). -/
inductive Acc where
  /-- Read returns the field, write sets it. -/
  | rw
  /-- Read returns the field, write is ignored. -/
  | ro
  /-- Read returns 0, write sets or triggers. -/
  | wo
  /-- Writing 1 clears the bit. -/
  | w1c
  /-- Writing 1 sets the bit. -/
  | w1s
  /-- As RW until the owning lock bit is set. -/
  | rwl
  deriving DecidableEq, Repr

/-- One field of a register: its name in the manual, its bits, its access code and its reset value. -/
structure FieldSpec where
  name : String
  hi : Nat
  lo : Nat
  acc : Acc
  reset : Nat
  deriving DecidableEq, Repr

/-- Every set-up register of R492, by the manual's name; an argument is the index of a replicated register. -/
inductive Reg where
  /-- FEV_DEVWDG: Cameleer watchdog. -/
  | fevDevwdg
  /-- FEV_ESCSTAT: Recovery escalation status. -/
  | fevEscstat
  /-- HFU_LGCFG: Lane group configuration. -/
  | hfuLgcfg
  /-- HFU_HPn_INSTCFG: Host port instance range. -/
  | hfuInstcfg (n : Nat)
  /-- HFU_HPn_LINKSTAT: Host port link status. -/
  | hfuLinkstat (n : Nat)
  /-- HFU_HPn_ERRCNT: Host port error counts. -/
  | hfuErrcnt (n : Nat)
  /-- HFU_LEASECFG: Ownership lease limits. -/
  | hfuLeasecfg
  /-- QCE_CTXCFG: Context pool configuration. -/
  | qceCtxcfg
  /-- QCE_CTXSTAT: Context pool status. -/
  | qceCtxstat
  /-- QCE_RLSTAT: Range-lock table status. -/
  | qceRlstat
  /-- QCE_RLWAIT: Range-lock wait count. -/
  | qceRlwait
  /-- PTX_OASISCFG: Oasis durability configuration. -/
  | ptxOasiscfg
  /-- PTX_OASISSTAT: Oasis durability status. -/
  | ptxOasisstat
  /-- QCE_HPn_QPOOL: Host port queue pool. -/
  | qceQpool (n : Nat)
  /-- TAS_CFG: Tenant arbitration configuration. -/
  | tasCfg
  /-- TAS_RDWIN: Read admission window. -/
  | tasRdwin
  /-- TAS_EPOCH: Epoch counter. -/
  | tasEpoch
  /-- TAS_RCLORPH: Unbilled reclaim. -/
  | tasRclorph
  /-- TAS_LCBUDm: Latency class budgets. -/
  | tasLcbud (m : Nat)
  /-- TAS_SHSEL: Share select. -/
  | tasShsel
  /-- TAS_SHDATA0: Share data. -/
  | tasShdata0
  /-- TAS_SHDATA1: Share data. -/
  | tasShdata1
  /-- TAS_SHDATA2: Share data. -/
  | tasShdata2
  /-- TAS_SHCMD: Share command. -/
  | tasShcmd
  /-- PTX_MAPSTAT: Map region status. -/
  | ptxMapstat
  /-- PTX_BARSTAT: Barchan status. -/
  | ptxBarstat
  /-- PTX_STEERCFG: Write steering. -/
  | ptxSteercfg
  /-- PTX_RCLCFG: Reclaim configuration. -/
  | ptxRclcfg
  /-- PTX_WLCFG: Wear levelling. -/
  | ptxWlcfg
  /-- PTX_RCLTHR: Reclaim thresholds. -/
  | ptxRclthr
  /-- PTX_RCLSTAT: Reclaim and capacity status. -/
  | ptxRclstat
  /-- PTX_CKPTCFG: Checkpoint configuration. -/
  | ptxCkptcfg
  /-- PTX_CKPTSTAT: Checkpoint status. -/
  | ptxCkptstat
  /-- PTX_WADISTAT: Wadi status. -/
  | ptxWadistat
  /-- MBE_CLk_CHCFG: Cluster channel configuration. -/
  | mbeChcfg (k : Nat)
  /-- MBE_CLk_SCHEDCFG: Cluster scheduler configuration. -/
  | mbeSchedcfg (k : Nat)
  /-- MBE_CLk_SCHEDSTAT: Cluster scheduler status. -/
  | mbeSchedstat (k : Nat)
  /-- MBE_CHnn_SEQSTAT: Channel sequencer status. -/
  | mbeSeqstat (n : Nat)
  /-- DIP_CFG: Decoding and patrol configuration. -/
  | dipCfg
  /-- DIP_RDLIM: Read-disturb limits. -/
  | dipRdlim
  /-- DIP_MIRCFG: Mirage read configuration. -/
  | dipMircfg
  /-- DIP_MIRSTAT: Mirage budget status. -/
  | dipMirstat
  /-- DIP_REBCFG: Rebuild configuration. -/
  | dipRebcfg
  /-- DIP_STAT: Integrity status. -/
  | dipStat
  /-- DIP_PCCFG: Parity Compute configuration. -/
  | dipPccfg
  /-- MBE_CLk_WMCFG: Cluster waymark decision configuration. -/
  | mbeWmcfg (k : Nat)
  /-- TAS_WMCFG: Waymark configuration. -/
  | tasWmcfg
  /-- MSS_DMCFG: DRAM configuration. -/
  | mssDmcfg
  /-- MSS_DMn_TRNCTL: Training helper control. -/
  | mssTrnctl (n : Nat)
  /-- MSS_DMn_TRNUSR: Training user pattern. -/
  | mssTrnusr (n : Nat)
  /-- MSS_DMn_TRNRES: Training compare result. -/
  | mssTrnres (n : Nat)
  /-- MSS_DMSTAT: DRAM status. -/
  | mssDmstat
  /-- MSS_DMn_ECCSTAT: Symbol Guard status. -/
  | mssEccstat (n : Nat)
  /-- MSS_VBCLR0: Valid-bit clear base. -/
  | mssVbclr0
  /-- MSS_VBCLR1: Valid-bit clear control. -/
  | mssVbclr1
  /-- MSS_SCRUBCFG: Scrub configuration. -/
  | mssScrubcfg
  /-- MSS_DMn_SCRUBSTAT: Patrol status. -/
  | mssScrubstat (n : Nat)
  /-- MSS_RSBASE: Range scrub base. -/
  | mssRsbase
  /-- MSS_RSCTL: Range scrub control. -/
  | mssRsctl
  /-- MSS_RSSUM0: Range scrub progress. -/
  | mssRssum0
  /-- MSS_RSSUM1: Range scrub error counts. -/
  | mssRssum1
  /-- MSS_RSSUM2: Range scrub first error. -/
  | mssRssum2
  /-- MSS_PAGECFG: Page and power-down policy. -/
  | mssPagecfg
  /-- MSS_RHCFG: Row disturbance configuration. -/
  | mssRhcfg
  /-- MSS_DMn_RHSTAT: Row disturbance status. -/
  | mssRhstat (n : Nat)
  /-- MSS_SRAMSTAT: SRAM error status. -/
  | mssSramstat
  /-- MSS_STGCFG: Staging partition. -/
  | mssStgcfg
  /-- MSS_STGSTAT: Staging use. -/
  | mssStgstat
  /-- SEC_XTSSTAT: XTS lane status. -/
  | secXtsstat
  /-- SEC_CFG: Security configuration. -/
  | secCfg
  /-- SEC_SEALCTL: Seal engine control. -/
  | secSealctl
  /-- SEC_SEALLEN: Seal chunk lengths. -/
  | secSeallen
  /-- SEC_SEALIVm: Seal IV. -/
  | secSealiv (m : Nat)
  /-- SEC_SEALTAGm: Seal tag. -/
  | secSealtag (m : Nat)
  /-- SEC_SEALKEYm: Seal software key. -/
  | secSealkey (m : Nat)
  /-- SEC_SEALLOCK: Seal key lock. -/
  | secSeallock
  /-- SEC_ALARMSTAT: Alarm status. -/
  | secAlarmstat
  /-- SEC_BRCTL: Boot record control. -/
  | secBrctl
  /-- MGC_CFG: Management complex configuration. -/
  | mgcCfg
  /-- MGC_SVCFROM: Store service entry. -/
  | mgcSvcfrom
  /-- MGC_FSCSTAT: Firmware store status. -/
  | mgcFscstat
  /-- MGC_FSCPROT: Firmware store protection. -/
  | mgcFscprot
  /-- MGC_ACTSTAT: Activation status. -/
  | mgcActstat
  /-- MGC_SBICFG: Sideband configuration. -/
  | mgcSbicfg
  /-- PTM_HUECFG: Hold-up energy configuration. -/
  | ptmHuecfg
  /-- PTM_HUESTAT: Hold-up energy status. -/
  | ptmHuestat
  /-- PTM_THRCFG: Throttle configuration. -/
  | ptmThrcfg
  /-- PTM_TSTART: Throttle starts. -/
  | ptmTstart
  /-- PTM_THRSTAT: Throttle status. -/
  | ptmThrstat
  /-- PTM_SNSTRUST: Sensor trust. -/
  | ptmSnstrust
  /-- PTM_NBAND: Cluster NAND bands. -/
  | ptmNband
  /-- FEV_FFQSTAT: First-fault queue status. -/
  | fevFfqstat
  /-- FEV_FFQSEL: First-fault queue select. -/
  | fevFfqsel
  /-- FEV_FFQDATAm: First-fault queue data. -/
  | fevFfqdata (m : Nat)
  /-- FEV_CFG: Fault and event configuration. -/
  | fevCfg
  /-- FEV_STAT: Safe state status. -/
  | fevStat
  /-- FEV_LOGSTAT: Event log status. -/
  | fevLogstat
  /-- FEV_LOGDROP: Dropped records. -/
  | fevLogdrop
  /-- FEV_EVWRHDR: Firmware record header. -/
  | fevEvwrhdr
  /-- FEV_EVWRPAYm: Firmware record payload. -/
  | fevEvwrpay (m : Nat)
  /-- MGC_RSTCTL: Reset and shutdown control. -/
  | mgcRstctl
  /-- MGC_BOOTSTAT: Boot status. -/
  | mgcBootstat
  /-- MGC_CSRERR: CSR access refusal. -/
  | mgcCsrerr
  deriving DecidableEq, Repr

/-- The fields of each register, most significant first; a bit in no field is reserved and reads 0 (R11). "Strap" fields
hold 0 here and are set when the straps are sampled (R465). -/
def Reg.fields : Reg → List FieldSpec
  | .fevDevwdg => [⟨"KICK", 31, 16, .wo, 0⟩, ⟨"REMAIN", 15, 8, .ro, 250⟩, ⟨"BADKICK", 7, 4, .ro, 0⟩, ⟨"EXPIRED", 3, 3, .w1c, 0⟩, ⟨"RUN", 0, 0, .ro, 1⟩]
  | .fevEscstat => [⟨"DEVREC", 25, 24, .ro, 0⟩, ⟨"CLESC", 23, 16, .w1c, 0⟩, ⟨"UNITESC", 15, 8, .w1c, 0⟩, ⟨"ACESC", 1, 1, .w1c, 0⟩, ⟨"SAFE", 0, 0, .ro, 0⟩]
  | .hfuLgcfg => [⟨"LOCK", 31, 31, .w1s, 0⟩, ⟨"LG1ERR", 15, 13, .ro, 0⟩, ⟨"LG1EN", 12, 12, .rwl, 1⟩, ⟨"LG1MODE", 10, 8, .rwl, 0⟩, ⟨"LG0ERR", 7, 5, .ro, 0⟩, ⟨"LG0EN", 4, 4, .rwl, 1⟩, ⟨"LG0MODE", 2, 0, .rwl, 0⟩]
  | .hfuInstcfg _ => [⟨"COUNT", 27, 16, .rwl, 0⟩, ⟨"BASE", 10, 0, .rwl, 0⟩]
  | .hfuLinkstat _ => [⟨"STATE", 31, 28, .ro, 0⟩, ⟨"PROTO", 27, 26, .ro, 0⟩, ⟨"SPEED", 23, 20, .ro, 0⟩, ⟨"WIDTH", 19, 15, .ro, 0⟩, ⟨"DEGR", 14, 14, .w1c, 0⟩, ⟨"DOWNEV", 13, 13, .w1c, 0⟩, ⟨"DOWNCNT", 7, 0, .ro, 0⟩]
  | .hfuErrcnt _ => [⟨"CORR", 31, 16, .w1c, 0⟩, ⟨"UNCORR", 15, 0, .w1c, 0⟩]
  | .hfuLeasecfg => [⟨"MAXDUR", 31, 16, .rwl, 10000⟩, ⟨"MINDUR", 15, 0, .rwl, 100⟩]
  | .qceCtxcfg => [⟨"LOCK", 31, 31, .w1s, 0⟩, ⟨"SHMAX", 23, 16, .rwl, 128⟩, ⟨"RSVIO", 13, 8, .rwl, 16⟩, ⟨"RSVADM", 7, 4, .rwl, 8⟩]
  | .qceCtxstat => [⟨"SHEMPTY", 31, 31, .w1c, 0⟩, ⟨"SHFREE", 20, 0, .ro, 1032192⟩]
  | .qceRlstat => [⟨"SPILLEV", 31, 31, .w1c, 0⟩, ⟨"FREE", 18, 0, .ro, 262144⟩]
  | .qceRlwait => [⟨"WAITING", 19, 0, .ro, 0⟩]
  | .ptxOasiscfg => [⟨"FORCEUNP", 16, 16, .rw, 0⟩, ⟨"UNPMAX", 13, 8, .rwl, 16⟩, ⟨"PROTMAX", 4, 0, .rwl, 24⟩]
  | .ptxOasisstat => [⟨"UNP", 31, 31, .ro, 1⟩, ⟨"SWEV", 30, 30, .w1c, 0⟩, ⟨"REASON", 29, 27, .ro, 0⟩, ⟨"DIRTY", 25, 13, .ro, 0⟩, ⟨"DRAINPEND", 12, 0, .ro, 0⟩]
  | .qceQpool _ => [⟨"POOL", 30, 16, .rwl, 0⟩, ⟨"QPDEF", 8, 0, .rwl, 0⟩]
  | .tasCfg => [⟨"LOCK", 31, 31, .w1s, 0⟩, ⟨"WCOST", 11, 8, .rwl, 4⟩, ⟨"RCLCHG", 0, 0, .rwl, 1⟩]
  | .tasRdwin => [⟨"RDWIN", 19, 0, .rwl, 32768⟩]
  | .tasEpoch => [⟨"COUNT", 31, 0, .ro, 0⟩]
  | .tasRclorph => [⟨"WU", 31, 0, .ro, 0⟩]
  | .tasLcbud m => [⟨"BUDHI", 31, 16, .rw, [150, 300, 1000, 50000].getD m 0⟩, ⟨"BUDLO", 15, 0, .rw, [100, 200, 500, 5000].getD m 0⟩]
  | .tasShsel => [⟨"BUSY", 31, 31, .ro, 0⟩, ⟨"ERR", 30, 30, .w1c, 0⟩, ⟨"PEND", 11, 11, .ro, 0⟩, ⟨"INST", 10, 0, .rw, 0⟩]
  | .tasShdata0 => [⟨"LCDEF", 26, 24, .rw, 4⟩, ⟨"LCMASK", 23, 16, .rw, 255⟩, ⟨"WEIGHT", 10, 0, .rw, 64⟩]
  | .tasShdata1 => [⟨"IOPSLIM", 19, 0, .rw, 0⟩]
  | .tasShdata2 => [⟨"BURST", 31, 24, .rw, 10⟩, ⟨"RCLBKT", 23, 23, .rw, 0⟩, ⟨"BWLIM", 19, 0, .rw, 0⟩]
  | .tasShcmd => [⟨"LOAD", 1, 1, .wo, 0⟩, ⟨"STAGE", 0, 0, .wo, 0⟩]
  | .ptxMapstat => [⟨"TOTAL", 31, 16, .ro, 0⟩, ⟨"FREE", 15, 0, .ro, 0⟩]
  | .ptxBarstat => [⟨"FDPEN", 31, 31, .ro, 0⟩, ⟨"POOLFREE", 28, 16, .ro, 4063⟩, ⟨"WPFREE", 15, 0, .ro, 0⟩]
  | .ptxSteercfg => [⟨"EN", 31, 31, .rw, 1⟩, ⟨"HOLDMAX", 27, 16, .rw, 200⟩, ⟨"RDTHR", 7, 0, .rw, 4⟩]
  | .ptxRclcfg => [⟨"LOCK", 31, 31, .w1s, 0⟩, ⟨"MODE", 28, 28, .rwl, 0⟩, ⟨"AGEW", 26, 24, .rw, 1⟩, ⟨"WEARW", 22, 20, .rw, 2⟩, ⟨"RCLBG", 15, 8, .rw, 25⟩, ⟨"KERASE", 7, 0, .rw, 4⟩]
  | .ptxWlcfg => [⟨"WLRATE", 31, 24, .rw, 10⟩, ⟨"WLGAP", 11, 0, .rw, 150⟩]
  | .ptxRclthr => [⟨"RCLSTART", 31, 16, .rw, 256⟩, ⟨"RCLURG", 15, 0, .rw, 64⟩]
  | .ptxRclstat => [⟨"CAPST", 31, 29, .ro, 0⟩, ⟨"WPEV", 28, 28, .w1c, 0⟩, ⟨"VICTIMS", 27, 24, .ro, 0⟩, ⟨"RSVLOW", 23, 16, .ro, 0⟩, ⟨"FBE", 15, 0, .ro, 0⟩]
  | .ptxCkptcfg => [⟨"JTIME", 23, 16, .rw, 10⟩, ⟨"CKPTJ", 4, 0, .rwl, 8⟩]
  | .ptxCkptstat => [⟨"INPROG", 31, 31, .ro, 0⟩, ⟨"FORCE", 30, 30, .wo, 0⟩, ⟨"HELD", 29, 29, .ro, 0⟩, ⟨"JLEN", 19, 0, .ro, 0⟩]
  | .ptxWadistat => [⟨"RDY", 31, 31, .ro, 0⟩, ⟨"HELD", 30, 30, .ro, 0⟩, ⟨"ERASED", 15, 0, .ro, 0⟩]
  | .mbeChcfg _ => [⟨"LOCK", 31, 31, .w1s, 0⟩, ⟨"RATE", 27, 24, .rwl, 0⟩, ⟨"CHEN", 23, 16, .rwl, 0⟩, ⟨"CEPOP", 11, 8, .rwl, 0⟩, ⟨"LUNS", 5, 4, .rwl, 0⟩, ⟨"KIND", 3, 0, .rwl, 0⟩]
  | .mbeSchedcfg _ => [⟨"PSUSPEN", 30, 30, .rw, 1⟩, ⟨"ESUSPEN", 29, 29, .rw, 1⟩, ⟨"NESTEN", 28, 28, .rw, 1⟩, ⟨"NESTWAIT", 27, 16, .rw, 100⟩, ⟨"PHOLD", 15, 8, .rw, 50⟩, ⟨"EHOLD", 7, 0, .rw, 100⟩]
  | .mbeSchedstat _ => [⟨"HEART", 31, 16, .ro, 0⟩, ⟨"HOLDEV", 15, 15, .w1c, 0⟩, ⟨"REFEV", 14, 14, .w1c, 0⟩, ⟨"SUSPECT", 7, 0, .ro, 0⟩]
  | .mbeSeqstat _ => [⟨"STATE", 31, 28, .ro, 0⟩, ⟨"REFUSED", 23, 16, .ro, 0⟩, ⟨"WDGCNT", 15, 8, .ro, 0⟩, ⟨"BUSY", 5, 0, .ro, 0⟩]
  | .dipCfg => [⟨"LOCK", 31, 31, .w1s, 0⟩, ⟨"HRETRY", 27, 24, .rw, 4⟩, ⟨"SOFTEN", 23, 23, .rw, 1⟩, ⟨"SOFTD", 19, 16, .rw, 4⟩, ⟨"PATROLD", 15, 8, .rw, 7⟩]
  | .dipRdlim => [⟨"RDLIMS", 31, 16, .rw, 1000⟩, ⟨"RDLIMN", 15, 0, .rw, 200⟩]
  | .dipMircfg => [⟨"MIREN", 31, 31, .rw, 1⟩, ⟨"MIRBUD", 7, 0, .rw, 10⟩]
  | .dipMirstat => [⟨"EMPTYEV", 31, 31, .w1c, 0⟩, ⟨"TOKENS", 23, 0, .ro, 0⟩]
  | .dipRebcfg => [⟨"REBSHARE", 31, 24, .rw, 20⟩, ⟨"REBVAL", 23, 16, .rw, 50⟩, ⟨"REBMAX", 13, 12, .rw, 2⟩, ⟨"BADLIM", 11, 0, .rwl, 64⟩]
  | .dipStat => [⟨"REBRUN", 29, 28, .ro, 0⟩, ⟨"RETIRING", 27, 16, .ro, 0⟩, ⟨"UNRECEV", 15, 15, .w1c, 0⟩, ⟨"MISPLEV", 14, 14, .w1c, 0⟩, ⟨"RETIRED", 11, 0, .ro, 0⟩]
  | .dipPccfg => [⟨"PCEN", 31, 31, .rwl, 1⟩, ⟨"PCJOBS", 21, 16, .rw, 32⟩, ⟨"PCTMO", 15, 0, .rw, 1000⟩]
  | .mbeWmcfg _ => [⟨"INTMAX", 23, 12, .rw, 200⟩, ⟨"MARGIN", 7, 0, .rw, 10⟩]
  | .tasWmcfg => [⟨"SHTERM", 0, 0, .rw, 1⟩]
  | .mssDmcfg => [⟨"LOCK", 31, 31, .w1s, 0⟩, ⟨"RATE", 27, 24, .rwl, 0⟩, ⟨"DENS", 21, 20, .rwl, 0⟩, ⟨"RANKS", 16, 16, .rwl, 0⟩, ⟨"RETRN", 15, 15, .rw, 1⟩, ⟨"ERATHR", 7, 0, .rw, 16⟩]
  | .mssTrnctl _ => [⟨"GO", 31, 31, .wo, 0⟩, ⟨"BUSY", 30, 30, .ro, 0⟩, ⟨"OP", 25, 24, .rw, 0⟩, ⟨"PAT", 23, 21, .rw, 0⟩, ⟨"RANK", 20, 20, .rw, 0⟩, ⟨"CBERR", 15, 8, .ro, 0⟩, ⟨"COUNT", 7, 0, .rw, 1⟩]
  | .mssTrnusr _ => [⟨"USR", 31, 0, .rw, 1431677610⟩]
  | .mssTrnres _ => [⟨"DQERR", 31, 0, .ro, 0⟩]
  | .mssDmstat => [⟨"READY", 31, 31, .ro, 0⟩, ⟨"FULLTRN", 30, 30, .ro, 0⟩, ⟨"STALE", 29, 29, .ro, 0⟩, ⟨"TRNOK", 27, 16, .ro, 0⟩, ⟨"CAPG", 8, 0, .ro, 0⟩]
  | .mssEccstat _ => [⟨"CECNT", 31, 16, .ro, 0⟩, ⟨"ERADEV1", 15, 12, .ro, 15⟩, ⟨"ERADEV0", 11, 8, .ro, 15⟩, ⟨"UECNT", 7, 0, .ro, 0⟩]
  | .mssVbclr0 => [⟨"BASE", 26, 0, .rw, 0⟩]
  | .mssVbclr1 => [⟨"GO", 31, 31, .wo, 0⟩, ⟨"BUSY", 30, 30, .ro, 0⟩, ⟨"ERR", 29, 29, .w1c, 0⟩, ⟨"COUNT", 26, 0, .rw, 0⟩]
  | .mssScrubcfg => [⟨"PATEN", 31, 31, .rw, 1⟩, ⟨"LAPH", 23, 16, .rw, 24⟩, ⟨"RSRATE", 5, 0, .rw, 8⟩]
  | .mssScrubstat _ => [⟨"LAPLATE", 31, 31, .w1c, 0⟩, ⟨"LAPS", 30, 16, .ro, 0⟩, ⟨"LASTLAP", 15, 0, .ro, 0⟩]
  | .mssRsbase => [⟨"BASE", 26, 0, .rw, 0⟩]
  | .mssRsctl => [⟨"GO", 31, 31, .wo, 0⟩, ⟨"BUSY", 30, 30, .ro, 0⟩, ⟨"STOPPED", 29, 29, .ro, 0⟩, ⟨"ERR", 28, 28, .w1c, 0⟩, ⟨"COUNT", 26, 0, .rw, 0⟩]
  | .mssRssum0 => [⟨"DONE", 26, 0, .ro, 0⟩]
  | .mssRssum1 => [⟨"CE", 31, 16, .ro, 0⟩, ⟨"UE", 15, 0, .ro, 0⟩]
  | .mssRssum2 => [⟨"FUEV", 31, 31, .ro, 0⟩, ⟨"FIRSTUE", 26, 0, .ro, 0⟩]
  | .mssPagecfg => [⟨"PDIDLE", 15, 8, .rw, 64⟩, ⟨"PAGEIDLE", 7, 0, .rw, 8⟩]
  | .mssRhcfg => [⟨"RHTHR", 29, 16, .rwl, 1024⟩, ⟨"HOTGAP", 13, 8, .rwl, 40⟩, ⟨"RAATHR", 7, 0, .rwl, 32⟩]
  | .mssRhstat _ => [⟨"HOTEV", 31, 31, .w1c, 0⟩, ⟨"LASTREQ", 23, 19, .ro, 0⟩, ⟨"RFMCNT", 15, 0, .ro, 0⟩]
  | .mssSramstat => [⟨"UEV", 31, 26, .w1c, 0⟩, ⟨"CE", 23, 0, .ro, 0⟩]
  | .mssStgcfg => [⟨"PCMAX", 31, 28, .rwl, 12⟩, ⟨"MIRMAX", 27, 23, .rwl, 16⟩, ⟨"MIRMIN", 22, 18, .rwl, 4⟩, ⟨"INTMIN", 13, 7, .rwl, 24⟩, ⟨"HOSTMIN", 6, 0, .rwl, 48⟩]
  | .mssStgstat => [⟨"PCUSE", 27, 21, .ro, 0⟩, ⟨"MIRUSE", 20, 14, .ro, 0⟩, ⟨"INTUSE", 13, 7, .ro, 0⟩, ⟨"HOSTUSE", 6, 0, .ro, 0⟩]
  | .secXtsstat => [⟨"KATFAIL", 31, 31, .w1c, 0⟩, ⟨"CHKEV", 30, 30, .w1c, 0⟩, ⟨"WFENCE", 27, 16, .ro, 0⟩, ⟨"RFENCE", 11, 0, .ro, 0⟩]
  | .secCfg => [⟨"LOCK", 31, 31, .w1s, 0⟩, ⟨"VGSENS", 2, 1, .rwl, 1⟩, ⟨"KPIOEN", 0, 0, .rwl, 1⟩]
  | .secSealctl => [⟨"GO", 31, 31, .wo, 0⟩, ⟨"BUSY", 30, 30, .ro, 0⟩, ⟨"ERR", 29, 29, .w1c, 0⟩, ⟨"AUTHFAIL", 28, 28, .w1c, 0⟩, ⟨"DIR", 27, 27, .rw, 0⟩, ⟨"FIRST", 26, 26, .rw, 1⟩, ⟨"LAST", 25, 25, .rw, 1⟩, ⟨"OP", 24, 22, .rw, 0⟩, ⟨"SLOT", 15, 0, .rw, 0⟩]
  | .secSeallen => [⟨"ALEN", 28, 16, .rw, 0⟩, ⟨"CLEN", 12, 0, .rw, 0⟩]
  | .secSealiv _ => [⟨"IV", 31, 0, .rw, 0⟩]
  | .secSealtag _ => [⟨"TAG", 31, 0, .rw, 0⟩]
  | .secSealkey _ => [⟨"KEY", 31, 0, .wo, 0⟩]
  | .secSeallock => [⟨"KVALID", 2, 2, .ro, 0⟩, ⟨"KCLR", 1, 1, .wo, 0⟩, ⟨"KLOCK", 0, 0, .w1s, 0⟩]
  | .secAlarmstat => [⟨"ZEROED", 31, 31, .ro, 0⟩, ⟨"PREV", 4, 4, .ro, 0⟩, ⟨"DBG", 3, 3, .ro, 0⟩, ⟨"ROUND", 2, 2, .ro, 0⟩, ⟨"CLK", 1, 1, .ro, 0⟩, ⟨"VOLT", 0, 0, .ro, 0⟩]
  | .secBrctl => [⟨"FIN", 31, 31, .wo, 0⟩, ⟨"BUSY", 30, 30, .ro, 0⟩, ⟨"DONE", 29, 29, .ro, 0⟩, ⟨"DROP", 28, 28, .w1c, 0⟩, ⟨"SEQLO", 27, 0, .ro, 0⟩]
  | .mgcCfg => [⟨"LOCK", 31, 31, .w1s, 0⟩, ⟨"XIPOFF", 30, 30, .w1s, 0⟩, ⟨"ACRUN", 7, 0, .ro, 0⟩]
  | .mgcSvcfrom => [⟨"INWIN", 31, 31, .ro, 0⟩, ⟨"SELFEV", 30, 30, .w1c, 0⟩, ⟨"FROMLO", 27, 0, .ro, 0⟩]
  | .mgcFscstat => [⟨"STATE", 31, 29, .ro, 0⟩, ⟨"FAILEV", 28, 28, .w1c, 0⟩, ⟨"NOTEREV", 27, 27, .w1c, 0⟩, ⟨"LAST", 26, 24, .ro, 0⟩, ⟨"ESUSP", 23, 16, .ro, 0⟩, ⟨"SECTOR", 10, 0, .ro, 0⟩]
  | .mgcFscprot => [⟨"S2WP", 31, 31, .rw, 1⟩, ⟨"RUNSLOT", 1, 0, .ro, 0⟩]
  | .mgcActstat => [⟨"PHASE", 31, 30, .ro, 0⟩, ⟨"ABORTEV", 29, 29, .w1c, 0⟩, ⟨"NEXT", 25, 24, .ro, 0⟩, ⟨"LASTPAUSE", 21, 0, .ro, 0⟩]
  | .mgcSbicfg => [⟨"MCTPADDR", 30, 24, .rwl, 29⟩, ⟨"AHADDR", 22, 16, .rwl, 92⟩, ⟨"AHEN", 15, 15, .rwl, 1⟩, ⟨"AHWR", 14, 14, .rwl, 0⟩, ⟨"I3CEN", 13, 13, .rwl, 1⟩, ⟨"SMBEN", 12, 12, .rwl, 1⟩, ⟨"SMBSPD", 11, 10, .rwl, 1⟩]
  | .ptmHuecfg => [⟨"LOCK", 31, 31, .w1s, 0⟩, ⟨"EPROT", 23, 16, .rwl, 80⟩, ⟨"EDEG", 15, 8, .rwl, 64⟩, ⟨"HTPER", 7, 0, .rw, 24⟩]
  | .ptmHuestat => [⟨"STATE", 31, 29, .ro, 0⟩, ⟨"TESTFAIL", 28, 28, .ro, 0⟩, ⟨"TESTGO", 27, 27, .wo, 0⟩, ⟨"TESTRUN", 26, 26, .ro, 0⟩, ⟨"PFEV", 25, 25, .w1c, 0⟩, ⟨"ENERGY", 15, 0, .ro, 0⟩]
  | .ptmThrcfg => [⟨"TSPAN", 31, 28, .rwl, 9⟩, ⟨"RFLOOR", 23, 16, .rwl, 25⟩, ⟨"CFLOOR", 15, 8, .rwl, 25⟩, ⟨"WFLOOR", 7, 0, .rwl, 20⟩]
  | .ptmTstart => [⟨"JSTART", 23, 16, .rwl, 95⟩, ⟨"NSTART", 15, 8, .rwl, 75⟩, ⟨"DSTART", 7, 0, .rwl, 85⟩]
  | .ptmThrstat => [⟨"STAGE", 31, 30, .ro, 0⟩, ⟨"RORACT", 29, 29, .ro, 0⟩, ⟨"ACTEV", 28, 28, .w1c, 0⟩, ⟨"JBAND", 26, 24, .ro, 0⟩, ⟨"LEVEL", 23, 16, .ro, 0⟩, ⟨"TMAX", 15, 8, .ro, 0⟩, ⟨"SRC", 7, 6, .ro, 0⟩]
  | .ptmSnstrust => [⟨"UNTRUST", 23, 0, .ro, 0⟩]
  | .ptmNband => [⟨"NOSNS", 31, 24, .ro, 0⟩, ⟨"NBAND", 23, 0, .ro, 0⟩]
  | .fevFfqstat => [⟨"CLR", 31, 31, .wo, 0⟩, ⟨"OVFL", 15, 8, .ro, 0⟩, ⟨"COUNT", 5, 0, .ro, 0⟩]
  | .fevFfqsel => [⟨"IDX", 4, 0, .rw, 0⟩]
  | .fevFfqdata _ => [⟨"DATA", 31, 0, .ro, 0⟩]
  | .fevCfg => [⟨"LOCK", 31, 31, .w1s, 0⟩, ⟨"GPIOVAL", 9, 9, .rw, 0⟩, ⟨"HBGPIO", 8, 8, .rwl, 0⟩, ⟨"SAFEHOLD", 7, 0, .rwl, 10⟩]
  | .fevStat => [⟨"SAFE", 31, 31, .ro, 0⟩, ⟨"DUMP", 30, 30, .ro, 0⟩, ⟨"HBRUN", 29, 29, .ro, 0⟩, ⟨"CSRC", 23, 16, .ro, 0⟩, ⟨"CCODE", 15, 8, .ro, 0⟩, ⟨"SAFECNT", 7, 4, .ro, 0⟩]
  | .fevLogstat => [⟨"ERASING", 31, 31, .ro, 0⟩, ⟨"QLEN", 30, 24, .ro, 0⟩, ⟨"DROPEV", 23, 23, .w1c, 0⟩, ⟨"NOSLOT", 18, 18, .ro, 0⟩, ⟨"NEXTIDX", 17, 0, .ro, 0⟩]
  | .fevLogdrop => [⟨"DROP3", 31, 24, .ro, 0⟩, ⟨"DROP2", 23, 16, .ro, 0⟩, ⟨"DROP1", 15, 8, .ro, 0⟩, ⟨"DROP0", 7, 0, .ro, 0⟩]
  | .fevEvwrhdr => [⟨"GO", 31, 31, .wo, 0⟩, ⟨"BUSY", 30, 30, .ro, 0⟩, ⟨"ERR", 29, 29, .w1c, 0⟩, ⟨"SEV", 25, 24, .rw, 0⟩, ⟨"OBJTYPE", 23, 20, .rw, 0⟩, ⟨"CODE", 7, 0, .rw, 0⟩]
  | .fevEvwrpay _ => [⟨"PAY", 31, 0, .rw, 0⟩]
  | .mgcRstctl => [⟨"SHUT", 31, 31, .wo, 0⟩, ⟨"DEVRST", 30, 30, .wo, 0⟩, ⟨"SHBUSY", 29, 29, .ro, 0⟩, ⟨"QUIESCED", 28, 28, .ro, 0⟩, ⟨"LASTCOLD", 25, 24, .ro, 0⟩, ⟨"SHTIME", 23, 0, .ro, 0⟩]
  | .mgcBootstat => [⟨"PHASE", 31, 28, .ro, 0⟩, ⟨"DUMP", 27, 27, .ro, 0⟩, ⟨"RESTART", 26, 26, .ro, 0⟩, ⟨"STRAPS", 23, 16, .ro, 0⟩, ⟨"RDYTIME", 15, 0, .ro, 0⟩]
  | .mgcCsrerr => [⟨"ERREV", 31, 31, .w1c, 0⟩, ⟨"REASON", 30, 28, .ro, 0⟩, ⟨"REQ", 25, 22, .ro, 0⟩, ⟨"ADDR", 21, 0, .ro, 0⟩]

/-- The block a register belongs to. -/
def Reg.block : Reg → Block
  | .hfuLgcfg | .hfuInstcfg _ | .hfuLinkstat _ | .hfuErrcnt _ | .hfuLeasecfg => .hfu
  | .qceCtxcfg | .qceCtxstat | .qceRlstat | .qceRlwait | .qceQpool _ => .qce
  | .tasCfg | .tasRdwin | .tasEpoch | .tasRclorph | .tasLcbud _ | .tasShsel | .tasShdata0 | .tasShdata1 | .tasShdata2 | .tasShcmd | .tasWmcfg => .tas
  | .ptxOasiscfg | .ptxOasisstat | .ptxMapstat | .ptxBarstat | .ptxSteercfg | .ptxRclcfg | .ptxWlcfg | .ptxRclthr | .ptxRclstat | .ptxCkptcfg | .ptxCkptstat | .ptxWadistat => .ptx
  | .mbeChcfg _ | .mbeSchedcfg _ | .mbeSchedstat _ | .mbeSeqstat _ | .mbeWmcfg _ => .mbe
  | .dipCfg | .dipRdlim | .dipMircfg | .dipMirstat | .dipRebcfg | .dipStat | .dipPccfg => .dip
  | .mssDmcfg | .mssTrnctl _ | .mssTrnusr _ | .mssTrnres _ | .mssDmstat | .mssEccstat _ | .mssVbclr0 | .mssVbclr1 | .mssScrubcfg | .mssScrubstat _ | .mssRsbase | .mssRsctl | .mssRssum0 | .mssRssum1 | .mssRssum2 | .mssPagecfg | .mssRhcfg | .mssRhstat _ | .mssSramstat | .mssStgcfg | .mssStgstat => .mss
  | .secXtsstat | .secCfg | .secSealctl | .secSeallen | .secSealiv _ | .secSealtag _ | .secSealkey _ | .secSeallock | .secAlarmstat | .secBrctl => .sec
  | .mgcCfg | .mgcSvcfrom | .mgcFscstat | .mgcFscprot | .mgcActstat | .mgcSbicfg | .mgcRstctl | .mgcBootstat | .mgcCsrerr => .mgc
  | .ptmHuecfg | .ptmHuestat | .ptmThrcfg | .ptmTstart | .ptmThrstat | .ptmSnstrust | .ptmNband => .ptm
  | .fevDevwdg | .fevEscstat | .fevFfqstat | .fevFfqsel | .fevFfqdata _ | .fevCfg | .fevStat | .fevLogstat | .fevLogdrop | .fevEvwrhdr | .fevEvwrpay _ => .fev

/-- A run of registers in CSR space: the address of instance 0, the stride, the number of instances, and the register. -/
structure AddrRun where
  base : Nat
  stride : Nat
  count : Nat
  reg : Nat → Reg

/-- The device-page registers of R492 for HFU, QCE, TAS, PTX, MBE and DIP. -/
def addrRunsA : List AddrRun := [
  ⟨0x40000000, 0x8, 1, fun _ => .hfuLgcfg⟩,
  ⟨0x40000010, 0x8, 1, fun _ => .hfuLeasecfg⟩,
  ⟨0x40000100, 0x20, 4, .hfuInstcfg⟩,
  ⟨0x40000108, 0x20, 4, .hfuLinkstat⟩,
  ⟨0x40000110, 0x20, 4, .hfuErrcnt⟩,
  ⟨0x40010000, 0x8, 1, fun _ => .qceCtxcfg⟩,
  ⟨0x40010008, 0x8, 1, fun _ => .qceCtxstat⟩,
  ⟨0x40010010, 0x8, 1, fun _ => .qceRlstat⟩,
  ⟨0x40010018, 0x8, 1, fun _ => .qceRlwait⟩,
  ⟨0x40010020, 0x8, 4, .qceQpool⟩,
  ⟨0x40020000, 0x8, 1, fun _ => .tasCfg⟩,
  ⟨0x40020008, 0x8, 1, fun _ => .tasRdwin⟩,
  ⟨0x40020010, 0x8, 4, .tasLcbud⟩,
  ⟨0x40020030, 0x8, 1, fun _ => .tasEpoch⟩,
  ⟨0x40020038, 0x8, 1, fun _ => .tasRclorph⟩,
  ⟨0x40020040, 0x8, 1, fun _ => .tasWmcfg⟩,
  ⟨0x40020100, 0x8, 1, fun _ => .tasShsel⟩,
  ⟨0x40020108, 0x8, 1, fun _ => .tasShdata0⟩,
  ⟨0x40020110, 0x8, 1, fun _ => .tasShdata1⟩,
  ⟨0x40020118, 0x8, 1, fun _ => .tasShdata2⟩,
  ⟨0x40020120, 0x8, 1, fun _ => .tasShcmd⟩,
  ⟨0x40030100, 0x8, 1, fun _ => .ptxOasiscfg⟩,
  ⟨0x40030108, 0x8, 1, fun _ => .ptxOasisstat⟩,
  ⟨0x40030200, 0x8, 1, fun _ => .ptxMapstat⟩,
  ⟨0x40030208, 0x8, 1, fun _ => .ptxBarstat⟩,
  ⟨0x40030210, 0x8, 1, fun _ => .ptxSteercfg⟩,
  ⟨0x40030300, 0x8, 1, fun _ => .ptxRclcfg⟩,
  ⟨0x40030308, 0x8, 1, fun _ => .ptxRclthr⟩,
  ⟨0x40030310, 0x8, 1, fun _ => .ptxRclstat⟩,
  ⟨0x40030318, 0x8, 1, fun _ => .ptxWlcfg⟩,
  ⟨0x40030320, 0x8, 1, fun _ => .ptxCkptcfg⟩,
  ⟨0x40030328, 0x8, 1, fun _ => .ptxCkptstat⟩,
  ⟨0x40030400, 0x8, 1, fun _ => .ptxWadistat⟩,
  ⟨0x41400000, 0x1000, 8, .mbeChcfg⟩,
  ⟨0x41400008, 0x1000, 8, .mbeSchedcfg⟩,
  ⟨0x41400010, 0x1000, 8, .mbeSchedstat⟩,
  ⟨0x41400018, 0x1000, 8, .mbeWmcfg⟩,
  ⟨0x41440000, 0x1000, 64, .mbeSeqstat⟩,
  ⟨0x40050000, 0x8, 1, fun _ => .dipCfg⟩,
  ⟨0x40050008, 0x8, 1, fun _ => .dipRdlim⟩,
  ⟨0x40050010, 0x8, 1, fun _ => .dipMircfg⟩,
  ⟨0x40050018, 0x8, 1, fun _ => .dipMirstat⟩,
  ⟨0x40050020, 0x8, 1, fun _ => .dipRebcfg⟩,
  ⟨0x40050028, 0x8, 1, fun _ => .dipPccfg⟩,
  ⟨0x40050100, 0x8, 1, fun _ => .dipStat⟩,
  ⟨0x40060000, 0x8, 1, fun _ => .mssDmcfg⟩,
  ⟨0x40060008, 0x8, 1, fun _ => .mssPagecfg⟩,
  ⟨0x40060010, 0x8, 1, fun _ => .mssDmstat⟩,
  ⟨0x40060100, 0x8, 1, fun _ => .mssVbclr0⟩,
  ⟨0x40060108, 0x8, 1, fun _ => .mssVbclr1⟩,
  ⟨0x40060200, 0x8, 1, fun _ => .mssScrubcfg⟩]

/-- The rest of the register index of R492. -/
def addrRunsB : List AddrRun := [
  ⟨0x40060210, 0x8, 1, fun _ => .mssRsbase⟩,
  ⟨0x40060218, 0x8, 1, fun _ => .mssRsctl⟩,
  ⟨0x40060220, 0x8, 1, fun _ => .mssRssum0⟩,
  ⟨0x40060228, 0x8, 1, fun _ => .mssRssum1⟩,
  ⟨0x40060230, 0x8, 1, fun _ => .mssRssum2⟩,
  ⟨0x40060300, 0x8, 1, fun _ => .mssRhcfg⟩,
  ⟨0x40060400, 0x8, 1, fun _ => .mssStgcfg⟩,
  ⟨0x40060408, 0x8, 1, fun _ => .mssStgstat⟩,
  ⟨0x40060500, 0x8, 1, fun _ => .mssSramstat⟩,
  ⟨0x41600000, 0x1000, 12, .mssEccstat⟩,
  ⟨0x41600008, 0x1000, 12, .mssScrubstat⟩,
  ⟨0x41600010, 0x1000, 12, .mssTrnctl⟩,
  ⟨0x41600018, 0x1000, 12, .mssTrnusr⟩,
  ⟨0x41600020, 0x1000, 12, .mssTrnres⟩,
  ⟨0x41600028, 0x1000, 12, .mssRhstat⟩,
  ⟨0x40070000, 0x8, 1, fun _ => .secCfg⟩,
  ⟨0x40070010, 0x8, 1, fun _ => .secXtsstat⟩,
  ⟨0x40070108, 0x8, 1, fun _ => .secAlarmstat⟩,
  ⟨0x40070120, 0x8, 1, fun _ => .secBrctl⟩,
  ⟨0x40070200, 0x8, 1, fun _ => .secSealctl⟩,
  ⟨0x40070208, 0x8, 1, fun _ => .secSeallen⟩,
  ⟨0x40070220, 0x8, 3, .secSealiv⟩,
  ⟨0x40070240, 0x8, 4, .secSealtag⟩,
  ⟨0x40070280, 0x8, 8, .secSealkey⟩,
  ⟨0x40070300, 0x8, 1, fun _ => .secSeallock⟩,
  ⟨0x40080000, 0x8, 1, fun _ => .mgcCfg⟩,
  ⟨0x40080010, 0x8, 1, fun _ => .mgcSvcfrom⟩,
  ⟨0x40080100, 0x8, 1, fun _ => .mgcFscstat⟩,
  ⟨0x40080108, 0x8, 1, fun _ => .mgcFscprot⟩,
  ⟨0x40080200, 0x8, 1, fun _ => .mgcActstat⟩,
  ⟨0x40080300, 0x8, 1, fun _ => .mgcSbicfg⟩,
  ⟨0x40080400, 0x8, 1, fun _ => .mgcRstctl⟩,
  ⟨0x40080408, 0x8, 1, fun _ => .mgcBootstat⟩,
  ⟨0x40080500, 0x8, 1, fun _ => .mgcCsrerr⟩,
  ⟨0x40090000, 0x8, 1, fun _ => .ptmHuecfg⟩,
  ⟨0x40090008, 0x8, 1, fun _ => .ptmHuestat⟩,
  ⟨0x40090100, 0x8, 1, fun _ => .ptmThrcfg⟩,
  ⟨0x40090108, 0x8, 1, fun _ => .ptmTstart⟩,
  ⟨0x40090110, 0x8, 1, fun _ => .ptmThrstat⟩,
  ⟨0x40090118, 0x8, 1, fun _ => .ptmSnstrust⟩,
  ⟨0x40090120, 0x8, 1, fun _ => .ptmNband⟩,
  ⟨0x400A0000, 0x8, 1, fun _ => .fevCfg⟩,
  ⟨0x400A0008, 0x8, 1, fun _ => .fevStat⟩,
  ⟨0x400A0100, 0x8, 1, fun _ => .fevFfqstat⟩,
  ⟨0x400A0108, 0x8, 1, fun _ => .fevFfqsel⟩,
  ⟨0x400A0110, 0x8, 4, .fevFfqdata⟩,
  ⟨0x400A0200, 0x8, 1, fun _ => .fevDevwdg⟩,
  ⟨0x400A0208, 0x8, 1, fun _ => .fevEscstat⟩,
  ⟨0x400A0300, 0x8, 1, fun _ => .fevLogstat⟩,
  ⟨0x400A0308, 0x8, 1, fun _ => .fevLogdrop⟩,
  ⟨0x400A0400, 0x8, 1, fun _ => .fevEvwrhdr⟩,
  ⟨0x400A0408, 0x8, 8, .fevEvwrpay⟩]

/-- The register index of R492, with the replicated registers as runs. -/
def addrRuns : List AddrRun := addrRunsA ++ addrRunsB

/-- The instance of a run that stands at an address, if one does. -/
def AddrRun.at? (a : AddrRun) (addr : Nat) : Option Reg :=
  if a.base ≤ addr ∧ (addr - a.base) % a.stride = 0 ∧ (addr - a.base) / a.stride < a.count then
    some (a.reg ((addr - a.base) / a.stride))
  else none

/-- The register whose slot starts at an address (R485, R492). -/
def regAt? (addr : Nat) : Option Reg := addrRuns.findSome? fun a => a.at? addr

/-- The reset value of a register: every field at its reset value, reserved bits 0. -/
def Reg.resetValue (r : Reg) : W32 := r.fields.foldl (fun w f => w.setBits f.hi f.lo f.reset) 0

/-- The lock bit that freezes the RWL fields of a register (R489): the register that holds it and its bit. -/
def Reg.lock : Reg → Option Reg
  | .mbeChcfg k => some (.mbeChcfg k)
  | .mgcSbicfg => some .mgcCfg
  | r =>
    match r.block with
    | .hfu => some .hfuLgcfg
    | .qce => some .qceCtxcfg
    | .tas => some .tasCfg
    | .ptx => some .ptxRclcfg
    | .mbe => none
    | .dip => some .dipCfg
    | .mss => some .mssDmcfg
    | .sec => some .secCfg
    | .mgc => some .mgcCfg
    | .ptm => some .ptmHuecfg
    | .fev => some .fevCfg

/-- The values a field takes (its manual's "a write … is ignored" turned round); a field not listed takes every value of its
width. Arguments: the register, the low bit of the field, the value. -/
def Reg.takes : Reg → Nat → Nat → Bool
  | .qceCtxcfg, 16, v => v != 0
  | .qceCtxcfg, 8, v => decide (1 ≤ v ∧ v ≤ 48)
  | .qceCtxcfg, 4, v => v != 0
  | .ptxOasiscfg, 8, v => decide (1 ≤ v ∧ v ≤ 63)
  | .ptxOasiscfg, 0, v => decide (1 ≤ v ∧ v ≤ 24)
  | .qceQpool _, 0, v => decide (1 ≤ v ∧ v ≤ 256)
  | .tasCfg, 8, v => v != 0
  | .tasRdwin, 0, v => decide (1024 ≤ v)
  | .tasLcbud _, _, v => v != 0
  | .ptxSteercfg, 16, v => decide (10 ≤ v ∧ v ≤ 4000)
  | .ptxSteercfg, 0, v => v != 0
  | .ptxRclcfg, 8, v => decide (1 ≤ v ∧ v ≤ 100)
  | .ptxRclcfg, 0, v => v != 0
  | .ptxWlcfg, 24, v => decide (v ≤ 100)
  | .ptxWlcfg, 0, v => decide (10 ≤ v)
  | .ptxCkptcfg, 16, v => decide (1 ≤ v ∧ v ≤ 100)
  | .ptxCkptcfg, 0, v => decide (1 ≤ v ∧ v ≤ 16)
  | .mbeChcfg _, 24, v => decide (v ≤ 9)
  | .mbeChcfg _, 8, v => decide (v ≤ 8)
  | .mbeSchedcfg _, 16, v => decide (10 ≤ v ∧ v ≤ 4000)
  | .mbeSchedcfg _, 8, v => decide (5 ≤ v)
  | .mbeSchedcfg _, 0, v => decide (10 ≤ v)
  | .dipCfg, 16, v => v != 0
  | .dipRdlim, _, v => v != 0
  | .dipMircfg, 0, v => decide (1 ≤ v ∧ v ≤ 50)
  | .dipRebcfg, 24, v => decide (1 ≤ v ∧ v ≤ 100)
  | .dipRebcfg, 16, v => decide (v ≤ 100)
  | .dipRebcfg, 12, v => v != 0
  | .dipRebcfg, 0, v => v != 0
  | .dipPccfg, 16, v => decide (1 ≤ v ∧ v ≤ 32)
  | .dipPccfg, 0, v => v != 0
  | .mbeWmcfg _, 12, v => decide (10 ≤ v)
  | .mssDmcfg, 24, v => decide (v ≤ 5)
  | .mssDmcfg, 20, v => v != 3
  | .mssDmcfg, 0, v => decide (2 ≤ v)
  | .mssTrnctl _, 0, v => v != 0
  | .mssScrubcfg, 16, v => v != 0
  | .mssScrubcfg, 0, v => decide (1 ≤ v ∧ v ≤ 32)
  | .mssRhcfg, 16, v => decide (128 ≤ v)
  | .mssRhcfg, 8, v => decide (5 ≤ v ∧ v ≤ 50)
  | .mssRhcfg, 0, v => decide (8 ≤ v)
  | .secCfg, 1, v => v != 3
  | .mgcSbicfg, 16, v => v != 0x1D && v != 0x6A
  | .mgcSbicfg, 10, v => v != 3
  | .ptmHuecfg, 0, v => decide (1 ≤ v ∧ v ≤ 168)
  | .ptmThrcfg, 28, v => decide (3 ≤ v)
  | .ptmThrcfg, _, v => decide (5 ≤ v ∧ v ≤ 100)
  | .ptmTstart, 16, v => decide (70 ≤ v ∧ v ≤ 95)
  | .ptmTstart, 8, v => decide (60 ≤ v ∧ v ≤ 85)
  | .ptmTstart, 0, v => decide (70 ≤ v ∧ v ≤ 95)
  | _, _, _ => true

/-- A W1C field that is a counter: "writing 1 to every bit clears the field". -/
def Reg.isCounterField : Reg → Bool
  | .hfuErrcnt _ => true
  | _ => false

/-- The stored part of a block's registers. A register that is not listed holds its reset value. -/
abbrev RegFile := List (Reg × W32)

/-- The stored value of a register. -/
def RegFile.get (rf : RegFile) (r : Reg) : W32 :=
  match rf with
  | [] => r.resetValue
  | (q, w) :: rest => if q = r then w else RegFile.get rest r

/-- The register file with a register set. -/
def RegFile.set (rf : RegFile) (r : Reg) (w : W32) : RegFile :=
  match rf with
  | [] => [(r, w)]
  | (q, v) :: rest => if q = r then (r, w) :: rest else (q, v) :: RegFile.set rest r w

/-- Bits `hi` to `lo` of a register. -/
def RegFile.fld (rf : RegFile) (r : Reg) (hi lo : Nat) : Nat := (rf.get r).bits hi lo

/-- The register file with bits `hi` to `lo` of a register set to `v`. -/
def RegFile.setFld (rf : RegFile) (r : Reg) (hi lo v : Nat) : RegFile := rf.set r ((rf.get r).setBits hi lo v)

/-- A counting field raised by `n`, stopping at its largest value. -/
def RegFile.satFld (rf : RegFile) (r : Reg) (hi lo n : Nat) : RegFile :=
  rf.setFld r hi lo (satAdd (2 ^ (hi + 1 - lo) - 1) (rf.fld r hi lo) n)

/-- Whether a bit of a register is 1. -/
def RegFile.bit (rf : RegFile) (r : Reg) (b : Nat) : Bool := rf.fld r b b == 1

/-- The value one field takes on a register write of `v` (R12). `locked`: the owning lock bit is set. -/
def fieldWrite (r : Reg) (locked : Bool) (old v : W32) (f : FieldSpec) : W32 :=
  let x := v.bits f.hi f.lo
  match f.acc with
  | .rw => if r.takes f.lo x then old.setBits f.hi f.lo x else old
  | .rwl => if !locked && r.takes f.lo x then old.setBits f.hi f.lo x else old
  | .w1c =>
    if r.isCounterField then
      if x = 2 ^ (f.hi + 1 - f.lo) - 1 then old.setBits f.hi f.lo 0 else old
    else old &&& ~~~ (v &&& maskOf f.hi f.lo)
  | .w1s => old ||| (v &&& maskOf f.hi f.lo)
  | .ro => old
  | .wo => old

/-- A whole register after a write of `v`: every field by its access code (R12). -/
def Reg.write (r : Reg) (locked : Bool) (old v : W32) : W32 := r.fields.foldl (fun w f => fieldWrite r locked w v f) old

/-- Whether a write would change a locked RWL field (R488). -/
def Reg.changesLocked (r : Reg) (old v : W32) : Bool :=
  r.fields.any fun f => f.acc = .rwl && r.takes f.lo (v.bits f.hi f.lo) && v.bits f.hi f.lo != old.bits f.hi f.lo

end Sys2Proof.Machine
end

