-- ==== Sys2Proof/Machine/Bytes.lean ====
section
/-! DEFINITION. Byte strings of data structures and log pages: little-endian fields (R10) and the CRC-32C that event
records, dump structures and image headers carry. -/

namespace Sys2Proof.Machine

/-- The `n` low bytes of a number, least significant first (R10). -/
def leBytes : Nat → Nat → List Byte
  | 0, _ => []
  | n + 1, v => BitVec.ofNat 8 v :: leBytes n (v / 256)

/-- The number a little-endian byte string spells. -/
def leNat : List Byte → Nat
  | [] => 0
  | b :: rest => b.toNat + 256 * leNat rest

/-- `n` zero bytes. -/
def zeros (n : Nat) : List Byte := List.replicate n 0

/-- A byte string cut or filled with zeros to `n` bytes. -/
def fit (n : Nat) (bs : List Byte) : List Byte := bs.take n ++ zeros (n - bs.length)

/-- Bytes `lo` to `lo + n - 1` of a string, zeros beyond its end. -/
def slice (bs : List Byte) (lo n : Nat) : List Byte := fit n (bs.drop lo)

/-- One bit step of the reflected CRC-32C. -/
def crcBit (c : W32) : W32 := if c.getLsbD 0 then (c >>> 1) ^^^ 0x82F63B78#32 else c >>> 1

/-- One byte step of the reflected CRC-32C. -/
def crcByte (c : W32) (b : Byte) : W32 :=
  crcBit (crcBit (crcBit (crcBit (crcBit (crcBit (crcBit (crcBit (c ^^^ b.setWidth 32))))))))

/-- CRC-32C of a byte string. The spec names the code; its polynomial and conventions are the standard ones
(PRESUMED, log entry 3). -/
def crc32c (bs : List Byte) : Nat := (~~~ bs.foldl crcByte 0xFFFFFFFF#32).toNat

end Sys2Proof.Machine
end

