-- ==== Sys2Proof/Machine/FevTypes.lean ====
section
/-! DEFINITION. The state of FEV: reports and their classes, event records and the log, the first-fault queue, recoveries
and watchdogs, the safe state (chapters 01 and 15). -/

namespace Sys2Proof.Machine

/-- The classes of R440. -/
inductive FaultClass where
  | event | c | d | u
  deriving DecidableEq, Repr

/-- The CLASS code of an event record (R442). -/
def FaultClass.code : FaultClass → Nat
  | .event => 0 | .c => 1 | .d => 2 | .u => 3

/-- A report as FEV receives it: source and code of R444, class, severity, the object and three arguments. -/
structure Report where
  src : Nat
  code : Nat
  cls : FaultClass
  sev : Nat
  objType : Nat
  obj : Nat
  arg0 : Nat
  arg1 : Nat
  arg2 : Nat
  deriving DecidableEq, Repr

/-- The time fields an event record and a first-fault entry take (R442, R453). -/
structure Stamp where
  /-- Operating-hours counter, in seconds. -/
  hours : Nat
  /-- Power-cycle count. -/
  pcyc : Nat
  /-- Always-on counter, in units of 1/32,768 s. -/
  ticks : Nat
  deriving DecidableEq, Repr

/-- Bytes 59:24 of an event record: the ordinary fields, or one part of the boot record run (R442). -/
inductive EvBody where
  | std (objType obj arg0 arg1 arg2 : Nat)
  | bootPart (idx parts : Nat) (bytes : List Byte)
  deriving DecidableEq, Repr

/-- An event record before it has a place in the log. -/
structure EvRec where
  hours : Nat
  pcyc : Nat
  /-- 0 single, 1 first, 2 middle, 3 last of a run. -/
  part : Nat
  cls : FaultClass
  sev : Nat
  src : Nat
  code : Nat
  body : EvBody
  deriving DecidableEq, Repr

/-- How far the two programs of a record have come (R443). -/
inductive SlotStage where
  /-- The first program, with VALID = 0xFF, runs. -/
  | first
  /-- The second program, the header word with VALID = 0x00, runs. -/
  | mark
  /-- The record is complete. -/
  | valid
  /-- A program was cut off or failed: never valid. -/
  | broken
  deriving DecidableEq, Repr

/-- One programmed slot of the event log partition (R447). -/
structure Slot where
  rseq : Nat
  ev : EvRec
  stage : SlotStage
  deriving DecidableEq, Repr

/-- A record waiting for the store (R449); `extra` marks one of the 4 entries kept for U-class records. -/
structure QRec where
  ev : EvRec
  extra : Bool
  deriving DecidableEq, Repr

/-- An entry of the first-fault queue (R453). -/
structure FfqEntry where
  ticks : Nat
  src : Nat
  code : Nat
  objType : Nat
  cls : FaultClass
  sev : Nat
  obj : Nat
  deriving DecidableEq, Repr

/-- The recovery scopes of R30. -/
inductive Scope where
  | channel (n : Nat)
  | core (n : Nat)
  | cluster (k : Nat)
  | device
  deriving DecidableEq, Repr

/-- A recovery that was started, at a second of the operating-hours counter (R31). -/
structure RecStart where
  scope : Scope
  at' : Nat
  deriving DecidableEq, Repr

/-- FEV's state. -/
structure Fev where
  regs : RegFile
  /-- Programmed slots of the event log partition, by slot number 0 to 262,143 (R447). Kept across every reset. -/
  log : Tab Slot
  openSec : Nat
  ready : Option Nat
  /-- The sector whose erase runs (R448). -/
  erasing : Option Nat
  /-- The newest RSEQ given. -/
  rseq : Nat
  /-- The record whose two programs run: its slot. -/
  writing : Option Nat
  /-- Records waiting, oldest first (R449). -/
  queue : List QRec
  /-- Drops since the last FEV code 0x0A record: severities 0 and 1, 2, 3. -/
  drop01 : Nat
  drop2 : Nat
  drop3 : Nat
  /-- Slots skipped by the scan (R450). -/
  badrec : Nat
  /-- DROPPED and DROPCRIT of log page 0xC5. -/
  dropped : Nat
  dropCrit : Nat
  /-- The first-fault queue, oldest first, in the always-on domain (R453). -/
  ffq : List FfqEntry
  ffqOvfl : Nat
  /-- The safe state is in force (R445). -/
  safe : Bool
  /-- The safe state started a dump. -/
  safeDump : Bool
  /-- The safe state was caused by a thermal shutdown. -/
  safeThermal : Bool
  /-- SRC and CODE of the fault that caused the last safe state, always-on domain. -/
  csrc : Nat
  ccode : Nat
  /-- Always-on times, in 100 ns units, of the safe-state entries (SAFECNT, R446). -/
  safeEntries : List Nat
  /-- Recoveries started, newest first, for the 60 s counts of R31. -/
  starts : List RecStart
  /-- Recoveries in progress. -/
  active : List Scope
  /-- Device time of the last restart of the Cameleer watchdog count (R27, R28). -/
  kickedAt : Nat
  /-- Device time from which the Cameleer watchdog's count is held for a device recovery (R455). -/
  heldAt : Option Nat
  /-- Device time from which the heartbeat of a cluster's scheduler is checked, by cluster (R27, R455). -/
  schedFrom : Tab Nat
  /-- BADKICK of FEV_DEVWDG. -/
  badKick : Nat
  /-- A valid kick has come since the Cameleer's release: HBEAT_OUT has started (R454). -/
  hbStarted : Bool
  deriving DecidableEq, Repr

end Sys2Proof.Machine
end

