-- ==== Sys2Proof/Machine/Fev.lean ====
section
/-! DEFINITION. What FEV does with a report: its class (R440, R444), the first-fault queue (R453), the event log with its
choice of sectors and its queue (R447 to R450), and recoveries with their escalation (R30 to R33). -/

namespace Sys2Proof.Machine

/-- Class and severity fixed by the event code table (R441, R444). Codes of two classes take the class of the case: `severe`
selects the U-class form, or the higher severity. -/
def evClass (src code : Nat) (severe : Bool) : FaultClass × Nat :=
  match src, code with
  | 0x01, 0x01 => (.event, 2)
  | 0x01, 0x02 => (.event, 1)
  | 0x01, _ => (.d, 2)
  | 0x02, _ => (.d, 2)
  | 0x04, 0x01 => (.event, 2)
  | 0x04, 0x02 => (.event, 1)
  | 0x04, 0x03 => (.event, if severe then 3 else 1)
  | 0x04, _ => (.event, 3)
  | 0x05, 0x02 => (.d, 3)
  | 0x05, _ => (.d, 2)
  | 0x06, 0x03 => (.d, 3)
  | 0x06, 0x05 => (.event, 1)
  | 0x06, _ => (.d, 2)
  | 0x07, 0x02 => (.u, 3)
  | 0x07, 0x03 => (.event, 1)
  | 0x07, 0x05 => if severe then (.u, 3) else (.d, 2)
  | 0x07, 0x06 => (.event, 1)
  | 0x07, 0x07 => if severe then (.u, 3) else (.d, 2)
  | 0x07, _ => (.d, 2)
  | 0x08, 0x01 => (.event, 1)
  | 0x08, 0x02 => (.event, 1)
  | 0x08, 0x03 => if severe then (.u, 3) else (.d, 2)
  | 0x08, 0x04 => (.d, 2)
  | 0x08, 0x05 => (.u, 3)
  | 0x08, _ => (.event, 2)
  | 0x09, 0x01 => (.d, 2)
  | 0x09, 0x02 => (.event, 3)
  | 0x09, 0x03 => (.d, 3)
  | 0x09, _ => (.event, 2)
  | 0x0A, 0x01 => (.event, 1)
  | 0x0A, 0x02 => (.event, 1)
  | 0x0A, 0x03 => (.d, 2)
  | 0x0A, 0x04 => (.event, 2)
  | 0x0A, 0x05 => (.d, 3)
  | 0x0A, 0x06 => (.u, 3)
  | 0x0A, _ => (.event, 2)
  | 0x0B, 0x01 => (.d, 1)
  | 0x0B, 0x02 => (.d, 2)
  | 0x0B, 0x03 => (.d, 2)
  | 0x0B, 0x04 => (.u, 3)
  | 0x0B, 0x05 => (.u, 3)
  | 0x0B, 0x06 => (.u, 3)
  | 0x0B, 0x07 => (.event, 2)
  | 0x0B, 0x08 => (.u, 3)
  | 0x0B, 0x09 => (.u, 3)
  | _, _ => (.event, 1)

/-- A report of R444, class and severity from the table. -/
def mkReport (src code objType obj arg0 arg1 arg2 : Nat) (severe : Bool := false) : Report :=
  ⟨src, code, (evClass src code severe).1, (evClass src code severe).2, objType, obj, arg0, arg1, arg2⟩

/-- The event record of a report (R442). -/
def Report.toRec (r : Report) (t : Stamp) : EvRec :=
  ⟨t.hours, t.pcyc, 0, r.cls, r.sev, r.src, r.code, .std r.objType r.obj r.arg0 r.arg1 r.arg2⟩

/-- The first 15 bytes of a record: HOURS, PCYC, byte 12, SRC and CODE (R442). -/
def EvRec.head (r : EvRec) : List Byte :=
  leBytes 8 r.hours ++ leBytes 4 r.pcyc
    ++ leBytes 1 (r.part * 16 + r.cls.code * 4 + r.sev) ++ leBytes 1 r.src ++ leBytes 1 r.code

/-- Bytes 59:24 of a record (R442). -/
def EvBody.bytes : EvBody → List Byte
  | .std ot ob a0 a1 a2 => leBytes 1 (ot % 16) ++ zeros 3 ++ leBytes 8 ob ++ leBytes 8 a0 ++ leBytes 8 a1 ++ leBytes 8 a2
  | .bootPart i n bs => leBytes 2 i ++ leBytes 2 n ++ fit 32 bs

/-- The 64 bytes of a record with its RSEQ and its VALID byte (R442). -/
def EvRec.bytes (r : EvRec) (rseq valid : Nat) : List Byte :=
  r.head ++ leBytes 1 valid ++ leBytes 8 rseq ++ r.body.bytes
    ++ leBytes 4 (crc32c (r.head ++ leBytes 8 rseq ++ r.body.bytes))

/-- The slot's bytes as a log page or task shows them: a slot that holds no valid record reads as zeros (R451). -/
def Slot.shown (s : Slot) : List Byte :=
  match s.stage with
  | .valid => s.ev.bytes s.rseq 0
  | _ => zeros 64

/-- Sectors of the event log partition and slots of a sector (R447). -/
def logSectors : Nat := 256
def logSlots : Nat := 1024

/-- The programmed slots of a sector. -/
def Fev.sector (f : Fev) (n : Nat) : Tab Slot := Tab.keep f.log fun i _ => i / logSlots == n

/-- Whether a sector holds a programmed slot. -/
def Fev.sectorUsed (f : Fev) (n : Nat) : Bool := f.log.any fun p => p.1 / logSlots == n

/-- A sector's level: the highest SEV among its valid records, 0 where it has none (R448; DEDUCED, log entry 9). -/
def Fev.level (f : Fev) (n : Nat) : Nat :=
  (f.sector n).foldl (fun m p => if p.2.stage = .valid then max m p.2.ev.sev else m) 0

/-- A sector's age: the RSEQ of its first valid record, 0 where it has none (R448, R450). -/
def Fev.age (f : Fev) (n : Nat) : Nat :=
  match (f.sector n).find? fun p => p.2.stage == .valid with
  | some p => p.2.rseq
  | none => 0

/-- The first free slot of a sector, after its highest programmed one. -/
def Fev.freeSlot (f : Fev) (n : Nat) : Option Nat :=
  let next := (f.sector n).foldl (fun m p => max m (p.1 + 1)) (n * logSlots)
  if next < (n + 1) * logSlots then some next else none

/-- choose_ready(s) of R448. -/
def Fev.chooseReady (f : Fev) (s : Nat) : Fev :=
  match (List.range logSectors).find? fun n => n != f.openSec && !f.sectorUsed n with
  | some n => { f with ready := some n }
  | none =>
    match leastBy f.age ((List.range logSectors).filter fun n => n != f.openSec && decide (f.level n ≤ min s 2)) with
    | some v => { f with erasing := some v }
    | none => f

/-- The outcome of looking for a slot: a slot taken, waiting for an erase, or none. -/
inductive SlotSearch where
  | slot (n : Nat) | wait | none
  deriving DecidableEq, Repr

/-- Looks for the slot of a record of severity `s` as the pseudocode of R448 does, moving to the ready sector or starting
an erase on the way. -/
def Fev.findSlot (f : Fev) (s : Nat) : Fev × SlotSearch :=
  match f.freeSlot f.openSec with
  | some n => (f, .slot n)
  | none =>
    let take (g : Fev) (r : Nat) : Fev × SlotSearch :=
      let h : Fev := { g with openSec := r, ready := none }
      match h.freeSlot r with
      | some n => ((if h.erasing = none then h.chooseReady s else h), .slot n)
      | none => (h, .none)
    match f.ready with
    | some r => take f r
    | none =>
      if f.erasing.isSome then (f, .wait)
      else
        let g := f.chooseReady s
        match g.ready with
        | some r => take g r
        | none => if g.erasing.isSome then (g, .wait) else (g, .none)

/-- Counts a record that is dropped (R449): FEV_LOGDROP by severity, DROPEV, and the counts of log page 0xC5. -/
def Fev.countDrop (f : Fev) (sev : Nat) : Fev :=
  { f with
    regs := ((f.regs.satFld .fevLogdrop (8 * sev + 7) (8 * sev) 1).setFld .fevLogstat 23 23 1)
    drop01 := f.drop01 + (if sev ≤ 1 then 1 else 0)
    drop2 := f.drop2 + (if sev = 2 then 1 else 0)
    drop3 := f.drop3 + (if sev = 3 then 1 else 0)
    dropped := satAdd (2 ^ 32 - 1) f.dropped 1
    dropCrit := satAdd (2 ^ 32 - 1) f.dropCrit (if sev = 3 then 1 else 0) }

/-- The position of the newest queued ordinary record of the lowest severity, with that severity. The parts of a run stay together: none of them is
displaced (R447; DEDUCED, log entry 218). -/
def lowestNewest : List QRec → Nat → Option (Nat × Nat) → Option (Nat × Nat)
  | [], _, best => best
  | q :: rest, i, best =>
    let here : Option (Nat × Nat) := if q.extra || q.ev.part != 0 then best else
      match best with
      | none => some (i, q.ev.sev)
      | some (_, s) => if q.ev.sev ≤ s then some (i, q.ev.sev) else best
    lowestNewest rest (i + 1) here

/-- Places a record in the queue (R449): 64 entries, displacement of the newest record of the lowest severity below its own,
and 4 more entries for a record that a U-class fault caused. -/
def Fev.enqueue (f : Fev) (r : EvRec) : Fev :=
  if (f.queue.filter fun q => !q.extra).length < 64 then { f with queue := f.queue ++ [QRec.mk r false] }
  else
    match lowestNewest f.queue 0 none with
    | some (i, s) =>
      if s < r.sev then
        ({ f with queue := f.queue.eraseIdx i ++ [QRec.mk r false] }).countDrop s
      else if r.cls = .u ∧ (f.queue.filter fun q => q.extra).length < 4 then
        { f with queue := f.queue ++ [QRec.mk r true] }
      else f.countDrop r.sev
    | none => f.countDrop r.sev

/-- The FEV code 0x0A record that carries the drops since the last one (R449). -/
def Fev.dropRecord (f : Fev) (t : EvRec) : EvRec :=
  { t with part := 0, cls := .event, sev := if f.drop3 > 0 then 3 else if f.drop2 > 0 then 2 else 1,
           src := 0x0B, code := 0x0A, body := .std 0 0 f.drop01 f.drop2 f.drop3 }

/-- Starts the first program of a record in a slot (R443); it takes the next RSEQ. -/
def Fev.startRecord (f : Fev) (n : Nat) (r : EvRec) : Fev :=
  { f with log := Tab.set f.log n ⟨f.rseq + 1, r, .first⟩, rseq := f.rseq + 1, writing := some n }

/-- Writes the oldest queued records while the recorder's port is free, each as R448 sets out. After drops, FEV code 0x0A
goes first (R449), but not inside a run (R447). -/
def Fev.pump : Nat → Fev → Fev
  | 0, f => f
  | fuel + 1, f =>
    if f.writing.isSome then f
    else
      match f.queue with
      | [] => f
      | q :: rest =>
        match f.findSlot q.ev.sev with
        | (g, .slot n) =>
          if 0 < g.drop01 + g.drop2 + g.drop3 ∧ q.ev.part ≤ 1 then
            { (g.startRecord n (g.dropRecord q.ev)) with drop01 := 0, drop2 := 0, drop3 := 0 }
          else { (g.startRecord n q.ev) with queue := rest }
        | (g, .wait) => g
        | (g, .none) => Fev.pump fuel (({ g with queue := rest }).countDrop q.ev.sev)

/-- Appends a record (R448, R449): it enters the queue and is written at once where the port and a slot are free. -/
def Fev.append (f : Fev) (r : EvRec) : Fev := (f.enqueue r).pump 70

/-- Appends a boot record run (R447): all parts or none. Answers whether the run could be taken. -/
def Fev.appendRun (f : Fev) (rs : List EvRec) : Fev × Bool :=
  if f.queue.length + rs.length ≤ 64 then
    (({ f with queue := f.queue ++ rs.map fun r => QRec.mk r false }).pump 70, true)
  else (f, false)

/-- The recorder's program in progress is done (R443): the valid mark follows the first program, and the next record
follows the mark. A failed program leaves the slot for good and the record goes to the next slot, with its RSEQ (R442, R459). -/
def Fev.programDone (f : Fev) (ok : Bool) : Fev :=
  match f.writing with
  | none => f
  | some n =>
    match Tab.get? f.log n with
    | none => ({ f with writing := none }).pump 70
    | some s =>
      if ok then
        match s.stage with
        | .first => { f with log := Tab.set f.log n { s with stage := .mark } }
        | _ => ({ f with log := Tab.set f.log n { s with stage := .valid }, writing := none }).pump 70
      else
        ({ f with log := Tab.set f.log n { s with stage := .broken }, writing := none, rseq := f.rseq - 1,
                  queue := QRec.mk s.ev false :: f.queue }).pump 70

/-- The sector erase that R448 started has ended: the sector is empty and becomes the ready sector. -/
def Fev.eraseDone (f : Fev) (ok : Bool) : Fev :=
  match f.erasing with
  | none => f
  | some v =>
    if ok then
      ({ f with log := Tab.keep f.log fun i _ => i / logSlots != v, erasing := none, ready := some v }).pump 70
    else ({ f with erasing := none }).pump 70

/-- Enters a D-class or U-class fault in the first-fault queue, or counts it (R453). -/
def Fev.firstFault (f : Fev) (r : Report) (t : Stamp) : Fev :=
  if r.cls = .d ∨ r.cls = .u then
    if f.ffq.length < 32 then
      { f with ffq := f.ffq ++ [FfqEntry.mk t.ticks r.src r.code r.objType r.cls r.sev r.obj] }
    else { f with ffqOvfl := satAdd 255 f.ffqOvfl 1 }
  else f

/-- What FEV does with a report that is not U-class: the queue of first faults and the event record (R440). A C-class report
records neither. -/
def Fev.report (f : Fev) (r : Report) (t : Stamp) : Fev :=
  match r.cls with
  | .c => f
  | _ => (f.firstFault r t).append (r.toRec t)

/-- The 16 bytes of a first-fault entry (R453). -/
def FfqEntry.bytes (e : FfqEntry) : List Byte :=
  leBytes 6 e.ticks ++ leBytes 1 e.src ++ leBytes 1 e.code
    ++ leBytes 1 (e.objType % 16 * 16 + e.cls.code * 4 + e.sev) ++ leBytes 7 e.obj

/-- The slot the next record will take (R451), if one can be named. -/
def Fev.nextIdx (f : Fev) : Option Nat :=
  match f.freeSlot f.openSec with
  | some n => some n
  | none =>
    match f.ready with
    | some r => some (r * logSlots)
    | none => f.erasing.map (· * logSlots)

/-- SAFECNT: safe-state entries in the preceding hour, by the always-on clock `now` (R446). -/
def Fev.safeCnt (f : Fev) (now : Nat) : Nat := min 15 (f.safeEntries.filter fun t => decide (now < t + 36000000000)).length

/-! ### Recoveries (R30 to R33) -/

/-- The scope that encloses a scope (R31). -/
def Scope.encloses : Scope → Option Scope
  | .channel n => some (.cluster (n / 8))
  | .core _ => some .device
  | .cluster _ => some .device
  | .device => none

/-- Whether a recovery of the first scope contains the second. -/
def Scope.contains : Scope → Scope → Bool
  | .device, .device => false
  | .device, _ => true
  | .cluster k, .channel n => n / 8 == k
  | _, _ => false

/-- The FEV code of a scope's recovery and the object it names (R444). -/
def Scope.code : Scope → Nat
  | .channel _ => 0x01
  | .core _ => 0x01
  | .cluster _ => 0x02
  | .device => 0x03
def Scope.objType : Scope → Nat
  | .channel _ => 2
  | .core _ => 2
  | .cluster _ => 3
  | .device => 0
def Scope.obj : Scope → Nat
  | .channel n => n
  | .core n => 0x100 + n
  | .cluster k => k
  | .device => 0

/-- The report of a recovery: ARG0 the count, ARG1 1 for a fault absorbed without a recovery (R32, R33). -/
def Scope.report (sc : Scope) (count absorbed : Nat) : Report :=
  mkReport 0x0B sc.code sc.objType sc.obj count absorbed 0

/-- Recoveries a scope has started in the preceding 60 s, by the operating-hours counter (R31). -/
def Fev.count60 (f : Fev) (sc : Scope) (now : Nat) : Nat :=
  (f.starts.filter fun x => decide (x.scope = sc ∧ now < x.at' + 60)).length

/-- What a fault in a scope leads to. -/
inductive Verdict where
  /-- The scope's recovery starts. -/
  | recovers
  /-- A recovery in progress absorbs the fault (R32). -/
  | absorbed
  /-- The enclosing scope recovers instead (R31). -/
  | escalate (outer : Scope)
  /-- A device escalation: a U-class fault (R31). -/
  | fatal
  deriving DecidableEq, Repr

/-- How a fault in a scope is settled (R31, R32). A unit fault inside a cluster that is recovering is absorbed too
(DEDUCED, log entry 10). -/
def Fev.judge (f : Fev) (sc : Scope) (now : Nat) : Verdict :=
  if f.safe then .absorbed
  else if f.active.contains sc || f.active.any (fun a => a.contains sc) then .absorbed
  else if f.count60 sc now < 3 then .recovers
  else
    match sc.encloses with
    | some e => .escalate e
    | none => .fatal

/-- The escalation bit of FEV_ESCSTAT for a scope that escalates (R34). -/
def Fev.escBit (f : Fev) (sc : Scope) : Fev :=
  match sc with
  | .channel n => { f with regs := f.regs.setFld .fevEscstat (8 + n / 8) (8 + n / 8) 1 }
  | .cluster k => { f with regs := f.regs.setFld .fevEscstat (16 + k) (16 + k) 1 }
  | .core _ => { f with regs := f.regs.setFld .fevEscstat 1 1 1 }
  | .device => f

/-- The starts that stay when a scope's recovery begins: those of contained scopes are cleared, but for the newest of a contained recovery
in progress, which is absorbed and remains in its count (R31, R32). -/
def Fev.startsUnder (f : Fev) (sc : Scope) : List RecStart :=
  (f.starts.filter fun x => !sc.contains x.scope)
    ++ (f.active.filter fun a => sc.contains a).filterMap fun a => f.starts.find? fun x => x.scope == a

/-- Starts a recovery of a scope: it counts, contained recoveries in progress stop, the counts of contained scopes are cleared, and the
recovery is recorded (R31, R32, R33). -/
def Fev.startRecovery (f : Fev) (sc : Scope) (t : Stamp) : Fev :=
  let g : Fev := { f with
    starts := ⟨sc, t.hours⟩ :: f.startsUnder sc
    active := sc :: f.active.filter fun a => !sc.contains a }
  g.report (sc.report (g.count60 sc t.hours) 0) t

/-- The recovery of a scope has completed (R30). -/
def Fev.endRecovery (f : Fev) (sc : Scope) : Fev := { f with active := f.active.filter (· ≠ sc) }

end Sys2Proof.Machine
end

