-- ==== Sys2Proof/Machine/Mem.lean ====
section
/-! DEFINITION. Byte memory as a list of cells in one canonical form: addresses strictly rising and no listed byte equal to 0,
which is what an unlisted address reads as (R331: DRAM that has not been written reads as zero). -/

namespace Sys2Proof.Machine

/-- A memory: its listed bytes. -/
abbrev Mem := List Host.Cell

/-- The byte at an address; 0 where none is listed (R331). -/
def Mem.get (m : Mem) (a : Nat) : Byte :=
  match m with
  | [] => 0
  | (b, v) :: rest => if b = a then v else Mem.get rest a

/-- Puts a byte into the list at its place; a zero byte leaves the list. -/
def Mem.set (m : Mem) (a : Nat) (x : Byte) : Mem :=
  match m with
  | [] => if x = 0 then [] else [(a, x)]
  | (b, v) :: rest =>
    if b = a then (if x = 0 then rest else (a, x) :: rest)
    else if a < b then (if x = 0 then (b, v) :: rest else (a, x) :: (b, v) :: rest)
    else (b, v) :: Mem.set rest a x

/-- Bytes stored from an address upward. -/
def Mem.setBytes (m : Mem) (a : Nat) : List Byte → Mem
  | [] => m
  | x :: rest => Mem.setBytes (Mem.set m a x) (a + 1) rest

/-- `n` bytes read from an address upward. -/
def Mem.getBytes (m : Mem) (a n : Nat) : List Byte := (List.range n).map fun i => Mem.get m (a + i)

/-- The memory with every byte of a range reading as 0. -/
def Mem.clear (m : Mem) (lo n : Nat) : Mem := m.filter fun c => decide (c.1 < lo ∨ lo + n ≤ c.1)

/-- The canonical form: addresses strictly rising, no listed byte 0. -/
def Mem.wf : Mem → Bool
  | [] => true
  | [(_, v)] => v != 0
  | (a, v) :: (b, w) :: rest => v != 0 && decide (a < b) && Mem.wf ((b, w) :: rest)

end Sys2Proof.Machine
end

