-- ==== Sys2Proof/Machine/MssTypes.lean ====
section
/-! DEFINITION. The state of MSS: DRAM with its valid bits, poison and error modes, scrubbing, training, rows and refresh, and
the SRAM counts (chapter 11). -/

namespace Sys2Proof.Machine

/-- An error on one symbol of a line: codeword, device and the flipped bits (R327). -/
structure SymErr where
  cw : Nat
  dev : Nat
  val : BitVec 16
  deriving DecidableEq, Repr

/-- Cell errors that a read of DRAM meets: the line's number and the symbols in error. -/
abbrev LineErrs := Tab (List SymErr)

/-- A request that waits for a granule's zero-fill (R332). -/
inductive MemReq where
  | read (req addr len : Nat)
  | write (req addr : Nat) (bytes : List Byte)
  deriving DecidableEq, Repr

/-- A granule being filled with zeros: the write that opened it and the requests that wait. -/
structure Fill where
  addr : Nat
  bytes : List Byte
  waiting : List MemReq
  deriving DecidableEq, Repr

/-- A range scrub in progress (R335). -/
structure RangeScrub where
  base : Nat
  count : Nat
  deriving DecidableEq, Repr

/-- One bank: its open row, its rolling activate count, its tracker and its throttled requesters (R336, R339 to R341). -/
structure Bank where
  open' : Option Nat
  lastAccess : Nat
  raa : Nat
  /-- Tracked rows and their counts, at most 8. -/
  rows : List (Nat × Nat)
  /-- Throttled requesters and the time of their last activate. -/
  throttled : Tab Nat
  /-- PAGEIDLE as it stood at the last access (R338). -/
  limit : Nat
  deriving DecidableEq, Repr

/-- A training helper operation in progress (R324). -/
structure TrainOp where
  op : Nat
  pat : Nat
  rank : Nat
  count : Nat
  deriving DecidableEq, Repr

/-- Retraining of one rank (R326). -/
structure RankTiming where
  /-- Drift, in thousandths of the adjustment range. -/
  drift : Nat
  /-- A pause is wanted since this time. -/
  wanted : Option Nat
  lastPause : Nat
  stale : Bool
  deriving DecidableEq, Repr

/-- A device named in a correction (R329). -/
structure Named where
  rank : Nat
  dev : Nat
  line : Nat
  at' : Nat
  deriving DecidableEq, Repr

/-- MSS's state. Ranks are numbered 2 × channel + rank, banks 64 × channel + 32 × rank + 4 × group + bank. -/
structure Mss where
  regs : RegFile
  mem : Mem
  /-- Valid granules, rising (R331). -/
  valid : List Nat
  /-- Poisoned lines, rising (R330). -/
  poison : List Nat
  fills : Tab Fill
  clearing : Option RangeScrub
  scrub : Option RangeScrub
  /-- The next line of the patrol lap, and when the lap began. -/
  patrolPos : Nat
  lapStart : Nat
  /-- Device-erasure mode by rank (R329). -/
  erasure : Tab Nat
  named : List Named
  train : Tab TrainOp
  timing : Tab RankTiming
  banks : Tab Bank
  /-- Ranks in power-down. -/
  powerDown : List Nat
  lastRankUse : Tab Nat
  /-- PDIDLE as it stood at a rank's last request (R338). -/
  rankIdle : Tab Nat
  selfRefresh : Bool
  /-- MR4 readings by rank, in degrees. -/
  mr4 : Tab Int
  /-- The temperature of the last full training by rank. -/
  trainTemp : Tab Int
  /-- The last hot-row record of each channel. -/
  hotRec : Tab Nat
  rfms : Tab Nat
  refreshes : Nat
  deriving DecidableEq, Repr

end Sys2Proof.Machine
end

