-- ==== Sys2Proof/Machine/SecTypes.lean ====
section
/-! DEFINITION. The state of SEC: identities, boot records and their chain, key slots and the Seal engine, alarms, SPDM
endpoints, XTS lanes and a sanitize in progress (chapter 12). -/

namespace Sys2Proof.Machine

/-- An XTS key: made by the DRBG, numbered in order, or injected by a host as two halves. -/
inductive XKey where
  | gen (n : Nat)
  | injected (a b : Nat)
  deriving DecidableEq, Repr

/-- A wrapped namespace key as the device made it (R369). -/
structure KeyBlob where
  slot : Nat
  gen : Nat
  key : XKey
  deriving DecidableEq, Repr

/-- A change to a key slot that waits for the slot's live contexts (R365): `fsn` is the order of its fetch. -/
structure SlotChange where
  slot : Nat
  /-- The key the slot takes; none empties it. -/
  key : Option XKey
  fsn : Nat
  /-- The Seal operation that runs it: it holds the engine until it is applied. -/
  bySeal : Bool
  deriving DecidableEq, Repr

/-- A message of Seal OP 0 between its chunks (R370). -/
structure GcmState where
  aad : List Byte
  /-- Ciphertext of the chunks so far. -/
  cipher : List Byte
  deriving DecidableEq, Repr

/-- The Seal operation in progress. -/
inductive SealRun where
  /-- OP 0: the buffer, the tag and AUTHFAIL that its end leaves, with the message state. -/
  | gcm (out : List Byte) (tag : Option Nat) (fail : Bool) (st : GcmState)
  /-- OP 1 to 4: the buffer it leaves and AUTHFAIL. -/
  | key (out : List Byte) (fail : Bool)
  deriving DecidableEq, Repr

/-- A measurement entry (R352). -/
structure Meas where
  kind : Nat
  slot : Nat
  changed : Bool
  xip : Bool
  svn : Nat
  version : Nat
  digest : Nat
  deriving DecidableEq, Repr

/-- An Ilveto boot record before its signature (R351). -/
structure BootRecord where
  seq : Nat
  hours : Nat
  pcyc : Nat
  cause : Nat
  secst : Nat
  prev : Nat
  akid : Nat
  serial : List Byte
  entries : List Meas
  deriving DecidableEq, Repr

/-- A large SPDM message in transfer. -/
structure SpdmChunks where
  handle : Nat
  nextSeq : Nat
  data : List Byte
  deriving DecidableEq, Repr

/-- SPDM requests (R357). -/
inductive SpdmReq where
  | getVersion
  | getCapabilities (version maxSize : Nat)
  | negotiate (p384 sha384 : Bool)
  | getDigests
  | getCertificate (slot offset len : Nat)
  | challenge (slot : Nat)
  | getMeasurements (index : Nat) (signed : Bool)
  | other
  deriving DecidableEq, Repr

/-- SPDM responses. The signature stands as its two numbers. -/
inductive SpdmResp where
  | version (versions : List Nat)
  | capabilities (ctExponent : Nat)
  | algorithms (p384 sha384 : Bool)
  | digests (slots : List Nat)
  | certificate (slot : Nat) (part : List Byte) (remainder : Nat)
  | challengeAuth (slot : Nat) (sig : Nat × Nat)
  | measurements (values : List (Nat × Nat)) (sig : Option (Nat × Nat))
  | chunk (handle seq : Nat) (data : List Byte) (last : Bool)
  | chunkAck (handle seq : Nat) (answer : List Byte)
  /-- ERROR with its code. -/
  | error (code : Nat)
  /-- ERROR LargeResponse with a handle. -/
  | large (handle : Nat)
  deriving DecidableEq, Repr

/-- The negotiated state of an SPDM endpoint (R357). -/
structure SpdmEp where
  /-- 0 nothing, 1 version, 2 capabilities, 3 algorithms. -/
  stage : Nat
  version : Nat
  /-- The requester's largest message. -/
  maxSize : Nat
  sending : Option SpdmChunks
  receiving : Option SpdmChunks
  handles : Nat
  /-- A response to a Security Send that waits for Security Receive. -/
  waiting : Option SpdmResp
  deriving DecidableEq, Repr

/-- The sanitize actions of R375. -/
inductive SanAction where
  | exitFailure | block | overwrite | crypto
  deriving DecidableEq, Repr

/-- A sanitize in progress (R377). -/
structure Sanitize where
  action : SanAction
  /-- The instance that sent it. -/
  inst : Nat
  ause : Bool
  passes : Nat
  pattern : Nat
  invert : Bool
  /-- The action has started: admitted commands have drained and the keys are replaced. -/
  started : Bool
  deriving DecidableEq, Repr

/-- SEC's state. -/
structure Sec where
  regs : RegFile
  /-- Keys held by slot (R361). -/
  keys : Tab XKey
  /-- Wrapped namespace keys in the calibration partition, by slot (R362). -/
  blobs : Tab KeyBlob
  /-- Keys the DRBG has made. -/
  made : Nat
  changes : List SlotChange
  buffer : List Byte
  /-- The words of the software key that have been written since the last clear. -/
  skey : Tab W32
  run : Option SealRun
  gcm : GcmState
  /-- Alarm causes latched in the always-on domain (R371): volt 0, clk 1, round 2, dbg 3. -/
  alarms : List Nat
  debugUnlocked : Bool
  zeroed : Bool
  /-- The DAK and alias private keys are present. -/
  privKeys : Bool
  stage2Svn : Nat
  svnMin : Nat
  svnAdvanced : Bool
  advancesLeft : Nat
  meas : List Meas
  /-- The digests of the previous record, by kind. -/
  prevDigests : Tab Nat
  building : Option BootRecord
  /-- Entries of the two chain sectors, newest first, and the sector in use (R354). -/
  chain0 : List (Nat × Nat)
  chain1 : List (Nat × Nat)
  chainUse : Nat
  bootCause : Nat
  endpoints : Tab SpdmEp
  sanitize : Option Sanitize
  /-- SSTAT's status of the last sanitize: 0 never, 1 done, 2 running, 3 failed. -/
  sanStatus : Nat
  sanCdw10 : Nat
  sanProgress : Nat
  sanFailUse : Bool
  lastPasses : Nat
  passesDone : Nat
  deriving DecidableEq, Repr

end Sys2Proof.Machine
end

