-- ==== Sys2Proof/Machine/QceTypes.lean ====
section
/-! DEFINITION. The state of QCE: instances, queues, command contexts and the range-lock table (chapters 03 to 05), and the data
that commands carry. -/

namespace Sys2Proof.Machine

/-- A submission queue entry: the fields that the device reads. -/
structure Sqe where
  opc : Nat
  cid : Nat
  nsid : Nat := 0
  /-- PSDT: 0 PRPs, otherwise SGL. -/
  psdt : Nat := 0
  dptr0 : Nat := 0
  dptr1 : Nat := 0
  cdw2 : Nat := 0
  cdw3 : Nat := 0
  cdw10 : Nat := 0
  cdw11 : Nat := 0
  cdw12 : Nat := 0
  cdw13 : Nat := 0
  cdw14 : Nat := 0
  cdw15 : Nat := 0
  /-- CDW0 bits 13:8, FUSE and its reserved bits, and the metadata pointer: the device uses neither, and archives them (R86). -/
  fuse : Nat := 0
  mptr : Nat := 0
  deriving DecidableEq, Repr

/-- A completion status: SCT, SC and Do Not Retry. -/
structure Status where
  sct : Nat
  sc : Nat
  dnr : Bool
  deriving DecidableEq, Repr

/-- Protection information of a logical block; the storage tag is that of LBA format 4, 0 in every other (R163). -/
structure Pi where
  guard : Nat
  app : Nat
  ref : Nat
  stag : Nat
  deriving DecidableEq, Repr

/-- The content of one logical block: its data bytes as one number, and its protection information. -/
structure LBlock where
  data : Nat
  pi : Pi
  deriving DecidableEq, Repr

/-- A block as it is held after encryption: the key (none for zeros that need no key), its tweak, and what was encrypted. A bad one
reads as lost: Write Uncorrectable on part of an IU (log entry 30). -/
structure Cell where
  key : Option XKey
  slot : Nat
  lba : Nat
  block : LBlock
  bad : Bool := false
  deriving DecidableEq, Repr

/-- The states of a context (R88). A FREE context is one the table does not hold. -/
inductive CtxState where
  | fetched | lockwait | admitwait | translate | media | data | ordwait | completing | cancelled | fw
  deriving DecidableEq, Repr

/-- The STATE code of R88. -/
def CtxState.code : CtxState → Nat
  | .fetched => 1 | .lockwait => 2 | .admitwait => 3 | .translate => 4 | .media => 5 | .data => 6 | .ordwait => 7
  | .completing => 8 | .cancelled => 9 | .fw => 10

/-- Kinds of commands as the data path tells them apart. -/
inductive Kind where
  | read | compare | verify | write | append | zeroes | uncorrectable | dsm | copy | flush | purge | parity | zoneSend
  | zoneRecv | resv | ioMgmt | admin
  deriving DecidableEq, Repr

/-- Commands that change logical blocks (chapter 04). -/
def Kind.modifies : Kind → Bool
  | .write => true | .append => true | .zeroes => true | .uncorrectable => true | .dsm => true | .copy => true
  | .purge => true | _ => false

/-- Commands that return or examine logical blocks (chapter 04). -/
def Kind.reads : Kind → Bool
  | .read => true | .compare => true | .verify => true | .copy => true | _ => false

/-- Commands that neither change nor move logical blocks and that end at their commit point: what they answer is fixed at their fetch (R59, R99,
R174; log entry 197). -/
def Kind.ends : Kind → Bool
  | .zoneRecv => true | .resv => true | .ioMgmt => true | _ => false

/-- A span of logical blocks: from `lo`, `len` blocks. -/
structure Span where
  lo : Nat
  len : Nat
  deriving DecidableEq, Repr

/-- A command context (R85), with what the archive and the engines keep of the command. -/
structure Ctx where
  state : CtxState
  kind : Kind
  inst : Nat
  sqid : Nat
  /-- The command came over the sideband (R410). -/
  side : Bool
  sqe : Sqe
  /-- FLAGS of R85, bit by bit as the device sets them. -/
  fua : Bool
  lr : Bool
  pract : Bool
  prchk : Nat
  ord : Bool
  wr : Bool
  adm : Bool
  fab : Bool
  abrq : Bool
  oas : Bool
  mir : Bool
  fsn : Nat
  lc : Nat
  /-- The namespace index, for a command that names one. -/
  nsx : Option Nat
  cmask : Nat
  slba : Nat
  nlb : Nat
  waymark : Nat
  /-- The key slot set at fetch (R361). -/
  keyslot : Nat
  status : Status
  ilbrt : Nat
  lbat : Nat
  lbatm : Nat
  /-- The range-lock entry held. -/
  rlidx : Option Nat
  dspec : Nat
  /-- User data moved, in 4 KiB units. -/
  done : Nat
  /-- Spans that the command modifies, and spans that it reads. -/
  mods : List Span
  /-- A source range of a Copy in another namespace of index m starts at 2^48 × (m + 1) here. -/
  rds : List Span
  /-- Reference tag, application tag and mask expected of each source range of a Copy. -/
  srcTags : List (Nat × Nat × Nat)
  fetchedAt : Nat
  /-- When it entered LOCKWAIT and ADMITWAIT, and the time it spent there (R313). -/
  lockAt : Nat
  lockTime : Nat
  admitWaitAt : Nat
  admitTime : Nat
  /-- The device conditions of R307 have held for it so far; its instance was within its share in the epochs that count; the epoch of
  its admission. -/
  covered : Bool
  inShare : Bool
  admitEpoch : Nat
  /-- Its context came from the shared pool (R83). -/
  shared : Bool
  /-- Its place in its SQ's order (R101). -/
  order : Nat
  /-- The command waits for a range-lock entry (R119). -/
  rlWait : Bool
  /-- TAS has admitted it; the read window counts it until its CQE is posted (R148). -/
  admitted : Bool
  /-- Host data has arrived and passed its checks; it has been encrypted into the Oasis; the change is recorded. Of a reading command:
  its data is here, it is decrypted, its transfer has started. Of a Flush, `arrived`: it was fetched in protected mode (R133). Of
  an admin command, `encrypted`: it completes once its delta record `wsn` is durable (R70); `arrived`: it acts on the namespaces `nss` as soon
  as it may. -/
  arrived : Bool
  encrypted : Bool
  recorded : Bool
  /-- Blocks to write, or blocks read; the host's blocks of a Compare. -/
  blocks : List LBlock
  given : Option (List LBlock)
  /-- Cells read from the Oasis or from media, before decryption: by LBA. -/
  cells : Tab Cell
  /-- Granules still to be read from the media, by their key, each with its cluster. -/
  frames : Tab Nat
  /-- A granule of the read is lost: the status its read completes with. -/
  lost : Option Status
  /-- Completion DW0 and DW1. -/
  dw0 : Nat
  dw1 : Nat
  /-- The order in which contexts reached COMPLETING (R89). -/
  doneSeq : Nat
  /-- Contexts that must be posted first: an Abort waits for its target (R98). -/
  after : List Nat
  /-- WU charged at admission. -/
  wu : Nat
  /-- Detached by an instance reset: it records when its hold clears, and posts nothing (R158). -/
  detached : Bool
  /-- The write sequence number of its change, or for a Flush the newest one it covers (R198, R105). -/
  wsn : Nat
  /-- The barchan that its data goes to, and whether a placement handle named it (R172, R182). -/
  barchan : Nat
  /-- It waits at step 4 of R19 for room under the dirty limit (R128). -/
  spaceWait : Bool
  /-- Its instance's own-bucket wait when it entered ADMITWAIT (R296). -/
  shutMark : Nat
  /-- The namespaces that a Flush names; the write sequence numbers up to `wsn` whose CQEs were not yet posted at its fetch, and those
  of commands ahead of it in its ordered SQ, which it covers too (R105). -/
  nss : List Nat
  exempt : List Nat
  also : List Nat
  /-- The zone that a Zone Append or a zone write is in (R175). -/
  zone : Option Nat
  /-- Reclaim unit handles that an I/O Management Send ends when it executes (R184). -/
  handles : List Nat
  /-- What a command that returns a data structure has still to move to the host (R101). -/
  reply : List Byte
  deriving DecidableEq, Repr

/-- Why an ordered SQ is frozen (R102, R104). -/
structure Freeze where
  fcid : Nat
  fstat : Nat
  ffsn : Nat
  head : Nat
  ndisc : Nat
  dcid0 : Nat
  dcid1 : Nat
  nsid : Nat
  slba : Nat
  time : Nat
  /-- The order of the failing command. -/
  order : Nat
  deriving DecidableEq, Repr

/-- A submission queue. -/
structure Sq where
  size : Nat
  head : Nat
  tail : Nat
  cq : Nat
  prio : Nat
  /-- SQ flow control is in use: off only where an Ethernet Connect disabled it (R75). -/
  flow : Bool
  /-- Contexts of its reserve that are free, and the size of the reserve (R83). -/
  reserve : Nat
  reserveMax : Nat
  /-- Entries fetched, or capsules given a context, whose commands have not been taken yet: from the reserve, then shared. -/
  heldRes : Nat
  heldSh : Nat
  /-- Entries still to arrive of each outstanding fetch read, oldest first (R80). -/
  reads : List Nat
  /-- A fetch read failed once and is retried (R57). -/
  retried : Bool
  ordered : Bool
  frozen : Option Freeze
  lc : Nat
  /-- Commands taken so far: the order of the next one. -/
  nextOrder : Nat
  /-- Capsules that wait in the receive allotment for a context, each with its bytes (R81). -/
  capsules : List Nat
  /-- Bytes in the allotment of capsules whose contexts are held, oldest first. -/
  heldBytes : List Nat
  /-- A Delete I/O SQ has been fetched: nothing more is fetched from the queue (R105). -/
  deleting : Bool
  deriving DecidableEq, Repr

/-- A completion queue. -/
structure Cq where
  size : Nat
  head : Nat
  tail : Nat
  phase : Bool
  /-- The interrupt vector, where interrupts are enabled. -/
  vector : Option Nat
  deriving DecidableEq, Repr

/-- An interrupt vector (R91, R92). -/
structure Vector' where
  masked : Bool
  pending : Bool
  /-- Entries posted and not yet signalled, and when the first was posted. -/
  unsignalled : Nat
  firstAt : Nat
  /-- CD of Interrupt Vector Configuration. -/
  cd : Bool
  /-- Fine Interrupt Coalescing: threshold (0-based) and time in µs, when enabled. -/
  fine : Option (Nat × Nat)
  deriving DecidableEq, Repr

/-- How a PCIe function's interrupts are set up (R91): MSI-X enabled, its function mask, single-message MSI enabled, and INTM as INTMS and INTMC
leave it. -/
structure Irq where
  msix : Bool
  fmask : Bool
  msi : Bool
  intm : Nat
  deriving DecidableEq, Repr

/-- Instance states (R143); UNUSED is an instance the table does not hold. -/
inductive InstState where
  | offline | disabled | ready | resetting | failed
  deriving DecidableEq, Repr

/-- What an instance becomes when its teardown is complete (R143). -/
inductive ResetTo where
  | disabled | offline | unused
  deriving DecidableEq, Repr

/-- An asynchronous event: type, information, log page. -/
structure AsyncEvent where
  etype : Nat
  info : Nat
  page : Nat
  deriving DecidableEq, Repr

/-- An Error Information entry. -/
structure ErrEntry where
  count : Nat
  sqid : Nat
  cid : Nat
  status : Nat
  lba : Nat
  nsid : Nat
  deriving DecidableEq, Repr

/-- An instance. -/
structure Inst where
  port : Nat
  pf : Bool
  eth : Bool
  state : InstState
  resetTo : ResetTo
  /-- CC as written, and the CSTS bits. -/
  cc : Nat
  rdy : Bool
  cfs : Bool
  shst : Nat
  aqa : Nat
  asq : Nat
  acq : Nat
  /-- I/O queue pairs and interrupt resources. -/
  allot : Nat
  vectors : Tab Vector'
  hostId : Nat
  /-- Timestamp: its value in ms and the device time at which it was set. -/
  stamp : Option (Nat × Nat)
  /-- Feature values in force, by FID (namespace features stand with the namespace). -/
  features : Tab Nat
  /-- Contexts of outstanding Asynchronous Event Requests, oldest first, and events not yet reported. -/
  aers : List Nat
  events : List AsyncEvent
  /-- Event types reported and not yet cleared by a read of their log page. -/
  reported : List AsyncEvent
  errors : List ErrEntry
  errCount : Nat
  /-- Frozen SQs in freeze order, and freezes since enable (R104). -/
  frozen : List Nat
  freezes : Nat
  /-- Keep-alive timeout in ms (0 none) and the time of its last restart. -/
  kato : Nat
  kaAt : Nat
  changedNs : List Nat
  /-- Reservation notifications not yet read, newest last: count, type, namespace identifier (log page 0x80). -/
  resvLog : List (Nat × Nat × Nat)
  resvCount : Nat
  changedZones : List (Nat × Nat)
  /-- CC.SHN has stopped fetch (R107). Its flush, once it runs, covers write sequence numbers up to the first part, but for those of the
  second part. -/
  shutdown : Option (Option (Nat × List Nat))
  /-- The time of the reset event (R159). -/
  resetAt : Nat
  irq : Irq
  deriving DecidableEq, Repr

/-- A range-lock entry (R113). -/
structure Lock where
  nsx : Nat
  lo : Nat
  len : Nat
  fsn : Nat
  ctx : Nat
  deriving DecidableEq, Repr

/-- QCE's state. Queue keys are 512 × instance + queue identifier. -/
structure Qce where
  regs : RegFile
  insts : Tab Inst
  sqs : Tab Sq
  cqs : Tab Cq
  ctxs : Tab Ctx
  locks : Tab Lock
  /-- The next fetch sequence number, of 40 bits (R82). -/
  fsn : Nat
  doneSeq : Nat
  /-- Deficits of the rotation, below 0 where a turn took more than they held, and where the rotation stands: the next instance, and the last queue
  served by 8 × instance + class, with class 4 for plain round robin (R79). -/
  deficit : Tab Int
  lastInst : Nat
  lastSq : Tab Nat
  /-- What is left of a round of weighted round robin: keys 4 × instance + class (R79). -/
  credits : Tab Nat
  /-- The device timestamp: its value in ms and when it was set (R528). -/
  stamp : Option (Nat × Nat)
  /-- By instance: the time its buckets have kept its commands waiting, and since when they do (R296). -/
  shut : Tab (Nat × Option Nat)
  /-- VQ resources of virtual functions, the admin queue counted, by instance where they differ from what the port's start dealt; the dealt
  count stands at key 2,048 + port (R141). -/
  vq : Tab Nat
  deriving DecidableEq, Repr

end Sys2Proof.Machine
end

