-- ==== Sys2Proof/Machine/FlashTypes.lean ====
section
/-! DEFINITION. The state of the flash side: what is attached (chapters 00 and 08), namespaces, zones, the map, the Oasis, bands,
the delta journal and checkpoints (PTX, chapters 04, 06 and 07), dies and blocks (MBE, chapter 08), and frame reads, parity,
rebuild and parity jobs (DIP, chapter 09). -/

namespace Sys2Proof.Machine

/-- A die descriptor (R234): read times in 0.1 µs, other times in µs. -/
structure DieDesc where
  sig : Nat := 0x44445343
  ver : Nat := 1
  cells : Nat := 4
  planes : Nat := 4
  luns : Nat := 4
  page : Nat := 16384
  spare : Nat := 1824
  wls : Nat := 512
  blks : Nat := 2048
  maxRate : Nat := 3600
  ipr : Bool := true
  flags : Nat := 0x0F
  trn : Nat := 660
  trnx : Nat := 1200
  trs : Nat := 165
  trsx : Nat := 300
  tpn : Nat := 2400
  tpnx : Nat := 5000
  tps : Nat := 150
  tpsx : Nat := 400
  tbe : Nat := 6000
  tbex : Nat := 15000
  trst : Nat := 1000
  tsuspp : Nat := 40
  tsuspe : Nat := 60
  tresume : Nat := 10
  tminrunp : Nat := 200
  tminrune : Nat := 500
  nsuspp : Nat := 4
  nsuspe : Nat := 16
  nestmax : Nat := 4
  nretry : Nat := 23
  ecycn : Nat := 1500
  ecycs : Nat := 30000
  /-- OPC: the maker's command bytes and feature addresses. -/
  opc : List Byte := []
  /-- The CRC as stored; none stands for the one that R234 asks for. -/
  crc : Option Nat := none
  deriving DecidableEq, Repr

/-- What is attached to a cluster (R232). -/
structure ClusterBuild where
  /-- Bit `j`: channel 8k + j is populated. -/
  chen : Nat
  ce : Nat
  luns : Nat
  kind : Nat
  /-- RATE of MBE_CLk_CHCFG. -/
  rate : Nat
  deriving DecidableEq, Repr

/-- The attached parts: one description per cluster, and the die descriptors by kind. -/
structure Attached where
  clusters : Tab ClusterBuild
  descs : Tab DieDesc
  /-- The read-retry tables (R251): by 2 × kind, plus 1 for SLC mode, the signed offsets of each entry, one per read level. -/
  retry : Tab (List (List Int)) := []
  deriving DecidableEq, Repr

/-- The states of a block (R239). -/
inductive BlockSt where
  | unknown | erased | opened | full | bad
  deriving DecidableEq, Repr

/-- The block record of R239, and the pool of R254. -/
structure Blk where
  st : BlockSt
  /-- MODE: SLC mode, set by the erase. -/
  slc : Bool
  next : Nat
  done : Nat
  ptb : Nat
  ptbx : Nat
  ecnt : Nat
  /-- It belongs to the SLC pool. -/
  pool : Bool
  /-- The summary that a retired block keeps (R219, R221). -/
  summary : Nat := 0
  deriving DecidableEq, Repr

/-- A map entry (R192). An unmapped indirection unit (IU) has none. -/
inductive MapEnt where
  | media (die block frame : Nat)
  | oasis (slot : Nat)
  | mark (m : Nat)
  deriving DecidableEq, Repr

/-- Where an Oasis slot stands on its way to the media (R21, R196). -/
inductive OStage where
  | waiting | placed | superseded
  deriving DecidableEq, Repr

/-- The granules of one IU in the Oasis, with their slot header (R197). -/
structure OSlot where
  nsx : Nat
  iu : Nat
  /-- Logical blocks held, by LBA. -/
  cells : Tab Cell
  /-- The entry that this record replaced. -/
  replaced : Option MapEnt
  wsn : Nat
  fsn : Nat
  inst : Nat
  keyslot : Nat
  barchan : Nat
  /-- The group it belongs to (R200): the frames that one command writes into one atomic unit. -/
  group : Nat
  stage : OStage
  /-- Its command has completed: it is dirty data (R128). -/
  completed : Bool
  /-- It was completed in protected mode and awaits program after a switch (R130). -/
  drain : Bool
  /-- Its missing granules are being read (R169). -/
  merging : Bool
  /-- First blocks of the granules whose merge read has ended: what they still lack is unwritten (R169, R179). -/
  merged : List Nat := []
  /-- It was restored from a dump (R426). -/
  restored : Bool
  /-- Write sequence numbers of the records that this one took the place of: they are durable when it is. -/
  carried : List Nat := []
  deriving DecidableEq, Repr

/-- A data frame on the media: its metadata (R262) and its logical blocks. -/
structure Frame where
  nsx : Nat
  lba : Nat
  wsn : Nat
  inst : Nat
  barchan : Nat
  keyslot : Nat
  iuoff : Nat
  gstart : Bool
  cont : Bool
  gend : Bool
  pad : Bool
  unw : Bool
  bandsn : Nat
  cells : Tab Cell
  /-- Blocks that the frame does not hold read as this marker (log entry 30). -/
  mark : Option Nat
  deriving DecidableEq, Repr

/-- What a delta record says (R222). -/
inductive JKind where
  | entry (nsx iu : Nat) (ent : Option MapEnt)
  /-- Bands are named by their serial numbers. -/
  | bandOpen (serial : Nat)
  | bandClose (serial : Nat)
  | checkpoint
  | lease (nsx gen : Nat)
  | redirect (lost spare : Nat)
  deriving DecidableEq, Repr

/-- A delta record. -/
structure JRec where
  kind : JKind
  wsn : Nat
  gend : Bool
  /-- Write sequence numbers of the Oasis records that the change took the place of. -/
  carried : List Nat := []
  /-- Its journal record number (R226). -/
  no : Nat := 0
  /-- The media location that it moves the entry away from (R205), and the stripe whose commit it belongs to (R222). -/
  was : Option MapEnt := none
  src : Option (Nat × Nat) := none
  deriving DecidableEq, Repr

/-- An IU placed in a stripe: its source, its destination and its frames. -/
structure PEnt where
  nsx : Nat
  iu : Nat
  src : MapEnt
  die : Nat
  block : Nat
  frame : Nat
  wsn : Nat
  group : Nat
  frames : List Frame
  /-- A reclaim copy charged to the instance that wrote it (R152). -/
  charged : Bool
  deriving DecidableEq, Repr

/-- A stripe placed in a band. -/
structure Stripe where
  band : Nat
  idx : Nat
  ents : List PEnt
  recs : List JRec
  /-- Its last group continues into the next stripe of its barchan (R200). -/
  cont : Bool
  /-- Map chunks that a checkpoint writes with it (R224). -/
  chunks : List Nat := []
  /-- For a journal stripe, by band serial: the stripes whose commits it covers (R222). -/
  fronts : Tab Nat := []
  /-- A stripe of the band table, the lease generations and the chunk directory (R224). -/
  table : Bool := false
  deriving DecidableEq, Repr

/-- A wordline that programs: its stripes, and the positions of the parity set whose programs have passed. -/
structure Wordline where
  band : Nat
  wl : Nat
  stripes : List Stripe
  passed : List Nat
  /-- It carries data for a Flush, a FUA write or a drain: its programs are urgent (R301). -/
  urgent : Bool
  readyAt : Nat
  issued : Bool
  deriving DecidableEq, Repr

/-- The states of a band (R203). -/
inductive BandSt where
  | opened | parked | full | victim | reclaimable | erasing
  deriving DecidableEq, Repr

/-- A band. -/
structure Band where
  /-- BANDSN (R262). -/
  serial : Nat
  barchan : Nat
  slc : Bool
  st : BandSt
  /-- The parity set P in order (R271, R272), with the block that each die gives. -/
  set : List (Nat × Nat)
  /-- Stripes placed, and stripes committed. -/
  placed : Nat
  committed : Nat
  /-- Stripes whose commits the programmed journal covers: the frontier (R222). -/
  frontier : Nat
  /-- Close time by the operating-hours counter, in seconds. -/
  closed : Nat
  forced : Bool
  /-- Its copies go to the purge barchans (R219), or are a wear move (R213), or a refresh or rebuild (R202). -/
  dest : Nat
  /-- Blocks to retire when the band becomes RECLAIMABLE (R270). -/
  retire : List Nat
  /-- The 256-bit summary (R219). -/
  summary : Nat
  /-- What a PARKED band waits for: 2^40 × namespace, plus a zone and 1 when it is that zone's own (R203, R204). -/
  waitsFor : Option Nat
  /-- Blocks whose erase has ended. -/
  erased : List Nat
  /-- The newest record number in a journal band (R205). -/
  jlast : Nat := 0
  deriving DecidableEq, Repr

/-- A relocation of one IU: its frames as they are read (R210). -/
structure Copying where
  nsx : Nat
  iu : Nat
  die : Nat
  block : Nat
  frame : Nat
  size : Nat
  got : Tab Frame
  dest : Nat
  /-- The instance charged and the band, for reclaim and purge (R152, R219). -/
  charge : Option Nat
  placed : Bool
  deriving DecidableEq, Repr

/-- Zone states (R178). -/
inductive ZoneSt where
  | empty | implicitOpen | explicitOpen | closed | full | readOnly | offline
  deriving DecidableEq, Repr

/-- A zone. A zone that the table does not hold is Empty. -/
structure Zone where
  st : ZoneSt
  wp : Nat
  barchan : Option Nat
  /-- FSN of the last accepted write (R176). -/
  fsn : Nat
  deriving DecidableEq, Repr

/-- A namespace (R162 to R166). -/
structure Ns where
  nsze : Nat
  lbaf : Nat
  /-- The protection type, 0 to 3. -/
  pit : Nat
  /-- FLBAS bit 4, and DPS bit 3. -/
  extended : Bool
  piFirst : Bool
  zoned : Bool
  /-- Granules of an IU: 1, 4 or 16. -/
  iu : Nat
  sflags : Nat
  zsze : Nat
  zactive : Nat
  zopen : Nat
  /-- Its dedicated barchan (R171). -/
  stream : Option Nat
  handles : List Nat
  shared : Bool
  attached : List Nat
  slc : Bool
  zones : Tab Zone
  nguid : Nat
  eui : Nat
  /-- Error Recovery by instance has TLER and DULBE; the namespace keeps DULBE. -/
  dulbe : Bool
  tler : Nat
  /-- Key Per I/O enabled: KBASE and NKT (R363). -/
  kpio : Option (Nat × Nat)
  /-- Namespace Write Protection Config: 0 none, 1 until changed, 2 until power cycle, 3 for good (R96). -/
  wprot : Nat := 0
  deriving DecidableEq, Repr

/-- Statistics of a barchan (R185). -/
structure BarStat where
  kind : Nat
  ruh : Nat
  nsid : Nat
  hbw : Nat
  mbw : Nat
  rcb : Nat
  padb : Nat
  zslba : Nat
  deriving DecidableEq, Repr

/-- A Purge Range after its commit point (R219). -/
structure Purge where
  ctx : Nat
  inst : Nat
  nsx : Nat
  bands : List Nat
  erased : Nat
  residue : Option Nat
  deriving DecidableEq, Repr

/-- A checkpoint: its descriptor and the map it holds (R224, R226). -/
structure Ckpt where
  seq : Nat
  jpos : Nat
  cseq : Nat
  hours : Nat
  clean : Bool
  map : Tab MapEnt
  /-- The band table: by serial, whether the band was closed; and the lease generations (R224). -/
  bands : Tab Bool := []
  gens : Tab Nat := []
  /-- The chunk directory, the stripes of directory and tables in order, and the chunks still to be written (R224, R226). -/
  chunks : Tab MapEnt := []
  dir : List MapEnt := []
  todo : List Nat := []
  deriving DecidableEq, Repr

/-- What a dump in the Wadi holds (R423). -/
structure WadiDump where
  tail : List JRec
  slots : Tab OSlot
  seq : Nat
  trailer : Bool
  /-- Mode at detection: true when protected. -/
  prot : Bool
  /-- NGRAN of its header, in granules. -/
  ngran : Nat
  /-- HOURS, CAUSE, JREC and CSEQ of its header (R425). -/
  hours : Nat
  cause : Nat
  jrec : Nat
  cseq : Nat
  deriving DecidableEq, Repr

/-- PTX's state. Map keys are 2^48 × NSX + IU, location keys 2^27 × die + 2^15 × block + frame. -/
structure Ptx where
  regs : RegFile
  nss : Tab Ns
  map : Tab MapEnt
  slots : Tab OSlot
  /-- The map cache by set: segments with their dirty state, most recently used first (R195). -/
  cache : Tab (List (Nat × Bool))
  wsn : Nat
  bands : Tab Band
  nextSerial : Nat
  /-- The band that a barchan fills. -/
  filling : Tab Nat
  wls : Tab Wordline
  /-- Programmed stripes whose commit waits for a later stripe, by barchan (R200). -/
  waiting : Tab (List Stripe)
  copies : Tab Copying
  nextId : Nat
  media : Tab Frame
  /-- Delta records not yet programmed, newest first, and the time of the oldest. -/
  tail : List JRec
  tailAt : Nat
  /-- Records appended since manufacture, and those in programmed journal stripes, newest first. -/
  jnext : Nat
  journal : List JRec
  ckpt : Ckpt
  ckptRun : Option Ckpt
  /-- 0: the first descriptor copy is being programmed; 1: it has been; 2: the rest of the descriptor is; 3: its VALID mark is. -/
  ckptStage : Nat
  /-- The last CKSEQ taken (R226), and the map chunks dirtied since the last checkpoint started (R224). -/
  ckptSeq : Nat
  dirtyChunks : List Nat
  holds : List (Nat × Nat)
  purges : Tab Purge
  /-- Barchans whose partial stripe must be programmed (R201). -/
  mustPad : List Nat
  /-- Since when a stripe of a barchan is ready (R186). -/
  readyAt : Tab Nat
  /-- The capacity state 0 to 5 (R215), and since when its timed condition holds. -/
  cap : Nat
  capSince : Option Nat
  /-- WSN when the capacity state last became CONSTRAINED or write-protected (R214). -/
  capWsn : Nat
  /-- FBEs that reclaim has freed since the last host band open (R215). -/
  freed : Nat
  /-- Capacity taken from the bad-block allowance, in bytes (R206). -/
  spent : Nat
  /-- Unprotected mode, its reason, changes and the device timestamp of the last (R129, R135). -/
  unp : Bool
  reason : Nat
  switches : Nat
  lastSw : Nat
  /-- A drain of R130 is in progress. -/
  draining : Bool
  /-- The running drain exposes data that a dump cannot carry (R132). -/
  exposed : Bool
  /-- The TiB of programmed bytes that is running, and the bytes that wear moves have taken in it (R213). -/
  wlWindow : Nat
  wlMoved : Nat
  flushes : Nat
  maxFlush : Nat
  fdp : Bool
  /-- FDP event enables, by handle: a list of event types; and recorded events (type, handle, time). -/
  fdpEnable : Tab (List Nat)
  fdpLog : List (Nat × Nat × Nat)
  stats : Tab BarStat
  hostRead : Nat
  hostWritten : Nat
  /-- Metadata bytes that came with them (R185). -/
  hostMeta : Nat
  /-- Capacity and map cost in bytes that a growth or a Format reserves from its fetch until it acts, by context (R188; log entries 142, 196). -/
  growths : Tab (Nat × Nat)
  mediaWritten : Nat
  mediaErased : Nat
  readCmds : Nat
  writeCmds : Nat
  mediaErrors : Nat
  unsafeShut : Nat
  /-- Wadi capacity in erased blocks, in bytes of user data, and the dump held. -/
  wadiErased : Nat
  dump : Option WadiDump
  /-- DUMPSEQ last restored (R427). -/
  restored : Nat
  wadiSwapAt : Nat
  deriving DecidableEq, Repr

/-- The die states of R247. -/
inductive DieSt where
  | idle | read | prog | ps | psRead | erase | es | esRead | esProg | reset | out
  deriving DecidableEq, Repr

/-- What an array operation does. -/
inductive OpKind where
  /-- One wordline of a parity position (wordline key). -/
  | program (wl : Nat)
  /-- One block, for the band's next use (block key, band if one is erasing, SLC mode). -/
  | erase (blk : Nat) (band : Option Nat) (slc : Bool)
  deriving DecidableEq, Repr

/-- A program or an erase on a die. -/
structure Op where
  kind : OpKind
  /-- Its last start or resume, and the array time before it (100 ns units). -/
  from' : Nat
  ran : Nat
  suspends : Nat
  resumes : Nat
  nests : Nat
  deriving DecidableEq, Repr

/-- Internal work queued for a die. -/
inductive Work where
  | op (k : OpKind)
  | read (job : Nat)
  /-- Training or calibration of its CE (R236). -/
  | calibrate
  deriving DecidableEq, Repr

/-- A queued internal operation. -/
structure Queued where
  work : Work
  since : Nat
  urgent : Bool
  deriving DecidableEq, Repr

/-- A die. -/
structure Die where
  st : DieSt
  op : Option Op
  nested : Option Op
  /-- Reads in the array: frame jobs and their starts. -/
  reads : List (Nat × Nat)
  /-- A suspend command has been issued and the die has not reported yet. -/
  suspending : Bool
  /-- When that command was issued (R258). -/
  suspAt : Nat := 0
  /-- The end of the hold of the present suspension (R248). -/
  holdEnd : Nat
  holdOver : Bool
  /-- Host reads queued (frame jobs). -/
  host : List Nat
  internal : List Queued
  /-- Consecutive failed resets in a recovery, and the start of the present one. -/
  resets : Nat
  resetAt : Nat := 0
  /-- The read-retry entry applied through the read-offset feature address (R251), and the shift of a soft read in DAC steps (R268). -/
  entry : Nat := 0
  shift : Int := 0
  deriving DecidableEq, Repr

/-- MBE's state. -/
structure Mbe where
  regs : RegFile
  /-- Block records; a block without one is free, with `base` erases. -/
  blks : Tab Blk
  base : Nat
  dies : Tab Die
  /-- SEQSTAT.STATE by channel (absent: not populated), and the cluster NAND temperature of the last training. -/
  chSt : Tab Nat
  trained : Tab Int
  /-- Temperature bands of the clusters, as PTM gives them (R250). -/
  tband : Tab Nat
  /-- Wadi blocks exchanged: the position and the block that has taken its place (R257). -/
  wadiSwap : Tab Nat
  deriving DecidableEq, Repr

/-- What a frame read is for. -/
inductive Purpose where
  /-- A granule of a host command (context, first LBA). -/
  | host (ctx lba : Nat)
  /-- One frame of a relocation. -/
  | copy (id off : Nat)
  /-- A missing granule of an Oasis slot (R169). -/
  | merge (slot lba : Nat)
  | patrol
  /-- A helper of another frame read, in a role of its stripe. -/
  | helper (job role : Nat)
  deriving DecidableEq, Repr

/-- Where a frame read stands (R268). -/
inductive JobStage where
  | queued | running | transfer | staged | soft2 | soft3 | localRec | globalRec | mirage
  deriving DecidableEq, Repr

/-- A frame read. -/
structure Job where
  purpose : Purpose
  die : Nat
  block : Nat
  frame : Nat
  waymark : Option Nat
  fsn : Nat
  fetchedAt : Nat
  stage : JobStage
  /-- The frame's location as the map names it; die and block are where it is read (a redirect may differ, R282). -/
  loc : Nat
  /-- Read-retry entries left in the order set at the first read (R253), and hard retries made. -/
  order : List Nat
  /-- The entry of the present read. -/
  entry : Nat := 0
  tries : Nat
  /-- The hard attempt whose decoder stopped with the fewest unsatisfied checks: their number and its entry (R268). -/
  best : Option (Nat × Nat) := none
  /-- Die reads still to be made for the present step. -/
  readsLeft : Nat
  /-- Limited Retry, and a shortened sequence (R269). -/
  lr : Bool
  shortened : Bool
  /-- The command goes on; the full sequence runs for the map alone. -/
  background : Bool
  noMirage : Bool
  /-- Helper outcomes by role: true for an accepted frame. -/
  helpers : Tab Bool
  wanted : List Nat
  deriving DecidableEq, Repr

/-- A Parity Compute job descriptor (R288). -/
structure PcDesc where
  op : Nat
  nin : Nat
  nout : Nat
  flags : Nat
  len : Nat
  /-- Every reserved field is 0; every page address is 4 KiB-aligned. -/
  reservedZero : Bool
  aligned : Bool
  /-- Its buffers overlap, which the host must not let happen: the outputs are undefined (R289). -/
  overlap : Bool
  /-- Coefficients by output and input. -/
  coef : List (List Nat)
  deriving DecidableEq, Repr

/-- A Parity Compute job. -/
structure PcJob where
  ctx : Nat
  inst : Nat
  fsn : Nat
  desc : PcDesc
  fetchedAt : Nat
  running : Bool
  deriving DecidableEq, Repr

/-- The states of a die in DIP (R279). -/
inductive DieHealth where
  | inService | suspect | retiring | retired
  deriving DecidableEq, Repr

/-- DIP's record of a die (R279, R294). -/
structure DieRec where
  health : DieHealth
  /-- FLAGS of log page 0xC4. -/
  heldOut : Bool
  byCommand : Bool
  gbad : Nat
  soft : Nat
  dune : Nat
  suspectAt : Nat
  /-- Watchdog expiries of the last 60 s, by time. -/
  expiries : List Nat
  /-- Blocks that reached steps 5 to 7, with times (R279). -/
  hurt : List (Nat × Nat)
  /-- Blocks to be rebuilt, and how many there were. -/
  todo : List Nat
  total : Nat
  /-- The block being promoted, its spare, and the units programmed. -/
  promoting : Option (Nat × Nat)
  deriving DecidableEq, Repr

/-- DIP's state. -/
structure Dip where
  regs : RegFile
  dies : Tab DieRec
  jobs : Tab Job
  /-- Tokens of the Mirage bucket, in plane-µs. -/
  tokens : Nat
  /-- Redirects: lost block key to spare block key (R282). -/
  redirect : Tab Nat
  /-- Read counts by block key (R270). -/
  rdcnt : Tab Nat
  pcJobs : Tab PcJob
  lastPc : Nat
  unrec : Nat
  mirages : Nat
  mirdeny : Nat
  softdec : Nat
  dunerec : Nat
  mispl : Nat
  reliability : Bool
  /-- Published die states and predicted free times (R305). -/
  published : Tab (DieSt × Nat)
  patrolAt : Nat
  deriving DecidableEq, Repr

/-- The flash side as a whole. -/
structure Flash where
  hw : Attached
  ptx : Ptx
  mbe : Mbe
  dip : Dip
  deriving DecidableEq, Repr

/-- What the flash side tells the rest of the device. -/
inductive Note where
  | report (r : Report)
  /-- A granule of a host command is ready (context, first LBA, its blocks, rebuilt by a Mirage read). -/
  | granule (ctx lba : Nat) (cells : Tab Cell) (mirage : Bool)
  /-- A granule of a host command is lost (context, DNR). -/
  | lost (ctx lba : Nat) (dnr : Bool)
  /-- Frames reclaimed for an instance (R152): instance, frames, WSN. -/
  | charge (inst frames wsn : Nat)
  /-- Purge relocations charged to the purging instance (R219). -/
  | purgeCharge (inst frames : Nat)
  /-- A Purge has ended (context, bands, residue die). -/
  | purged (ctx bands : Nat) (residue : Option Nat)
  /-- A zone became Read Only (namespace, zone). -/
  | zoneReadOnly (nsx zone : Nat)
  /-- A vendor asynchronous event (information, log page) to every instance. -/
  | async (info page : Nat)
  /-- A checkpoint descriptor goes to the firmware store (offset, bytes). -/
  | descriptor (off : Nat) (bytes : List Byte)
  deriving DecidableEq, Repr

end Sys2Proof.Machine
end

