-- ==== Sys2Proof/Machine/Media.lean ====
section
/-! DEFINITION. What is attached and what it adds up to (R206, R232, R256), block records and free blocks (R211, R239, R254),
and the pure parity rules of chapter 09 (R264, R265, R271 to R275). -/

namespace Sys2Proof.Machine

/-- Map, location and block keys. -/
def mapKey (nsx iu : Nat) : Nat := nsx * 2 ^ 48 + iu
def locKey (die block frame : Nat) : Nat := die * 2 ^ 27 + block * 2 ^ 15 + frame
def blkKey (die block : Nat) : Nat := die * 4096 + block

/-- Whether a channel is populated (R231, R232). -/
def Attached.hasChannel (h : Attached) (ch : Nat) : Bool :=
  match Tab.get? h.clusters (ch / 8) with
  | some c => c.chen.testBit (ch % 8)
  | none => false

/-- The populated channels, in order. -/
def Attached.channels (h : Attached) : List Nat := (List.range 64).filter h.hasChannel

/-- The dies of a channel in index order: d = ch × 32 + ce × 4 + lun (R232). -/
def Attached.diesOf (h : Attached) (ch : Nat) : List Nat :=
  match Tab.get? h.clusters (ch / 8) with
  | some c =>
    if c.chen.testBit (ch % 8) then
      (List.range c.ce).flatMap fun ce => (List.range c.luns).map fun lun => ch * 32 + ce * 4 + lun
    else []
  | none => []

/-- Whether a die index is attached. -/
def Attached.hasDie (h : Attached) (d : Nat) : Bool :=
  match Tab.get? h.clusters (d / 256) with
  | some c => c.chen.testBit (d / 32 % 8) && decide (d / 4 % 8 < c.ce) && decide (d % 4 < c.luns)
  | none => false

/-- Every attached die. -/
def Attached.dies (h : Attached) : List Nat := h.channels.flatMap h.diesOf

/-- A die descriptor's bytes before its CRC (R234). -/
def DieDesc.head (e : DieDesc) : List Byte :=
  let half := fun (xs : List Nat) => xs.flatMap (leBytes 2)
  let one := fun (xs : List Nat) => xs.flatMap (leBytes 1)
  fit 124 (leBytes 4 e.sig ++ one [e.ver, e.cells, e.planes, e.luns] ++ half [e.page, e.spare, e.wls, e.blks, e.maxRate] ++ one [b2n e.ipr, e.flags]
    ++ half [e.trn, e.trnx, e.trs, e.trsx, e.tpn, e.tpnx, e.tps, e.tpsx, e.tbe, e.tbex, e.trst, e.tsuspp, e.tsuspe, e.tresume, e.tminrunp, e.tminrune]
    ++ one [e.nsuspp, e.nsuspe, e.nestmax, e.nretry] ++ half [e.ecycn, e.ecycs] ++ fit 16 e.opc)

/-- The descriptor's 128 bytes (R234). -/
def DieDesc.bytes (e : DieDesc) : List Byte := e.head ++ leBytes 4 (e.crc.getD (crc32c e.head))

/-- CRC, SIG, VER, PLANES and PAGE are as R234 and R235 require. -/
def DieDesc.good (e : DieDesc) : Bool :=
  decide (e.sig = 0x44445343 ∧ e.ver = 1 ∧ e.planes = 4 ∧ e.page = 16384) && (match e.crc with | some c => c == crc32c e.head | none => true)

/-- The descriptor of a die's kind, one of 16 (R234). -/
def Attached.desc (h : Attached) (d : Nat) : DieDesc :=
  match Tab.get? h.clusters (d / 256) with
  | some c => Tab.getD h.descs (c.kind % 16) {}
  | none => {}

/-- Bytes of user data in a block and in a die, in native mode. -/
def DieDesc.blockBytes (e : DieDesc) : Nat := e.wls * e.cells * 65536
def DieDesc.dieBytes (e : DieDesc) : Nat := e.blks * e.blockBytes

/-- Program units of a block, by mode (R234). -/
def DieDesc.units (e : DieDesc) (slc : Bool) : Nat := if slc then e.wls else e.wls * e.cells

/-- Program units of one wordline program, by mode (R244). -/
def DieDesc.step (e : DieDesc) (slc : Bool) : Nat := if slc then 1 else e.cells

/-- Rated cycles by mode (R234). -/
def DieDesc.rated (e : DieDesc) (slc : Bool) : Nat := if slc then e.ecycs else e.ecycn

def gib : Nat := 1073741824
def tib : Nat := 1099511627776

/-- Raw capacity, parity-set data capacity, offered capacity and bad-block allowance, in bytes (R206). -/
def Attached.raw (h : Attached) : Nat :=
  (h.channels.map fun ch => (h.diesOf ch).length * (h.desc (ch * 32)).dieBytes).sum
def Attached.dataCap (h : Attached) : Nat := h.raw * 32 / 38
def Attached.offered (h : Attached) : Nat := h.raw * 3 / 4 / gib * gib
def Attached.allowance (h : Attached) : Nat := h.dataCap * 2 / 100

/-- Wadi bands and the Wadi's user capacity in bytes (R256). -/
def Attached.wadiBands (h : Attached) : Nat := max 8 (ceilDiv (32 * h.raw) (512 * tib))
def Attached.slcBandBytes (h : Attached) : Nat := 32 * (h.desc ((h.channels.headD 0) * 32)).wls * 65536
def Attached.wadiBytes (h : Attached) : Nat := h.wadiBands * h.slcBandBytes

/-- Position of a block among the Wadi blocks as they are first placed: the same number on every channel within one, the
highest blocks of the dies in turn (log entry 33). -/
def Attached.wadiPos (h : Attached) (key : Nat) : Option Nat :=
  let die := key / 4096
  let ds := h.diesOf (die / 32)
  let chs := h.channels
  if h.hasDie die && decide (key % 4096 < (h.desc die).blks) then
    let n := (((h.desc die).blks - 1 - key % 4096) * ds.length + ds.idxOf die) * chs.length + chs.idxOf (die / 32)
    if n < 38 * h.wadiBands then some n else none
  else none

/-- Whether a block is a Wadi block now, after the exchanges of R257. -/
def Flash.isWadi (f : Flash) (key : Nat) : Bool :=
  f.mbe.wadiSwap.any (fun e => e.2 == key) ||
    match f.hw.wadiPos key with
    | some n => !Tab.has f.mbe.wadiSwap n
    | none => false

/-- A block's record as its 8 B word (R239). -/
def Blk.word (b : Blk) : Nat :=
  let st := match b.st with
    | .unknown => 0
    | .erased => 1
    | .opened => 2
    | .full => 3
    | .bad => 4
  st * 2 ^ 61 + b2n b.slc * 2 ^ 60 + b.next % 2 ^ 12 * 2 ^ 48 + b.done % 2 ^ 12 * 2 ^ 36 + b.ptb % 8 * 2 ^ 33 + b.ptbx % 8 * 2 ^ 30 + b.ecnt % 2 ^ 20 * 2 ^ 10

def Flash.setBlk (f : Flash) (key : Nat) (b : Blk) : Flash := { f with mbe := { f.mbe with blks := Tab.set f.mbe.blks key b } }

/-- DIP's record of a die that nothing has happened to. -/
def DieRec.fresh : DieRec := ⟨.inService, false, false, 0, 0, 0, 0, [], [], [], 0, none⟩

def Flash.dieRec (f : Flash) (d : Nat) : DieRec := Tab.getD f.dip.dies d DieRec.fresh
def Flash.setDieRec (f : Flash) (d : Nat) (r : DieRec) : Flash := { f with dip := { f.dip with dies := Tab.set f.dip.dies d r } }

/-- A die takes no operations any more once it is RETIRING (R280). -/
def DieHealth.leaving : DieHealth → Bool
  | .retiring => true | .retired => true | _ => false

/-- The record of a block. A block with no record has not been erased since the start: UNKNOWN (R242). A die that is retired turns its blocks BAD
(R239). -/
def Flash.blk (f : Flash) (key : Nat) : Blk :=
  let b := Tab.getD f.mbe.blks key ⟨.unknown, f.isWadi key, 0, 0, 0, 0, f.mbe.base, f.isWadi key, 0⟩
  if (f.dieRec (key / 4096)).health.leaving then { b with st := .bad } else b

def Flash.inService (f : Flash) (d : Nat) : Bool := f.hw.hasDie d && !(f.dieRec d).health.leaving

/-- Idle die record. -/
def Die.idle : Die := ⟨.idle, none, none, [], false, 0, 0, false, [], [], 0, 0, 0, 0⟩

def Flash.die (f : Flash) (d : Nat) : Die := Tab.getD f.mbe.dies d Die.idle
def Flash.setDie (f : Flash) (d : Nat) (x : Die) : Flash := { f with mbe := { f.mbe with dies := Tab.set f.mbe.dies d x } }
def Flash.updDie (f : Flash) (d : Nat) (g : Die → Die) : Flash := f.setDie d (g (f.die d))

/-- The band that holds a block. -/
def Flash.bandOf (f : Flash) (die block : Nat) : Option (Nat × Band) :=
  f.ptx.bands.find? fun e => e.2.set.contains (die, block)

/-- A spare block that a promotion fills or has filled is not free (R281). -/
def Flash.isSpare (f : Flash) (key : Nat) : Bool :=
  f.dip.redirect.any (fun e => e.2 == key) || f.dip.dies.any fun e => match e.2.promoting with
    | some p => p.2 == key
    | none => false

/-- A free block: erased in its pool's mode, in no band, no Wadi block, on a die in service. -/
def Flash.isFree (f : Flash) (key : Nat) : Bool :=
  decide ((f.blk key).st = .erased) && (f.blk key).slc == (f.blk key).pool && (f.bandOf (key / 4096) (key % 4096)).isNone && !f.isWadi key && !f.isSpare key
    && f.inService (key / 4096)

/-- Free blocks of a die of one pool. -/
def Flash.freeOf (f : Flash) (d : Nat) (slc : Bool) : List Nat :=
  (f.mbe.blks.filter fun e => e.1 / 4096 == d && e.2.pool == slc && f.isFree e.1).map Prod.fst

/-- A block that waits for its first erase since the start (R242): on a die in service, in no band, no spare. -/
def Flash.unerased (f : Flash) (key : Nat) : Bool :=
  (f.blk key).st == .unknown && (f.bandOf (key / 4096) (key % 4096)).isNone && !f.isSpare key && f.inService (key / 4096)

/-- A die's next erase after the start: its Wadi blocks go first, unless they hold a dump, then the others, from which the cluster's reserve fills
(R242; the order within a die DEDUCED, log entry 184). -/
def Flash.nextErase (f : Flash) (d : Nat) : Option Nat :=
  let n := (f.hw.desc d).blks
  let mine := f.mbe.blks.filter fun e => e.1 / 4096 == d
  let wadi := (((List.range (min n (f.hw.wadiBands * 38))).map fun i => blkKey d (n - 1 - i)).takeWhile fun k => (f.hw.wadiPos k).isSome)
    ++ (f.mbe.wadiSwap.map Prod.snd).filter fun k => k / 4096 == d
  let first := if f.ptx.dump.isSome then none else wadi.find? fun k => f.isWadi k && f.unerased k
  match first with
  | some k => some k
  | none =>
    let listed := (mine.filter fun e => !f.isWadi e.1 && f.unerased e.1).map Prod.fst
    match listed.head?, Tab.firstFree f.mbe.blks (blkKey d 0) (min n (mine.length + 1)) with
    | some k, _ => some k
    | none, some k => if f.unerased k && !f.isWadi k then some k else none
    | none, none => none

/-- User capacity of the Wadi's erased blocks, in bytes (R256, R257). -/
def Flash.wadiCount (f : Flash) : Nat :=
  (f.mbe.blks.filter fun e => e.2.st == .erased && f.isWadi e.1).length * 32 * (f.hw.desc ((f.hw.channels.headD 0) * 32)).wls * 65536 / 38

/-- The block a die gives a new band (R211): lowest erase count below the rated cycles, or the highest for cold data; a block
at or above them only when there is no other. -/
def Flash.pick (f : Flash) (d : Nat) (slc cold : Bool) : Option Nat :=
  let rated := (f.hw.desc d).rated slc
  let rank := fun key =>
    let e := (f.blk key).ecnt
    if e < rated then (if cold then 1048576 - e else e) else 2097152 + e
  leastBy rank (f.freeOf d slc)

/-- Reads that wait at the cluster scheduler for a die (R186). -/
def Die.waitingReads (x : Die) : Nat :=
  x.host.length + (x.internal.filter fun q => match q.work with
    | .read _ => true
    | _ => false).length

/-- A candidate of the choice of R186: waiting reads, erase count, die, block key. -/
abbrev BandCand := Nat × Nat × Nat × Nat

/-- Rank of a candidate: waiting reads, then erase count, then die index (R186). -/
def BandCand.rank (c : BandCand) : Nat := (c.1 * 2097152 + c.2.1) * 2048 + c.2.2.1

/-- The candidates of a channel, best first, at most two. -/
def Flash.bestDies (f : Flash) (ch : Nat) (slc cold : Bool) : List BandCand :=
  let cs : List BandCand := (f.hw.diesOf ch).filterMap fun d =>
    if f.inService d then (f.pick d slc cold).map fun k => ((f.die d).waitingReads, (f.blk k).ecnt, d, k) else none
  match leastBy BandCand.rank cs with
  | none => []
  | some a =>
    match leastBy BandCand.rank (cs.filter (· ≠ a)) with
    | none => [a]
    | some b => [a, b]

/-- The `n` best of a list by rank, in the list's order. -/
def takeBest (n : Nat) (cs : List BandCand) : List BandCand :=
  cs.filter fun c => decide ((cs.filter fun x => decide (x.rank < c.rank)).length < n)

/-- The parity set of a new band in the order of R272, as (die, block) pairs, without the clusters of a list; none where none can be formed. -/
def Flash.paritySet (f : Flash) (slc cold : Bool) (skip : List Nat := []) : Option (List (Nat × Nat)) :=
  let per := ((f.hw.channels.filter fun ch => !skip.contains (ch / 8)).map fun ch => f.bestDies ch slc cold).filter (· ≠ [])
  let pair := fun c : BandCand => (c.2.2.1, c.2.2.2 % 4096)
  let n := per.length
  if 38 ≤ n then some ((takeBest 38 (per.filterMap List.head?)).map pair)
  else if 19 ≤ n then
    let dd := 38 - n
    let two := (per.take dd).map fun cs =>
      match cs with
      | a :: b :: _ => if a.2.2.1 < b.2.2.1 then [a, b] else [b, a]
      | cs => cs
    if two.all (fun cs => cs.length == 2) then
      let firsts := (two.filterMap List.head?) ++ ((per.drop dd).filterMap List.head?)
      some ((firsts.take 19 ++ two.filterMap (fun cs => cs[1]?) ++ firsts.drop 19).map pair)
    else none
  else none

/-! ## Frames as they lie in a block (R260 to R262, R265) -/

/-- Protection information as bytes, by LBA format: guard, application tag, storage and reference tag, each most significant byte first (the NVMe base
specification's; PRESUMED, log entry 211). -/
def Pi.bytes (lbaf : Nat) (p : Pi) : List Byte :=
  if lbaf = 2 then (leBytes 2 p.guard).reverse ++ (leBytes 2 p.app).reverse ++ (leBytes 4 p.ref).reverse
  else if lbaf = 3 then (leBytes 8 p.guard).reverse ++ (leBytes 2 p.app).reverse ++ (leBytes 6 p.ref).reverse
  else if lbaf = 4 then (leBytes 4 p.guard).reverse ++ (leBytes 2 p.app).reverse ++ (leBytes 4 p.stag).reverse ++ (leBytes 6 p.ref).reverse
  else []

/-- A frame's metadata without its CRC: frame bytes 4,155:4,096 (R262). -/
def Frame.metaHead (fr : Frame) (lbaf : Nat) : List Byte :=
  let pi := match fr.cells.head? with
    | some c => c.2.block.pi.bytes lbaf
    | none => []
  let w := fr.nsx % 2 ^ 13 * 2 ^ 51 + fr.inst % 2 ^ 11 * 2 ^ 40 + fr.barchan % 2 ^ 12 * 2 ^ 28 + fr.keyslot % 2 ^ 16 * 2 ^ 12 + fr.iuoff % 16 * 2 ^ 8
    + b2n fr.gstart * 2 ^ 7 + b2n fr.cont * 2 ^ 6 + b2n fr.gend * 2 ^ 5 + b2n fr.pad * 2 ^ 4 + b2n fr.unw * 2 ^ 3
  fit 16 pi ++ leBytes 8 fr.lba ++ leBytes 8 fr.wsn ++ leBytes 8 w ++ leBytes 4 fr.bandsn ++ zeros 16

/-- Bytes 4,159:0 of a data frame over its 4,096 user bytes: user bytes, metadata and CRC (R260, R262). -/
def Frame.bytes (fr : Frame) (lbaf : Nat) (user : List Byte) : List Byte :=
  let head := fit 4096 user ++ fr.metaHead lbaf
  head ++ leBytes 4 (crc32c head)

/-- Where frame `f` of a block lies: program unit, plane, and first byte of the plane's page (R261). -/
def framePlace (f : Nat) : Nat × Nat × Nat := (f / 16, f % 16 / 4, f % 4 * 4552)

/-! ## Dune parity (R271 to R275) -/

/-- The role of data unit `i`. -/
def dataRole (i : Nat) : Nat := i + i / 8

/-- The local group of a role; 4 for the global parities. -/
def roleGroup (r : Nat) : Nat := r / 9

/-- Whether a role is local parity, and whether it is data. -/
def isLocalParity (r : Nat) : Bool := r % 9 == 8 && decide (r < 36)
def isData (r : Nat) : Bool := decide (r < 36) && r % 9 != 8

/-- The position in P of role `r` in stripe `s`, and the role of a position (R271). -/
def posOf (r s : Nat) : Nat := (r + s) % 38
def roleAt (pos s : Nat) : Nat := (pos + 38 - s % 38) % 38

/-- Excess of a local group under a set of lost roles (R274). -/
def excess (lost : List Nat) (g : Nat) : Nat :=
  let u := (lost.filter fun r => isData r && roleGroup r == g).length
  u - (if lost.contains (9 * g + 8) then 0 else 1)

/-- Whether the data of a stripe is recoverable under a set of lost roles (R274). -/
def recoverable (lost : List Nat) : Bool :=
  let ex := (List.range 4).map (excess lost)
  let globals := 2 - (lost.filter fun r => decide (36 ≤ r)).length
  decide (ex.sum ≤ globals) && decide ((ex.filter fun e => decide (0 < e)).length ≤ 1)

/-- The other roles of the local group of a role. -/
def localHelpers (r : Nat) : List Nat := ((List.range 9).map fun i => 9 * roleGroup r + i).filter (· ≠ r)

/-- Multiplication by α in GF(2^8) with x^8 + x^4 + x^3 + x^2 + 1 (R273). -/
def gf8x (a : Nat) : Nat := let d := 2 * a; if 256 ≤ d then (d ^^^ 0x11D) % 256 else d

/-- The product of two field elements (R273). -/
def gf8mul (a b : Nat) : Nat :=
  ((List.range 8).foldl (fun (acc : Nat × Nat) i => (if b.testBit i then acc.1 ^^^ acc.2 else acc.1, gf8x acc.2)) (0, a % 256)).1

/-- α to a power. -/
def gf8pow : Nat → Nat
  | 0 => 1
  | n + 1 => gf8x (gf8pow n)

/-- A parity byte: the sum of coefficient times data byte (R273, R289). -/
def paritySum (coef bytes : List Nat) : Nat :=
  ((coef.zip bytes).map fun p => gf8mul p.1 p.2).foldl (fun a b => a ^^^ b) 0

/-- L, G0 and G1 over the 32 data bytes of one position (R273). -/
def parityL (bytes : List Nat) (g : Nat) : Nat := paritySum (List.replicate 8 1) ((bytes.drop (8 * g)).take 8)
def parityG0 (bytes : List Nat) : Nat := paritySum ((List.range 32).map gf8pow) bytes
def parityG1 (bytes : List Nat) : Nat := paritySum ((List.range 32).map fun i => gf8pow (2 * i)) bytes

/-! ## The LDPC code and the scrambler (R264, R265) -/

/-- The circulants of a block column: rows of the base matrix with shifts (R264). -/
def ldpcColumn (c : Nat) : List (Nat × Nat) :=
  if c < 520 then (List.range 4).map fun t => ((c + 12 * t) % 49, (c * (2 * t + 3) + 17 * t) % 64)
  else if c = 568 then [(48, 0)]
  else [(c - 520, 0), (c - 519, 0)]

/-- A 64-bit block moved through a circulant of shift `s`: row `a` takes the bit of column (a + s) mod 64. -/
def circulant (s : Nat) (x : W64) : W64 := x.rotateRight (s % 64)

/-- The sum of the information contributions to each row (R264). -/
def ldpcRows (info : List W64) : List W64 :=
  (List.range 49).map fun r =>
    (((List.range 520).zip info).foldl (fun (acc : W64) (p : Nat × W64) =>
      ((ldpcColumn p.1).filter fun q => q.1 == r).foldl (fun (a : W64) q => a ^^^ circulant q.2 p.2) acc) 0)

/-- The parity blocks: p₀ = s₀ and pⱼ = sⱼ ⊕ pⱼ₋₁ (R264). -/
def ldpcChain (prev : W64) : List W64 → List W64
  | [] => []
  | s :: rest => let p := s ^^^ prev; p :: ldpcChain p rest

def ldpcEncode (info : List W64) : List W64 := info ++ ldpcChain 0 (ldpcRows info)

/-- The initial state of the scrambler of a frame (R265). -/
def scramblerSeed (d block f : Nat) : Nat :=
  let c := crc32c (leBytes 8 (d + block * 2 ^ 11 + f * 2 ^ 23)) % 2 ^ 31
  if c = 0 then 1 else c

/-- One step of the generator x^31 + x^28 + 1 (R265). -/
def scramblerStep (s : Nat) : Nat := (s * 2 + ((s / 2 ^ 30) ^^^ (s / 2 ^ 27)) % 2) % 2 ^ 31

/-- The next byte of the sequence, in codeword bit order, and the state after it; each step gives its new bit (R265 does not say which stage is the
output: DESIGN CHOICE, log entry 212). -/
def scramblerByte (s : Nat) : Nat × Nat :=
  (List.range 8).foldl (fun (a : Nat × Nat) i => let t := scramblerStep a.2; (a.1 + t % 2 * 2 ^ i, t)) (0, s)

/-- A frame scrambled, or descrambled, by the same sequence (R265). -/
def scrambled (seed : Nat) : List Byte → List Byte
  | [] => []
  | b :: rest => let r := scramblerByte seed; (b ^^^ BitVec.ofNat 8 r.1) :: scrambled r.2 rest

end Sys2Proof.Machine
end

