-- ==== Sys2Proof/Machine/PtxMap.lean ====
section
/-! DEFINITION. The map, the Oasis, the delta journal and the durability mode (chapters 04, 06 and 07: R124 to R136, R168,
R169, R192 to R198, R222, R223). -/

namespace Sys2Proof.Machine

/-- Bytes of data in a logical block, and logical blocks of a granule and of an IU (R163, R166). -/
def Ns.blockBytes (n : Ns) : Nat := if n.lbaf = 0 then 512 else 4096
def Ns.perGranule (n : Ns) : Nat := 4096 / n.blockBytes
def Ns.perIu (n : Ns) : Nat := n.iu * n.perGranule

/-- Guard width in bits by LBA format (R163). -/
def guardBits (lbaf : Nat) : Nat := if lbaf = 2 then 16 else if lbaf = 3 then 64 else if lbaf = 4 then 32 else 0

/-- All ones of the reference tag, by LBA format. -/
def refOnes (lbaf : Nat) : Nat := if lbaf = 2 then 2 ^ 32 - 1 else 2 ^ 48 - 1

/-- What a deallocated block reads as: zeros, with the guard of zeros (R165). -/
def zeroBlock (lbaf : Nat) : LBlock :=
  ⟨0, if guardBits lbaf = 0 then ⟨0, 0, 0, 0⟩ else ⟨Config.guard (guardBits lbaf) 0, 0xFFFF, refOnes lbaf, if lbaf = 4 then 0xFFFFFFFF else 0⟩⟩

/-- A granule's blocks recorded as zeros need no key (R169). -/
def zeroCell (lbaf lba : Nat) : Cell := ⟨none, 0, lba, zeroBlock lbaf, false⟩

def Flash.ns? (f : Flash) (nsx : Nat) : Option Ns := Tab.get? f.ptx.nss nsx

/-- The map entry of an IU. -/
def Flash.ent? (f : Flash) (nsx iu : Nat) : Option MapEnt := Tab.get? f.ptx.map (mapKey nsx iu)

/-- A map entry as its 40-bit word (R192). -/
def mapWord : Option MapEnt → Nat
  | none => 0
  | some (.media d b fr) => 2 ^ 38 + d % 2 ^ 11 * 2 ^ 27 + b % 2 ^ 12 * 2 ^ 15 + fr % 2 ^ 15
  | some (.oasis k) => 2 * 2 ^ 38 + k % 2 ^ 38
  | some (.mark m) => 3 * 2 ^ 38 + m % 16 * 2 ^ 34

/-- IUs of a map segment and of a map chunk; a chunk's key, as an IU's key is made (R194). -/
def segIus : Nat := 128
def chunkIus : Nat := 128 * segIus
def chunkKey (nsx iu : Nat) : Nat := mapKey nsx (iu / chunkIus)

/-- A map chunk as a checkpoint writes it: its entries packed at 5 B steps, 80 KiB in all (R194). -/
def chunkBytes (map : Tab MapEnt) (key : Nat) : List Byte :=
  let nsx := key / 2 ^ 48
  (List.range chunkIus).flatMap fun i => leBytes 5 (mapWord (Tab.get? map (mapKey nsx (key % 2 ^ 48 * chunkIus + i))))

/-! ## The map cache (R195) -/

/-- The set of a segment: bits 10:0 of the CRC-32C of NSX × 2^48 + m as 8 bytes. -/
def cacheSet (nsx m : Nat) : Nat := crc32c (leBytes 8 (mapKey nsx m)) % 2048

/-- A lookup: the segment becomes the most recently used of its set, in 16 ways; a write makes it dirty. -/
def Ptx.touch (p : Ptx) (nsx iu : Nat) (dirty : Bool) : Ptx :=
  let m := iu / segIus
  let ways := Tab.getD p.cache (cacheSet nsx m) []
  let old := (ways.find? fun w => w.1 == mapKey nsx m).map (·.2)
  let rest := ways.filter fun w => w.1 != mapKey nsx m
  { p with cache := Tab.set p.cache (cacheSet nsx m) (((mapKey nsx m, dirty || old.getD false) :: rest).take 16) }

/-- Whether a lookup hits. -/
def Ptx.hits (p : Ptx) (nsx iu : Nat) : Bool :=
  (Tab.getD p.cache (cacheSet nsx (iu / segIus)) []).any fun w => w.1 == mapKey nsx (iu / segIus)

/-! ## The delta journal (R222) -/

/-- Appends a record to the journal tail. -/
def Ptx.log (p : Ptx) (now : Nat) (k : JKind) (wsn : Nat) (gend : Bool) (carried : List Nat := []) (was : Option MapEnt := none)
    (src : Option (Nat × Nat) := none) : Ptx :=
  { p with tail := ⟨k, wsn, gend, carried, p.jnext, was, src⟩ :: p.tail, tailAt := if p.tail.isEmpty then now else p.tailAt, jnext := p.jnext + 1 }

/-- Records in 2 MiB, and whether as many have accumulated. -/
def jstripeRecs : Nat := 131072
def Ptx.tailFull (p : Ptx) : Bool := decide (jstripeRecs ≤ p.tail.length)

/-- The records of the next journal stripe, newest first, and those left over: the oldest 2 MiB, no group split (R222). -/
def Ptx.cutTail (p : Ptx) : List JRec × List JRec :=
  if p.tail.length ≤ jstripeRecs then (p.tail, [])
  else
    let n := ((p.tail.drop (p.tail.length - jstripeRecs)).dropWhile fun r => !r.gend).length
    (p.tail.drop (p.tail.length - n), p.tail.take (p.tail.length - n))

/-- The JTIME limit in 100 ns units. -/
def Ptx.jtime (p : Ptx) : Nat := p.regs.fld .ptxCkptcfg 23 16 * 1000

/-- Bytes of journal since the newest complete checkpoint's JPOS. -/
def Ptx.jbytes (p : Ptx) : Nat := (p.jnext - p.ckpt.jpos) * 16

/-! ## Changing an entry (R196) -/

/-- Sets an entry, or unmaps the IU. -/
def Flash.setEnt (f : Flash) (nsx iu : Nat) (e : Option MapEnt) : Flash :=
  let p := f.ptx.touch nsx iu true
  let m := match e with
    | some x => Tab.set p.map (mapKey nsx iu) x
    | none => Tab.erase p.map (mapKey nsx iu)
  let c := chunkKey nsx iu
  { f with ptx := { p with map := m, dirtyChunks := if p.dirtyChunks.contains c then p.dirtyChunks else c :: p.dirtyChunks } }

/-- The records that an IU's Oasis copy stands for, when a change takes its place. -/
def Flash.standsFor (f : Flash) (nsx iu : Nat) : List Nat :=
  match f.ent? nsx iu with
  | some (.oasis k) => match Tab.get? f.ptx.slots k with
    | some s => s.wsn :: s.carried
    | none => []
  | _ => []

/-- The journalled entry of an IU: the one that its Oasis copy replaced, if it has one (R197). -/
def Flash.under (f : Flash) (nsx iu : Nat) : Option MapEnt :=
  match f.ent? nsx iu with
  | some (.oasis k) => (Tab.get? f.ptx.slots k).bind (·.replaced)
  | e => e

/-- A journalled change; an entry that does not change appends nothing (R222). -/
def Flash.changeEnt (f : Flash) (now nsx iu : Nat) (e : Option MapEnt) (wsn : Nat) (gend : Bool) (carried : List Nat := [])
    (was : Option MapEnt := none) (src : Option (Nat × Nat) := none) : Flash :=
  if f.ent? nsx iu = e then f
  else let g := f.setEnt nsx iu e; { g with ptx := g.ptx.log now (.entry nsx iu e) wsn gend carried was src }

/-- A superseded granule leaves the Oasis at once, or with the stripe that programs it (R196). -/
def Ptx.supersede (p : Ptx) (k : Nat) : Ptx :=
  match Tab.get? p.slots k with
  | some s =>
    if s.stage = .placed then { p with slots := Tab.set p.slots k { s with stage := .superseded } }
    else { p with slots := Tab.erase p.slots k }
  | none => p

/-- Supersedes the Oasis copy of an IU, if it has one. -/
def Flash.dropOasis (f : Flash) (nsx iu : Nat) : Flash :=
  match f.ent? nsx iu with
  | some (.oasis k) => { f with ptx := f.ptx.supersede k }
  | _ => f

/-- An entry gives way to another, or to none, with its Oasis copy (R196). -/
def Flash.overrule (f : Flash) (now nsx iu : Nat) (e : Option MapEnt) (wsn : Nat) : Flash :=
  (f.dropOasis nsx iu).changeEnt now nsx iu e wsn true (f.standsFor nsx iu) (f.under nsx iu)

/-- Who writes, and how: the fields of a slot header. -/
structure Writer where
  wsn : Nat
  fsn : Nat
  inst : Nat
  keyslot : Nat
  barchan : Nat

/-- Cells laid over others. -/
def overlay (base new : Tab Cell) : Tab Cell := new.foldl (fun t e => Tab.set t e.1 e.2) base

/-- Records blocks of one IU in the Oasis (step 7 of R19; R196, R197). The newer record carries the older Oasis blocks it does
not replace, so that one location names the IU's newest data. -/
def Flash.recordIu (f : Flash) (nsx iu : Nat) (cells : Tab Cell) (w : Writer) (group : Nat) : Flash :=
  let old := f.ent? nsx iu
  let before : Option OSlot := match old with
    | some (.oasis k) => Tab.get? f.ptx.slots k
    | _ => none
  let under : Tab Cell × Option MapEnt := match before with
    | some s => (s.cells, s.replaced)
    | none => ([], match old with | some (.oasis _) => none | e => e)
  let kept := under.1.any fun e => !(Tab.has cells e.1)
  let g := f.dropOasis nsx iu
  let key := (Tab.firstFree g.ptx.slots 0 (g.ptx.slots.length + 1)).getD 0
  let slot : OSlot :=
    { nsx := nsx, iu := iu, cells := overlay under.1 cells, replaced := under.2, wsn := w.wsn, fsn := w.fsn, inst := w.inst,
      keyslot := w.keyslot, barchan := w.barchan, group := group, stage := .waiting, merging := false
      completed := kept && (before.map (·.completed)).getD false, drain := kept && (before.map (·.drain)).getD false
      restored := (before.map (·.restored)).getD false, carried := f.standsFor nsx iu }
  let h : Flash := { g with ptx := { g.ptx with slots := Tab.set g.ptx.slots key slot } }
  h.setEnt nsx iu (some (.oasis key))

/-- Puts an element into a list that is in order. -/
def insertBy {α : Type} (before : α → α → Bool) (x : α) : List α → List α
  | [] => [x]
  | y :: ys => if before x y then x :: y :: ys else y :: insertBy before x ys

/-- The distinct values of a list, in order of first appearance. -/
def distinct : List Nat → List Nat
  | [] => []
  | x :: xs => x :: (distinct xs).filter (· ≠ x)

/-- The group of a block: the frames that one command writes into one 256 KiB atomic unit (R120, R200). -/
def groupOf (wsn byte : Nat) : Nat := wsn * 2 ^ 44 + byte / 262144

/-- Records a command's blocks in the Oasis, IU by IU. -/
def Flash.record (f : Flash) (nsx : Nat) (n : Ns) (cells : Tab Cell) (w : Writer) : Flash :=
  (distinct (cells.map fun e => e.1 / n.perIu)).foldl (fun (g : Flash) iu =>
    let mine := Tab.keep cells fun l _ => l / n.perIu == iu
    g.recordIu nsx iu mine w (groupOf w.wsn (iu * n.iu * 4096))) f

/-- IUs that a span of blocks covers wholly, and those it covers in part. -/
def wholeIus (n : Ns) (s : Span) : List Nat :=
  let lo := ceilDiv s.lo n.perIu
  (List.range ((s.lo + s.len) / n.perIu - lo)).map (· + lo)
def partIus (n : Ns) (s : Span) : List Nat :=
  if s.len = 0 then []
  else
    let lo := s.lo / n.perIu
    let hi := (s.lo + s.len - 1) / n.perIu
    ((List.range (hi + 1 - lo)).map (· + lo)).filter fun i => decide (i * n.perIu < s.lo ∨ s.lo + s.len < (i + 1) * n.perIu)

/-- Unmaps IUs, with delta records (R196). -/
def Flash.unmap (f : Flash) (now nsx : Nat) (ius : List Nat) (wsn : Nat) : Flash :=
  ius.foldl (fun (g : Flash) iu => g.overrule now nsx iu none wsn) f

/-- Sets a marker on IUs (R196). -/
def Flash.mark (f : Flash) (now nsx : Nat) (ius : List Nat) (m wsn : Nat) : Flash :=
  ius.foldl (fun (g : Flash) iu => g.overrule now nsx iu (some (.mark m)) wsn) f

/-- Zeros for the covered blocks of partly covered IUs that are mapped (R169). -/
def Flash.zeroPart (f : Flash) (nsx : Nat) (n : Ns) (s : Span) (w : Writer) : Flash :=
  (partIus n s).foldl (fun (g : Flash) iu =>
    if (g.ent? nsx iu).isNone then g
    else
      let lbas := ((List.range n.perIu).map (· + iu * n.perIu)).filter fun l => decide (s.lo ≤ l ∧ l < s.lo + s.len)
      g.recordIu nsx iu (lbas.map fun l => (l, zeroCell n.lbaf l)) w (groupOf w.wsn (iu * n.iu * 4096))) f

/-- Write Uncorrectable on a span: a marker on IUs it covers wholly, its blocks alone in partly covered ones (R196, R217; log
entry 30). -/
def Flash.uncorrectable (f : Flash) (now nsx : Nat) (n : Ns) (s : Span) (w : Writer) : Flash :=
  (partIus n s).foldl (fun (g : Flash) iu =>
    let lbas := ((List.range n.perIu).map (· + iu * n.perIu)).filter fun l => decide (s.lo ≤ l ∧ l < s.lo + s.len)
    g.recordIu nsx iu (lbas.map fun l => (l, { zeroCell n.lbaf l with bad := true })) w (groupOf w.wsn (iu * n.iu * 4096)))
    (f.mark now nsx (wholeIus n s) 1 w.wsn)

/-- Deallocates a span: whole IUs are unmapped, covered blocks of partial IUs read as zeros (R169, R217). -/
def Flash.dealloc (f : Flash) (now nsx : Nat) (n : Ns) (s : Span) (w : Writer) : Flash :=
  (f.unmap now nsx (wholeIus n s) w.wsn).zeroPart nsx n s w

/-- The lowest mapped LBA of a tail (R189). -/
def Flash.lowestMapped (f : Flash) (nsx : Nat) (n : Ns) (lo : Nat) : Option Nat :=
  ((f.ptx.map.filter fun e => decide (mapKey nsx (lo / n.perIu) ≤ e.1 ∧ e.1 < mapKey (nsx + 1) 0)).head?).map fun e =>
    e.1 % 2 ^ 48 * n.perIu

/-- Whether any IU of a namespace is mapped. -/
def Flash.anyMapped (f : Flash) (nsx : Nat) : Bool := f.ptx.map.any fun e => e.1 / 2 ^ 48 == nsx

/-- Every mapped IU of a namespace. -/
def Flash.mappedIus (f : Flash) (nsx : Nat) : List Nat :=
  (f.ptx.map.filter fun e => e.1 / 2 ^ 48 == nsx).map fun e => e.1 % 2 ^ 48

/-! ## Looking a block up (R18, R108, R193) -/

/-- Where the newest data of one block is. -/
inductive Found where
  /-- Unmapped, or past what has been written: it reads as deallocated. -/
  | zero
  | cell (c : Cell)
  /-- A marker stands in its place. -/
  | lost
  /-- On the media, in this frame. -/
  | frame (die block frame : Nat)
  deriving DecidableEq, Repr

/-- The place of a block under a media entry: its granule's frame. -/
def frameOf (n : Ns) (die block frame lba : Nat) : Found := .frame die block (frame + lba % n.perIu / n.perGranule)

/-- Where a block's newest data is: the Oasis before the media (R18). -/
def Flash.find (f : Flash) (nsx : Nat) (n : Ns) (lba : Nat) : Found :=
  match f.ent? nsx (lba / n.perIu) with
  | none => .zero
  | some (.mark _) => .lost
  | some (.media d b fr) => frameOf n d b fr lba
  | some (.oasis k) =>
    match Tab.get? f.ptx.slots k with
    | none => .zero
    | some s =>
      match Tab.get? s.cells lba with
      | some c => if c.bad then .lost else .cell c
      | none =>
        match s.replaced with
        | some (.media d b fr) => frameOf n d b fr lba
        | some (.mark _) => .lost
        | _ => .zero

/-- What a frame holds for a block: a stored cell, zeros where it was unwritten, or a marker. -/
def Frame.at' (fr : Frame) (lbaf lba : Nat) : Found :=
  match Tab.get? fr.cells lba with
  | some c => if c.bad then .lost else .cell c
  | none => if fr.mark.isSome then .lost else .cell (zeroCell lbaf lba)

/-! ## Dirty data and the durability mode (R128 to R135) -/

/-- Granules of a slot that hold data. -/
def OSlot.granules (s : OSlot) (n : Ns) : Nat := (distinct (s.cells.map fun e => e.1 / n.perGranule)).length

def Flash.slotGranules (f : Flash) (s : OSlot) : Nat :=
  match f.ns? s.nsx with
  | some n => s.granules n
  | none => 0

/-- Granules of the slots that satisfy a test. -/
def Flash.granulesOf (f : Flash) (q : OSlot → Bool) : Nat :=
  ((f.ptx.slots.filter fun e => q e.2).map fun e => f.slotGranules e.2).sum

/-- Dirty data: completed write data not yet programmed and committed (R128), in bytes. -/
def Flash.dirty (f : Flash) : Nat := f.granulesOf (fun s => s.completed && s.stage != .superseded) * 4096

/-- Data that occupies the Oasis, completed or not. -/
def Flash.oasisUsed (f : Flash) : Nat := f.granulesOf (fun s => s.stage != .superseded) * 4096

/-- Dirty data completed in protected mode that awaits program after a switch (R130), in bytes. -/
def Flash.drainPend (f : Flash) : Nat := f.granulesOf (fun s => s.drain && s.stage != .superseded) * 4096

/-- PROTMAX and UNPMAX in bytes, and the limit in force (R128, R134). -/
def Ptx.protMax (p : Ptx) : Nat := 268435456 * p.regs.fld .ptxOasiscfg 4 0
def Ptx.unpMax (p : Ptx) : Nat := 67108864 * p.regs.fld .ptxOasiscfg 13 8
def Ptx.limit (p : Ptx) : Nat := if p.unp then p.unpMax else p.protMax

/-- A write of `n` bytes has room at step 4 of R19 (R128). -/
def Flash.room (f : Flash) (n : Nat) : Bool := decide (f.dirty + n ≤ f.ptx.limit)

/-- The Wadi can accept a dump of PROTMAX (R257). -/
def Flash.wadiReady (f : Flash) : Bool := f.ptx.dump.isNone && decide (f.ptx.protMax + 268435456 ≤ f.ptx.wadiErased)

/-- Granules that a dump can still carry (R424). -/
def Flash.dumpRoom (f : Flash) : Nat := (f.ptx.wadiErased - 268435456) / 4096

/-- Switches to unprotected mode for a reason of R135 (R130, R132). The severity 3 record of R132 is left out where no data is exposed (DEDUCED,
log entry 183). -/
def Flash.toUnprotected (f : Flash) (reason stampMs : Nat) : Flash × List Note :=
  if f.ptx.unp then (f, [])
  else
    let slots := f.ptx.slots.map fun e => (e.1, { e.2 with drain := e.2.completed })
    let regs := f.ptx.regs.setFld .ptxOasisstat 30 30 1
    let p : Ptx :=
      { f.ptx with
        unp := true, reason := reason, switches := f.ptx.switches + 1, lastSw := stampMs, slots := slots, draining := true
        regs := regs }
    let g : Flash := { f with ptx := p }
    let pend := g.drainPend
    let exposed := if reason = 3 then pend else if reason = 4 then pend - g.dumpRoom * 4096 else 0
    let more := if exposed = 0 then [] else [Note.report (mkReport 4 4 0 0 reason (ceilDiv exposed 1048576) 0)]
    ({ g with ptx := { p with draining := decide (0 < pend), exposed := decide (0 < exposed) } },
      [.report (mkReport 4 1 0 0 reason 0 0), .async 0x81 0xC1] ++ more)

/-- Switches to protected mode (R131). -/
def Flash.toProtected (f : Flash) (stampMs : Nat) : Flash × List Note :=
  if !f.ptx.unp then (f, [])
  else
    let slots := f.ptx.slots.map fun e => (e.1, { e.2 with drain := false })
    let regs := f.ptx.regs.setFld .ptxOasisstat 30 30 1
    let p : Ptx :=
      { f.ptx with
        unp := false, reason := 6, switches := f.ptx.switches + 1, lastSw := stampMs, slots := slots, draining := false
        exposed := false, regs := regs }
    ({ f with ptx := p },
      [.report (mkReport 4 2 0 0 0 0 0), .async 0x81 0xC1])

/-- The reason not to be in protected mode, if there is one, the first that applies in the order of R418: FORCEUNP, the HUE, the Wadi. -/
def Flash.unpReason (f : Flash) (hue : Option Nat) : Option Nat :=
  if f.ptx.regs.bit .ptxOasiscfg 16 then some 5
  else
    match hue with
    | some r => some r
    | none => if f.wadiReady then none else some 4

/-- Judges the mode after an event (R129). `hue` is PTM's reason against protected mode, none when the HUE is HEALTHY. -/
def Flash.judgeMode (f : Flash) (hue : Option Nat) (stampMs : Nat) : Flash × List Note :=
  match f.unpReason hue with
  | some r => f.toUnprotected r stampMs
  | none => f.toProtected stampMs

/-- The drain of R130 ends when nothing it covers is left. -/
def Flash.drained (f : Flash) : Flash :=
  if f.ptx.draining && f.drainPend == 0 then { f with ptx := { f.ptx with draining := false, exposed := false } } else f

/-- A command's recorded data has completed: it is dirty data (R128); in protected mode it keeps that promise (R124). -/
def Flash.complete (f : Flash) (fsn : Nat) : Flash :=
  let slots := f.ptx.slots.map fun e => (e.1, if e.2.fsn = fsn then { e.2 with completed := true } else e.2)
  { f with ptx := { f.ptx with slots := slots } }

/-- Whether the commands of a test on namespace index and WSN are durable without the Wadi: programmed, committed, and their delta
records in programmed journal stripes (R126, R223). -/
def Flash.programmed (f : Flash) (covers : Nat → Nat → Bool) : Bool :=
  let hit := fun r : JRec => match r.kind with
    | .entry nsx _ _ => (r.wsn :: r.carried).any (covers nsx)
    | _ => false
  !(f.ptx.slots.any fun e => (e.2.wsn :: e.2.carried).any (covers e.2.nsx) && e.2.stage != .superseded)
    && !(f.ptx.tail.any hit)
    && !(f.ptx.wls.any fun e => e.2.stripes.any fun s => s.recs.any hit)
    && !(f.ptx.waiting.any fun e => e.2.any fun s => s.ents.any fun x => covers x.nsx x.wsn)

end Sys2Proof.Machine
end

