-- ==== Sys2Proof/Machine/Bands.lean ====
section
/-! DEFINITION. Bands: what they hold, how they close, and the blocks that leave service (R203, R206 to R216, R221, R239). -/

namespace Sys2Proof.Machine

/-- Frames that map entries name in a band: V (R203). -/
def Flash.valid (f : Flash) (b : Band) : Nat :=
  (f.ptx.map.map fun e => match e.2 with
    | .media d bl _ => if b.set.contains (d, bl) then
        (match f.ns? (e.1 / 2 ^ 48) with
          | some n => n.iu
          | none => 1) else 0
    | _ => 0).sum

/-- User frames of the stripes that a band committed: F (R203; the data units of a stripe, pad included, log entry 35). -/
def Band.userFrames (b : Band) : Nat := 512 * b.committed

/-- Where a frame stands in band order: stripe, unit of the parity set, frame of the unit. -/
def Band.order (b : Band) (die block frame : Nat) : Nat := (frame / 16 * 38 + b.set.idxOf (die, block)) * 16 + frame % 16

/-- The IUs whose entries name a band, in band order (R210): (key, die, block, frame). -/
def Flash.named (f : Flash) (b : Band) : List (Nat × Nat × Nat × Nat) :=
  (f.ptx.map.filterMap fun e => match e.2 with
    | .media d bl fr => if b.set.contains (d, bl) then some (e.1, d, bl, fr) else none
    | _ => none).foldr (insertBy fun x y => decide (b.order x.2.1 x.2.2.1 x.2.2.2 ≤ b.order y.2.1 y.2.2.1 y.2.2.2)) []

def Band.keys (b : Band) : List Nat := b.set.map fun x => blkKey x.1 x.2

def Flash.updBand (f : Flash) (k : Nat) (g : Band → Band) : Flash := { f with ptx := { f.ptx with bands := Tab.upd f.ptx.bands k g } }

/-- A band becomes a forced victim with the barchan its copies go to (R209); the first reason's barchan stays. -/
def Flash.force (f : Flash) (k dest : Nat) : Flash :=
  f.updBand k fun b => if b.forced then b else { b with forced := true, dest := dest }

/-- A band under spare promotion becomes a victim or a purge target: the promotion of its block stops, and the spare goes back to be erased (R284). -/
def Flash.stopPromotion (f : Flash) (b : Band) : Flash :=
  (f.dip.dies.map Prod.fst).foldl (fun (g : Flash) d =>
    match (g.dieRec d).promoting with
    | some (key, s) =>
      if b.set.contains (key / 4096, key % 4096) then (g.setDieRec d { g.dieRec d with promoting := none }).setBlk s { g.blk s with st := .unknown }
      else g
    | none => g) f

/-- The refresh and rebuild barchan, the wear-move barchan and the purge barchan of a media mode (R202). -/
def refreshDest (slc : Bool) : Nat := if slc then 13 else 12
def wearDest (slc : Bool) : Nat := if slc then 11 else 10
def purgeDest (slc : Bool) : Nat := if slc then 15 else 14

/-- The band of a block becomes a forced victim, as a refresh (R209, R270). -/
def Flash.forceBlock (f : Flash) (die block : Nat) : Flash :=
  match f.bandOf die block with
  | some (k, b) => f.force k (refreshDest b.slc)
  | none => f

/-- An entry of a stripe goes back to be placed again (R221): the Oasis slot waits, the copy waits. -/
def Ptx.unplace (p : Ptx) (e : PEnt) : Ptx :=
  match e.src with
  | .oasis k =>
    match Tab.get? p.slots k with
    | some s =>
      if s.stage = .superseded then { p with slots := Tab.erase p.slots k }
      else { p with slots := Tab.set p.slots k { s with stage := .waiting } }
    | none => p
  | .media d b fr =>
    { p with copies := p.copies.map fun c => (c.1, if locKey c.2.die c.2.block c.2.frame = locKey d b fr then { c.2 with placed := false } else c.2) }
  | .mark _ => p

/-- A stripe's entries, journal records and map chunks go back. -/
def Ptx.unplaceStripe (p : Ptx) (s : Stripe) : Ptx :=
  let q := s.ents.foldl Ptx.unplace p
  { q with tail := q.tail ++ s.recs, ckptRun := q.ckptRun.map fun c => { c with todo := s.chunks ++ c.todo } }

/-- A band closes short at its last committed stripe (R203, R221): what it had not committed is placed again. -/
def Flash.closeShort (f : Flash) (now hours k : Nat) : Flash :=
  match Tab.get? f.ptx.bands k with
  | none => f
  | some b =>
    if b.st = .opened || b.st = .parked then
      let mine := (f.ptx.wls.filter fun e => e.2.band == k).flatMap fun e => e.2.stripes
      let held := (Tab.getD f.ptx.waiting b.barchan []).filter fun s => s.band == k
      let p := (mine ++ held).foldl Ptx.unplaceStripe f.ptx
      let b' : Band := { b with st := .full, placed := b.committed, closed := hours, waitsFor := none }
      let q : Ptx :=
        { p with
          wls := Tab.keep p.wls fun _ w => w.band != k
          waiting := p.waiting.map fun e => (e.1, e.2.filter fun s => s.band != k)
          filling := Tab.keep p.filling fun _ n => n != k
          bands := Tab.set p.bands k b' }
      { f with ptx := q.log now (.bandClose b.serial) p.wsn true }
    else f

/-- A block's record rebuilt from the band table: a band's block is FULL up to the last applied stripe, a BAD block and a spare that a redirect names
stay, every other block is UNKNOWN until its die erases it (R242, R330). -/
def Flash.rebuiltBlk (f : Flash) (key : Nat) (b : Blk) : Blk :=
  match f.bandOf (key / 4096) (key % 4096) with
  | some (_, bd) => if b.st = .bad then b else { b with st := .full, done := bd.placed, next := bd.placed }
  | none => if b.st = .bad || f.dip.redirect.any (fun r => r.2 == key) then b else { b with st := .unknown, next := 0, done := 0 }

/-- A band that waits for nothing: it closes once what it was given has committed (R184, R203). -/
def closeMark : Nat := 2 ^ 60

/-- A band has nothing more to take: PARKED for a zone that will not take a barchan again, or OPEN with a mark to close and all that it was given
committed (R203). -/
def Flash.stale (f : Flash) (b : Band) : Bool :=
  match b.waitsFor with
  | none => false
  | some w =>
    if w = closeMark then
      b.st = .opened && b.committed == b.placed && !(f.ptx.slots.any fun e => e.2.barchan == b.barchan && e.2.stage == .waiting)
    else
      b.st = .parked && match f.ns? (w / 2 ^ 40) with
        | none => true
        | some n =>
          if w % 2 ^ 40 = 0 then decide (4 ≤ f.ptx.cap)
          else match Tab.get? n.zones (w % 2 ^ 40 - 1) with
            | some z => z.st != .closed && !(z.st == .implicitOpen || z.st == .explicitOpen)
            | none => true

/-- Every such band closes short. -/
def Flash.closeStale (f : Flash) (now hours : Nat) : Flash :=
  (Tab.keysWhere f.ptx.bands fun _ b => f.stale b).foldl (fun (g : Flash) k => g.closeShort now hours k) f

/-- A FULL band with nothing valid left is RECLAIMABLE, and so is a victim (R203); blocks marked for retirement then leave
service (R270). -/
def Flash.settleBand (f : Flash) (k : Nat) : Flash :=
  match Tab.get? f.ptx.bands k with
  | none => f
  | some b =>
    if (b.st = .full || b.st = .victim) && (b.barchan < 16 || 18 < b.barchan) && f.valid b == 0 then
      let g := f.updBand k fun b => { b with st := .reclaimable }
      let p := { g.ptx with copies := Tab.keep g.ptx.copies fun _ c => !(b.set.contains (c.die, c.block)) }
      { g with ptx := p }
    else f

/-- Every band that has lost its last valid frame moves on. -/
def Flash.settle (f : Flash) : Flash := (f.ptx.bands.map Prod.fst).foldl Flash.settleBand f

/-! ## Capacity (R206, R207, R214, R215) -/

/-- Erased good blocks of a cluster. -/
def Flash.freeCount (f : Flash) (k : Nat) : Nat := (f.mbe.blks.filter fun e => e.1 / 4096 / 256 == k && f.isFree e.1).length

/-- Channels of a cluster that have a die in service, and their erased good blocks without those of a list. -/
def Flash.reserveFree (f : Flash) (k : Nat) (less : List (Nat × Nat) := []) : List Nat :=
  (((List.range 8).map (· + 8 * k)).filter fun ch => (f.hw.diesOf ch).any f.inService).map fun ch =>
    (f.mbe.blks.filter fun e => e.1 / 4096 / 32 == ch && f.isFree e.1 && !less.contains (e.1 / 4096, e.1 % 4096)).length

/-- The clusters that have dies. -/
def Attached.clusterList (h : Attached) : List Nat := (h.clusters.filter fun e => e.2.chen != 0).map Prod.fst

/-- Free band equivalents (R207). -/
def Flash.fbe (f : Flash) : Nat := (f.hw.clusterList.map f.freeCount).sum / 38

/-- A reserve of 76 blocks spread over channels with these free blocks, no two of them more than one block apart, cannot be kept (R214). -/
def shortOf (free : List Nat) : Bool :=
  let n := free.length
  free.any (fun x => decide (x < 76 / n)) || decide ((free.filter fun x => decide (76 / n < x)).length < 76 % n)

/-- A cluster is below its reserve (R214; spread over the channels that have a die in service, DEDUCED, log entry 185). -/
def Flash.reserveLow (f : Flash) (k : Nat) : Bool := shortOf (f.reserveFree k)
def Flash.anyLow (f : Flash) : Bool := f.hw.clusterList.any f.reserveLow

def Ptx.rclStart (p : Ptx) : Nat := p.regs.fld .ptxRclthr 31 16
def Ptx.rclUrg (p : Ptx) : Nat := p.regs.fld .ptxRclthr 15 0

/-- Bad-block allowance remaining, in percent (R229). -/
def Flash.sparePercent (f : Flash) : Nat :=
  if f.hw.allowance = 0 then 0 else 100 * (f.hw.allowance - f.ptx.spent) / f.hw.allowance

/-- The next capacity state of R215, its untimed rows. -/
def Flash.capNext (f : Flash) : Nat :=
  let n := f.fbe
  if f.ptx.cap = 5 || decide (f.hw.allowance ≤ f.ptx.spent && 0 < f.hw.allowance) then 5
  else if f.ptx.cap = 0 then (if n < f.ptx.rclStart then 1 else 0)
  else if f.ptx.cap = 1 then (if f.ptx.rclStart + 16 ≤ n then 0 else if n < f.ptx.rclUrg then 2 else 1)
  else if f.ptx.cap = 2 then (if f.anyLow then 3 else if f.ptx.rclUrg + 16 ≤ n then 1 else 2)
  else if f.ptx.cap = 3 then (if f.anyLow then 3 else 2)
  else f.ptx.cap

/-- Every zone that is not Read Only or Offline becomes Read Only, with its resources released (R178, R216). -/
def Ns.freeze (n : Ns) : Ns × List Nat :=
  if n.zoned then
    let count := n.nsze / n.zsze
    let hit := (List.range count).filter fun z => match Tab.get? n.zones z with
      | some x => x.st != .readOnly && x.st != .offline
      | none => true
    ({ n with zones := hit.foldl (fun t z =>
        let old := (Tab.get? t z).getD ⟨.empty, z * n.zsze, none, 0⟩
        Tab.set t z { old with st := .readOnly, barchan := none }) n.zones }, hit)
  else (n, [])

/-- The bands that opened zones fill when they become Read Only take no more (R203). -/
def Ptx.endZoneBands (p : Ptx) : Ptx :=
  let bars := p.nss.flatMap fun e => e.2.zones.filterMap fun z => if z.2.st == .readOnly || z.2.st == .offline then none else z.2.barchan
  let ks := bars.filterMap fun b => Tab.get? p.filling b
  { p with
    bands := p.bands.map fun e => (e.1, if ks.contains e.1 then { e.2 with waitsFor := some closeMark } else e.2)
    mustPad := bars.filter (fun b => !p.mustPad.contains b) ++ p.mustPad }

/-- Enters a capacity state (R215, R216): the record, of severity 3 in the write-protected states and of severity 1 otherwise (event code table),
the write-protect event and the zones. -/
def Flash.toCap (f : Flash) (st : Nat) : Flash × List Note :=
  if st = f.ptx.cap then (f, [])
  else
    let rep := [Note.report (mkReport 4 3 0 0 st 0 0 (decide (4 ≤ st)))]
    let p := { f.ptx with cap := st, capSince := none, capWsn := if 3 ≤ st then f.ptx.wsn else f.ptx.capWsn }
    if 4 ≤ st then
      let p := p.endZoneBands
      let frozen := p.nss.map fun e => (e.1, e.2.freeze)
      let q : Ptx := { p with nss := frozen.map (fun e => (e.1, e.2.1)), regs := p.regs.setFld .ptxRclstat 28 28 1 }
      ({ f with ptx := q }, rep ++ frozen.flatMap fun e => e.2.2.map fun z => .zoneReadOnly e.1 z)
    else ({ f with ptx := p }, rep)

/-- Moves the capacity state as far as R215 takes it at once. -/
def Flash.capMove : Nat → Flash → Flash × List Note
  | 0, f => (f, [])
  | k + 1, f =>
    let r := f.toCap f.capNext
    if f.capNext = f.ptx.cap then (f, [])
    else let q := Flash.capMove k r.1; (q.1, r.2 ++ q.2)

def Flash.capUpdate (f : Flash) : Flash × List Note := f.capMove 4

/-- Nothing can be reclaimed (R215): no band RECLAIMABLE or ERASING, no FULL band with a stripe of invalid frames. -/
def Flash.nothingToReclaim (f : Flash) : Bool :=
  !(f.ptx.bands.any fun e => e.2.st = .reclaimable || e.2.st = .erasing)
    && !(f.ptx.bands.any fun e => e.2.st = .full && (e.2.barchan < 16 || 18 < e.2.barchan) && decide (512 ≤ e.2.userFrames - f.valid e.2))

/-- Write protection is in force (R216). -/
def Ptx.wprot (p : Ptx) : Bool := decide (4 ≤ p.cap)

/-! ## Blocks and dies that leave service (R212, R239, R279, R280) -/

/-- A block becomes BAD and takes its capacity from the allowance (R206, R239); its band keeps its summary. -/
def Flash.badBlock (f : Flash) (die block : Nat) : Flash :=
  let key := blkKey die block
  let b := f.blk key
  if b.st = .bad then f
  else
    let r := f.dieRec die
    let g := (f.setBlk key { b with st := .bad }).setDieRec die { r with gbad := min 65535 (r.gbad + 1) }
    { g with ptx := { g.ptx with spent := g.ptx.spent + (f.hw.desc die).blockBytes } }

/-- A die's rebuild list: its blocks that lie in bands (R281). -/
def Flash.rebuildList (f : Flash) (d : Nat) : List Nat :=
  f.ptx.bands.flatMap fun e => (e.2.set.filter fun x => x.1 == d).map fun x => blkKey x.1 x.2

/-- Grown bad blocks of a die reach BADLIM (R279). -/
def Flash.overBadlim (f : Flash) (d : Nat) : Bool := decide (f.dip.regs.fld .dipRebcfg 11 0 ≤ (f.dieRec d).gbad)

/-- A die that has had every affected block promoted or relocated is RETIRED (R279). -/
def Flash.retired (f : Flash) (d : Nat) : Flash × List Note :=
  let r := f.dieRec d
  if r.health = .retiring && r.todo.isEmpty && r.promoting.isNone then
    (f.setDieRec d { r with health := .retired }, [.report (mkReport 6 5 1 d 0 0 0), .async 0x82 0xC4])
  else (f, [])

/-- Drops a band's blocks from the rebuild lists: the band has been relocated or is gone (R281). -/
def Flash.dropTodo (f : Flash) (b : Band) : Flash :=
  let dies := f.dip.dies.map fun e => (e.1, { e.2 with todo := e.2.todo.filter fun k => !(b.set.contains (k / 4096, k % 4096)) })
  { f with dip := { f.dip with dies := dies } }

def Flash.allRetired (f : Flash) : Flash × List Note :=
  (f.dip.dies.map Prod.fst).foldl (fun (a : Flash × List Note) d => let r := a.1.retired d; (r.1, a.2 ++ r.2)) (f, [])

/-- A band's blocks have all been dealt with: it is gone, its frames with it; blocks that could not be erased keep its summary (R203, R219, R221). -/
def Flash.bandGone (f : Flash) (k : Nat) (b : Band) : Flash × List Note :=
  let inBand := fun loc : Nat => b.set.contains (loc / 2 ^ 27, loc / 2 ^ 15 % 4096)
  let bytes := (b.set.map fun x => (f.hw.desc x.1).units b.slc * 65536).sum
  let purges := f.ptx.purges.map fun e => (e.1, if e.2.bands.contains k then { e.2 with bands := e.2.bands.filter (· ≠ k), erased := e.2.erased + 1 } else e.2)
  let done := purges.filter fun e => e.2.bands.isEmpty
  let f := (b.keys.filter fun x => (f.blk x).st == .bad).foldl (fun (g : Flash) x => g.setBlk x { g.blk x with summary := b.summary }) f
  let p : Ptx :=
    { f.ptx with
      bands := Tab.erase f.ptx.bands k, media := Tab.keep f.ptx.media fun l _ => !inBand l
      freed := f.ptx.freed + 1, mediaErased := f.ptx.mediaErased + bytes
      purges := purges.filter fun e => !e.2.bands.isEmpty }
  let g := ({ f with ptx := p }).dropTodo b
  let g : Flash := { g with dip := { g.dip with rdcnt := Tab.keep g.dip.rdcnt fun key _ => !b.keys.contains key } }
  let g : Flash := { g with dip := { g.dip with redirect := Tab.keep g.dip.redirect fun key _ => !b.keys.contains key } }
  let r := g.capUpdate
  let q := r.1.allRetired
  (q.1, done.map (fun e => .purged e.2.ctx e.2.erased e.2.residue) ++ r.2 ++ q.2)

/-- A purge that a band's block could not satisfy keeps the die (R220). -/
def Ptx.residue (p : Ptx) (k die : Nat) : Ptx :=
  { p with purges := p.purges.map fun e => (e.1, if e.2.bands.contains k && e.2.residue.isNone then { e.2 with residue := some die } else e.2) }

/-- One block of an ERASING band has been dealt with. -/
def Flash.blockErased (f : Flash) (k key : Nat) : Flash × List Note :=
  match Tab.get? f.ptx.bands k with
  | none => (f, [])
  | some b =>
    let b' : Band := { b with erased := if b.erased.contains key then b.erased else key :: b.erased }
    let g : Flash := { f with ptx := { f.ptx with bands := Tab.set f.ptx.bands k b' } }
    if b.keys.all fun x => b'.erased.contains x then g.bandGone k b' else (g, [])

/-- Erases of a die that leaves service are dropped: their blocks are BAD, and a Purge that waits for one has a residue (R220, R280). -/
def Flash.dropErases (f : Flash) (xs : List (Nat × Option Nat)) : Flash × List Note :=
  xs.foldl (fun (a : Flash × List Note) x =>
    let g := a.1.setBlk x.1 { a.1.blk x.1 with st := .bad }
    match x.2 with
    | none => (g, a.2)
    | some k =>
      let r := ({ g with ptx := g.ptx.residue k (x.1 / 4096) }).blockErased k x.1
      (r.1, a.2 ++ r.2)) (f, [])

/-- A die enters RETIRING (R280): its bands that are OPEN close short, its capacity leaves the allowance, its queued erases
drop. Reads queued on it are returned for DIP. -/
def Flash.retireDie (f : Flash) (now hours d cause : Nat) (byCmd : Bool) : Flash × List Nat × List Note :=
  let r := f.dieRec d
  if r.health.leaving then (f, [], [])
  else
    let x := f.die d
    let erases := (x.internal.filterMap fun q => match q.work with
      | .op (.erase k band _) => some (k, band)
      | _ => none) ++ match x.op.map (·.kind) with
        | some (.erase k band _) => [(k, band)]
        | _ => []
    let reads := x.host ++ x.reads.map Prod.fst ++ x.internal.filterMap fun q => match q.work with
      | .read j => some j
      | _ => none
    let g := f
    let todo := g.rebuildList d
    let r' : DieRec := { r with health := .retiring, byCommand := r.byCommand || byCmd, todo := todo, total := todo.length }
    let g := (g.setDieRec d r').setDie d { Die.idle with st := .out }
    let opens := (g.ptx.bands.filter fun e => e.2.st = .opened && e.2.set.any fun y => y.1 == d).map Prod.fst
    let g := opens.foldl (fun (g : Flash) k => g.closeShort now hours k) g
    let p := { g.ptx with spent := g.ptx.spent + (g.hw.desc d).dieBytes }
    let g : Flash := { g with ptx := p }
    let e := g.dropErases erases
    let c := e.1.capUpdate
    (c.1, reads, .report (mkReport 6 4 1 d cause 0 0) :: e.2 ++ c.2)

end Sys2Proof.Machine
end

