-- ==== Sys2Proof/Machine/FrameReads.lean ====
section
/-! DEFINITION. Frame reads: the recovery sequence of R268, retries (R253), reconstruction (R274, R275), redirects (R282),
Mirage reads (R276 to R278) and what an unrecoverable frame leaves. -/

namespace Sys2Proof.Machine

/-- A result with its notes, followed by more work. -/
def thenDo (a : Flash × List Note) (g : Flash → Flash × List Note) : Flash × List Note :=
  let r := g a.1
  (r.1, a.2 ++ r.2)

/-- Work with notes over a list. -/
def forEach {α : Type} (f : Flash) (xs : List α) (g : Flash → α → Flash × List Note) : Flash × List Note :=
  xs.foldl (fun (a : Flash × List Note) x => thenDo a fun h => g h x) (f, [])

/-- Where a block is read: through the redirect of a lost block, if there is one (R282, R283). -/
def Flash.physical (f : Flash) (die block : Nat) : Nat × Nat :=
  match Tab.get? f.dip.redirect (blkKey die block) with
  | some k => (k / 4096, k % 4096)
  | none => (die, block)

/-- A unit is lost: its die is RETIRING or RETIRED, or its block is BAD, and no redirect serves it (R274, R283). -/
def Flash.lostUnit (f : Flash) (die block : Nat) : Bool :=
  let p := f.physical die block
  (f.dieRec p.1).health.leaving || (f.blk (blkKey p.1 p.2)).st = .bad

/-- A location's stripe: band number, band, stripe and role. -/
def Flash.roleOf (f : Flash) (loc : Nat) : Option (Nat × Band × Nat × Nat) :=
  let die := loc / 2 ^ 27
  let block := loc / 2 ^ 15 % 4096
  let s := loc % 2 ^ 15 / 16
  (f.bandOf die block).map fun e => (e.1, e.2, s, roleAt (e.2.set.idxOf (die, block)) s)

/-- The unit of a role in a stripe of a band: die and block. -/
def Band.unitOf (b : Band) (s r : Nat) : Nat × Nat := b.set.getD (posOf r s) (0, 0)

/-- Roles of a stripe lost to retired dies and bad blocks. -/
def Flash.lostRoles (f : Flash) (b : Band) (s : Nat) : List Nat :=
  (List.range 38).filter fun r => f.lostUnit (b.unitOf s r).1 (b.unitOf s r).2

/-! ## Read-retry entries (R251 to R253) -/

/-- The start entry of a block programmed in one temperature band and read in another: the reference table; entry 0 in SLC mode
(R252). -/
def startEntry (slc : Bool) (ptb band : Nat) : Nat :=
  if slc || ptb == band then 0 else if ptb < band then 2 * (band - ptb) else 11 + 2 * (ptb - band)

/-- Numbers from `lo` to `hi`. -/
def fromTo (lo hi : Nat) : List Nat := (List.range (hi + 1 - lo)).map (· + lo)

/-- The order in which entries are tried after the first read (R253). -/
def retryOrder (slc : Bool) (ptb ptbx band nretry : Nat) : List Nat :=
  let s := startEntry slc ptb band
  let hot := fromTo 1 (min 11 nretry)
  let cold := fromTo 12 nretry
  let g := if hot.contains s then hot else if cold.contains s then cold else []
  let other := if hot.contains s then cold else if cold.contains s then hot else hot ++ cold
  let x := startEntry slc ptbx band
  let all := (if x = s then [] else [x]) ++ g.filter (fun e => decide (s < e)) ++ (g.filter (fun e => decide (e < s))).reverse
    ++ [0] ++ other
  (distinct all).filter (· ≠ s)

/-- The signed offsets of a read-retry entry, one per read level, that the sequencer applies before a read (R251): by the descriptor's kind and the
block's mode. -/
def Attached.offsets (h : Attached) (die : Nat) (slc : Bool) (entry : Nat) : List Int :=
  let kind := ((Tab.get? h.clusters (die / 256)).map (·.kind)).getD 0
  (Tab.getD h.retry (2 * kind + b2n slc) []).getD entry []

/-! ## Queueing -/

def Flash.setJob (f : Flash) (id : Nat) (j : Job) : Flash := { f with dip := { f.dip with jobs := Tab.set f.dip.jobs id j } }
def Flash.dropJob (f : Flash) (id : Nat) : Flash := { f with dip := { f.dip with jobs := Tab.erase f.dip.jobs id } }

/-- Queues a die read of a job at its cluster scheduler: waymarked reads behind each other, internal reads as internal work
(R237, R301). -/
def Flash.queueRead (f : Flash) (now id : Nat) (j : Job) : Flash :=
  let g := f.setJob id { j with stage := .queued }
  if j.waymark.isSome then g.updDie j.die fun x => { x with host := x.host ++ [id] }
  else g.updDie j.die fun x => { x with internal := x.internal ++ [⟨.read id, now, false⟩] }

/-- A fresh frame read of a location. -/
def Flash.newJob (f : Flash) (purpose : Purpose) (loc : Nat) (waymark : Option Nat) (fsn fetchedAt : Nat) (lr : Bool) : Job :=
  let p := f.physical (loc / 2 ^ 27) (loc / 2 ^ 15 % 4096)
  ⟨purpose, p.1, p.2, loc % 2 ^ 15, waymark, fsn, fetchedAt, .queued, loc, [], 0, 0, none, 1, lr, false, false, false, [], []⟩

def Flash.nextId (f : Flash) : Flash × Nat := ({ f with ptx := { f.ptx with nextId := f.ptx.nextId + 1 } }, f.ptx.nextId)

/-- Queues the helper reads of a job for some roles; a lost unit counts as failed at once (R268). -/
def Flash.askHelpers (f : Flash) (now id : Nat) (j : Job) (b : Band) (s : Nat) (roles : List Nat) (stage : JobStage) : Flash :=
  let lost := roles.filter fun r => f.lostUnit (b.unitOf s r).1 (b.unitOf s r).2
  let j' : Job := { j with stage := stage, wanted := roles, helpers := lost.foldl (fun t r => Tab.set t r false) j.helpers }
  let ask := roles.filter fun r => !lost.contains r && !(Tab.has j.helpers r)
  ask.foldl (fun (g : Flash) r =>
    let u := b.unitOf s r
    let n := g.nextId
    n.1.queueRead now n.2 (n.1.newJob (.helper id r) (locKey u.1 u.2 (j.loc % 2 ^ 15)) j.waymark j.fsn j.fetchedAt true))
    (f.setJob id j')

/-! ## The end of a frame read -/

/-- A frame's own location still stands in the map: the IU's entry, or the entry under its Oasis copy. -/
def Flash.markLost (f : Flash) (now loc : Nat) : Flash :=
  match Tab.get? f.ptx.media loc with
  | none => f
  | some fr =>
    match f.ns? fr.nsx with
    | none => f
    | some n =>
      let iu := fr.lba / n.perIu
      let names := fun e : MapEnt => match e with
        | .media d b x => decide (locKey d b x ≤ loc ∧ loc < locKey d b x + n.iu)
        | _ => false
      match f.ent? fr.nsx iu with
      | some (.oasis k) =>
        { f with ptx := { f.ptx with slots := Tab.upd f.ptx.slots k fun s =>
          match s.replaced with
          | some e => if names e then { s with replaced := some (.mark 2) } else s
          | none => s } }
      | some e => if names e then f.changeEnt now fr.nsx iu (some (.mark 2)) fr.wsn true [] (some e) else f
      | none => f

/-- A helper's outcome reaches the frame it helps. -/
def Flash.tellParent (f : Flash) (job role : Nat) (ok : Bool) : Flash :=
  { f with dip := { f.dip with jobs := Tab.upd f.dip.jobs job fun j => { j with helpers := Tab.set j.helpers role ok } } }

/-- The frame stored at a location; pad where nothing was written. -/
def Frame.blank : Frame := ⟨0, 0, 0, 0, 0, 0, 0, false, false, false, true, true, 0, [], none⟩

/-- What a frame holds for the blocks from `lba`: its own, and bad ones for those that a marker stands for (log entry 30). -/
def Flash.heldCells (f : Flash) (fr : Frame) (lba : Nat) : Tab Cell :=
  let gone : Tab Cell := match fr.mark, f.ns? fr.nsx with
    | some _, some n => (List.range n.perGranule).map fun i => (lba + i, { zeroCell n.lbaf (lba + i) with bad := true })
    | _, _ => []
  overlay gone (fr.cells.map fun e => (lba / 2 ^ 48 * 2 ^ 48 + e.1, e.2))

/-- The merge of a slot that a frame belongs to: the slot still waits for it and still lies over the IU that holds the frame (R169). -/
def Flash.mergesFrom (f : Flash) (s : OSlot) (loc : Nat) : Bool :=
  s.merging && match s.replaced, f.ns? s.nsx with
    | some (.media d b fr), some n => decide (locKey d b fr ≤ loc ∧ loc < locKey d b fr + n.iu)
    | _, _ => false

/-- Changes the slot that a merge read is for, if it is still that merge's. -/
def Flash.updMerge (f : Flash) (k loc : Nat) (g : OSlot → OSlot) : Flash :=
  { f with ptx := { f.ptx with slots := Tab.upd f.ptx.slots k fun s => if f.mergesFrom s loc then g s else s } }

/-- An accepted frame goes where it is wanted (R268). -/
def Flash.deliver (f : Flash) (id : Nat) (j : Job) (mirage : Bool) : Flash × List Note :=
  let fr := (Tab.get? f.ptx.media j.loc).getD Frame.blank
  let g := f.dropJob id
  match j.purpose with
  | .host ctx lba =>
    if j.background then (g, [])
    else (g, [.granule ctx lba (f.heldCells fr lba) mirage])
  | .copy c off => ({ g with ptx := { g.ptx with copies := Tab.upd g.ptx.copies c fun x => { x with got := Tab.set x.got off fr } } }, [])
  | .merge k lba =>
    (g.updMerge k j.loc fun s => { s with cells := overlay (f.heldCells fr lba) s.cells, merged := lba :: s.merged }, [])
  | .patrol => (g, [])
  | .helper p r => (g.tellParent p r true, [])

/-- What stays after a frame is beyond recovery: marker, records, Critical Warning bit 2 (step 7 of R268). -/
def Flash.unrecoverable (f : Flash) (now id : Nat) (j : Job) : Flash × List Note :=
  let die := j.loc / 2 ^ 27
  let block := j.loc / 2 ^ 15 % 4096
  if j.shortened && !j.background then
    -- R269: the command ends with DNR = 0 and the full sequence runs in the background
    let j' : Job := { j with background := true, shortened := false, lr := false, tries := 0, helpers := [], wanted := [], waymark := none }
    let n : List Note := match j.purpose with
      | .host ctx lba => [.lost ctx lba false]
      | _ => []
    (f.queueRead now id j', n)
  else
    let nsx := ((Tab.get? f.ptx.media j.loc).map (·.nsx)).getD 0
    let dead := match f.roleOf j.loc with
      | some (k, b, s, _) => if recoverable (f.lostRoles b s) then [] else [Note.report (mkReport 6 3 14 k s 0 0)]
      | none => []
    let g := (f.markLost now j.loc).dropJob id
    let g : Flash := { g with dip := { g.dip with unrec := g.dip.unrec + 1, reliability := true, regs := g.dip.regs.setFld .dipStat 15 15 1 } }
    let h : Flash := match j.purpose with
      | .copy c _ => { g with ptx := { g.ptx with copies := Tab.erase g.ptx.copies c } }
      | .merge k _ => g.updMerge k j.loc fun s => { s with replaced := some (.mark 2) }
      | .helper p r => g.tellParent p r false
      | _ => g
    let n : List Note := match j.purpose with
      | .host ctx lba => if j.background then [] else [.lost ctx lba true]
      | _ => []
    (h.settle, .report (mkReport 6 2 1 die block (j.loc % 2 ^ 15) nsx) :: dead ++ n)

/-- Step 6: the global parities, where R274 allows it, otherwise step 7 (R268). -/
def Flash.goGlobal (f : Flash) (now id : Nat) (j : Job) : Flash × List Note :=
  match f.roleOf j.loc with
  | none => f.unrecoverable now id j
  | some (_, b, s, r) =>
    let failed := Tab.keysWhere j.helpers fun _ ok => !ok
    let lost := distinct (r :: failed ++ f.lostRoles b s)
    if recoverable lost then
      (f.askHelpers now id j b s ((List.range 38).filter fun x => !lost.contains x) .globalRec, [])
    else f.unrecoverable now id j

/-- Step 5: the local group, where none of its other units is lost (R268). -/
def Flash.goLocal (f : Flash) (now id : Nat) (j : Job) : Flash × List Note :=
  match f.roleOf j.loc with
  | none => f.unrecoverable now id j
  | some (_, b, s, r) =>
    if decide (r < 36) && (localHelpers r).all (fun x => !f.lostUnit (b.unitOf s x).1 (b.unitOf s x).2 && (Tab.get? j.helpers x).getD true) then
      (f.askHelpers now id j b s (localHelpers r) .localRec, [])
    else f.goGlobal now id j

/-- Starts a frame read: on its die, or as a rebuild read where its unit is lost (R283). -/
def Flash.startRead (f : Flash) (now : Nat) (purpose : Purpose) (loc : Nat) (waymark : Option Nat) (fsn fetchedAt : Nat) (lr : Bool) :
    Flash × List Note :=
  let n := f.nextId
  let j := n.1.newJob purpose loc waymark fsn fetchedAt lr
  if n.1.lostUnit (loc / 2 ^ 27) (loc / 2 ^ 15 % 4096) then (n.1.setJob n.2 j).goLocal now n.2 j
  else (n.1.queueRead now n.2 j, [])

/-- Reads returned by a die that leaves service go to reconstruction (R280); a helper read fails. -/
def Flash.toDip (f : Flash) (now : Nat) (ids : List Nat) : Flash × List Note :=
  forEach f ids fun g id =>
    match Tab.get? g.dip.jobs id with
    | none => (g, [])
    | some j =>
      match j.purpose with
      | .helper p r => ((g.tellParent p r false).dropJob id, [])
      | _ => g.goLocal now id j

/-- A die leaves service: R280 in full. -/
def Flash.dieOut (f : Flash) (now hours d cause : Nat) (byCmd : Bool) : Flash × List Note :=
  let r := f.retireDie now hours d cause byCmd
  let q := r.1.toDip now r.2.1
  (q.1, r.2.2 ++ q.2)

/-- A frame of a block needed step 3 or later: its band is refreshed (R270). -/
def Flash.hurtSoft (f : Flash) (loc : Nat) : Flash := f.forceBlock (loc / 2 ^ 27) (loc / 2 ^ 15 % 4096)

/-- A day in 100 ns units. -/
def dayT : Nat := 864000000000

/-- A frame of a block reached step 5 or later: the block is retired when its band becomes RECLAIMABLE, and 16 such blocks of a
die within 24 h retire the die (R270, R279). -/
def Flash.hurtDeep (f : Flash) (now hours loc : Nat) : Flash × List Note :=
  let die := loc / 2 ^ 27
  let key := loc / 2 ^ 15
  if (f.dieRec die).health.leaving then (f, [])
  else
    let g := f.hurtSoft loc
    let g := match g.bandOf die (key % 4096) with
      | some (k, _) => g.updBand k fun b => { b with retire := if b.retire.contains key then b.retire else key :: b.retire }
      | none => g
    let r := g.dieRec die
    let hurt := (key, now) :: r.hurt.filter fun e => e.1 != key && decide (now < e.2 + dayT)
    let g := g.setDieRec die { r with hurt := hurt }
    if 16 ≤ hurt.length then g.dieOut now hours die 2 false else (g, [])

/-! ## Decoding (R263, R266, R268, R269) -/

/-- What a decoder reports of a frame: accepted under R263, not converged (with the number of checks unsatisfied when it stopped), or converged and
misplaced. -/
inductive Decoded where
  | accepted | failed (unsatisfied : Nat) | misplaced
  deriving DecidableEq, Repr

/-- A frame of a parity unit (R271). -/
def Flash.parityFrame (f : Flash) (loc : Nat) : Bool :=
  match f.roleOf loc with
  | some (_, _, _, r) => !isData r
  | none => false

/-- What a decoder's result says of a frame: a parity frame is accepted on convergence alone (R263). -/
def Flash.verdict (f : Flash) (j : Job) (d : Decoded) : Decoded := if d = .misplaced ∧ f.parityFrame j.loc then .accepted else d

/-- A hard attempt that failed with `u` checks unsatisfied; the first of equal ones stays the best (R268; DEDUCED, log entry 210). -/
def Job.attempt (j : Job) (u : Nat) : Job :=
  match j.best with
  | some b => if u < b.1 then { j with best := some (u, j.entry) } else j
  | none => { j with best := some (u, j.entry) }

/-- The spacing of a soft read from its centre, in DAC steps: ±SOFTD in step 3, ±2 × SOFTD and ±3 × SOFTD in step 4 (R268; their order within a step a
DESIGN CHOICE, log entry 210). -/
def Flash.softShift (f : Flash) (j : Job) : Int :=
  let d : Int := f.dip.regs.fld .dipCfg 19 16
  match j.stage, j.readsLeft with
  | .soft2, 2 => d
  | .soft2, _ => -d
  | .soft3, 4 => 2 * d
  | .soft3, 3 => -(2 * d)
  | .soft3, 2 => 3 * d
  | .soft3, _ => -(3 * d)
  | _, _ => 0

/-- Hard retries in step 2 (R268, R269). -/
def Flash.retries (f : Flash) (j : Job) : Nat :=
  match j.purpose with
  | .helper _ _ => 1
  | _ => if j.lr then min 1 (f.dip.regs.fld .dipCfg 27 24) else f.dip.regs.fld .dipCfg 27 24

/-- TLER has passed for a host read (R269). -/
def tlerPast (now tler : Nat) (j : Job) : Bool :=
  match j.purpose with
  | .host _ _ => !j.background && decide (tler ≠ 0 ∧ j.fetchedAt + tler * 1000000 < now)
  | _ => false

/-- A converged frame that fails a check of R263: an Error record, and step 5. -/
def Flash.misplaced (f : Flash) (now hours id : Nat) (j : Job) : Flash × List Note :=
  let die := j.loc / 2 ^ 27
  let rep := Note.report (mkReport 6 1 1 die (j.loc / 2 ^ 15 % 4096) (j.loc % 2 ^ 15) 0)
  let g : Flash := { f with dip := { f.dip with mispl := f.dip.mispl + 1, regs := f.dip.regs.setFld .dipStat 14 14 1 } }
  match j.purpose with
  | .helper p r => ((g.tellParent p r false).dropJob id, [rep])
  | _ =>
    let q := thenDo (g, [rep]) fun h => h.hurtDeep now hours j.loc
    match Tab.get? q.1.dip.jobs id with
    | some j' => thenDo q fun h => h.goLocal now id j'
    | none => q

/-- The step after a failed decode (R268, R269). -/
def Flash.nextStep (f : Flash) (now hours tler id : Nat) (j : Job) : Flash × List Note :=
  let late := tlerPast now tler j
  let soft := f.dip.regs.bit .dipCfg 23 && !j.lr && !late
  let host := match j.purpose with
    | .host _ _ => true
    | _ => false
  match j.purpose with
  | .helper p r =>
    match j.order with
    | e :: rest =>
      if j.tries < 1 then (f.queueRead now id { j with tries := j.tries + 1, order := rest, entry := e, readsLeft := 1 }, [])
      else ((f.tellParent p r false).dropJob id, [])
    | [] => ((f.tellParent p r false).dropJob id, [])
  | _ =>
    let cut := host && ((late) || (j.lr && (decide (1 < f.dip.regs.fld .dipCfg 27 24) || f.dip.regs.bit .dipCfg 23)))
    let j1 : Job := { j with shortened := j.shortened || (cut && !j.background) }
    if j.stage != .soft2 && j.stage != .soft3 && !late && decide (j.tries < f.retries j) && !j.order.isEmpty then
      (f.queueRead now id { j with tries := j.tries + 1, order := j.order.drop 1, entry := j.order.headD 0, readsLeft := 1 }, [])
    else if j.stage == .staged && soft then
      let g := f.hurtSoft j.loc
      let c : Job := { j with entry := (j.best.map Prod.snd).getD j.entry, readsLeft := 2 }
      let q := g.queueRead now id c
      (q.setJob id { c with stage := .soft2 }, [])
    else if j.stage == .soft2 && soft then
      let q := f.queueRead now id { j with readsLeft := 4 }
      (q.setJob id { j with stage := .soft3, readsLeft := 4 }, [])
    else
      thenDo (f.hurtDeep now hours j.loc) fun g =>
        match Tab.get? g.dip.jobs id with
        | some _ => g.goLocal now id j1
        | none => (g, [])

/-- HARD_DECODE_DONE: the hard-decision decoder releases a frame or fails it (R266, R268). -/
def Flash.hardDone (f : Flash) (now hours tler id : Nat) (d : Decoded) : Flash × List Note :=
  match Tab.get? f.dip.jobs id with
  | none => (f, [])
  | some j =>
    if j.stage = .staged then
      match f.verdict j d with
      | .accepted => f.deliver id j false
      | .misplaced => f.misplaced now hours id j
      | .failed u => f.nextStep now hours tler id (j.attempt u)
    else (f, [])

/-- A frame recovered at step 3 or 4 is counted (R294). -/
def Flash.countSoft (f : Flash) (d : Nat) : Flash :=
  let r := f.dieRec d
  let g := f.setDieRec d { r with soft := r.soft + 1 }
  { g with dip := { g.dip with softdec := g.dip.softdec + 1 } }

/-- A frame recovered at step 5 or 6, or by R283, is counted (R294). -/
def Flash.countDune (f : Flash) (d : Nat) : Flash :=
  let r := f.dieRec d
  let g := f.setDieRec d { r with dune := r.dune + 1 }
  { g with dip := { g.dip with dunerec := g.dip.dunerec + 1 } }

/-- SOFT_DECODE_DONE: a soft-decision decode finishes or fails (R268). A patrol frame that comes this far refreshes its band. -/
def Flash.softDone (f : Flash) (now hours tler id : Nat) (d : Decoded) : Flash × List Note :=
  match Tab.get? f.dip.jobs id with
  | none => (f, [])
  | some j =>
    if (j.stage = .soft2 || j.stage = .soft3) && j.readsLeft == 0 then
      match f.verdict j d with
      | .accepted => (f.countSoft (j.loc / 2 ^ 27)).deliver id j false
      | .misplaced => f.misplaced now hours id j
      | .failed _ => f.nextStep now hours tler id j
    else (f, [])

/-- Every helper that a job wants has an outcome. -/
def Job.helpersIn (j : Job) : Bool := j.wanted.all fun r => Tab.has j.helpers r

/-- RECONSTRUCTION_DONE: a frame has been rebuilt from its stripe, or cannot be (R268, R275, R278). `ok`: the result passes
R263. -/
def Flash.rebuilt (f : Flash) (now id : Nat) (ok : Bool) : Flash × List Note :=
  match Tab.get? f.dip.jobs id with
  | none => (f, [])
  | some j =>
    let die := j.loc / 2 ^ 27
    let all := j.wanted.all fun r => (Tab.get? j.helpers r).getD false
    if !j.helpersIn then (f, [])
    else
      match j.stage with
      | .mirage =>
        if all && ok then
          let g : Flash := { f with dip := { f.dip with mirages := f.dip.mirages + 1 } }
          g.deliver id j true
        else
          let j' : Job := { j with noMirage := true, helpers := [], wanted := [] }
          if all then
            let g : Flash := { f with dip := { f.dip with mispl := f.dip.mispl + 1, regs := f.dip.regs.setFld .dipStat 14 14 1 } }
            (g.queueRead now id j', [.report (mkReport 6 1 1 die (j.loc / 2 ^ 15 % 4096) (j.loc % 2 ^ 15) 0)])
          else (f.queueRead now id j', [])
      | .localRec =>
        if all && ok then (f.countDune die).deliver id j false
        else f.goGlobal now id (if all then { j with helpers := [] } else j)
      | .globalRec =>
        if all && ok then (f.countDune die).deliver id j false
        else if all then f.unrecoverable now id j
        else f.goGlobal now id j
      | _ => (f, [])

end Sys2Proof.Machine
end

