-- ==== Sys2Proof/Machine/HfuTypes.lean ====
section
/-! DEFINITION. The state of HFU: lane groups and host ports, transport connections, reservations and leases (chapter 02). -/

namespace Sys2Proof.Machine

/-- What a host port runs. -/
inductive Proto where
  | pcie | eth
  deriving DecidableEq, Repr
def Proto.code : Proto → Nat
  | .pcie => 1 | .eth => 2

/-- STATE of HFU_HPn_LINKSTAT. -/
inductive LinkState where
  | training | up | down
  deriving DecidableEq, Repr
def LinkState.code : LinkState → Nat
  | .training => 1 | .up => 2 | .down => 3

/-- A host port. -/
structure Port where
  group : Nat
  proto : Proto
  lanes : Nat
  state : LinkState
  speed : Nat
  width : Nat
  /-- PERSTn_N is deasserted, and since when (R38, R44). -/
  perstHigh : Bool
  perstAt : Nat
  /-- Bytes in the receive allotment, and whether XOFF was the last frame sent (R47). -/
  allot : Nat
  xoff : Bool
  /-- Priorities that a received PFC frame has paused (R46). -/
  paused : List Nat
  /-- The MAC address of an Ethernet port (R48), and FEC-corrected codewords not yet counted in CORR (R56). -/
  mac : List Byte
  fec : Nat
  deriving DecidableEq, Repr

/-- A transport connection of an Ethernet port (R49): one per NVMe queue. -/
structure Conn where
  port : Nat
  inst : Nat
  qid : Nat
  rdma : Bool
  /-- Transmit rate in Mbit/s, and the times of the last CNP sent, the last received, and the last rise (R52). -/
  rate : Nat
  cnpSent : Option Nat
  cnpSeen : Option Nat
  /-- Retransmissions in a row of one request or segment (R49). -/
  retries : Nat
  /-- Path MTU or MSS in bytes, and whether header and data digests were agreed (R49). -/
  mtu : Nat
  hdgst : Bool
  ddgst : Bool
  deriving DecidableEq, Repr

/-- A registrant of a namespace (R58). -/
structure Registrant where
  host : Nat
  key : Nat
  ctrl : Nat
  deriving DecidableEq, Repr

/-- The reservation state of a namespace, one for the device (R58). -/
structure Resv where
  gen : Nat
  /-- 0 none; 1 Write Exclusive; 2 Exclusive Access; 3 and 4 their Registrants Only forms; 5 and 6 their All Registrants forms. -/
  rtype : Nat
  holder : Option Nat
  regs : List Registrant
  /-- Persist Through Power Loss is set. -/
  ptpl : Bool
  deriving DecidableEq, Repr

/-- The lease state of a lease-guarded namespace (R61 to R70). Times are lease-clock times in 100 ns units. -/
structure Lease where
  guarded : Bool
  owner : Option Nat
  grantedAt : Nat
  durMs : Nat
  gen : Nat
  /-- The saved value of Lease Guard (R61, R499). -/
  saved : Bool
  deriving DecidableEq, Repr

/-- The configuration space of a PCIe function, as far as the manual gives it contents that a host can write (R43, R57, R493). -/
structure FnCfg where
  /-- BAR0's address. -/
  bar0 : Nat
  /-- Max Payload Size and Max Read Request Size as coded, and the Completion Timeout Value of Device Control 2. -/
  mps : Nat
  mrrs : Nat
  cto : Nat
  d3hot : Bool
  /-- System Page Size and the address of VF BAR0, in the SR-IOV capability of a physical function. -/
  sysPage : Nat
  vfBar0 : Nat
  deriving DecidableEq, Repr

/-- HFU's state. -/
structure Hfu where
  regs : RegFile
  ports : Tab Port
  conns : Tab Conn
  resv : Tab Resv
  leases : Tab Lease
  /-- The lease-clock time at which the hold-off ends (R70). -/
  holdoff : Option Nat
  /-- VDD_SERDES is out of its limits (R512). -/
  railLow : Bool
  /-- Lane groups whose PERSTn_N is deasserted, and since when (R38). -/
  perst : Tab Nat
  /-- Configuration space, by instance; a function without an entry has its reset values. -/
  cfg : Tab FnCfg
  deriving DecidableEq, Repr

end Sys2Proof.Machine
end

