-- ==== Sys2Proof/Machine/PtmTypes.lean ====
section
/-! DEFINITION. The state of PTM: hold-up energy, sensors, temperature bands and the throttle (chapter 14). Voltages are in mV,
temperatures in quarters of a degree Celsius (the resolution of R428), times in 100 ns units. -/

namespace Sys2Proof.Machine

/-- The board's HUE parameters, held in the calibration partition (R414, R525). -/
structure HueParams where
  /-- The divider ratio, 1 to this number. -/
  divider : Nat
  /-- RTEST in milliohms. -/
  rtest : Nat
  vhmin : Nat
  vhmax : Nat
  vpf : Nat
  /-- CMIN in microfarads. -/
  cmin : Nat
  /-- ESRMAX in milliohms. -/
  esrmax : Nat
  deriving DecidableEq, Repr

/-- The HUE states of R417. -/
inductive HueState where
  | absent | charging | healthy | degraded | dumping | off
  deriving DecidableEq, Repr

/-- The STATE code of PTM_HUESTAT. -/
def HueState.code : HueState → Nat
  | .absent => 0 | .charging => 1 | .healthy => 2 | .degraded => 3 | .dumping => 4 | .off => 5

/-- A dump in progress or ended (R422, R425). -/
structure DumpInfo where
  started : Nat
  seq : Nat
  /-- 0 protected, 1 unprotected. -/
  mode : Nat
  /-- 0 power loss, 1 safe state, 2 thermal shutdown. -/
  cause : Nat
  jrec : Nat
  ngran : Nat
  left : Nat
  deriving DecidableEq, Repr

/-- A temperature reading and how far it is trusted (R429). -/
structure Sensor where
  reading : Int
  trusted : Bool
  /-- Since when an untrusted sensor has stayed within 5 °C of its neighbours' median. -/
  okSince : Option Nat
  deriving DecidableEq, Repr

/-- A temperature band and the time it was entered (R431). -/
structure TempBand where
  band : Nat
  since : Nat
  deriving DecidableEq, Repr

/-- The throttle states of R432. -/
inductive Throttle where
  | none | active | shutdown
  deriving DecidableEq, Repr

/-- PTM's state. -/
structure Ptm where
  regs : RegFile
  board : HueParams
  hue : HueState
  /-- The last sample of the bank voltage. -/
  v : Nat
  /-- Since when V has stayed in range. -/
  inRange : Option Nat
  outCount : Nat
  lowCount : Nat
  pfCount : Nat
  /-- A test has passed in the present state. -/
  passed : Bool
  /-- Since when E has been at or above EPROT after that test. -/
  protSince : Option Nat
  /-- C and ESR (in farads and ohms) of the last passing test since power-on (R415). -/
  cap : Option Rat
  esr : Rat
  testFail : Bool
  testWanted : Bool
  /-- The start of the test that runs. -/
  testRun : Option Nat
  /-- The end of the last test since the start. -/
  lastTest : Option Nat
  /-- When DEGRADED was entered or a test last ended in it. -/
  degradedAt : Nat
  lastTestStamp : Nat
  testFails : Nat
  /-- PFAIL_N is low. -/
  pfail : Bool
  dump : Option DumpInfo
  dumpSeq : Nat
  dumpBytes : Nat
  dumpTime : Nat
  dumpRes : Nat
  sensors : Tab Sensor
  /-- Readings of CE 0, LUN 0 by channel (R430). -/
  nand : Tab Sensor
  /-- DRAM temperatures by channel, in whole degrees (R430, R337). -/
  dram : Tab Int
  /-- The last readings of every throttle input, newest first, one per 10 ms. -/
  hist : Tab (List Int)
  nosnsJ : List Nat
  nosnsN : List Nat
  jband : TempBand
  nbands : Tab TempBand
  /-- The junction is below the grade's lowest Tj. -/
  belowMin : Bool
  throttle : Throttle
  /-- R_w0 and R_r0 in bytes per second (R433). -/
  rw0 : Nat
  rr0 : Nat
  /-- L and the input kind that sets it. -/
  level : Rat
  levelSrc : Nat
  /-- Since when every input is at or below its start less 3 °C with no trip. -/
  coolSince : Option Nat
  /-- Inputs with an active rate-of-rise trip, each with the time since which its rise has stayed low. -/
  trips : Tab (Option Nat)
  rorTrips : Nat
  thrTime : Nat
  thrSince : Nat
  /-- THERMTRIP_N is driven low. -/
  thermtrip : Bool
  shutAt : Nat
  deriving DecidableEq, Repr

end Sys2Proof.Machine
end

