-- ==== Sys2Proof/Machine/MgcTypes.lean ====
section
/-! DEFINITION. The state of MGC: the firmware store and its controller, images and activation, the sideband and the Ahnah
interface, start and shutdown (chapters 13 and 16). -/

namespace Sys2Proof.Machine

/-- The requesters of the FSC (R389). -/
inductive FscPort where
  | service | stage2 | fev | sec | ptx
  deriving DecidableEq, Repr

/-- A 16 B word of the NOR die with its program count (R389). -/
structure NorWord where
  bytes : List Byte
  count : Nat
  deriving DecidableEq, Repr

/-- A program that the FSC runs or holds waiting behind an erase (R390, R391). -/
structure FscProgram where
  port : FscPort
  offset : Nat
  bytes : List Byte
  started : Nat
  /-- It is nested in a suspended erase. -/
  nested : Bool
  deriving DecidableEq, Repr

/-- A run of sector erases (R392). -/
structure FscErase where
  port : FscPort
  /-- Sectors still to erase, the running one first. -/
  sectors : List Nat
  runSince : Nat
  suspensions : Nat
  /-- A nested program's hold of 2 ms has passed. -/
  holdOver : Bool
  deriving DecidableEq, Repr

/-- A read that waits for an array operation (R390). -/
structure FscRead where
  port : FscPort
  offset : Nat
  len : Nat
  deriving DecidableEq, Repr

/-- A component entry of an image header (R396). -/
structure ImgComp where
  kind : Nat
  dver : Nat
  offset : Nat
  len : Nat
  svn : Nat
  version : Nat
  digest : Nat
  resv : Nat
  deriving DecidableEq, Repr

/-- The parts of an Olgaina image header that the device acts on (R396). -/
structure ImgHeader where
  sig : Nat
  hver : Nat
  ncomp : Nat
  version : Nat
  svn : Nat
  mins2svn : Nat
  hsv : Nat
  hsvmin : Nat
  imglen : Nat
  flags : Nat
  signer : Nat
  reserved : Bool
  comps : List ImgComp
  deriving DecidableEq, Repr

/-- Who owns the open download (R97, R410). -/
inductive DlOwner where
  | inst (i : Nat)
  | sideband
  deriving DecidableEq, Repr

/-- The one open firmware download: its pieces by byte offset. -/
structure Download where
  owner : DlOwner
  pieces : Tab (List Byte)
  lastAt : Nat
  deriving DecidableEq, Repr

/-- The requester of a Firmware Commit that waits for an activation. -/
inductive CommitFrom where
  | ctx (c : Nat)
  | ahnah
  deriving DecidableEq, Repr

/-- Phases of a hot activation (R404, R405): PHASE of MGC_ACTSTAT. -/
inductive ActPhase where
  | prepare | handover | record
  deriving DecidableEq, Repr

/-- A hot activation in progress. -/
structure Activation where
  phase : ActPhase
  slot : Nat
  header : ImgHeader
  by' : CommitFrom
  /-- H of R405. -/
  startedAt : Nat
  deriving DecidableEq, Repr

/-- The running image. -/
structure RunImage where
  slot : Nat
  svn : Nat
  version : Nat
  hsv : Nat
  deriving DecidableEq, Repr

/-- What the calibration partition keeps, beside the key blobs (R387 and the rules that name it). -/
structure Calib where
  next : Nat
  nextPending : Bool
  minimg : Nat
  hue : HueParams
  /-- Device-erasure modes by rank (R329). -/
  erasure : Tab Nat
  /-- Ethernet port configuration blocks by host port (R413). -/
  ports : Tab (List Byte)
  /-- Values firmware gives MSS_DMCFG and the blocks whose LOCK the Cameleer leaves clear (R320, R490). -/
  dmcfg : W32
  lockExempt : List Reg
  trained : Bool
  serial : List Byte
  /-- The provisioned identity that MAC addresses are taken from, 6 B (R48). -/
  identity : List Byte
  deriving DecidableEq, Repr

/-- A sanitize or admin command that holds the Ahnah interface until it ends. -/
structure AhTask where
  code : Nat
  deriving DecidableEq, Repr

/-- The Ahnah registers (R411). -/
structure Ahnah where
  busy : Option AhTask
  done : Bool
  err : Bool
  task : Nat
  tag : Nat
  dlen : Nat
  result : Nat
  args : List Nat
  data : List Byte
  deriving DecidableEq, Repr

/-- Start of the device: how far it has come (R467), PHASE of MGC_BOOTSTAT. -/
inductive BootPhase where
  /-- Held in reset. -/
  | reset
  /-- Stopped in the boot ROM with FAULT_N asserted (R349). -/
  | romHalt
  /-- Stage 2 in the recovery state (R400). -/
  | recovery
  /-- The start stopped: a training failure or a load that failed. -/
  | stopped
  /-- Device ready. -/
  | ready
  deriving DecidableEq, Repr

/-- A clean shutdown (R472, R473). -/
structure Shutdown where
  startedAt : Nat
  /-- A device reset follows. -/
  devrst : Bool
  deriving DecidableEq, Repr

/-- A self-test that runs (R458): short (1) or extended (2), and the instance that asked for it. -/
structure SelfTest where
  kind : Nat
  inst : Nat
  deriving DecidableEq, Repr

/-- A result of the self-test log: the kind, the result code, the failing segment, operating hours, and the namespace concerned. -/
structure DstResult where
  kind : Nat
  code : Nat
  segment : Nat
  hours : Nat
  nsid : Option Nat
  deriving DecidableEq, Repr

/-- MGC's state. -/
structure Mgc where
  regs : RegFile
  cal : Calib
  /-- Words of the store that were programmed; the event log is held by FEV, descriptors by PTX. -/
  nor : Tab NorWord
  /-- Partitions that hold what the device was delivered with: 0 boot stage 2, else the image slot (log entry 51). -/
  factory : List Nat
  /-- The stage 2 copies that can run, 0 A and 1 B, with SVN and digest, and the copy used at this boot (R399). -/
  s2 : Tab (Nat × Nat)
  s2Run : Nat
  prog : Option FscProgram
  /-- Programs of the chain, descriptor and stage 2 ports that wait for the running one (R390, R455). -/
  waiting : List (FscPort × Nat × List Byte)
  erase : Option FscErase
  reads : List FscRead
  /-- A failed program or erase of the service, by offset, until POLL has told it. -/
  svcFail : Option Nat
  run : RunImage
  download : Option Download
  act : Option Activation
  /-- Completion posting is held until this time (R405). -/
  postHold : Nat
  ah : Ahnah
  /-- Port configuration blocks as the last start took them (R413). -/
  ports : Tab (List Byte)
  /-- MCTP endpoint ID, and the configurations of NVMe-MI: SMBus frequency, transmission unit, asynchronous events (R409). -/
  eid : Nat
  miFreq : Nat
  miMtu : Nat
  miAen : Nat
  vpd : List Byte
  boot : BootPhase
  /-- The time of the cold entry and of device ready. -/
  coldAt : Nat
  readyAt : Nat
  shutdown : Option Shutdown
  quiesced : Bool
  /-- A device reset is due: the end of a shutdown that asked for one, or an image commit in the recovery state (R412, R474). -/
  resetDue : Bool
  acRun : Nat
  /-- The measurement that the warm restart after a watchdog expiry takes of the image it reloads; none where the store's own bytes give it (R30). -/
  reload : Option Nat
  /-- The self-test in progress (R458), and the last 20 results, newest first. -/
  dst : Option SelfTest
  dstResults : List DstResult
  deriving DecidableEq, Repr

end Sys2Proof.Machine
end

