-- ==== Sys2Proof/Machine/OperandTypes.lean ====
section
/-! DEFINITION. What the commands of the block carry: requesters, host commands with the buffers that travel with them, frames of
an Ethernet port, and what a start meets. -/

namespace Sys2Proof.Machine

/-- A requester of CSR space (R487). -/
inductive Requester where
  | cameleer
  | core (n : Nat)
  | debug
  /-- A sideband agent at AHADDR, which reaches the Ahnah registers alone (R411, R413). -/
  | sideband
  deriving DecidableEq, Repr

/-- What a start meets outside the device's own state (R465, R467). -/
structure StartEnv where
  /-- STRAP_LG0, STRAP_LG1, STRAP_DBGSEL and STRAP_RECOV as MGC_BOOTSTAT shows them. -/
  straps : Nat
  /-- Lane groups whose PERST is deasserted. -/
  perst : List Nat
  /-- The boot ROM's checks of its fuses, of itself and of stage 2 pass (R349). -/
  romGood : Bool
  /-- Saved DRAM training can be restored; channels whose bring-up fails (R323, R324). -/
  savedTraining : Bool
  dramFails : List Nat
  /-- XTS lanes whose known-answer tests fail (R367). -/
  readLanesBad : List Nat
  writeLanesBad : List Nat
  /-- Dies that do not come up (R236). -/
  diesBad : List Nat
  /-- An uncorrectable DRAM error makes replay start again (R330). -/
  replayTwice : Bool
  deriving DecidableEq, Repr

/-- Rails and the conditions of R512. -/
inductive Rail where
  /-- VDD_CORE below the VGSENS threshold or 8% above nominal. -/
  | coreGlitch
  /-- VDD_SRAM below 94%. -/
  | sram
  /-- VDD_CORE, VDD_IO or VDD_AON below 88%; `aon` when VDD_AON itself falls. -/
  | mains (aon : Bool)
  | pll
  | serdes
  | ddr
  | nor
  /-- VCCQ_NCLk of a powered cluster. -/
  | nand (k : Nat)
  deriving DecidableEq, Repr

/-- A submission queue entry as it is fetched: its instance and queue. -/
structure IoCmd where
  inst : Nat
  sqid : Nat
  q : Sqe
  deriving DecidableEq, Repr

/-- An admin command: from the admin queue of an instance, or over the sideband for an instance (R410). -/
structure AdminCmd where
  inst : Nat
  side : Bool
  q : Sqe
  deriving DecidableEq, Repr

/-- A source range of a Copy: namespace identifier, first block, blocks, and the expected protection information. -/
structure CopySrc where
  nsid : Nat
  slba : Nat
  len : Nat
  ref : Nat
  app : Nat
  appMask : Nat
  deriving DecidableEq, Repr

/-- What a device-issued host read was for (R57). -/
inductive HostRead where
  | fetch (inst sqid : Nat)
  | data (ctx : Nat)
  deriving DecidableEq, Repr

/-- A failing completion to a device-issued read (R57). -/
inductive ReadFault where
  | poisoned | unsupported | abort
  deriving DecidableEq, Repr

/-- A register of a PCIe function's configuration space; the manual gives the capabilities no offsets, so each is named (R43, R493, R495). -/
inductive CfgReg where
  /-- Base Address Registers 0 to 5, and the Expansion ROM base. -/
  | bar (i : Nat)
  | rom
  /-- Device Capabilities and Control, Device Capabilities 2 and Control 2, Link Capabilities and Status, power management control. -/
  | devCap
  | devCtl
  | devCap2
  | devCtl2
  | linkCap
  | linkSta
  | pmCtl
  /-- Message control of MSI and of MSI-X, and the MSI-X table and PBA offsets with their BIR. -/
  | msi
  | msix
  | msixTable
  | msixPba
  /-- The SR-IOV capability of a physical function: TotalVFs, Supported Page Sizes, System Page Size, VF BAR 0 to 5. -/
  | totalVfs
  | pageSizes
  | sysPage
  | vfBar (i : Nat)
  /-- A double word of the DVSEC "Port Identity" at a byte offset in it. -/
  | dvsec (off : Nat)
  deriving DecidableEq, Repr

/-- A configuration request: the port, the function's number in its port's range, the register, and the value of a write. -/
structure CfgReq where
  port : Nat
  fn : Nat
  reg : CfgReg
  w : Option Nat
  deriving DecidableEq, Repr

/-- What a host writes to unmask or mask interrupts (R91, R494): a vector's mask bit, or INTMS and INTMC. -/
inductive IntWrite where
  | vector (n : Nat) (mask : Bool)
  | intms (v : Nat)
  | intmc (v : Nat)
  deriving DecidableEq, Repr

/-- The head of a received Ethernet frame (R46, R47): its bytes, VLAN (0 untagged) and priority, IPv6 or IPv4; whether the share of its priority is
full, where it is not the lossless one; and codewords that FEC has corrected since the frame before. -/
structure EthHead where
  len : Nat
  vlan : Nat
  prio : Nat
  v6 : Bool
  full : Bool
  fec : Nat
  deriving DecidableEq, Repr

/-- A received Ethernet frame as the port judges it (R47, R49, R57). -/
inductive EthFrame where
  /-- A command capsule of a connection, with its bytes. -/
  | capsule (conn bytes : Nat)
  /-- Another frame, with the bytes it holds. -/
  | data (bytes : Nat)
  /-- Held data has left the allotment. -/
  | taken (bytes : Nat)
  /-- An uncorrectable FEC codeword or a bad FCS. -/
  | bad
  /-- A RoCEv2 packet whose ICRC fails. -/
  | icrc (conn : Nat)
  /-- An NVMe/TCP data digest error on the data of a command. -/
  | dataDigest (ctx : Nat)
  /-- An NVMe/TCP header digest error on a connection. -/
  | headerDigest (conn : Nat)
  deriving DecidableEq, Repr

/-- A received frame. -/
structure EthRx where
  head : EthHead
  frame : EthFrame
  deriving DecidableEq, Repr

/-- A Fabrics Connect (R50, R75). -/
structure ConnectReq where
  qid : Nat
  /-- Queue size, 0-based. -/
  sqsize : Nat
  kato : Nat
  hostId : Nat
  /-- The controller of an I/O Connect. -/
  cntlid : Nat
  rdma : Bool
  /-- SQ flow control is disabled. -/
  noFlow : Bool
  /-- The transport port it comes in on, and whether it names the discovery controller (R49, R50). -/
  tport : Nat
  discovery : Bool
  /-- Path MTU or MSS, and the digests asked for (R49). -/
  mtu : Nat
  hdgst : Bool
  ddgst : Bool
  deriving DecidableEq, Repr

/-- A Set Features data structure, where the feature has one. -/
inductive FeatureData where
  | none'
  | number (v : Nat)
  /-- Interrupt or FDP event lists and the like. -/
  | bytes (b : List Byte)
  deriving DecidableEq, Repr

/-- What a Security Send carries (R363, R364). -/
inductive SecPayload where
  | spdm (r : SpdmReq)
  /-- Enables Key Per I/O on a namespace with a number of key tags, or disables it. -/
  | kpioEnable (nsid tags : Nat)
  | kpioDisable (nsid : Nat)
  | inject (nsid tag : Nat) (blob : List Byte)
  | other
  deriving DecidableEq, Repr

/-- What a Security Receive asks for. -/
inductive SecQuery where
  | spdm | discovery | other
  deriving DecidableEq, Repr

/-- An NVMe-MI message of the sideband or of NVMe-MI Send and Receive (R409). -/
inductive MiReq where
  | readData (dtyp : Nat)
  | subsystemPoll (clear : Bool)
  | controllerPoll (start count : Nat) (clear : Bool)
  | configSet (id value : Nat)
  | configGet (id : Nat)
  | vpdRead (off len : Nat)
  | vpdWrite (off : Nat) (data : List Byte)
  | other
  deriving DecidableEq, Repr

/-- MCTP control messages (R409). -/
inductive MctpReq where
  | setEid (eid : Nat)
  | getEid
  | getUuid
  | getVersion (ty : Nat)
  | getTypes
  | other
  deriving DecidableEq, Repr

/-- The reports that reach FEV from outside the rows of the table (R440). -/
inductive FaultIn where
  /-- A fault that a block reports with its source, code and operands; `severe` selects the higher class of R441. -/
  | coded (src code objType obj arg0 arg1 arg2 : Nat) (severe : Bool)
  /-- A sequencer's internal error on a channel (R30). -/
  | sequencer (ch : Nat)
  /-- An application core's internal error (R30). -/
  | core (n : Nat)
  deriving DecidableEq, Repr

/-- The lane outcome of an XTS operation (R367). -/
inductive LaneOutcome where
  | ok
  /-- A round mismatch on a lane: the frame is redone on another lane. -/
  | mismatch (lane : Nat)
  deriving DecidableEq, Repr

/-- An SRAM word that the scrubber finds corrected or uncorrectable, and what it held (R342). SRAMs are numbered as UEV: 0 the Caravanserai, 1
staging, 2 the map cache, 3 the key store, 4 core memories, 5 miscellaneous. -/
inductive SramWord where
  | corrected (sram : Nat)
  /-- A word of a live context (R87). -/
  | context (ctx : Nat)
  /-- Staging: a read frame of the media, an Oasis frame, program data of a wordline, a received Ethernet frame, borrowed parity. -/
  | readFrame (job : Nat)
  | oasisFrame
  | programData (wl : Nat)
  | ethernet (conn bytes : Nat)
  | parity (ctx : Nat)
  | mapCache
  | keyStore (slot : Nat)
  | coreMemory (n : Nat)
  | cameleerMemory
  | scheduler (k : Nat)
  /-- Write pointers, the valid-bit summary and its cache. -/
  | pointers
  deriving DecidableEq, Repr

end Sys2Proof.Machine
end

