-- ==== Sys2Proof/Machine/Place.lean ====
section
/-! DEFINITION. Placing data in stripes, programming and committing them, reclaim, erase, purge, rebuild and the SLC pool
(R21, R171, R186, R199 to R221, R254, R257, R281, R282). -/

namespace Sys2Proof.Machine

/-! ## What waits to be placed -/

/-- An IU that waits for a stripe. -/
inductive Item where
  | slot (k : Nat) (s : OSlot)
  | copy (id : Nat) (c : Copying)

/-- Barchans that program in SLC mode among the device's own (R202). -/
def deviceSlc (b : Nat) : Bool := [8, 9, 11, 13, 15, 18].contains b

/-- The media mode a barchan's data takes: the device's rule, or the namespace's mode (R202, R255). -/
def Flash.slcFor (f : Flash) (barchan nsx : Nat) : Bool :=
  if barchan ≤ 31 then deviceSlc barchan
  else match f.ns? nsx with
    | some n => n.slc
    | none => false

/-- The order of two records: by WSN, then by IU. -/
def slotBefore (a b : Nat × OSlot) : Bool := decide (a.2.wsn < b.2.wsn ∨ (a.2.wsn = b.2.wsn ∧ a.2.iu ≤ b.2.iu))

/-- Oasis slots of a barchan that wait, in the order of their records. -/
def Flash.waitingSlots (f : Flash) (barchan : Nat) : List (Nat × OSlot) :=
  (f.ptx.slots.filter fun e => e.2.barchan == barchan && e.2.stage == .waiting).foldr (insertBy slotBefore) []

/-- Copies of a destination barchan whose frames have all been read, in order. -/
def Flash.readyCopies (f : Flash) (barchan : Nat) : List (Nat × Copying) :=
  f.ptx.copies.filter fun e => e.2.dest == barchan && !e.2.placed && e.2.got.length == e.2.size

/-- The items of a barchan, by namespace mode: one band holds one mode. -/
def Flash.items (f : Flash) (barchan : Nat) : List Item :=
  if barchan ≤ 31 then (f.readyCopies barchan).map fun e => .copy e.1 e.2
  else
    let xs := f.waitingSlots barchan
    match xs.head? with
    | some h => ((xs.filter fun e => f.slcFor barchan e.2.nsx == f.slcFor barchan h.2.nsx).map fun e => .slot e.1 e.2)
    | none => []

def Item.size (f : Flash) : Item → Nat
  | .slot _ s => match f.ns? s.nsx with
    | some n => n.iu
    | none => 1
  | .copy _ c => c.size

def Item.group : Item → Nat
  | .slot _ s => s.group
  | .copy id _ => 2 ^ 200 + id

def Item.nsx : Item → Nat
  | .slot _ s => s.nsx
  | .copy _ c => c.nsx

/-- The zone of an item of a zoned namespace. -/
def Flash.itemZone (f : Flash) (x : Item) : Option Nat :=
  match x with
  | .slot _ s => (f.ns? s.nsx).bind fun n => if n.zoned then some (s.iu * n.perIu / n.zsze) else none
  | .copy _ _ => none

/-- LBAs of a slot's IU that the slot does not hold and that lie on the media; what a merge read has found unwritten is not among them. -/
def OSlot.missing (s : OSlot) (n : Ns) : List Nat :=
  match s.replaced with
  | some (.media _ _ _) =>
    ((List.range n.perIu).map (· + s.iu * n.perIu)).filter fun l => !Tab.has s.cells l && !s.merged.contains (l / n.perGranule * n.perGranule)
  | _ => []

/-- Starts the merge reads of a slot, one for each granule that misses a block (R169): internal, no reading command. -/
def Flash.startMerge (f : Flash) (now k : Nat) (s : OSlot) : Flash × List Note :=
  match f.ns? s.nsx, s.replaced with
  | some n, some (.media d b fr) =>
    let grans := distinct ((s.missing n).map fun l => l % n.perIu / n.perGranule)
    let g : Flash := { f with ptx := { f.ptx with slots := Tab.set f.ptx.slots k { s with merging := true } } }
    forEach g grans fun h i => h.startRead now (.merge k (s.iu * n.perIu + i * n.perGranule)) (locKey d b (fr + i)) none 0 now false
  | _, _ => (f, [])

/-- Slots of a barchan that need a merge read first. -/
def Flash.needMerge (f : Flash) (barchan : Nat) : List (Nat × OSlot) :=
  (f.waitingSlots barchan).filter fun e => match f.ns? e.2.nsx with
    | some n => !(e.2.missing n).isEmpty
    | none => false

/-! ## Filling a stripe (R199) -/

/-- The first place for `u` frames among the 512 data frames of a stripe: aligned to `u`, none used. -/
def findSpot (used u : Nat) : Nat → Nat → Option Nat
  | 0, _ => none
  | fuel + 1, p => if 512 < p + u then none else if used / 2 ^ p % 2 ^ u = 0 then some p else findSpot used u fuel (p + u)

/-- Places items in order, each at its first place, until one does not fit: placed items with their places, and the rest. -/
def fillFrames (f : Flash) : List Item → Nat → List (Item × Nat) × List Item
  | [], _ => ([], [])
  | x :: xs, used =>
    let u := max 1 (x.size f)
    match findSpot used u 513 0 with
    | none => ([], x :: xs)
    | some p =>
      let r := fillFrames f xs (used ||| ((2 ^ u - 1) * 2 ^ p))
      ((x, p) :: r.1, r.2)

/-- The die, block and frame of data frame `p` of stripe `s` in a band (R199, R271). -/
def Band.dataLoc (b : Band) (s p : Nat) : Nat × Nat × Nat :=
  let u := b.unitOf s (dataRole (p / 16))
  (u.1, u.2, 16 * s + p % 16)

/-- The frames of a slot's IU, granule by granule (R262). -/
def slotFrames (s : OSlot) (n : Ns) (serial : Nat) (gstart cont gend : Bool) : List Frame :=
  (List.range n.iu).map fun i =>
    let lo := s.iu * n.perIu + i * n.perGranule
    let mine := Tab.keep s.cells fun l _ => decide (lo ≤ l ∧ l < lo + n.perGranule)
    let mark := match s.replaced with
      | some (.mark m) => if mine.length < n.perGranule then some m else none
      | _ => none
    { nsx := s.nsx, lba := lo, wsn := s.wsn, inst := s.inst, barchan := s.barchan, keyslot := s.keyslot, iuoff := i
      gstart := gstart && i == 0, cont := cont, gend := gend && i + 1 == n.iu, pad := false, unw := mine.isEmpty
      bandsn := serial, cells := mine, mark := mark }

/-- An item at its place in a stripe. -/
def Item.toEnt (f : Flash) (b : Band) (s p : Nat) (gstart cont gend : Bool) (x : Item) : PEnt :=
  let l := b.dataLoc s p
  match x with
  | .slot k o =>
    let fs := match f.ns? o.nsx with
      | some n => slotFrames o n b.serial gstart cont gend
      | none => []
    ⟨o.nsx, o.iu, .oasis k, l.1, l.2.1, l.2.2, o.wsn, o.group, fs, false⟩
  | .copy _ c =>
    let fs := c.got.map fun e => { e.2 with bandsn := b.serial, gstart := true, cont := false, gend := true }
    ⟨c.nsx, c.iu, .media c.die c.block c.frame, l.1, l.2.1, l.2.2, ((c.got.head?).map fun e => e.2.wsn).getD 0, 0, fs, true⟩

/-- Group flags of the placed items: first of its group, group goes on past the stripe, last of its group (R200). -/
def flagged : List (Item × Nat) → List Item → Option Nat → List (Item × Nat × Bool × Bool × Bool)
  | [], _, _ => []
  | (x, p) :: xs, rest, prev =>
    let g := x.group
    let goesOn := rest.any fun y => y.group == g
    let last := !(xs.any fun y => y.1.group == g) && !goesOn
    (x, p, prev != some g, goesOn, last) :: flagged xs rest (some g)

/-! ## Opening a band (R186, R203, R204, R211, R214, R215) -/

/-- Bands of age classes 4 to 7 and of wear moves take worn blocks (R211). -/
def coldBarchan (b : Nat) : Bool := [4, 5, 6, 7, 10, 11].contains b

/-- A host band may open now (R215): in URGENT only after reclaim has freed an FBE, from CONSTRAINED on only for data recorded before. -/
def Flash.mayOpen (f : Flash) (barchan : Nat) (oldest : Nat) : Bool :=
  if barchan ≤ 18 then true
  else if f.ptx.cap ≤ 1 then true
  else if f.ptx.cap = 2 then decide (1 ≤ f.ptx.freed)
  else decide (oldest ≤ f.ptx.capWsn)

/-- A parity set that keeps every cluster's reserve (R214): a cluster that a choice would draw on is left out of the next one. -/
def Flash.sparingSet (f : Flash) (slc cold : Bool) : Nat → List Nat → Option (List (Nat × Nat))
  | 0, _ => none
  | n + 1, skip =>
    match f.paritySet slc cold skip with
    | none => none
    | some set =>
      let low := f.hw.clusterList.filter fun k => set.any (fun x => x.1 / 256 == k) && shortOf (f.reserveFree k set)
      if low.isEmpty then some set else f.sparingSet slc cold n (low ++ skip)

/-- The parity set of a new band of a barchan: the device's own, and data recorded before the state became CONSTRAINED, may draw on the reserves
(R214). -/
def Flash.newSet (f : Flash) (barchan oldest : Nat) (slc : Bool) : Option (List (Nat × Nat)) :=
  if barchan ≤ 18 || (decide (3 ≤ f.ptx.cap) && decide (oldest ≤ f.ptx.capWsn)) then f.paritySet slc (coldBarchan barchan)
  else f.sparingSet slc (coldBarchan barchan) 9 []

/-- User capacity of a band, in bytes (R199). -/
def Flash.bandBytes (f : Flash) (slc : Bool) : Nat := (f.hw.desc ((f.hw.channels.headD 0) * 32)).units slc * 2097152

/-- A zone's bands pass to the next zone of its namespace only where zones are smaller than a band (R204). -/
def Flash.passesOn (f : Flash) (n : Ns) : Bool := decide (n.zsze * n.blockBytes < f.bandBytes n.slc)

/-- What a band of data of a zone that no longer holds the barchan waits for, once it is placed (R203, R204). -/
def Flash.bandMark (f : Flash) (barchan nsx : Nat) (zone : Option Nat) : Option Nat :=
  match f.ns? nsx, zone with
  | some n, some z =>
    match Tab.get? n.zones z with
    | none => some closeMark
    | some x =>
      if x.barchan == some barchan then none
      else match x.st with
        | .full => some (if f.passesOn n then nsx * 2 ^ 40 else closeMark)
        | .closed => some (nsx * 2 ^ 40 + z + 1)
        | .implicitOpen => some (nsx * 2 ^ 40 + z + 1)
        | .explicitOpen => some (nsx * 2 ^ 40 + z + 1)
        | _ => some closeMark
  | _, _ => none

/-- The parked band that a barchan takes up again: its own zone's, or one that waits for any zone of the namespace. -/
def Flash.parkedFor (f : Flash) (nsx : Nat) (zone : Option Nat) (slc : Bool) : Option Nat :=
  let own := match zone with
    | some z => Tab.keysWhere f.ptx.bands fun _ b => b.st = .parked && b.slc == slc && b.waitsFor == some (nsx * 2 ^ 40 + z + 1)
    | none => []
  let any := Tab.keysWhere f.ptx.bands fun _ b => b.st = .parked && b.slc == slc && b.waitsFor == some (nsx * 2 ^ 40)
  (own ++ any).head?

/-- Summary bit of a frame (R219). -/
def summaryBit (nsx byte : Nat) : Nat := (nsx + byte / 2 ^ 30) % 256

/-- BAND_OPEN: the band that a barchan fills, while it has room; else it takes up a parked one, or opens one (R186, R203). -/
def Flash.openBand (f : Flash) (now barchan nsx : Nat) (zone : Option Nat) (slc : Bool) (oldest : Nat) : Option (Flash × Nat) :=
  let filled := (Tab.get? f.ptx.filling barchan).filter fun k => match Tab.get? f.ptx.bands k with
    | some b => decide (b.placed < (f.hw.desc ((b.set.headD (0, 0)).1)).units b.slc)
    | none => false
  match filled with
  | some k => some (f, k)
  | none =>
    match f.parkedFor nsx zone slc with
    | some k =>
      let g := f.updBand k fun b => { b with st := .opened, barchan := barchan, waitsFor := f.bandMark barchan nsx zone }
      some ({ g with ptx := { g.ptx with filling := Tab.set g.ptx.filling barchan k } }, k)
    | none =>
      if f.mayOpen barchan oldest then
        match f.newSet barchan oldest slc with
        | none => none
        | some set =>
          let k := (Tab.firstFree f.ptx.bands 0 (f.ptx.bands.length + 1)).getD 0
          let b : Band :=
            { serial := f.ptx.nextSerial % 2 ^ 32, barchan := barchan, slc := slc, st := .opened, set := set, placed := 0
              committed := 0, frontier := 0, closed := 0, forced := false, dest := 0, retire := [], summary := 0
              waitsFor := f.bandMark barchan nsx zone, erased := [] }
          let p : Ptx :=
            { f.ptx with
              bands := Tab.set f.ptx.bands k b, nextSerial := f.ptx.nextSerial + 1
              filling := Tab.set f.ptx.filling barchan k, freed := if 31 < barchan then 0 else f.ptx.freed }
          some ({ f with ptx := p.log now (.bandOpen b.serial) p.wsn true }, k)
      else none

/-! ## Issuing a stripe (R21, R186, R199 to R201, R244) -/

/-- A record that a Flush or a FUA write waits for. -/
def OSlot.wantedBy (s : OSlot) (wanted : Nat → Nat → Bool) : Bool := (s.wsn :: s.carried).any fun w => wanted s.nsx w

/-- A full stripe of a barchan lies in a wordline that still takes stripes, with a record that a Flush or a FUA write waits for. -/
def Flash.heldInWordline (f : Flash) (barchan : Nat) (wanted : Nat → Nat → Bool) : Bool :=
  f.ptx.wls.any fun w => !w.2.issued && Tab.get? f.ptx.filling barchan == some w.2.band && w.2.stripes.any fun s => s.ents.any fun e =>
    match e.src with
    | .oasis k => ((Tab.get? f.ptx.slots k).map fun x => x.wantedBy wanted).getD false
    | _ => false

/-- A stripe may be programmed before it is full (R201). `wanted`: changes, by namespace index and WSN, that a Flush or a FUA write waits for. A
Purge's relocations do not wait for a full stripe either: its time limit could not be kept (R219; DEDUCED, log entry 186). -/
def Flash.padReason (f : Flash) (barchan : Nat) (wanted : Nat → Nat → Bool) (shutting : Bool) : Bool :=
  shutting || f.ptx.draining || f.ptx.mustPad.contains barchan || ((barchan == 14 || barchan == 15) && !f.ptx.purges.isEmpty)
    || (f.waitingSlots barchan).any (fun e => e.2.wantedBy wanted) || f.heldInWordline barchan wanted

/-- Marks the sources of a stripe's entries as placed. -/
def Ptx.placeSrc (p : Ptx) (e : PEnt) : Ptx :=
  match e.src with
  | .oasis k => { p with slots := Tab.upd p.slots k fun s => { s with stage := .placed } }
  | .media d b fr =>
    { p with copies := p.copies.map fun c => (c.1, if locKey c.2.die c.2.block c.2.frame = locKey d b fr then { c.2 with placed := true } else c.2) }
  | .mark _ => p

/-- Summary bits of a stripe's entries are set when its frames are programmed (R219). -/
def Ptx.summarize (p : Ptx) (k : Nat) (es : List PEnt) : Ptx :=
  let bit := fun (s : Nat) (e : PEnt) => s ||| 2 ^ summaryBit e.nsx (match Tab.get? p.nss e.nsx with
    | some n => e.iu * n.iu * 4096
    | none => 0)
  { p with bands := Tab.upd p.bands k fun b => { b with summary := es.foldl bit b.summary } }

/-- The wordline of a band that still takes stripes, or a fresh one. -/
def Flash.openWordline (f : Flash) (now k wl : Nat) : Flash × Nat :=
  match (f.ptx.wls.filter fun e => e.2.band == k && e.2.wl == wl).head? with
  | some e => (f, e.1)
  | none =>
    let n := f.nextId
    ({ n.1 with ptx := { n.1.ptx with wls := Tab.set n.1.ptx.wls n.2 ⟨k, wl, [], [], false, now, false⟩ } }, n.2)

/-- Queues a full wordline's programs on the dies of its band (R244, R301). -/
def Flash.issueWordline (f : Flash) (now id : Nat) (b : Band) (urgent : Bool) : Flash :=
  let g : Flash := { f with ptx := { f.ptx with wls := Tab.upd f.ptx.wls id fun w => { w with issued := true, urgent := w.urgent || urgent, readyAt := now } } }
  b.set.foldl (fun (g : Flash) x => g.updDie x.1 fun d => { d with internal := d.internal ++ [⟨.op (.program id), now, urgent⟩] }) g

/-- A stripe with nothing in it: pad. -/
def Stripe.blank (band idx : Nat) : Stripe := { band := band, idx := idx, ents := [], recs := [], cont := false }

/-- Adds a stripe to its band; a padded stripe takes the rest of its wordline as pad (R201); a full wordline is issued. -/
def Flash.addStripe (f : Flash) (now k : Nat) (s : Stripe) (padded urgent : Bool) : Flash :=
  match Tab.get? f.ptx.bands k with
  | none => f
  | some b =>
    let step := (f.hw.desc ((b.set.headD (0, 0)).1)).step b.slc
    let wl := b.placed / step
    let o := f.openWordline now k wl
    let left := step - 1 - b.placed % step
    let pads : List Stripe := if padded then (List.range left).map fun i => Stripe.blank k (b.placed + 1 + i) else []
    let count := 1 + pads.length
    let p := (s.ents.foldl Ptx.placeSrc o.1.ptx).summarize k s.ents
    let q : Ptx :=
      { p with
        wls := Tab.upd p.wls o.2 fun w => { w with stripes := w.stripes ++ { s with band := k, idx := b.placed } :: pads, urgent := w.urgent || urgent }
        bands := Tab.upd p.bands k fun b => { b with placed := b.placed + count } }
    let g : Flash := { o.1 with ptx := q }
    if (b.placed + count) % step = 0 then g.issueWordline now o.2 b urgent else g

/-- An FDP event on a handle, recorded where its host enabled it (R182, R184). -/
def Ptx.fdpEvent (p : Ptx) (now type handle : Nat) : Ptx :=
  if (Tab.getD p.fdpEnable handle []).contains type then { p with fdpLog := (p.fdpLog ++ [(type, handle, now)]).drop (p.fdpLog.length + 1 - 64) }
  else p

/-- Pad bytes and media bytes of a barchan (R185). -/
def Ptx.barAdd (p : Ptx) (bar : Nat) (g : BarStat → BarStat) : Ptx :=
  let d : BarStat := ⟨if bar ≤ 31 then 1 else if bar = 32 then 2 else 0, 0xFFFF, 0, 0, 0, 0, 0, 0⟩
  { p with stats := Tab.set p.stats bar (g (Tab.getD p.stats bar d)) }

/-- Completes the wordline that a band fills with pad stripes and issues it (R201). -/
def Flash.finishWordline (f : Flash) (now k : Nat) (urgent : Bool) : Flash :=
  match Tab.get? f.ptx.bands k with
  | none => f
  | some b =>
    let step := (f.hw.desc ((b.set.headD (0, 0)).1)).step b.slc
    if b.placed % step = 0 then f
    else
      let left := step - b.placed % step
      let o := f.openWordline now k (b.placed / step)
      let pads : List Stripe := (List.range left).map fun i => Stripe.blank k (b.placed + i)
      let p : Ptx :=
        { o.1.ptx with
          wls := Tab.upd o.1.ptx.wls o.2 fun w => { w with stripes := w.stripes ++ pads, urgent := w.urgent || urgent }
          bands := Tab.upd o.1.ptx.bands k fun b => { b with placed := b.placed + left } }
      let q := p.barAdd b.barchan fun s => { s with padb := s.padb + left * 512 * 4096, mbw := s.mbw + left * 512 * 4096 }
      ({ o.1 with ptx := q }).issueWordline now o.2 b urgent

/-- A band whose zone has let it go parks once its data has been placed (R203, R204); one that ends leaves its barchan. -/
def Flash.parkMarked (f : Flash) (now barchan k : Nat) : Flash :=
  match Tab.get? f.ptx.bands k with
  | some b =>
    if b.waitsFor.isSome && (f.waitingSlots barchan).isEmpty then
      let g := (f.finishWordline now k false).updBand k fun b => { b with st := if b.waitsFor == some closeMark then b.st else .parked }
      { g with ptx := { g.ptx with filling := Tab.erase g.ptx.filling barchan } }
    else f
  | none => f

/-- Bytes that wear moves have taken of the running TiB of programmed bytes (R213). -/
def Ptx.wearBytes (p : Ptx) : Nat := if p.mediaWritten / tib = p.wlWindow then p.wlMoved else 0
def Ptx.wearTake (p : Ptx) (bytes : Nat) : Ptx := { p with wlWindow := p.mediaWritten / tib, wlMoved := p.wearBytes + bytes }

/-- Wear moves may take more bytes of the running TiB (R213). -/
def Ptx.wearRoom (p : Ptx) (bytes : Nat) : Bool := decide ((p.wearBytes + bytes) * 1000 ≤ p.regs.fld .ptxWlcfg 31 24 * tib)

/-- Places one stripe of a barchan, with its data in order; nothing where a band cannot open, where wear moves have had their share (R213),
or where a stripe that is not full need not be padded. With nothing left to place, `pad` completes the open wordline (R201). -/
def Flash.issueStripe (f : Flash) (now barchan : Nat) (pad urgent : Bool) : Flash :=
  let xs := f.items barchan
  let zone := (xs.head?).bind f.itemZone
  match xs with
  | [] =>
    if pad then
      let g := ((Tab.get? f.ptx.filling barchan).map fun k => f.finishWordline now k urgent).getD f
      { g with ptx := { g.ptx with mustPad := g.ptx.mustPad.filter (· ≠ barchan) } }
    else f
  | x :: _ =>
    let oldest := (xs.map fun y => match y with
      | .slot _ s => s.wsn
      | .copy _ _ => 0).foldl min (2 ^ 64)
    match f.openBand now barchan x.nsx zone (f.slcFor barchan x.nsx) oldest with
    | none => f
    | some (g, k) =>
      match Tab.get? g.ptx.bands k with
      | none => f
      | some b =>
        if (barchan == 10 || barchan == 11) && !f.ptx.wearRoom 8388608 then f
        else
          let r := fillFrames g xs 0
          let full := !r.2.isEmpty || decide (512 ≤ (r.1.map fun y => y.1.size g).sum)
          if full || pad then
            let ents := (flagged r.1 r.2 none).map fun y => y.1.toEnt g b b.placed y.2.1 y.2.2.1 y.2.2.2.1 y.2.2.2.2
            let cont := (r.1.any fun y => r.2.any fun z => z.group == y.1.group)
            let used := (r.1.map fun y => y.1.size g).sum
            let step := (g.hw.desc ((b.set.headD (0, 0)).1)).step b.slc
            let last := pad && r.2.isEmpty
            let padFrames := (512 - used) + (if last then (step - 1 - b.placed % step) * 512 else 0)
            let unw := (ents.map fun e => (e.frames.filter (·.unw)).length).sum
            let h := g.addStripe now k { Stripe.blank k b.placed with ents := ents, cont := cont } last urgent
            let p := h.ptx.barAdd barchan fun s => { s with padb := s.padb + (padFrames + unw) * 4096, mbw := s.mbw + (used + padFrames) * 4096 }
            let p := if barchan == 10 || barchan == 11 then p.wearTake ((used + padFrames) * 4096) else p
            let p : Ptx := { p with mustPad := if last then p.mustPad.filter (· ≠ barchan) else p.mustPad, readyAt := Tab.erase p.readyAt barchan }
            ({ h with ptx := p }).parkMarked now barchan k
          else f

/-- A Reclaim Unit Handle Update on a barchan (R184): the partial stripe is completed, and the barchan's next data opens a new band.
The flag says that a unit ended. -/
def Flash.endUnit (f : Flash) (now hours barchan : Nat) : Flash × Bool :=
  match Tab.get? f.ptx.filling barchan with
  | none => (f, false)
  | some k =>
    let g := (f.updBand k fun b => { b with waitsFor := some closeMark }).issueStripe now barchan true true
    let g : Flash :=
      if (g.waitingSlots barchan).isEmpty then (if Tab.has g.ptx.filling barchan then g.parkMarked now barchan k else g)
      else { g with ptx := { g.ptx with mustPad := if g.ptx.mustPad.contains barchan then g.ptx.mustPad else barchan :: g.ptx.mustPad } }
    match Tab.get? g.ptx.bands k with
    | some b => (if b.committed = b.placed ∧ !(Tab.has g.ptx.filling barchan) then g.closeShort now hours k else g, true)
    | none => (g, true)

/-- Stripes of a band whose commits are covered by every record but those of a list (R222). -/
def Band.covered (b : Band) (left : List JRec) : Nat :=
  left.foldl (fun m r => match r.src with
    | some (serial, i) => if serial = b.serial then min m i else m
    | none => m) b.committed

/-- JOURNAL_STRIPE_PROGRAM: the oldest 2 MiB of the journal tail are placed in barchan 18, padded to a stripe, with the frontiers of the open bands
(R222). -/
def Flash.programJournal (f : Flash) (now : Nat) (urgent : Bool) : Flash :=
  if f.ptx.tail.isEmpty then f
  else
    match f.openBand now 18 0 none true 0 with
    | none => f
    | some (g, k) =>
      let c := g.ptx.cutTail
      let fronts := (g.ptx.bands.filter fun e => e.2.st = .opened || e.2.st = .parked).foldl (fun t e => Tab.set t e.2.serial (e.2.covered c.2)) []
      let h : Flash := { g with ptx := { g.ptx with tail := c.2 } }
      let h := h.addStripe now k { Stripe.blank k 0 with recs := c.1, fronts := fronts } true urgent
      let p := h.ptx.barAdd 18 fun s => { s with padb := s.padb + (512 - ceilDiv c.1.length 256) * 4096, mbw := s.mbw + 2097152 }
      { h with ptx := p }

/-- Programs journal stripes while 2 MiB have accumulated. -/
def Flash.journalMany (now : Nat) : Nat → Flash → Flash
  | 0, f => f
  | n + 1, f => if f.ptx.tailFull then Flash.journalMany now n (f.programJournal now false) else f

/-- The tail is programmed once 2 MiB have accumulated (R222). -/
def Flash.journalIfFull (f : Flash) (now : Nat) : Flash := Flash.journalMany now (f.ptx.tail.length / jstripeRecs) f

/-! ## What a checkpoint writes (R224, R226) -/

/-- Map chunks that one stripe carries. -/
def chunksPerStripe : Nat := 25

/-- Stripes of the band table, the lease generations and the chunk directory, which follow each other (R224): 64 B for each band (log entry 187), 4 B
for each namespace, 5 B for each chunk. -/
def Flash.tableStripes (f : Flash) (c : Ckpt) : Nat :=
  let chunks := (f.ptx.nss.map fun e => ceilDiv (ceilDiv e.2.nsze e.2.perIu) chunkIus).sum
  max 1 (ceilDiv (64 * f.ptx.bands.length + 4 * f.ptx.nss.length + 5 * max chunks c.chunks.length) 2097152)

/-- Stripes of a checkpoint that have been placed and have not committed, of the tables or of chunks. -/
def Ptx.ckptFlying (p : Ptx) (table : Bool) : Nat :=
  let mine := fun s : Stripe => if table then s.table else !s.chunks.isEmpty
  ((p.wls.flatMap fun e => e.2.stripes) ++ p.waiting.flatMap fun e => e.2).countP mine

/-- Places the next stripe of the running checkpoint in barchan 16, and, when no chunk is left, in barchan 17 (R202, R224); the last one takes the rest
of its wordline as pad. -/
def Flash.placeCkpt (f : Flash) (now barchan : Nat) : Flash :=
  match f.ptx.ckptRun with
  | none => f
  | some c =>
    let tables := f.tableStripes c - c.dir.length - f.ptx.ckptFlying true
    let ready := f.ptx.ckptStage = 1 && (if barchan = 16 then !c.todo.isEmpty
      else barchan = 17 && c.todo.isEmpty && f.ptx.ckptFlying false == 0 && decide (0 < tables))
    if ready then
      match f.openBand now barchan 0 none false 0 with
      | none => f
      | some (g, k) =>
        let mine := if barchan = 16 then c.todo.take chunksPerStripe else []
        let rest := if barchan = 16 then c.todo.drop chunksPerStripe else c.todo
        let last := if barchan = 16 then rest.isEmpty else tables == 1
        let placed := ((Tab.get? g.ptx.bands k).map (·.placed)).getD 0
        let step := ((Tab.get? g.ptx.bands k).map fun b => (g.hw.desc ((b.set.headD (0, 0)).1)).step b.slc).getD 1
        let pads := if last then step - 1 - placed % step else 0
        let used := if barchan = 16 then mine.length * 20 else 512
        let h : Flash := { g with ptx := { g.ptx with ckptRun := some { c with todo := rest } } }
        let h := h.addStripe now k { Stripe.blank k 0 with chunks := mine, table := barchan = 17 } last false
        let p := h.ptx.barAdd barchan fun s => { s with padb := s.padb + (512 - used + pads * 512) * 4096, mbw := s.mbw + (1 + pads) * 2097152 }
        { h with ptx := p }
    else f

/-- A stripe of a checkpoint has committed: its chunks, or its tables, have their places. A chunk's place is that of its first frame (log entry 187). -/
def Ptx.ckptCommitted (p : Ptx) (b : Band) (s : Stripe) : Ptx :=
  let at' := fun i => let l := b.dataLoc s.idx (20 * i); MapEnt.media l.1 l.2.1 l.2.2
  { p with ckptRun := p.ckptRun.map fun c =>
    { c with
      chunks := s.chunks.zipIdx.foldl (fun t x => Tab.set t x.1 (at' x.2)) c.chunks
      dir := if s.table then c.dir ++ [at' 0] else c.dir } }

/-- Every chunk, table and directory stripe of the running checkpoint has been written (R224). -/
def Flash.ckptWritten (f : Flash) : Bool :=
  match f.ptx.ckptRun with
  | some c => f.ptx.ckptStage == 1 && c.todo.isEmpty && f.ptx.ckptFlying false == 0 && f.ptx.ckptFlying true == 0
      && decide (f.tableStripes c ≤ c.dir.length)
  | none => false

/-! ## Steering at program issue (R186) -/

/-- A full stripe of a barchan is ready. -/
def Flash.stripeReady (f : Flash) (barchan : Nat) : Bool :=
  let r := fillFrames f (f.items barchan) 0
  !r.2.isEmpty || decide (512 ≤ (r.1.map fun y => y.1.size f).sum)

/-- Keeps the moment at which a full stripe of a barchan became ready. -/
def Flash.noteReady (f : Flash) (now barchan : Nat) : Flash :=
  if Tab.has f.ptx.readyAt barchan || !(f.stripeReady barchan) then f
  else { f with ptx := { f.ptx with readyAt := Tab.set f.ptx.readyAt barchan now } }

/-- The same of every barchan with data to place. -/
def Flash.noteAllReady (f : Flash) (now : Nat) : Flash :=
  (distinct (f.ptx.slots.map (fun e => e.2.barchan) ++ f.ptx.copies.map fun e => e.2.dest)).foldl (fun (g : Flash) b => g.noteReady now b) f

/-- A die of the barchan's band has RDTHR or more reads waiting. -/
def Flash.busyFor (f : Flash) (barchan : Nat) : Bool :=
  match Tab.get? f.ptx.filling barchan with
  | some k => match Tab.get? f.ptx.bands k with
    | some b => b.set.any fun x => decide (f.ptx.regs.fld .ptxSteercfg 7 0 ≤ (f.die x.1).waitingReads)
    | none => false
  | none => false

/-- No stripe is held in these cases (R186). -/
def Flash.noHold (f : Flash) (barchan : Nat) (wanted : Nat → Nat → Bool) : Bool :=
  f.ptx.draining || decide (f.ptx.limit * 9 ≤ f.dirty * 10)
    || (f.waitingSlots barchan).any fun e => e.2.wantedBy wanted

/-- Another barchan has a ready stripe without a busy die. -/
def Flash.otherReady (f : Flash) (barchan : Nat) : Bool :=
  (distinct (f.ptx.slots.map fun e => e.2.barchan)).any fun b =>
    b != barchan && !(f.busyFor b) && !(fillFrames f (f.items b) 0).2.isEmpty

/-! ## Programming and committing (R21, R196, R200, R223) -/

/-- A frame list written to consecutive locations. -/
def writeFrames (m : Tab Frame) (loc : Nat) : List Frame → Tab Frame
  | [] => m
  | x :: xs => writeFrames (Tab.set m loc x) (loc + 1) xs

/-- Whether a map entry still holds the source an IU was placed from (R196). -/
def Flash.stillSrc (f : Flash) (e : PEnt) : Bool := f.ent? e.nsx e.iu == some e.src

/-- Ends the relocation of an IU. -/
def Ptx.dropCopy (p : Ptx) (src : MapEnt) : Ptx :=
  match src with
  | .media d b fr => { p with copies := Tab.keep p.copies fun _ c => locKey c.die c.block c.frame != locKey d b fr }
  | _ => p

/-- Bytes copied out of the source band's barchan (R185), and the Media Reallocated event of the handle whose frames moved (R182). -/
def Ptx.copiedOut (p : Ptx) (now : Nat) (e : PEnt) : Ptx :=
  let p := match e.src with
    | .media d b _ => match p.bands.find? fun x => x.2.set.contains (d, b) with
      | some (_, band) => p.barAdd band.barchan fun s => { s with rcb := s.rcb + e.frames.length * 4096 }
      | none => p
    | _ => p
  match e.frames.head? with
  | some x => if p.fdp && decide (3072 ≤ x.barchan) then p.fdpEvent now 0x80 (x.barchan - 3072) else p
  | none => p

/-- A later record of the same group follows, so that this one does not end it (R200, R222). -/
def Flash.groupGoes (f : Flash) (e : PEnt) (later : List PEnt) : Bool :=
  match e.src with
  | .oasis _ => later.any fun x => x.group == e.group && f.stillSrc x
  | _ => false

/-- Commits one entry: its map entry names the new location only if it still names the source (R196). `later`: the entries that commit after it in
the same step; `by'`: its band and stripe. -/
def Flash.commitEnt (f : Flash) (now : Nat) (e : PEnt) (later : List PEnt) (by' : Nat × Nat) : Flash × List Note :=
  let ok := f.stillSrc e
  let src := e.src
  let carried := match src with
    | .oasis k => ((Tab.get? f.ptx.slots k).map (·.carried)).getD []
    | _ => []
  let g := if ok then
      f.changeEnt now e.nsx e.iu (some (.media e.die e.block e.frame)) e.wsn (!f.groupGoes e later) carried (f.under e.nsx e.iu) (some by')
    else f
  let copy := (g.ptx.copies.find? fun c => match src with
    | .media d b fr => locKey c.2.die c.2.block c.2.frame == locKey d b fr
    | _ => false).map (·.2)
  let h : Flash := match src with
    | .oasis k => { g with ptx := { g.ptx with slots := Tab.erase g.ptx.slots k } }
    | _ => { g with ptx := g.ptx.dropCopy src }
  match copy with
  | some c =>
    if ok then
      match c.charge with
      | some i => (h, [.purgeCharge i e.frames.length])
      | none =>
        if c.dest ≤ 9 then
          ({ h with ptx := h.ptx.copiedOut now e }, [.charge ((e.frames.head?.map fun x => x.inst).getD 0) e.frames.length e.wsn])
        else (h, [])
    else (h, [])
  | none => (h, [])

/-- Commits entries in order, all in one step with those that follow. -/
def Flash.commitEnts (f : Flash) (now : Nat) (by' : Nat × Nat) (after : List PEnt) : List PEnt → Flash × List Note
  | [] => (f, [])
  | e :: es =>
    let r := f.commitEnt now e (es ++ after) by'
    let q := r.1.commitEnts now by' after es
    (q.1, r.2 ++ q.2)

/-- A journal stripe has been programmed: its records are durable, and the frontiers stand where it says (R222, R223). -/
def Ptx.journalled (p : Ptx) (s : Stripe) : Ptx :=
  let top := s.recs.foldl (fun m r => max m r.no) 0
  { p with
    journal := s.recs ++ p.journal
    bands := p.bands.map fun e =>
      let b := { e.2 with frontier := (Tab.get? s.fronts e.2.serial).getD e.2.frontier }
      (e.1, if e.1 = s.band then { b with jlast := max b.jlast top } else b) }

/-- Commits a programmed stripe (R21): its entries in order, its journal records, its map chunks. -/
def Flash.commitStripe (f : Flash) (now hours : Nat) (s : Stripe) (after : List PEnt) : Flash × List Note :=
  let serial := ((Tab.get? f.ptx.bands s.band).map (·.serial)).getD 0
  let r := f.commitEnts now (serial, s.idx) after s.ents
  let g := r.1
  let p : Ptx :=
    { g.ptx with
      bands := Tab.upd g.ptx.bands s.band fun b => { b with committed := s.idx + 1 }
      mediaWritten := g.ptx.mediaWritten + 38 * 65536 }
  let p := if s.recs.isEmpty then p else p.journalled s
  let p := match Tab.get? p.bands s.band with
    | some b => if s.table || !s.chunks.isEmpty then p.ckptCommitted b s else p
    | none => p
  let g : Flash := { g with ptx := p }
  match Tab.get? g.ptx.bands s.band with
  | some b =>
    let ended := b.waitsFor == some closeMark && b.committed == b.placed && !(g.ptx.filling.any fun e => e.2 == s.band)
    if ended || decide ((g.hw.desc ((b.set.headD (0, 0)).1)).units b.slc ≤ b.committed) then
      let q : Ptx :=
        { g.ptx with
          bands := Tab.set g.ptx.bands s.band { b with st := .full, closed := hours }
          filling := Tab.keep g.ptx.filling fun _ n => n != s.band }
      (({ g with ptx := q.log now (.bandClose b.serial) q.wsn true }).settleBand s.band, r.2)
    else (g, r.2)
  | none => (g, r.2)

/-- The stripes that may commit: up to the last one whose groups do not go on (R200). -/
def readyPrefix : List Stripe → List Stripe → List Stripe × List Stripe
  | [], held => ([], held.reverse)
  | s :: rest, held =>
    if s.cont then readyPrefix rest (s :: held)
    else
      let r := readyPrefix rest []
      (held.reverse ++ s :: r.1, r.2)

/-- Commits stripes in order; the entries of a group that goes on commit in one step. -/
def Flash.commitStripes (f : Flash) (now hours : Nat) : List Stripe → Flash × List Note
  | [] => (f, [])
  | s :: ss =>
    let r := f.commitStripe now hours s (if s.cont then ss.flatMap (·.ents) else [])
    let q := r.1.commitStripes now hours ss
    (q.1, r.2 ++ q.2)

/-- Programmed stripes of a barchan commit in order, none before a group it shares with the next is whole. -/
def Flash.commitReady (f : Flash) (now hours barchan : Nat) : Flash × List Note :=
  let r := readyPrefix (Tab.getD f.ptx.waiting barchan []) []
  let g : Flash := { f with ptx := { f.ptx with waiting := if r.2.isEmpty then Tab.erase f.ptx.waiting barchan else Tab.set f.ptx.waiting barchan r.2 } }
  let q := g.commitStripes now hours r.1
  (((q.1.settle).drained).journalIfFull now, q.2)

/-- Every program of a wordline has passed: its frames are on the media and its stripes commit as soon as they may. -/
def Flash.wordlineDone (f : Flash) (now hours id : Nat) : Flash × List Note :=
  match Tab.get? f.ptx.wls id with
  | none => (f, [])
  | some w =>
    match Tab.get? f.ptx.bands w.band with
    | none => (f, [])
    | some b =>
      let media := w.stripes.foldl (fun (m : Tab Frame) s => s.ents.foldl (fun m e => writeFrames m (locKey e.die e.block e.frame) e.frames) m) f.ptx.media
      let held := Tab.getD f.ptx.waiting b.barchan []
      let p : Ptx :=
        { f.ptx with media := media, wls := Tab.erase f.ptx.wls id, waiting := Tab.set f.ptx.waiting b.barchan (held ++ w.stripes) }
      ({ f with ptx := p }).commitReady now hours b.barchan

/-- A program of a wordline on a die passed. -/
def Flash.programPassed (f : Flash) (now hours id die : Nat) : Flash × List Note :=
  match Tab.get? f.ptx.wls id with
  | none => (f, [])
  | some w =>
    match Tab.get? f.ptx.bands w.band with
    | none => (f, [])
    | some b =>
      let pos := b.set.findIdx fun x => x.1 == die
      let passed := if w.passed.contains pos then w.passed else pos :: w.passed
      let g : Flash := { f with ptx := { f.ptx with wls := Tab.set f.ptx.wls id { w with passed := passed } } }
      if 38 ≤ passed.length then g.wordlineDone now hours id else (g, [])

/-- A block of a band failed: the band closes short and becomes a forced victim (R221). -/
def Flash.bandFailed (f : Flash) (now hours k : Nat) : Flash :=
  match Tab.get? f.ptx.bands k with
  | none => f
  | some b =>
    let mine := Tab.keysWhere f.ptx.wls fun _ w => w.band == k
    let drop := fun q : Queued => match q.work with
      | .op (.program id) => !mine.contains id
      | _ => true
    let g := b.set.foldl (fun (g : Flash) x => g.updDie x.1 fun d => { d with internal := d.internal.filter drop }) f
    -- the handle of the band has lost its unit: Implicitly Modified RUH (R182; PRESUMED, log entry 188)
    let g : Flash := if g.ptx.fdp && decide (3072 ≤ b.barchan) && b.st = .opened then { g with ptx := g.ptx.fdpEvent now 0x81 (b.barchan - 3072) } else g
    ((g.closeShort now hours k).force k (refreshDest b.slc)).settleBand k

/-- A program of a wordline on a die failed: the block is BAD, and what it carried is placed again (R221, R246). -/
def Flash.programFailed (f : Flash) (now hours id die : Nat) : Flash × List Note :=
  match Tab.get? f.ptx.wls id with
  | none => (f, [])
  | some w =>
    match Tab.get? f.ptx.bands w.band with
    | none => (f, [])
    | some b =>
      let u := (b.set.find? fun x => x.1 == die).getD (die, 0)
      let g := (f.badBlock u.1 u.2).bandFailed now hours w.band
      let g := g.journalIfFull now
      if g.overBadlim die then thenDo (g.dieOut now hours die 1 false) Flash.capUpdate else g.capUpdate

/-! ## Reclaim (R207 to R210, R213) -/

/-- Mean erase count of a list of blocks, and of all good blocks of a media mode. -/
def Flash.meanOf (f : Flash) (xs : List Nat) : Rat :=
  if xs.isEmpty then 0 else ((xs.map fun k => (f.blk k).ecnt).sum : Nat) / (xs.length : Nat)

def Flash.meanAll (f : Flash) (slc : Bool) : Rat :=
  let good := f.mbe.blks.filter fun e => e.2.pool == slc && e.2.st != .bad
  let listed := (good.map fun e => e.2.ecnt).sum
  let rest : Nat := if slc then 0 else (f.hw.dies.map fun d => (f.hw.desc d).blks).sum - f.mbe.blks.length
  let n := good.length + rest
  if n = 0 then 0 else ((listed + rest * f.mbe.base : Nat) : Rat) / (n : Nat)

/-- Age of a band in whole hours since its close (R208). -/
def Band.age (b : Band) (hours : Nat) : Nat := (hours - b.closed) / 3600

/-- The score of a FULL band (R208). -/
def Flash.score (f : Flash) (hours : Nat) (b : Band) : Rat :=
  let v := f.valid b
  let inv : Rat := (b.userFrames - v : Nat)
  if f.ptx.regs.bit .ptxRclcfg 28 then inv
  else
    let a := min (b.age hours) 1023
    let g : Rat := 1 + (f.ptx.regs.fld .ptxRclcfg 26 24 * a : Nat) / 1024
    let rated : Nat := (f.hw.desc ((b.set.headD (0, 0)).1)).rated b.slc
    let h : Rat := min (max (1 + (f.ptx.regs.fld .ptxRclcfg 22 20 : Nat) * (f.meanAll b.slc - f.meanOf b.keys) / (rated : Nat)) (1 / 2)) 2
    inv * g * h / ((v + f.ptx.regs.fld .ptxRclcfg 7 0 * 256 : Nat) : Rat)

/-- A band that reclaim may choose. -/
def Band.eligible (b : Band) : Bool := b.st = .full && (b.barchan < 16 || 18 < b.barchan)

/-- The victim of a media mode (R209): forced bands first, lowest V; then the highest positive score, the lower number on a tie. -/
def Flash.victimOf (f : Flash) (hours : Nat) (slc : Bool) : Option Nat :=
  let cs := f.ptx.bands.filter fun e => e.2.eligible && e.2.slc == slc
  match leastBy (fun e : Nat × Band => f.valid e.2) (cs.filter fun e => e.2.forced) with
  | some e => some e.1
  | none =>
    (cs.foldl (fun (best : Option (Nat × Rat)) e =>
      let s := f.score hours e.2
      match best with
      | none => if 0 < s then some (e.1, s) else none
      | some x => if x.2 < s then some (e.1, s) else best) none).map Prod.fst

/-- The age class of a band (R210). -/
def ageClass (hours : Nat) : Nat := ((List.range 7).filter fun i => decide (4 ^ i ≤ hours)).length

/-- The barchan of a victim's copies: its forced destination, or the age class's (R202, R210). -/
def Band.copyDest (b : Band) (hours : Nat) : Nat :=
  if b.forced && b.dest != 0 then b.dest
  else
    let c := ageClass (b.age hours)
    if b.slc then (if c < 3 then 8 else 9) else c

/-- Starts a band's copies: one relocation per IU that names it, read at class B (R210). -/
def Flash.startCopies (f : Flash) (now hours k : Nat) (charge : Option Nat) : Flash × List Note :=
  match Tab.get? f.ptx.bands k with
  | none => (f, [])
  | some b =>
    let dest := b.copyDest hours
    let g := (f.updBand k fun b => { b with st := .victim }).stopPromotion b
    let r := forEach g (g.named b) fun h e =>
      let nsx := e.1 / 2 ^ 48
      let size := match h.ns? nsx with
        | some n => n.iu
        | none => 1
      let n := h.nextId
      let c : Copying := ⟨nsx, e.1 % 2 ^ 48, e.2.1, e.2.2.1, e.2.2.2, size, [], dest, charge, false⟩
      let h : Flash := { n.1 with ptx := { n.1.ptx with copies := Tab.set n.1.ptx.copies n.2 c } }
      forEach h (List.range size) fun h i => h.startRead now (.copy n.2 i) (locKey e.2.1 e.2.2.1 (e.2.2.2 + i)) none 0 now false
    (r.1.settleBand k, r.2)

/-- The instance that a band's copies are charged to: the one whose Purge waits for the band, if there is one (R219). -/
def Ptx.purger (p : Ptx) (k : Nat) : Option Nat := (p.purges.find? fun e => e.2.bands.contains k).map fun e => e.2.inst

/-- RECLAIM_VICTIM_SELECT: chooses a victim per media mode while reclaim runs, or a forced one at any time (R207, R209). -/
def Flash.selectVictims (f : Flash) (now hours : Nat) : Flash × List Note :=
  forEach f [false, true] fun g slc =>
    let running := (g.ptx.bands.filter fun e => e.2.st = .victim).length
    match g.victimOf hours slc with
    | none => (g, [])
    | some k =>
      let forced := ((Tab.get? g.ptx.bands k).map fun b => b.forced).getD false
      if running < 16 && (forced || decide (1 ≤ g.ptx.cap)) then g.startCopies now hours k (g.ptx.purger k) else (g, [])

/-- Static wear levelling (R213): the spread of a mode passes WLGAP, and the least-worn FULL band of at least 24 h is forced; one band at a time,
while wear moves have room in the running TiB. -/
def Flash.wearLevel (f : Flash) (hours : Nat) (slc : Bool) : Flash :=
  let es := (f.mbe.blks.filter fun e => e.2.pool == slc && e.2.st != .bad).map fun e => e.2.ecnt
  let es := if slc then es else f.mbe.base :: es
  let hi := es.foldl max 0
  let lo := es.foldl min hi
  let busy := f.ptx.bands.any fun e => e.2.forced && e.2.dest == wearDest slc && e.2.slc == slc && (e.2.st == .full || e.2.st == .victim)
  if f.ptx.wearRoom 8388608 ∧ f.ptx.regs.fld .ptxWlcfg 11 0 < hi - lo ∧ !busy then
    let cs := f.ptx.bands.filter fun e => e.2.eligible && e.2.slc == slc && !e.2.forced && decide (24 ≤ e.2.age hours)
    match cs.foldl (fun (best : Option (Nat × Rat)) e =>
        let m := f.meanOf e.2.keys
        match best with
        | none => some (e.1, m)
        | some x => if m < x.2 then some (e.1, m) else best) none with
    | some x => f.force x.1 (wearDest slc)
    | none => f
  else f

/-! ## Erase (R203, R205, R245) -/

/-- Delta records in stripes that still program, newest first. -/
def Ptx.flying (p : Ptx) : List JRec :=
  ((p.wls.flatMap fun e => e.2.stripes.flatMap fun s => s.recs) ++ p.waiting.flatMap fun e => e.2.flatMap fun s => s.recs).foldr
    (insertBy fun a b => decide (b.no ≤ a.no)) []

/-- A location in a band. -/
def Band.holds (b : Band) : Option MapEnt → Bool
  | some (.media d bl _) => b.set.contains (d, bl)
  | _ => false

/-- The delta records that moved entries away from a band all lie in programmed journal stripes (R205). -/
def Flash.movesDurable (f : Flash) (b : Band) : Bool := !((f.ptx.tail ++ f.ptx.flying).any fun r => b.holds r.was)

/-- An IU's Oasis copy lies over an entry in a band: a merge may still read it, and a restart may return to it (R169, R197). -/
def Flash.underOasis (f : Flash) (b : Band) : Bool := f.ptx.slots.any fun e => e.2.stage != .superseded && b.holds e.2.replaced

/-- A RECLAIMABLE band may be erased (R205). An entry that an Oasis copy has replaced has not moved away yet: its record follows with the commit
(R197; DEDUCED, log entry 189). -/
def Flash.mayErase (f : Flash) (k : Nat) (b : Band) : Bool :=
  b.st = .reclaimable && !(f.ptx.holds.any fun h => h.2 == k) && f.movesDurable b && !f.underOasis b

/-- A band's blocks marked for retirement become BAD now (R212, R270). -/
def Flash.retireMarked (f : Flash) (b : Band) : Flash := b.retire.foldl (fun (g : Flash) k => g.badBlock (k / 4096) (k % 4096)) f

/-- ERASE_ISSUE: a RECLAIMABLE band whose conditions hold has its blocks erased at class B, each in the mode of its pool, which its next band will use (R203, R205, R245, R254). Blocks that are
BAD or on a die out of service are not erased; a Purge that waits for them has a residue (R220). -/
def Flash.eraseBand (f : Flash) (now k : Nat) : Flash × List Note :=
  match Tab.get? f.ptx.bands k with
  | none => (f, [])
  | some b0 =>
    if f.mayErase k b0 then
      let g := f.retireMarked b0
      let b : Band := { b0 with st := .erasing, retire := [], erased := [] }
      let g : Flash := { g with ptx := { g.ptx with bands := Tab.set g.ptx.bands k b } }
      forEach g b.set fun h x =>
        let key := blkKey x.1 x.2
        if (h.blk key).st = .bad || !h.inService x.1 then
          ({ h with ptx := h.ptx.residue k x.1 }).blockErased k key
        else
          (h.updDie x.1 fun d => { d with internal := d.internal ++ [⟨.op (.erase key (some k) (h.blk key).pool), now, false⟩] }, [])
    else (f, [])

/-- An erase reported status (R239, R245, R246): the block is ERASED and free again, or BAD. -/
def Flash.eraseStatus (f : Flash) (now hours key : Nat) (band : Option Nat) (slc ok : Bool) : Flash × List Note :=
  let b := f.blk key
  let die := key / 4096
  let g := if ok then f.setBlk key { b with st := .erased, slc := slc, next := 0, done := 0, ecnt := min 1048575 (b.ecnt + 1), summary := 0 }
    else f.badBlock die (key % 4096)
  let g : Flash := if f.isWadi key then { g with ptx := { g.ptx with wadiErased := g.wadiCount } } else g
  let r : Flash × List Note := match band with
    | some k => (if ok then g else { g with ptx := g.ptx.residue k die }).blockErased k key
    | none => (g, [])
  let q := if !ok && r.1.overBadlim die then thenDo r fun h => h.dieOut now hours die 1 false else r
  thenDo q Flash.capUpdate

/-! ## Purge Range (R219, R220) -/

/-- Whether a summary meets a range of bytes of a namespace. -/
def meetsRange (summary nsx lo len : Nat) : Bool :=
  decide (0 < len) && (List.range ((lo + len - 1) / 2 ^ 30 - lo / 2 ^ 30 + 1)).any fun i => summary.testBit ((nsx + lo / 2 ^ 30 + i) % 256)

/-- A retired block of no band that may hold a copy of a range (R219, R220). -/
def Flash.oldCopy (f : Flash) (nsx lo len : Nat) : Option Nat :=
  (f.mbe.blks.find? fun e => (f.blk e.1).st == .bad && meetsRange e.2.summary nsx lo len).map fun e => e.1 / 4096

/-- Copies of a band that have not been placed go to the purge barchan, at the cost of the purging instance (R219). -/
def Ptx.purgeCopies (p : Ptx) (b : Band) (inst : Nat) : Ptx :=
  { p with copies := p.copies.map fun c =>
    (c.1, if b.set.contains (c.2.die, c.2.block) && !c.2.placed then { c.2 with dest := purgeDest b.slc, charge := some inst } else c.2) }

/-- Steps 2 to 4 of R219: affected bands become forced victims, and the command waits for their erase; a retired block that may hold a copy leaves a
residue (R220). -/
def Flash.purgeBands (f : Flash) (ctx inst nsx lo len : Nat) : Flash × List Note :=
  let hit := f.ptx.bands.filter fun e =>
    (e.2.st = .full || e.2.st = .victim || e.2.st = .reclaimable) && meetsRange e.2.summary nsx lo len
  let g := hit.foldl (fun (g : Flash) e =>
    let h := (g.updBand e.1 fun b => { b with forced := true, dest := purgeDest b.slc }).stopPromotion e.2
    { h with ptx := h.ptx.purgeCopies e.2 inst }) f
  let old := f.oldCopy nsx lo len
  if hit.isEmpty then (g, [.purged ctx 0 old])
  else
    let n := g.nextId
    ({ n.1 with ptx := { n.1.ptx with purges := Tab.set n.1.ptx.purges n.2 ⟨ctx, inst, nsx, hit.map Prod.fst, 0, old⟩ } }, [])

/-! ## Rebuild (R281, R282) -/

/-- The dies whose rebuild progresses: at most REBMAX (R281). -/
def Flash.rebuilding (f : Flash) : List Nat :=
  (Tab.keysWhere f.dip.dies fun _ r => r.health = .retiring).take (f.dip.regs.fld .dipRebcfg 13 12)

/-- Lost units of a band. -/
def Flash.lostCount (f : Flash) (b : Band) : Nat := (b.set.filter fun x => f.lostUnit x.1 x.2).length

/-- The next band of a die's rebuild: most lost units first, then the higher V (R281). -/
def Flash.nextRebuild (f : Flash) (d : Nat) : Option (Nat × Nat × Band) :=
  let cs := (f.dieRec d).todo.filterMap fun key => (f.bandOf d (key % 4096)).map fun e => (key, e.1, e.2)
  leastBy (fun c : Nat × Nat × Band => (40 - f.lostCount c.2.2) * 2 ^ 40 + (2 ^ 40 - 1 - f.valid c.2.2)) cs

/-- REBUILD_WORK_ISSUE: relocation of a band below REBVAL, otherwise spare promotion of its lost block (R281). The promotion's
reads and programs run as one step of the rebuild; the block joins at SPARE_BLOCK_COMPLETE (log entry 36). -/
def Flash.rebuildIssue (f : Flash) (d : Nat) : Flash :=
  let r := f.dieRec d
  if !(f.rebuilding.contains d) || r.promoting.isSome then f
  else
    match f.nextRebuild d with
    | none => f.setDieRec d { r with todo := r.todo.filter fun key => (f.bandOf d (key % 4096)).isSome }
    | some (key, k, b) =>
      if f.valid b * 100 < f.dip.regs.fld .dipRebcfg 23 16 * b.userFrames then f.force k (refreshDest b.slc)
      else if b.st = .full && !b.forced then
        let used := b.set.map fun x => x.1 / 32
        let ch := f.hw.channels.filter fun c => !used.contains c
        let cs := ch.flatMap fun c => (f.hw.diesOf c).filterMap fun x => if f.inService x then f.pick x b.slc false else none
        match leastBy (fun s => (f.blk s).ecnt) cs with
        | some s => f.setDieRec d { r with promoting := some (key, s) }
        | none => f
      else f

/-- SPARE_BLOCK_COMPLETE: the spare block is wholly programmed, its redirect is written and journalled (R282). -/
def Flash.spareDone (f : Flash) (now d : Nat) : Flash × List Note :=
  let r := f.dieRec d
  match r.promoting with
  | none => (f, [])
  | some (key, s) =>
    let old := f.blk key
    let sb := f.blk s
    let units := (f.hw.desc (s / 4096)).units old.slc
    let g := f.setBlk s { sb with st := .full, slc := old.slc, pool := old.slc, next := units, done := units }
    let g := g.setDieRec d { r with promoting := none, todo := r.todo.filter (· ≠ key) }
    let g : Flash := { g with dip := { g.dip with redirect := Tab.set g.dip.redirect key s }, ptx := g.ptx.log now (.redirect key s) g.ptx.wsn true }
    g.retired d

/-! ## The SLC pool and the Wadi (R254, R257) -/

/-- A free block changes pool: its count is rescaled by the rated cycles (R254), and it is erased again in the mode of its new pool, which its next band
will use (R245). -/
def Flash.movePool (f : Flash) (now key : Nat) (slc : Bool) : Flash :=
  let b := f.blk key
  let e := f.hw.desc (key / 4096)
  if b.pool = slc then f
  else
    let g := f.setBlk key { b with pool := slc, ecnt := b.ecnt * e.rated slc / max 1 (e.rated b.pool) }
    g.updDie (key / 4096) fun d => { d with internal := d.internal ++ [⟨.op (.erase key none slc), now, false⟩] }

/-- Blocks that the SLC pool should hold beyond those in use: 1.25 times what SLC-mode namespaces would fill, and 16 free blocks
per cluster (R254). -/
def Flash.slcTarget (f : Flash) : Nat :=
  let bytes := (f.ptx.nss.map fun e => if e.2.slc then e.2.nsze * e.2.blockBytes else 0).sum
  let per := (f.hw.desc ((f.hw.channels.headD 0) * 32)).wls * 65536
  ceilDiv (ceilDiv (bytes * 38) (32 * max 1 per) * 5) 4 + 16 * f.hw.clusterList.length

/-- Blocks of the SLC pool that no band and no Wadi position holds, erased or still to be erased. -/
def Flash.slcSpare (f : Flash) : Nat :=
  (f.mbe.blks.filter fun e => e.2.pool && (f.blk e.1).st != .bad && (f.bandOf (e.1 / 4096) (e.1 % 4096)).isNone && !f.isWadi e.1 && !f.isSpare e.1).length

/-- Free SLC-pool blocks. -/
def Flash.slcFree (f : Flash) : List Nat := (f.mbe.blks.filter fun e => e.2.pool && f.isFree e.1).map Prod.fst

/-- SLC_POOL_REBALANCE: moves one free block towards the pool's target, lowest ECNT first (R254). -/
def Flash.rebalance (f : Flash) (now : Nat) : Flash :=
  let have' := f.slcSpare
  if have' < f.slcTarget then
    match leastBy (fun k => (f.blk k).ecnt) (f.hw.dies.filterMap fun d => if f.inService d then leastBy (fun k => (f.blk k).ecnt) (f.freeOf d false) else none) with
    | some k => f.movePool now k true
    | none => f
  else if f.slcTarget < have' then
    match leastBy (fun k => (f.blk k).ecnt) f.slcFree with
    | some k => f.movePool now k false
    | none => f
  else f

/-- The block that holds a Wadi position: the one it was exchanged for, else the one the layout gives it (R257). -/
def Flash.wadiAt (f : Flash) (n : Nat) : Option Nat :=
  match Tab.get? f.mbe.wadiSwap n with
  | some k => some k
  | none => (f.hw.dies.flatMap fun d => (List.range (f.hw.desc d).blks).map fun b => blkKey d b).find? fun k => f.hw.wadiPos k == some n

/-- WADI_BAND_EXCHANGE: a Wadi position whose block is worn more than 64 erases above the SLC pool's mean takes the least-worn
free SLC block (R257). `n` is the position. -/
def Flash.wadiExchange (f : Flash) (n : Nat) : Flash :=
  match f.wadiAt n, leastBy (fun k => (f.blk k).ecnt) f.slcFree with
  | some old, some new =>
    if f.meanAll true + 64 < (f.blk old).ecnt ∧ (f.blk new).ecnt < (f.blk old).ecnt then
      let g := (f.setBlk old { f.blk old with pool := true, slc := true }).setBlk new { f.blk new with pool := true, slc := true }
      let h : Flash := { g with mbe := { g.mbe with wadiSwap := Tab.set g.mbe.wadiSwap n new } }
      { h with ptx := { h.ptx with wadiErased := h.wadiCount } }
    else f
  | _, _ => f

end Sys2Proof.Machine
end

