-- ==== Sys2Proof/Machine/Dies.lean ====
section
/-! DEFINITION. Cluster schedulers and channel sequencers: what a die does next (R237, R240, R241, R247 to R249, R301 to R305),
Mirage reads (R276, R277), status, resets and die faults (R258, R279). Times are in 100 ns units. -/

namespace Sys2Proof.Machine

/-! ## Registers of a die's cluster -/

def dieCluster (d : Nat) : Nat := d / 256

def Flash.pholdT (f : Flash) (d : Nat) : Nat := f.mbe.regs.fld (.mbeSchedcfg (dieCluster d)) 15 8 * 100
def Flash.eholdT (f : Flash) (d : Nat) : Nat := f.mbe.regs.fld (.mbeSchedcfg (dieCluster d)) 7 0 * 200
def Flash.nestwaitT (f : Flash) (d : Nat) : Nat := f.mbe.regs.fld (.mbeSchedcfg (dieCluster d)) 27 16 * 100
def Flash.intmaxT (f : Flash) (d : Nat) : Nat := f.mbe.regs.fld (.mbeWmcfg (dieCluster d)) 23 12 * 100
def Flash.marginT (f : Flash) (d : Nat) : Nat := f.mbe.regs.fld (.mbeWmcfg (dieCluster d)) 7 0 * 10

/-- The data rate of a cluster in MT/s (MBE_CLk_CHCFG.RATE). -/
def rateOf (code : Nat) : Nat := [0, 800, 1066, 1200, 1600, 2000, 2400, 2800, 3200, 3600].getD code 0

def Flash.rate (f : Flash) (d : Nat) : Nat := rateOf (f.mbe.regs.fld (.mbeChcfg (dieCluster d)) 27 24)

/-- One frame's transfer, in 100 ns units (R233). -/
def Flash.frameT (f : Flash) (d : Nat) : Rat := if f.rate d = 0 then 0 else (45520 : Rat) / (f.rate d : Nat)

/-- One waymark is earlier than another, modulo 2^32 (R297). -/
def earlier (a b : Nat) : Bool := decide (2 ^ 31 ≤ (a % 2 ^ 32 + 2 ^ 32 - b % 2 ^ 32) % 2 ^ 32)

/-- A frame read comes before another: waymark, then the lower FSN (R297, R299). -/
def Job.before (a b : Job) : Bool :=
  match a.waymark, b.waymark with
  | some x, some y => earlier x y || (x % 2 ^ 32 == y % 2 ^ 32 && fsnUpTo a.fsn b.fsn)
  | some _, none => true
  | _, _ => false

/-- Jobs of a list in waymark order. -/
def Flash.inOrder (f : Flash) (ids : List Nat) : List (Nat × Job) :=
  (ids.filterMap fun i => (Tab.get? f.dip.jobs i).map fun j => (i, j)).foldr (insertBy fun a b => a.2.before b.2) []

/-- The plane of a frame (R261). -/
def planeOf (frame : Nat) : Nat := frame % 16 / 4

/-! ## Refusals (R240, R241) -/

/-- SEQUENCER_REFUSAL: counted, flagged and recorded as a D-class fault (R240). -/
def Flash.refuse (f : Flash) (d block unit : Nat) : Flash × List Note :=
  let regs := (f.mbe.regs.satFld (.mbeSeqstat (d / 32)) 23 16 1).setFld (.mbeSchedstat (dieCluster d)) 14 14 1
  ({ f with mbe := { f.mbe with regs := regs } }, [.report (mkReport 5 3 1 d block unit 0)])

/-- A read of a unit at or above DONE, or of a block that holds nothing readable, is refused (R241). -/
def Flash.readRefused (f : Flash) (j : Job) : Bool :=
  let b := f.blk (blkKey j.die j.block)
  match b.st with
  | .opened => decide (b.done ≤ j.frame / 16)
  | .full => decide (b.done ≤ j.frame / 16)
  | _ => true

/-- A program of a unit is refused unless the unit is erased and next (R240). -/
def Blk.programRefused (b : Blk) (unit : Nat) (slc : Bool) : Bool :=
  (unit == 0 && b.st != .erased) || (unit != 0 && (b.st != .opened || b.next != unit)) || b.slc != slc

/-! ## Issuing work -/

/-- The temperature band of a die (R250). -/
def Flash.bandT (f : Flash) (d : Nat) : Nat := Tab.getD f.mbe.tband (dieCluster d) 0

/-- A block's read is counted; at its limit the band is refreshed (R270). -/
def Flash.countRead (f : Flash) (key : Nat) : Flash :=
  let n := Tab.getD f.dip.rdcnt key 0 + 1
  let g : Flash := { f with dip := { f.dip with rdcnt := Tab.set f.dip.rdcnt key n } }
  let lim := if (f.blk key).slc then f.dip.regs.fld .dipRdlim 31 16 else f.dip.regs.fld .dipRdlim 15 0
  if lim * 1000 ≤ n then g.forceBlock (key / 4096) (key % 4096) else g

/-- Puts a frame read into the array: the order of retries is set at the first read, and the entry of this one is applied (R251 to R253). A refused read goes to DIP as a
failed decode (R241). -/
def Flash.issueRead (f : Flash) (now d id : Nat) : Flash × List Note :=
  match Tab.get? f.dip.jobs id with
  | none => (f, [])
  | some j =>
    if f.readRefused j then
      let r := f.refuse d j.block (j.frame / 16)
      thenDo r fun g =>
        match j.purpose with
        | .helper p x => ((g.tellParent p x false).dropJob id, [])
        | _ => g.goLocal now id j
    else
      let b := f.blk (blkKey j.die j.block)
      let first := j.tries = 0 && j.order.isEmpty && j.stage == .queued
      let order := if first then retryOrder b.slc b.ptb b.ptbx (f.bandT d) (f.hw.desc d).nretry else j.order
      let entry := if first then startEntry b.slc b.ptb (f.bandT d) else j.entry
      let st := if j.stage == .queued then JobStage.running else j.stage
      let g := (f.setJob id { j with order := order, entry := entry, stage := st }).countRead (blkKey j.die j.block)
      (g.updDie d fun x => { x with reads := x.reads ++ [(id, now)], entry := entry, shift := f.softShift j }, [])

/-- The state of a die with reads in the array. -/
def Die.reading (x : Die) : Die :=
  if x.reads.isEmpty then x
  else { x with st := match x.st with
    | .idle => .read
    | .ps => .psRead
    | .es => .esRead
    | s => s }

/-- Up to four reads, at most one per plane; one at a time on a die whose planes do not read independently (R243, R301). -/
def pickPlanes (ipr : Bool) (busy : List Nat) : List (Nat × Job) → List Nat
  | [] => []
  | (i, j) :: rest =>
    let p := planeOf j.frame
    if busy.contains p || (!ipr && !busy.isEmpty) || decide (4 ≤ busy.length) then pickPlanes ipr busy rest
    else i :: pickPlanes ipr (p :: busy) rest

/-- Issues host reads of a die. -/
def Flash.issueHost (f : Flash) (now d : Nat) : Flash × List Note :=
  let x := f.die d
  let busy := x.reads.filterMap fun r => (Tab.get? f.dip.jobs r.1).map fun j => planeOf j.frame
  let ids := pickPlanes (f.hw.desc d).ipr busy (f.inOrder x.host)
  let g := f.updDie d fun x => { x with host := x.host.filter fun i => !ids.contains i }
  let r := forEach g ids fun h i => h.issueRead now d i
  (r.1.updDie d Die.reading, r.2)

/-- Starts a program or an erase on a die; `nested` inside a suspended erase. The block record moves as it is issued (R239). -/
def Flash.issueOp (f : Flash) (now hours d : Nat) (k : OpKind) (nested : Bool) : Flash × List Note :=
  let op : Op := ⟨k, now, 0, 0, 0, 0⟩
  let start := fun (g : Flash) (st : DieSt) => g.updDie d fun x =>
    if nested then { x with st := .esProg, nested := some op, op := x.op.map fun o => { o with nests := o.nests + 1 } }
    else { x with st := st, op := some op }
  match k with
  | .erase key _ slc =>
    if (f.blk key).st = .bad then f.refuse d (key % 4096) 0
    else (start (f.setBlk key { f.blk key with st := .unknown, slc := slc }) .erase, [])
  | .program id =>
    match Tab.get? f.ptx.wls id with
    | none => (f, [])
    | some w =>
      match Tab.get? f.ptx.bands w.band with
      | none => (f, [])
      | some b =>
        let u := (b.set.find? fun x => x.1 == d).getD (d, 0)
        let key := blkKey u.1 u.2
        let step := (f.hw.desc d).step b.slc
        let first := w.wl * step
        let r := f.blk key
        if r.programRefused first b.slc then
          let q := f.refuse d u.2 first
          (q.1.bandFailed now hours w.band, q.2)
        else
          let t := f.bandT d
          let r' : Blk := { r with
            st := .opened, next := first + step
            ptb := if first = 0 then t else r.ptb
            ptbx := if first = 0 then t else max r.ptbx t }
          (start (f.setBlk key r') .prog, [])

/-- Removes the first queued operation that satisfies a test. -/
def takeFirst (q : Queued → Bool) : List Queued → Option (Queued × List Queued)
  | [] => none
  | x :: xs => if q x then some (x, xs) else (takeFirst q xs).map fun r => (r.1, x :: r.2)

/-- The band whose wordline a queued operation programs. -/
def Flash.programs (f : Flash) (q : Queued) : Option Nat :=
  match q.work with
  | .op (.program id) => (Tab.get? f.ptx.wls id).map (·.band)
  | _ => none

/-- The queued operation that goes when the first one that satisfies a test is due: of several programs of a band the one queued first, since a
sequencer refuses units out of order (R240, R244). -/
def Flash.nextInternal (f : Flash) (d : Nat) (q : Queued → Bool) : Option (Queued × List Queued) :=
  match takeFirst q (f.die d).internal with
  | none => none
  | some r =>
    match f.programs r.1 with
    | some k => takeFirst (fun x => f.programs x == some k) (f.die d).internal
    | none => some r

/-- Issues one internal operation that satisfies a test. -/
def Flash.issueInternal (f : Flash) (now hours d : Nat) (q : Queued → Bool) (nested : Bool) : Flash × List Note :=
  match f.nextInternal d q with
  | none => (f, [])
  | some (w, rest) =>
    let g := f.updDie d fun x => { x with internal := rest }
    match w.work with
    | .op k => g.issueOp now hours d k nested
    | .read id =>
      let r := g.issueRead now d id
      (r.1.updDie d Die.reading, r.2)
    | .calibrate => (g, [])

/-! ## Suspension (R248, R249) -/

/-- Typical time of an operation on a die, in 100 ns units. -/
def Flash.typicalT (f : Flash) (d : Nat) (k : OpKind) : Nat :=
  match k with
  | .erase _ _ _ => (f.hw.desc d).tbe * 10
  | .program id =>
    let slc := ((Tab.get? f.ptx.wls id).bind fun w => Tab.get? f.ptx.bands w.band).map fun b => b.slc
    if slc.getD false then (f.hw.desc d).tps * 10 else (f.hw.desc d).tpn * 10

def OpKind.isErase : OpKind → Bool
  | .erase _ _ _ => true
  | .program _ => false

/-- Array time an operation has run. -/
def Op.ranAt (o : Op) (now : Nat) : Nat := o.ran + (now - o.from')

/-- The predicted remainder of an operation: at least a tenth of its typical time (R302). -/
def Flash.remainder (f : Flash) (now d : Nat) (o : Op) (running : Bool) : Nat :=
  let typ := f.typicalT d o.kind
  let ran := if running then o.ranAt now else o.ran
  max (typ / 10) (typ + (f.hw.desc d).tresume * 10 * o.resumes - ran)

/-- The suspend time the scheduler predicts: the descriptor's maximum (R248). -/
def Flash.suspT (f : Flash) (d : Nat) (k : OpKind) : Nat := (if k.isErase then (f.hw.desc d).tsuspe else (f.hw.desc d).tsuspp) * 10

/-- The scheduler may suspend the running operation of a die (R248). -/
def Flash.maySuspend (f : Flash) (now d : Nat) : Bool :=
  let x := f.die d
  let e := f.hw.desc d
  match x.op with
  | none => false
  | some o =>
    let er := o.kind.isErase
    let k := dieCluster d
    (x.st = .prog || x.st = .erase) && !x.suspending
      && (if er then f.mbe.regs.bit (.mbeSchedcfg k) 29 && e.flags.testBit 1 else f.mbe.regs.bit (.mbeSchedcfg k) 30 && e.flags.testBit 0)
      && decide ((if er then e.tminrune else e.tminrunp) * 10 ≤ now - o.from')
      && decide (o.suspends < (if er then e.nsuspe else e.nsuspp))
      && decide (f.suspT d o.kind + e.tresume * 10 < f.remainder now d o true)

/-- SUSPEND_ISSUE: the suspend command goes to the die (R248). -/
def Flash.suspend (f : Flash) (now d : Nat) : Flash := f.updDie d fun x => { x with suspending := true, suspAt := now }

/-- The hold of a suspension has expired (R248). -/
def Flash.holdPast (f : Flash) (now d : Nat) : Bool :=
  let x := f.die d
  x.holdOver || decide (x.holdEnd ≤ now)

/-- A queued program that may nest in the suspended erase (R249). -/
def Flash.nestable (f : Flash) (now d : Nat) (q : Queued) : Bool :=
  match q.work with
  | .op (.program id) => (q.urgent || decide (q.since + f.nestwaitT d ≤ now)) && Tab.has f.ptx.wls id
  | _ => false

/-- A queued program may nest in the erase of a die: NESTEN, the descriptor allows it, NESTMAX is not reached (R249). -/
def Flash.nestOpen (f : Flash) (now d : Nat) : Bool :=
  let x := f.die d
  f.mbe.regs.bit (.mbeSchedcfg (dieCluster d)) 28 && (f.hw.desc d).flags.testBit 2
    && (match x.op with
        | some o => decide (o.nests < (f.hw.desc d).nestmax)
        | none => false)
    && x.internal.any (f.nestable now d)

/-- A program may nest now: the hold of the suspension has not expired either (R248, R249). -/
def Flash.mayNest (f : Flash) (now d : Nat) : Bool := f.nestOpen now d && !f.holdPast now d

/-- Resumes the suspended operation (R247). -/
def Flash.resume (f : Flash) (now d : Nat) : Flash :=
  f.updDie d fun x =>
    match x.op with
    | some o => { x with st := if o.kind.isErase then .erase else .prog, op := some { o with from' := now, resumes := o.resumes + 1 }, holdOver := false }
    | none => { x with st := .idle, holdOver := false }

/-! ## Predictions and decisions (R302 to R305) -/

/-- tR of a frame read, in 100 ns units. -/
def Flash.readT (f : Flash) (j : Job) : Nat :=
  if (f.blk (blkKey j.die j.block)).slc then (f.hw.desc j.die).trs else (f.hw.desc j.die).trn

/-- The predicted end of what runs on a die. -/
def Flash.opEnd (f : Flash) (now d : Nat) : Nat :=
  let x := f.die d
  match x.st with
  | .prog => (x.op.map fun o => now + f.remainder now d o true).getD now
  | .erase => (x.op.map fun o => now + f.remainder now d o true).getD now
  | .esProg => (x.nested.map fun o => now + f.remainder now d o true).getD now
  | _ => now

/-- The predicted start of a read on its die, the die left as it is (R302). -/
def Flash.startOf (f : Flash) (now : Nat) (id : Nat) (j : Job) : Nat :=
  let x := f.die j.die
  let p := planeOf j.frame
  let run := x.reads.filterMap fun r => (Tab.get? f.dip.jobs r.1).bind fun q => if planeOf q.frame == p then some (r.2 + f.readT q) else none
  let free := run.foldl max now
  let ahead := ((f.inOrder x.host).filter fun q => q.1 != id && planeOf q.2.frame == p && q.2.before j).length
  max free (f.opEnd now j.die) + ahead * f.readT j

/-- The predicted completion of a read that starts at `s` (R302). -/
def Flash.completion (f : Flash) (s : Nat) (j : Job) : Rat := (s : Nat) + (f.readT j : Nat) + 7 / 5 + f.frameT j.die + 20

/-- The target of a read: its waymark less the margin (R303). -/
def Flash.target (f : Flash) (j : Job) : Int := (j.waymark.getD 0 : Nat) - (f.marginT j.die : Nat)

/-- A helper die's published state makes a Mirage read possible (R276, R305). -/
def Flash.helperOk (f : Flash) (now d : Nat) : Bool :=
  match ((Tab.get? f.dip.published d).map Prod.fst).getD .idle with
  | .idle => true
  | .read => true
  | .ps => !f.holdPast now d
  | .psRead => !f.holdPast now d
  | .es => !f.holdPast now d
  | .esRead => !f.holdPast now d
  | .prog => f.maySuspend now d
  | .erase => f.maySuspend now d
  | _ => false

/-- The predicted start of a helper read. -/
def Flash.helperStart (f : Flash) (now d : Nat) : Nat :=
  match ((Tab.get? f.dip.published d).map Prod.fst).getD .idle with
  | .prog => now + 5 + f.suspT d (.program 0)
  | .erase => now + 5 + f.suspT d (.erase 0 none false)
  | _ => max (now + 5) (((Tab.get? f.dip.published d).map Prod.snd).getD 0)

/-- Tokens of a Mirage read: eight times the typical tR in plane-µs (R277). -/
def Flash.mirageCost (f : Flash) (j : Job) : Nat := 8 * f.readT j / 10

/-- The helper dies of a frame read. -/
def Flash.mirageHelpers (f : Flash) (j : Job) : Option (Band × Nat × List Nat × List Nat) :=
  (f.roleOf j.loc).bind fun x =>
    if x.2.2.2 < 36 then
      let rs := localHelpers x.2.2.2
      some (x.2.1, x.2.2.1, rs, rs.map fun r => (f.physical (x.2.1.unitOf x.2.2.1 r).1 (x.2.1.unitOf x.2.2.1 r).2).1)
    else none

/-- Eligibility of R276 but for the tokens. `recovering`: dies in a scope that recovers. -/
def Flash.eligible (f : Flash) (now : Nat) (recovering : Nat → Bool) (j : Job) : Bool :=
  f.dip.regs.bit .dipMircfg 31 && !j.noMirage && j.waymark.isSome && f.inService j.die
    && match f.mirageHelpers j with
      | none => false
      | some (b, s, rs, ds) =>
        rs.all (fun r => !f.lostUnit (b.unitOf s r).1 (b.unitOf s r).2) && ds.all (fun d => f.helperOk now d && !recovering d)

/-- The predicted completion of a Mirage read (R302). -/
def Flash.mirageC (f : Flash) (now : Nat) (j : Job) : Rat :=
  let s := match f.mirageHelpers j with
    | some (_, _, _, ds) => (ds.map (f.helperStart now)).foldl max now
    | none => now
  (s : Nat) + (f.readT j : Nat) + 7 / 5 + f.frameT j.die + 30

/-- What the scheduler decides for a read (R303). -/
inductive Choice where
  | wait | suspend | mirage
  deriving DecidableEq, Repr

/-- READ_DECISION: rules 1 to 4 of R303. -/
def Flash.decideRead (f : Flash) (now : Nat) (recovering : Nat → Bool) (id : Nat) (j : Job) : Choice :=
  let t : Rat := (f.target j : Int)
  let x := f.die j.die
  let w := f.completion (f.startOf now id j) j
  let joined := (x.st = .ps || x.st = .es || x.st = .psRead || x.st = .esRead || x.suspending) && !f.holdPast now j.die
  let sus : Option Rat :=
    if joined then some (f.completion now j)
    else match x.op with
      | some o => if f.maySuspend now j.die then some (f.completion (now + f.suspT j.die o.kind) j) else none
      | none => none
  let mir : Option Rat := if f.eligible now recovering j && decide (f.mirageCost j ≤ f.dip.tokens) then some (f.mirageC now j) else none
  if w ≤ t then .wait
  else
    match sus, mir with
    | some c, some m => if c ≤ t then .suspend else if m ≤ t then .mirage else if w ≤ c ∧ w ≤ m then .wait else if c ≤ m then .suspend else .mirage
    | some c, none => if c ≤ t then .suspend else if w ≤ c then .wait else .suspend
    | none, some m => if m ≤ t then .mirage else if w ≤ m then .wait else .mirage
    | none, none => .wait

/-- MIRAGE_READ_GRANT: the budget is drawn and eight helper reads are queued with the command's waymark (R276, R277). -/
def Flash.grantMirage (f : Flash) (now id : Nat) (j : Job) : Flash :=
  match f.mirageHelpers j with
  | none => f
  | some (b, s, rs, _) =>
    let g := f.updDie j.die fun x => { x with host := x.host.filter (· ≠ id) }
    let g : Flash := { g with dip := { g.dip with tokens := g.dip.tokens - g.mirageCost j } }
    g.askHelpers now id { j with helpers := [] } b s rs .mirage

/-- Decides the host reads that wait behind a die's running operation, earliest first (R303, R304). -/
def Flash.decideAll (f : Flash) (now d : Nat) (recovering : Nat → Bool) : Flash :=
  (f.inOrder (f.die d).host).foldl (fun (g : Flash) e =>
    match Tab.get? g.dip.jobs e.1 with
    | none => g
    | some j =>
      let short := g.eligible now recovering j && decide (g.dip.tokens < g.mirageCost j) && !decide (g.completion (g.startOf now e.1 j) j ≤ (g.target j : Int))
      let g : Flash := if short then { g with dip := { g.dip with mirdeny := g.dip.mirdeny + 1, regs := g.dip.regs.setFld .dipMirstat 31 31 1 } } else g
      match g.decideRead now recovering e.1 j with
      | .wait => g
      | .suspend => if g.maySuspend now d then g.suspend now d else g
      | .mirage => g.grantMirage now e.1 j) f

/-- Reads that wait at a die whose scope recovers: each is served by a Mirage read where its local group allows and the budget has room, else
it waits (R30, R276, R277). -/
def Flash.mirageWaiting (f : Flash) (now d : Nat) (recovering : Nat → Bool) : Flash :=
  (f.inOrder (f.die d).host).foldl (fun (g : Flash) e =>
    match Tab.get? g.dip.jobs e.1 with
    | none => g
    | some j =>
      if !g.eligible now recovering j then g
      else if g.mirageCost j ≤ g.dip.tokens then g.grantMirage now e.1 j
      else { g with dip := { g.dip with mirdeny := g.dip.mirdeny + 1, regs := g.dip.regs.setFld .dipMirstat 31 31 1 } }) f

/-! ## DIE_WORK_SELECT (R301) -/

/-- A die holds work that must go first: urgent, or it has waited INTMAX (R301). -/
def Flash.dueFirst (f : Flash) (now d : Nat) (q : Queued) : Bool := q.urgent || decide (q.since + f.intmaxT d ≤ now)

/-- With nothing else to do, a die erases its next block that has not been erased since the start, in the mode of its pool (R242, R254). -/
def Flash.firstErase (f : Flash) (now hours d : Nat) : Flash × List Note :=
  match f.nextErase d with
  | some key => f.issueOp now hours d (.erase key none (f.blk key).pool) false
  | none => (f, [])

/-- The next erase of a die is a Wadi block's, which is urgent (R301). -/
def Flash.wadiNext (f : Flash) (d : Nat) : Bool :=
  match f.nextErase d with
  | some key => f.isWadi key
  | none => false

/-- Host reads are issued, and those that still wait behind them are decided (R301, R303). -/
def Flash.readOn (f : Flash) (now d : Nat) (recovering : Nat → Bool) : Flash × List Note :=
  thenDo (f.issueHost now d) fun g => (g.decideAll now d recovering, [])

/-- The choice of R301 and, on a busy die, the decisions of R303. -/
def Flash.selectWork (f : Flash) (now hours d : Nat) (recovering : Nat → Bool) : Flash × List Note :=
  let x := f.die d
  match x.st with
  | .idle =>
    if x.internal.any (f.dueFirst now d) then f.issueInternal now hours d (f.dueFirst now d) false
    else if f.wadiNext d then f.firstErase now hours d
    else if !x.host.isEmpty then f.readOn now d recovering
    else if x.internal.isEmpty then f.firstErase now hours d
    else f.issueInternal now hours d (fun _ => true) false
  | .read => if !x.host.isEmpty && !(x.internal.any (f.dueFirst now d)) then f.readOn now d recovering else (f.decideAll now d recovering, [])
  | .ps =>
    if !x.host.isEmpty && !f.holdPast now d then f.readOn now d recovering
    else (f.resume now d, [])
  | .es =>
    if !x.host.isEmpty && !f.holdPast now d then f.readOn now d recovering
    else if f.mayNest now d then f.issueInternal now hours d (f.nestable now d) true
    else (f.resume now d, [])
  | .psRead => if !x.host.isEmpty && !f.holdPast now d then f.readOn now d recovering else (f.decideAll now d recovering, [])
  | .esRead => if !x.host.isEmpty && !f.holdPast now d then f.readOn now d recovering else (f.decideAll now d recovering, [])
  | .prog => (f.decideAll now d recovering, [])
  | .erase => if f.maySuspend now d && f.nestOpen now d then (f.suspend now d, []) else (f.decideAll now d recovering, [])
  | .esProg => (f.decideAll now d recovering, [])
  | .reset => (f, [])
  -- a program requested of a die out of service is refused (R240)
  | .out => f.issueInternal now hours d (fun q => (f.programs q).isSome) false

/-! ## What a die reports -/

/-- DIE_SUSPENDED: suspended status; the watchdog count pauses (R29, R247). -/
def Flash.suspended (f : Flash) (now d : Nat) : Flash :=
  f.updDie d fun x =>
    match x.suspending, x.op with
    | true, some o =>
      { x with
        suspending := false, holdEnd := now + (if o.kind.isErase then f.eholdT d else f.pholdT d), holdOver := false
        st := if o.kind.isErase then .es else .ps
        op := some { o with ran := o.ranAt now, suspends := o.suspends + 1 } }
    | _, _ => x

/-- A die whose reads have all ended. -/
def Die.readsDone (x : Die) : Die :=
  if x.reads.isEmpty then
    { x with st := match x.st with
      | .read => .idle
      | .psRead => .ps
      | .esRead => .es
      | s => s }
  else x

/-- DIE_READ_DONE: the array time of a read ends; its frame waits for the bus (R243). -/
def Flash.readDone (f : Flash) (d id : Nat) : Flash :=
  let x := f.die d
  if x.reads.any (fun r => r.1 == id) then
    let g := f.updDie d fun x => ({ x with reads := x.reads.filter fun r => r.1 != id }).readsDone
    match Tab.get? g.dip.jobs id with
    | some j => if j.stage == .running then g.setJob id { j with stage := .transfer } else g
    | none => g
  else f

/-- A frame of a channel that waits for its transfer: a soft read keeps its step. -/
def Flash.transferring (f : Flash) (ch : Nat) : List (Nat × Job) :=
  let onDie := fun (i : Nat) (j : Job) => (f.die j.die).reads.any (fun r => r.1 == i) || (f.die j.die).host.contains i
    || (f.die j.die).internal.any fun q => q.work == .read i
  f.inOrder ((f.dip.jobs.filter fun e => e.2.die / 32 == ch &&
    (e.2.stage == .transfer || ((e.2.stage == .soft2 || e.2.stage == .soft3) && decide (0 < e.2.readsLeft) && !onDie e.1 e.2))).map Prod.fst)

/-- FRAME_TRANSFER_DONE: the last byte is in staging; the earliest waymark goes first (R237). A soft step reads on until it has
all its samples (R268). -/
def Flash.transferDone (f : Flash) (now ch : Nat) : Flash :=
  match f.transferring ch with
  | [] => f
  | (id, j) :: _ =>
    if j.stage == .transfer then f.setJob id { j with stage := .staged, readsLeft := 0 }
    else
      let left := j.readsLeft - 1
      if left = 0 then f.setJob id { j with readsLeft := 0 }
      else
        let g := f.queueRead now id j
        g.setJob id { j with readsLeft := left }

/-- WORDLINE_PROGRAM_STATUS: a program reports status (R239, R244, R246). -/
def Flash.programStatus (f : Flash) (now hours d : Nat) (pass : Bool) : Flash × List Note :=
  let x := f.die d
  let cur : Option (Op × Bool) := match x.st with
    | .prog => x.op.map fun o => (o, false)
    | .esProg => x.nested.map fun o => (o, true)
    | _ => none
  match cur with
  | none => (f, [])
  | some (o, nested) =>
    let g := f.setDie d (if nested then { x with st := .es, nested := none } else { x with st := .idle, op := none, suspending := false })
    match o.kind with
    | .erase _ _ _ => (f, [])
    | .program id =>
      match Tab.get? g.ptx.wls id with
      | none => (g, [])
      | some w =>
        match Tab.get? g.ptx.bands w.band with
        | none => (g, [])
        | some b =>
          let u := (b.set.find? fun y => y.1 == d).getD (d, 0)
          let key := blkKey u.1 u.2
          if pass then
            let r := g.blk key
            let step := (g.hw.desc d).step b.slc
            let done := w.wl * step + step
            let r' : Blk := { r with done := done, st := if (g.hw.desc d).units b.slc ≤ done then .full else r.st }
            (g.setBlk key r').programPassed now hours id d
          else g.programFailed now hours id d

/-- ERASE_STATUS on a die (R245). -/
def Flash.eraseDone (f : Flash) (now hours d : Nat) (pass : Bool) : Flash × List Note :=
  let x := f.die d
  match x.st, x.op with
  | .erase, some ⟨.erase key band slc, _, _, _, _, _⟩ =>
    let g := f.setDie d { x with st := .idle, op := none, suspending := false }
    g.eraseStatus now hours key band slc pass
  | _, _ => (f, [])

/-- SUSPEND_HOLD_EXPIRY: no new work starts; the operation resumes once running work has ended; reads still queued set HOLDEV and
are decided again (R248, R304, R316). -/
def Flash.holdExpired (f : Flash) (now d : Nat) (recovering : Nat → Bool) : Flash :=
  let x := f.die d
  let sus := x.st = .ps || x.st = .es || x.st = .psRead || x.st = .esRead || x.st = .esProg
  if !sus then f
  else
    let g := f.updDie d fun x => { x with holdOver := true }
    let g : Flash := if x.host.isEmpty then g else { g with mbe := { g.mbe with regs := g.mbe.regs.setFld (.mbeSchedstat (dieCluster d)) 15 15 1 } }
    (if x.st = .ps || x.st = .es then g.resume now d else g).decideAll now d recovering

/-- NESTWAIT_EXPIRY: the erase is suspended as soon as R248 allows it (R249). -/
def Flash.nestExpired (f : Flash) (now hours d : Nat) : Flash × List Note :=
  let x := f.die d
  match x.st with
  | .erase => (if f.maySuspend now d && f.nestOpen now d then f.suspend now d else f, [])
  | .es => if f.mayNest now d then f.issueInternal now hours d (f.nestable now d) true else (f, [])
  | _ => (f, [])

/-- A die that runs something, behind which host reads wait and are decided (R303). -/
def DieSt.busy : DieSt → Bool
  | .prog => true | .erase => true | .esProg => true | .read => true | .psRead => true | .esRead => true | _ => false

/-- DIE_STATE_PUBLISH: a cluster scheduler publishes every die's state and predicted free time (R305). Reads elsewhere that could use a helper which
has become eligible are decided again (R304). -/
def Flash.publish (f : Flash) (now k : Nat) (recovering : Nat → Bool) : Flash :=
  let ds := f.mbe.dies.filter fun e => dieCluster e.1 == k
  let pub := ds.foldl (fun t e => Tab.set t e.1 (e.2.st, f.opEnd now e.1)) f.dip.published
  let g : Flash := { f with dip := { f.dip with published := pub } }
  let fresh := (ds.map Prod.fst).filter fun d => g.helperOk now d && !f.helperOk now d
  let waits := g.mbe.dies.filter fun e => e.2.st.busy && e.2.host.any fun i => ((Tab.get? g.dip.jobs i).bind g.mirageHelpers).elim false
    fun m => m.2.2.2.any fresh.contains
  waits.foldl (fun (h : Flash) e => h.decideAll now e.1 recovering) g

/-- TYPICAL_TIME_PASSED: waiting reads are decided again, also where a read ahead of them is late (R304). -/
def Flash.typicalPassed (f : Flash) (now d : Nat) (recovering : Nat → Bool) : Flash :=
  if (f.die d).st.busy then f.decideAll now d recovering else f

/-- A Mirage read of a cluster whose recovery starts is abandoned: its helper reads are dropped, and the frame waits for its own die (R278, R316). -/
def Flash.abandonMirage (f : Flash) (now id : Nat) (j : Job) : Flash :=
  let mine := Tab.keysWhere f.dip.jobs fun _ x => match x.purpose with
    | .helper p _ => p == id
    | _ => false
  let dies := Tab.mapVals f.mbe.dies fun _ x => { x with host := x.host.filter fun i => !mine.contains i }
  let g : Flash := { f with mbe := { f.mbe with dies := dies }, dip := { f.dip with jobs := Tab.keep f.dip.jobs fun i _ => !mine.contains i } }
  g.queueRead now id { j with noMirage := true, helpers := [], wanted := [] }

/-- Every Mirage read that a cluster takes part in (R316). -/
def Flash.abandonMirages (f : Flash) (now k : Nat) : Flash :=
  (f.dip.jobs.filter fun e => e.2.stage == .mirage && (dieCluster e.2.die == k ||
      (f.mirageHelpers e.2).elim false fun m => m.2.2.2.any fun d => dieCluster d == k)).foldl
    (fun (g : Flash) e => g.abandonMirage now e.1 e.2) f

/-! ## Resets and recovery of dies (R30, R247, R259) -/

/-- A die of a recovering scope: an operation outstanding is reset; its reads are reissued, its program is placed again, its erase
is issued again (R30, R259). -/
def Flash.resetDie (f : Flash) (now hours d : Nat) : Flash :=
  let x := f.die d
  let busy := x.op.isSome || x.nested.isSome || !x.reads.isEmpty
  if !busy || x.st = .out then f
  else
    let progs := [x.op, x.nested].filterMap fun o => match o with
      | some ⟨.program id, _, _, _, _, _⟩ => some id
      | _ => none
    let erase := match x.op with
      | some ⟨.erase k b s, _, _, _, _, _⟩ => [Queued.mk (.op (.erase k b s)) now false]
      | _ => []
    let back := (x.reads.map Prod.fst).filter fun i => Tab.has f.dip.jobs i
    let hostBack := back.filter fun i => ((Tab.get? f.dip.jobs i).map fun j => j.waymark.isSome).getD false
    let intBack := back.filter fun i => !(((Tab.get? f.dip.jobs i).map fun j => j.waymark.isSome).getD false)
    let x' : Die :=
      { x with
        st := .reset, op := none, nested := none, reads := [], suspending := false, holdOver := false, resetAt := now
        host := hostBack ++ x.host
        internal := erase ++ intBack.map (fun i => Queued.mk (.read i) now false) ++ x.internal }
    let g := f.setDie d x'
    let g := back.foldl (fun (g : Flash) i => match Tab.get? g.dip.jobs i with
      | some j => g.setJob i { j with stage := if j.stage == .running then .queued else j.stage }
      | none => g) g
    progs.foldl (fun (g : Flash) id => match Tab.get? g.ptx.wls id with
      | some w => g.closeShort now hours w.band
      | none => g) g

/-- Dies of a channel, and of a cluster. -/
def Flash.channelReset (f : Flash) (now hours ch : Nat) : Flash := (f.hw.diesOf ch).foldl (fun g d => g.resetDie now hours d) f

/-- Sets SEQSTAT.STATE of channels. -/
def Flash.setCh (f : Flash) (chs : List Nat) (v : Nat) : Flash :=
  { f with mbe := { f.mbe with chSt := chs.foldl (fun t c => if f.hw.hasChannel c then Tab.set t c v else t) f.mbe.chSt } }

def clusterChannels (k : Nat) : List Nat := (List.range 8).map (· + 8 * k)

/-- DIE_RESET_COMPLETE (R247, R279): two failed resets in a recovery retire the die. -/
def Flash.resetDone (f : Flash) (now hours d : Nat) (ok : Bool) : Flash × List Note :=
  let x := f.die d
  if x.st = .reset then
    if ok then (f.setDie d { x with st := .idle, resets := 0 }, [])
    else if 1 ≤ x.resets then f.dieOut now hours d 3 false
    else (f.setDie d { x with resets := x.resets + 1, resetAt := now }, [])
  else (f, [])

/-- Ends the bring-up, or a unit or cluster recovery, of channels: they run, unless the cluster's RATE is 0 (R236); dies still in reset return to IDLE
(R30). -/
def Flash.channelsBack (f : Flash) (chs : List Nat) : Flash :=
  let still := fun ch => f.mbe.regs.fld (.mbeChcfg (ch / 8)) 27 24 == 0
  let g := (f.setCh (chs.filter fun ch => !still ch) 2).setCh (chs.filter still) 1
  (chs.flatMap f.hw.diesOf).foldl (fun (g : Flash) d =>
    let x := g.die d
    if x.st = .reset then g.setDie d { x with st := .idle, resets := 0 } else g) g

/-- A watchdog expiry on a die is counted; three within 60 s make it SUSPECT, and a SUSPECT die within 24 h is RETIRING (R258,
R279). -/
def Flash.dieExpiry (f : Flash) (now hours d : Nat) : Flash × List Note :=
  let r := f.dieRec d
  let regs := f.mbe.regs.satFld (.mbeSeqstat (d / 32)) 15 8 1
  let f : Flash := { f with mbe := { f.mbe with regs := regs } }
  let ex := now :: r.expiries.filter fun t => decide (now < t + 600000000)
  match r.health with
  | .inService =>
    if 3 ≤ ex.length then (f.setDieRec d { r with health := .suspect, suspectAt := now, expiries := ex }, [])
    else (f.setDieRec d { r with expiries := ex }, [])
  | .suspect => f.dieOut now hours d 0 false
  | _ => (f, [])

/-- DIE_SUSPECT_CLEAR: 24 h without an expiry returns a SUSPECT die to service (R279). -/
def Flash.suspectClear (f : Flash) (now d : Nat) : Flash :=
  let r := f.dieRec d
  if r.health = .suspect && decide (r.suspectAt + dayT ≤ now) then f.setDieRec d { r with health := .inService, expiries := [] } else f

/-- WP_N of a channel: high once its bring-up is done (R236). -/
def Flash.wpN (f : Flash) (ch : Nat) : Bool := decide (2 ≤ Tab.getD f.mbe.chSt ch 0)

/-- Every CE of a cluster has calibration or training queued at class B, on its first die in service (R236). -/
def Flash.calibrate (f : Flash) (now k : Nat) : Flash :=
  (((clusterChannels k).flatMap f.hw.diesOf).filter fun d => f.inService d && !(List.range (d % 4)).any fun i => f.inService (d / 4 * 4 + i)).foldl
    (fun (g : Flash) d => g.updDie d fun x => { x with internal := x.internal ++ [⟨.calibrate, now, false⟩] }) f

/-- The safe state: array operations already running finish, none is issued, nothing suspended is resumed (R259, R445). -/
def Flash.enterSafe (f : Flash) : Flash := f.setCh (List.range 64) 5

/-! ## The Mirage bucket (R277) and registers -/

/-- MIRAGE_BUDGET_REFILL: B plane-µs per epoch, capped at 10 × B. -/
def Flash.refillMirage (f : Flash) : Flash :=
  let n := (f.hw.dies.filter f.inService).length
  let b := f.dip.regs.fld .dipMircfg 7 0 * n * 4
  { f with dip := { f.dip with tokens := min (10 * b) (f.dip.tokens + b) } }

/-- BUSY of SEQSTAT: dies with an array operation running or suspended. -/
def Flash.busyDies (f : Flash) (ch : Nat) : Nat :=
  (f.mbe.dies.filter fun e => e.1 / 32 == ch && (e.2.op.isSome || !e.2.reads.isEmpty)).length

def Flash.viewMbe (f : Flash) (r : Reg) : W32 :=
  let w := f.mbe.regs.get r
  match r with
  | .mbeSeqstat n => (w.setBits 31 28 (Tab.getD f.mbe.chSt n 0)).setBits 5 0 (f.busyDies n)
  | .mbeSchedstat k =>
    w.setBits 7 0 (((List.range 8).map fun j =>
      if f.dip.dies.any (fun e => e.1 / 32 == 8 * k + j && e.2.health == .suspect) then 2 ^ j else 0).sum)
  | _ => w

def Flash.viewDip (f : Flash) (r : Reg) : W32 :=
  let w := f.dip.regs.get r
  match r with
  | .dipMirstat => w.setBits 23 0 (min 16777215 f.dip.tokens)
  | .dipStat =>
    ((w.setBits 29 28 f.rebuilding.length).setBits 27 16 (Tab.keysWhere f.dip.dies fun _ x => x.health = .retiring).length).setBits 11 0
      (Tab.keysWhere f.dip.dies fun _ x => x.health = .retired).length
  | _ => w

/-- Registers of PTX as they read. -/
def Flash.viewPtx (f : Flash) (r : Reg) (mapTotal mapFree pool wp : Nat) : W32 :=
  let w := f.ptx.regs.get r
  match r with
  | .ptxOasisstat =>
    (((w.setBits 31 31 (b2n f.ptx.unp)).setBits 29 27 f.ptx.reason).setBits 25 13 (ceilDiv f.dirty 1048576)).setBits 12 0 (ceilDiv f.drainPend 1048576)
  | .ptxMapstat => (w.setBits 31 16 (mapTotal / 67108864)).setBits 15 0 (mapFree / 67108864)
  | .ptxBarstat => ((w.setBits 31 31 (b2n f.ptx.fdp)).setBits 28 16 pool).setBits 15 0 (wp - 1)
  | .ptxRclstat =>
    ((((w.setBits 31 29 f.ptx.cap).setBits 27 24 (min 15 (f.ptx.bands.filter fun e => e.2.st = .victim).length)).setBits 23 16
      ((f.hw.clusterList.map fun k => if f.reserveLow k then 2 ^ k else 0).sum)).setBits 15 0 (min 65535 f.fbe))
  | .ptxCkptstat =>
    ((w.setBits 31 31 (b2n f.ptx.ckptRun.isSome)).setBits 29 29 (b2n (f.ptx.ckptRun.isSome && decide (2 * (f.ptx.regs.fld .ptxCkptcfg 4 0 * gib) ≤ f.ptx.jbytes)))).setBits 19 0
      (f.ptx.jbytes / 1048576)
  | .ptxWadistat => ((w.setBits 31 31 (b2n f.wadiReady)).setBits 30 30 (b2n f.ptx.dump.isSome)).setBits 15 0 (f.ptx.wadiErased / 67108864)
  | _ => w

end Sys2Proof.Machine
end

