-- ==== Sys2Proof/Machine/Spaces.lean ====
section
/-! DEFINITION. Namespaces, barchans and zones (R162 to R190, R255): creation costs and checks, the barchan of a write, zone
checks and transitions. -/

namespace Sys2Proof.Machine

/-! ## Capacity, map cost, barchans and write pointers (R162, R168, R170, R172) -/

def roundUp (x u : Nat) : Nat := ceilDiv x u * u

/-- Capacity a namespace takes from the endurance group (R162, R255). -/
def Ns.capacity (n : Ns) (nsze : Nat) : Nat := roundUp (nsze * n.blockBytes) gib * (if n.slc then 4 else 1)

/-- Map cost (R168). -/
def Ns.mapCost (n : Ns) (nsze : Nat) : Nat := roundUp (ceilDiv (nsze * n.blockBytes) (n.iu * 4096) * 5) 1048576

def Flash.usedCap (f : Flash) : Nat := (f.ptx.nss.map fun e => e.2.capacity e.2.nsze).sum + (f.ptx.growths.map fun e => e.2.1).sum
def Flash.unvmcap (f : Flash) : Nat := f.hw.offered - f.usedCap
def Flash.usedMap (f : Flash) : Nat := (f.ptx.nss.map fun e => e.2.mapCost e.2.nsze).sum + (f.ptx.growths.map fun e => e.2.2).sum

/-- Reserves capacity and map cost for a context; none where either is short (R188). -/
def Flash.reserve (f : Flash) (mapRegion c cap map : Nat) : Option Flash :=
  if f.unvmcap < cap || mapRegion - f.usedMap < map then none
  else if cap + map = 0 then some f
  else some { f with ptx := { f.ptx with growths := Tab.set f.ptx.growths c (cap, map) } }

/-- A context's reservation is given up. -/
def Flash.release (f : Flash) (c : Nat) : Flash := { f with ptx := { f.ptx with growths := Tab.erase f.ptx.growths c } }

/-- The size is one that the namespace can have (R187). -/
def Ns.sizeOk (n : Ns) (size : Nat) : Bool := size != 0 && size % (if n.zoned then n.zsze else n.perIu) == 0

/-- Pool barchans that exist, and those reserved (R170, R172). -/
def Ptx.poolSize (p : Ptx) : Nat := 3039 + (if p.fdp then 0 else 1024)
def Ptx.poolUsed (p : Ptx) : Nat := (p.nss.map fun e => if e.2.zoned then e.2.zopen else b2n e.2.stream.isSome).sum
def Ptx.wpUsed (p : Ptx) : Nat := (p.nss.map fun e => if e.2.zoned then e.2.zactive else 0).sum

/-- Barchans of the pool that a zone or a namespace owns, and those that still have data to place besides. -/
def Ptx.poolOwned (p : Ptx) (b : Nat) : Bool := p.nss.any fun e => e.2.stream == some b || e.2.zones.any fun z => z.2.barchan == some b
def Ptx.poolHeld (p : Ptx) (b : Nat) : Bool :=
  p.poolOwned b || Tab.has p.filling b || p.slots.any fun s => s.2.barchan == b && s.2.stage != .superseded

/-- A pool barchan for a zone or a stream: the lowest that nothing holds, or else the lowest that no zone and no namespace owns. There is one for every
reservation (R172). -/
def Ptx.freeBarchan (p : Ptx) : Option Nat :=
  let top := if p.fdp then 3072 else 4096
  let pool := (List.range (min (top - 33) (p.nss.length * 1025 + p.slots.length + p.filling.length + 64))).map (· + 33)
  match pool.find? fun b => !p.poolHeld b with
  | some b => some b
  | none => pool.find? fun b => !p.poolOwned b

/-- Vendor fields and the rest of a Create (R166, R167). -/
structure NsReq where
  nsze : Nat
  ncap : Nat
  lbaf : Nat
  pit : Nat
  extended : Bool
  piFirst : Bool
  zoned : Bool
  shared : Bool
  iusel : Nat
  sflags : Nat
  zsze : Nat
  zactive : Nat
  zopen : Nat
  handles : List Nat
  deriving DecidableEq, Repr

/-- The namespace a Create asks for; zone fields of 0 take their defaults (R166). -/
def NsReq.toNs (q : NsReq) : Ns :=
  let data := if q.lbaf = 0 then 512 else 4096
  { nsze := q.nsze, lbaf := q.lbaf, pit := q.pit, extended := q.extended, piFirst := q.piFirst, zoned := q.zoned
    iu := if q.iusel = 0 then 1 else if q.iusel = 1 then 4 else 16
    sflags := q.sflags % 2
    zsze := if q.zoned then (if q.zsze = 0 then 4 * gib / data else q.zsze) else 0
    zactive := if q.zoned then (if q.zactive = 0 then 256 else q.zactive) else 0
    zopen := if q.zoned then (if q.zopen = 0 then 16 else q.zopen) else 0
    stream := none, handles := q.handles, shared := q.shared, attached := [], slc := false, zones := [], nguid := 0, eui := 0
    dulbe := false, tler := 0, kpio := none }

/-- A power of two. -/
def isPow2 (n : Nat) : Bool := (List.range 64).any fun i => n == 2 ^ i

/-- The vendor fields are in range (R166). Reserved bits and bytes, and the fields of the other kind of namespace, are ignored (R11), but for ZSZE. -/
def NsReq.fieldsOk (q : NsReq) : Bool :=
  let n := q.toNs
  let bytes := n.zsze * n.blockBytes
  decide (q.iusel ≤ 2)
    && (if q.zoned then
          decide (q.iusel ≠ 0) && isPow2 n.zsze && decide (268435456 ≤ bytes ∧ bytes ≤ 8 * gib)
            && decide (n.zactive ≤ 65536) && decide (n.zopen ≤ 1024) && decide (n.zopen ≤ n.zactive)
        else decide (q.zsze = 0))
    && decide (q.handles.length ≤ 128) && q.handles.all fun h => decide (h < 1024)

/-- The first status of R167 that holds for a Create; none when it can be satisfied. `mapRegion`: the map region in bytes. An NSZE of 0 is refused as
R187 refuses it (DEDUCED, log entry 190). -/
def Flash.createStatus (f : Flash) (mapRegion : Nat) (q : NsReq) : Option Status :=
  let n := q.toNs
  if 8192 ≤ f.ptx.nss.length then some ⟨1, 0x16, Config.dnr 1 0x16⟩
  else if 4 < q.lbaf || (q.lbaf ≤ 1 && q.pit ≠ 0) || 3 < q.pit then some ⟨1, 0x0A, Config.dnr 1 0x0A⟩
  else if !q.fieldsOk || q.ncap ≠ q.nsze || q.nsze = 0 || q.nsze % (if q.zoned then n.zsze else n.perIu) ≠ 0 then
    some ⟨0, 0x02, Config.dnr 0 0x02⟩
  else if f.unvmcap < n.capacity n.nsze || mapRegion - f.usedMap < n.mapCost n.nsze then some ⟨1, 0x15, Config.dnr 1 0x15⟩
  else
    let need := if q.zoned then n.zopen else q.sflags % 2
    if f.ptx.poolSize < f.ptx.poolUsed + need || 65536 < f.ptx.wpUsed + (if q.zoned then n.zactive else 0) then some ⟨7, 0x8A, true⟩
    else none

/-- Creates a namespace at the lowest free index. -/
def Flash.create (f : Flash) (q : NsReq) : Flash × Nat :=
  let k := (Tab.firstFree f.ptx.nss 0 8192).getD 0
  let n := q.toNs
  let stream := if !q.zoned && q.sflags % 2 = 1 then f.ptx.freeBarchan else none
  let p := { f.ptx with nss := Tab.set f.ptx.nss k { n with stream := stream } }
  let p := match stream with
    | some b => p.barAdd b fun _ => ⟨3, 0xFFFF, k + 1, 0, 0, 0, 0, 0⟩
    | none => p
  ({ f with ptx := p }, k)

/-- Removes a namespace: every IU is unmapped, with delta records, and its capacity and barchans return. -/
def Flash.remove (f : Flash) (now nsx wsn : Nat) : Flash :=
  let g := f.unmap now nsx (f.mappedIus nsx) wsn
  { g with ptx := { g.ptx with nss := Tab.erase g.ptx.nss nsx } }

/-! ## The barchan of a write (R171, R184) -/

/-- The barchan of a conventional write. `handle`: DSPEC of a write with DTYPE 2. The flag says that the index was beyond the
list: an Invalid Placement Identifier event (R184). -/
def Flash.barchanFor (f : Flash) (n : Ns) (handle : Option Nat) : Nat × Bool :=
  if f.ptx.fdp then
    match handle with
    | some i =>
      match n.handles[i]? with
      | some h => (3072 + h, false)
      | none => (3072 + n.handles.headD 0, true)
    | none => (3072 + n.handles.headD 0, false)
  else (n.stream.getD 32, false)

/-- The handle whose barchan this is, while FDP is enabled. -/
def fdpHandle (b : Nat) : Option Nat := if 3072 ≤ b then some (b - 3072) else none

/-! ## Zones (R173 to R179) -/

def Ns.zone (n : Ns) (z : Nat) : Zone := Tab.getD n.zones z ⟨.empty, z * n.zsze, none, 0⟩

def ZoneSt.isOpen : ZoneSt → Bool
  | .implicitOpen => true | .explicitOpen => true | _ => false
def ZoneSt.isActive : ZoneSt → Bool
  | .closed => true | s => s.isOpen

def Ns.openCount (n : Ns) : Nat := (Tab.keysWhere n.zones fun _ z => z.st.isOpen).length
def Ns.activeCount (n : Ns) : Nat := (Tab.keysWhere n.zones fun _ z => z.st.isActive).length

def Flash.setZone (f : Flash) (nsx z : Nat) (x : Zone) : Flash :=
  { f with ptx := { f.ptx with nss := Tab.upd f.ptx.nss nsx fun n => { n with zones := Tab.set n.zones z x } } }

/-- A zone lets its barchan go: a partial IU or stripe still in the Oasis is to be programmed, and then the band is marked with what it waits for; with
`short` it closes at once (R179, R201, R203, R204). -/
def Flash.releaseBarchan (f : Flash) (now hours bar mark : Nat) (short : Bool) : Flash :=
  let pending := f.ptx.slots.any fun s => s.2.barchan == bar && s.2.stage == .waiting
  let pad := if pending && !f.ptx.mustPad.contains bar then bar :: f.ptx.mustPad else f.ptx.mustPad
  let g : Flash := { f with ptx := { f.ptx with mustPad := pad } }
  match Tab.get? g.ptx.filling bar with
  | none => g
  | some k =>
    if short then g.closeShort now hours k
    else
      let g := if pending then g else g.finishWordline now k false
      let g := g.updBand k fun b => { b with st := if pending || mark == closeMark then b.st else .parked, waitsFor := some mark }
      if pending then g else { g with ptx := { g.ptx with filling := Tab.erase g.ptx.filling bar } }

/-- What the band of a zone that becomes Full waits for: the next zone of the namespace, where zones share bands (R204). -/
def Flash.fullMark (f : Flash) (nsx : Nat) : Nat :=
  match f.ns? nsx with
  | some n => if f.passesOn n then nsx * 2 ^ 40 else closeMark
  | none => closeMark

/-- The bands that PARKED for a zone close short: it finishes, resets or becomes Read Only (R203). -/
def Flash.dropParked (f : Flash) (now hours nsx z : Nat) : Flash :=
  (Tab.keysWhere f.ptx.bands fun _ b => b.st = .parked && b.waitsFor == some (nsx * 2 ^ 40 + z + 1)).foldl (fun (g : Flash) k => g.closeShort now hours k) f

/-- Closes a zone: explicitly, or implicitly under R176. -/
def Flash.closeZone (f : Flash) (now hours nsx z : Nat) (x : Zone) : Flash :=
  let g := f.setZone nsx z { x with st := .closed, barchan := none }
  match x.barchan with
  | some b => g.releaseBarchan now hours b (nsx * 2 ^ 40 + z + 1) false
  | none => g

/-- ZONE_IMPLICIT_CLOSE: the Implicitly Opened zone whose last accepted write has the lowest FSN (R176). -/
def Flash.implicitClose (f : Flash) (now hours nsx : Nat) (n : Ns) : Option Flash :=
  match firstFsn (fun e : Nat × Zone => e.2.fsn) (n.zones.filter fun e => e.2.st = .implicitOpen) with
  | some e => some (f.closeZone now hours nsx e.1 e.2)
  | none => none

/-- The barchan, with its band, that a Full zone of the namespace has passed on (R204). -/
def Flash.passedBarchan (f : Flash) (nsx : Nat) : Option Nat :=
  (f.ptx.filling.find? fun e => match Tab.get? f.ptx.bands e.2 with
    | some b => b.st = .opened && b.waitsFor == some (nsx * 2 ^ 40)
    | none => false).map Prod.fst

/-- A zone takes the resources for an opened state, or none and the status of R175 (R176). -/
def Flash.openZone (f : Flash) (now hours nsx z : Nat) (n : Ns) (goal : ZoneSt) : Except Status Flash :=
  let x := n.zone z
  if x.st.isOpen then .ok (f.setZone nsx z { x with st := if goal = .explicitOpen then .explicitOpen else x.st })
  else if x.st = .empty && decide (n.zactive ≤ n.activeCount) then .error ⟨1, 0xBD, Config.dnr 1 0xBD⟩
  else
    let made := if n.openCount < n.zopen then some f else f.implicitClose now hours nsx n
    match made with
    | none => .error ⟨1, 0xBE, Config.dnr 1 0xBE⟩
    | some g =>
      let passed := g.passedBarchan nsx
      let b := if passed.isSome then passed else g.ptx.freeBarchan
      let g := match passed.bind fun k => Tab.get? g.ptx.filling k with
        | some k => g.updBand k fun x => { x with waitsFor := none }
        | none => g
      let g := g.setZone nsx z { x with st := goal, barchan := b }
      match b with
      | some k => .ok { g with ptx := g.ptx.barAdd k fun _ => ⟨4, 0xFFFF, nsx + 1, 0, 0, 0, 0, z * n.zsze⟩ }
      | none => .ok g

/-- A zone becomes Full by a Finish; its band passes to the next zone of the namespace, one that PARKED for it closes short (R178, R203, R204). -/
def Flash.fillZone (f : Flash) (now hours nsx z : Nat) (x : Zone) (wp : Nat) : Flash :=
  let g := f.setZone nsx z { x with st := .full, wp := wp, barchan := none }
  match x.barchan with
  | some b => g.releaseBarchan now hours b (g.fullMark nsx) false
  | none => g.dropParked now hours nsx z

/-- ZONE_WRITE_CHECK: checks 2 to 5 of R175 for a write (`slba`) or an append (none); the accepted command's first LBA and
barchan, the write pointer advanced (R174, R175). -/
def Flash.zoneWrite (f : Flash) (now hours nsx : Nat) (n : Ns) (z : Nat) (slba : Option Nat) (blocks fsn : Nat) :
    Except Status (Flash × Nat × Nat) :=
  let x := n.zone z
  match x.st with
  | .offline => .error ⟨1, 0xBB, Config.dnr 1 0xBB⟩
  | .readOnly => .error ⟨1, 0xBA, Config.dnr 1 0xBA⟩
  | .full => .error ⟨1, 0xB9, Config.dnr 1 0xB9⟩
  | _ =>
    if slba.isSome && slba != some x.wp then .error ⟨1, 0xBC, Config.dnr 1 0xBC⟩
    else if (z + 1) * n.zsze < x.wp + blocks then .error ⟨1, 0xB8, Config.dnr 1 0xB8⟩
    else
      match f.openZone now hours nsx z n (if x.st = .explicitOpen then .explicitOpen else .implicitOpen) with
      | .error e => .error e
      | .ok g =>
        let n' := (g.ns? nsx).getD n
        let y := n'.zone z
        let bar := y.barchan.getD 32
        let wp := x.wp + blocks
        if wp = (z + 1) * n.zsze then
          let h := g.setZone nsx z { y with st := .full, wp := wp, barchan := none, fsn := fsn }
          let mark := h.fullMark nsx
          let h := match Tab.get? h.ptx.filling bar with
            | some k => h.updBand k fun b => { b with waitsFor := some mark }
            | none => h
          -- its last stripe does not wait for data of another zone, if none will share the band
          let pad := mark == closeMark && !h.ptx.mustPad.contains bar
          .ok ({ h with ptx := { h.ptx with mustPad := if pad then bar :: h.ptx.mustPad else h.ptx.mustPad } }, x.wp, bar)
        else .ok (g.setZone nsx z { y with wp := wp, fsn := fsn }, x.wp, bar)

/-- An assigned range that is released before its commit point (R177): no later command has been assigned blocks when the zone's last accepted write is
still this one. -/
def Flash.zoneRelease (f : Flash) (nsx lo len fsn : Nat) : Flash :=
  match f.ns? nsx with
  | none => f
  | some n =>
    if n.zoned then
      let z := lo / n.zsze
      let x := n.zone z
      if x.wp = lo + len && x.fsn = fsn && x.st != .full then f.setZone nsx z { x with wp := lo } else f
    else f

/-- Every block of a zone reads as deallocated from now on; `from` its write pointer for a Finish (R178, R196). -/
def Flash.clearZone (f : Flash) (now nsx : Nat) (n : Ns) (lo len wsn : Nat) : Flash := f.unmap now nsx (wholeIus n ⟨lo, len⟩) wsn

/-- Zone actions (R178). -/
inductive ZoneAct where
  | close | finish | reset' | open' | offline
  deriving DecidableEq, Repr

/-- The status of a transition that R178 does not list. -/
def badTransition : Status := ⟨1, 0xBF, Config.dnr 1 0xBF⟩

/-- A zone management action on one zone, at its fetch (R174, R178). -/
def Flash.zoneAct (f : Flash) (now hours nsx z : Nat) (n : Ns) (a : ZoneAct) : Except Status Flash :=
  let x := n.zone z
  match x.st, a with
  | .offline, _ => .error ⟨1, 0xBB, Config.dnr 1 0xBB⟩
  | .readOnly, .offline => .ok (f.setZone nsx z { x with st := .offline })
  | .readOnly, _ => .error ⟨1, 0xBA, Config.dnr 1 0xBA⟩
  | _, .offline => .error badTransition
  | .empty, .open' => f.openZone now hours nsx z n .explicitOpen
  | .empty, .close => .ok f
  | .empty, .reset' => .ok f
  | .empty, .finish => .ok (f.setZone nsx z { x with st := .full, wp := (z + 1) * n.zsze })
  | .full, .finish => .ok f
  | .full, .close => .ok f
  | .full, .open' => .error badTransition
  | .full, .reset' => .ok (f.setZone nsx z { x with st := .empty, wp := z * n.zsze, barchan := none })
  | .closed, .close => .error badTransition
  | .closed, .open' => f.openZone now hours nsx z n .explicitOpen
  | .closed, .finish => .ok (f.fillZone now hours nsx z x ((z + 1) * n.zsze))
  | .closed, .reset' =>
    .ok ((f.setZone nsx z { x with st := .empty, wp := z * n.zsze, barchan := none }).dropParked now hours nsx z)
  | .implicitOpen, .open' => .ok (f.setZone nsx z { x with st := .explicitOpen })
  | .explicitOpen, .open' => .error badTransition
  | _, .close => .ok (f.closeZone now hours nsx z x)
  | _, .finish => .ok (f.fillZone now hours nsx z x ((z + 1) * n.zsze))
  | _, .reset' =>
    let g := f.setZone nsx z { x with st := .empty, wp := z * n.zsze, barchan := none }
    match x.barchan with
    | some b => .ok (g.releaseBarchan now hours b closeMark true)
    | none => .ok g

/-- The zones an action with Select All changes: those whose state lets it (NVMe zoned namespaces; log entry 26). -/
def ZoneAct.selects : ZoneAct → ZoneSt → Bool
  | .close, s => s.isOpen
  | .finish, s => s.isActive
  | .open', s => s == .closed
  | .reset', s => s.isActive || s == .full
  | .offline, s => s == .readOnly

/-- What an action unmaps at its commit point: all of the zone for Reset and Offline, nothing beyond the write pointer is mapped
for Finish (R178, R196). -/
def ZoneAct.clears : ZoneAct → Bool
  | .reset' => true | .offline => true | _ => false

/-- An action on a list of zones; the first failure gives the status and stops. -/
def Flash.zoneActs (f : Flash) (now hours nsx : Nat) (a : ZoneAct) : List Nat → Flash × Option Status
  | [] => (f, none)
  | z :: zs =>
    match f.ns? nsx with
    | none => (f, none)
    | some n =>
      match f.zoneAct now hours nsx z n a with
      | .ok g => g.zoneActs now hours nsx a zs
      | .error e => (f, some e)

/-- The zones named by an action: one, or every zone it selects. -/
def Ns.actZones (n : Ns) (a : ZoneAct) (z : Option Nat) : List Nat :=
  match z with
  | some k => [k]
  | none => Tab.keysWhere n.zones fun _ x => a.selects x.st

/-- Zones of a namespace, in order from a zone, for Report Zones (R178): state filter 0 to 7. -/
def Ns.report (n : Ns) (from' opt : Nat) : List (Nat × Zone) :=
  let want := fun s : ZoneSt =>
    match opt with
    | 0 => true
    | 1 => s == .empty
    | 2 => s == .implicitOpen
    | 3 => s == .explicitOpen
    | 4 => s == .closed
    | 5 => s == .full
    | 6 => s == .readOnly
    | _ => s == .offline
  (((List.range (n.nsze / n.zsze)).drop from').map fun z => (z, n.zone z)).filter fun e => want e.2.st

/-- Zone state codes of the zoned namespace command set. -/
def ZoneSt.code : ZoneSt → Nat
  | .empty => 1 | .implicitOpen => 2 | .explicitOpen => 3 | .closed => 4 | .readOnly => 0xD | .full => 0xE | .offline => 0xF

/-- A 64 B zone descriptor. A Full, Read Only or Offline zone has no valid write pointer. -/
def zoneDesc (n : Ns) (z : Nat) (x : Zone) : List Byte :=
  let wp := if x.st == .full || x.st == .readOnly || x.st == .offline then 2 ^ 64 - 1 else x.wp
  leBytes 1 2 ++ leBytes 1 (x.st.code * 16) ++ zeros 6 ++ leBytes 8 n.zsze ++ leBytes 8 (z * n.zsze) ++ leBytes 8 wp ++ zeros 32

/-- Restart of the zones (R178): an opened zone is Closed, or Empty if no block of it survives; its write pointer stands one past
the highest surviving LBA. -/
def Flash.restartZones (f : Flash) : Flash :=
  let top := fun (nsx : Nat) (n : Ns) (z : Nat) =>
    (f.ptx.map.filter fun e => decide (mapKey nsx (z * n.zsze / n.perIu) ≤ e.1 ∧ e.1 < mapKey nsx ((z + 1) * n.zsze / n.perIu))).foldl
      (fun (m : Nat) e =>
        let held : List Nat := match e.2 with
          | .media d b fr => (List.range n.iu).flatMap fun i => ((Tab.get? f.ptx.media (locKey d b (fr + i))).map fun x => x.cells.map Prod.fst).getD []
          | .oasis k => ((Tab.get? f.ptx.slots k).map fun s => s.cells.map Prod.fst).getD []
          | .mark _ => [e.1 % 2 ^ 48 * n.perIu + n.perIu - 1]
        held.foldl (fun m l => max m (l + 1)) m) (z * n.zsze)
  let nss := f.ptx.nss.map fun e => (e.1, { e.2 with zones := e.2.zones.map fun z =>
    (z.1, if z.2.st.isOpen then
        let wp := top e.1 e.2 z.1
        { z.2 with st := if wp = z.1 * e.2.zsze then .empty else .closed, wp := wp, barchan := none, fsn := 0 }
      else z.2) })
  { f with ptx := { f.ptx with nss := nss } }

end Sys2Proof.Machine
end

