-- ==== Sys2Proof/Syntax.lean ====
section
/-! DEFINITION. The commands of the block: one constructor per row of the operations table. -/

namespace Sys2Proof

open Machine

/-- The operations and events of the part, in the order of the table. Each docstring names the rule of its row. -/
inductive Instr where
  /-- R467 -/
  | powerOnReset (env : StartEnv)
  /-- R477 -/
  | deviceReset (env : StartEnv)
  /-- R478 -/
  | porstAssert
  /-- R512 -/
  | supplyUndervoltage (rail : Rail)
  /-- R421 -/
  | pfailAssert
  /-- R422 -/
  | dumpComplete
  /-- R427 -/
  | powerReturnAfterDump (env : StartEnv)
  /-- R472 -/
  | mgcRstctlShut (r : Requester)
  /-- R474 -/
  | mgcRstctlDevrst (r : Requester)
  /-- R473 -/
  | cleanShutdownComplete
  /-- R26 -/
  | refclkMainLoss
  /-- R26 -/
  | corePllLockLoss (clk : Nat)
  /-- R26 -/
  | nandPllLockLoss (k : Nat)
  /-- R26 -/
  | laneGroupClockLoss (g : Nat)
  /-- R26 -/
  | aonXtalLoss
  /-- R27 -/
  | channelWatchdogExpiry (ch die : Nat)
  /-- R27 -/
  | schedulerHeartbeatTimeout (k : Nat)
  /-- R27 -/
  | cameleerWatchdogExpiry (measured : Nat)
  /-- R29 -/
  | acHeartbeatMiss (n : Nat)
  /-- R28 -/
  | fevDevwdgWrite (r : Requester) (v : W32)
  /-- R30 -/
  | unitRecoveryComplete (ch : Nat)
  /-- R30 -/
  | clusterRecoveryComplete (k : Nat)
  /-- R30 -/
  | deviceRecoveryComplete
  /-- R38 -/
  | pciePerstDeassert (g : Nat)
  /-- R476 -/
  | pciePerstAssert (g : Nat)
  /-- R54 -/
  | linkTrained (port speed width best : Nat)
  /-- R55 -/
  | pcieHotReset (port : Nat)
  /-- R55 -/
  | pcieLinkDown (port : Nat)
  /-- R55 -/
  | ethLinkDown (port : Nat)
  /-- R39 -/
  | hfuLgcfgWrite (r : Requester) (v : W32)
  /-- R526 -/
  | hfuLeasecfgWrite (r : Requester) (v : W32)
  /-- R45 -/
  | functionLevelReset (inst : Nat)
  /-- R159 -/
  | instanceResetComplete (inst : Nat)
  /-- R44 -/
  | configRequest (q : CfgReq)
  /-- R143 -/
  | numvfsWrite (port n : Nat) (enable : Bool)
  /-- R57 -/
  | barUnsupportedAccess (inst offset : Nat)
  /-- R78 -/
  | sqTailDoorbell (inst sqid v : Nat)
  /-- R78 -/
  | cqHeadDoorbell (inst cqid v : Nat)
  /-- R143 -/
  | ccEnSet (inst cc aqa asq acq : Nat)
  /-- R105 -/
  | ccEnClear (inst cc : Nat)
  /-- R107 -/
  | ccShutdownNotify (inst shn : Nat)
  /-- R107 -/
  | ccShutdownFlushDone (inst : Nat)
  /-- R47 -/
  | ethFrameReceive (port : Nat) (r : EthRx)
  /-- R46 -/
  | pfcPauseReceive (port prio quanta : Nat)
  /-- R52 -/
  | ecnCeReceive (conn : Nat)
  /-- R52 -/
  | cnpReceive (conn : Nat)
  /-- R52 -/
  | cnpRateRecovery (conn : Nat)
  /-- R49 -/
  | roceAckTimeout (conn : Nat)
  /-- R49 -/
  | tcpRetransmitTimeout (conn : Nat)
  /-- R51 -/
  | transportConnectionFailure (conn : Nat)
  /-- R50 -/
  | fabricsConnect (port : Nat) (q : ConnectReq)
  /-- R51 -/
  | fabricsDisconnect (inst : Nat)
  /-- R496 -/
  | fabricsPropertyGet (inst offset : Nat)
  /-- R496 -/
  | fabricsPropertySet (inst offset v : Nat)
  /-- R93 -/
  | keepAlive (a : AdminCmd)
  /-- R51 -/
  | keepAliveTimeout (inst : Nat)
  /-- R57 -/
  | pcieReceiverError (port : Nat)
  /-- R57 -/
  | malformedTlp (port : Nat)
  /-- R57 -/
  | completionTimeout (t : HostRead)
  /-- R57 -/
  | hostReadFailure (t : HostRead) (why : ReadFault)
  /-- R79 -/
  | sqFetchIssue
  /-- R17 -/
  | read (c : IoCmd)
  /-- R19 -/
  | write (c : IoCmd)
  /-- R108 -/
  | compare (c : IoCmd)
  /-- R108 -/
  | verify (c : IoCmd)
  /-- R217 -/
  | writeZeroes (c : IoCmd)
  /-- R217 -/
  | writeUncorrectable (c : IoCmd)
  /-- R217 -/
  | datasetManagement (c : IoCmd) (ranges : List Span)
  /-- R145 -/
  | copy (c : IoCmd) (srcs : List CopySrc)
  /-- R105 -/
  | flush (c : IoCmd)
  /-- R125 -/
  | flushComplete (ctx : Nat)
  /-- R175 -/
  | zoneAppend (c : IoCmd)
  /-- R178 -/
  | zoneManagementSend (c : IoCmd)
  /-- R174 -/
  | zoneManagementReceive (c : IoCmd)
  /-- R59 -/
  | reservationRegister (c : IoCmd) (crkey nrkey : Nat)
  /-- R60 -/
  | reservationAcquire (c : IoCmd) (crkey prkey : Nat)
  /-- R59 -/
  | reservationRelease (c : IoCmd) (crkey : Nat)
  /-- R58 -/
  | reservationReport (c : IoCmd)
  /-- R219 -/
  | purgeRange (c : IoCmd)
  /-- R287 -/
  | parityCompute (c : IoCmd) (d : PcDesc)
  /-- R184 -/
  | ioManagementSend (c : IoCmd) (handles : List Nat)
  /-- R184 -/
  | ioManagementReceive (c : IoCmd)
  /-- R74 -/
  | createIoSq (a : AdminCmd)
  /-- R74 -/
  | createIoCq (a : AdminCmd)
  /-- R105 -/
  | deleteIoSq (a : AdminCmd)
  /-- R74 -/
  | deleteIoCq (a : AdminCmd)
  /-- R95 -/
  | getLogPage (a : AdminCmd)
  /-- R94 -/
  | identify (a : AdminCmd)
  /-- R98 -/
  | abort (a : AdminCmd)
  /-- R96 -/
  | setFeatures (a : AdminCmd) (d : FeatureData)
  /-- R189 -/
  | namespaceShrinkComplete (ctx : Nat)
  /-- R96 -/
  | getFeatures (a : AdminCmd)
  /-- R93 -/
  | asyncEventRequest (a : AdminCmd)
  /-- R167 -/
  | namespaceManagement (a : AdminCmd) (req : NsReq)
  /-- R93 -/
  | namespaceAttachment (a : AdminCmd) (ctrls : List Nat)
  /-- R97 -/
  | firmwareImageDownload (a : AdminCmd) (data : List Byte)
  /-- R402 -/
  | firmwareCommit (a : AdminCmd)
  /-- R458 -/
  | deviceSelfTest (a : AdminCmd)
  /-- R458 -/
  | deviceSelfTestComplete (failed : Option (Nat × Option Nat))
  /-- R93 -/
  | directiveSend (a : AdminCmd)
  /-- R93 -/
  | directiveReceive (a : AdminCmd)
  /-- R141 -/
  | virtualizationManagement (a : AdminCmd)
  /-- R93 -/
  | nvmeMiSend (a : AdminCmd) (m : MiReq)
  /-- R93 -/
  | nvmeMiReceive (a : AdminCmd) (m : MiReq)
  /-- R376 -/
  | formatNvm (a : AdminCmd)
  /-- R363 -/
  | securitySend (a : AdminCmd) (p : SecPayload)
  /-- R363 -/
  | securityReceive (a : AdminCmd) (p : SecQuery)
  /-- R377 -/
  | sanitize (a : AdminCmd)
  /-- R377 -/
  | sanitizeComplete (ok : Bool)
  /-- R93 -/
  | getLbaStatus (a : AdminCmd)
  /-- R66 -/
  | ownershipLease (a : AdminCmd)
  /-- R70 -/
  | leaseHoldoffEnd
  /-- R355 -/
  | bootRecordFetch (a : AdminCmd)
  /-- R286 -/
  | dieRetire (a : AdminCmd)
  /-- R119 -/
  | rangeLockEntryGrant
  /-- R147 -/
  | admitCommand
  /-- R195 -/
  | translateComplete (ctx : Nat)
  /-- R18 -/
  | oasisReadComplete (ctx : Nat)
  /-- R19 -/
  | writeDataArrival (ctx : Nat) (blocks : List LBlock)
  /-- R128 -/
  | oasisSpaceWaitRelease (ctx : Nat)
  /-- R359 -/
  | xtsEncryptDone (ctx : Nat) (o : LaneOutcome)
  /-- R359 -/
  | xtsDecryptDone (ctx : Nat) (o : LaneOutcome)
  /-- R17 -/
  | hostDataTransferDone (ctx : Nat)
  /-- R127 -/
  | fuaWriteComplete (ctx : Nat)
  /-- R89 -/
  | cqePost (inst cqid : Nat)
  /-- R92 -/
  | interruptCoalesceTimeout (inst vector : Nat)
  /-- R21 -/
  | stripeProgramIssue (barchan : Nat) (pad : Bool)
  /-- R186 -/
  | stripeHoldExpiry (barchan : Nat)
  /-- R301 -/
  | dieWorkSelect (die : Nat)
  /-- R247 -/
  | dieSuspended (die : Nat)
  /-- R243 -/
  | dieReadDone (die job : Nat)
  /-- R237 -/
  | frameTransferDone (ch : Nat)
  /-- R244 -/
  | wordlineProgramStatus (die : Nat) (pass : Bool)
  /-- R222 -/
  | jtimeExpiry
  /-- R245 -/
  | eraseStatus (die : Nat) (pass : Bool)
  /-- R247 -/
  | dieResetComplete (die : Nat) (ok : Bool)
  /-- R248 -/
  | suspendHoldExpiry (die : Nat)
  /-- R249 -/
  | nestwaitExpiry (die : Nat)
  /-- R301 -/
  | intmaxExpiry (die : Nat)
  /-- R304 -/
  | typicalTimePassed (die : Nat)
  /-- R305 -/
  | dieStatePublish (k : Nat)
  /-- R236 -/
  | zqShortCalibration (k : Nat)
  /-- R205 -/
  | eraseIssue (band : Nat)
  /-- R254 -/
  | slcPoolRebalance
  /-- R257 -/
  | wadiBandExchange (n : Nat)
  /-- R209 -/
  | reclaimVictimSelect
  /-- R215 -/
  | constrainedTimeout
  /-- R215 -/
  | wpSpaceRecoveryTimeout
  /-- R224 -/
  | ptxCkptstatForce (r : Requester)
  /-- R224 -/
  | checkpointComplete
  /-- R134 -/
  | ptxOasiscfgWrite (r : Requester) (v : W32)
  /-- R266 -/
  | hardDecodeDone (job : Nat) (d : Decoded)
  /-- R268 -/
  | softDecodeDone (job : Nat) (d : Decoded)
  /-- R275 -/
  | reconstructionDone (job : Nat) (ok : Bool)
  /-- R270 -/
  | patrolRead (die block frame : Nat)
  /-- R279 -/
  | dieSuspectClear (die : Nat)
  /-- R281 -/
  | rebuildWorkIssue (die : Nat)
  /-- R291 -/
  | parityJobStart
  /-- R291 -/
  | parityJobTimeout (ctx : Nat)
  /-- R289 -/
  | parityJobDone (ctx : Nat) (inputs outputs : List (List Nat))
  /-- R147 -/
  | tasEpochBoundary
  /-- R157 -/
  | tasShcmdLoad (r : Requester)
  /-- R157 -/
  | tasShcmdStage (r : Requester)
  /-- R328 -/
  | dramRead (req addr len : Nat) (waymark : Bool) (errs : LineErrs)
  /-- R322 -/
  | dramWrite (req addr : Nat) (bytes : List Byte) (waymark : Bool) (errs : LineErrs)
  /-- R332 -/
  | zeroFillDone (granule : Nat)
  /-- R333 -/
  | mssVbclr1Go (r : Requester) (v : W32)
  /-- R333 -/
  | validBitClearDone
  /-- R335 -/
  | mssRsctlGo (r : Requester) (v : W32)
  /-- R335 -/
  | rangeScrubDone (covered : Nat) (stopped : Bool) (errs : LineErrs)
  /-- R334 -/
  | patrolScrubStep (errs : LineErrs)
  /-- R324 -/
  | trainingWritePattern (r : Requester) (ch : Nat) (v : W32)
  /-- R324 -/
  | trainingReadCompare (r : Requester) (ch : Nat) (v : W32)
  /-- R324 -/
  | trainingWriteReadCompare (r : Requester) (ch : Nat) (v : W32)
  /-- R324 -/
  | trainingHelperDone (ch dq cb : Nat)
  /-- R326 -/
  | dqsOscillatorRead (rank drift : Nat)
  /-- R326 -/
  | retrainingPause (rank : Nat) (waits atEnd : Bool)
  /-- R337 -/
  | refreshDue (rank bank : Nat)
  /-- R337 -/
  | mr4Read (rank : Nat) (deg : Int)
  /-- R338 -/
  | powerDownEntry (rank : Nat)
  /-- R336 -/
  | pageIdleClose (bank : Nat)
  /-- R340 -/
  | rowTrackerWindowEnd (rank : Nat)
  /-- R342 -/
  | sramScrub (w : SramWord)
  /-- R353 -/
  | secBrctlFin (r : Requester)
  /-- R354 -/
  | bootRecordAppended
  /-- R357 -/
  | getVersion (ep : Nat)
  /-- R357 -/
  | getCapabilities (ep version maxSize : Nat)
  /-- R357 -/
  | negotiateAlgorithms (ep : Nat) (p384 sha384 : Bool)
  /-- R358 -/
  | getDigests (ep : Nat)
  /-- R358 -/
  | getCertificate (ep slot offset len : Nat)
  /-- R358 -/
  | challenge (ep slot : Nat)
  /-- R358 -/
  | getMeasurements (ep index : Nat) (signed : Bool)
  /-- R357 -/
  | chunkGet (ep handle seq : Nat)
  /-- R357 -/
  | chunkSend (ep handle seq : Nat) (last : Bool) (part : List Byte) (spelled : SpdmReq)
  /-- R370 -/
  | sealGcm (r : Requester) (v : W32)
  /-- R368 -/
  | sealKeygen (r : Requester) (v : W32)
  /-- R368 -/
  | sealUnwrap (r : Requester) (v : W32)
  /-- R364 -/
  | sealInject (r : Requester) (v : W32)
  /-- R368 -/
  | sealClear (r : Requester) (v : W32)
  /-- R370 -/
  | sealDone
  /-- R370 -/
  | secSeallockKclr (r : Requester)
  /-- R491 -/
  | secSeallockKlock (r : Requester)
  /-- R365 -/
  | keySlotChangeApply (slot : Nat)
  /-- R371 -/
  | supplyGlitchAlarm
  /-- R371 -/
  | clockAlarm
  /-- R371 -/
  | roundCheckAlarm
  /-- R373 -/
  | debugUnlock
  /-- R392 -/
  | storeServiceRead (entry from' offset len : Nat)
  /-- R392 -/
  | storeServiceProgram (entry from' offset : Nat) (data : List Byte)
  /-- R392 -/
  | storeServiceErase (entry from' offset len : Nat)
  /-- R392 -/
  | storeServicePoll (entry from' : Nat)
  /-- R390 -/
  | fscReadRequest (port : FscPort) (offset len : Nat)
  /-- R390 -/
  | fscProgramDone (port : FscPort) (ok : Bool)
  /-- R390 -/
  | fscEraseDone (port : FscPort) (ok : Bool)
  /-- R390 -/
  | fscSuspendHoldExpiry
  /-- R404 -/
  | activationPrepareDone (digestOk : Bool)
  /-- R412 -/
  | ahnahHealthSummary (tag : Nat) (args : List Nat) (data : List Byte)
  /-- R412 -/
  | ahnahRegisterRead (tag : Nat) (args : List Nat) (data : List Byte)
  /-- R452 -/
  | ahnahEventRecordRead (tag : Nat) (args : List Nat) (data : List Byte)
  /-- R412 -/
  | ahnahBootRecordRead (tag : Nat) (args : List Nat) (data : List Byte)
  /-- R412 -/
  | ahnahSetInstanceShare (tag : Nat) (args : List Nat) (data : List Byte)
  /-- R412 -/
  | ahnahSetNamespaceSize (tag : Nat) (args : List Nat) (data : List Byte)
  /-- R412 -/
  | ahnahSetMediaMode (tag : Nat) (args : List Nat) (data : List Byte)
  /-- R413 -/
  | ahnahPortConfigWrite (tag : Nat) (args : List Nat) (data : List Byte)
  /-- R412 -/
  | ahnahImageWrite (tag : Nat) (args : List Nat) (data : List Byte)
  /-- R412 -/
  | ahnahImageCommit (tag : Nat) (args : List Nat) (data : List Byte)
  /-- R482 -/
  | ahnahCleanShutdown (tag : Nat) (args : List Nat) (data : List Byte)
  /-- R409 -/
  | mctpControlMessage (m : MctpReq)
  /-- R409 -/
  | readNvmeMiDataStructure (dtyp : Nat)
  /-- R409 -/
  | subsystemHealthStatusPoll (clear : Bool)
  /-- R409 -/
  | controllerHealthStatusPoll (start count : Nat) (clear : Bool)
  /-- R409 -/
  | configurationSet (id value : Nat)
  /-- R409 -/
  | configurationGet (id : Nat)
  /-- R409 -/
  | vpdRead (offset len : Nat)
  /-- R409 -/
  | vpdWrite (offset : Nat) (data : List Byte)
  /-- R409 -/
  | basicManagementRead (offset len : Nat)
  /-- R410 -/
  | sidebandDownloadTimeout
  /-- R417 -/
  | hueSample (mV : Nat)
  /-- R417 -/
  | hueRetestTimer
  /-- R416 -/
  | capTestStart
  /-- R416 -/
  | ptmHuestatTestgo (r : Requester)
  /-- R416 -/
  | capTestComplete (v1 vs v2 : Nat)
  /-- R419 -/
  | ptmHuecfgWrite (r : Requester) (v : W32)
  /-- R428 -/
  | sensorSample (readings : List Int)
  /-- R430 -/
  | nandTemperatureRead (k : Nat) (readings : Tab Int)
  /-- R433 -/
  | throttleLevelUpdate
  /-- R436 -/
  | thermalShutdown
  /-- R436 -/
  | thermtripAssert
  /-- R440 -/
  | faultReport (f : FaultIn)
  /-- R456 -/
  | fevEvwrhdrGo (r : Requester) (v : W32)
  /-- R453 -/
  | fevFfqstatClr (r : Requester)
  /-- R446 -/
  | safeholdExpiry (env : StartEnv)
  /-- R12 -/
  | registerWrite (r : Requester) (addr width v : Nat)
  /-- R463 -/
  | aonXtalRatioCheckPass
  /-- R30 -/
  | acRecoveryComplete (n : Nat)
  /-- R416 -/
  | hueTestPeriodExpiry
  /-- R512 -/
  | serdesRailRecovery
  /-- R91 -/
  | msixVectorUnmask (inst : Nat) (w : IntWrite)
  deriving DecidableEq, Repr

end Sys2Proof
end

