-- ==== Sys2Proof/Decode.lean ====
section
/-! DEFINITION. The command a word spells by the bits of the operations table. No row of that table gives bits, so no word spells a command. -/

namespace Sys2Proof

/-- The command whose bits are `w`: none, since no row of the operations table has an encoding. -/
def decodeTableWord (nbits w : Nat) : Option Instr :=
  match nbits, w with
  | _, _ => none

end Sys2Proof
end

