-- ==== Sys2Proof/Machine/Operands.lean ====
section
/-! DEFINITION. The fields of a submission queue entry that the commands read (NVMe's own places, PRESUMED from its base
specification where the spec names the field alone, log entry 26; the vendor commands' as the spec gives them). -/

namespace Sys2Proof.Machine

/-! ## Commands that name blocks -/

def Sqe.slba (q : Sqe) : Nat := q.cdw10 + q.cdw11 * 2 ^ 32
/-- Number of logical blocks, 0-based (R85). -/
def Sqe.nlb (q : Sqe) : Nat := natBits q.cdw12 15 0
def Sqe.lr (q : Sqe) : Bool := natBits q.cdw12 31 31 == 1
def Sqe.fua (q : Sqe) : Bool := natBits q.cdw12 30 30 == 1
def Sqe.pract (q : Sqe) : Bool := natBits q.cdw12 29 29 == 1
/-- PRCHK: guard, application tag, reference tag. -/
def Sqe.prchk (q : Sqe) : Nat := natBits q.cdw12 28 26
/-- Storage tag check, which the device refuses (R164). -/
def Sqe.stc (q : Sqe) : Bool := natBits q.cdw12 24 24 == 1
/-- Directive type and specific (R184). -/
def Sqe.dtype (q : Sqe) : Nat := natBits q.cdw12 23 20
def Sqe.dspec (q : Sqe) : Nat := natBits q.cdw13 31 16
/-- The placement handle index of a write with DTYPE 2. -/
def Sqe.handle (q : Sqe) : Option Nat := if q.dtype = 2 then some q.dspec else none
/-- The key tag: none given is tag 0 (R363). -/
def Sqe.keyTag (q : Sqe) : Nat := if natBits q.cdw12 19 16 = 1 then natBits q.cdw13 15 0 else 0
/-- Initial reference tag, by the width of the format's reference tag. -/
def Sqe.refTag (q : Sqe) (wide : Bool) : Nat := q.cdw14 + (if wide then natBits q.cdw2 15 0 * 2 ^ 32 else 0)
/-- Logical Block Storage Tag of LBA format 4: the 32 bits above the reference tag's 48 (R164; places PRESUMED, log entry 26). -/
def Sqe.storageTag (q : Sqe) (lbaf : Nat) : Nat := if lbaf = 4 then natBits q.cdw2 31 16 + natBits q.cdw3 15 0 * 65536 else 0
def Sqe.appTag (q : Sqe) : Nat := natBits q.cdw15 15 0
def Sqe.appMask (q : Sqe) : Nat := natBits q.cdw15 31 16

/-- Deallocate of Dataset Management. -/
def Sqe.deallocates (q : Sqe) : Bool := natBits q.cdw11 2 2 == 1

/-- Zone Management Send: action and Select All; Receive: action, reporting options, Partial Report; dwords to return. -/
def Sqe.zoneAction (q : Sqe) : Nat := natBits q.cdw13 7 0
def Sqe.selectAll (q : Sqe) : Bool := natBits q.cdw13 8 8 == 1
def Sqe.zoneRecvAction (q : Sqe) : Nat := natBits q.cdw13 7 0
def Sqe.reportOption (q : Sqe) : Nat := natBits q.cdw13 15 8
def Sqe.partial' (q : Sqe) : Bool := natBits q.cdw13 16 16 == 1

/-- Reservation commands: action, IEKEY, and the reservation type; CPTPL of Register. -/
def Sqe.resvAction (q : Sqe) : Nat := natBits q.cdw10 2 0
def Sqe.iekey (q : Sqe) : Bool := natBits q.cdw10 3 3 == 1
def Sqe.resvType (q : Sqe) : Nat := natBits q.cdw10 15 8
def Sqe.cptpl (q : Sqe) : Nat := natBits q.cdw10 31 30

/-- Purge Range: number of blocks, 0-based, in 32 bits (R218). -/
def Sqe.purgeNlb (q : Sqe) : Nat := q.cdw12

/-! ## Admin commands -/

/-- Queue identifier, size (0-based) of Create and Delete. -/
def Sqe.qid (q : Sqe) : Nat := natBits q.cdw10 15 0
def Sqe.qsize (q : Sqe) : Nat := natBits q.cdw10 31 16
def Sqe.pc (q : Sqe) : Bool := natBits q.cdw11 0 0 == 1
def Sqe.ien (q : Sqe) : Bool := natBits q.cdw11 1 1 == 1
def Sqe.iv (q : Sqe) : Nat := natBits q.cdw11 31 16
def Sqe.qprio (q : Sqe) : Nat := natBits q.cdw11 2 1
def Sqe.cqid (q : Sqe) : Nat := natBits q.cdw11 31 16

/-- Get Log Page: LID, LSP, RAE, LSI, byte offset and bytes asked for. -/
def Sqe.lid (q : Sqe) : Nat := natBits q.cdw10 7 0
def Sqe.lsp (q : Sqe) : Nat := natBits q.cdw10 14 8
def Sqe.rae (q : Sqe) : Bool := natBits q.cdw10 15 15 == 1
def Sqe.lsi (q : Sqe) : Nat := natBits q.cdw11 31 16
def Sqe.logOffset (q : Sqe) : Nat := q.cdw12 + q.cdw13 * 2 ^ 32
def Sqe.logBytes (q : Sqe) : Nat := (natBits q.cdw10 31 16 + natBits q.cdw11 15 0 * 65536 + 1) * 4

/-- Identify: CNS and controller identifier. -/
def Sqe.cns (q : Sqe) : Nat := natBits q.cdw10 7 0
def Sqe.cntid (q : Sqe) : Nat := natBits q.cdw10 31 16
def Sqe.csi (q : Sqe) : Nat := natBits q.cdw11 31 24

/-- Set and Get Features: FID, SEL, SV. -/
def Sqe.fid (q : Sqe) : Nat := natBits q.cdw10 7 0
def Sqe.sel (q : Sqe) : Nat := natBits q.cdw10 10 8
def Sqe.sv (q : Sqe) : Bool := natBits q.cdw10 31 31 == 1

/-- Namespace Size: the new NSZE (R187). -/
def Sqe.newSize (q : Sqe) : Nat := q.cdw12 + q.cdw13 * 2 ^ 32

/-- Abort: SQID and CID of the target. -/
def Sqe.abortSq (q : Sqe) : Nat := natBits q.cdw10 15 0
def Sqe.abortCid (q : Sqe) : Nat := natBits q.cdw10 31 16

/-- Format NVM: LBA format index, extended, protection type and place, secure erase setting (NVMe base specification). -/
def Sqe.fmtLbaf (q : Sqe) : Nat := natBits q.cdw10 3 0 + 16 * natBits q.cdw10 13 12
def Sqe.fmtExt (q : Sqe) : Bool := natBits q.cdw10 4 4 == 1
def Sqe.fmtPi (q : Sqe) : Nat := natBits q.cdw10 7 5
def Sqe.fmtFirst (q : Sqe) : Bool := natBits q.cdw10 8 8 == 1
def Sqe.ses (q : Sqe) : Nat := natBits q.cdw10 11 9

/-- Sanitize: action, AUSE, overwrite passes (0 is 16), OIPBP, NDAS and the pattern (NVMe base specification). -/
def Sqe.sanact (q : Sqe) : Nat := natBits q.cdw10 2 0
def Sqe.ause (q : Sqe) : Bool := natBits q.cdw10 3 3 == 1
def Sqe.passes (q : Sqe) : Nat := if natBits q.cdw10 7 4 = 0 then 16 else natBits q.cdw10 7 4
def Sqe.oipbp (q : Sqe) : Bool := natBits q.cdw10 8 8 == 1
def Sqe.ndas (q : Sqe) : Bool := natBits q.cdw10 9 9 == 1

/-- The command moves data or a list of its own: the transfer bits of its opcode (NVMe base specification), but for the commands whose opcodes say
otherwise (R85, R218). -/
def Ctx.hasData (c : Ctx) : Bool := c.sqe.opc % 4 != 0 && c.kind != .purge && c.kind != .zoneSend

/-- The 64 bytes of an entry, as the archive holds it (R86). -/
def Sqe.bytes (q : Sqe) : List Byte :=
  leBytes 1 q.opc ++ leBytes 1 (q.fuse % 64 + q.psdt % 4 * 64) ++ leBytes 2 q.cid ++ leBytes 4 q.nsid ++ leBytes 4 q.cdw2 ++ leBytes 4 q.cdw3
    ++ leBytes 8 q.mptr ++ leBytes 8 q.dptr0 ++ leBytes 8 q.dptr1 ++ leBytes 4 q.cdw10 ++ leBytes 4 q.cdw11 ++ leBytes 4 q.cdw12
    ++ leBytes 4 q.cdw13 ++ leBytes 4 q.cdw14 ++ leBytes 4 q.cdw15

/-- FLAGS of R85. -/
def Ctx.flags (c : Ctx) : Nat :=
  b2n c.fua * 2 ^ 15 + b2n c.lr * 2 ^ 14 + b2n c.pract * 2 ^ 13 + c.prchk * 2 ^ 10 + b2n c.ord * 2 ^ 9 + b2n c.wr * 2 ^ 8
    + b2n (c.hasData && c.sqe.psdt != 0) * 2 ^ 7 + b2n c.adm * 2 ^ 6 + b2n c.fab * 2 ^ 5 + b2n c.abrq * 2 ^ 4 + b2n c.rlidx.isSome * 2 ^ 3
    + b2n c.oas * 2 ^ 2 + b2n c.mir * 2

/-- The eight words of a context (R85). -/
def Ctx.words (c : Ctx) : List W64 :=
  let w := fun (n : Nat) => BitVec.ofNat 64 n
  [ w (c.state.code * 2 ^ 60 + c.sqe.opc * 2 ^ 52 + c.inst * 2 ^ 41 + c.sqid * 2 ^ 32 + c.sqe.cid * 2 ^ 16 + c.flags),
    w (c.fsn * 2 ^ 24 + c.lc * 2 ^ 21 + c.nsx.getD 0 * 2 ^ 8 + c.cmask),
    w (c.slba % 2 ^ 48 * 2 ^ 16 + c.nlb % 2 ^ 16),
    w (c.waymark % 2 ^ 32 * 2 ^ 32 + c.keyslot * 2 ^ 16 + b2n c.status.dnr * 2 ^ 15 + c.status.sct * 2 ^ 9 + c.status.sc * 2),
    w (if c.hasData then c.sqe.dptr0 else 0), w (if c.hasData then c.sqe.dptr1 else 0),
    w (c.ilbrt % 2 ^ 48 * 2 ^ 16 + c.lbat),
    w ((c.rlidx.getD 0) * 2 ^ 46 + c.dspec * 2 ^ 30 + c.lbatm * 2 ^ 14 + c.done * 2 ^ 4) ]

end Sys2Proof.Machine
end

