-- ==== Sys2Proof/Machine/Qce.lean ====
section
/-! DEFINITION. The queues of QCE (chapter 03): the context pool, the choice of the next SQ, range locks, the order of completion
entries, interrupts and asynchronous events. -/

namespace Sys2Proof.Machine

/-! ## Statuses -/

def Status.success : Status := ⟨0, 0, false⟩
def Status.isOk (s : Status) : Bool := s.sct == 0 && s.sc == 0

/-- A status whose Do Not Retry bit the spec does not give (log entry 29). -/
def stat (sct sc : Nat) : Status := ⟨sct, sc, Config.dnr sct sc⟩

def Status.invalidOpcode : Status := stat 0 0x01
def Status.invalidField : Status := stat 0 0x02
def Status.internalError : Status := ⟨0, 0x06, false⟩
def Status.dataTransfer : Status := ⟨0, 0x04, false⟩
def Status.abortRequested : Status := stat 0 0x07
def Status.sqDeletion : Status := stat 0 0x08
def Status.invalidNs : Status := stat 0 0x0B
def Status.sequenceError : Status := stat 0 0x0C
def Status.sanitizing : Status := stat 0 0x1D
def Status.lbaRange : Status := stat 0 0x80
def Status.frozen : Status := ⟨7, 0x88, false⟩

/-- The status as CQE DW3 bits 31:17 (R85). -/
def Status.code (s : Status) : Nat := b2n s.dnr * 2 ^ 14 + s.sct * 2 ^ 8 + s.sc

/-! ## Tables -/

/-- The key of a queue. -/
def qKey (inst qid : Nat) : Nat := 512 * inst + qid

def Qce.inst? (q : Qce) (i : Nat) : Option Inst := Tab.get? q.insts i
def Qce.sq? (q : Qce) (i qid : Nat) : Option Sq := Tab.get? q.sqs (qKey i qid)
def Qce.cq? (q : Qce) (i qid : Nat) : Option Cq := Tab.get? q.cqs (qKey i qid)
def Qce.ctx? (q : Qce) (c : Nat) : Option Ctx := Tab.get? q.ctxs c
def Qce.updInst (q : Qce) (i : Nat) (f : Inst → Inst) : Qce := { q with insts := Tab.upd q.insts i f }
def Qce.updSq (q : Qce) (i qid : Nat) (f : Sq → Sq) : Qce := { q with sqs := Tab.upd q.sqs (qKey i qid) f }
def Qce.updCq (q : Qce) (i qid : Nat) (f : Cq → Cq) : Qce := { q with cqs := Tab.upd q.cqs (qKey i qid) f }
def Qce.updCtx (q : Qce) (c : Nat) (f : Ctx → Ctx) : Qce := { q with ctxs := Tab.upd q.ctxs c f }

/-- A context that is neither COMPLETING nor CANCELLED. -/
def Ctx.open' (c : Ctx) : Bool := c.state != .completing && c.state != .cancelled

/-- Contexts of an SQ. -/
def Ctx.ofSq (c : Ctx) (inst sqid : Nat) : Bool := c.inst == inst && c.sqid == sqid && !c.side && !c.detached

/-- The commands of an SQ in SQ order. -/
def Qce.inSq (q : Qce) (inst sqid : Nat) : List (Nat × Ctx) :=
  (q.ctxs.filter fun e => e.2.ofSq inst sqid).foldr (insertBy fun a b => decide (a.2.order ≤ b.2.order)) []

/-! ## The context pool (R83, R84) -/

def Qce.rsvadm (q : Qce) : Nat := q.regs.fld .qceCtxcfg 7 4
def Qce.rsvio (q : Qce) : Nat := q.regs.fld .qceCtxcfg 13 8
def Qce.shmax (q : Qce) : Nat := q.regs.fld .qceCtxcfg 23 16

/-- Contexts of an SQ beyond what its reserve gave. -/
def Qce.sqShared (q : Qce) (key : Nat) (s : Sq) : Nat :=
  (q.ctxs.filter fun e => e.2.ofSq (key / 512) (key % 512)).length + s.heldRes + s.heldSh - (s.reserveMax - s.reserve)

/-- Shared contexts that an instance holds. -/
def Qce.instShared (q : Qce) (inst : Nat) : Nat := ((q.sqs.filter fun e => e.1 / 512 == inst).map fun e => q.sqShared e.1 e.2).sum

/-- Contexts free in the shared pool: what neither a reserve nor a command holds. -/
def Qce.shFree (q : Qce) : Nat :=
  let admins := (q.sqs.filter fun e => e.1 % 512 == 0).length
  let reserves := (q.sqs.map fun e => e.2.reserveMax).sum + (2048 - admins) * q.rsvadm
  let loose := (q.ctxs.filter fun e => e.2.side || e.2.detached || !(Tab.has q.sqs (qKey e.2.inst e.2.sqid))).length
  1048576 - reserves - (q.sqs.map fun e => q.sqShared e.1 e.2).sum - loose

/-- SHEMPTY is set when the shared pool has run empty. -/
def Qce.noteEmpty (q : Qce) : Qce := if q.shFree = 0 then { q with regs := q.regs.setFld .qceCtxstat 31 31 1 } else q

/-- Contexts that an SQ can obtain. -/
def Qce.obtainable (q : Qce) (inst qid : Nat) : Nat :=
  match q.sq? inst qid with
  | some s => s.reserve + min q.shFree (q.shmax * 1024 - q.instShared inst)
  | none => 0

/-- Holds `n` contexts for an SQ: from its reserve first. -/
def Qce.hold (q : Qce) (inst qid n : Nat) : Qce :=
  match q.sq? inst qid with
  | some s =>
    let r := min n s.reserve
    (q.updSq inst qid fun s => { s with reserve := s.reserve - r, heldRes := s.heldRes + r, heldSh := s.heldSh + (n - r) }).noteEmpty
  | none => q

/-- One context is released to an SQ's reserve, or to the shared pool. -/
def Qce.giveBack (q : Qce) (inst qid : Nat) : Qce := q.updSq inst qid fun s => { s with reserve := min s.reserveMax (s.reserve + 1) }

/-- The lowest free context index (DESIGN CHOICE, log entry 39). -/
def Qce.freeCtx (q : Qce) : Nat := (Tab.firstFree q.ctxs 0 (q.ctxs.length + 1)).getD 0

/-! ## The choice of the next SQ (R79, R80) -/

/-- Entries from the head that are neither fetched nor in an outstanding read. -/
def Sq.waitingEntries (s : Sq) : Nat := (s.tail + s.size - s.head) % s.size - s.reads.sum

/-- What one fetch read may take: to the tail, to the end of the queue memory, at most the burst. -/
def Sq.readable (s : Sq) (burst : Nat) : Nat := min burst (min s.waitingEntries (s.size - (s.head + s.reads.sum) % s.size))

/-- The value of a feature, or its default. -/
def Inst.feature (i : Inst) (fid dflt : Nat) : Nat := Tab.getD i.features fid dflt

/-- Arbitration Burst: 0b111 until a host sets another (R79). -/
def Inst.burst (i : Inst) : Nat := min 8 (2 ^ (i.feature 1 7 % 8))

/-- Fetch runs for an instance: READY, CSTS.RDY set, no shutdown notification (R78, R107, R159). -/
def Inst.fetches (i : Inst) : Bool := i.state = .ready && i.rdy && i.shst == 0

/-- Fetch reads outstanding in the device. -/
def Qce.readsOut (q : Qce) : Nat := (q.sqs.map fun e => e.2.reads.length).sum

/-- Whether an SQ has something to fetch: entries of a memory queue, or capsules held by its port (R81). -/
def Qce.fetchable (q : Qce) (key : Nat) (s : Sq) : Bool :=
  match q.inst? (key / 512) with
  | some i =>
    i.fetches && s.frozen.isNone && !s.deleting && decide (0 < q.obtainable (key / 512) (key % 512))
      && (if i.eth then !s.capsules.isEmpty
          else decide (s.reads.length < 4 ∧ 0 < s.readable i.burst) && decide (q.readsOut < 2048))
  | none => false

/-- Instances with an SQ to fetch from, in rotation order from where the rotation stands. -/
def Qce.rotation (q : Qce) : List Nat :=
  let xs := distinct ((q.sqs.filter fun e => q.fetchable e.1 e.2).map fun e => e.1 / 512)
  (xs.filter fun i => decide (q.lastInst ≤ i)) ++ xs.filter fun i => decide (i < q.lastInst)

/-- An entry costs 64 of an instance's deficit; each visit of the rotation adds the weight (DESIGN CHOICE, log entry 38). -/
def fetchCost : Nat := 64

/-- Visits that an instance needs before its deficit pays for an entry. -/
def visits (d : Int) (w : Nat) : Nat := if (fetchCost : Int) ≤ d then 0 else ceilDiv ((fetchCost : Int) - d).toNat (max 1 w)

/-- The instance whose turn it is, with the deficits as the rotation leaves them; an instance with nothing to fetch keeps no more than what it
has taken in advance. -/
def Qce.turn (q : Qce) (weight : Nat → Nat) : Option (Nat × Tab Int) :=
  let xs := q.rotation
  match leastBy (fun i => visits (Tab.getD q.deficit i 0) (weight i)) xs with
  | none => none
  | some i =>
    let v := visits (Tab.getD q.deficit i 0) (weight i)
    let before := xs.takeWhile (· ≠ i)
    some (i, xs.foldl (fun (t : Tab Int) j =>
      Tab.set t j (Tab.getD q.deficit j 0 + (((v + if before.contains j then 1 else 0) * weight j : Nat) : Int)))
      (Tab.keep q.deficit fun _ d => decide (d < 0)))

/-- The class of an SQ under weighted round robin: 0 urgent, 1 high, 2 medium, 3 low; the admin SQ is urgent. -/
def Sq.wrrClass (s : Sq) (qid : Nat) : Nat := if qid = 0 then 0 else s.prio

/-- The weight of a class: HPW, MPW and LPW of the Arbitration feature, 0-based. -/
def Inst.classWeight (i : Inst) (cl : Nat) : Nat :=
  let v := i.feature 1 7
  (if cl = 1 then natBits v 31 24 else if cl = 2 then natBits v 23 16 else natBits v 15 8) + 1

/-- The next queue after the last one served, in rising order. -/
def nextAfter (last : Nat) (xs : List Nat) : Option Nat :=
  match xs.filter fun x => decide (last < x) with
  | x :: _ => some x
  | [] => xs.head?

/-- The SQ of an instance that is fetched from next: round robin, or weighted round robin when the host selects it, round robin within each class
(R79). The other parts are the key of its round robin and the credits left in the round. -/
def Qce.sqTurn (q : Qce) (inst : Nat) (i : Inst) : Option (Nat × Nat × Tab Nat) :=
  let xs := (q.sqs.filter fun e => e.1 / 512 == inst && q.fetchable e.1 e.2).map fun e => (e.1 % 512, e.2)
  let next := fun cl (ks : List Nat) (t : Tab Nat) => (nextAfter (Tab.getD q.lastSq (8 * inst + cl) 511) ks).map fun k => (k, 8 * inst + cl, t)
  if natBits i.cc 13 11 = 1 then
    let ofClass := fun cl => (xs.filter fun e => e.2.wrrClass e.1 == cl).map Prod.fst
    match next 0 (ofClass 0) q.credits with
    | some r => some r
    | none =>
      let credit := fun (t : Tab Nat) cl => Tab.getD t (4 * inst + cl) 0
      let cls := [1, 2, 3].filter fun cl => !(ofClass cl).isEmpty
      let full := [1, 2, 3].foldl (fun (t : Tab Nat) cl => Tab.set t (4 * inst + cl) (i.classWeight cl)) q.credits
      let t := if cls.any fun cl => decide (0 < credit q.credits cl) then q.credits else full
      match cls.find? fun cl => decide (0 < credit t cl) with
      | some cl => next cl (ofClass cl) (Tab.set t (4 * inst + cl) (credit t cl - 1))
      | none => none
  else next 4 (xs.map Prod.fst) q.credits

/-- SQ_FETCH_ISSUE: the chosen SQ's fetch read, or a capsule given its context, with contexts held (R79 to R83). -/
def Qce.issueFetch (q : Qce) (weight : Nat → Nat) : Qce :=
  match q.turn weight with
  | none => q
  | some (inst, deficit) =>
    match q.inst? inst with
    | none => q
    | some i =>
      match q.sqTurn inst i with
      | none => q
      | some (qid, place, credits) =>
        match q.sq? inst qid with
        | none => q
        | some s =>
          let n := if i.eth then min (min i.burst s.capsules.length) (q.obtainable inst qid)
            else min (s.readable i.burst) (q.obtainable inst qid)
          let d : Int := Tab.getD deficit inst 0 - (fetchCost * n : Nat)
          let g := (q.hold inst qid n).updSq inst qid fun s =>
            if i.eth then { s with capsules := s.capsules.drop n, heldBytes := s.heldBytes ++ s.capsules.take n }
            else { s with reads := s.reads ++ [n] }
          { g with
            deficit := Tab.set deficit inst d, lastInst := if d < (fetchCost : Int) then inst + 1 else inst
            lastSq := Tab.set g.lastSq place qid, credits := credits }

/-- The oldest outstanding read has given one entry. -/
def arrived : List Nat → List Nat
  | [] => []
  | n :: rest => if n ≤ 1 then rest else (n - 1) :: rest

/-- One entry of an SQ is taken: its held context, its place in the queue. Answers the bytes its capsule held. -/
def Sq.take (s : Sq) (eth : Bool) : Sq × Nat :=
  let held : Sq := if 0 < s.heldRes then { s with heldRes := s.heldRes - 1 } else { s with heldSh := s.heldSh - 1 }
  let next : Sq := { held with nextOrder := s.nextOrder + 1, head := if s.size = 0 then 0 else (s.head + 1) % s.size }
  if eth then ({ next with heldBytes := s.heldBytes.drop 1 }, s.heldBytes.headD 0)
  else ({ next with reads := arrived s.reads, retried := if s.reads.headD 0 ≤ 1 then false else s.retried }, 0)

/-- Drops what an SQ's outstanding reads would bring: their contexts are released. -/
def Sq.dropReads (s : Sq) : Sq :=
  { s with reserve := min s.reserveMax (s.reserve + s.heldRes + s.heldSh), heldRes := 0, heldSh := 0, reads := [], retried := false }

/-! ## Range locks (R113 to R119) -/

/-- The span from the lowest to the highest block of some spans. -/
def hull (xs : List Span) : Option Span :=
  match xs.filter fun s => s.len != 0 with
  | [] => none
  | s :: rest =>
    let lo := rest.foldl (fun m x => min m x.lo) s.lo
    let hi := rest.foldl (fun m x => max m (x.lo + x.len)) (s.lo + s.len)
    some ⟨lo, hi - lo⟩

/-- Two spans share a block. -/
def Span.meets (a b : Span) : Bool := decide (a.lo < b.lo + b.len ∧ b.lo < a.lo + a.len)

/-- The spans that a command reads, each with its namespace. -/
def Ctx.reads (c : Ctx) : List (Nat × Span) :=
  match c.nsx with
  | none => []
  | some nsx => c.rds.map fun s => if s.lo < 2 ^ 48 then (nsx, s) else (s.lo / 2 ^ 48 - 1, ⟨s.lo % 2 ^ 48, s.len⟩)

/-- Every block of a namespace. -/
def wholeNs : Span := ⟨0, 2 ^ 64⟩

/-- The spans that a command changes, each with its namespace; an admin command may name whole namespaces (R108, R113). -/
def Ctx.targets (c : Ctx) : List (Nat × Span) :=
  (match c.nsx with | some nsx => c.mods.map fun s => (nsx, s) | none => []) ++ if c.kind == .admin then c.nss.map fun k => (k, wholeNs) else []

/-- The spans of the entries that a command holds: one for its namespace, or one for each namespace that an admin command names (R113). -/
def Ctx.lockSpans (c : Ctx) : List (Nat × Span) :=
  (match c.nsx, hull c.mods with | some nsx, some s => [(nsx, s)] | _, _ => []) ++ if c.kind == .admin then c.nss.map fun k => (k, wholeNs) else []

/-- The spans that a command names, each with its namespace. -/
def Ctx.spans (c : Ctx) : List (Nat × Span) := c.targets ++ c.reads

def Lock.span (l : Lock) : Span := ⟨l.lo, l.len⟩

/-- An entry held by a command with a lower FSN overlaps the command's range, or a command that waits for a free entry stands before
it in its namespace (R115, R119). -/
def Qce.blocked (q : Qce) (c : Ctx) : Bool :=
  (q.locks.any fun e => fsnBefore e.2.fsn c.fsn && c.spans.any fun s => e.2.nsx == s.1 && e.2.span.meets s.2)
    || q.ctxs.any fun e =>
      e.2.rlWait && fsnBefore e.2.fsn c.fsn
        && e.2.lockSpans.any fun a => c.nsx == some a.1 || c.kind == .flush && c.nss.contains a.1 || c.spans.any fun b => b.1 == a.1

/-- An overlapping reading command with a lower FSN has not yet left TRANSLATE (R116). -/
def Qce.readBefore (q : Qce) (c : Ctx) : Bool :=
  q.ctxs.any fun e =>
    e.2.kind.reads && fsnBefore e.2.fsn c.fsn
      && [CtxState.fetched, .lockwait, .admitwait, .translate].contains e.2.state
      && e.2.reads.any fun r => c.targets.any fun m => r.1 == m.1 && r.2.meets m.2

/-- Puts entries into the lowest free places of the table; answers the first of them. -/
def Qce.putLocks (q : Qce) (fsn c : Nat) (ss : List (Nat × Span)) : Qce :=
  ss.foldl (fun (g : Qce) s =>
    let k := (Tab.firstFree g.locks 0 (g.locks.length + 1)).getD 0
    { g with locks := Tab.set g.locks k ⟨s.1, s.2.lo, s.2.len, fsn, c⟩ }) q

/-- The modifying command with the earliest FSN that waits for an entry. -/
def Qce.firstWaiter (q : Qce) : Option Nat :=
  (firstFsn (fun e : Nat × Ctx => e.2.fsn) (q.ctxs.filter fun e => e.2.rlWait)).map Prod.fst

/-- Takes the free entries of a modifying command; without them, or while an earlier command waits for one, the command waits in FETCHED
(R119). -/
def Qce.takeLock (q : Qce) (c : Nat) : Qce :=
  match q.ctx? c with
  | none => q
  | some x =>
    let ss := x.lockSpans
    if ss.isEmpty then q
    else if q.locks.length + ss.length ≤ 262144 ∧ !(q.ctxs.any fun e => e.2.rlWait && fsnBefore e.2.fsn x.fsn) then
      let k := (Tab.firstFree q.locks 0 (q.locks.length + 1)).getD 0
      (q.putLocks x.fsn c ss).updCtx c fun x => { x with rlidx := some k, rlWait := false }
    else
      let g : Qce := { q with regs := q.regs.setFld .qceRlstat 31 31 1 }
      g.updCtx c fun x => { x with rlWait := true }

/-- Releases the entries of a context (R114). -/
def Qce.dropLocks (q : Qce) (c : Nat) : Qce :=
  let g : Qce := { q with locks := Tab.keep q.locks fun _ l => l.ctx != c }
  g.updCtx c fun x => { x with rlidx := none, rlWait := false }

/-! ## Ordered queues (R99 to R104) -/

/-- A command of an ordered SQ has reached its commit point (R99). -/
def Ctx.committed (c : Ctx) : Bool := c.recorded || c.state == .completing

/-- Every command ahead of a context in its SQ has reached its commit point (R101). -/
def Qce.predsCommitted (q : Qce) (c : Ctx) : Bool :=
  q.ctxs.all fun e => !(e.2.ofSq c.inst c.sqid) || decide (c.order ≤ e.2.order) || e.2.committed

/-- Sets a context COMPLETING with a status. -/
def Qce.setDone (q : Qce) (c : Nat) (st : Status) : Qce :=
  let g := q.dropLocks c
  let h : Qce := { g with doneSeq := g.doneSeq + 1 }
  h.updCtx c fun x => { x with state := .completing, status := st, doneSeq := g.doneSeq + 1 }

/-- Freezes an ordered SQ behind a failed command: every later command of the SQ is discarded and the freeze is logged (R102,
R104). `ms` is the instance's Timestamp. Answers the discarded contexts. -/
def Qce.freeze (q : Qce) (ms c : Nat) (x : Ctx) : Qce × List Nat :=
  let later := (q.inSq x.inst x.sqid).filter fun e => decide (x.order < e.2.order) && e.2.open'
  let cids := later.map fun e => e.2.sqe.cid
  let g := later.foldl (fun (g : Qce) e => g.setDone e.1 .frozen) q
  let g := g.updSq x.inst x.sqid fun s =>
    { s.dropReads with
      frozen := some ⟨x.sqe.cid, x.status.code, x.fsn, s.head, later.length, cids.headD 0xFFFF, cids.getLastD 0xFFFF,
        (x.nsx.map (· + 1)).getD 0, x.slba, ms, x.order⟩ }
  let g := g.updInst x.inst fun i => { i with frozen := i.frozen ++ [x.sqid], freezes := i.freezes + 1 }
  (g, if (q.ctx? c).isSome then later.map Prod.fst else [])

/-- The instance's Timestamp in ms: as Set Features 0x0E set it, else from 0 at reset (R528). -/
def Inst.stampMs (i : Inst) (now : Nat) : Nat :=
  match i.stamp with
  | some (v, t) => v + (now - t) / 10000
  | none => (now - i.resetAt) / 10000

/-- A command ends with a status (R88): COMPLETING; a failure in an ordered SQ freezes it, unless it is frozen (R102). Answers the
contexts that the freeze discarded. -/
def Qce.finish (q : Qce) (now c : Nat) (st : Status) : Qce × List Nat :=
  match q.ctx? c with
  | none => (q, [])
  | some x =>
    if !x.open' then (q, [])
    else
      let g := q.setDone c st
      match q.sq? x.inst x.sqid, q.inst? x.inst with
      | some s, some i =>
        if x.ord && !st.isOk && s.frozen.isNone && !x.side then g.freeze (i.stampMs now) c { x with status := st } else (g, [])
      | _, _ => (g, [])

/-! ## Posting (R89, R90, R101) -/

/-- A context may be posted: COMPLETING, nothing ahead of it in an ordered SQ, nothing that must be posted first (R98). -/
def Qce.mayPost (q : Qce) (x : Ctx) : Bool :=
  x.state == .completing && !x.detached
    && (!x.ord || q.ctxs.all fun e => !(e.2.ofSq x.inst x.sqid) || decide (x.order ≤ e.2.order))
    && x.after.all fun a => !(Tab.has q.ctxs a)

/-- The next context of a CQ: in the order in which contexts reached COMPLETING. -/
def Qce.nextToPost (q : Qce) (inst cqid : Nat) : Option (Nat × Ctx) :=
  leastBy (fun e : Nat × Ctx => e.2.doneSeq) (q.ctxs.filter fun e =>
    e.2.inst == inst && !e.2.side && ((q.sq? inst e.2.sqid).map (·.cq)) == some cqid && q.mayPost e.2)

/-- A CQ has a free slot; a queue without a size, as on Ethernet, always has one. -/
def Cq.hasRoom (c : Cq) : Bool := c.size == 0 || (c.tail + 1) % c.size != c.head

/-- The CQ with one more entry. -/
def Cq.push (c : Cq) : Cq :=
  if c.size = 0 then c else { c with tail := (c.tail + 1) % c.size, phase := if c.tail + 1 = c.size then !c.phase else c.phase }

/-! ## Interrupts (R91, R92) -/

/-- Coalescing of a vector: threshold in entries and time in 100 ns units; none where each entry is signalled at once. -/
def Inst.coalesce (i : Inst) (v : Vector') : Option (Nat × Nat) :=
  if v.cd then none
  else
    match v.fine with
    | some (thr, us) => if us = 0 then none else some (thr + 1, us * 10)
    | none =>
      let w := i.feature 8 0
      if natBits w 15 8 = 0 then none else some (natBits w 7 0 + 1, natBits w 15 8 * 1000)

/-- A vector after a reset of its function: masked, as the PCIe base specification resets the mask bit (PRESUMED, log entry 42). -/
def Vector'.fresh : Vector' := ⟨true, false, 0, 0, false, none⟩

/-- Interrupts of a function after its reset: neither kind is enabled, as the PCIe base specification has it (PRESUMED, log entry 42). -/
def Irq.fresh : Irq := ⟨false, false, false, 0⟩

/-- Whether a function's messages go out, and whether a vector's is held back: by its own mask or the function's with MSI-X, by bit 0 of INTM with
the single message of MSI, which a physical function has and which serves every vector (R91, R494). -/
def Inst.sends (i : Inst) : Bool := i.irq.msix || (i.pf && i.irq.msi)
def Inst.holdsBack (i : Inst) (v : Vector') : Bool := if i.irq.msix then v.masked || i.irq.fmask else i.irq.intm % 2 == 1
/-- The number of a vector's message. -/
def Inst.message (i : Inst) (vec : Nat) : Nat := if i.irq.msix then vec else 0

/-- A vector signals: at once, or it stays pending while masked (R91). The flag says that a message is sent. -/
def Inst.signal (i : Inst) (v : Vector') : Vector' × Bool :=
  if !i.sends then ({ v with unsignalled := 0 }, false)
  else if i.holdsBack v then ({ v with pending := true, unsignalled := 0 }, false)
  else ({ v with unsignalled := 0 }, true)

/-- Messages that were pending and are not held back any longer are sent: the instance, and the numbers of the messages (R91). -/
def Inst.release (i : Inst) : Inst × List Nat :=
  let go := fun (v : Vector') => i.sends && v.pending && !i.holdsBack v
  ({ i with vectors := Tab.mapVals i.vectors fun _ v => if go v then { v with pending := false } else v },
   ((Tab.keysWhere i.vectors fun _ v => go v).map i.message).dedup)

/-- An entry was posted to a CQ of a vector: signalled at once, or counted for coalescing (R92). -/
def Inst.posted (i : Inst) (now vec : Nat) (admin bad : Bool) : Inst × Bool :=
  let v := Tab.getD i.vectors vec Vector'.fresh
  let v : Vector' := { v with unsignalled := v.unsignalled + 1, firstAt := if v.unsignalled = 0 then now else v.firstAt }
  let r := match i.coalesce v with
    | none => i.signal v
    | some (thr, t) => if admin || bad || decide (thr ≤ v.unsignalled) || decide (v.firstAt + t ≤ now) then i.signal v else (v, false)
  ({ i with vectors := Tab.set i.vectors vec r.1 }, r.2)

/-! ## Asynchronous events (R93, R96) -/

/-- The enable bit of a notice in Asynchronous Event Configuration; vendor and Error events have none (R96), and a SMART / Health event is
raised only where its Critical Warning bit is enabled. -/
def AsyncEvent.enabled (e : AsyncEvent) (cfg : Nat) : Bool :=
  match e.etype with
  | 2 => match e.info with
    | 0x00 => natBits cfg 8 8 == 1
    | 0x01 => natBits cfg 9 9 == 1
    | 0x02 => natBits cfg 10 10 == 1
    | 0x03 => natBits cfg 11 11 == 1
    | 0x05 => natBits cfg 13 13 == 1
    | 0xEF => natBits cfg 27 27 == 1
    | _ => true
  | _ => true

/-- Completion DW0 of an Asynchronous Event Request. -/
def AsyncEvent.dw0 (e : AsyncEvent) : Nat := e.etype + e.info * 256 + e.page * 65536

/-- An event of the same type and page has been reported and its page not yet read. -/
def Inst.masks (i : Inst) (e : AsyncEvent) : Bool := i.reported.any fun r => r.etype == e.etype && r.page == e.page

/-- The first event that may be reported, and the rest. -/
def Inst.nextEvent (i : Inst) : List AsyncEvent → Option (AsyncEvent × List AsyncEvent)
  | [] => none
  | e :: rest => if i.masks e then (i.nextEvent rest).map fun r => (r.1, e :: r.2) else some (e, rest)

/-- Reports waiting events to outstanding requests, oldest first. -/
def Qce.tellEvents (q : Qce) (inst : Nat) : Nat → Qce
  | 0 => q
  | fuel + 1 =>
    match q.inst? inst with
    | none => q
    | some i =>
      match i.aers, i.nextEvent i.events with
      | c :: rest, some (e, es) =>
        let g := (q.setDone c .success).updCtx c fun x => { x with dw0 := e.dw0 }
        (g.updInst inst fun i => { i with aers := rest, events := es, reported := e :: i.reported }).tellEvents inst fuel
      | _, _ => q

/-- An event is raised for an instance: one that waits already is not raised twice. -/
def Qce.raise (q : Qce) (inst : Nat) (e : AsyncEvent) : Qce :=
  match q.inst? inst with
  | some i =>
    if i.state = .ready && e.enabled (i.feature 0x0B 0) && !i.events.contains e then
      (q.updInst inst fun i => { i with events := i.events ++ [e] }).tellEvents inst 16
    else q
  | none => q

/-- An event is raised for every instance. -/
def Qce.raiseAll (q : Qce) (e : AsyncEvent) : Qce := (q.insts.map Prod.fst).foldl (fun (g : Qce) i => g.raise i e) q

/-- A read of a log page without Retain clears its events; waiting ones are reported (R93). -/
def Qce.pageRead (q : Qce) (inst page : Nat) : Qce :=
  (q.updInst inst fun i => { i with reported := i.reported.filter fun r => r.page != page }).tellEvents inst 16

/-! ## Register views -/

/-- Reads of QCE's registers. -/
def Qce.view (q : Qce) (r : Reg) : W32 :=
  match r with
  | .qceCtxstat => (q.regs.get r).setBits 20 0 q.shFree
  | .qceRlstat => (q.regs.get r).setBits 18 0 (262144 - q.locks.length)
  | .qceRlwait => (q.regs.get r).setBits 19 0 (q.ctxs.filter fun e => e.2.rlWait).length
  | _ => q.regs.get r

end Sys2Proof.Machine
end

