-- ==== Sys2Proof/Machine/Hfu.lean ====
section
/-! DEFINITION. What HFU does by itself: lane groups and ports (R35 to R42), link-downs (R55), flow control (R47), congestion
(R52), reservations (R58 to R60) and leases (R61 to R71). -/

namespace Sys2Proof.Machine

/-! ### Lane groups -/

/-- Ports of a lane-group mode: how many, the protocol and the lanes of each (R35). PCIe x16 counts with LG0. -/
def modePorts (mode : Nat) : List (Proto × Nat) :=
  match mode with
  | 1 => [(.pcie, 8)]
  | 2 => [(.pcie, 4), (.pcie, 4)]
  | 3 => [(.pcie, 16)]
  | 4 => [(.eth, 8)]
  | 5 => [(.eth, 4), (.eth, 4)]
  | 6 => [(.eth, 2), (.eth, 2), (.eth, 2), (.eth, 2)]
  | _ => []

/-- The error that a group's mode has by itself or beside the other group's (codes 1 to 3 of R37). `other` is none where the
other group does not train. -/
def modeErr (s0 : Bool) (mode : Nat) (other : Option Nat) : Nat :=
  if mode = 7 then 1
  else if s0 && decide (4 ≤ mode ∧ mode ≤ 6) then 2
  else if mode = 3 ∧ other ≠ some 3 then 3
  else 0

/-- Lane groups as settled: the LGnERR codes and, in order of port number, each port's group, protocol and lanes. -/
structure LaneEval where
  err0 : Nat
  err1 : Nat
  ports : List (Nat × Proto × Nat)
  deriving DecidableEq, Repr

/-- The ports of two groups' modes in lane order (R36); none stands for a group that does not train. -/
def portsOf (m0 m1 : Option Nat) : List (Nat × Proto × Nat) :=
  let p0 := (modePorts (m0.getD 0)).map fun p => (0, p.1, p.2)
  if m0 = some 3 then p0 else p0 ++ (modePorts (m1.getD 0)).map fun p => (1, p.1, p.2)

/-- The port, the higher-numbered of a pair, whose instance range breaks condition 5 of R37. `range` gives BASE and COUNT by
port number. -/
def badRange (range : Nat → Nat × Nat) (n : Nat) : Option Nat :=
  (List.range n).find? fun j =>
    decide (2048 < (range j).1 + (range j).2) ||
      (List.range j).any fun i =>
        decide ((range i).1 < (range j).1 + (range j).2 ∧ (range j).1 < (range i).1 + (range i).2 ∧ 0 < (range i).2 ∧ 0 < (range j).2)

/-- Settles the lane groups (R36, R37): `en` and mode of each group, `s0` for an HXV-8160-S0. A group held in reset gives its port numbers up, so
the ranges are judged again for the ports that are left. -/
def evalLanes (s0 en0 en1 : Bool) (mode0 mode1 : Nat) (range : Nat → Nat × Nat) : LaneEval :=
  let o0 := if en0 then some mode0 else none
  let o1 := if en1 then some mode1 else none
  let e0 := if en0 then modeErr s0 mode0 o1 else 0
  let e1 := if en1 then modeErr s0 mode1 o0 else 0
  let a0 := if e0 = 0 then o0 else none
  let a1 := if e1 = 0 then o1 else none
  let ps := portsOf a0 a1
  let e1 := if 4 < ps.length ∧ a0 ≠ some 3 then 4 else e1
  let a1 := if e1 = 0 then a1 else none
  let ps := portsOf a0 a1
  match badRange range ps.length with
  | none => ⟨e0, e1, ps⟩
  | some j =>
    if a0 = some 3 then ⟨5, 5, []⟩
    else
      match ps[j]? with
      | some (0, _, _) =>
        match badRange range (portsOf none a1).length with
        | none => ⟨5, e1, portsOf none a1⟩
        | some _ => ⟨5, 5, []⟩
      | _ => ⟨e0, 5, portsOf a0 none⟩

/-- The instance ranges at power-on (R40): 2,048 split equally in port order, larger parts first. -/
def splitRange (n j : Nat) : Nat × Nat :=
  if n ≤ j then (0, 0)
  else
    let q := 2048 / n
    let r := 2048 % n
    (q * j + min j r, q + if j < r then 1 else 0)

/-- SPEED of an Ethernet port by its lanes. -/
def ethSpeed (lanes : Nat) : Nat :=
  match lanes with
  | 2 => 8 | 4 => 9 | _ => 10

/-- A port that begins to train; `perst`: since when the PERST of its group is deasserted, if it is (R38, R44). -/
def Port.start (group : Nat) (proto : Proto) (lanes : Nat) (perst : Option Nat) : Port :=
  ⟨group, proto, lanes, if proto = .eth ∨ perst.isSome then .training else .down, 0, 0, perst.isSome, perst.getD 0, 0, false, [], [], 0⟩

/-- BASE and COUNT of a port. -/
def Hfu.range (h : Hfu) (n : Nat) : Nat × Nat := (h.regs.fld (.hfuInstcfg n) 10 0, h.regs.fld (.hfuInstcfg n) 27 16)

/-- The port that owns an instance. -/
def Hfu.portOf (h : Hfu) (inst : Nat) : Option Nat :=
  (h.ports.find? fun p => decide ((h.range p.1).1 ≤ inst ∧ inst < (h.range p.1).1 + (h.range p.1).2)).map Prod.fst

/-- The reports of groups that a check holds in reset (R37, R39, R444): every group in `again`, which was just enabled, and the other where its code
is new. -/
def laneReports (again : List Nat) (old new : LaneEval) : List Report :=
  (if new.err0 ≠ 0 ∧ (again.contains 0 ∨ new.err0 ≠ old.err0) then [mkReport 0x01 0x01 15 0 new.err0 0 0] else [])
    ++ (if new.err1 ≠ 0 ∧ (again.contains 1 ∨ new.err1 ≠ old.err1) then [mkReport 0x01 0x01 15 1 new.err1 0 0] else [])

/-- The lane groups evaluated from HFU_LGCFG and the instance ranges. -/
def Hfu.eval (h : Hfu) (s0 : Bool) : LaneEval :=
  let c := h.regs.get .hfuLgcfg
  evalLanes s0 (c.bits 4 4 == 1) (c.bits 12 12 == 1) (c.bits 2 0) (c.bits 10 8) h.range

/-- The settled groups in force: their ports start where they were not running before; LGnERR shows the codes. -/
def Hfu.applyLanes (h : Hfu) (e : LaneEval) : Hfu :=
  let start := fun (p : Nat × Proto × Nat) => Port.start p.1 p.2.1 p.2.2 (Tab.get? h.perst p.1)
  let keep (n : Nat) (p : Nat × Proto × Nat) : Port :=
    match Tab.get? h.ports n with
    | some q => if q.group = p.1 ∧ q.proto = p.2.1 ∧ q.lanes = p.2.2 then q else start p
    | none => start p
  { h with ports := e.ports.zipIdx.map fun x => (x.2, keep x.2 x.1),
           regs := (h.regs.setFld .hfuLgcfg 7 5 e.err0).setFld .hfuLgcfg 15 13 e.err1 }

/-- A link-down of a port (R55): DOWNCNT and DOWNEV, a D-class fault with HFU code 0x03. `next` is the state it takes. -/
def Hfu.linkDown (h : Hfu) (n : Nat) (next : LinkState) : Hfu × List Report :=
  let regs := (h.regs.satFld (.hfuLinkstat n) 7 0 1).setFld (.hfuLinkstat n) 13 13 1
  ({ h with regs := regs, ports := Tab.upd h.ports n fun p => { p with state := next, speed := 0, width := 0, paused := [] } },
   [mkReport 0x01 0x03 4 n (regs.fld (.hfuLinkstat n) 7 0) 0 0])

/-- What a PCIe port of some lanes can train to: 2.5 to 128 GT/s, coded 1 to 7, at x16, x8, x4, x2 or x1 (R43). -/
def pcieTrains (lanes speed width : Nat) : Bool := decide (1 ≤ speed ∧ speed ≤ 7 ∧ width ≤ lanes) && [1, 2, 4, 8, 16].contains width

/-- A port reports its trained speed and width; `best` is the highest rate both ends support (R54). A PCIe link that is up takes part in a
retraining that the downstream port starts; an Ethernet port trains at its configured speed and width only (R53). -/
def Hfu.linkUp (h : Hfu) (n speed width best : Nat) : Hfu × List Report :=
  match Tab.get? h.ports n with
  | none => (h, [])
  | some p =>
    if p.state = .down ∨ p.state = .up ∧ p.proto = .eth ∨ p.proto = .pcie ∧ !pcieTrains p.lanes speed width then (h, [])
    else
      let sp := if p.proto = .eth then ethSpeed p.lanes else speed
      let wd := if p.proto = .eth then p.lanes else width
      let up : Hfu := { h with ports := Tab.upd h.ports n fun q => { q with state := .up, speed := sp, width := wd } }
      if p.proto = .pcie ∧ (width < p.lanes ∨ speed < best) then
        ({ up with regs := up.regs.setFld (.hfuLinkstat n) 14 14 1 }, [mkReport 0x01 0x02 4 n speed width 0])
      else (up, [])

/-- Counts a correctable or an uncorrectable event of a port (R57). -/
def Hfu.countCorr (h : Hfu) (n : Nat) : Hfu := { h with regs := h.regs.satFld (.hfuErrcnt n) 31 16 1 }
/-- FEC-corrected codewords of an Ethernet port: every 65,536 of them count once (R56). -/
def Hfu.countFec (h : Hfu) (n words : Nat) : Hfu :=
  match Tab.get? h.ports n with
  | none => h
  | some p =>
    { h with
      ports := Tab.set h.ports n { p with fec := (p.fec + words) % 65536 }
      regs := h.regs.satFld (.hfuErrcnt n) 31 16 ((p.fec + words) / 65536) }
def Hfu.countUncorr (h : Hfu) (n : Nat) : Hfu := { h with regs := h.regs.satFld (.hfuErrcnt n) 15 0 1 }

/-- A write to HFU_LEASECFG judged as a whole (R526). -/
def Hfu.writeLeasecfg (h : Hfu) (v : W32) : Hfu :=
  let lo := v.bits 15 0
  let hi := v.bits 31 16
  if 100 ≤ lo ∧ lo ≤ hi ∧ hi ≤ 60000 ∧ !h.regs.bit .hfuLgcfg 31 then { h with regs := h.regs.set .hfuLeasecfg v } else h

/-- A write to an INSTCFG: ignored while the port's group is enabled (R42). A port number that no port holds belongs to no group;
its range is taken (DESIGN CHOICE, log entry 25). COUNT above 2,048 is outside the field's range and is ignored. -/
def Hfu.writeInstcfg (h : Hfu) (n : Nat) (v : W32) : Hfu :=
  let en := match Tab.get? h.ports n with
    | some p => h.regs.bit .hfuLgcfg (if p.group = 0 then 4 else 12)
    | none => false
  if en || h.regs.bit .hfuLgcfg 31 || decide (2048 < v.bits 27 16) then h
  else { h with regs := h.regs.set (.hfuInstcfg n) (Reg.write (.hfuInstcfg n) false (h.regs.get (.hfuInstcfg n)) v) }

/-! ### The receive allotment (R47) -/

def mib : Nat := 1048576

/-- The flow-control frame an allotment change calls for: XOFF above 3 MiB, XON below 2 MiB. -/
inductive Pfc where
  | xoff | xon
  deriving DecidableEq, Repr

/-- The allotment of a port set to a size, with the frame it sends. -/
def Port.setAllot (p : Port) (n : Nat) : Port × Option Pfc :=
  if !p.xoff && decide (3 * mib < n) then ({ p with allot := n, xoff := true }, some .xoff)
  else if p.xoff && decide (n < 2 * mib) then ({ p with allot := n, xoff := false }, some .xon)
  else ({ p with allot := n }, none)

/-- The size of the receive allotment. -/
def allotSize : Nat := 4 * mib

/-! ### Configuration space (R43, R493, R495) -/

/-- Configuration space after a reset of its function: MPS 128 B, MRRS 512 B and the default timeout as the PCIe base specification gives them
(PRESUMED, log entry 42), System Page Size 4 KiB. -/
def FnCfg.fresh : FnCfg := ⟨0, 0, 2, 0, false, 1, 0⟩

/-- The size of VF BAR0: 32 KiB, or the System Page Size where that is larger (R493). -/
def FnCfg.vfBarSize (c : FnCfg) : Nat := max 32768 (4096 * c.sysPage)

/-- A BAR as its low half and its high half read: 64-bit, non-prefetchable memory (R493). -/
def barLow (addr : Nat) : Nat := addr % 2 ^ 32 + 4
def barHigh (addr : Nat) : Nat := addr / 2 ^ 32 % 2 ^ 32

/-- A BAR after a write to one half: the address bits below its size stay 0. -/
def barWrite (addr size : Nat) (high : Bool) (v : Nat) : Nat :=
  if high then v % 2 ^ 32 * 2 ^ 32 + addr % 2 ^ 32 else addr / 2 ^ 32 * 2 ^ 32 + v % 2 ^ 32 / size * size

/-! ### Congestion (R52) -/

/-- The rate of a port in Mbit/s. -/
def portRate (lanes : Nat) : Nat := lanes * 100000

/-- A packet marked ECN-CE: whether a CNP is sent, at most one per 50 µs. -/
def Conn.ce (c : Conn) (now : Nat) : Conn × Bool :=
  match c.cnpSent with
  | none => ({ c with cnpSent := some now }, true)
  | some t => if t + 500 ≤ now then ({ c with cnpSent := some now }, true) else (c, false)

/-- A received CNP halves the rate, with a floor of 1 Gbit/s. -/
def Conn.cnp (c : Conn) (now : Nat) : Conn := { c with rate := max 1000 (c.rate / 2), cnpSeen := some now }

/-- After 50 µs without a notification the rate rises by 10% of the port rate. -/
def Conn.recover (c : Conn) (now full : Nat) : Conn :=
  match c.cnpSeen with
  | none => c
  | some t =>
    if t + 500 ≤ now then
      let r := min full (c.rate + full / 10)
      { c with rate := r, cnpSeen := if r = full then none else some now }
    else c

/-! ### Reservations (R58 to R60; the actions follow the NVMe base specification, log entry 26) -/

/-- A namespace without registrants. -/
def Resv.none' : Resv := ⟨0, 0, none, [], false⟩

/-- Whether a host is registered. -/
def Resv.registered (r : Resv) (host : Nat) : Bool := r.regs.any fun x => x.host == host

/-- The key of a host. -/
def Resv.keyOf (r : Resv) (host : Nat) : Option Nat := (r.regs.find? fun x => x.host == host).map (·.key)

/-- Types held by all registrants. -/
def allRegs (t : Nat) : Bool := t == 5 || t == 6

/-- Whether a host is a holder. -/
def Resv.holds (r : Resv) (host : Nat) : Bool :=
  r.rtype != 0 && (if allRegs r.rtype then r.registered host else r.holder == some host)

/-- Whether a command of a host meets a Reservation Conflict (R59): `write` for commands that modify, else for reads. -/
def Resv.conflict (r : Resv) (host : Nat) (write : Bool) : Bool :=
  if r.rtype = 0 || r.holds host then false
  else
    match r.rtype with
    | 1 => write
    | 2 => true
    | 3 => write && !r.registered host
    | 4 => !r.registered host
    | 5 => write && !r.registered host
    | _ => !r.registered host

/-- The reservation without one registrant; it is released when it goes with its holder. -/
def Resv.dropHost (r : Resv) (host : Nat) : Resv :=
  let regs := r.regs.filter fun x => x.host != host
  if r.holder = some host || (allRegs r.rtype && regs.isEmpty) then
    { r with regs := regs, holder := none, rtype := 0 }
  else { r with regs := regs }

/-- How a reservation command ends. -/
inductive ResvOutcome where
  | ok | conflict | badField
  deriving DecidableEq, Repr

/-- Reservation Register: action 0 register, 1 unregister, 2 replace; `iekey` ignores the existing key. -/
def Resv.register (r : Resv) (host ctrl action crkey nrkey : Nat) (iekey : Bool) : Resv × ResvOutcome :=
  match action with
  | 0 =>
    match r.keyOf host with
    | some k => if k = nrkey then (r, .ok) else (r, .conflict)
    | none => ({ r with regs := r.regs ++ [⟨host, nrkey, ctrl⟩], gen := (r.gen + 1) % 2 ^ 32 }, .ok)
  | 1 =>
    match r.keyOf host with
    | some k => if iekey || k = crkey then ({ r.dropHost host with gen := (r.gen + 1) % 2 ^ 32 }, .ok) else (r, .conflict)
    | none => (r, .conflict)
  | 2 =>
    match r.keyOf host with
    | some k =>
      if iekey || k = crkey then
        ({ r with regs := r.regs.map (fun x => if x.host = host then { x with key := nrkey } else x),
                  gen := (r.gen + 1) % 2 ^ 32 }, .ok)
      else (r, .conflict)
    | none => if iekey then ({ r with regs := r.regs ++ [⟨host, nrkey, ctrl⟩], gen := (r.gen + 1) % 2 ^ 32 }, .ok) else (r, .conflict)
  | _ => (r, .badField)

/-- Reservation Acquire: action 0 acquire, 1 preempt, 2 preempt and abort. Answers the preempted hosts too. -/
def Resv.acquire (r : Resv) (host action rtype crkey prkey : Nat) (iekey : Bool) : Resv × ResvOutcome × List Nat :=
  match r.keyOf host with
  | none => (r, .conflict, [])
  | some k =>
    if !(iekey || k = crkey) then (r, .conflict, [])
    else if rtype = 0 ∨ 6 < rtype then (r, .badField, [])
    else
      match action with
      | 0 =>
        if r.rtype = 0 then ({ r with rtype := rtype, holder := some host }, .ok, [])
        else if r.holds host ∧ r.rtype = rtype then (r, .ok, [])
        else (r, .conflict, [])
      | 1 | 2 =>
        let next : Resv := { r with gen := (r.gen + 1) % 2 ^ 32 }
        if allRegs r.rtype then
          let gone := if prkey = 0 then r.regs.filter fun x => x.host != host else r.regs.filter fun x => x.key == prkey && x.host != host
          let left := r.regs.filter fun x => !(gone.any fun y => y.host == x.host)
          if prkey = 0 then ({ next with regs := left, rtype := rtype, holder := some host }, .ok, gone.map (·.host))
          else if gone.isEmpty then (r, .conflict, [])
          else ({ next with regs := left }, .ok, gone.map (·.host))
        else
          let gone := r.regs.filter fun x => x.key == prkey && x.host != host
          let holderKey := r.holder.bind r.keyOf
          if r.rtype ≠ 0 ∧ holderKey = some prkey then
            ({ next with regs := r.regs.filter (fun x => !(gone.any fun y => y.host == x.host)), rtype := rtype,
                         holder := some host }, .ok, gone.map (·.host))
          else if gone.isEmpty then (r, .conflict, [])
          else ({ next with regs := r.regs.filter fun x => !(gone.any fun y => y.host == x.host) }, .ok, gone.map (·.host))
      | _ => (r, .badField, [])

/-- Reservation Release: action 0 release, 1 clear. -/
def Resv.release (r : Resv) (host action rtype crkey : Nat) (iekey : Bool) : Resv × ResvOutcome :=
  match r.keyOf host with
  | none => (r, .conflict)
  | some k =>
    if !(iekey || k = crkey) then (r, .conflict)
    else
      match action with
      | 0 =>
        if !r.holds host then (r, .ok)
        else if r.rtype ≠ rtype then (r, .badField)
        else ({ r with rtype := 0, holder := none }, .ok)
      | 1 => ({ r with rtype := 0, holder := none, regs := [], gen := (r.gen + 1) % 2 ^ 32 }, .ok)
      | _ => (r, .badField)

/-- Reservation Report data: extended structure where `ext` (R58). -/
def Resv.report (r : Resv) (ext : Bool) : List Byte :=
  let entry (x : Registrant) : List Byte :=
    let holds := leBytes 1 (b2n (r.holds x.host))
    if ext then leBytes 2 x.ctrl ++ holds ++ zeros 5 ++ leBytes 8 x.key ++ leBytes 16 x.host ++ zeros 32
    else leBytes 2 x.ctrl ++ holds ++ zeros 5 ++ leBytes 8 x.host ++ leBytes 8 x.key
  leBytes 4 r.gen ++ leBytes 1 r.rtype ++ leBytes 2 r.regs.length ++ zeros 2 ++ leBytes 1 (b2n r.ptpl) ++ zeros 14
    ++ (if ext then zeros 40 else []) ++ r.regs.flatMap entry

/-! ### Leases (R61 to R71) -/

/-- A namespace whose Lease Guard is not enabled; its generation is kept (R63, R70). -/
def Lease.off : Lease := ⟨false, none, 0, 0, 0, false⟩

/-- The 1 ms between surely unexpired and surely expired (R69) is a free value, by the lease clock. -/
def Lease.unexpired (l : Lease) (clock : Nat) : Bool :=
  let e := l.grantedAt + l.durMs * 10000
  l.owner.isSome && (decide (clock < e) || (decide (clock < e + 10000) && Config.leaseEdge clock))

/-- Remaining time in ms; 0 where none. -/
def Lease.remaining (l : Lease) (clock : Nat) : Nat :=
  if l.unexpired clock then (l.grantedAt + l.durMs * 10000 - clock) / 10000 else 0

/-- A guarded command of R61 is accepted only from a host with an unexpired lease. -/
def Lease.permits (l : Lease) (clock host : Nat) : Bool := !l.guarded || (l.owner == some host && l.unexpired clock)

/-- The duration granted to a request (R65). -/
def grantMs (minDur maxDur req : Nat) : Nat := if req = 0 then maxDur else max minDur (min maxDur req)

/-- What a lease action finds on one namespace: the new state, or the refusal (R66). -/
inductive LeaseVerdict where
  | ok | held | holdoff | notOwner
  deriving DecidableEq, Repr

/-- One action on one namespace: 0 Query, 1 Claim, 2 Renew, 3 Release (R66). -/
def Lease.act (l : Lease) (holdoff : Bool) (clock host action dur : Nat) : Lease × LeaseVerdict :=
  match action with
  | 0 => (l, .ok)
  | 1 =>
    if holdoff then (l, .holdoff)
    else if l.owner = some host then ({ l with grantedAt := clock, durMs := dur }, .ok)
    else if l.unexpired clock then (l, .held)
    else ({ l with owner := some host, grantedAt := clock, durMs := dur, gen := l.gen + 1 }, .ok)
  | 2 => if l.owner = some host then ({ l with grantedAt := clock, durMs := dur }, .ok) else (l, .notOwner)
  | _ => if l.owner = some host then ({ l with owner := none }, .ok) else (l, .notOwner)

/-- Enabling Lease Guard starts with no owner; enabling it again changes nothing; disabling discards the state and raises the
generation (R63). -/
def Lease.setGuard (l : Lease) (on : Bool) : Lease :=
  if on then (if l.guarded then l else { l with guarded := true, owner := none })
  else if l.guarded then { Lease.off with gen := l.gen + 1, saved := l.saved } else l

/-- Reads of HFU's registers. -/
def Hfu.view (h : Hfu) (r : Reg) : W32 :=
  match r with
  | .hfuLinkstat n =>
    match Tab.get? h.ports n with
    | none => h.regs.get r
    | some p =>
      let held := (h.regs.get .hfuLgcfg).bits (if p.group = 0 then 7 else 15) (if p.group = 0 then 5 else 13) != 0
      let code := if held then 4 else p.state.code
      ((((h.regs.get r).setBits 31 28 code).setBits 27 26 p.proto.code).setBits 23 20 p.speed).setBits 19 15 p.width
  | _ => h.regs.get r

/-- HFU with nothing trained. -/
def Hfu.initial : Hfu :=
  { regs := [], ports := [], conns := [], resv := [], leases := [], holdoff := none, railLow := false, perst := [], cfg := [] }

end Sys2Proof.Machine
end

