-- ==== Sys2Proof/Machine/Mgc.lean ====
section
/-! DEFINITION. What MGC does by itself: the firmware store and its service (R387 to R395), images and Firmware Commit (R396 to
R403), and the Ahnah registers (R411, R412). -/

namespace Sys2Proof.Machine

/-! ### The firmware store -/

def storeSize : Nat := 134217728
def sectorSize : Nat := 65536

/-- The partitions of R387. -/
inductive Partition where
  | stage2 | slot1 | slot2 | eventLog | descriptors | calibration | spare
  deriving DecidableEq, Repr

/-- The partition of a store offset. -/
def partitionOf (o : Nat) : Partition :=
  if o < 0x400000 then .stage2 else if o < 0x2C00000 then .slot1 else if o < 0x5400000 then .slot2
  else if o < 0x6400000 then .eventLog else if o < 0x6C00000 then .descriptors else if o < 0x7000000 then .calibration
  else .spare

/-- Where an image slot begins. -/
def slotBase (slot : Nat) : Nat := if slot = 1 then 0x400000 else 0x2C00000

/-- The area a port of the FSC reaches (R389). -/
def FscPort.reaches (p : FscPort) (o : Nat) : Bool :=
  match p with
  | .service => true
  | .stage2 => true
  | .fev => partitionOf o == .eventLog
  | .sec => decide (0x7000000 ≤ o ∧ o < 0x7020000)
  | .ptx => partitionOf o == .descriptors

/-- An erased word. -/
def NorWord.erased : NorWord := ⟨List.replicate 16 0xFF, 0⟩

/-- The word at an index: as programmed, else as the structured holders of the partition show it (`shown`), else erased. -/
def Mgc.word (m : Mgc) (shown : Tab NorWord) (i : Nat) : NorWord :=
  match Tab.get? m.nor i with
  | some w => w
  | none => Tab.getD shown i .erased

/-- What a byte of the store was delivered with, if its partition still holds that. -/
def Mgc.delivered (m : Mgc) (o : Nat) : Option Byte :=
  let part := match partitionOf o with
    | .stage2 => some 0
    | .slot1 => some 1
    | .slot2 => some 2
    | _ => none
  match part with
  | some p => if m.factory.contains p then some (Config.vendorByte o) else none
  | none => none

/-- Bytes of the store. -/
def Mgc.readStore (m : Mgc) (shown : Tab NorWord) (o n : Nat) : List Byte :=
  (List.range n).map fun k =>
    if partitionOf (o + k) = .calibration then Config.calByte (o + k)
    else
      match Tab.get? m.nor ((o + k) / 16), m.delivered (o + k) with
      | none, some b => b
      | _, _ => (m.word shown ((o + k) / 16)).bytes.getD ((o + k) % 16) 0xFF

/-- Whether a word may take a value (R389): no bit goes from 0 to 1, and its count is below 2. -/
def NorWord.mayTake (w : NorWord) (new : List Byte) : Bool :=
  decide (w.count < 2) && (new.zip w.bytes).all fun p => p.1 &&& ~~~ p.2 == 0

/-- The offset of the first word of a program that fails the check of R389. -/
def Mgc.firstBad (m : Mgc) (shown : Tab NorWord) (o : Nat) (bs : List Byte) : Option Nat :=
  ((List.range (bs.length / 16)).find? fun k => !(m.word shown (o / 16 + k)).mayTake (slice bs (16 * k) 16)).map
    fun k => o + 16 * k

/-- The words a program leaves: every word programmed, its count raised by 1. -/
def Mgc.programWords (m : Mgc) (shown : Tab NorWord) (o : Nat) (bs : List Byte) : Tab NorWord :=
  (List.range (bs.length / 16)).foldl (fun t k =>
    let w := m.word shown (o / 16 + k)
    Tab.set t (o / 16 + k) ⟨slice bs (16 * k) 16, w.count + 1⟩) m.nor

/-- A sector's words erased. -/
def Mgc.eraseSector (m : Mgc) (sector : Nat) : Tab NorWord := Tab.keep m.nor fun i _ => i / 4096 != sector

/-- What was delivered in an erased sector's partition is gone; a stage 2 copy that loses a sector does not run. -/
def Mgc.unfactory (m : Mgc) (sector : Nat) : Mgc :=
  let part := match partitionOf (sector * 65536) with
    | .stage2 => 0
    | .slot1 => 1
    | .slot2 => 2
    | _ => 3
  { m with factory := m.factory.filter (· ≠ part), s2 := if part = 0 then Tab.erase m.s2 (sector / 32) else m.s2 }

/-- Store status codes (R393). -/
inductive StoreStatus where
  | ok | busy | range | notErased | self | protected' | fail | pending
  deriving DecidableEq, Repr
def StoreStatus.code : StoreStatus → Nat
  | .ok => 0 | .busy => 1 | .range => 2 | .notErased => 3 | .self => 4 | .protected' => 5 | .fail => 6 | .pending => 7

/-- Whether the service refuses a range with STORE_PROTECTED (R393). -/
def Mgc.protects (m : Mgc) (o n : Nat) : Bool :=
  let hits (lo hi : Nat) : Bool := decide (o < hi ∧ lo < o + n)
  hits 0x7000000 storeSize || (m.regs.bit .mgcFscprot 31 && hits 0 0x400000)
    || (m.run.slot == 1 && hits 0x400000 0x2C00000) || (m.run.slot == 2 && hits 0x2C00000 0x5400000)

/-- A program is refused while one runs or waits, or when its sector is being erased (R391). `fevProg`: FEV's record program
runs; `fevErase`: the sector FEV's erase runs in. -/
def Mgc.programBusy (m : Mgc) (fevProg : Bool) (fevErase : Option Nat) (o : Nat) : Bool :=
  m.prog.isSome || fevProg || (match m.erase with
    | some e => e.sectors.head? == some (o / sectorSize)
    | none => false) || fevErase == some (o / sectorSize)

/-- When a program that is asked for now starts: at once, or once the erase it nests in has run 2 ms (R390). -/
def Mgc.programAt (m : Mgc) (now : Nat) : Nat :=
  match m.erase with
  | some e => max now (e.runSince + 20000)
  | none => now

/-- A program starts, or waits for the suspension of the erase it nests in (R390). -/
def Mgc.startProgram (m : Mgc) (now : Nat) (port : FscPort) (o : Nat) (bs : List Byte) (erasing : Bool) : Mgc :=
  { m with prog := some ⟨port, o, bs, m.programAt now, erasing⟩,
           erase := m.erase.map fun e => { e with suspensions := satAdd 255 e.suspensions 1, holdOver := false } }

/-- Marks an entry of the service region (R394). -/
def Mgc.enterService (m : Mgc) (fromAddr : Nat) : Mgc :=
  let inwin := decide (0x10000000 ≤ fromAddr ∧ fromAddr < 0x18000000)
  let rf := (m.regs.setFld .mgcSvcfrom 31 31 (b2n inwin)).setFld .mgcSvcfrom 27 0 fromAddr
  { m with regs := rf.setFld .mgcSvcfrom 30 30 (if inwin then 1 else m.regs.fld .mgcSvcfrom 30 30) }

/-- The entry came from the store window. -/
def Mgc.fromWindow (m : Mgc) : Bool := m.regs.bit .mgcSvcfrom 31

/-- What a call of the store service returns: the status, a1 and the data READ put into the buffer. -/
structure SvcResult where
  status : StoreStatus
  a1 : Nat
  data : List Byte
  deriving DecidableEq, Repr

/-- READ (R392). -/
def Mgc.svcRead (m : Mgc) (shown : Tab NorWord) (o n : Nat) : SvcResult :=
  if m.fromWindow then ⟨.self, o, []⟩
  else if n = 0 ∨ 1048576 < n ∨ storeSize < o + n then ⟨.range, o, []⟩
  else ⟨.ok, o, m.readStore shown o n⟩

/-- PROGRAM (R389, R391, R392). -/
def Mgc.svcProgram (m : Mgc) (now : Nat) (shown : Tab NorWord) (fevProg : Bool) (fevErase : Option Nat) (o : Nat)
    (bs : List Byte) : Mgc × SvcResult :=
  let n := bs.length
  if m.fromWindow then (m, ⟨.self, o, []⟩)
  else if n < 16 ∨ 256 < n ∨ n % 16 ≠ 0 ∨ o % 16 ≠ 0 ∨ o / 256 ≠ (o + n - 1) / 256 ∨ storeSize < o + n then (m, ⟨.range, o, []⟩)
  else if m.protects o n then (m, ⟨.protected', o, []⟩)
  else if m.programBusy fevProg fevErase o then (m, ⟨.busy, o, []⟩)
  else
    match m.firstBad shown o bs with
    | some b => ({ m with regs := m.regs.setFld .mgcFscstat 27 27 1 }, ⟨.notErased, b, []⟩)
    | none => (m.startProgram now .service o bs (m.erase.isSome || fevErase.isSome), ⟨.ok, o, []⟩)

/-- ERASE (R391, R392). -/
def Mgc.svcErase (m : Mgc) (now : Nat) (fevErase : Bool) (o n : Nat) : Mgc × SvcResult :=
  if m.fromWindow then (m, ⟨.self, o, []⟩)
  else if n = 0 ∨ n % sectorSize ≠ 0 ∨ 16 * sectorSize < n ∨ o % sectorSize ≠ 0 ∨ storeSize < o + n then (m, ⟨.range, o, []⟩)
  else if m.protects o n then (m, ⟨.protected', o, []⟩)
  else if m.erase.isSome || fevErase then (m, ⟨.busy, o, []⟩)
  else
    ({ m with erase := some ⟨.service, (List.range (n / sectorSize)).map (o / sectorSize + ·), now, 0, false⟩ }, ⟨.ok, o, []⟩)

/-- POLL (R392): a failure is told once. -/
def Mgc.svcPoll (m : Mgc) : Mgc × SvcResult :=
  if m.fromWindow then (m, ⟨.self, 0, []⟩)
  else
    let running := (match m.prog with
      | some p => p.port == .service
      | none => false) || (match m.erase with
      | some e => e.port == .service
      | none => false)
    if running then (m, ⟨.pending, 0, []⟩)
    else
      match m.svcFail with
      | some o => ({ m with svcFail := none }, ⟨.fail, o, []⟩)
      | none => (m, ⟨.ok, 0, []⟩)

/-- The running program of MGC's own ports ends (R390): its words stand, or the failure is recorded (R393). -/
def Mgc.programDone (m : Mgc) (shown : Tab NorWord) (ok : Bool) : Mgc × List Report :=
  match m.prog with
  | none => (m, [])
  | some p =>
    if ok then
      ({ m with prog := none, nor := m.programWords shown p.offset p.bytes, regs := m.regs.setFld .mgcFscstat 26 24 0 }, [])
    else
      ({ m with prog := none, regs := (m.regs.setFld .mgcFscstat 28 28 1).setFld .mgcFscstat 26 24 6,
                svcFail := if p.port = .service then some p.offset else m.svcFail },
       [mkReport 0x09 0x01 8 p.offset 0 0 0])

/-- A sector erase ends; the next sector of the run follows in ascending order (R392). -/
def Mgc.eraseDone (m : Mgc) (now : Nat) (ok : Bool) : Mgc × List Report :=
  match m.erase with
  | none => (m, [])
  | some e =>
    match e.sectors with
    | [] => ({ m with erase := none }, [])
    | s :: rest =>
      let more : Option FscErase :=
        if rest.isEmpty then none else some { e with sectors := rest, runSince := now, suspensions := 0, holdOver := false }
      if ok then
        ({ m.unfactory s with nor := m.eraseSector s, erase := more, regs := m.regs.setFld .mgcFscstat 26 24 0 }, [])
      else
        ({ m with erase := none, regs := (m.regs.setFld .mgcFscstat 28 28 1).setFld .mgcFscstat 26 24 6,
                  svcFail := if e.port = .service then some (s * sectorSize) else m.svcFail },
         [mkReport 0x09 0x01 8 (s * sectorSize) 0 0 0])

/-- A read request may suspend what runs (R390): a program after 50 µs, an erase after 2 ms, never a nested program. -/
def Mgc.readMayRun (m : Mgc) (now : Nat) : Bool :=
  match m.prog, m.erase with
  | none, none => true
  | some p, none => decide (p.started + 500 ≤ now)
  | none, some e => decide (e.runSince + 20000 ≤ now)
  | some _, some _ => false

/-- A read has been served in PS or ES and the operation resumes: its run time counts from here. An erase that waits for a program has not run. -/
def Mgc.resumed (m : Mgc) (now : Nat) : Mgc :=
  match m.prog with
  | some p => { m with prog := some { p with started := now } }
  | none => { m with erase := m.erase.map fun e => { e with runSince := now, suspensions := satAdd 255 e.suspensions 1 } }

/-- STATE of MGC_FSCSTAT. -/
def Mgc.fscState (m : Mgc) (fevProg fevErase : Bool) : Nat :=
  let e := m.erase.isSome || fevErase
  match m.prog with
  | some p => if p.nested then 6 else 2
  | none => if fevProg && e then 6 else if fevProg then 2 else if e then 3 else 0

/-! ### Images -/

/-- A component entry from its 80 bytes. -/
def ImgComp.ofBytes (b : List Byte) : ImgComp :=
  ⟨leNat (slice b 0 1), leNat (slice b 1 1), leNat (slice b 4 4), leNat (slice b 8 4), leNat (slice b 12 4),
   leNat (slice b 16 8), leNat (slice b 24 48), leNat (slice b 2 2) + leNat (slice b 72 8)⟩

/-- A header from its 4,096 bytes (R396). -/
def ImgHeader.ofBytes (b : List Byte) : ImgHeader :=
  let n := leNat (slice b 5 1)
  { sig := leNat (slice b 0 4), hver := leNat (slice b 4 1), ncomp := n, version := leNat (slice b 8 8),
    svn := leNat (slice b 16 4), mins2svn := leNat (slice b 20 4), hsv := leNat (slice b 24 4),
    hsvmin := leNat (slice b 28 4), imglen := leNat (slice b 32 4), flags := leNat (slice b 36 4),
    signer := leNat (slice b 40 48),
    reserved := leNat (slice b 6 2) == 0 && decide (leNat (slice b 36 4) < 2) && (slice b 88 40).all (· == 0)
      && (slice b (128 + 80 * n) (4000 - (128 + 80 * n))).all (· == 0)
    comps := (List.range (min n 8)).map fun i => ImgComp.ofBytes (slice b (128 + 80 * i) 80) }

/-- The largest length of a component kind. -/
def compLimit (kind : Nat) : Nat :=
  match kind with
  | 0x01 => 2097152
  | 0x03 => 458752
  | 0x04 => 917504
  | 0x05 => 2097152
  | _ => 262144

/-- No two of some ranges overlap. -/
def disjointRanges : List (Nat × Nat) → Bool
  | [] => true
  | r :: rest => rest.all (fun q => decide (r.1 + r.2 ≤ q.1 ∨ q.1 + q.2 ≤ r.1)) && disjointRanges rest

/-- The checks 1 to 6 of R397 in order; answers the first that fails. `total` is the downloaded length at Firmware Commit;
`byReset` that activation is by reset; `dvers` the descriptor versions of the populated clusters. -/
def checkImage (header : List Byte) (total : Option Nat) (minimg stage2Svn : Nat) (byReset : Bool) (dvers : List Nat)
    (bytes : Nat → Nat → List Byte) : Option Nat :=
  let h := ImgHeader.ofBytes header
  let s2 := match (if byReset then h.comps.find? fun c => c.kind == 1 else none) with
    | some c => c.svn
    | none => stage2Svn
  if h.sig ≠ 0x41474C4F ∨ h.hver ≠ 1 ∨ (h.ncomp ≠ 5 ∧ h.ncomp ≠ 6) ∨ 41943040 < h.imglen ∨ total.getD h.imglen ≠ h.imglen then some 1
  else if h.signer ≠ Config.imageSigner ∨ !Config.imageSigned header then some 2
  else if h.svn < minimg ∨ s2 < h.mins2svn then some 3
  else if !(List.all [3, 4, 5, 6, 7] fun k => (h.comps.filter fun c => c.kind == k).length == 1)
      || !decide ((h.comps.filter fun c => c.kind == 1).length ≤ 1)
      || h.comps.any (fun c => !([1, 3, 4, 5, 6, 7].contains c.kind))
      || h.comps.any (fun c => decide (c.offset % 4096 ≠ 0 ∨ c.offset < 4096 ∨ h.imglen < c.offset + c.len
          ∨ compLimit c.kind < c.len ∨ c.resv ≠ 0))
      || !disjointRanges (h.comps.map fun c => (c.offset, c.len)) || !h.reserved then some 4
  else if h.comps.any (fun c => (c.kind == 5 || c.kind == 6) && dvers.any (· != c.dver)) then some 5
  else if h.comps.any (fun c => Config.sha384 (bytes c.offset c.len) != c.digest) then some 6
  else none

/-- Bytes of an open download; what has not been sent reads as 0. -/
def Download.bytes (d : Download) (o n : Nat) : List Byte :=
  (List.range n).map fun k =>
    match d.pieces.find? fun p => decide (p.1 ≤ o + k ∧ o + k < p.1 + p.2.length) with
    | some p => p.2.getD (o + k - p.1) 0
    | none => 0

/-- The end of the contiguous part of a download from 0. -/
def contiguous : Tab (List Byte) → Nat → Nat
  | [], e => e
  | (o, bs) :: rest, e => if o ≤ e then contiguous rest (max e (o + bs.length)) else e

/-- The bytes of the image in a slot. -/
def Mgc.slotBytes (m : Mgc) (slot o n : Nat) : List Byte := m.readStore [] (slotBase slot + o) n

/-- The header of the image that the device was delivered with (log entry 51): it permits activation without reset. -/
def vendorHeader : ImgHeader :=
  { sig := 0x41474C4F, hver := 1, ncomp := 5, version := 0, svn := 0, mins2svn := 0, hsv := 0, hsvmin := 0, imglen := 24576, flags := 1
    signer := 0, reserved := true
    comps := [3, 4, 5, 6, 7].map fun k => ⟨k, if k = 5 ∨ k = 6 then 1 else 0, 4096 * (k - 2), 4096, 0, 0, Config.vendorDigest k, 0⟩ }

/-- The image header that a slot holds. -/
def Mgc.header (m : Mgc) (slot : Nat) : ImgHeader :=
  if m.factory.contains slot then vendorHeader else ImgHeader.ofBytes (m.slotBytes slot 0 4096)

/-- The check of the image in a slot (R397): the first check that fails. -/
def Mgc.checkSlot (m : Mgc) (slot stage2Svn : Nat) (byReset : Bool) (dvers : List Nat) : Option Nat :=
  if m.factory.contains slot then (if (vendorHeader).svn < m.cal.minimg then some 3 else none)
  else checkImage (m.slotBytes slot 0 4096) none m.cal.minimg stage2Svn byReset dvers (m.slotBytes slot)

/-- The SHA-384 of a slot's header (R396). -/
def Mgc.headerDigest (m : Mgc) (slot : Nat) : Nat :=
  if m.factory.contains slot then Config.vendorDigest 2 else Config.sha384 (m.slotBytes slot 0 4096)

/-- What Firmware Commit finds (R402, R403). -/
inductive CommitVerdict where
  | sanitizing | sequence | badSlot | badImage | prohibited | needsReset | ok
  deriving DecidableEq, Repr

/-- SCT and SC of a verdict. -/
def CommitVerdict.status : CommitVerdict → Nat × Nat
  | .sanitizing => (0, 0x1D)
  | .sequence => (0, 0x0C)
  | .badSlot => (1, 0x06)
  | .badImage => (1, 0x07)
  | .prohibited => (1, 0x13)
  | .needsReset => (1, 0x0B)
  | .ok => (0, 0)

/-- The slot a commit names: FS 0 is the slot that is not running. -/
def Mgc.commitSlot (m : Mgc) (fs : Nat) : Nat := if fs = 0 then 3 - m.run.slot else fs

/-- The download of an issuer, if it has the open one. -/
def Mgc.downloadOf (m : Mgc) (o : DlOwner) : Option Download :=
  match m.download with
  | some d => if d.owner = o then some d else none
  | none => none

/-- The image that a commit works on, with the first check that it fails: the issuer's download, or what the slot holds (R402). -/
def Mgc.commitImage (m : Mgc) (owner : DlOwner) (action slot stage2Svn : Nat) (dvers : List Nat) : Option (ImgHeader × Option Nat) :=
  let held := (m.header slot, m.checkSlot slot stage2Svn (action ≠ 3) dvers)
  match m.downloadOf owner with
  | some d =>
    if action = 2 then some held
    else
      let head := d.bytes 0 4096
      some (ImgHeader.ofBytes head, checkImage head (some (contiguous d.pieces 0)) m.cal.minimg stage2Svn (action ≠ 3) dvers d.bytes)
  | none => if action = 0 ∨ action = 1 then none else some held

/-- An image can take over from the running one without reset (R403, R406). -/
def RunImage.takenBy (r : RunImage) (h : ImgHeader) : Bool := h.flags.testBit 0 && decide (h.hsvmin ≤ r.hsv ∧ r.hsv ≤ h.hsv)

/-- The verdict on a Firmware Commit, in the order of R403. -/
def Mgc.commitVerdict (m : Mgc) (sanitizing : Bool) (owner : DlOwner) (fs action stage2Svn : Nat) (dvers : List Nat) : CommitVerdict :=
  let slot := m.commitSlot fs
  let dl := m.downloadOf owner
  if sanitizing then .sanitizing
  else if m.act.isSome then .sequence
  else if 2 < fs ∨ (slot = m.run.slot ∧ (action = 0 ∨ action = 1 ∨ (action = 3 ∧ dl.isSome))) then .badSlot
  else if action = 3 ∧ slot = m.run.slot then .ok
  else
    match m.commitImage owner action slot stage2Svn dvers with
    | none => .badImage
    | some (_, some 3) => .prohibited
    | some (_, some _) => .badImage
    | some (h, none) => if action = 3 ∧ !m.run.takenBy h then .needsReset else .ok

/-- The download written into a slot (R398): the slot erased, components programmed, the header last. -/
def Mgc.writeSlot (m : Mgc) (slot : Nat) (d : Download) : Mgc :=
  let base := slotBase slot / 16
  let clean := Tab.keep m.nor fun i _ => decide (i < base ∨ base + 2621440 ≤ i)
  let words := (List.range (ceilDiv (contiguous d.pieces 0) 16)).foldl (fun t k =>
      Tab.set t (base + k) ⟨d.bytes (16 * k) 16, 1⟩) clean
  { m with nor := words, factory := m.factory.filter (· ≠ slot) }

/-- A stage 2 component is programmed into the copy not used at this boot (R399). -/
def Mgc.writeStage2 (m : Mgc) (h : ImgHeader) (bytes : Nat → Nat → List Byte) : Mgc :=
  match h.comps.find? fun c => c.kind == 1 with
  | none => m
  | some c =>
    let copy := 1 - m.s2Run
    let base := 131072 * copy
    let clean := Tab.keep m.nor fun i _ => decide (i < base ∨ base + 131072 ≤ i)
    { m with
      nor := (List.range (ceilDiv c.len 16)).foldl (fun t k => Tab.set t (base + k) ⟨bytes (c.offset + 16 * k) 16, 1⟩) clean
      s2 := Tab.set m.s2 copy (c.svn, c.digest) }

/-- A slot becomes NEXT. -/
def Mgc.makeNext (m : Mgc) (slot : Nat) : Mgc :=
  { m with cal := { m.cal with next := slot, nextPending := true } }

/-- Two decimal digits as ASCII. -/
def twoDigits (n : Nat) : List Byte := leBytes 1 (48 + n % 100 / 10) ++ leBytes 1 (48 + n % 10)

/-- The eight characters MM.mm.pp of a version (R408). -/
def versionText (v : Nat) : List Byte :=
  twoDigits (natBits v 63 48) ++ leBytes 1 46 ++ twoDigits (natBits v 47 32) ++ leBytes 1 46 ++ twoDigits (natBits v 31 16)

/-- Log page 0x03 (R408): 512 B of the standard's layout. -/
def Mgc.logFirmware (m : Mgc) (slotVersion : Nat → Option Nat) : List Byte :=
  let afi := m.run.slot + if m.cal.next ≠ m.run.slot then 16 * m.cal.next else 0
  let frs (s : Nat) : List Byte := match slotVersion s with
    | some v => versionText v
    | none => zeros 8
  leBytes 1 afi ++ zeros 7 ++ frs 1 ++ frs 2 ++ zeros 488

/-! ### The Ahnah registers -/

/-- A task's end: RESULT, the data and DONE (R411, R412). -/
def Mgc.ahEnd (m : Mgc) (result : Nat) (data : List Byte) : Mgc :=
  { m with ah := { m.ah with busy := none, done := true, err := result != 0, result := result, dlen := data.length,
                             data := if data.isEmpty then m.ah.data else fit 256 data } }

/-- A task is taken: its arguments and data stand in the registers. -/
def Mgc.ahStart (m : Mgc) (code tag : Nat) (args : List Nat) (data : List Byte) : Mgc :=
  { m with ah := { m.ah with task := code, tag := tag, args := (List.range 4).map fun m => args.getD m 0 % 2 ^ 32, data := fit 256 data, done := false } }

/-- Write tasks are permitted while AHWR is set (R412). -/
def Mgc.ahWr (m : Mgc) : Bool := m.regs.bit .mgcSbicfg 14

/-- Whether a port configuration block is well formed (R413); its reserved bits and bytes are ignored (R11). -/
def portBlockOk (b : List Byte) : Bool :=
  let f := leNat (slice b 6 2)
  leNat (slice b 0 1) == 0xA5 && leNat (slice b 252 4) == crc32c (slice b 0 252)
    && decide (leNat (slice b 2 1) ≤ 7 ∧ 1518 ≤ f ∧ f ≤ 9216 ∧ leNat (slice b 12 1) ≤ 32
        ∧ leNat (slice b 36 1) ≤ 128 ∧ leNat (slice b 64 2) ≤ 1024 ∧ leNat (slice b 67 1) ≤ 7 ∧ leNat (slice b 68 4) < 1048576
        ∧ leNat (slice b 72 4) < 1048576 ∧ leNat (slice b 77 1) ≤ 1)
    && (leNat (slice b 66 1) == 0 || (leNat (slice b 66 1)).testBit (leNat (slice b 67 1)))

/-! ### Registers -/

/-- PHASE of MGC_BOOTSTAT. -/
def BootPhase.code : BootPhase → Nat
  | .reset => 0 | .romHalt => 0 | .recovery => 7 | .stopped => 3 | .ready => 6

/-- PHASE of MGC_ACTSTAT. -/
def ActPhase.code : ActPhase → Nat
  | .prepare => 1 | .handover => 2 | .record => 3

/-- Reads of MGC's registers. `fevProg`, `fevErase`: what FEV's port runs. -/
def Mgc.view (m : Mgc) (fevProg : Bool) (fevErase : Option Nat) (r : Reg) : W32 :=
  match r with
  | .mgcCfg => (m.regs.get r).setBits 7 0 m.acRun
  | .mgcFscstat =>
    let sector := match m.erase with
      | some e => e.sectors.headD 0
      | none => fevErase.getD 0 + if fevErase.isSome then 0x54 else 0
    (((m.regs.get r).setBits 31 29 (m.fscState fevProg fevErase.isSome)).setBits 10 0 sector).setBits 23 16
      ((m.erase.map (·.suspensions)).getD 0)
  | .mgcFscprot => (m.regs.get r).setBits 1 0 m.run.slot
  | .mgcActstat =>
    ((m.regs.get r).setBits 31 30 ((m.act.map fun a => a.phase.code).getD 0)).setBits 25 24 m.cal.next
  | .mgcRstctl => ((m.regs.get r).setBits 29 29 (b2n (m.shutdown.isSome && !m.quiesced))).setBits 28 28 (b2n m.quiesced)
  | .mgcBootstat => (m.regs.get r).setBits 31 28 m.boot.code
  | _ => m.regs.get r

/-- A write to MGC_SBICFG; AHADDR never takes the MCTP address (R413's registers). -/
def Mgc.writeSbicfg (m : Mgc) (v : W32) : Mgc :=
  let old := m.regs.get .mgcSbicfg
  let new := Reg.mgcSbicfg.write (m.regs.bit .mgcCfg 31) old v
  let kept := if new.bits 22 16 = new.bits 30 24 then new.setBits 22 16 (old.bits 22 16) else new
  { m with regs := m.regs.set .mgcSbicfg kept }

end Sys2Proof.Machine
end

