-- ==== Sys2Proof/Machine/Mss.lean ====
section
/-! DEFINITION. What MSS does: the address map (R319), regions and their writers (R321, R322), Symbol Guard (R327 to R330), valid
bits (R331 to R333), scrubbing (R334, R335), rows, refresh and power-down (R336 to R341). -/

namespace Sys2Proof.Machine

/-! ### The address map -/

/-- The channel an address lies on, and its address within that channel (R319). -/
def dramChannel (a : Nat) : Nat := a / 256 % 12
def dramInner (a : Nat) : Nat := a / 3072 * 256 + a % 256

/-- Bank group, bank, rank and row of an address (R319). A row holds 32 units of 256 B (PRESUMED from JESD79-5, log entry 17). -/
structure DramLoc where
  ch : Nat
  rank : Nat
  bank : Nat
  row : Nat
  deriving DecidableEq, Repr

/-- The location of an address with `ranks` ranks per channel. -/
def dramLoc (ranks a : Nat) : DramLoc :=
  let u := dramInner a / 256
  ⟨dramChannel a, u / 32 % ranks, u % 8 * 4 + u / 8 % 4, u / (32 * ranks) / 32⟩

def DramLoc.rankKey (l : DramLoc) : Nat := 2 * l.ch + l.rank
def DramLoc.bankKey (l : DramLoc) : Nat := 64 * l.ch + 32 * l.rank + l.bank

/-- The regions of R321. -/
inductive Region where
  | validBitmap | hostState | sqeArchive | blockTable | bandTable | redirect | scratch | slotHeaders | replay | transport
  | firmware | oasis | map
  deriving DecidableEq, Repr

/-- The row number of a region in R330's table, counted from 0 (ARG0 of MSS code 0x05). -/
def Region.ueRow : Region → Nat
  | .oasis => 0 | .slotHeaders => 0 | .map => 1 | .sqeArchive => 2 | .blockTable => 3 | .replay => 4 | .transport => 5
  | .firmware => 6 | .scratch => 7 | .validBitmap => 8 | .hostState => 8 | .bandTable => 8 | .redirect => 8

/-- The region of an address (R321). -/
def regionOf (a : Nat) : Region :=
  let m := a / 1048576
  if m < 12 then .validBitmap else if m < 80 then .hostState else if m < 144 then .sqeArchive
  else if m < 208 then .blockTable else if m < 272 then .bandTable else if m < 304 then .redirect
  else if m < 320 then .scratch else if m < 512 then .slotHeaders else if m < 1024 then .replay
  else if m < 2048 then .transport else if m < 4096 then .firmware else if m < 16384 then .oasis else .map

/-- Requester groups of R341 as R321 names them. -/
def isAc (r : Nat) : Bool := decide (9 ≤ r ∧ r ≤ 16)
def isQce (r : Nat) : Bool := r == 1 || r == 2
def isPtx (r : Nat) : Bool := r == 3 || r == 4

/-- The writers of a region (R321). QCE is requesters 1 and 2, PTX 3 and 4 (DEDUCED, log entry 18). -/
def Region.writer (g : Region) (r : Nat) : Bool :=
  match g with
  | .validBitmap => false
  | .hostState => r == 8 || isAc r || isQce r
  | .sqeArchive => isQce r
  | .blockTable => r == 5
  | .bandTable => isPtx r || isAc r
  | .redirect => isPtx r
  | .scratch => r == 17 || r == 18
  | .slotHeaders => isQce r || isPtx r
  | .replay => isPtx r || isAc r
  | .transport => r == 0
  | .firmware => r == 8 || isAc r
  | .oasis => r == 1 || isPtx r
  | .map => isPtx r || isAc r

/-- Installed capacity in GiB from MSS_DMCFG (R317). -/
def Mss.ranks (m : Mss) : Nat := m.regs.fld .mssDmcfg 16 16 + 1
def Mss.capGib (m : Mss) : Nat :=
  match m.regs.fld .mssDmcfg 21 20 with
  | 0 => 192 * m.ranks
  | 1 => 288
  | _ => 384
def Mss.cap (m : Mss) : Nat := 1073741824 * m.capGib

/-- Whether MSS_DMCFG would hold a configuration R317 supports: two ranks only with 16 Gb devices (R320). -/
def Mss.writeDmcfg (m : Mss) (v : W32) : Mss :=
  let old := m.regs.get .mssDmcfg
  let new := Reg.mssDmcfg.write (old.bits 31 31 == 1) old v
  let clash := new.bits 16 16 == 1 && new.bits 21 20 != 0
  let kept := if clash then (new.setBits 16 16 (old.bits 16 16)).setBits 21 20 (old.bits 21 20) else new
  { m with regs := m.regs.set .mssDmcfg kept }

/-! ### Symbol Guard -/

/-- Multiplication by β = x in GF(2^16) with x^16 + x^12 + x^3 + x + 1 (R327). -/
def gfX (a : BitVec 16) : BitVec 16 := if a.getLsbD 15 then (a <<< 1) ^^^ 0x100B#16 else a <<< 1

/-- Multiplication by β^n. -/
def gfPow (a : BitVec 16) : Nat → BitVec 16
  | 0 => a
  | n + 1 => gfX (gfPow a n)

/-- The field product. -/
def gfMul (a b : BitVec 16) : BitVec 16 :=
  (List.range 16).foldl (fun acc i => if b.getLsbD i then acc ^^^ gfPow a i else acc) 0

/-- The syndromes E1 and E2 that the errors of one codeword give (R327, R328). -/
def syndromes (errs : List SymErr) (q : Nat) : BitVec 16 × BitVec 16 :=
  errs.foldl (fun e x => if x.cw = q then (e.1 ^^^ gfPow x.val x.dev, e.2 ^^^ gfPow x.val (2 * x.dev)) else e) (0, 0)

/-- How a codeword decodes (R328, R329). -/
inductive CwResult where
  | good | single (dev : Nat) (val : BitVec 16) | poisoned | bad
  deriving DecidableEq, Repr

/-- The value y with y × β^v = e: division by β^v, by the order 2^16 - 1 of the field's multiplicative group. -/
def gfDivX (a : BitVec 16) : BitVec 16 := if a.getLsbD 0 then ((a ^^^ 0x100B#16) >>> 1) ||| 0x8000#16 else a >>> 1
def gfDivPow (a : BitVec 16) : Nat → BitVec 16
  | 0 => a
  | n + 1 => gfDivX (gfDivPow a n)

/-- The inverse of a field element other than 0: its power 2^16 − 2. -/
def gfInv (a : BitVec 16) : BitVec 16 :=
  ((List.range 15).foldl (fun (acc : BitVec 16 × BitVec 16) _ => let sq := gfMul acc.2 acc.2; (gfMul acc.1 sq, sq)) (1, a)).1

/-- h₀ and h₁ of a codeword of the line at an address: the halves of its folded address (R327). -/
def lineHash (a q : Nat) : BitVec 16 × BitVec 16 :=
  let c := crc32c (leBytes 8 (a / 64 * 4 + q))
  (BitVec.ofNat 16 c, BitVec.ofNat 16 (c / 2 ^ 16))

/-- The check symbols s₈ and s₉ of eight data symbols: those with S₁ = h₀ and S₂ = h₁ (R327). -/
def checkSymbols (h : BitVec 16 × BitVec 16) (data : List (BitVec 16)) : BitVec 16 × BitVec 16 :=
  let s1 := data.zipIdx.foldl (fun (x : BitVec 16) e => x ^^^ gfPow e.1 e.2) h.1
  let s2 := data.zipIdx.foldl (fun (x : BitVec 16) e => x ^^^ gfPow e.1 (2 * e.2)) h.2
  let s9 := gfMul (s2 ^^^ gfPow s1 8) (gfInv (gfPow 1 17 ^^^ gfPow 1 18))
  (gfDivPow (s1 ^^^ gfPow s9 9) 8, s9)

/-- The four codewords of a line as they are stored: ten symbols each, even bytes in the low half (R327). -/
def encodeLine (a : Nat) (line : List Byte) : List (List (BitVec 16)) :=
  (List.range 4).map fun q =>
    let data := (List.range 8).map fun v => BitVec.ofNat 16 (leNat (slice line (16 * q + 2 * v) 2))
    let c := checkSymbols (lineHash a q) data
    data ++ [c.1, c.2]

/-- Decodes one codeword from its syndromes (R328), in device-erasure mode of device `era` as R329 says. -/
def decodeCw (era : Option Nat) (e : BitVec 16 × BitVec 16) : CwResult :=
  if e.1 = 0 ∧ e.2 = 0 then .good
  else if e.1 = 1 ∧ e.2 = 0 then .poisoned
  else
    match era with
    | some v => if gfPow e.1 v = e.2 then .single v (gfDivPow e.1 v) else .bad
    | none =>
      if e.1 = 0 ∨ e.2 = 0 then .bad
      else
        match (List.range 10).find? fun v => gfPow e.1 v == e.2 with
        | some v => .single v (gfDivPow e.1 v)
        | none => .bad

/-- How a line decodes. -/
inductive LineResult where
  | good
  /-- Corrected on one device; the symbols as they are delivered differ from the stored ones by this. -/
  | corrected (dev : Nat) (residue : List SymErr)
  | poisoned
  | uncorrectable
  deriving DecidableEq, Repr

/-- Decodes a line of four codewords (R328): corrected only when every codeword in need names the same device. -/
def decodeLine (era : Option Nat) (errs : List SymErr) : LineResult :=
  let rs := (List.range 4).map fun q => (q, decodeCw era (syndromes errs q))
  if rs.any fun r => r.2 == .bad then .uncorrectable
  else if rs.any fun r => r.2 == .poisoned then .poisoned
  else
    let singles := rs.filterMap fun r => match r.2 with
      | .single v x => some (SymErr.mk r.1 v x)
      | _ => none
    match singles with
    | [] => .good
    | s :: rest => if rest.all fun t => t.dev == s.dev then .corrected s.dev (errs ++ singles) else .uncorrectable

/-- The data bytes of a line with symbol differences applied: byte m lies in codeword m ÷ 16, symbol (m mod 16) ÷ 2, even bytes
in the low half (R327). -/
def applySyms (line : List Byte) (errs : List SymErr) : List Byte :=
  line.zipIdx.map fun p =>
    errs.foldl (fun (b : Byte) (x : SymErr) =>
      if x.cw = p.2 / 16 ∧ x.dev = p.2 % 16 / 2 then
        b ^^^ (if p.2 % 2 = 0 then x.val.setWidth 8 else (x.val >>> 8).setWidth 8)
      else b) p.1

/-! ### Valid bits and lines -/

/-- Puts a number into a rising list, once. -/
def insertNat (x : Nat) : List Nat → List Nat
  | [] => [x]
  | y :: rest => if x = y then y :: rest else if x < y then x :: y :: rest else y :: insertNat x rest

/-- Whether the granule of an address is valid (R331). -/
def Mss.isValid (m : Mss) (a : Nat) : Bool := m.valid.contains (a / 4096)

/-- What a line read found, as its requester sees it. -/
inductive ReadFlag where
  | ok | uncorrectable
  deriving DecidableEq, Repr

/-- An uncorrectable or poisoned line that was met: its line number, and whether it counts as new (R330). -/
structure Uncorr where
  line : Nat
  fresh : Bool
  deriving DecidableEq, Repr

/-- Names a device in a correction and enters device-erasure mode when R329 says so. Answers the report of an entry. -/
def Mss.name (m : Mss) (now line dev : Nat) : Mss × List Report :=
  let loc := dramLoc m.ranks (line * 64)
  let rk := loc.rankKey
  let day : Nat := 864000000000
  let old := m.named.filter fun x => decide (now < x.at' + day) && !(x.rank == rk && x.dev == dev && x.line == line)
  let named := Named.mk rk dev line now :: old
  let n := (named.filter fun x => x.rank == rk && x.dev == dev).length
  if m.regs.fld .mssDmcfg 7 0 ≤ n ∧ !Tab.has m.erasure rk then
    let lo := if loc.rank = 0 then 8 else 12
    ({ m with named := named, erasure := Tab.set m.erasure rk dev,
              regs := m.regs.setFld (.mssEccstat loc.ch) (lo + 3) lo dev },
     [mkReport 0x07 0x04 2 loc.ch loc.rank dev 0])
  else ({ m with named := named }, [])

/-- Checks one line of a valid granule with the cell errors it shows, corrects and writes back or poisons (R328 to R330).
Answers the state, how the line may be used and the reports. -/
def Mss.checkLine (m : Mss) (now line : Nat) (errs : List SymErr) : Mss × Option Uncorr × List Report :=
  let ch := dramChannel (line * 64)
  let rk := (dramLoc m.ranks (line * 64)).rankKey
  if m.poison.contains line then (m, some ⟨line, false⟩, [])
  else
    match decodeLine (Tab.get? m.erasure rk) errs with
    | .good => (m, none, [])
    | .corrected dev residue =>
      let data := applySyms (Mem.getBytes m.mem (line * 64) 64) residue
      let w : Mss := { m with mem := Mem.setBytes m.mem (line * 64) data
                              regs := m.regs.satFld (.mssEccstat ch) 31 16 1 }
      let (w, rs) := w.name now line dev
      (w, none, rs)
    | .poisoned => ({ m with poison := insertNat line m.poison }, some ⟨line, false⟩, [])
    | .uncorrectable =>
      ({ m with poison := insertNat line m.poison, regs := m.regs.satFld (.mssEccstat ch) 7 0 1 },
       some ⟨line, true⟩, [])

/-- Checks a run of lines; lines of invalid granules make no access (R331). -/
def Mss.checkLines (m : Mss) (now : Nat) (errs : LineErrs) : List Nat → Mss × List Uncorr × List Report
  | [] => (m, [], [])
  | l :: rest =>
    if m.isValid (l * 64) then
      let (m1, u, rs) := m.checkLine now l (Tab.getD errs l [])
      let (m2, us, rs') := Mss.checkLines m1 now errs rest
      (m2, u.toList ++ us, rs ++ rs')
    else Mss.checkLines m now errs rest

/-- The lines a range of bytes touches. -/
def linesOf (a n : Nat) : List Nat :=
  if n = 0 then [] else (List.range ((a + n - 1) / 64 - a / 64 + 1)).map (a / 64 + ·)

/-! ### Rows and RFM (R336, R339 to R341) -/

/-- A bank with no row open. -/
def Bank.idle : Bank := ⟨none, 0, 0, [], [], 0⟩

/-- The RFM threshold: the lower of RAAIMT and RAATHR, RAATHR alone when the device needs no RFM (R339). -/
def Mss.rfmThr (m : Mss) (raaimt : Option Nat) : Nat :=
  let t := m.regs.fld .mssRhcfg 7 0
  match raaimt with
  | none => t
  | some i => min t i

/-- The row tracker after an activate of a row: the new list and the row's count (R340). -/
def trackRow (rows : List (Nat × Nat)) (row : Nat) : List (Nat × Nat) × Nat :=
  match rows.find? fun r => r.1 == row with
  | some r => (rows.map fun x => if x.1 = row then (row, r.2 + 1) else x, r.2 + 1)
  | none =>
    if rows.length < 8 then (rows ++ [(row, 1)], 1)
    else
      match leastBy (fun r : Nat × Nat => r.2) rows with
      | some l => (rows.map fun x => if x.1 = l.1 then (row, l.2 + 1) else x, l.2 + 1)
      | none => (rows, 0)

/-- An access to a location by a requester: the row is opened where it is not open, with what an activate brings (R336, R338
to R341). `waymark`: the request carries a waymark. -/
def Mss.access (m : Mss) (now : Nat) (raaimt : Option Nat) (req : Nat) (waymark : Bool) (a : Nat) : Mss × List Report :=
  let loc := dramLoc m.ranks a
  let m : Mss :=
    { m with
      powerDown := m.powerDown.filter (· ≠ loc.rankKey), lastRankUse := Tab.set m.lastRankUse loc.rankKey now
      rankIdle := Tab.set m.rankIdle loc.rankKey (m.regs.fld .mssPagecfg 15 8) }
  let b := Tab.getD m.banks loc.bankKey .idle
  let idle := m.regs.fld .mssPagecfg 7 0
  let keep := if idle = 0 then none else some loc.row
  if b.open' = some loc.row then
    ({ m with banks := Tab.set m.banks loc.bankKey { b with open' := keep, lastAccess := now, limit := idle } }, [])
  else
    let (rows, n) := trackRow b.rows loc.row
    let thr := m.rfmThr raaimt
    let raa := b.raa + 1
    let rfm := decide (thr ≤ raa)
    let hotThr := m.regs.fld .mssRhcfg 29 16
    let hot := decide (hotThr ≤ n)
    let throttle := hot && !waymark && decide (req ≤ 18)
    let slot := match Tab.get? b.throttled req with
      | some t => max now (t + m.regs.fld .mssRhcfg 13 8 / 10)
      | none => now
    let held := if waymark then now else slot
    let next : Bank :=
      { open' := keep, lastAccess := held, limit := idle, raa := if rfm then raa - thr else raa, rows := rows
        throttled := if throttle || (Tab.has b.throttled req && !waymark) then Tab.set b.throttled req held else b.throttled }
    let regs := if throttle then (m.regs.setFld (.mssRhstat loc.ch) 31 31 1).setFld (.mssRhstat loc.ch) 23 19 req
                else if hot then m.regs.setFld (.mssRhstat loc.ch) 31 31 1 else m.regs
    let newHot := hot && !(b.rows.any fun x => x.1 == loc.row && decide (hotThr ≤ x.2))
    let minute := newHot && (match Tab.get? m.hotRec loc.ch with
      | none => true
      | some t => decide (t + 600000000 ≤ now))
    ({ m with banks := Tab.set m.banks loc.bankKey next, regs := regs,
              rfms := if rfm then Tab.set m.rfms loc.ch (Tab.getD m.rfms loc.ch 0 + 1) else m.rfms,
              hotRec := if minute then Tab.set m.hotRec loc.ch now else m.hotRec },
     if minute then [mkReport 0x07 0x06 12 req loc.ch 0 0] else [])

/-- Accesses to each line of a request in turn. -/
def Mss.accesses (m : Mss) (now : Nat) (raaimt : Option Nat) (req : Nat) (waymark : Bool) : List Nat → Mss × List Report
  | [] => (m, [])
  | l :: rest =>
    let (m1, r1) := if m.isValid (l * 64) then m.access now raaimt req waymark (l * 64) else (m, [])
    let (m2, r2) := Mss.accesses m1 now raaimt req waymark rest
    (m2, r1 ++ r2)

/-! ### Requests -/

/-- What a DRAM request gives back. -/
inductive MemAnswer where
  | data (req addr : Nat) (bytes : List Byte) (flag : ReadFlag)
  /-- The write is made; `ok` is false for a partial line that stays poisoned. -/
  | written (req addr : Nat) (ok : Bool)
  deriving DecidableEq, Repr

/-- The result of a request: state, answers, uncorrectable lines met and reports. -/
structure MemResult where
  mss : Mss
  answers : List MemAnswer
  uncorr : List Uncorr
  reports : List Report
  deriving DecidableEq, Repr

/-- A granule of the range that is under zero-fill. -/
def Mss.fillIn (m : Mss) (a n : Nat) : Option Nat :=
  (linesOf a n).findSome? fun l => if Tab.has m.fills (l / 64) then some (l / 64) else none

/-- A read of `n` bytes (R328, R331); it waits where a granule is under zero-fill (R332). -/
def Mss.read (m : Mss) (now : Nat) (raaimt : Option Nat) (req : Nat) (waymark : Bool) (a n : Nat) (errs : LineErrs) :
    MemResult :=
  match m.fillIn a n with
  | some g => ⟨{ m with fills := Tab.upd m.fills g fun f => { f with waiting := f.waiting ++ [.read req a n] } }, [], [], []⟩
  | none =>
    let (m1, r1) := m.accesses now raaimt req waymark (linesOf a n)
    let (m2, us, r2) := m1.checkLines now errs (linesOf a n)
    let flag := if us.isEmpty then ReadFlag.ok else .uncorrectable
    ⟨m2, [.data req a (Mem.getBytes m2.mem a n) flag], us, r1 ++ r2⟩

/-- Lines of a range of bytes that it covers only in part. -/
def partLines (a n : Nat) : List Nat :=
  (linesOf a n).filter fun l => decide (l * 64 < a ∨ a + n < l * 64 + 64)

/-- Stores bytes in valid granules: whole lines lose their poison; a partial line that is or becomes poisoned stays as it is, and
the write is reported as failed (R330). -/
def Mss.store (m : Mss) (now req a : Nat) (bs : List Byte) (errs : LineErrs) : MemResult :=
  let n := bs.length
  let parts := partLines a n
  let (m1, us, rs) := m.checkLines now errs parts
  let dead := parts.filter fun l => m1.poison.contains l
  let put := (linesOf a n).foldl (fun (mm : Mem) l =>
      if dead.contains l then mm
      else
        let lo := max a (l * 64)
        let hi := min (a + n) (l * 64 + 64)
        Mem.setBytes mm lo (slice bs (lo - a) (hi - lo))) m1.mem
  ⟨{ m1 with mem := put, poison := m1.poison.filter fun l => parts.contains l || !(linesOf a n).contains l },
   [.written req a dead.isEmpty], us, rs⟩

/-- A write (R322, R330 to R332): refused where the requester may not write the region; a first write that covers part of an
invalid granule starts the granule's zero-fill. -/
def Mss.write (m : Mss) (now : Nat) (raaimt : Option Nat) (req : Nat) (waymark : Bool) (a : Nat) (bs : List Byte)
    (errs : LineErrs) : MemResult :=
  if !(regionOf a).writer req || !(regionOf (a + bs.length - 1)).writer req then
    ⟨m, [], [], [mkReport 0x07 0x01 12 req a 0 0]⟩
  else
    match m.fillIn a bs.length with
    | some g => ⟨{ m with fills := Tab.upd m.fills g fun f => { f with waiting := f.waiting ++ [.write req a bs] } }, [], [], []⟩
    | none =>
      let (m1, r1) := m.accesses now raaimt req waymark (linesOf a bs.length)
      let gran := a / 4096
      if m1.valid.contains gran then
        let r := m1.store now req a bs errs
        { r with reports := r1 ++ r.reports }
      else if a % 4096 = 0 ∧ bs.length = 4096 then
        let r := ({ m1 with valid := insertNat gran m1.valid }).store now req a bs []
        { r with reports := r1 ++ r.reports }
      else
        ⟨{ m1 with fills := Tab.set m1.fills gran ⟨a, bs, []⟩ }, [.written req a true], [], r1⟩

/-- Serves the requests that waited for a zero-fill, in their order. -/
def Mss.serve (m : Mss) (now : Nat) (raaimt : Option Nat) : List MemReq → MemResult
  | [] => ⟨m, [], [], []⟩
  | .read req a n :: rest =>
    let r := m.read now raaimt req false a n []
    let t := Mss.serve r.mss now raaimt rest
    ⟨t.mss, r.answers ++ t.answers, r.uncorr ++ t.uncorr, r.reports ++ t.reports⟩
  | .write req a bs :: rest =>
    let r := m.write now raaimt req false a bs []
    let t := Mss.serve r.mss now raaimt rest
    ⟨t.mss, r.answers ++ t.answers, r.uncorr ++ t.uncorr, r.reports ++ t.reports⟩

/-- The zero-fill of a granule completes: the bit is set, the write stands with zeros round it, and waiting requests proceed
(R332). -/
def Mss.fillDone (m : Mss) (now : Nat) (raaimt : Option Nat) (gran : Nat) : MemResult :=
  match Tab.get? m.fills gran with
  | none => ⟨m, [], [], []⟩
  | some f =>
    let m1 : Mss := { m with fills := Tab.erase m.fills gran, valid := insertNat gran m.valid,
                             mem := Mem.setBytes m.mem f.addr f.bytes }
    m1.serve now raaimt f.waiting

/-- Every zero-fill of a range of granules completed. -/
def Mss.fillsDone (m : Mss) (now : Nat) (raaimt : Option Nat) : List Nat → MemResult
  | [] => ⟨m, [], [], []⟩
  | g :: rest =>
    let r := m.fillDone now raaimt g
    let t := Mss.fillsDone r.mss now raaimt rest
    ⟨t.mss, r.answers ++ t.answers, r.uncorr ++ t.uncorr, r.reports ++ t.reports⟩

/-- Clears the valid bits of a range of granules: the data is unreachable and reads as zero (R333). -/
def Mss.clearValid (m : Mss) (base count : Nat) : Mss :=
  { m with valid := m.valid.filter fun g => decide (g < base ∨ base + count ≤ g),
           poison := m.poison.filter fun l => decide (l / 64 < base ∨ base + count ≤ l / 64),
           mem := Mem.clear m.mem (base * 4096) (count * 4096) }

/-- GO of MSS_VBCLR1 (R333): ignored while BUSY; refused with ERR when the range touches the valid bitmap or passes the
capacity, or COUNT is 0 (log entry 19); else ordered after every request that came before. -/
def Mss.vbclr (m : Mss) (now : Nat) (raaimt : Option Nat) : MemResult :=
  let base := m.regs.fld .mssVbclr0 26 0
  let count := m.regs.fld .mssVbclr1 26 0
  if m.clearing.isSome then ⟨m, [], [], []⟩
  else if base < 3072 ∨ m.cap / 4096 < base + count ∨ count = 0 then
    ⟨{ m with regs := m.regs.setFld .mssVbclr1 29 29 1 }, [], [], []⟩
  else
    let r := m.fillsDone now raaimt (Tab.keysWhere m.fills fun g _ => decide (base ≤ g ∧ g < base + count))
    { r with mss := { (r.mss.clearValid base count) with clearing := some ⟨base, count⟩,
                                                          regs := r.mss.regs.setFld .mssVbclr1 29 29 0 } }

/-- The clear has ended. -/
def Mss.vbclrDone (m : Mss) : Mss := { m with clearing := none }

/-! ### Scrubbing -/

/-- GO of MSS_RSCTL (R335): ignored while BUSY; the summary registers are cleared. -/
def Mss.rsGo (m : Mss) : Mss :=
  let base := m.regs.fld .mssRsbase 26 0
  let count := m.regs.fld .mssRsctl 26 0
  if m.scrub.isSome then m
  else
    let cleared := ((m.regs.set .mssRssum0 0).set .mssRssum1 0).set .mssRssum2 0
    if m.cap / 4096 < base + count ∨ count = 0 then { m with regs := cleared.setFld .mssRsctl 28 28 1 }
    else { m with regs := (cleared.setFld .mssRsctl 28 28 0).setFld .mssRsctl 29 29 0, scrub := some ⟨base, count⟩ }

/-- The lines of the valid granules in a range. -/
def Mss.validLines (m : Mss) (base count : Nat) : List Nat :=
  (m.valid.filter fun g => decide (base ≤ g ∧ g < base + count)).flatMap fun g => (List.range 64).map (g * 64 + ·)

/-- A range scrub ends, or stops after `covered` granules (R335). -/
def Mss.rsEnd (m : Mss) (now covered : Nat) (stopped : Bool) (errs : LineErrs) : Mss × List Uncorr × List Report :=
  match m.scrub with
  | none => (m, [], [])
  | some r =>
    let n := if stopped then min covered r.count else r.count
    let ls := m.validLines r.base n
    let (m1, us, rs) := m.checkLines now errs ls
    let ce := (ls.filter fun l => match decodeLine (Tab.get? m.erasure (dramLoc m.ranks (l * 64)).rankKey) (Tab.getD errs l []) with
      | .corrected _ _ => !m.poison.contains l
      | _ => false).length
    let regs := (((m1.regs.setFld .mssRssum0 26 0 n).setFld .mssRssum1 31 16 (min 65535 ce)).setFld .mssRssum1 15 0
      (min 65535 us.length)).setFld .mssRsctl 29 29 (b2n stopped)
    let regs := match us with
      | [] => regs
      | u :: _ => (regs.setFld .mssRssum2 31 31 1).setFld .mssRssum2 26 0 (u.line / 64)
    ({ m1 with regs := regs, scrub := none }, us, rs)

/-- The end of a patrol lap on every channel (R334). -/
def Mss.lapEnd (m : Mss) (now : Nat) : Mss :=
  let minutes := min 65535 ((now - m.lapStart) / (60 * 10000000))
  let late := decide (11 * m.regs.fld .mssScrubcfg 23 16 * 36000000000 < 10 * (now - m.lapStart))
  let regs := (List.range 12).foldl (fun (rf : RegFile) n =>
      let rf := (rf.setFld (.mssScrubstat n) 15 0 minutes).satFld (.mssScrubstat n) 30 16 1
      if late then rf.setFld (.mssScrubstat n) 31 31 1 else rf) m.regs
  { m with regs := regs, patrolPos := 0, lapStart := now }

/-- One patrol step (R334): the next valid line from the lap's position is read and corrected; with none left the lap ends. -/
def Mss.patrolStep (m : Mss) (now : Nat) (errs : LineErrs) : Mss × List Uncorr × List Report :=
  if !m.regs.bit .mssScrubcfg 31 || m.selfRefresh then (m, [], [])
  else
    let g := m.patrolPos / 64
    let next := if m.valid.contains g then some m.patrolPos
                else (m.valid.find? fun v => decide (g < v)).map (· * 64)
    match next with
    | none => (m.lapEnd now, [], [])
    | some l =>
      let (m1, u, rs) := m.checkLine now l (Tab.getD errs l [])
      let m2 : Mss := { m1 with patrolPos := l + 1 }
      if m2.valid.all fun v => decide (v * 64 + 63 < l + 1) then (m2.lapEnd now, u.toList, rs) else (m2, u.toList, rs)

/-! ### Training, retraining, refresh and power-down -/

/-- GO of a channel's TRNCTL with its fields as written (R324): ignored while BUSY or READY; DQERR is cleared. OP 3 and PAT 6
and 7 are reserved and start nothing (DESIGN CHOICE, log entry 20). -/
def Mss.trainGo (m : Mss) (n : Nat) : Mss :=
  let c := m.regs.get (.mssTrnctl n)
  if Tab.has m.train n || m.regs.bit .mssDmstat 31 || c.bits 25 24 == 3 || decide (5 < c.bits 23 21) then m
  else { m with train := Tab.set m.train n ⟨c.bits 25 24, c.bits 23 21, c.bits 20 20, c.bits 7 0⟩,
                regs := m.regs.set (.mssTrnres n) 0 }

/-- A helper operation ends with the lanes that miscompared (R324). -/
def Mss.trainDone (m : Mss) (n dq cb : Nat) : Mss :=
  match Tab.get? m.train n with
  | none => m
  | some t =>
    { m with train := Tab.erase m.train n
             regs := if t.op = 0 then m.regs.setFld (.mssTrnctl n) 15 8 0
                     else (m.regs.setFld (.mssTrnres n) 31 0 dq).setFld (.mssTrnctl n) 15 8 cb }

/-- The timing state of a rank before its first measurement. -/
def RankTiming.fresh : RankTiming := ⟨0, none, 0, false⟩

/-- The DQS interval oscillator of a rank is read (R326): a drift above one eighth of the range wants a pause. -/
def Mss.oscRead (m : Mss) (now rk drift : Nat) : Mss :=
  if !m.regs.bit .mssDmcfg 15 || m.selfRefresh then m
  else
    let t := Tab.getD m.timing rk .fresh
    let t' : RankTiming := { t with drift := drift, wanted := if 125 < drift then some (t.wanted.getD now) else t.wanted }
    { m with timing := Tab.set m.timing rk t' }

/-- A rank marks the saved training results stale, once (R326). -/
def Mss.markStale (m : Mss) (rk : Nat) : Mss × List Report :=
  let t := Tab.getD m.timing rk .fresh
  if t.stale then (m, [])
  else ({ m with timing := Tab.set m.timing rk { t with stale := true }, regs := m.regs.setFld .mssDmstat 29 29 1 },
        [mkReport 0x07 0x03 2 (rk / 2) (rk % 2) 0 0])

/-- A retraining pause of a rank (R326): at most one in 1 ms, once no waymarked request waits or after 10 µs. -/
def Mss.pause (m : Mss) (now rk : Nat) (waymarkedWaits atEnd : Bool) : Mss × List Report :=
  let t := Tab.getD m.timing rk .fresh
  match t.wanted with
  | none => (m, [])
  | some since =>
    if (waymarkedWaits && decide (now < since + 100)) || (decide (t.lastPause ≠ 0) && decide (now < t.lastPause + 10000)) then
      (m, [])
    else
      let m1 : Mss := { m with timing := Tab.set m.timing rk { t with drift := 0, wanted := none, lastPause := now } }
      if atEnd then m1.markStale rk else (m1, [])

/-- A same-bank refresh of a rank: the bank of every bank group closes its row (R336, R337). -/
def Mss.refresh (m : Mss) (rk bank : Nat) : Mss :=
  { m with refreshes := m.refreshes + 1,
           banks := m.banks.map fun e => if e.1 / 32 = rk ∧ e.1 % 4 = bank then (e.1, { e.2 with open' := none }) else e }

/-- MR4 of the devices of a rank is read; more than 20 °C since the last full training marks the results stale (R326, R337). -/
def Mss.mr4Read (m : Mss) (rk : Nat) (deg : Int) : Mss × List Report :=
  let m1 : Mss := { m with mr4 := Tab.set m.mr4 rk deg }
  match Tab.get? m.trainTemp rk with
  | none => ({ m1 with trainTemp := Tab.set m1.trainTemp rk deg }, [])
  | some t => if 20 < |deg - t| ∧ m.regs.bit .mssDmcfg 15 then m1.markStale rk else (m1, [])

/-- A rank idle for PDIDLE enters power-down (R338). -/
def Mss.pdEntry (m : Mss) (now rk : Nat) : Mss :=
  let idle := Tab.getD m.rankIdle rk (m.regs.fld .mssPagecfg 15 8)
  if idle = 0 ∨ m.selfRefresh ∨ (now - Tab.getD m.lastRankUse rk 0) * 100 < idle * 16 ∨ m.powerDown.contains rk then m
  else { m with powerDown := insertNat rk m.powerDown }

/-- An idle open row is closed: after PAGEIDLE, after 4 × PAGEIDLE when hot (R336). -/
def Mss.pageClose (m : Mss) (now key : Nat) : Mss :=
  match Tab.get? m.banks key with
  | none => m
  | some b =>
    let hot := match b.open' with
      | none => false
      | some r => b.rows.any fun x => x.1 == r && decide (m.regs.fld .mssRhcfg 29 16 ≤ x.2)
    let wait := b.limit * 8 * (if hot then 4 else 1)
    if (now - b.lastAccess) * 100 < wait then m else { m with banks := Tab.set m.banks key { b with open' := none } }

/-- The tracker window of a rank ends: its entries are cleared and throttling ends (R340, R341). -/
def Mss.windowEnd (m : Mss) (rk : Nat) : Mss :=
  { m with banks := m.banks.map fun e => if e.1 / 32 = rk then (e.1, { e.2 with rows := [], throttled := [] }) else e }

/-- What stops in MSS for the safe state, a dump or a device recovery (R335, R344). -/
def Mss.stopScrub (m : Mss) : Mss :=
  match m.scrub with
  | none => m
  | some _ => { m with scrub := none, regs := m.regs.setFld .mssRsctl 29 29 1 }
def Mss.enterSafe (m : Mss) : Mss := { m.stopScrub with train := [], selfRefresh := true, powerDown := [] }

/-- Counts one SRAM word (R342): bit `n` of UEV, or the corrected count of that SRAM. -/
def Mss.sramCount (m : Mss) (n : Nat) (uncorr : Bool) : Mss :=
  { m with regs := if uncorr then m.regs.setFld .mssSramstat (26 + n) (26 + n) 1
                   else m.regs.satFld .mssSramstat (4 * n + 3) (4 * n) 1 }

/-- A write to MSS_STGCFG (R343): ignored whole where a limit is broken. -/
def Mss.writeStgcfg (m : Mss) (ethPorts : Nat) (v : W32) : Mss :=
  let old := m.regs.get .mssStgcfg
  let new := Reg.mssStgcfg.write (m.regs.bit .mssDmcfg 31) old v
  let host := new.bits 6 0
  let int := new.bits 13 7
  let mmin := new.bits 22 18
  let mmax := new.bits 27 23
  if 16 + 4 * ethPorts ≤ host ∧ host ≤ 80 ∧ 8 ≤ int ∧ int ≤ 80 ∧ 1 ≤ mmin ∧ mmin ≤ mmax ∧ host + int + mmin ≤ 96
      ∧ new.bits 31 28 ≤ 12 then { m with regs := m.regs.set .mssStgcfg new } else m

/-- Reads of MSS's registers. -/
def Mss.view (m : Mss) (r : Reg) : W32 :=
  match r with
  | .mssTrnctl n => (m.regs.get r).setBits 30 30 (b2n (Tab.has m.train n))
  | .mssDmstat => (m.regs.get r).setBits 8 0 (if m.regs.bit .mssDmstat 31 then m.capGib else 0)
  | .mssVbclr1 => (m.regs.get r).setBits 30 30 (b2n m.clearing.isSome)
  | .mssRsctl => (m.regs.get r).setBits 30 30 (b2n m.scrub.isSome)
  | .mssRhstat n => (m.regs.get r).setBits 15 0 (min 65535 (Tab.getD m.rfms n 0 / 1024))
  | _ => m.regs.get r

/-- MSS at its power-on values. -/
def Mss.initial : Mss :=
  { regs := [], mem := [], valid := [], poison := [], fills := [], clearing := none, scrub := none, patrolPos := 0,
    lapStart := 0, erasure := [], named := [], train := [], timing := [], banks := [], powerDown := [],
    lastRankUse := [], rankIdle := [], selfRefresh := false, mr4 := [], trainTemp := [], hotRec := [], rfms := [], refreshes := 0 }

end Sys2Proof.Machine
end

