-- ==== Sys2Proof/Machine/Ptm.lean ====
section
/-! DEFINITION. What PTM does: the energy of the bank, the HUE states and the capacitor test (R415 to R419), sensors, bands and
the throttle (R428 to R436), and log page 0xC6 (R438). -/

namespace Sys2Proof.Machine

/-- Time units of 100 ns in a millisecond and in a second. -/
def msT : Nat := 10000
def secT : Nat := 10000000

/-- E of R415 in joules; 0 until a test has passed since power-on. -/
def Ptm.energy (p : Ptm) : Rat :=
  match p.cap with
  | none => 0
  | some c => max 0 (c / 2 * (((p.v : Rat) / 1000) ^ 2 - ((p.board.vhmin : Rat) / 1000) ^ 2))

/-- E_r(D) of R419 for `d` bytes, in joules. -/
def dumpEnergy (d : Nat) : Rat := 80 * (25 / 1000 + (d : Rat) / 56000000000) + 1

/-- EDEG and EPROT in joules. -/
def Ptm.edeg (p : Ptm) : Rat := (p.regs.fld .ptmHuecfg 15 8 : Rat) / 4
def Ptm.eprot (p : Ptm) : Rat := (p.regs.fld .ptmHuecfg 23 16 : Rat) / 4

/-- Whether EDEG covers a dump of PROTMAX with its margin (R419). -/
def edegCovers (edeg : Rat) (protmax : Nat) : Bool := decide (5 / 4 * dumpEnergy protmax ≤ edeg)

/-- V lies within VHMIN to VHMAX. -/
def Ptm.inBounds (p : Ptm) : Bool := decide (p.board.vhmin ≤ p.v ∧ p.v ≤ p.board.vhmax)

/-- Enters a HUE state (R417). -/
def Ptm.toHue (p : Ptm) (now : Nat) (h : HueState) : Ptm :=
  { p with hue := h, passed := false, protSince := none, lowCount := 0,
           inRange := none, degradedAt := if h = .degraded then now else p.degradedAt }

/-- The states in which the HUE is judged. -/
def HueState.judged : HueState → Bool
  | .charging => true | .healthy => true | .degraded => true | _ => false

/-- The 2 s of R417: E at or above EPROT since a test passed. While 1.25 × E_r(PROTMAX) exceeds EDEG the HUE does not become
HEALTHY (DEDUCED from R439, log entry 12). -/
def Ptm.dwell (p : Ptm) (now protmax : Nat) : Ptm :=
  if (p.hue = .charging ∨ p.hue = .degraded) ∧ p.passed ∧ p.eprot ≤ p.energy ∧ edegCovers p.edeg protmax then
    match p.protSince with
    | none => { p with protSince := some now }
    | some t => if t + 2 * secT ≤ now then p.toHue now .healthy else p
  else { p with protSince := none }

/-- One sample of V (R414, R417, R421). The second part says that power loss is detected. V below VPF counts only while the
HUE is not ABSENT (DEDUCED, log entry 13). -/
def Ptm.sample (p : Ptm) (now v protmax : Nat) : Ptm × Bool :=
  if p.hue = .dumping ∨ p.hue = .off then ({ p with v := v }, false)
  else
    let q : Ptm := { p with v := v }
    let q : Ptm := { q with
      outCount := if q.inBounds then 0 else q.outCount + 1
      pfCount := if q.hue ≠ .absent ∧ v < q.board.vpf then q.pfCount + 1 else 0
      lowCount := if q.hue = .healthy ∧ q.energy < q.edeg then q.lowCount + 1 else 0 }
    if 2 ≤ q.pfCount then (q, true)
    else if q.hue = .absent then
      if q.inBounds then
        match q.inRange with
        | none => ({ q with inRange := some now }, false)
        | some t =>
          if t + 100 * msT ≤ now then ({ q.toHue now .charging with testWanted := true }, false) else (q, false)
      else ({ q with inRange := none }, false)
    else if 2 ≤ q.outCount then (q.toHue now .absent, false)
    else if 2 ≤ q.lowCount then (q.toHue now .degraded, false)
    else (q.dwell now protmax, false)

/-- The start condition of a scheduled test (R416). Before any test has passed, E is 0 and the condition is not applied
(DEDUCED, log entry 14). -/
def Ptm.testMayStart (p : Ptm) : Bool :=
  p.testWanted && p.testRun.isNone && p.hue.judged &&
    (p.cap.isNone ||
      decide (p.edeg + ((p.v : Rat) / 1000) ^ 2 / ((p.board.rtest : Rat) / 1000) / 100 < p.energy))

/-- Step 1 of the capacitor test. -/
def Ptm.testStart (p : Ptm) (now : Nat) : Ptm :=
  if p.testMayStart then { p with testWanted := false, testRun := some now } else p

/-- A test is scheduled; ignored in ABSENT, DUMPING and OFF. -/
def Ptm.schedule (p : Ptm) : Ptm := { p with testWanted := p.testWanted || p.hue.judged }

/-- C and ESR of a test from its three samples in mV (R416), where the formulas are defined. -/
def testResult (rtest v1 vs v2 : Nat) : Option (Rat × Rat) :=
  if 0 < vs ∧ v2 < vs then
    let r : Rat := (rtest : Rat) / 1000
    some (((v1 : Rat) + vs + 2 * v2) / (4 * r) / 100 / ((vs : Rat) - v2), ((v1 : Rat) - vs) * r / vs)
  else none

/-- Whether a result passes (R416). -/
def HueParams.passes (b : HueParams) (c esr : Rat) : Bool :=
  decide ((b.cmin : Rat) / 1000000 ≤ c ∧ esr ≤ (b.esrmax : Rat) / 1000)

/-- The test completes (R416, R417): on a pass C is taken, on a failure C stays. A result that the formulas do not define
fails (log entry 15). -/
def Ptm.testDone (p : Ptm) (now stampMs protmax v1 vs v2 : Nat) : Ptm :=
  match p.testRun with
  | none => p
  | some _ =>
    let q : Ptm := { p with testRun := none, lastTest := some now, lastTestStamp := stampMs,
                            degradedAt := now }
    match testResult p.board.rtest v1 vs v2 with
    | some (c, esr) =>
      if p.board.passes c esr then
        ({ q with cap := some c, esr := esr, testFail := false, passed := true }).dwell now protmax
      else
        let f : Ptm := { q with testFail := true, passed := false, testFails := q.testFails + 1 }
        if f.hue = .charging ∨ f.hue = .healthy then f.toHue now .degraded else f
    | none =>
      let f : Ptm := { q with testFail := true, passed := false, testFails := q.testFails + 1 }
      if f.hue = .charging ∨ f.hue = .healthy then f.toHue now .degraded else f

/-- A change of PROTMAX (R419). -/
def Ptm.protmaxChanged (p : Ptm) (now protmax : Nat) : Ptm :=
  if p.hue = .healthy ∧ !edegCovers p.edeg protmax then p.toHue now .degraded else p

/-- A write to PTM_HUECFG (R419): fields by their access codes; ignored whole when EDEG or EPROT would break R419. -/
def Ptm.writeHuecfg (p : Ptm) (protmax : Nat) (v : W32) : Ptm :=
  let old := p.regs.get .ptmHuecfg
  let new := Reg.ptmHuecfg.write (old.bits 31 31 == 1) old v
  let e : Rat := (new.bits 15 8 : Rat) / 4
  if edegCovers e protmax ∧ e + 2 ≤ (new.bits 23 16 : Rat) / 4 then { p with regs := p.regs.set .ptmHuecfg new } else p

/-- HUE_CHG_EN: low during a test and during a dump (R414). -/
def Ptm.chgEn (p : Ptm) : Bool := p.testRun.isNone && p.hue != .dumping && p.hue != .off

/-- HUE_TEST: high from 1 ms to 11 ms of a test (R416). -/
def Ptm.testPin (p : Ptm) (now : Nat) : Bool :=
  match p.testRun with
  | none => false
  | some t => decide (t + msT ≤ now ∧ now < t + 11 * msT)

/-- The view of PTM_HUESTAT. -/
def Ptm.huestat (p : Ptm) : W32 :=
  (((((p.regs.get .ptmHuestat).setBits 31 29 p.hue.code).setBits 28 28 (b2n p.testFail)).setBits 26 26
    (b2n p.testRun.isSome)).setBits 15 0 (min 65535 (p.energy * 100).floor.toNat))

/-! ### Sensors (R428 to R430) -/

/-- The on-die sensors around a sensor (R428). -/
def tsNeighbours (n : Nat) : List Nat :=
  if n < 16 then
    let k := n / 2
    let a := (k + 1) % 8
    let b := (k + 7) % 8
    [4 * k + 1 - n, 2 * a, 2 * a + 1, 2 * b, 2 * b + 1]
  else if n < 20 then [16, 17, 18, 19].filter (· ≠ n)
  else if n = 22 then [20, 21, 23]
  else if n = 23 then [20, 21, 22]
  else [20, 21, 22, 23].filter (· ≠ n)

/-- Places a number in a rising list. -/
def insertInt (x : Int) : List Int → List Int
  | [] => [x]
  | y :: rest => if x ≤ y then x :: y :: rest else y :: insertInt x rest

/-- Twice the median: twice the middle one, or the sum of the middle two. -/
def median2 (xs : List Int) : Option Int :=
  let s := xs.foldr insertInt []
  match s[s.length / 2]?, s[(s.length - 1) / 2]? with
  | some a, some b => some (a + b)
  | _, _ => none

/-- A reading judged against its neighbours' median (R429). -/
def Sensor.judge (s : Sensor) (now : Nat) (reading : Int) (med : Option Int) : Sensor :=
  let off : Int := match med with
    | none => 0
    | some m => |2 * reading - m|
  let bad := reading < -160 || 600 < reading || 64 < off
  let near := !bad && decide (off ≤ 40)
  if bad then ⟨reading, false, none⟩
  else if s.trusted then ⟨reading, true, none⟩
  else if near then
    match s.okSince with
    | none => ⟨reading, false, some now⟩
    | some t => if t + 500 * msT ≤ now then ⟨reading, true, none⟩ else ⟨reading, false, some t⟩
  else ⟨reading, false, none⟩

/-- A sensor before its first reading (log entry 16). -/
def Sensor.initial : Sensor := ⟨0, true, none⟩

/-- Takes one reading of every on-die sensor. A median is over every neighbour's reading, trusted or not (DEDUCED, log entry 215). -/
def Ptm.takeReadings (p : Ptm) (now : Nat) (readings : List Int) : Ptm :=
  let at' (n : Nat) : Int := readings.getD n (Tab.getD p.sensors n .initial).reading
  { p with sensors := (List.range 24).map fun n =>
      (n, (Tab.getD p.sensors n .initial).judge now (at' n) (median2 ((tsNeighbours n).map at'))) }

/-- Takes the NAND readings of one cluster's channels (R430). -/
def Ptm.takeNand (p : Ptm) (now k : Nat) (readings : Tab Int) : Ptm :=
  { p with nand := readings.foldl (fun t e =>
      if e.1 / 8 = k ∧ e.1 < 64 then
        Tab.set t e.1 ((Tab.getD p.nand e.1 .initial).judge now e.2
          (median2 ((Tab.keep readings fun c _ => c != e.1).map Prod.snd)))
      else t) p.nand }

/-- The highest of some readings. -/
def maxInt : List Int → Option Int
  | [] => none
  | x :: rest =>
    match maxInt rest with
    | none => some x
    | some y => some (max x y)

/-- The trusted readings among some on-die sensors. -/
def Ptm.trustedOf (p : Ptm) (ns : List Nat) : List Int :=
  (p.sensors.filter fun e => e.2.trusted && ns.contains e.1).map fun e => e.2.reading

/-- A cluster's trusted NAND readings, and whether it has any reading. -/
def Ptm.nandOf (p : Ptm) (k : Nat) : List Int := (p.nand.filter fun e => e.2.trusted && e.1 / 8 == k).map fun e => e.2.reading
def Ptm.hasNand (p : Ptm) (k : Nat) : Bool := p.nand.any fun e => e.1 / 8 == k

/-- The highest trusted on-die reading: the Composite Temperature (R437). -/
def Ptm.composite (p : Ptm) : Option Int := maxInt (p.trustedOf (List.range 24))

/-- The kinds of throttle input and the code SRC of PTM_THRSTAT gives them (R432). -/
inductive InputKind where
  | junction | nand | dram | noSensor
  deriving DecidableEq, Repr
def InputKind.code : InputKind → Nat
  | .junction => 0 | .nand => 1 | .dram => 2 | .noSensor => 3

/-- A throttle input: its key, kind, start and value, in twelfths of a degree. -/
structure Input where
  key : Nat
  kind : InputKind
  start : Int
  val : Int
  deriving DecidableEq, Repr

/-- The starts, in degrees. -/
def Ptm.jstart (p : Ptm) : Nat := p.regs.fld .ptmTstart 23 16
def Ptm.nstart (p : Ptm) : Nat := p.regs.fld .ptmTstart 15 8
def Ptm.dstart (p : Ptm) : Nat := p.regs.fld .ptmTstart 7 0
def Ptm.tspan (p : Ptm) : Nat := p.regs.fld .ptmThrcfg 31 28

/-- An input from trusted readings in quarters of a degree, or the stand-in of R430. -/
def Ptm.inputOf (p : Ptm) (key : Nat) (kind : InputKind) (start : Nat) (xs : List Int) : Input :=
  match maxInt xs with
  | some x => ⟨key, kind, 12 * start, 3 * x⟩
  | none => ⟨key, .noSensor, 12 * start, 12 * start + 4 * p.tspan⟩

/-- Every input of the throttle (R432): keys 0 to 7 the cluster junctions, 8 the highest of TS16 to TS23, 16 to 23 the cluster
NAND temperatures, 32 on the DRAM channels. A cluster without a NAND reading has no NAND input. -/
def Ptm.inputs (p : Ptm) : List Input :=
  ((List.range 8).map fun k => p.inputOf k .junction p.jstart (p.trustedOf [2 * k, 2 * k + 1]))
    ++ (match maxInt (p.trustedOf [16, 17, 18, 19, 20, 21, 22, 23]) with
        | some x => [⟨8, .junction, 12 * p.jstart, 3 * x⟩]
        | none => [])
    ++ (((List.range 8).filter fun k => p.hasNand k).map fun k => p.inputOf (16 + k) .nand p.nstart (p.nandOf k))
    ++ (p.dram.map fun e => ⟨32 + e.1, .dram, 12 * p.dstart, 12 * e.2⟩)

/-- The last 26 values of every input, one per 10 ms. -/
def Ptm.pushHist (p : Ptm) : Ptm :=
  { p with hist := p.inputs.map fun i => (i.key, i.val :: (Tab.getD p.hist i.key []).take 25) }

/-! ### Bands (R431) -/

/-- The temperature, in quarters of a degree, at which a band is entered rising. -/
def bandRise (b : Nat) : Int :=
  match b with
  | 0 => -400 | 1 => 60 | 2 => 140 | 3 => 220 | 4 => 300 | _ => 380

/-- The highest of the bands up to `n` whose rising threshold is met. -/
def bandUp (x : Int) : Nat → Nat
  | 0 => 0
  | n + 1 => if bandRise (n + 1) ≤ x then n + 1 else bandUp x n

/-- The highest band up to `n` not left: its falling threshold, 3 °C below, is not reached. -/
def bandDown (x : Int) : Nat → Nat
  | 0 => 0
  | n + 1 => if bandRise (n + 1) - 12 < x then n + 1 else bandDown x n

/-- A band after a reading: held 500 ms after its entry, except that a rise into TB5 is not delayed. -/
def TempBand.next (b : TempBand) (now : Nat) (x : Int) : TempBand :=
  let up := bandUp x 5
  let want := if b.band < up then up else bandDown x b.band
  if want ≠ b.band ∧ (want = 5 ∨ b.since + 500 * msT ≤ now) then ⟨want, now⟩ else b

/-- Updates the junction band and, of one or all clusters, the NAND band. -/
def Ptm.bandsNow (p : Ptm) (now : Nat) : Ptm :=
  { p with
    jband := match p.composite with
      | some x => p.jband.next now x
      | none => p.jband
    nbands := (List.range 8).map fun k =>
      let b := Tab.getD p.nbands k ⟨0, 0⟩
      (k, if p.hasNand k then
            match maxInt (p.nandOf k) with
            | some x => b.next now x
            | none => b.next now (4 * p.nstart + 4 * p.tspan / 3)
          else b) }

/-! ### The throttle (R432 to R435) -/

/-- Whether the last 250 ms show a rise above 0.5 °C. -/
def rising250 (h : List Int) : Bool :=
  match h.head?, h[25]? with
  | some a, some b => decide (6 < a - b)
  | _, _ => false

/-- The rate-of-rise trips after the present sample (R435). -/
def Ptm.tripsNow (p : Ptm) (now : Nat) : Ptm :=
  p.inputs.foldl (fun q i =>
    if i.kind = .junction ∨ i.kind = .nand then
      let r := rising250 (Tab.getD q.hist i.key [])
      match Tab.get? q.trips i.key with
      | none => if r && decide ((i.start - 120 : Int) ≤ i.val) then { q with trips := Tab.set q.trips i.key none, rorTrips := q.rorTrips + 1 } else q
      | some t =>
        if r then { q with trips := Tab.set q.trips i.key none }
        else
          match t with
          | none => { q with trips := Tab.set q.trips i.key (some now) }
          | some since => if since + 500 * msT ≤ now then { q with trips := Tab.erase q.trips i.key } else q
    else q) p

/-- A throttle record's object: the hottest trusted sensor of a junction input; for other inputs the spec names none
(log entry 11). -/
def Ptm.inputObj (p : Ptm) (i : Input) : Nat :=
  let ns := if i.key < 8 then [2 * i.key, 2 * i.key + 1] else [16, 17, 18, 19, 20, 21, 22, 23]
  if i.kind = .junction then
    match p.sensors.find? fun e => ns.contains e.1 && e.2.trusted && decide (3 * e.2.reading = i.val) with
    | some e => e.1
    | none => 0
  else Config.sensorObj i.key

/-- A temperature in whole degrees as an unsigned argument (two's complement, 64 bits). -/
def degArg (x : Int) (units : Int) : Nat := ((x / units) % 2 ^ 64).toNat

/-- The throttle's state after the present sample (R432). `rw` and `rr` are the write and read rates of the last second. -/
def Ptm.throttleNow (p : Ptm) (now rw rr : Nat) : Ptm × List Report :=
  match p.throttle with
  | .shutdown => (p, [])
  | .none =>
    match p.inputs.find? fun i => decide (i.start ≤ i.val) || Tab.has p.trips i.key with
    | none => (p, [])
    | some i =>
      ({ p with throttle := .active, rw0 := max 1000000000 rw, rr0 := max 1000000000 rr, coolSince := none,
                thrSince := now, regs := p.regs.setFld .ptmThrstat 28 28 1 },
       [mkReport 0x0A 0x01 9 (p.inputObj i) i.kind.code (degArg i.val 12) 0])
  | .active =>
    if p.inputs.all (fun i => decide (i.val ≤ i.start - 36)) ∧ p.trips.isEmpty then
      match p.coolSince with
      | none => ({ p with coolSince := some now }, [])
      | some t =>
        if t + 500 * msT ≤ now then
          ({ p with throttle := .none, coolSince := none, level := 0,
                    thrTime := p.thrTime + (now - p.thrSince) / msT },
           [mkReport 0x0A 0x02 0 0 0 0 0])
        else (p, [])
    else ({ p with coolSince := none }, [])

/-- Clusters newly under the rule of R430, for one kind of input. -/
def nosnsReports (old new : List Nat) (kind : Nat) : List Report :=
  (new.filter fun k => !old.contains k).map fun k => mkReport 0x0A 0x03 3 k kind 0 0

/-- The on-die sample of every 10 ms (R428 to R432, R435). `minTj` is the grade's lowest junction temperature in quarters. -/
def Ptm.sensorSample (p : Ptm) (now : Nat) (readings : List Int) (minTj : Int) (rw rr : Nat) : Ptm × List Report :=
  let q := p.takeReadings now readings
  let dead := (List.range 8).filter fun k => (q.trustedOf [2 * k, 2 * k + 1]).isEmpty
  let below := match q.composite with
    | some x => decide (x < minTj)
    | none => q.belowMin
  let q : Ptm := ({ q with nosnsJ := dead, belowMin := below }.pushHist.bandsNow now).tripsNow now
  let (q, rs) := q.throttleNow now rw rr
  (q, nosnsReports p.nosnsJ dead 0
        ++ (if below && !p.belowMin then [mkReport 0x0A 0x04 9 0 0 0 0] else []) ++ rs)

/-- The NAND temperatures a cluster scheduler reads every 100 ms (R430). -/
def Ptm.nandRead (p : Ptm) (now k : Nat) (readings : Tab Int) : Ptm × List Report :=
  let q := p.takeNand now k readings
  let dead := if q.hasNand k && (q.nandOf k).isEmpty then (if q.nosnsN.contains k then q.nosnsN else k :: q.nosnsN)
              else q.nosnsN.filter (· ≠ k)
  (({ q with nosnsN := dead }).bandsNow now, nosnsReports p.nosnsN dead 1)

/-- The mean of an input's last 100 ms, in twelfths of a degree. -/
def mean100 (h : List Int) (v : Int) : Rat :=
  let xs := h.take 10
  if xs.isEmpty then v else (xs.foldl (· + ·) 0 : Int) / (xs.length : Rat)

/-- The contribution of one input to L (R433). -/
def Ptm.inputLevel (p : Ptm) (i : Input) : Rat :=
  min 1 (max 0 ((mean100 (Tab.getD p.hist i.key []) i.val - (i.start : Rat)) / (12 * (p.tspan : Rat))))

/-- L and its source, computed every 100 ms while ACTIVE (R433). -/
def Ptm.levelNow (p : Ptm) : Ptm :=
  if p.throttle = .active then
    let best := p.inputs.foldl (fun (b : Rat × Nat) i =>
      let l := p.inputLevel i
      if b.1 < l then (l, i.kind.code) else b) (0, 0)
    let l := if p.trips.isEmpty then best.1 else max (1 / 3) best.1
    { p with level := l, levelSrc := best.2 }
  else p

/-- The three fractions of R433, from the floors in percent. -/
def Ptm.fw (p : Ptm) : Rat := 1 - (1 - (p.regs.fld .ptmThrcfg 7 0 : Rat) / 100) * min 1 (3 * p.level)
def Ptm.fc (p : Ptm) : Rat := 1 - (1 - (p.regs.fld .ptmThrcfg 15 8 : Rat) / 100) * min 1 (max 0 (3 * p.level - 1))
def Ptm.fr (p : Ptm) : Rat := 1 - (1 - (p.regs.fld .ptmThrcfg 23 16 : Rat) / 100) * min 1 (max 0 (3 * p.level - 2))

/-- STAGE of R433. -/
def Ptm.stage (p : Ptm) : Nat :=
  match p.throttle with
  | .none => 0
  | _ => if p.level ≤ 1 / 3 then 1 else if p.level ≤ 2 / 3 then 2 else 3

/-- Time spent ACTIVE, in ms (R438). -/
def Ptm.activeMs (p : Ptm) (now : Nat) : Nat := p.thrTime + if p.throttle = .active then (now - p.thrSince) / msT else 0

/-- The throttle enters SHUTDOWN (R432, R436). -/
def Ptm.shutDown (p : Ptm) (now : Nat) : Ptm := { p with throttle := .shutdown, shutAt := now, thrTime := p.activeMs now }

/-- What the 24 on-die sensors read, trusted or not. -/
def Ptm.onDie (p : Ptm) : List Int := (List.range 24).map fun n => (Tab.getD p.sensors n .initial).reading

/-- Of the 24 sensors, those that read 120 °C or more, in quarters of a degree; trust plays no part (R4, R436). -/
def hotCount (readings : List Int) : Nat := ((readings.take 24).filter fun x => decide (480 ≤ x)).length

/-- The register views of PTM's status. -/
def Ptm.thrstat (p : Ptm) : W32 :=
  let tmax := match p.composite with
    | some x => ((x / 4) % 256).toNat
    | none => 0x80
  ((((((p.regs.get .ptmThrstat).setBits 31 30 p.stage).setBits 29 29 (b2n (!p.trips.isEmpty))).setBits 26 24
    p.jband.band).setBits 23 16 (p.level * 255).floor.toNat).setBits 15 8 tmax).setBits 7 6 p.levelSrc
def Ptm.snstrust (p : Ptm) : W32 :=
  p.sensors.foldl (fun w e => w.setBits e.1 e.1 (b2n (!e.2.trusted))) 0
def Ptm.nband (p : Ptm) : W32 :=
  let w := p.nbands.foldl (fun w e => w.setBits (3 * e.1 + 2) (3 * e.1) e.2.band) 0
  (List.range 8).foldl (fun w k => w.setBits (24 + k) (24 + k) (b2n (p.nosnsJ.contains k || p.nosnsN.contains k))) w

/-- Reads of PTM's registers. -/
def Ptm.view (p : Ptm) (r : Reg) : W32 :=
  match r with
  | .ptmHuestat => p.huestat
  | .ptmThrstat => p.thrstat
  | .ptmSnstrust => p.snstrust
  | .ptmNband => p.nband
  | _ => p.regs.get r

/-- A temperature byte of log page 0xC6; 0x80 stands for untrusted or absent. -/
def tempByte (x : Option Int) (units : Int) : List Byte :=
  match x with
  | none => [0x80]
  | some t => leBytes 1 ((t / units) % 256).toNat

/-- Log page 0xC6 (R438). -/
def Ptm.logC6 (p : Ptm) (protect : Bool) (now : Nat) : List Byte :=
  leBytes 1 p.hue.code ++ leBytes 1 (b2n (!protect)) ++ zeros 2
    ++ leBytes 4 (p.energy * 1000).floor.toNat
    ++ leBytes 4 ((p.cap.getD 0) * 1000000).floor.toNat ++ leBytes 4 (p.esr * 1000).floor.toNat
    ++ leBytes 8 p.lastTestStamp ++ leBytes 4 p.testFails ++ leBytes 4 p.dumpSeq ++ leBytes 8 p.dumpBytes
    ++ leBytes 4 p.dumpTime ++ leBytes 1 p.dumpRes
    ++ leBytes 1 p.stage ++ leBytes 1 (p.level * 255).floor.toNat ++ leBytes 1 p.jband.band
    ++ leBytes 8 (p.activeMs now)
    ++ leBytes 4 p.rorTrips ++ zeros 4
    ++ (List.range 24).flatMap (fun n => match Tab.get? p.sensors n with
        | some s => tempByte (if s.trusted then some s.reading else none) 4
        | none => [0x80])
    ++ (List.range 8).flatMap (fun k => tempByte (maxInt (p.nandOf k)) 4)
    ++ (List.range 12).flatMap (fun n => tempByte (Tab.get? p.dram n) 1)
    ++ (List.range 8).flatMap (fun k => leBytes 1 (Tab.getD p.nbands k ⟨0, 0⟩).band) ++ zeros 12

/-- PTM at its power-on values, with the board's parameters loaded. -/
def Ptm.initial (b : HueParams) : Ptm :=
  { regs := [], board := b, hue := .absent, v := 0, inRange := none, outCount := 0, lowCount := 0, pfCount := 0,
    passed := false, protSince := none, cap := none, esr := 0, testFail := false, testWanted := false, testRun := none,
    lastTest := none, degradedAt := 0, lastTestStamp := 0, testFails := 0, pfail := false, dump := none, dumpSeq := 0,
    dumpBytes := 0, dumpTime := 0, dumpRes := 0, sensors := [], nand := [], dram := [], hist := [], nosnsJ := [],
    nosnsN := [], jband := ⟨0, 0⟩, nbands := [], belowMin := false, throttle := .none, rw0 := 0, rr0 := 0, level := 0,
    levelSrc := 0, coolSince := none, trips := [], rorTrips := 0, thrTime := 0, thrSince := 0, thermtrip := false, shutAt := 0 }

end Sys2Proof.Machine
end

