-- ==== Sys2Proof/Machine/Replay.lean ====
section
/-! DEFINITION. Checkpoints and their descriptors (R224 to R226), the power-loss dump (R422 to R427), replay (R227), the flash
side at a start (R242), and Parity Compute jobs (R287 to R292). -/

namespace Sys2Proof.Machine

/-! ## Checkpoints -/

/-- A checkpoint descriptor (R226). `valid`: the VALID byte. -/
def Ckpt.bytes (c : Ckpt) (valid : Nat) : List Byte :=
  let head := leBytes 4 0x44504B43 ++ leBytes 4 c.seq ++ leBytes 7 c.jpos ++ leBytes 1 valid
  let body := leBytes 8 c.cseq ++ leBytes 8 c.hours ++ leBytes 1 (b2n c.clean) ++ zeros 7
    ++ fit 128 ((c.dir.take 16).flatMap fun l => leBytes 8 (mapWord (some l))) ++ zeros 3924
  head ++ body ++ leBytes 4 (crc32c body)

/-- The store offset of a checkpoint's slot in the ring of 2,048 (R226). -/
def Ckpt.offset (c : Ckpt) : Nat := 0x6400000 + c.seq % 2048 * 4096

/-- The journal limit that starts a checkpoint, in bytes (R224). -/
def Ptx.ckptj (p : Ptx) : Nat := gib * p.regs.fld .ptxCkptcfg 4 0

/-- CHECKPOINT_START (R224): the start record, JPOS and CSEQ, and the first descriptor copy: the two words that are known by then, since every other word
is programmed once (R226; log entry 194). The chunks dirtied since the last checkpoint are to be
written; the others keep their places. -/
def Flash.ckptStart (f : Flash) (now hours : Nat) (clean : Bool) : Flash × List Note :=
  if f.ptx.ckptRun.isSome then (f, [])
  else
    let here := fun k : Nat => (f.ns? (k / 2 ^ 48)).isSome
    let c : Ckpt :=
      { seq := f.ptx.ckptSeq + 1, jpos := f.ptx.jnext, cseq := f.ptx.wsn, hours := hours, clean := clean, map := []
        chunks := Tab.keep f.ptx.ckpt.chunks fun k _ => here k, todo := f.ptx.dirtyChunks.filter here }
    let p := f.ptx.log now .checkpoint f.ptx.wsn true
    ({ f with ptx := { p with ckptRun := some c, ckptStage := 0, ckptSeq := c.seq, dirtyChunks := [] } }, [.descriptor c.offset ((c.bytes 0xFF).take 32)])

/-- A checkpoint starts when the journal has reached CKPTJ (R224). -/
def Flash.ckptIfDue (f : Flash) (now hours : Nat) : Flash × List Note :=
  if f.ptx.ckptj ≤ f.ptx.jbytes then f.ckptStart now hours false else (f, [])

/-- The map a checkpoint writes: an Oasis entry stands as the entry it replaced (R197). -/
def Flash.ckptMap (f : Flash) : Tab MapEnt :=
  f.ptx.map.filterMap fun e => match e.2 with
    | .oasis k => ((Tab.get? f.ptx.slots k).bind fun s => s.replaced).map fun x => (e.1, x)
    | x => some (e.1, x)

/-- Delta records that are in no programmed journal stripe, newest first. -/
def Ptx.loose (p : Ptx) : List JRec := p.tail ++ p.flying

/-- Lease generations that delta records, newest first, leave on others (R70, R224). -/
def gensAfter (gens : Tab Nat) (rs : List JRec) : Tab Nat :=
  rs.foldr (fun r t => match r.kind with
    | .lease nsx gen => Tab.set t nsx gen
    | _ => t) gens

/-- The band table of a checkpoint: by serial, whether the band is closed (R224). -/
def Ptx.bandTable (p : Ptx) : Tab Bool := p.bands.foldl (fun t e => Tab.set t e.2.serial (e.2.st != .opened && e.2.st != .parked)) []

/-- CHECKPOINT_COMPLETE (R224): the chunks, the band table, the generations and the directory are written; the rest of the descriptor is programmed, and
its first word again with the VALID mark (R226). -/
def Flash.ckptSeal (f : Flash) : Flash × List Note :=
  match f.ptx.ckptRun with
  | none => (f, [])
  | some c =>
    let d : Ckpt := { c with map := f.ckptMap, bands := f.ptx.bandTable, gens := gensAfter f.ptx.ckpt.gens (f.ptx.loose ++ f.ptx.journal) }
    ({ f with ptx := { f.ptx with ckptRun := some d, ckptStage := 2 } },
      [.descriptor (d.offset + 32) ((d.bytes 0x00).drop 32), .descriptor d.offset ((d.bytes 0x00).take 16)])

/-- A band of barchans 16 to 18 that a complete checkpoint has made free (R205): every record precedes its JPOS, or it holds no chunk and no table of it. -/
def Band.superseded (b : Band) (c : Ckpt) : Bool :=
  b.st = .full && (if b.barchan = 18 then decide (b.jlast < c.jpos)
    else (b.barchan = 16 || b.barchan = 17) && !(c.chunks.any (fun e => b.holds (some e.2))) && !(c.dir.any fun l => b.holds (some l)))

/-- The running checkpoint is the newest complete one: the journal before its JPOS is not needed any more (R205, R224, R226). -/
def Ptx.ckptTake (p : Ptx) (c : Ckpt) : Ptx :=
  { p with
    ckpt := c, ckptRun := none, ckptStage := 0, journal := p.journal.filter fun r => decide (c.jpos ≤ r.no)
    bands := p.bands.map fun e => (e.1, if e.2.superseded c then { e.2 with st := .reclaimable } else e.2) }

/-- A checkpoint that cannot be completed is given up: its chunks stand to be written again (DEDUCED, log entry 192). -/
def Ptx.ckptDrop (p : Ptx) : Ptx :=
  match p.ckptRun with
  | none => p
  | some c =>
    let moved := Tab.keysWhere c.chunks fun k l => Tab.get? p.ckpt.chunks k != some l
    let flying := ((p.wls.flatMap fun e => e.2.stripes) ++ p.waiting.flatMap fun e => e.2).flatMap fun s => s.chunks
    { p with ckptRun := none, ckptStage := 0, dirtyChunks := distinct (p.dirtyChunks ++ c.todo ++ moved ++ flying) }

/-- The program of a descriptor that PTX's port asked for has ended (R224): the chunks follow the first copy, the checkpoint is complete with its VALID
mark. -/
def Flash.ckptProgrammed (f : Flash) (ok : Bool) : Flash :=
  match f.ptx.ckptRun with
  | none => f
  | some c =>
    if !ok then { f with ptx := f.ptx.ckptDrop }
    else if f.ptx.ckptStage = 0 then { f with ptx := { f.ptx with ckptStage := 1 } }
    else if f.ptx.ckptStage = 2 then { f with ptx := { f.ptx with ckptStage := 3 } }
    else if f.ptx.ckptStage = 3 then { f with ptx := f.ptx.ckptTake c }
    else f

/-- TAS admits no write (R225): with the records of the data in the Oasis and of a write of `ius` more IUs, the journal would reach 2 × CKPTJ before the
running checkpoint ends. -/
def Flash.ckptHeld (f : Flash) (ius : Nat) : Bool :=
  f.ptx.ckptRun.isSome && decide (2 * f.ptx.ckptj ≤ f.ptx.jbytes + 16 * ((f.ptx.slots.filter fun e => e.2.stage != .superseded).length + ius))

/-! ## The dump (R422 to R425) -/

/-- The order of R423: data completed in protected mode first, oldest WSN first. -/
def Flash.dumpOrder (f : Flash) : List (Nat × OSlot) :=
  let live := f.ptx.slots.filter fun e => e.2.stage != .superseded
  let first := fun s : OSlot => if f.ptx.unp then s.drain else s.completed
  (live.filter fun e => first e.2).foldr (insertBy slotBefore) [] ++ (live.filter fun e => !first e.2).foldr (insertBy slotBefore) []

/-- What fits into a number of granules, whole groups only (R424). -/
def Flash.fitGroups (f : Flash) (room : Nat) : List (Nat × OSlot) → Tab OSlot
  | [] => []
  | (k, s) :: rest =>
    let g := f.slotGranules s
    let mine := (rest.takeWhile fun e => e.2.group == s.group).map fun e => f.slotGranules e.2
    if g + mine.sum ≤ room then Tab.set (f.fitGroups (room - g) rest) k s else []

/-- The dump at detection, and the granules it leaves out (R423, R424). Superseded granules are not carried. -/
def Flash.makeDump (f : Flash) (seq : Nat) : WadiDump × Nat :=
  let order := f.dumpOrder
  let slots := f.fitGroups f.dumpRoom order
  let n := (slots.map fun e => f.slotGranules e.2).sum
  let all := (order.map fun e => f.slotGranules e.2).sum
  (⟨f.ptx.loose, slots, seq, true, !f.ptx.unp, n, 0, 0, f.ptx.loose.length, f.ptx.wsn⟩, all - n)

/-- The user bytes of a dump's header or trailer frame: SIG and the fields they share, HOURS as at the header (R425; both take one time in this model,
log entry 213). -/
def WadiDump.frame (d : WadiDump) (sig : Nat) : List Byte :=
  let body := fit 4092 (leBytes 4 sig ++ leBytes 4 d.seq ++ leBytes 8 d.hours ++ leBytes 1 (b2n !d.prot) ++ leBytes 1 d.cause ++ zeros 6
    ++ leBytes 8 d.jrec ++ leBytes 8 d.ngran ++ leBytes 8 d.cseq)
  body ++ leBytes 4 (crc32c body)

def WadiDump.header (d : WadiDump) : List Byte := d.frame 0x50444157
def WadiDump.trailerFrame (d : WadiDump) : List Byte := d.frame 0x4C494154

/-- Bytes of a dump: granules, as the restore time counts them. -/
def WadiDump.bytes (d : WadiDump) : Nat := d.ngran * 4096

/-! ## Replay (R227) -/

/-- What replay builds: the entries, the WSN of each version set by a record, the band table and the lease generations. -/
structure Replaying where
  map : Tab MapEnt
  wsns : Tab Nat
  bands : Tab Bool
  gens : Tab Nat

/-- Applies one delta record (step 4). -/
def Replaying.record (r : Replaying) (j : JRec) : Replaying :=
  match j.kind with
  | .entry nsx iu e =>
    { r with
      map := match e with
        | some x => Tab.set r.map (mapKey nsx iu) x
        | none => Tab.erase r.map (mapKey nsx iu)
      wsns := Tab.set r.wsns (mapKey nsx iu) j.wsn }
  | .bandOpen serial => { r with bands := Tab.set r.bands serial false }
  | .bandClose serial => { r with bands := Tab.set r.bands serial true }
  | .lease nsx gen => { r with gens := Tab.set r.gens nsx gen }
  | _ => r

/-- The records from a number on, in order, up to the first gap (step 4: replay stops at the first stripe not wholly programmed). -/
def upToGap (next : Nat) : List JRec → List JRec
  | [] => []
  | r :: rs => if r.no < next then upToGap next rs else if r.no = next then r :: upToGap (next + 1) rs else []

/-- The dump's journal tail, without what has been programmed since it was made (R227 step 3, R427). -/
def Flash.dumpTail (f : Flash) : List JRec :=
  match f.ptx.dump with
  | some d => d.tail.filter fun r => !(f.ptx.journal.any fun j => j.no == r.no)
  | none => []

/-- The records that replay applies, in order: those in programmed stripes and the dump's, from JPOS on. -/
def Flash.applied (f : Flash) : List JRec :=
  upToGap f.ptx.ckpt.jpos ((f.ptx.journal ++ f.dumpTail).foldr (insertBy fun a b => decide (a.no ≤ b.no)) [])

/-- Steps 2 to 4: the newest complete checkpoint and the records since. -/
def Flash.journalReplay (f : Flash) : Replaying :=
  f.applied.foldl Replaying.record ⟨f.ptx.ckpt.map, [], f.ptx.ckpt.bands, f.ptx.ckpt.gens⟩

/-- The WSN of an IU's current version: of the record that set it, otherwise of the frame its entry names. -/
def Flash.versionOf (f : Flash) (r : Replaying) (key : Nat) : Option Nat :=
  match Tab.get? r.wsns key with
  | some w => some w
  | none => match Tab.get? r.map key with
    | some (.media d b fr) => (Tab.get? f.ptx.media (locKey d b fr)).map fun x => x.wsn
    | _ => none

/-- Whether a version is newer than an IU's current one; an IU unmapped in the checkpoint takes only WSNs from CSEQ on. -/
def Flash.newer (f : Flash) (r : Replaying) (key wsn : Nat) : Bool :=
  match f.versionOf r key with
  | some w => decide (w < wsn)
  | none => decide (f.ptx.ckpt.cseq ≤ wsn)

/-- The group that a frame belongs to (R120, R200). -/
def Flash.frameGroup (f : Flash) (x : Frame) : Nat × Nat :=
  (x.nsx, groupOf x.wsn (x.lba * ((f.ns? x.nsx).map Ns.blockBytes).getD 4096))

/-- Frames of complete stripes past the frontiers of the bands still open, one per IU, whose groups are whole, from the first frame to the one that ends
the group (step 5). -/
def Flash.pastFrontiers (f : Flash) (table : Tab Bool) : List (Nat × Nat × MapEnt) :=
  let opened := f.ptx.bands.filter fun e => Tab.get? table e.2.serial == some false
  let fs := f.ptx.media.filter fun e => opened.any fun o =>
    o.2.set.contains (e.1 / 2 ^ 27, e.1 / 2 ^ 15 % 4096) && decide (o.2.frontier ≤ e.1 % 2 ^ 15 / 16)
  let whole := fun (x : Frame) =>
    fs.any (fun y => y.2.gstart && f.frameGroup y.2 == f.frameGroup x) && fs.any fun y => y.2.gend && f.frameGroup y.2 == f.frameGroup x
  (fs.filter fun e => e.2.iuoff == 0 && !e.2.pad && whole e.2).filterMap fun e =>
    (f.ns? e.2.nsx).map fun n =>
      (mapKey e.2.nsx (e.2.lba / n.perIu), e.2.wsn, .media (e.1 / 2 ^ 27) (e.1 / 2 ^ 15 % 4096) (e.1 % 2 ^ 15))

/-- The blocks at a start: their records rebuilt from the band table (R242). -/
def Flash.buildBlocks (f : Flash) : Flash :=
  let blks := f.mbe.blks.map fun e => (e.1, f.rebuiltBlk e.1 e.2)
  { f with mbe := { f.mbe with blks := blks, dies := [] } }

/-- A band at a start (R227 steps 4 and 7): one still open closes short at its last complete stripe; copies and erases are to be taken up again. -/
def Flash.bandBack (f : Flash) (hours : Nat) (table : Tab Bool) (k : Nat) (b : Band) : Band :=
  let own := decide (16 ≤ b.barchan ∧ b.barchan ≤ 18)
  let b : Band :=
    if Tab.get? table b.serial == some false || b.st = .opened || b.st = .parked then
      let n := b.committed + ((Tab.getD f.ptx.waiting b.barchan []).filter fun s => s.band == k).length
      { b with placed := n, committed := n, frontier := n, closed := hours }
    else b
  { b with st := if own && (b.st = .reclaimable || b.st = .erasing) then .reclaimable else .full, waitsFor := none, erased := [] }

/-- Zero counters that run from power-on (R135, R294). -/
def Dip.restart (p : Dip) : Dip :=
  { p with
    regs := [], jobs := [], tokens := 0, rdcnt := [], pcJobs := [], lastPc := 0, unrec := 0, mirages := 0, mirdeny := 0
    softdec := 0, dunerec := 0, mispl := 0, reliability := false, published := [], patrolAt := 0
    dies := p.dies.map fun e =>
      (e.1, { e.2 with
        soft := 0, dune := 0, heldOut := false, expiries := [], hurt := [], suspectAt := 0, promoting := none
        health := if e.2.health = .suspect then .inService else e.2.health }) }

/-- The flash side at a start: what power loss leaves, restored by replay (R136, R227, R242, R426). -/
def Flash.replay (f : Flash) (now hours : Nat) : Flash :=
  let applied := f.applied
  let r0 := f.journalReplay
  let r1 := (f.pastFrontiers r0.bands).foldl (fun (r : Replaying) x =>
    if f.newer r x.1 x.2.1 then { r with map := Tab.set r.map x.1 x.2.2, wsns := Tab.set r.wsns x.1 x.2.1 } else r) r0
  let above := fun (key wsn : Nat) => match f.versionOf r1 key with
    | some w => decide (w < wsn)
    | none => true
  let back : Tab OSlot := match f.ptx.dump with
    | some d => d.slots.filter fun e => above (mapKey e.2.nsx e.2.iu) e.2.wsn
    | none => []
  let slots := back.map fun e =>
    (e.1, { e.2 with
      replaced := Tab.get? r1.map (mapKey e.2.nsx e.2.iu), stage := .waiting, completed := true, drain := false, restored := true
      merging := false, merged := [] })
  let map := slots.foldl (fun m e => Tab.set m (mapKey e.2.nsx e.2.iu) (.oasis e.1)) r1.map
  let known := f.ptx.bands.filter fun e => Tab.has r1.bands e.2.serial
  let bands := known.map fun e => (e.1, f.bandBack hours r1.bands e.1 e.2)
  let last := applied.foldl (fun m r => max m (r.no + 1)) f.ptx.ckpt.jpos
  let lost := f.ptx.loose.filter fun r => !(applied.any fun a => a.no == r.no)
  let dirty := distinct ((r1.wsns.map Prod.fst ++ slots.map fun e => mapKey e.2.nsx e.2.iu).map fun key => chunkKey (key / 2 ^ 48) (key % 2 ^ 48))
  let p : Ptx :=
    { f.ptx with
      regs := [], map := map, slots := slots, cache := [], bands := bands, filling := [], wls := [], waiting := [], copies := []
      media := Tab.keep f.ptx.media fun l _ => known.any fun e => e.2.set.contains (l / 2 ^ 27, l / 2 ^ 15 % 4096)
      tail := (applied.filter fun r => f.dumpTail.any fun d => d.no == r.no).reverse, tailAt := now
      journal := f.ptx.journal.filter fun r => applied.any fun a => a.no == r.no
      jnext := last, ckptRun := none, ckptStage := 0, dirtyChunks := dirty
      holds := [], purges := [], mustPad := [], readyAt := [], cap := if f.ptx.cap = 5 then 5 else 0, capSince := none, freed := 0
      unp := true, reason := 0, switches := 0, lastSw := 0, draining := false, exposed := false, flushes := 0, maxFlush := 0
      wadiErased := 0 }
  let gone := lost.filterMap fun r => match r.kind with
    | .redirect a _ => some a
    | _ => none
  let dip := f.dip.restart
  let g : Flash := { f with ptx := p, dip := { dip with redirect := Tab.keep dip.redirect fun k _ => !gone.contains k } }
  let h := (g.buildBlocks).restartZones.settle
  { h with mbe := { h.mbe with regs := [], chSt := [], trained := [], tband := [] } }

/-- A power loss that is followed by a restart: without a dump the Oasis and the journal tail are lost (R136); with one, the dump
holds what it carried. -/
def Flash.powerLost (f : Flash) (dump : Option WadiDump) : Flash :=
  let used := match dump with
    | some d => d.bytes + 268435456
    | none => 0
  let kept := match dump with
    | some d => some d
    | none => f.ptx.dump
  { f with ptx := { f.ptx with dump := kept, wadiErased := f.ptx.wadiErased - used } }

/-- HELD clears when every restored granule has been programmed and committed and its journal stripe programmed; the Wadi's blocks are erased from
then on (R242, R427). -/
def Flash.wadiRelease (f : Flash) : Flash :=
  match f.ptx.dump with
  | some d =>
    if !(f.ptx.slots.any fun e => e.2.restored) && f.ptx.tail.isEmpty && f.ptx.flying.isEmpty then
      { f with ptx := { f.ptx with dump := none, restored := d.seq } }
    else f
  | none => f

/-! ## Sanitize (R375) -/

/-- A frame on the media or in the Oasis was written with a pool slot (R376). -/
def Flash.hostKeyed (f : Flash) : Bool :=
  (f.ptx.media.any fun e => decide (8192 ≤ e.2.keyslot)) || f.ptx.slots.any fun e => decide (8192 ≤ e.2.keyslot)

/-- A namespace's zones after a Sanitize: Empty, but for Offline ones (R375). -/
def Ns.emptyZones (n : Ns) : Ns := { n with zones := Tab.keep n.zones fun _ z => z.st == .offline }

/-- What every sanitize does to user data: the Oasis is discarded, every IU unmapped, with delta records (R196), then the journal and the checkpoints
emptied and the zones reset (R375). -/
def Flash.discardAll (f : Flash) (now hours : Nat) : Flash :=
  let f := f.ptx.nss.foldl (fun (g : Flash) e => g.unmap now e.1 (g.mappedIus e.1) (f.ptx.wsn + 1)) f
  let f : Flash := { f with ptx := { f.ptx with wsn := f.ptx.wsn + 1 } }
  let g := (Tab.keysWhere f.ptx.bands fun _ b => b.st = .opened || b.st = .parked).foldl (fun (g : Flash) k => g.closeShort now hours k) f
  let p := g.ptx
  let own := fun b : Band => decide (16 ≤ b.barchan ∧ b.barchan ≤ 18)
  let bands := p.bands.map fun e => (e.1, if own e.2 && e.2.st = .full then { e.2 with st := .reclaimable } else e.2)
  let ckpt : Ckpt :=
    { p.ckpt with map := [], jpos := p.jnext, cseq := p.wsn + 1, bands := p.bandTable, chunks := [], dir := [], todo := []
                  gens := gensAfter p.ckpt.gens (p.loose ++ p.journal) }
  Flash.settle
    { g with
      ptx := { p with
        nss := Tab.mapVals p.nss fun _ n => n.emptyZones
        map := [], slots := [], cache := [], copies := [], wls := [], waiting := [], tail := [], journal := [], bands := bands, purges := []
        mustPad := [], readyAt := [], dirtyChunks := [], ckpt := ckpt, ckptRun := none, ckptStage := 0, draining := false, exposed := false } }

/-- Every good block is erased some times, the Wadi included (R375); a dump held there is gone with it. A block that had not been erased since the start
is still erased before its first use (R242; DEDUCED, log entry 193). -/
def Flash.eraseAll (f : Flash) (times : Nat) : Flash :=
  let blks := f.mbe.blks.map fun e =>
    (e.1, if e.2.st = .bad then e.2 else { e.2 with st := .erased, slc := e.2.pool, next := 0, done := 0, ecnt := min 1048575 (e.2.ecnt + times) })
  let ckpt : Ckpt := { f.ptx.ckpt with bands := [] }
  let g : Flash :=
    { f with
      mbe := { f.mbe with blks := blks, base := min 1048575 (f.mbe.base + times), dies := [] }
      ptx := { f.ptx with bands := [], filling := [], wls := [], waiting := [], media := [], dump := none, ckpt := ckpt, holds := [] }
      dip := { f.dip with jobs := [], redirect := [], rdcnt := [] } }
  { g with ptx := { g.ptx with wadiErased := g.wadiCount } }

/-! ## Parity Compute (R287 to R292) -/

/-- A job descriptor's fields are in range (R288, R290). -/
def PcDesc.ok (d : PcDesc) : Bool :=
  decide (d.op ≤ 1) && decide (1 ≤ d.nin ∧ d.nin ≤ 32) && decide (1 ≤ d.nout ∧ d.nout ≤ 4) && decide (d.flags ≤ 1)
    && decide (1 ≤ d.len ∧ d.len ≤ 256) && d.reservedZero


/-- Jobs that run, in all and of an instance. -/
def Dip.pcRunning (p : Dip) : Nat := (p.pcJobs.filter fun e => e.2.running).length
def Dip.pcOf (p : Dip) (inst : Nat) : Nat := (p.pcJobs.filter fun e => e.2.running && e.2.inst == inst).length

/-- The job that starts next: the instances in rotation, FSN order within one, at most PCJOBS and 4 per instance (R291). -/
def Dip.pcNext (p : Dip) : Option (Nat × PcJob) :=
  if p.regs.fld .dipPccfg 21 16 ≤ p.pcRunning then none
  else
    let cs := p.pcJobs.filter fun e => !e.2.running && decide (p.pcOf e.2.inst < 4)
    match leastBy (fun e : Nat × PcJob => (e.2.inst + 2048 - p.lastPc - 1) % 2048) cs with
    | none => none
    | some m => firstFsn (fun e : Nat × PcJob => e.2.fsn) (cs.filter fun e => e.2.inst == m.2.inst)

/-- No parity, reconstruction or rebuild work is queued (R291). -/
def Flash.engineFree (f : Flash) : Bool :=
  !(f.dip.jobs.any fun e => e.2.stage == .localRec || e.2.stage == .globalRec || e.2.stage == .mirage)
    && !(f.ptx.wls.any fun e => !e.2.issued) && f.rebuilding.isEmpty

/-- The outputs of a job over its input buffers (R289). -/
def PcDesc.outputs (d : PcDesc) (inputs : List (List Nat)) : List (List Nat) :=
  (List.range d.nout).map fun j =>
    let coef := if d.op = 1 then List.replicate d.nin 1 else (d.coef.getD j []).take d.nin
    (List.range (d.len * 4096)).map fun b => paritySum coef (inputs.map fun i => i.getD b 0)

/-- The first byte that differs, with its output (R289). -/
def firstDiff (a b : List (List Nat)) : Option (Nat × Nat) :=
  ((a.zip b).zipIdx.filterMap fun p => ((p.1.1.zip p.1.2).findIdx? fun x => x.1 != x.2).map fun i => (i, p.2)).head?

/-! ## At reset -/

def Ptx.initial : Ptx :=
  { regs := [], nss := [], map := [], slots := [], cache := [], wsn := 0, bands := [], nextSerial := 1, filling := [], wls := []
    waiting := [], copies := [], nextId := 0, media := [], tail := [], tailAt := 0, jnext := 0, journal := []
    ckpt := { seq := 0, jpos := 0, cseq := 0, hours := 0, clean := true, map := [] }, ckptRun := none, ckptStage := 0, ckptSeq := 0
    dirtyChunks := [], holds := [], purges := [], mustPad := [], readyAt := []
    cap := 0, capSince := none, capWsn := 0, freed := 0, spent := 0, unp := true, reason := 0, switches := 0, lastSw := 0
    draining := false, exposed := false, wlWindow := 0, wlMoved := 0, flushes := 0, maxFlush := 0, fdp := false, fdpEnable := [], fdpLog := [], stats := [], hostRead := 0
    hostWritten := 0, hostMeta := 0, growths := [], mediaWritten := 0, mediaErased := 0, readCmds := 0, writeCmds := 0, mediaErrors := 0, unsafeShut := 0
    wadiErased := 0, dump := none, restored := 0, wadiSwapAt := 0 }

def Mbe.initial : Mbe :=
  { regs := [], blks := [], base := 0, dies := [], chSt := [], trained := [], tband := [], wadiSwap := [] }

def Dip.initial : Dip :=
  { regs := [], dies := [], jobs := [], tokens := 0, redirect := [], rdcnt := [], pcJobs := [], lastPc := 0, unrec := 0
    mirages := 0, mirdeny := 0, softdec := 0, dunerec := 0, mispl := 0, reliability := false, published := [], patrolAt := 0 }

/-- The reference attachment: eight clusters of eight channels, 8 CEs of 4 LUNs, the reference QLC die at 3,600 MT/s (R6,
R234). -/
def Attached.reference : Attached :=
  { clusters := (List.range 8).map fun k => (k, ⟨0xFF, 8, 4, 0, 9⟩), descs := [(0, {})] }

end Sys2Proof.Machine
end

