-- ==== Sys2Proof/Machine/Sec.lean ====
section
/-! DEFINITION. What SEC does: key slots and the Seal engine (R361 to R370), boot records and their chain (R351 to R355), SPDM
(R357, R358), XTS lanes (R367), alarms and zeroization (R371 to R374). -/

namespace Sys2Proof.Machine

/-- Namespace slots are 0 to 8,191, pool slots 8,192 to 65,535 (R361). -/
def nsSlots : Nat := 8192
def keySlots : Nat := 65536

/-- The number a key goes by in wrapped blobs. -/
def XKey.num : XKey → Nat
  | .gen n => 2 * n
  | .injected a b => 2 * Nat.pair a b + 1

/-- The 96 B of a wrapped blob (R369): slot index and generation, then IV, wrapped key and tag. -/
def KeyBlob.bytes (b : KeyBlob) : List Byte :=
  leBytes 2 b.slot ++ leBytes 2 b.gen ++ fit 92 (Config.wrapBytes b.slot b.gen b.key.num)

/-- The derived key of a kind (1 DAK, 2 KIK, 3 alias) in the present identity (R345). -/
def Sec.imageDigest (c : Sec) : Nat := ((c.meas.find? fun m => m.kind == 2).map (·.digest)).getD 0
def Sec.dak (c : Sec) : Nat := Config.derivedKey 1 c.stage2Svn c.debugUnlocked 0
def Sec.kik (c : Sec) : Nat := Config.derivedKey 2 c.stage2Svn c.debugUnlocked 0
def Sec.alias' (c : Sec) : Nat := Config.derivedKey 3 c.stage2Svn c.debugUnlocked c.imageDigest

/-! ### Key slots -/

/-- Puts a key into a slot or empties it. -/
def Sec.setSlot (c : Sec) (slot : Nat) (k : Option XKey) : Sec :=
  { c with keys := match k with
      | some x => Tab.set c.keys slot x
      | none => Tab.erase c.keys slot }

/-- A slot change fetched at `fsn` while `live` contexts name the slot (R365): applied at once, or it waits. -/
def Sec.change (c : Sec) (slot : Nat) (k : Option XKey) (fsn live : Nat) (bySeal : Bool) : Sec :=
  if live = 0 ∧ !(c.changes.any fun x => x.slot == slot) then c.setSlot slot k
  else { c with changes := c.changes ++ [⟨slot, k, fsn, bySeal⟩] }

/-- The oldest waiting change of a slot is applied. -/
def Sec.applyChange (c : Sec) (slot : Nat) : Sec :=
  match c.changes.find? fun x => x.slot == slot with
  | none => c
  | some x => ({ c with changes := c.changes.eraseP fun y => y.slot == slot }).setSlot slot x.key

/-- Whether a context fetched at `fsn` waits in ADMITWAIT for a change of its slot (R365). -/
def Sec.slotWait (c : Sec) (slot fsn : Nat) : Bool := c.changes.any fun x => x.slot == slot && fsnUpTo x.fsn fsn

/-- A new key from the DRBG. -/
def Sec.freshKey (c : Sec) : Sec × XKey := ({ c with made := c.made + 1 }, .gen c.made)

/-- The generation a slot's next blob carries. -/
def Sec.nextGen (c : Sec) (slot : Nat) : Nat :=
  match Tab.get? c.blobs slot with
  | some b => (b.gen + 1) % 65536
  | none => 1

/-- KEYGEN for a namespace slot with its blob kept (R362). -/
def Sec.keygen (c : Sec) (slot fsn live : Nat) (bySeal : Bool) : Sec × KeyBlob :=
  let (c1, k) := c.freshKey
  let b : KeyBlob := ⟨slot, c.nextGen slot, k⟩
  (({ c1 with blobs := Tab.set c1.blobs slot b }).change slot (some k) fsn live bySeal, b)

/-- A namespace's key is destroyed: its slot is cleared and its blob erased (R362). -/
def Sec.dropKey (c : Sec) (slot fsn live : Nat) : Sec :=
  ({ c with blobs := Tab.erase c.blobs slot }).change slot none fsn live false

/-- The keys of namespaces that a Crypto Erase or Format replaces, at `fsn`; `live` counts the contexts that name a slot (R375, R376). -/
def Sec.rekey (c : Sec) (fsn : Nat) (live : Nat → Nat) (slots : List Nat) : Sec :=
  slots.foldl (fun (d : Sec) k => (d.keygen k fsn (live k) false).1) c

/-- Every pool slot is cleared (R363, R375). -/
def Sec.clearPool (c : Sec) : Sec :=
  { c with keys := Tab.keep c.keys fun k _ => decide (k < nsSlots), changes := c.changes.filter fun x => decide (x.slot < nsSlots) }

/-- Every namespace key unwrapped from its blob, at start (R362). -/
def Sec.unwrapAll (c : Sec) : Sec := { c with keys := c.blobs.map fun e => (e.1, e.2.key), changes := [] }

/-! ### The Seal engine -/

/-- The Seal software key words 0 to 7; KVALID says that all are written. -/
def Sec.kvalid (c : Sec) : Bool := (List.range 8).all fun i => Tab.has c.skey i
def Sec.skeyWords (c : Sec) : List W32 := (List.range 8).map fun i => Tab.getD c.skey i 0
def Sec.ivWords (c : Sec) : List W32 := (List.range 3).map fun i => c.regs.get (.secSealiv i)
def Sec.tagNat (c : Sec) : Nat := (List.range 4).foldl (fun n i => n + (c.regs.get (.secSealtag i)).toNat * 2 ^ (32 * i)) 0

/-- Refuses a GO with ERR. -/
def Sec.sealErr (c : Sec) : Sec := { c with regs := c.regs.setFld .secSealctl 29 29 1 }

/-- Length padded to whole blocks. -/
def pad16 (n : Nat) : Nat := ceilDiv n 16 * 16

/-- After the zeroization of a debug unlock no key operation runs until the next start (R373). -/
def Sec.noKeys (c : Sec) : Bool := !c.privKeys

/-- GO with OP 0 (R370). -/
def Sec.sealGcm (c : Sec) : Sec :=
  let ctl := c.regs.get .secSealctl
  let dir := ctl.bits 27 27
  let first := ctl.bits 26 26 == 1
  let last := ctl.bits 25 25 == 1
  let alen := c.regs.fld .secSeallen 28 16
  let clen := c.regs.fld .secSeallen 12 0
  if c.run.isSome then c
  else if !c.kvalid || decide (4096 < pad16 alen + pad16 clen) || (!first && decide (0 < alen))
      || (!last && decide (clen % 16 ≠ 0)) then c.sealErr
  else
    let st : GcmState := if first then ⟨[], []⟩ else c.gcm
    let aad := st.aad ++ slice c.buffer 0 alen
    let text := slice c.buffer (pad16 alen) clen
    let out := fit clen (Config.gcmText c.skeyWords c.ivWords st.cipher.length text)
    let cipher := st.cipher ++ (if dir = 0 then out else text)
    let tag := Config.gcmTag c.skeyWords c.ivWords aad cipher
    let fail := decide (dir = 1) && last && tag != c.tagNat
    let body := if fail then zeros 4096
                else fit 4096 (fit (pad16 alen) (slice c.buffer 0 alen) ++ fit (pad16 clen) out ++ c.buffer.drop (pad16 alen + pad16 clen))
    { c with run := some (.gcm body (if dir = 0 ∧ last then some tag else none) fail ⟨aad, cipher⟩) }

/-- GO with OP 1: a new key into a namespace slot, its blob in the buffer (R368). -/
def Sec.sealKeygen (c : Sec) (slot fsn live : Nat) : Sec :=
  if c.run.isSome then c
  else if nsSlots ≤ slot || c.noKeys then c.sealErr
  else
    let (c1, b) := c.keygen slot fsn live true
    { c1 with run := some (.key (fit 4096 b.bytes) false) }

/-- GO with OP 2: the key of an authentic blob into its slot (R368, R369). A blob is authentic when this device made it; its AAD
binds it to its slot (DEDUCED, log entry 22). -/
def Sec.sealUnwrap (c : Sec) (slot fsn live : Nat) : Sec :=
  if c.run.isSome then c
  else if nsSlots ≤ slot || c.noKeys then c.sealErr
  else
    match Tab.get? c.blobs slot with
    | some b =>
      if b.bytes = slice c.buffer 0 96 then
        { (c.change slot (some b.key) fsn live true) with run := some (.key c.buffer false) }
      else { c with run := some (.key c.buffer true) }
    | none => { c with run := some (.key c.buffer true) }

/-- Why an injection blob loads nothing (R364), or the key it holds. `target` is the slot's NSID and key tag. -/
def Sec.injection (c : Sec) (blob : List Byte) (target : Option (Nat × Nat)) : Option XKey :=
  match target, Config.openInjection c.kik blob with
  | some (nsid, tag), some (a, b) =>
    if a ≠ b ∧ leNat (slice blob 100 4) = nsid ∧ leNat (slice blob 104 2) = tag then some (.injected a b) else none
  | _, _ => none

/-- GO with OP 3: an injected key into a pool slot (R364, R368). Answers the report of a refused blob. -/
def Sec.sealInject (c : Sec) (slot fsn live : Nat) (target : Option (Nat × Nat)) : Sec × List Report :=
  if c.run.isSome then (c, [])
  else if slot < nsSlots ∨ keySlots ≤ slot ∨ c.noKeys then (c.sealErr, [])
  else
    match c.injection (slice c.buffer 0 204) target with
    | some k => ({ (c.change slot (some k) fsn live true) with run := some (.key c.buffer false) }, [])
    | none => ({ c with run := some (.key c.buffer true) }, [mkReport 0x08 0x02 13 slot 0 0 0])

/-- GO with OP 4: a namespace slot is emptied (R368). -/
def Sec.sealClear (c : Sec) (slot fsn live : Nat) : Sec :=
  if c.run.isSome then c
  else if nsSlots ≤ slot then c.sealErr
  else { (c.change slot none fsn live true) with run := some (.key c.buffer false) }

/-- The Seal operation finishes (R370); one whose slot change still waits goes on. -/
def Sec.sealDone (c : Sec) : Sec :=
  match c.run with
  | none => c
  | some (.gcm out tag fail st) =>
    let regs := match tag with
      | some t => (List.range 4).foldl (fun (rf : RegFile) i => rf.set (.secSealtag i) (BitVec.ofNat 32 (t / 2 ^ (32 * i)))) c.regs
      | none => c.regs
    { c with run := none, buffer := out, gcm := st, regs := if fail then regs.setFld .secSealctl 28 28 1 else regs }
  | some (.key out fail) =>
    if c.changes.any fun x => x.bySeal then c
    else { c with run := none, buffer := out, regs := if fail then c.regs.setFld .secSealctl 28 28 1 else c.regs }

/-- KCLR (R370): ignored while KLOCK is set. -/
def Sec.kclr (c : Sec) : Sec := if c.regs.bit .secSeallock 0 then c else { c with skey := [] }

/-- KLOCK. -/
def Sec.klock (c : Sec) : Sec := { c with regs := c.regs.setFld .secSeallock 0 0 1 }

/-- A write to SEC_SEALKEYm: ignored while KLOCK is set. -/
def Sec.writeKey (c : Sec) (m : Nat) (v : W32) : Sec :=
  if c.regs.bit .secSeallock 0 then c else { c with skey := Tab.set c.skey m v }

/-! ### XTS lanes (R367) -/

/-- Fences a lane of one direction. -/
def Sec.fence (c : Sec) (write : Bool) (k : Nat) : Sec :=
  { c with regs := c.regs.setFld .secXtsstat (k + if write then 16 else 0) (k + if write then 16 else 0) 1 }

/-- Every lane of one direction is fenced. -/
def Sec.allFenced (c : Sec) (write : Bool) : Bool :=
  (if write then c.regs.fld .secXtsstat 27 16 else c.regs.fld .secXtsstat 11 0) == 4095

/-- The report of a lane fenced (R367, R444). -/
def Sec.fenceReport (c : Sec) (write : Bool) (k : Nat) : Report := mkReport 0x08 0x03 11 k (b2n write) 0 0 (c.allFenced write)

/-- A round-check mismatch on a lane: CHKEV, the lane fenced. -/
def Sec.laneFault (c : Sec) (write : Bool) (k : Nat) : Sec × List Report :=
  let d := ({ c with regs := c.regs.setFld .secXtsstat 30 30 1 }).fence write k
  (d, [d.fenceReport write k])

/-- The known-answer tests of a start (R367): the read and write lanes that fail are fenced. -/
def Sec.kat (c : Sec) (readFail writeFail : List Nat) : Sec × List Report :=
  let a := readFail.foldl (fun (x : Sec × List Report) k => let d := x.1.fence false k; (d, x.2 ++ [d.fenceReport false k])) (c, [])
  let b := writeFail.foldl (fun (x : Sec × List Report) k => let d := x.1.fence true k; (d, x.2 ++ [d.fenceReport true k])) a
  (if readFail.isEmpty ∧ writeFail.isEmpty then b.1 else { b.1 with regs := b.1.regs.setFld .secXtsstat 31 31 1 }, b.2)

/-! ### Alarms and zeroization (R371 to R374) -/

/-- Zeroization: every key slot, the software key and the private keys are erased (R372). -/
def Sec.zeroize (c : Sec) : Sec :=
  { c with keys := [], skey := [], privKeys := false, zeroed := true, changes := [], run := none, building := none }

/-- A number put in front of a list that does not hold it. -/
def insertOnce (n : Nat) (l : List Nat) : List Nat := if l.contains n then l else n :: l

/-- An alarm latches its cause and zeroizes. -/
def Sec.alarm (c : Sec) (n : Nat) : Sec := { c.zeroize with alarms := insertOnce n c.alarms }

/-- SEC_ALARMSTAT (R374). `PREV` stays in the register. -/
def Sec.alarmstat (c : Sec) : W32 :=
  c.alarms.foldl (fun (w : W32) n => w.setBits n n 1) ((c.regs.get .secAlarmstat).setBits 31 31 (b2n c.zeroed))

/-! ### Boot records (R351 to R355) -/

/-- The bytes of a measurement entry (R352). -/
def Meas.bytes (m : Meas) : List Byte :=
  leBytes 1 m.kind ++ leBytes 1 m.slot ++ leBytes 2 (b2n m.changed + 2 * b2n m.xip) ++ leBytes 4 m.svn ++ leBytes 8 m.version
    ++ leBytes 48 m.digest

/-- LEN of a record. -/
def BootRecord.len (r : BootRecord) : Nat := 176 + 64 * r.entries.length + 96

/-- Bytes 0 to LEN - 97 of a record (R351). -/
def BootRecord.body (r : BootRecord) : List Byte :=
  leBytes 4 0x54564C49 ++ leBytes 1 1 ++ leBytes 1 r.entries.length ++ leBytes 2 r.len ++ leBytes 8 r.seq
    ++ leBytes 8 r.hours ++ leBytes 4 r.pcyc ++ leBytes 1 r.cause ++ leBytes 1 r.secst ++ zeros 2 ++ leBytes 48 r.prev
    ++ leBytes 48 r.akid ++ fit 20 r.serial ++ zeros 28 ++ r.entries.flatMap Meas.bytes

/-- The whole record with its signature by the DAK, big-endian (R351, R353). -/
def Sec.signed (c : Sec) (r : BootRecord) : List Byte :=
  let s := Config.signature c.dak r.body
  r.body ++ (leBytes 48 s.1).reverse ++ (leBytes 48 s.2).reverse

/-- The newest entry of the chain area. -/
def Sec.chainTop (c : Sec) : Option (Nat × Nat) :=
  (c.chain0 ++ c.chain1).foldl (fun b e => match b with
    | none => some e
    | some x => if x.1 < e.1 then some e else some x) none

/-- The boot records that the event log holds whole: BOOTSEQ and bytes (R354). -/
def Fev.bootRecords (f : Fev) : List (Nat × List Byte) :=
  f.log.filterMap fun s =>
    match s.2.stage, s.2.ev.body with
    | .valid, .bootPart 0 n _ =>
      let parts := (List.range n).map fun i =>
        (f.log.find? fun t => t.2.stage == .valid && t.2.rseq == s.2.rseq + i).bind fun t =>
          match t.2.ev.body with
          | .bootPart j _ bs => if j = i then some (fit 32 bs) else none
          | _ => none
      if parts.all Option.isSome then
        let bytes := parts.flatMap fun p => p.getD []
        some (leNat (slice bytes 8 8), bytes.take (leNat (slice bytes 6 2)))
      else none
    | _, _ => none

/-- The newest of some records. -/
def newestRecord (rs : List (Nat × List Byte)) : Option (Nat × List Byte) :=
  rs.foldl (fun b e => match b with
    | none => some e
    | some x => if x.1 < e.1 then some e else some x) none

/-- BOOTSEQ and PREV for the next record: the chain's newest entry, or a later record the log holds (R354). -/
def Sec.chainPoint (c : Sec) (log : List (Nat × List Byte)) : Nat × Nat :=
  let a := (c.chainTop).getD (0, 0)
  match newestRecord log with
  | some (n, bs) => if a.1 < n then (n, Config.sha384 bs) else a
  | none => a

/-- Starts the build of a record (R353): ignored while BUSY, once DONE, and without private keys (R373). -/
def Sec.finish (c : Sec) (log : List (Nat × List Byte)) (t : Stamp) (serial : List Byte) : Sec :=
  if c.building.isSome || c.regs.bit .secBrctl 29 || !c.privKeys then c
  else
    let p := c.chainPoint log
    let r : BootRecord :=
        { seq := p.1 + 1, hours := t.hours, pcyc := t.pcyc, cause := c.bootCause,
          secst := b2n c.debugUnlocked + 2 * b2n (c.regs.bit .secAlarmstat 4 || !c.alarms.isEmpty) + 4 * b2n c.svnAdvanced,
          prev := p.2, akid := Config.keyDigest c.dak, serial := serial,
          entries := c.meas.map fun m => { m with changed := Tab.get? c.prevDigests m.kind != some m.digest } }
    { c with building := some r }

/-- The parts of a record's run (R442, R447). -/
def runParts (t : Stamp) (bytes : List Byte) : List EvRec :=
  let n := ceilDiv bytes.length 32
  (List.range n).map fun i =>
    ⟨t.hours, t.pcyc, (if n = 1 then 0 else if i = 0 then 1 else if i + 1 = n then 3 else 2), .event, 1, 0x08, 0x01,
      .bootPart i n (slice bytes (32 * i) 32)⟩

/-- An entry joins the chain sector in use, or opens the other one, erased, when it is full (R354). -/
def Sec.chained (c : Sec) (e : Nat × Nat) : Sec :=
  let cur := if c.chainUse = 0 then c.chain0 else c.chain1
  if cur.length < 1024 then (if c.chainUse = 0 then { c with chain0 := e :: c.chain0 } else { c with chain1 := e :: c.chain1 })
  else if c.chainUse = 0 then { c with chain1 := [e], chainUse := 1 }
  else { c with chain0 := [e], chainUse := 0 }

/-- The recorder takes the whole run of the record that is being built (R447). -/
def Sec.runFits (c : Sec) (f : Fev) : Bool :=
  match c.building with
  | some r => decide (f.queue.length + ceilDiv (c.signed r).length 32 ≤ 64)
  | none => false

/-- The record is appended: its run goes to the recorder, and its BOOTSEQ and hash then to the chain area; a run that the recorder cannot take is not
appended, and sets DROP (R354, R447). -/
def Sec.appended (c : Sec) (f : Fev) (t : Stamp) : Sec × Fev :=
  match c.building with
  | none => (c, f)
  | some r =>
    if c.runFits f then
      ({ c.chained (r.seq, Config.sha384 (c.signed r)) with
          building := none, prevDigests := r.entries.map fun m => (m.kind, m.digest)
          regs := (c.regs.setFld .secBrctl 29 29 1).setFld .secBrctl 27 0 r.seq },
        (f.appendRun (runParts t (c.signed r))).1)
    else ({ c with building := none, regs := (c.regs.setFld .secBrctl 29 29 1).setFld .secBrctl 28 28 1 }, f)

/-! ### SPDM (R357, R358) -/

/-- An endpoint that has negotiated nothing. -/
def SpdmEp.fresh : SpdmEp := ⟨0, 0, 0, none, none, 0, none⟩

/-- The certificate chain of a slot (R358). -/
def Sec.chainBytes (c : Sec) (slot : Nat) : List Byte :=
  Config.certChain slot c.dak (if slot = 0 then c.alias' else c.kik)

/-- The value of a measurement index (R358): digests of the newest boot record, or its own hash. -/
def measValue (newest : Option (Nat × List Byte)) (index : Nat) : Option Nat :=
  match newest with
  | none => none
  | some (_, bs) =>
    if index = 0xF0 then some (Config.sha384 bs)
    else if 1 ≤ index ∧ index ≤ 10 then
      ((List.range (leNat (slice bs 5 1))).find? fun i => leNat (slice bs (176 + 64 * i) 1) == index - 1).map
        fun i => leNat (slice bs (176 + 64 * i + 16) 48)
    else none

/-- Error codes of SPDM responses (PRESUMED from the SPDM standard, log entry 23). -/
def spdmInvalid : Nat := 0x01
def spdmUnexpected : Nat := 0x04
def spdmUnspecified : Nat := 0x05
def spdmUnsupported : Nat := 0x07
def spdmVersionMismatch : Nat := 0x41
def spdmResynch : Nat := 0x43

/-- The answer to a request that comes too early: an endpoint that has negotiated nothing asks for a new start. -/
def SpdmEp.early (e : SpdmEp) : SpdmResp := .error (if e.stage = 0 then spdmResynch else spdmUnexpected)

/-- Sends a response, in chunks where it is larger than the requester takes. -/
def SpdmEp.respond (e : SpdmEp) (bytes : List Byte) (r : SpdmResp) : SpdmEp × SpdmResp :=
  if e.maxSize ≠ 0 ∧ e.maxSize < bytes.length then
    ({ e with sending := some ⟨e.handles, 0, bytes⟩, handles := (e.handles + 1) % 256 }, .large e.handles)
  else (e, r)

/-- The answer of an endpoint to a request (R357, R358). -/
def Sec.spdm (c : Sec) (newest : Option (Nat × List Byte)) (e : SpdmEp) (q : SpdmReq) : SpdmEp × SpdmResp :=
  match q with
  | .getVersion => ({ SpdmEp.fresh with stage := 1, handles := e.handles }, .version [0x12, 0x13])
  | .getCapabilities v n =>
    if e.stage < 1 then (e, e.early)
    else if v = 0x12 ∨ v = 0x13 then ({ e with stage := 2, version := v, maxSize := n }, .capabilities 15)
    else (e, .error spdmVersionMismatch)
  | .negotiate a h =>
    if e.stage < 2 then (e, e.early)
    else ({ e with stage := if a && h then 3 else 2 }, .algorithms a h)
  | .getDigests =>
    if e.stage < 3 then (e, e.early)
    else (e, .digests [Config.sha384 (c.chainBytes 0), Config.sha384 (c.chainBytes 1)])
  | .getCertificate s off n =>
    if e.stage < 3 then (e, e.early)
    else
      let all := c.chainBytes s
      if s ≤ 1 ∧ off < all.length then
        let part := (all.drop off).take n
        e.respond part (.certificate s part (all.length - off - part.length))
      else (e, .error spdmInvalid)
  | .challenge s =>
    if e.stage < 3 then (e, e.early)
    else if !c.privKeys then (e, .error spdmUnspecified)
    else if s ≤ 1 then (e, .challengeAuth s (Config.signature c.alias' (c.chainBytes s)))
    else (e, .error spdmInvalid)
  | .getMeasurements i signed =>
    if e.stage < 3 then (e, e.early)
    else if signed && !c.privKeys then (e, .error spdmUnspecified)
    else
      let idx := if i = 0 then [] else if i = 0xFF then (List.range 10).map (· + 1) ++ [0xF0] else [i]
      let vals := idx.filterMap fun k => (measValue newest k).map fun v => (k, v)
      if i ≠ 0 ∧ i ≠ 0xFF ∧ vals.isEmpty then (e, .error spdmInvalid)
      else
        let bytes := vals.flatMap fun v => leBytes 1 v.1 ++ leBytes 48 v.2
        e.respond bytes (.measurements vals (if signed then some (Config.signature c.alias' bytes) else none))
  | .other => (e, .error spdmUnsupported)

/-- An endpoint's request handled and its state kept. -/
def Sec.spdmAt (c : Sec) (newest : Option (Nat × List Byte)) (ep : Nat) (q : SpdmReq) : Sec × SpdmResp :=
  let (e, r) := c.spdm newest (Tab.getD c.endpoints ep .fresh) q
  ({ c with endpoints := Tab.set c.endpoints ep e }, r)

/-- CHUNK_GET: the next chunk of a large response (R357). -/
def Sec.chunkGet (c : Sec) (ep handle seq : Nat) : Sec × SpdmResp :=
  let e := Tab.getD c.endpoints ep .fresh
  match e.sending with
  | none => (c, .error spdmUnexpected)
  | some s =>
    if s.handle = handle ∧ s.nextSeq = seq then
      let part := s.data.take e.maxSize
      let rest := s.data.drop e.maxSize
      let e' : SpdmEp := { e with sending := if rest.isEmpty then none else some ⟨handle, seq + 1, rest⟩ }
      ({ c with endpoints := Tab.set c.endpoints ep e' }, .chunk handle seq part rest.isEmpty)
    else (c, .error spdmInvalid)

/-- CHUNK_SEND: the next chunk of a large request; with the last one the request is taken (R357). `spelled` is the request that
the whole message spells. -/
def Sec.chunkSend (c : Sec) (newest : Option (Nat × List Byte)) (ep handle seq : Nat) (last : Bool) (part : List Byte)
    (spelled : SpdmReq) : Sec × List SpdmResp :=
  let e := Tab.getD c.endpoints ep .fresh
  let cur : SpdmChunks := if seq = 0 then ⟨handle, 0, []⟩ else e.receiving.getD ⟨handle, seq + 1, []⟩
  if e.stage < 2 then (c, [e.early])
  else if cur.handle = handle ∧ cur.nextSeq = seq then
    if last then
      let e' : SpdmEp := { e with receiving := none }
      let (c1, r) := Sec.spdmAt { c with endpoints := Tab.set c.endpoints ep e' } newest ep spelled
      (c1, [.chunkAck handle seq [], r])
    else
      let e' : SpdmEp := { e with receiving := some ⟨handle, seq + 1, cur.data ++ part⟩ }
      ({ c with endpoints := Tab.set c.endpoints ep e' }, [.chunkAck handle seq []])
  else (c, [.error spdmInvalid])

/-- Endpoints: DOE of PF i is 2i, Security Send of instance i is 2i + 1; the sideband is 4,096 on. Their state is lost with a
reset of the instance (R357). -/
def Sec.dropEndpoints (c : Sec) (inst : Nat) : Sec :=
  { c with endpoints := Tab.keep c.endpoints fun k _ => k / 2 != inst }

/-! ### Registers -/

/-- Reads of SEC's registers. -/
def Sec.view (c : Sec) (r : Reg) : W32 :=
  match r with
  | .secSealctl => (c.regs.get r).setBits 30 30 (b2n c.run.isSome)
  | .secSealkey _ => 0
  | .secSeallock => (c.regs.get r).setBits 2 2 (b2n c.kvalid)
  | .secAlarmstat => c.alarmstat
  | .secBrctl => (c.regs.get r).setBits 30 30 (b2n c.building.isSome)
  | _ => c.regs.get r

/-- SEC before its first start: nothing derived, fused SVN minimum 0, 64 advances left (R350). -/
def Sec.initial : Sec :=
  { regs := [], keys := [], blobs := [], made := 0, changes := [], buffer := [], skey := [], run := none, gcm := ⟨[], []⟩,
    alarms := [], debugUnlocked := false, zeroed := false, privKeys := false, stage2Svn := 0, svnMin := 0,
    svnAdvanced := false, advancesLeft := 64, meas := [], prevDigests := [], building := none, chain0 := [], chain1 := [],
    chainUse := 0, bootCause := 0, endpoints := [], sanitize := none, sanStatus := 0, sanCdw10 := 0, sanProgress := 65535,
    sanFailUse := false, lastPasses := 1, passesDone := 0 }

end Sys2Proof.Machine
end

