-- ==== Sys2Proof/Machine/TasTypes.lean ====
section
/-! DEFINITION. The state of TAS: shares, buckets and virtual times, statistics and histograms (chapters 05 and 10). -/

namespace Sys2Proof.Machine

/-- The fields of a share (R146). -/
structure Share where
  weight : Nat
  iopslim : Nat
  bwlim : Nat
  burst : Nat
  rclbkt : Bool
  lcmask : Nat
  lcdef : Nat
  deriving DecidableEq, Repr

/-- The defaults of R146. -/
def Share.default' : Share := ⟨64, 0, 0, 10, false, 0xFF, 4⟩

/-- TAS's record of one instance. -/
structure TasInst where
  cur : Share
  staged : Option Share
  /-- Command tokens in units of 1/10,240 token, so that a refill is exact (R147). -/
  cmdtok : Int
  bytetok : Int
  vtag : Rat
  rclwu : Nat
  rclbytes : Nat
  instseq : Nat
  /-- WU charged in the running epoch. -/
  charged : Nat
  within : Bool
  /-- A command of it has been in ADMITWAIT in the running epoch (R161). -/
  active : Bool
  /-- Counters of log page 0xC2 by byte offset. -/
  stats : Tab Nat
  /-- Counts of log page 0xC3: keys by the page's own layout. -/
  hist : Tab Nat
  deriving DecidableEq, Repr

/-- TAS's state. -/
structure Tas where
  regs : RegFile
  insts : Tab TasInst
  /-- Shares staged for instances that are UNUSED (R155). -/
  stagedUnused : Tab Share
  epoch : Nat
  /-- Part of a unit of TAS_RCLORPH not yet counted, in WU. -/
  orphan : Nat
  /-- Throttle caps in bytes, while the throttle is ACTIVE: write and read buckets and their refills (R433). -/
  caps : Option (Int × Int)
  capRates : Nat × Nat
  /-- Media bytes admitted, as (time, write bytes, read bytes), in the last second (R433). -/
  recent : List (Nat × Nat × Nat)
  /-- Budgets in force by class, in µs: a change applies from the next epoch (R150). -/
  budgets : List Nat
  deriving DecidableEq, Repr

end Sys2Proof.Machine
end

