-- ==== Sys2Proof/Machine/Tas.lean ====
section
/-! DEFINITION. What TAS does: shares and their staging (R146, R155 to R157), epochs (R147, R149), admission (R147, R148), the
caps of the throttle (R433) and reclaim charges (R152, R154). -/

namespace Sys2Proof.Machine

/-! ### Shares -/

/-- The ranges of R146. -/
def Share.valid (s : Share) : Bool :=
  decide (1 ≤ s.weight ∧ s.weight ≤ 1024 ∧ s.iopslim < 1048576 ∧ s.bwlim < 1048576 ∧ 1 ≤ s.burst ∧ s.burst ≤ 255
    ∧ 1 ≤ s.lcmask ∧ s.lcmask ≤ 255 ∧ s.lcdef ≤ 7) && s.lcmask.testBit s.lcdef

/-- An instance as it leaves UNUSED (R143, R154): virtual time and buckets at 0, and within its share until an epoch is judged (DESIGN CHOICE, log entry
199). -/
def TasInst.fresh (s : Share) (seq : Nat) : TasInst :=
  ⟨s, none, 0, 0, 0, 0, 0, seq, 0, true, false, [], []⟩

/-- The command bucket in units of 1/10,240 token, and the byte bucket: refill and depth. -/
def Share.cmdRefill (s : Share) : Int := (s.iopslim * 1024 : Nat)
def Share.cmdDepth (s : Share) : Int := (s.iopslim * 1024 * s.burst : Nat)
def Share.byteRefill (s : Share) : Int := (s.bwlim * 100 : Nat)
def Share.byteDepth (s : Share) : Int := (s.bwlim * 100 * s.burst : Nat)

/-- A bucket held to 1/1,024 of a token is above 0. -/
def TasInst.cmdOpen (t : TasInst) : Bool := t.cur.iopslim == 0 || decide (10 ≤ t.cmdtok)
def TasInst.byteOpen (t : TasInst) : Bool := t.cur.bwlim == 0 || decide (0 < t.bytetok)

/-- A staged share takes effect (R155): buckets keep their tokens, clamped to the new depth; a new limit starts full. -/
def TasInst.apply (t : TasInst) (s : Share) : TasInst :=
  { t with
    cur := s, staged := none,
    cmdtok := if s.iopslim = 0 then 0 else if t.cur.iopslim = 0 then s.cmdDepth else min t.cmdtok s.cmdDepth
    bytetok := if s.bwlim = 0 then 0 else if t.cur.bwlim = 0 then s.byteDepth else min t.bytetok s.byteDepth }

/-- Adds to a counter of log page 0xC2 (saturating at 64 bits). -/
def TasInst.bump (t : TasInst) (field n : Nat) : TasInst :=
  { t with stats := Tab.set t.stats field (satAdd (2 ^ 64 - 1) (Tab.getD t.stats field 0) n) }

/-- Raises a counter of log page 0xC2 to at least `n`. -/
def TasInst.raise (t : TasInst) (field n : Nat) : TasInst :=
  { t with stats := Tab.set t.stats field (max n (Tab.getD t.stats field 0)) }

/-- Steps 1 to 3 of an epoch boundary for one instance (R147). -/
def TasInst.boundary (t : TasInst) : TasInst :=
  let a := match t.staged with
    | some s => t.apply s
    | none => t
  let c := if a.cur.iopslim = 0 then a.cmdtok else min (a.cmdtok + a.cur.cmdRefill) a.cur.cmdDepth
  let b := if a.cur.bwlim = 0 then a.bytetok else min (a.bytetok + a.cur.byteRefill) a.cur.byteDepth
  let b := if a.cur.bwlim ≠ 0 ∧ a.cur.rclbkt then max (b - (a.rclbytes : Int)) (-a.cur.byteDepth) else b
  { a with cmdtok := c, bytetok := b, vtag := a.vtag + (a.rclwu : Rat) / a.cur.weight, rclwu := 0, rclbytes := 0, charged := 0 }

/-- An instance waits on its own bucket at the epoch's end (R149). -/
def TasInst.outBucket (t : TasInst) (waiting : Bool) : Bool := waiting && !(t.cmdOpen && t.byteOpen)

/-- Backlogged (R149): a command in ADMITWAIT that its buckets allow. -/
def TasInst.backlogged (t : TasInst) (waiting : Bool) : Bool := waiting && t.cmdOpen && t.byteOpen

/-- The charge of an instance in the epoch, admissions and reclaim together. -/
def TasInst.total (t : TasInst) : Nat := t.charged + t.rclwu

/-- Judges the ending epoch (R149) and closes its statistics (R161). `waits` tells which instances have commands in ADMITWAIT. -/
def Tas.judge (a : Tas) (waits : Nat → Bool) (wcost : Nat) : Tab TasInst :=
  let total := a.insts.foldl (fun (n : Nat) e => n + e.2.total) 0
  let idle := a.insts.foldl (fun (n : Nat) e => if e.2.backlogged (waits e.1) then n else n + e.2.total) 0
  let wsum := a.insts.foldl (fun (n : Nat) e => if e.2.backlogged (waits e.1) then n + e.2.cur.weight else n) 0
  let m := (1 + wcost) * 512
  a.insts.map fun e =>
    let t := e.2
    let w := waits e.1
    let fair : Rat := ((total : Rat) - (idle : Rat)) * (t.cur.weight : Rat) / (wsum : Rat) + ((m : Nat) : Rat)
    let above := t.backlogged w && decide (fair < (t.total : Rat))
    let u : TasInst := { t with within := !t.outBucket w && !above }
    let u := if w || t.active then u.bump 16 1 else u
    let u := if w && !t.cmdOpen then u.bump 24 1 else u
    let u := if w && !t.byteOpen then u.bump 32 1 else u
    (e.1, if above then u.bump 40 1 else u)

/-- Budgets read from TAS_LCBUD (R150). -/
def Tas.lcbud (a : Tas) : List Nat :=
  (List.range 8).map fun k => a.regs.fld (.tasLcbud (k / 2)) (if k % 2 = 0 then 15 else 31) (if k % 2 = 0 then 0 else 16)

/-- WCOST of TAS_CFG. -/
def Tas.wcost (a : Tas) : Nat := a.regs.fld .tasCfg 11 8

/-- An instance has a command in ADMITWAIT in the running epoch (R161). -/
def Tas.admitting (a : Tas) (inst : Nat) : Tas := { a with insts := Tab.upd a.insts inst fun t => { t with active := true } }

/-- An epoch boundary (R147); the WCOST that M of R149 takes is the register's at the boundary (DESIGN CHOICE, log entry 200). `waits`: instances with a command in ADMITWAIT at the end of the epoch; `caps`: the refills of
the throttle's buckets while ACTIVE. -/
def Tas.boundary (a : Tas) (waits : Nat → Bool) (caps : Option (Nat × Nat)) : Tas :=
  let judged := if a.epoch = 0 then a.insts else a.judge waits a.wcost
  { a with
    insts := judged.map fun e => (e.1, e.2.boundary)
    epoch := a.epoch + 1
    budgets := a.lcbud
    caps := match caps with
      | none => none
      | some (w, r) =>
        match a.caps with
        | none => some ((10 * w : Nat), (10 * r : Nat))
        | some (x, y) => some (min (x + w) ((10 * w : Nat) : Int), min (y + r) ((10 * r : Nat) : Int))
    capRates := caps.getD (0, 0) }

/-- Stages a share for an instance, one that is UNUSED too (R155). -/
def Tas.stage (a : Tas) (inst : Nat) (s : Share) : Tas :=
  if Tab.has a.insts inst then { a with insts := Tab.upd a.insts inst fun t => { t with staged := some s } }
  else { a with stagedUnused := Tab.set a.stagedUnused inst s }

/-- What TAS holds of an instance; an UNUSED one has the defaults of R146 in force, with the share staged for it (log entry 168). -/
def Tas.instOf (a : Tas) (inst : Nat) : TasInst :=
  match Tab.get? a.insts inst with
  | some t => t
  | none => { TasInst.fresh .default' 0 with staged := Tab.get? a.stagedUnused inst }

/-- An instance leaves UNUSED: defaults, cleared statistics, INSTSEQ; a staged share is discarded (R143, R154, R155). -/
def Tas.open' (a : Tas) (inst : Nat) (s : Share) (seq : Nat) : Tas :=
  { a with insts := Tab.set a.insts inst (TasInst.fresh s seq), stagedUnused := Tab.erase a.stagedUnused inst }

/-- Changes one instance's record. -/
def Tas.updInst (a : Tas) (inst : Nat) (f : TasInst → TasInst) : Tas := { a with insts := Tab.upd a.insts inst f }

/-! ### Admission (R147, R148) -/

/-- A command in ADMITWAIT as TAS weighs it. -/
structure Cand where
  ctx : Nat
  inst : Nat
  fsn : Nat
  /-- Fetch time plus the budget of its class, in 100 ns units. -/
  deadline : Nat
  wu : Nat
  tokens : Nat
  bytes : Nat
  /-- What it counts in the read window, and the Oasis data it will record. -/
  rcount : Nat
  odata : Nat
  /-- It passes only while the window, or the Oasis limit, can take it. -/
  needsWindow : Bool
  needsOasis : Bool
  /-- Media bytes for the throttle's caps. -/
  capW : Nat
  capR : Nat
  deriving DecidableEq, Repr

/-- Whether the read window, the Oasis limit and the caps can take a command. `inWindow`: WU of admitted, uncompleted reads;
`oasis`: dirty data plus the data of admitted writes not yet recorded; `limit`: the limit in force. -/
def Tas.canTake (a : Tas) (inWindow oasis limit : Nat) (c : Cand) : Bool :=
  (!c.needsWindow || decide (inWindow + c.rcount ≤ a.regs.fld .tasRdwin 19 0))
    && (!c.needsOasis || decide (oasis + c.odata ≤ limit))
    && (match a.caps with
        | none => true
        | some (w, r) => (c.capW == 0 || decide (0 < w)) && (c.capR == 0 || decide (0 < r)))

/-- The smallest of some virtual times. -/
def minRat : List Rat → Option Rat
  | [] => none
  | x :: rest =>
    match minRat rest with
    | none => some x
    | some y => some (min x y)

/-- The command admitted next (R147): the eligible instance with the smallest vtag, the lower number on a tie; of its commands the
one with the earliest deadline, the lower FSN on a tie. -/
def Tas.pick (a : Tas) (inWindow oasis limit : Nat) (cands : List Cand) : Option Cand :=
  let ok := cands.filter fun c => a.canTake inWindow oasis limit c &&
    (match Tab.get? a.insts c.inst with
     | some t => t.cmdOpen && t.byteOpen
     | none => true)
  ok.foldl (fun (b : Option Cand) c =>
    match b with
    | none => some c
    | some d =>
      let vc := (Tab.getD a.insts c.inst (TasInst.fresh .default' 0)).vtag
      let vd := (Tab.getD a.insts d.inst (TasInst.fresh .default' 0)).vtag
      if c.inst = d.inst then
        (if c.deadline < d.deadline ∨ (c.deadline = d.deadline ∧ fsnBefore c.fsn d.fsn) then some c else some d)
      else if vc < vd ∨ (vc = vd ∧ c.inst < d.inst) then some c else some d) none

/-- The charges of an admission (R147, R144), with its statistics (R161). -/
def Tas.charge (a : Tas) (c : Cand) (lc now waited : Nat) : Tas :=
  let f (t : TasInst) : TasInst :=
    let u : TasInst := { t with
      cmdtok := if t.cur.iopslim = 0 then t.cmdtok else t.cmdtok - (c.tokens * 10240 : Nat)
      bytetok := if t.cur.bwlim = 0 then t.bytetok else t.bytetok - c.bytes
      vtag := t.vtag + (c.wu : Rat) / t.cur.weight
      charged := t.charged + c.wu }
    (((u.bump 88 c.wu).bump 112 waited).raise 120 (min waited (2 ^ 32 - 1))).bump (128 + 8 * lc) 1
  { a with
    insts := Tab.upd a.insts c.inst f
    caps := a.caps.map fun p => (p.1 - c.capW, p.2 - c.capR)
    recent := (now, c.capW, c.capR) :: a.recent.filter fun r => decide (now < r.1 + 10000000) }

/-- When an instance gains a command in ADMITWAIT and had none, its vtag is brought up to the smallest of those that have
commands there (R147). -/
def Tas.joins (a : Tas) (inst : Nat) (others : List Nat) : Tas :=
  match minRat (others.filterMap fun i => (Tab.get? a.insts i).map (·.vtag)) with
  | none => a
  | some v => a.updInst inst fun t => { t with vtag := max t.vtag v }

/-- Write and read rates of the last second, in bytes per second (R433). -/
def Tas.rates (a : Tas) (now : Nat) : Nat × Nat :=
  (a.recent.filter fun r => decide (now < r.1 + 10000000)).foldl (fun p r => (p.1 + r.2.1, p.2 + r.2.2)) (0, 0)

/-- WU charged to no instance, counted in units of 1,024 (TAS_RCLORPH). -/
def Tas.orphaned (a : Tas) (wu : Nat) : Tas :=
  { a with orphan := (a.orphan + wu) % 1024, regs := a.regs.satFld .tasRclorph 31 0 ((a.orphan + wu) / 1024) }

/-- A reclaim charge of some frames (R152, R154): to the instance that wrote them, or to no instance. `seq` is the frames' write
sequence number. -/
def Tas.chargeReclaim (a : Tas) (inst frames seq : Nat) : Tas :=
  let wu := (1 + a.wcost) * frames
  match Tab.get? a.insts inst with
  | some t =>
    if a.regs.bit .tasCfg 0 && decide (t.instseq ≤ seq) then
      a.updInst inst fun t => (({ t with rclwu := t.rclwu + wu, rclbytes := t.rclbytes + 4096 * frames }).bump 96 wu).bump 104 frames
    else a.orphaned wu
  | none => a.orphaned wu
/-! ### The share registers (R157) -/

/-- TAS_SHDATA0 to 2 from a share, and back. -/
def Share.toRegs (s : Share) (rf : RegFile) : RegFile :=
  ((((((rf.setFld .tasShdata0 26 24 s.lcdef).setFld .tasShdata0 23 16 s.lcmask).setFld .tasShdata0 10 0 s.weight).setFld
    .tasShdata1 19 0 s.iopslim).setFld .tasShdata2 31 24 s.burst).setFld .tasShdata2 23 23 (b2n s.rclbkt)).setFld .tasShdata2 19 0 s.bwlim
def Share.ofRegs (rf : RegFile) : Share :=
  ⟨rf.fld .tasShdata0 10 0, rf.fld .tasShdata1 19 0, rf.fld .tasShdata2 19 0, rf.fld .tasShdata2 31 24, rf.bit .tasShdata2 23,
   rf.fld .tasShdata0 23 16, rf.fld .tasShdata0 26 24⟩

/-- The selected instance. -/
def Tas.sel (a : Tas) : Nat := a.regs.fld .tasShsel 10 0

/-- LOAD: the staged share where one is staged, else the share in force; of an UNUSED instance the defaults of R146. -/
def Tas.load (a : Tas) : Tas :=
  { a with regs := ((a.instOf a.sel).staged.getD (a.instOf a.sel).cur).toRegs a.regs }

/-- STAGE: stages the data registers for the selected instance, or sets ERR. -/
def Tas.stageRegs (a : Tas) : Tas :=
  let s := Share.ofRegs a.regs
  if s.valid then { (a.stage a.sel s) with regs := a.regs.setFld .tasShsel 30 30 0 }
  else { a with regs := a.regs.setFld .tasShsel 30 30 1 }

/-- Reads of TAS's registers. -/
def Tas.view (a : Tas) (r : Reg) : W32 :=
  match r with
  | .tasEpoch => BitVec.ofNat 32 (a.epoch - 1)
  | .tasShsel => (a.regs.get r).setBits 11 11 (b2n (a.instOf a.sel).staged.isSome)
  | _ => a.regs.get r

/-- The 16 bytes of a share in Get Features 0xD4 (R156). -/
def Share.bytes (s : Share) (pend : Bool) (inst : Nat) : List Byte :=
  leBytes 2 s.weight ++ leBytes 1 s.lcmask ++ leBytes 1 s.lcdef ++ leBytes 4 s.iopslim ++ leBytes 4 s.bwlim
    ++ leBytes 1 s.burst ++ leBytes 1 (b2n s.rclbkt + 2 * b2n pend) ++ leBytes 2 inst

/-- Get Features 0xD4 (R156). -/
def TasInst.shareBytes (t : TasInst) (inst : Nat) : List Byte :=
  match t.staged with
  | some s => t.cur.bytes true inst ++ s.bytes true inst
  | none => t.cur.bytes false inst ++ zeros 16

/-- Log page 0xC2 (R161). -/
def TasInst.logC2 (t : TasInst) (inst : Nat) : List Byte :=
  let q (k : Nat) : List Byte := leBytes 8 (Tab.getD t.stats k 0)
  leBytes 2 inst ++ leBytes 2 t.cur.weight ++ leBytes 1 t.cur.lcmask ++ leBytes 1 t.cur.lcdef
    ++ leBytes 1 (b2n t.within + 2 * b2n t.staged.isSome) ++ zeros 1 ++ leBytes 4 t.cur.iopslim ++ leBytes 4 t.cur.bwlim
    ++ q 16 ++ q 24 ++ q 32 ++ q 40 ++ q 48 ++ q 56 ++ q 64 ++ q 72 ++ q 80 ++ q 88 ++ q 96 ++ q 104 ++ q 112
    ++ leBytes 4 (Tab.getD t.stats 120 0) ++ leBytes 4 (min (Tab.getD t.stats 124 0) (2 ^ 32 - 1))
    ++ (List.range 8).flatMap (fun k => q (128 + 8 * k)) ++ q 192 ++ q 200 ++ q 208 ++ zeros 40

/-- TAS at reset; budgets as the registers' reset values give them. -/
def Tas.initial : Tas :=
  { regs := [], insts := [], stagedUnused := [], epoch := 0, orphan := 0, caps := none, capRates := (0, 0), recent := [],
    budgets := [100, 150, 200, 300, 500, 1000, 5000, 50000] }

end Sys2Proof.Machine
end

