-- ==== Sys2Proof/Machine/State.lean ====
section
/-! DEFINITION. The state of the HXV-8160: the state of its blocks, its clocks, the part and its straps, the commands that wait
for it and what it has given to the outside; why a step stops; and the state at reset. -/

namespace Sys2Proof.Machine

/-- A completion queue entry as it is written to host memory (R89). -/
structure Cqe where
  cid : Nat
  sqid : Nat
  sqhd : Nat
  phase : Bool
  status : Status
  dw0 : Nat
  dw1 : Nat
  deriving DecidableEq, Repr

/-- A port as a discovery controller reports it. -/
structure DiscEntry where
  port : Nat
  rdma : Bool
  v6 : Bool
  service : Nat
  addr : List Byte
  deriving DecidableEq, Repr

/-- What the block gives to the outside. -/
inductive Output where
  | cqe (inst cqid : Nat) (e : Cqe)
  /-- A message-signalled interrupt (R91). -/
  | interrupt (inst vector : Nat)
  /-- Logical blocks moved to the host for a context. -/
  | blocks (ctx : Nat) (bs : List LBlock)
  /-- A data structure moved to the host for a context. -/
  | data (ctx : Nat) (bs : List Byte)
  /-- A flow-control frame of a port (R47), and a congestion notification (R52). -/
  | flow (port : Nat) (p : Pfc)
  | cnp (conn : Nat)
  /-- A transport retransmits (R49). -/
  | resend (conn : Nat)
  /-- Answers to configuration requests: a function's value, or Request Retry Status; Unsupported Request (R40, R44, R57). -/
  | config (port fn : Nat) (value : Option Nat)
  | unsupported (inst : Nat)
  /-- An error message to the root port: 0 correctable, 1 non-fatal, 2 fatal, 3 advisory (R57). -/
  | aer (port level : Nat)
  /-- The answer to a Fabrics Connect: the instance and queue, or a status. -/
  | connect (port inst qid : Nat) (status : Option Status)
  | property (inst : Nat) (v : Nat) (status : Option Status)
  /-- What a discovery controller reports: the subsystem NQN, and each port with transport, listening port and address (R49, R50). -/
  | discovery (port : Nat) (nqn : List Byte) (entries : List DiscEntry)
  | mem (a : MemAnswer)
  | service (a : SvcResult)
  | store (port : FscPort) (bytes : List Byte)
  | spdm (ep : Nat) (a : SpdmResp)
  /-- An NVMe-MI or MCTP answer: its status byte and its data. -/
  | mi (status : Nat) (bytes : List Byte)
  deriving DecidableEq, Repr

/-- The clocks. Times are in units of 100 ns. -/
structure Clock where
  /-- Device time (R295). -/
  now : Nat
  /-- The lease clock, which stands still during a device recovery (R69). -/
  lease : Nat
  /-- Operating time, kept by the always-on domain. -/
  aon : Nat
  /-- Power-cycle count. -/
  pcyc : Nat
  /-- The ratio check of AON_XTAL has passed, and the always-on counters run from it (R26, R463). -/
  xtal : Bool
  /-- AON_XTAL was lost after its check had passed. -/
  xtalLost : Bool
  /-- The always-on count when VDD_AON was last applied (R463). -/
  aonAt : Nat
  deriving DecidableEq, Repr

/-- What is fixed in the part and beside it. -/
structure Part where
  /-- Feature code S0: PCIe only (R3). -/
  s0 : Bool
  /-- Lowest junction temperature of the grade, in quarters of a degree (R3). -/
  minTj : Int
  /-- RAAIMT of the DRAM devices; none where they need no RFM (R339). -/
  raaimt : Option Nat
  deriving DecidableEq, Repr

/-- Counters of the SMART / Health page that no block keeps (R457). -/
structure Health where
  /-- The Critical Warning byte as last seen, for its changes. -/
  warning : Nat
  /-- Bit 4 stands until power-on reset, because a restart found exposed data (R132, R426). -/
  backup : Bool
  /-- Time at or above WCTEMP and CCTEMP. -/
  warmTime : Nat
  hotTime : Nat
  thrEntries : Nat
  deriving DecidableEq, Repr

/-- The state of the machine. -/
structure State where
  hfu : Hfu
  qce : Qce
  tas : Tas
  fl : Flash
  mss : Mss
  sec : Sec
  mgc : Mgc
  ptm : Ptm
  fev : Fev
  clock : Clock
  part : Part
  /-- The straps as sampled at the last power-on reset (R465). -/
  straps : Nat
  /-- PORST_N is low, and a dump that PORST_N started runs (R478). -/
  porst : Bool
  /-- Channel and cluster recoveries hold no state of their own; a device recovery in progress pauses fetch (R30). -/
  fetchPaused : Bool
  health : Health
  /-- Device-wide histograms of log page 0xC3, keyed by the page's byte offsets (R313). -/
  hist : Tab Nat
  /-- The model's own: the step of `Config.freeValue` (log entry 32). -/
  free : Nat
  /-- Commands that wait, first in, first out. -/
  pending : List Instr
  /-- What the block has given to the outside, newest first. -/
  out : List Output
  deriving DecidableEq, Repr

/-- Why a step stops with a fault. -/
inductive Fault where
  /-- A DRAM request beyond the installed capacity is an access fault of its requester (R319). Raised by DRAM_READ and DRAM_WRITE. Safe: the
  machine stops where the spec gives the requester no data. -/
  | accessFault
  /-- An entry into the store service's region at another address than its one entry faults (R394). Raised by the STORE_SERVICE rows. Safe. -/
  | entryFault
  deriving DecidableEq, Repr

/-- Why a command is refused. -/
inductive Refusal where
  /-- The command has no meaning in this model yet. Raised by `exec` alone. Safe. -/
  | notModelled (mnemonic : String)
  deriving DecidableEq, Repr

/-- The reference board's HUE parameters (R525). -/
def HueParams.reference : HueParams := ⟨32, 20000, 12000, 38000, 14000, 56000, 100⟩

/-- The calibration partition of the reference build: slot 1 is NEXT; MSS_DMCFG for two ranks of 16 Gb devices at 8,000 MT/s (R317). -/
def Calib.reference : Calib :=
  { next := 1, nextPending := false, minimg := 0, hue := HueParams.reference, erasure := [], ports := [], dmcfg := 0x05018010#32
    lockExempt := [], trained := false, serial := zeros 20, identity := zeros 6 }

def Fev.initial : Fev :=
  { regs := [], log := [], openSec := 0, ready := some 1, erasing := none, rseq := 0, writing := none, queue := [], drop01 := 0
    drop2 := 0, drop3 := 0, badrec := 0, dropped := 0, dropCrit := 0, ffq := [], ffqOvfl := 0, safe := false, safeDump := false
    safeThermal := false, csrc := 0, ccode := 0, safeEntries := [], starts := [], active := [], kickedAt := 0, heldAt := none, schedFrom := [], badKick := 0
    hbStarted := false }

def Mgc.initial : Mgc :=
  { regs := [], cal := Calib.reference, nor := [], factory := [0, 1], s2 := [(0, 0, Config.vendorDigest 1)], s2Run := 0, prog := none, waiting := [], erase := none, reads := [], svcFail := none, run := ⟨0, 0, 0, 0⟩
    download := none, act := none, postHold := 0
    ah := { busy := none, done := false, err := false, task := 0, tag := 0, dlen := 0, result := 0, args := [0, 0, 0, 0], data := zeros 256 }
    ports := [], eid := 0, miFreq := 1, miMtu := 64, miAen := 0, vpd := zeros 256, boot := .reset, coldAt := 0
    readyAt := 0, shutdown := none, quiesced := false, resetDue := false, acRun := 0, reload := none, dst := none, dstResults := [] }

def Qce.initial : Qce :=
  { regs := [], insts := [], sqs := [], cqs := [], ctxs := [], locks := [], fsn := 0, doneSeq := 0, deficit := [], lastInst := 0
    lastSq := [], credits := [], stamp := none, shut := [], vq := [] }

/-- The machine with its supplies up, held in reset: every register at the reset value of its field table, nothing attached to the
hosts, no command waiting. POWER_ON_RESET runs the start from here (R467). -/
def State.reset : State :=
  { hfu := Hfu.initial, qce := Qce.initial, tas := Tas.initial
    fl := { hw := Attached.reference, ptx := Ptx.initial, mbe := Mbe.initial, dip := Dip.initial }
    mss := Mss.initial, sec := Sec.initial, mgc := Mgc.initial, ptm := Ptm.initial HueParams.reference, fev := Fev.initial
    clock := ⟨0, 0, 0, 0, false, false, 0⟩, part := ⟨false, 0, some 32⟩, straps := 0, porst := true, fetchPaused := false
    health := ⟨0, false, 0, 0, 0⟩, hist := [], free := 0, pending := [], out := [] }

end Sys2Proof.Machine
end

