-- ==== Sys2Proof/Machine/Ops.lean ====
section
/-! DEFINITION. Operations on the whole state that every family shares: what goes out, time and its stamps, reports, the safe state, the
start of a dump, warnings and notices to hosts, and the durability mode. -/

namespace Sys2Proof.Machine

/-! ## What goes out, and open values -/

/-- Gives something to the outside. -/
def State.emit (s : State) (o : Output) : State := { s with out := o :: s.out }

/-- Gives several things to the outside, in order. -/
def State.emits (s : State) (os : List Output) : State := { s with out := os.reverse ++ s.out }

/-- The next free value (log entry 32). -/
def State.fresh (s : State) : Nat × State := (Config.freeValue s.free, { s with free := s.free + 1 })

/-! ## Time -/

/-- Time passes, in units of 100 ns. The lease clock stands still while fetch pauses for a device recovery (R69). -/
def Clock.pass (c : Clock) (d : Nat) (paused : Bool) : Clock :=
  { c with now := c.now + d, lease := c.lease + (if paused then 0 else d), aon := c.aon + d }

/-- Time passes to a moment; a moment that has passed changes nothing. -/
def State.until' (s : State) (t : Nat) : State := { s with clock := s.clock.pass (t - s.clock.now) s.fetchPaused }

/-- An idle step: 100 ns pass (log entry 1). -/
def State.tick (s : State) : State := { s with clock := s.clock.pass 1 s.fetchPaused }

/-- The operating-hours counter in seconds, and the time fields of records. -/
def State.hours (s : State) : Nat := s.clock.aon / 10000000
def State.stamp (s : State) : Stamp := ⟨s.hours, s.clock.pcyc, s.clock.aon * 32768 / 10000000⟩

/-- The device timestamp in ms (R528). -/
def State.stampMs (s : State) : Nat :=
  match s.qce.stamp with
  | some (v, t) => v + (s.clock.now - t) / 10000
  | none => s.clock.now / 10000

/-! ## Whether the device runs -/

/-- A dump runs, or has ended with the device held in reset (R417). -/
def State.dumped (s : State) : Bool := s.ptm.hue == .dumping || s.ptm.hue == .off

/-- Device ready, no safe state, no dump: commands are served. -/
def State.runs (s : State) : Bool := s.mgc.boot == .ready && !s.fev.safe && !s.dumped && !s.porst

/-- SQ fetch runs (R30, R472). -/
def State.fetches (s : State) : Bool := s.runs && !s.fetchPaused && s.mgc.shutdown.isNone && !s.mgc.quiesced

/-- The always-on domain serves the block: not held in power-on reset. -/
def State.up (s : State) : Bool := s.mgc.boot != .reset

/-- Runs `f` where the device runs; an event that finds it stopped changes nothing (R88). -/
def State.whenRuns (s : State) (f : State → State) : State := if s.runs then f s else s

/-! ## Power-loss dump (R421 to R425) -/

/-- A dump starts: what it carries is fixed at detection, and what it leaves out is recorded. Scrubs stop, and ranks leave self-refresh (R344). -/
def State.startDump (s : State) (cause : Nat) : State :=
  let seq := s.ptm.dumpSeq + 1
  let r := s.fl.makeDump seq
  let d : WadiDump := { r.1 with trailer := false, hours := s.hours, cause := cause }
  let held : Tab OSlot := match s.fl.ptx.dump with
    | some old => d.slots.foldl (fun t e => Tab.set t e.1 e.2) old.slots
    | none => d.slots
  let info : DumpInfo := ⟨s.clock.now, seq, b2n s.fl.ptx.unp, cause, d.tail.length, d.ngran, r.2⟩
  let ptx : Ptx :=
    { s.fl.ptx with
      dump := some { d with slots := held }, unsafeShut := s.fl.ptx.unsafeShut + 1
      wadiErased := s.fl.ptx.wadiErased - (d.bytes + 268435456) }
  let rep := mkReport 0x0A 0x07 0 0 r.2 seq 0
  { s with
    ptm := { s.ptm with hue := .dumping, testRun := none, dumpSeq := seq, dump := some info }
    mss := { s.mss.stopScrub with selfRefresh := false }
    fl := { s.fl with ptx := ptx }
    fev := if r.2 = 0 then s.fev else s.fev.report rep s.stamp }

/-! ## Reports and the safe state (R440, R445) -/

/-- FEV's part of entering the safe state: the cause, the records, and the end of every recovery (R32). -/
def Fev.enterSafe (f : Fev) (r : Report) (dumps : Bool) (aon : Nat) (t : Stamp) : Fev :=
  let g : Fev :=
    { f with
      safe := true, safeDump := dumps, safeThermal := r.src == 0x0A && r.code == 0x06, csrc := r.src, ccode := r.code
      safeEntries := aon :: f.safeEntries, active := [], regs := f.regs.setFld .fevEscstat 0 0 1 }
  (g.report r t).append ((mkReport 0x0B 0x09 0 0 (r.src * 256 + r.code) (b2n dumps) 0).toRec t)

/-- The safe state is entered on a U-class fault (R445). -/
def State.enterSafe (s : State) (r : Report) : State :=
  let dumps := s.ptm.hue.judged
  let ah : Ahnah := { s.mgc.ah with busy := none }
  let g : State :=
    { s with
      fev := s.fev.enterSafe r dumps s.clock.aon s.stamp
      qce := { s.qce with insts := Tab.mapVals s.qce.insts fun _ i => { i with cfs := true } }
      mss := s.mss.enterSafe
      fl := s.fl.enterSafe
      mgc := { s.mgc with act := none, acRun := 0, dst := none, ah := ah }
      fetchPaused := false }
  if dumps then g.startDump (if g.fev.safeThermal then 2 else 1) else g

/-- A report reaches FEV (R440). The first U-class fault enters the safe state; a later one, or one during a dump, is recorded
(R439, R459). -/
def State.report (s : State) (r : Report) : State :=
  if r.cls = .u ∧ !s.fev.safe ∧ !s.dumped then s.enterSafe r else { s with fev := s.fev.report r s.stamp }

/-- Several reports in order. -/
def State.reports (s : State) (rs : List Report) : State := rs.foldl State.report s

/-! ## Asynchronous events -/

/-- An asynchronous event for one instance, and for every instance. -/
def State.notify (s : State) (inst : Nat) (e : AsyncEvent) : State := { s with qce := s.qce.raise inst e }
def State.notifyAll (s : State) (e : AsyncEvent) : State := { s with qce := s.qce.raiseAll e }

/-- A Changed Namespace List entry and its notice for the instances a namespace is attached to. -/
def Qce.nsChanged (q : Qce) (nsid : Nat) (insts : List Nat) : Qce :=
  insts.foldl (fun (g : Qce) i =>
    (g.updInst i fun x => { x with changedNs := if x.changedNs.contains nsid then x.changedNs else x.changedNs ++ [nsid] }).raise i
      ⟨2, 0x00, 0x04⟩) q

/-! ## The durability mode (R129 to R132, R418) -/

/-- PTM's reason against protected mode, by the code of R135; none while the HUE is HEALTHY. -/
def Ptm.against (p : Ptm) : Option Nat :=
  match p.hue with
  | .healthy => none
  | .absent => some 3
  | _ => if p.testFail && p.hue == .degraded then some 2 else some 1

/-- Critical Warning of the SMART / Health page (R457). -/
def State.warnings (s : State) : Nat :=
  b2n (decide (s.fl.sparePercent < 10)) + 2 * b2n (s.ptm.throttle != .none || s.ptm.belowMin) + 4 * b2n s.fl.dip.reliability
    + 8 * b2n s.fl.ptx.wprot + 16 * b2n (s.health.backup || s.fl.ptx.unp && decide (0 < s.fl.ptx.switches))

/-- The information code of the SMART / Health event of a Critical Warning bit (PRESUMED, NVMe base specification, log entry 26). -/
def warningInfo (bit : Nat) : Nat := if bit = 0 then 2 else if bit = 1 then 1 else 0

/-- One Critical Warning bit has risen: the event for every instance whose enable bit is set. -/
def Qce.warn (q : Qce) (bit : Nat) : Qce :=
  (q.insts.filter fun e => natBits (e.2.feature 0x0B 0) bit bit == 1).foldl
    (fun (g : Qce) e => g.raise e.1 ⟨1, warningInfo bit, 0x02⟩) q

/-- Each change of a Critical Warning bit from 0 to 1 raises its event (R457). -/
def State.warn (s : State) : State :=
  let w := s.warnings
  let up := (List.range 5).filter fun b => natBits w b b == 1 && natBits s.health.warning b b == 0
  { s with qce := up.foldl Qce.warn s.qce, health := { s.health with warning := w } }

end Sys2Proof.Machine
end

