-- ==== Sys2Proof/Machine/Commands.lean ====
section
/-! DEFINITION. The life of a command in the whole state (R17 to R21, R88): taken from its queue, checked, admitted, recorded or read,
ended; what the flash side tells the rest of the device. -/

namespace Sys2Proof.Machine

/-! ## Contexts -/

/-- A context that uses none of its fields. -/
def Ctx.blank : Ctx :=
  { state := .fetched, kind := .admin, inst := 0, sqid := 0, side := false, sqe := { opc := 0, cid := 0 }
    fua := false, lr := false, pract := false, prchk := 0, ord := false, wr := false, adm := false, fab := false, abrq := false
    oas := false, mir := false, fsn := 0, lc := 0, nsx := none, cmask := 0, slba := 0, nlb := 0, waymark := 0, keyslot := 0
    status := .success, ilbrt := 0, lbat := 0, lbatm := 0, rlidx := none, dspec := 0, done := 0, mods := [], rds := [], srcTags := []
    fetchedAt := 0, lockAt := 0, lockTime := 0, admitWaitAt := 0, admitTime := 0, covered := false, inShare := false
    admitEpoch := 0, shared := false, order := 0, rlWait := false, admitted := false, arrived := false, encrypted := false
    recorded := false, blocks := [], given := none, cells := [], frames := [], lost := none, dw0 := 0, dw1 := 0, doneSeq := 0
    after := [], wu := 0, detached := false, wsn := 0, barchan := 32, spaceWait := false, shutMark := 0, nss := [], exempt := []
    also := [], zone := none, handles := [], reply := [] }

/-- The span that SLBA and NLB name. -/
def Ctx.span (x : Ctx) : Span := ⟨x.slba, x.nlb + 1⟩

def State.setCtx (s : State) (c : Nat) (x : Ctx) : State := { s with qce := { s.qce with ctxs := Tab.set s.qce.ctxs c x } }
def State.updCtx (s : State) (c : Nat) (f : Ctx → Ctx) : State := { s with qce := s.qce.updCtx c f }

/-- Bytes enter or leave a port's receive allotment, with the flow-control frame that follows (R47). -/
def State.allotment (s : State) (port : Nat) (f : Nat → Nat) : State :=
  match Tab.get? s.hfu.ports port with
  | none => s
  | some p =>
    let r := p.setAllot (f p.allot)
    let g : State := { s with hfu := { s.hfu with ports := Tab.set s.hfu.ports port r.1 } }
    match r.2 with
    | some x => g.emit (.flow port x)
    | none => g

/-- A host command is taken: the next entry of its SQ gets its context and its FSN (R81 to R83, R88). None where fetch does not run or
no context is held for the queue. -/
def State.take (s : State) (inst sqid : Nat) (kind : Kind) (q : Sqe) : Option (State × Nat) :=
  match s.qce.inst? inst, s.qce.sq? inst sqid with
  | some i, some sq =>
    if s.fetches && i.fetches && sq.frozen.isNone && !sq.deleting && decide (0 < sq.heldRes + sq.heldSh) then
      let t := sq.take i.eth
      let c := s.qce.freeCtx
      let x : Ctx :=
        { Ctx.blank with
          kind := kind, inst := inst, sqid := sqid, sqe := q, fsn := s.qce.fsn, lc := if sqid = 0 then 0 else sq.lc, ord := sq.ordered && sqid != 0
          adm := sqid == 0, fab := i.eth, wr := q.opc % 2 == 1 && kind != .purge && kind != .zoneSend, order := sq.nextOrder, shared := sq.heldRes == 0
          fetchedAt := s.clock.now, state := if sqid = 0 then .fw else .fetched }
      let g : State :=
        { s with
          qce := { s.qce with
            sqs := Tab.set s.qce.sqs (qKey inst sqid) t.1, ctxs := Tab.set s.qce.ctxs c x, fsn := nextFsn s.qce.fsn
            insts := Tab.upd s.qce.insts inst fun i => { i with kaAt := s.clock.now } } }
      some (g.allotment i.port fun n => n - t.2, c)
    else none
  | _, _ => none

/-- A namespace by identifier as an instance sees it: only where it is attached. -/
def Flash.attachedNs (f : Flash) (inst nsid : Nat) : Option Ns :=
  if nsid = 0 then none else (f.ns? (nsid - 1)).filter fun n => n.attached.contains inst

/-! ## Checks at fetch (R64) -/

/-- A command that writes to the namespace for a reservation and for the lease (R59, R61). -/
def Ctx.isWrite (c : Ctx) : Bool := c.kind.modifies || c.kind == .zoneSend

/-- Commands that a write-protected namespace refuses (R216). -/
def Kind.protectable : Kind → Bool
  | .write => true | .append => true | .zeroes => true | .uncorrectable => true | .copy => true | _ => false

def Status.conflict : Status := stat 0 0x83
def Status.leaseRequired : Status := ⟨7, 0x81, false⟩
def Status.writeProtected : Status := ⟨0, 0x20, true⟩
def Status.sanitizeFailed : Status := stat 0 0x1C
def Status.unrecovered (dnr : Bool) : Status := ⟨2, 0x81, dnr⟩
def Status.keyNotLoaded : Status := ⟨7, 0x8F, false⟩
def Status.keyMismatch : Status := ⟨7, 0x91, true⟩
def Status.unwritten : Status := stat 2 0x87
def Status.compareFailure : Status := stat 2 0x85
def Status.guardCheck : Status := stat 2 0x82
def Status.appCheck : Status := stat 2 0x83
def Status.refCheck : Status := stat 2 0x84

/-- The status of every command that a sanitize forbids (R377). -/
def State.sanitizeStatus (s : State) : Option Status :=
  if s.sec.sanitize.isSome then some .sanitizing else if s.sec.sanStatus = 3 then some .sanitizeFailed else none

/-- The host of an instance. -/
def State.hostOf (s : State) (inst : Nat) : Nat := ((s.qce.inst? inst).map (·.hostId)).getD 0

/-- The lease of a namespace, and its reservation. -/
def State.leaseOf (s : State) (nsx : Nat) : Lease := Tab.getD s.hfu.leases nsx .off
def State.resvOf (s : State) (nsx : Nat) : Resv := Tab.getD s.hfu.resv nsx .none'

/-- Reservation, then lease, then write protection (R64, R216; the last's place DEDUCED, log entry 40). -/
def State.rightsStatus (s : State) (nsx : Nat) (n : Ns) (inst : Nat) (write guarded protectable : Bool) : Option Status :=
  let host := s.hostOf inst
  if (s.resvOf nsx).conflict host write then some .conflict
  else if guarded && !((s.leaseOf nsx).permits s.clock.lease host) then some .leaseRequired
  else if protectable && s.fl.ptx.wprot || write && n.wprot != 0 then some .writeProtected
  else none

/-- Bytes of user data in a number of blocks, and the 4 KiB granules that a span covers. -/
def Ns.dataBytes (n : Ns) (blocks : Nat) : Nat := blocks * n.blockBytes
def Ns.granules (n : Ns) (s : Span) : Nat :=
  if s.len = 0 then 0 else (s.lo + s.len - 1) / n.perGranule + 1 - s.lo / n.perGranule

/-- MDTS (R94): 2 MiB of logical block data (metadata not counted; DEDUCED, log entry 41). -/
def mdts : Nat := 2097152

/-- The key slot of a command (R361): none where its key tag is not assigned. -/
def Ns.keySlot (n : Ns) (nsx : Nat) (q : Sqe) : Option Nat :=
  match n.kpio with
  | none => some nsx
  | some (base, nkt) => if q.keyTag < nkt then some (base + q.keyTag) else none

/-- The key slot of a command that carries no key tag. -/
def Ns.firstSlot (n : Ns) (nsx : Nat) : Nat :=
  match n.kpio with
  | none => nsx
  | some (base, _) => base

/-! ## Locks and admission -/

/-- Granules of a span in partly covered, mapped IUs: those a deallocation records as zeros (R148, R169). -/
def Flash.zeroGranules (f : Flash) (nsx : Nat) (n : Ns) (s : Span) : Nat :=
  (((partIus n s).filter fun iu => (f.ent? nsx iu).isSome).map fun iu =>
    n.granules ⟨max s.lo (iu * n.perIu), min (s.lo + s.len) ((iu + 1) * n.perIu) - max s.lo (iu * n.perIu)⟩).sum

/-- The 4 KiB granules that some blocks make up, rounded up: however they lie, never more than 512 for a command (R144, R145; log entry 198). -/
def Ns.units (n : Ns) (ss : List Span) : Nat := ceilDiv (ss.map (·.len)).sum n.perGranule

/-- Work units (R144), what the command counts in the read window, and the Oasis data it will record (R148). -/
def State.cost (s : State) (x : Ctx) : Nat × Nat × Nat :=
  match x.nsx.bind s.fl.ns? with
  | none => (0, 0, 0)
  | some n =>
    let nsx := x.nsx.getD 0
    let rd := n.units x.rds
    let wr := n.units x.mods
    let w := s.tas.wcost
    match x.kind with
    | .read | .compare | .verify => (rd, rd, 0)
    | .write | .append => (w * wr, 0, 4096 * wr)
    | .copy => (rd + w * wr, rd, 4096 * wr)
    | .zeroes | .purge => (1, 0, 4096 * (x.mods.map (s.fl.zeroGranules nsx n)).sum)
    | .dsm => (1, 0, if x.sqe.deallocates then 4096 * (x.mods.map (s.fl.zeroGranules nsx n)).sum else 0)
    | .uncorrectable => (1, 0, 0)
    | _ => (0, 0, 0)

/-- Byte tokens (R144): data bytes moved over the host link. -/
def State.moved (s : State) (x : Ctx) : Nat :=
  match x.nsx.bind s.fl.ns? with
  | none => 0
  | some n =>
    match x.kind with
    | .read => n.dataBytes (x.nlb + 1)
    | .write | .append => n.dataBytes (x.nlb + 1)
    | _ => 0

/-- The waymark (R296, R297), as a full device time. -/
def State.waymarkOf (s : State) (x : Ctx) : Nat :=
  let budget := 10 * s.tas.budgets.getD x.lc 0
  let waited := s.clock.now - x.fetchedAt
  let own := match Tab.get? s.qce.shut x.inst with
    | some (t, since) => t + (match since with | some a => s.clock.now - a | none => 0) - x.shutMark
    | none => 0
  let within := ((Tab.get? s.tas.insts x.inst).map (·.within)).getD true
  let share := if s.tas.regs.bit .tasWmcfg 0 then (if within then min own waited else waited) else 0
  min (x.fetchedAt + budget + share) (s.clock.now + 2 ^ 30)

/-- Device conditions of R307 that hold at a moment, for a read of some clusters. -/
def State.contract (s : State) (clusters : List Nat) : Bool :=
  decide (s.fl.dip.regs.fld .dipMircfg 31 31 = 1 ∧ 10 ≤ s.fl.dip.regs.fld .dipMircfg 7 0)
    && clusters.all (fun k => s.fl.mbe.regs.bit (.mbeSchedcfg k) 30 && s.fl.mbe.regs.bit (.mbeSchedcfg k) 29
        && decide (s.fl.mbe.regs.fld (.mbeWmcfg k) 7 0 ≤ 10) && !(s.fev.active.contains (.cluster k)))
    && !(s.fev.active.contains .device) && s.fl.rebuilding.isEmpty && !s.fev.safe && decide (s.mgc.postHold ≤ s.clock.now)
    && decide (s.ptm.stage ≠ 3) && decide (s.fl.ptx.cap ≤ 1) && !s.fl.ptx.unp

/-- Whether the read is one that the contract can cover: one aligned 4 KiB granule, a budget within the limit of its media mode. -/
def State.coverable (s : State) (x : Ctx) (n : Ns) : Bool :=
  x.kind == .read && decide ((x.nlb + 1) * n.blockBytes = 4096 ∧ x.slba % n.perGranule = 0)
    && decide (s.tas.budgets.getD x.lc 0 ≤ (if n.slc then 55 else 180))

/-- What follows admission for each kind (R88): a reading command goes to TRANSLATE, every other to DATA; a change without host data
needs no more before it is recorded. -/
def Ctx.letIn (x : Ctx) (now waymark wu epoch : Nat) (within covered : Bool) : Ctx :=
  let y : Ctx :=
    { x with
      admitted := true, waymark := waymark, wu := wu, admitTime := now - x.admitWaitAt, admitEpoch := epoch, inShare := within
      covered := covered }
  match x.kind with
  | .read | .compare | .verify | .copy => { y with state := .translate }
  | .zeroes | .uncorrectable | .dsm | .purge | .zoneSend => { y with state := .data, encrypted := true }
  | _ => { y with state := .data }

/-- A command in ADMITWAIT as TAS weighs it (R144, R147, R148, R433). -/
def State.cand (s : State) (c : Nat) (x : Ctx) : Cand :=
  let k := s.cost x
  let bulk := x.kind == .write || x.kind == .append || x.kind == .copy
  { ctx := c, inst := x.inst, fsn := x.fsn, deadline := x.fetchedAt + 10 * s.tas.budgets.getD x.lc 0, wu := k.1
    tokens := if k.1 = 0 then 0 else 1, bytes := s.moved x, rcount := k.2.1, odata := k.2.2, needsWindow := x.kind.reads
    needsOasis := x.kind.modifies && (x.kind != .dsm || x.sqe.deallocates), capW := if bulk then k.2.2 else 0, capR := if x.kind.reads then 4096 * k.2.1 else 0 }

/-- An instance's own buckets are judged: whether one of them keeps its commands waiting (R296). -/
def Qce.judgeShut (q : Qce) (tas : Tas) (now inst : Nat) : Qce :=
  let shut := match Tab.get? tas.insts inst with
    | some t => !(t.cmdOpen && t.byteOpen)
    | none => false
  match (Tab.getD q.shut inst (0, none)), shut with
  | (t, none), true => { q with shut := Tab.set q.shut inst (t, some now) }
  | (t, some a), false => { q with shut := Tab.set q.shut inst (t + (now - a), none) }
  | _, _ => q

/-- TAS admits a command: its charges, its waymark (R147, R296). -/
def State.letIn (s : State) (c : Nat) (x : Ctx) : State :=
  let k := s.cand c x
  let t := Tab.get? s.tas.insts x.inst
  let cov := match x.nsx.bind s.fl.ns? with
    | some n => s.coverable x n && s.contract []
    | none => false
  let y := x.letIn s.clock.now (s.waymarkOf x) k.wu s.tas.epoch ((t.map (·.within)).getD true) cov
  let tas := s.tas.charge k x.lc s.clock.now (s.clock.now - x.admitWaitAt)
  ({ s with tas := tas, qce := s.qce.judgeShut tas s.clock.now x.inst }).setCtx c y

/-- Instances with commands in ADMITWAIT. -/
def Qce.waiters (q : Qce) : List Nat := distinct ((q.ctxs.filter fun e => e.2.state == .admitwait && e.2.kind != .parity && !e.2.detached).map fun e => e.2.inst)

/-- A command enters ADMITWAIT (R147, R161); one of zero WU is admitted at once (R144). An admin command goes back to FW. -/
def State.toAdmit (s : State) (c : Nat) : State :=
  match s.qce.ctx? c with
  | none => s
  | some x =>
    if x.kind == .admin then
      s.updCtx c fun x => { x with state := .fw, lockTime := if x.state = .lockwait then s.clock.now - x.lockAt else x.lockTime }
    else
    let others := s.qce.waiters
    let mark := match Tab.get? s.qce.shut x.inst with
      | some (t, since) => t + (match since with | some a => s.clock.now - a | none => 0)
      | none => 0
    let y : Ctx :=
      { x with
        state := .admitwait, admitWaitAt := s.clock.now, shutMark := mark
        lockTime := if x.state = .lockwait then s.clock.now - x.lockAt else x.lockTime }
    let g : State := { s with tas := (if others.contains x.inst then s.tas else s.tas.joins x.inst others).admitting x.inst }
    if (s.cost x).1 = 0 then g.letIn c y else g.setCtx c y

/-- A checked command meets the range-lock table: LOCKWAIT behind what it overlaps, otherwise ADMITWAIT (R88, R115, R119). -/
def State.route (s : State) (c : Nat) : State :=
  match s.qce.ctx? c with
  | none => s
  | some x =>
    if x.rlWait then s
    else if s.qce.blocked x then s.updCtx c fun x => { x with state := .lockwait, lockAt := s.clock.now }
    else s.toAdmit c

/-- A modifying command takes its entry first (R113). -/
def State.lockAndRoute (s : State) (c : Nat) : State := ({ s with qce := s.qce.takeLock c }).route c

/-! ## The end of a command -/

/-- Host reads of a context are withdrawn: those not issued are cancelled, the others' data is discarded (R98, R158). -/
def Flash.cancelHost (f : Flash) (c : Nat) : Flash :=
  let mine := fun (j : Job) => match j.purpose with
    | .host d _ => d == c && !j.background
    | _ => false
  let drop := Tab.keysWhere f.dip.jobs fun _ j => mine j && j.stage == .queued
  if (f.dip.jobs.any fun e => mine e.2) then
    { f with
      dip := { f.dip with
        jobs := (f.dip.jobs.filter fun e => !(drop.contains e.1)).map fun e =>
          (e.1, if mine e.2 then { e.2 with purpose := .patrol } else e.2) }
      mbe := { f.mbe with
        dies := f.mbe.dies.map fun e =>
          (e.1, { e.2 with
            host := e.2.host.filter fun j => !(drop.contains j)
            internal := e.2.internal.filter fun w => match w.work with | .read j => !(drop.contains j) | _ => true }) } }
  else f

/-- What a command that ends without its commit point lets go: its assigned zone range (R177), its die reads, its parity job, the
capacity that it reserved (R188). -/
def State.withdraw (s : State) (c : Nat) : State :=
  match s.qce.ctx? c with
  | none => s
  | some x =>
    let f := s.fl.cancelHost c
    let f := match x.zone, x.nsx with
      | some _, some nsx => if x.recorded then f else f.zoneRelease nsx x.slba (x.nlb + 1) x.fsn
      | _, _ => f
    let f := f.release c
    { s with fl := { f with dip := { f.dip with pcJobs := Tab.keep f.dip.pcJobs fun _ j => j.ctx != c } } }

/-- A command ends with a status (R88). In an ordered SQ a failure freezes the queue, with its event (R102). -/
def State.fin (s : State) (c : Nat) (st : Status) : State :=
  match s.qce.ctx? c with
  | none => s
  | some x =>
    if !x.open' then s
    else
      let r := s.qce.finish s.clock.now c st
      let froze := ((r.1.inst? x.inst).map (·.freezes)) != ((s.qce.inst? x.inst).map (·.freezes))
      let s : State :=
        { s with
          qce := if froze then r.1.raise x.inst ⟨7, 0x80, 0xC0⟩ else r.1
          fl := if st.sct = 2 ∧ st.sc = 0x81 then { s.fl with ptx := { s.fl.ptx with mediaErrors := s.fl.ptx.mediaErrors + 1 } } else s.fl }
      if st.isOk then s else (r.2.reverse ++ [c]).foldl State.withdraw s

/-- Ends a command with completion dwords. -/
def State.finWith (s : State) (c : Nat) (st : Status) (dw0 dw1 : Nat) : State :=
  (s.updCtx c fun x => { x with dw0 := dw0, dw1 := dw1 }).fin c st

/-! ## Recording (step 7 of R19; R99, R116, R198) -/

/-- A change has been recorded: out of ORDWAIT it is in DATA again (R88), its lock is released, and a Flush behind it in its ordered SQ covers it (R105, R114). -/
def State.committed (s : State) (c : Nat) (x : Ctx) (wsn : Nat) : State :=
  let q := s.qce.dropLocks c
  let q := q.updCtx c fun y => { y with recorded := true, wsn := wsn, state := if y.state = .ordwait then .data else y.state }
  { s with
    qce := { q with
      ctxs := q.ctxs.map fun e =>
        (e.1, if e.2.kind == .flush && x.ord && e.2.ofSq x.inst x.sqid && decide (x.order < e.2.order) then
            { e.2 with also := wsn :: e.2.also } else e.2) } }

/-- The writer of a command's Oasis slots. -/
def Ctx.writer (x : Ctx) (wsn : Nat) : Writer := ⟨wsn, x.fsn, x.inst, x.keyslot, x.barchan⟩

/-- The zone clearings of Reset and Offline, and of a Purge over zones: every block of the spans reads as deallocated. -/
def Flash.deallocAll (f : Flash) (now nsx : Nat) (n : Ns) (ss : List Span) (w : Writer) : Flash :=
  ss.foldl (fun (g : Flash) s => g.dealloc now nsx n s w) f

/-- What recording a command changes on the flash side. -/
def Flash.recordCmd (f : Flash) (now nsx : Nat) (n : Ns) (x : Ctx) (w : Writer) : Flash :=
  match x.kind with
  | .write | .append | .copy => f.record nsx n x.cells w
  | .uncorrectable => x.mods.foldl (fun (g : Flash) s => g.uncorrectable now nsx n s w) f
  | .dsm => if x.sqe.deallocates then f.deallocAll now nsx n x.mods w else f
  | .zoneSend => f.deallocAll now nsx n x.rds w
  | _ => f.deallocAll now nsx n x.mods w

/-- Bytes of host data that a write records, and its metadata beside them (R163, R185, R457). -/
def Ns.written (n : Ns) (x : Ctx) : Nat := if x.kind == .write || x.kind == .append then n.dataBytes (x.nlb + 1) else 0
def Ns.metaBytes (n : Ns) : Nat := if n.lbaf = 2 then 8 else if n.lbaf = 3 ∨ n.lbaf = 4 then 16 else 0
def Ns.writtenMeta (n : Ns) (x : Ctx) : Nat := if x.kind == .write || x.kind == .append then n.metaBytes * (x.nlb + 1) else 0

/-- The notes' state: set the flash side. -/
def State.withFl (s : State) (f : Flash) : State := { s with fl := f }

/-- The flash side once a command's change is recorded under the next write sequence number, with its host bytes counted (R198). -/
def Flash.recordedBy (f : Flash) (now nsx : Nat) (n : Ns) (x : Ctx) : Flash :=
  let wsn := f.ptx.wsn + 1
  let f : Flash := { f with ptx := { f.ptx with wsn := wsn } }
  let f := f.recordCmd now nsx n x (x.writer wsn)
  let p := f.ptx.barAdd x.barchan fun b => { b with hbw := b.hbw + n.written x + n.writtenMeta x }
  { f with ptx := { p with hostWritten := p.hostWritten + n.written x, hostMeta := p.hostMeta + n.writtenMeta x } }

/-- A Purge Range ends: the bands erased for it, and the die of a block that kept a copy (R218, R220). -/
def State.purgeDone (s : State) (c bands : Nat) (residue : Option Nat) : State :=
  match residue with
  | none => s.finWith c .success (min bands (2 ^ 32 - 1)) 0
  | some d => s.finWith c ⟨7, 0x8B, true⟩ (min bands (2 ^ 32 - 1)) d

/-- A change is recorded: its commit point (R99). FUA writes wait for their program in unprotected mode (R127); a Purge Range for its
erases (R219). -/
def State.record (s : State) (c : Nat) (x : Ctx) : State :=
  match x.nsx.bind s.fl.ns? with
  | none => s.fin c .success
  | some n =>
    let nsx := x.nsx.getD 0
    if x.kind.protectable && s.fl.ptx.wprot then s.fin c .writeProtected
    else
      let g := (s.withFl (s.fl.recordedBy s.clock.now nsx n x)).committed c x (s.fl.ptx.wsn + 1)
      if x.kind == .purge then
        let r := g.fl.purgeBands c x.inst nsx (x.slba * n.blockBytes) (x.mods.map fun m => m.len * n.blockBytes).sum
        match r.2 with
        | [.purged _ k d] => (g.withFl r.1).purgeDone c k d
        | _ => g.withFl r.1
      else if x.fua && s.fl.ptx.unp && (x.kind == .write || x.kind == .append || x.kind == .zeroes || x.kind == .uncorrectable) then g
      else g.fin c .success

/-- A change that is ready to be recorded: recorded, held in DATA for an earlier read (R116), or in ORDWAIT for a command ahead of it in
its ordered SQ (R88, R101). -/
def State.tryRecord (s : State) (c : Nat) (x : Ctx) : State :=
  if s.qce.readBefore x then s
  else if x.ord && !(s.qce.predsCommitted x) then s.updCtx c fun y => { y with state := .ordwait }
  else s.record c { x with state := .data }

/-- One handle's unit ends (R184). -/
def Flash.updateHandle (f : Flash) (now hours h : Nat) : Flash :=
  let r := f.endUnit now hours (3072 + h)
  if r.2 then { r.1 with ptx := r.1.ptx.fdpEvent now 0x00 h } else r.1

/-- A command without logical blocks that has passed its checks goes through the locks and admission like any other (R88, R119). -/
def State.endIn (s : State) (c : Nat) (x : Ctx) (nsx : Nat) (handles : List Nat) (reply : List Byte) : State :=
  (s.setCtx c { x with nsx := some nsx, encrypted := true, handles := handles, reply := reply }).route c

/-- Such a command ends: after those ahead of it in an ordered SQ (R99, R101). -/
def State.tryEnd (s : State) (c : Nat) (x : Ctx) : State :=
  if x.ord && !(s.qce.predsCommitted x) then s
  else
    let g := if x.reply.isEmpty then s else s.emit (.data c x.reply)
    (g.withFl (x.handles.foldl (fun (f : Flash) h => f.updateHandle g.clock.now g.hours h) g.fl)).fin c .success

/-! ## Reading (R99, R139, R366) -/

/-- Guard width, and whether the reference tag has 48 bits. -/
def Ns.guardBits (n : Ns) : Nat := Machine.guardBits n.lbaf
def Ns.wideRef (n : Ns) : Bool := n.lbaf == 3 || n.lbaf == 4

/-- The check of one block's protection information (R137, R139): guard, then application tag, then reference tag. The escape values of
the NVM Command Set end the check of a block (PRESUMED, log entry 26). -/
def Ns.piFault (n : Ns) (prchk ref app mask : Nat) (b : LBlock) : Option Status :=
  let ones := refOnes n.lbaf
  if n.pit = 0 then none
  else if b.pi.app = 0xFFFF ∧ (n.pit ≠ 3 ∨ b.pi.ref = ones) then none
  else if prchk / 4 % 2 = 1 ∧ b.pi.guard ≠ Config.guard n.guardBits b.data then some .guardCheck
  else if prchk / 2 % 2 = 1 ∧ b.pi.app &&& mask ≠ app &&& mask then some .appCheck
  else if prchk % 2 = 1 ∧ n.pit ≠ 3 ∧ b.pi.ref ≠ ref % (ones + 1) then some .refCheck
  else none

/-- The check of blocks in order: the status of the lowest failing one (R137). -/
def Ns.piStatus (n : Ns) (prchk app mask : Nat) : Nat → List LBlock → Option Status
  | _, [] => none
  | ref, b :: rest =>
    match n.piFault prchk ref app mask b with
    | some st => some st
    | none => n.piStatus prchk app mask (ref + 1) rest

/-- A block as a key returns it. -/
def Cell.open' (k : XKey) (lba : Nat) (c : Cell) : LBlock :=
  match c.key with
  | none => c.block
  | some w => if w = k ∧ c.lba = lba then c.block else { c.block with data := Config.wrongKey k.num w.num c.block.data }

/-- The blocks of some spans, in order. -/
def lbasOf (ss : List Span) : List Nat := ss.flatMap fun s => (List.range s.len).map (· + s.lo)

/-- The namespace and the key slot of a block that a command reads (R360, R361). -/
def State.readNs (s : State) (n : Ns) (l : Nat) : Ns := if l < 2 ^ 48 then n else (s.fl.ns? (l / 2 ^ 48 - 1)).getD n
def State.readSlot (s : State) (x : Ctx) (n : Ns) (l : Nat) : Nat :=
  if l < 2 ^ 48 then x.keyslot else ((s.readNs n l).keySlot (l / 2 ^ 48 - 1) x.sqe).getD 0

/-- What decryption of a read's cells gives: its blocks, or a status (R139, R193, R366). Zeros that no key encrypted need none. -/
def State.decrypt (s : State) (x : Ctx) (n : Ns) : Except Status (List LBlock) :=
  let cs := (lbasOf x.rds).map fun l => (l, (Tab.get? x.cells l).getD (zeroCell n.lbaf (l % 2 ^ 48)))
  let keyed := cs.filter fun e => e.2.key.isSome
  if cs.any (fun e => e.2.bad) then .error (.unrecovered true)
  else if cs.any (fun e => e.2.key.isNone && (s.readNs n e.1).dulbe) then .error .unwritten
  else if keyed.any (fun e => !(Tab.has s.sec.keys (s.readSlot x n e.1))) then .error .keyNotLoaded
  else if keyed.any (fun e => e.2.slot != s.readSlot x n e.1) then .error .keyMismatch
  else
    .ok (cs.map fun e =>
      match Tab.get? s.sec.keys (s.readSlot x n e.1) with
      | some k => e.2.open' k (e.1 % 2 ^ 48)
      | none => e.2.block)

/-- A read whose data is decrypted and checked starts its transfer: its commit point, after those ahead of it in an ordered SQ (R99,
R101). A Verify ends here; a Compare once the host's blocks are here too. -/
def State.tryDeliver (s : State) (c : Nat) (x : Ctx) : State :=
  if x.ord && !(s.qce.predsCommitted x) then s
  else
    match x.kind with
    | .verify => s.fin c .success
    | .compare =>
      match x.given with
      | none => s
      | some g => s.fin c (if g = x.blocks then .success else .compareFailure)
    | _ => s.updCtx c fun y => { y with recorded := true }

/-! ## Contexts that are free again -/

/-- A context is freed (R83, R88): what waited for its entry to be posted waits no longer (R98, R105), and the media locations it held are let go
(R117). -/
def State.freeCtx (s : State) (c : Nat) (x : Ctx) : State :=
  let q : Qce := { s.qce with ctxs := Tab.mapVals (Tab.erase s.qce.ctxs c) fun _ y => { y with after := y.after.filter (· ≠ c) } }
  let q := if x.side || x.detached then q else q.giveBack x.inst x.sqid
  { s with
    qce := q.noteEmpty
    fl := { s.fl with
      ptx := { s.fl.ptx with holds := s.fl.ptx.holds.filter fun h => h.1 != c }
      dip := { s.fl.dip with pcJobs := Tab.erase s.fl.dip.pcJobs c } } }

/-- The answer to a sideband command that has ended: an NVMe-MI response, or, for the context of an Ahnah task (queue 1 of no instance), the task's
result (R410, R412). -/
def State.sideAnswer (s : State) (x : Ctx) : State :=
  if x.sqid = 1 then { s with mgc := s.mgc.ahEnd (if x.status.isOk then 0 else 0x8000 + x.status.sct * 256 + x.status.sc) [] }
  else s.emit (.mi x.status.code (leBytes 4 x.dw0 ++ leBytes 4 x.dw1))

/-- Commands that have ended and that no queue posts: a sideband command is answered, a detached one is not (R158, R410); their contexts
are free. -/
def State.answerSide (s : State) : State :=
  (s.qce.ctxs.filter fun e => (e.2.side || e.2.detached) && e.2.state == .completing).foldl (fun (g : State) e =>
    (if e.2.side then g.sideAnswer e.2 else g).freeCtx e.1 e.2) s

/-- A journalled change is durable: at once in protected mode, otherwise once its journal stripe has been programmed (R223). -/
def Flash.recDurable (f : Flash) (w : Nat) : Bool := !f.ptx.unp || !((f.ptx.tail ++ f.ptx.flying).any fun r => r.wsn == w)

/-! ## Admin commands on whole namespaces (R108, R113, R162 to R168, R375, R376) -/

/-- A context names a key slot (R361, R365). -/
def State.namesSlot (s : State) (x : Ctx) (slot : Nat) : Bool :=
  (x.kind.reads || x.kind.modifies || x.kind == .zoneSend) && x.nsx.isSome
    && (x.keyslot == slot || x.kind == .copy && x.rds.any fun r => decide (2 ^ 48 ≤ r.lo)
      && match s.fl.ns? (r.lo / 2 ^ 48 - 1) with
        | some n => s.readSlot x n r.lo == slot
        | none => false)

/-- Live contexts fetched before `fsn` that name a key slot (R365). -/
def State.liveOn (s : State) (slot fsn : Nat) : Nat := (s.qce.ctxs.filter fun e => fsnBefore e.2.fsn fsn && s.namesSlot e.2 slot).length

/-- A namespace as Format NVM leaves it: the IU stays, and so do NSZE and the zone size in blocks (R168, R187; log entry 196). -/
def Ns.formatted (n : Ns) (q : Sqe) : Ns := { n with lbaf := q.fmtLbaf, pit := q.fmtPi, extended := q.fmtExt, piFirst := q.fmtFirst }

/-- The first of R167's statuses that a Format to another block size meets, and the flash side with the capacity and map cost that it needs reserved
(log entry 196). -/
def Flash.formatReserve (f : Flash) (mapRegion c : Nat) (q : Sqe) (ks : List Nat) : Except Status Flash :=
  let ns := ks.filterMap f.ns?
  if ns.any fun n =>
      let m := n.formatted q
      !m.sizeOk m.nsze || m.zoned && !decide (268435456 ≤ m.zsze * m.blockBytes ∧ m.zsze * m.blockBytes ≤ 8 * gib) then
    .error .invalidField
  else
    let grows := fun (size : Ns → Nat) => (ns.map fun n => size (n.formatted q)).sum - (ns.map size).sum
    match f.reserve mapRegion c (grows fun n => n.capacity n.nsze) (grows fun n => n.mapCost n.nsze) with
    | none => .error (stat 1 0x15)
    | some g => .ok g

/-- The format changes what a block is. -/
def Ns.reformats (n : Ns) (q : Sqe) : Bool := n.lbaf != q.fmtLbaf || n.pit != q.fmtPi || n.extended != q.fmtExt

/-- A namespace's zones give up what they hold, and its IUs are unmapped. -/
def Flash.clearNs (f : Flash) (now hours nsx : Nat) (n : Ns) : Flash :=
  let wsn := f.ptx.wsn + 1
  let f : Flash := { f with ptx := { f.ptx with wsn := wsn } }
  let f := (f.zoneActs now hours nsx .reset' (Tab.keysWhere n.zones fun _ z => z.st != .offline && z.st != .readOnly)).1
  f.unmap now nsx (f.mappedIus nsx) wsn

/-- One namespace is formatted; with SES 1 or 2 its key is replaced (R376). -/
def State.formatNs (s : State) (x : Ctx) (k : Nat) : State :=
  match s.fl.ns? k with
  | none => s
  | some n =>
    let f := s.fl.clearNs s.clock.now s.hours k n
    let f : Flash := { f with ptx := { f.ptx with nss := Tab.upd f.ptx.nss k fun m => m.formatted x.sqe } }
    { s with
      fl := f
      sec := if x.sqe.ses = 0 then s.sec else (s.sec.keygen k x.fsn (s.liveOn k x.fsn) false).1
      qce := if n.reformats x.sqe then s.qce.nsChanged (k + 1) n.attached else s.qce }

/-- One namespace is deleted: its data is unmapped, its key and blob, its lease and its reservation are gone (R63, R362). -/
def State.deleteNs (s : State) (fsn k : Nat) : State :=
  match s.fl.ns? k with
  | none => s
  | some n =>
    let f := s.fl.clearNs s.clock.now s.hours k n
    let f := match n.stream with
      | some b => f.releaseBarchan s.clock.now s.hours b closeMark true
      | none => f
    let f := f.remove s.clock.now k f.ptx.wsn
    let sec := s.sec.dropKey k fsn (s.liveOn k fsn)
    let sec := match n.kpio with
      | some (base, nkt) => (List.range nkt).foldl (fun (c : Sec) i => c.change (base + i) none fsn (s.liveOn (base + i) fsn) false) sec
      | none => sec
    { s with
      fl := f, sec := sec
      hfu := { s.hfu with leases := Tab.erase s.hfu.leases k, resv := Tab.erase s.hfu.resv k }
      qce := (n.attached.foldl (fun (q : Qce) i => q.updInst i fun y => { y with features := Tab.erase y.features (0x82 + 256 * (k + 1)) }) s.qce).nsChanged
        (k + 1) n.attached }

/-- A command ahead of an admin command still works on one of its namespaces. -/
def Qce.ahead (q : Qce) (x : Ctx) : Bool :=
  q.ctxs.any fun e => fsnBefore e.2.fsn x.fsn && e.2.open' && e.2.kind != .admin
    && x.nss.any fun k => e.2.nsx == some k || e.2.nss.contains k || e.2.spans.any fun a => a.1 == k

def Status.eraseIneffective : Status := ⟨7, 0x92, true⟩

/-! ### Size changes (R187 to R190) -/

def Status.noCapacity : Status := stat 1 0x15
def Status.shrinkBlocked : Status := ⟨7, 0x89, true⟩

/-- The map region in bytes (R168): installed DRAM less 16 GiB. -/
def State.mapRegion (s : State) : Nat := s.mss.cap - 16 * gib

/-- A namespace grows, from what was reserved at the command's fetch; its hosts are told (R188). Where a growth before it was withdrawn, it needs that
part too (log entry 142). -/
def State.grow (s : State) (c k : Nat) (n : Ns) (size : Nat) : State :=
  let f := s.fl.release c
  if f.unvmcap + n.capacity n.nsze < n.capacity size ∨ s.mapRegion + n.mapCost n.nsze < f.usedMap + n.mapCost size then s.fin c .noCapacity
  else
    let p : Ptx := { f.ptx with nss := Tab.upd f.ptx.nss k fun m => { m with nsze := size } }
    ({ s with fl := { f with ptx := p }, qce := s.qce.nsChanged (k + 1) n.attached }).fin c .success

/-- The lowest LBA from `lo` that a mapped IU or a zone in use holds (R189). -/
def Flash.lowestUsed (f : Flash) (k : Nat) (n : Ns) (lo : Nat) : Option Nat :=
  let ius := ((f.mappedIus k).map (· * n.perIu)).filter fun l => decide (lo ≤ l)
  let zs := (n.zones.filter fun e => e.2.st != .empty && e.2.st != .offline && decide (lo ≤ e.1 * n.zsze)).map fun e => e.1 * n.zsze
  match ius, zs with
  | [], [] => none
  | [], z :: rest => some (rest.foldl min z)
  | l :: rest, _ => some (rest.foldl min l)

/-- A shrink that holds its entry checks the tail: it takes effect, or is refused with the lowest mapped LBA (R189). -/
def State.shrink (s : State) (c k : Nat) (n : Ns) (size : Nat) : State :=
  match s.fl.lowestUsed k n size with
  | some l => s.finWith c .shrinkBlocked (l % 2 ^ 32) (l / 2 ^ 32)
  | none =>
    let keep := fun (z : Nat) => !n.zoned || decide (z * n.zsze < size)
    let p : Ptx := { s.fl.ptx with nss := Tab.upd s.fl.ptx.nss k fun m => { m with nsze := size, zones := Tab.keep m.zones fun z _ => keep z } }
    ({ s with fl := { s.fl with ptx := p }, qce := s.qce.nsChanged (k + 1) n.attached }).fin c .success

/-- A size change of a namespace that has not ended, and one fetched before a command (R190). -/
def Ctx.sizes (x : Ctx) (k : Nat) : Bool := x.kind == .admin && x.sqe.opc == 0x09 && x.nsx == some k && x.open'
def Qce.sizeBefore (q : Qce) (k : Nat) (x : Ctx) : Bool := q.ctxs.any fun e => e.2.sizes k && fsnBefore e.2.fsn x.fsn

/-- A size change that no earlier command holds back, checked against the namespace as it now is (R187 to R190). -/
def State.sizeChange (s : State) (c : Nat) (x : Ctx) (k : Nat) : State :=
  match s.fl.ns? k with
  | none => s.fin c .invalidNs
  | some n =>
    let size := x.sqe.newSize
    if !n.sizeOk size then s.fin c .invalidField
    else if size = n.nsze then (s.withFl (s.fl.release c)).fin c .success
    else if size < n.nsze then (s.withFl (s.fl.release c)).shrink c k n size
    else s.grow c k n size

/-- An admin command that acts on whole namespaces does so once it holds its entries and no earlier reading command stands before TRANSLATE
(R116); a Delete, or a Format to another block, once every earlier command there has ended (R380); a size
change once nothing earlier holds its namespace (R190). Opcodes: 0x80 Format NVM, 0x0D Delete, 0x09 Set Features. -/
def State.actOnNs (s : State) (c : Nat) (x : Ctx) : State :=
  let turns := x.nss.any fun k => match s.fl.ns? k with | some n => n.reformats x.sqe | none => false
  if x.rlWait || s.qce.readBefore x then s
  else if x.sqe.opc = 0x80 then
    if turns && s.qce.ahead x then s
    else if x.sqe.ses ≠ 0 ∧ s.fl.hostKeyed then s.fin c .eraseIneffective
    else if x.sqe.ses ≠ 0 ∧ s.sec.noKeys then s.fin c .internalError
    else (x.nss.foldl (fun (g : State) k => g.formatNs x k) (s.withFl (s.fl.release c))).fin c .success
  else if x.sqe.opc = 0x0D then
    if s.qce.ahead x then s else (x.nss.foldl (fun (g : State) k => g.deleteNs x.fsn k) s).fin c .success
  else if x.sqe.opc = 0x09 then
    (match x.nsx with
    | some k => if s.qce.sizeBefore k x then s else s.sizeChange c x k
    | none => s)
  else s

/-- A completion that stood as Success has become Internal Error (R87): in an ordered SQ that is a failure, which freezes the queue (R102). -/
def State.spoil (s : State) (c : Nat) (x : Ctx) : State :=
  let q := s.qce.updCtx c fun y => { y with status := .internalError }
  match q.sq? x.inst x.sqid, q.inst? x.inst with
  | some sq, some i =>
    if x.ord && x.status.isOk && sq.frozen.isNone && !x.side then
      let r := q.freeze (i.stampMs s.clock.now) c { x with status := .internalError }
      r.2.reverse.foldl State.withdraw { s with qce := r.1.raise x.inst ⟨7, 0x80, 0xC0⟩ }
    else { s with qce := q }
  | _, _ => { s with qce := q }

/-- The handover of a hot activation runs: commands that need the Cameleer or the application cores wait for its end (R105, R407). -/
def State.handover (s : State) : Bool := decide (s.clock.now < s.mgc.postHold - 5000)

/-- Every admitted command has drained (R377). -/
def State.drained (s : State) : Bool := !(s.qce.ctxs.any fun e => e.2.kind != .admin && e.2.open')

/-- A sanitize whose admitted commands have drained starts its action: the keys are replaced before anything else, and its command completes
(R375, R377). After a debug unlock no key can be made before the next start (R373). -/
def State.sanitizeStart (s : State) : State :=
  match s.sec.sanitize with
  | none => s
  | some z =>
    if z.started || !s.drained || s.sec.noKeys || s.handover then s
    else
      let c := (s.sec.rekey s.qce.fsn (fun _ => 0) (s.fl.ptx.nss.map Prod.fst)).clearPool
      let g : State := { s with fl := s.fl.discardAll s.clock.now s.hours, sec := { c with sanitize := some { z with started := true } } }
      (Tab.keysWhere g.qce.ctxs fun _ x => x.kind == .admin && x.sqe.opc == 0x84 && x.arrived && x.open').foldl (fun (g : State) k => g.fin k .success) g

/-- What a namespace's delete, format or shrink has done to a command that waited behind it (R189, R190). -/
def State.afterWait (s : State) (x : Ctx) : Option Status :=
  if x.kind == .admin then none
  else if x.spans.any (fun a => (s.fl.ns? a.1).isNone) || x.nsx.any (fun k => (s.fl.ns? k).isNone) then some .invalidNs
  else if x.spans.any (fun a => match s.fl.ns? a.1 with | some n => decide (n.nsze < a.2.lo + a.2.len) | none => false) then some .lbaRange
  else none

/-! ## Settling: what an event lets go on -/

/-- One context, after something changed: out of LOCKWAIT, recorded, or its transfer started. -/
def State.settleCtx (s : State) (c : Nat) : State :=
  match s.qce.ctx? c with
  | none => s
  | some x =>
    match x.state with
    | .lockwait =>
      if x.rlWait || s.qce.blocked x then s
      else
        match s.afterWait x with
        | some st => s.fin c st
        | none => s.toAdmit c
    | .data =>
      if x.encrypted && !x.recorded then
        (if x.kind.ends then s.tryEnd c x
        else if x.kind.reads && x.kind != .copy then s.tryDeliver c x
        else if (x.kind == .purge || x.kind == .zoneSend) && s.handover then s
        else s.tryRecord c x)
      else s
    | .ordwait => s.tryRecord c x
    | .fw =>
      if s.handover then s
      else if x.encrypted then (if s.fl.recDurable x.wsn then s.fin c x.status else s)
      else if x.arrived then s.actOnNs c x
      else s
    | _ => s

/-- Contexts that may go on, in fetch order. -/
def Qce.stalled (q : Qce) : List Nat :=
  ((q.ctxs.filter fun e => e.2.state == .lockwait || (e.2.state == .data || e.2.state == .ordwait || e.2.state == .fw) && e.2.encrypted && !e.2.recorded
      || e.2.state == .fw && e.2.arrived).foldr
    (insertBy fun a b => fsnUpTo a.2.fsn b.2.fsn) []).map Prod.fst

/-- Passes over the stalled contexts. -/
def State.settlePass : Nat → State → State
  | 0, s => s
  | n + 1, s => State.settlePass n (s.qce.stalled.foldl State.settleCtx s)

/-- Everything that can go on after an event does (R88, R115, R116, R101). -/
def State.settle (s : State) : State :=
  (match s.qce.stalled with
  | [] => s
  | xs => State.settlePass (xs.length + 1) s).sanitizeStart.answerSide

/-! ## Notes of the flash side -/

/-- Writes not yet recorded end when the device becomes write-protected (R216). -/
def State.protectWrites (s : State) : State :=
  if s.fl.ptx.wprot then
    (Tab.keysWhere s.qce.ctxs fun _ x => x.kind.protectable && !x.recorded && x.open').foldl (fun (g : State) c => g.fin c .writeProtected) s
  else s

/-- CMASK: a bit for each cluster that a granule still comes from (R85). -/
def clusterMask (t : Tab Nat) : Nat := ((distinct (t.map Prod.snd)).map fun k => 2 ^ k).sum

/-- A granule of a read is here: the last one ends MEDIA (R88). -/
def State.granule (s : State) (c lba : Nat) (cells : Tab Cell) (mirage : Bool) : State :=
  s.updCtx c fun x =>
    if x.state = .media then
      let left := Tab.erase x.frames lba
      let y : Ctx :=
        { x with
          frames := left, mir := x.mir || mirage
          cells := overlay x.cells (Tab.keep cells fun l _ => !(Tab.has x.cells l) && x.rds.any fun r => decide (r.lo ≤ l ∧ l < r.lo + r.len)) }
      { y with cmask := clusterMask left, state := if left.isEmpty then .data else .media }
    else x

/-- A program of the device's own ports on the FSC, inside the port's area: at once, or behind what runs, the event recorder's program too (R389, R390,
R455). -/
def Mgc.storeProgram (m : Mgc) (now : Nat) (port : FscPort) (o : Nat) (bs : List Byte) (erasing fevProg : Bool) : Mgc :=
  if !port.reaches o then m
  else if m.prog.isSome || fevProg then { m with waiting := m.waiting ++ [(port, o, bs)] } else m.startProgram now port o bs erasing

/-- What one note does. -/
def State.note (s : State) (n : Note) : State :=
  match n with
  | .report r => s.report r
  | .granule c lba cells mirage => s.granule c lba cells mirage
  | .lost c _ dnr => s.fin c (.unrecovered dnr)
  | .charge i k w => { s with tas := s.tas.chargeReclaim i k w }
  | .purgeCharge i k => { s with tas := s.tas.updInst i fun t => { t with rclwu := t.rclwu + (1 + s.tas.wcost) * k } }
  | .purged c bands residue => s.purgeDone c bands residue
  | .zoneReadOnly nsx z =>
    match s.fl.ns? nsx with
    | none => s
    | some n =>
      { s with
        qce := n.attached.foldl (fun (q : Qce) i =>
          let first := ((q.inst? i).map fun x => !(x.changedZones.any fun e => e.1 == nsx)).getD false
          let q := q.updInst i fun x => { x with changedZones := x.changedZones ++ [(nsx, z)] }
          if first then q.raise i ⟨2, 0xEF, 0xBF⟩ else q) s.qce }
  | .async info page => { s with qce := s.qce.raiseAll ⟨7, info, page⟩ }
  | .descriptor o bs =>
    let nor := if o % 65536 = 0 ∧ bs.getD 15 0 = 0xFF then s.mgc.eraseSector (o / 65536) else s.mgc.nor
    let erasing := s.mgc.erase.isSome || s.fev.erasing.isSome
    { s with mgc := ({ s.mgc with nor := nor }).storeProgram s.clock.now .ptx o bs erasing s.fev.writing.isSome }

/-- The flash side after an operation of its own, with what it told: commands go on, warnings are judged. -/
def State.told (s : State) (r : Flash × List Note) : State := (r.2.foldl State.note (s.withFl r.1)).protectWrites.settle.warn

/-- An admitted write whose data is not yet in the Oasis: it stands at step 4 of R19, or before it. -/
def Ctx.beforeData (x : Ctx) : Bool :=
  x.admitted && x.open' && ((x.kind == .write || x.kind == .append) && !x.arrived || x.kind == .copy && !x.encrypted)

/-- The durability mode is judged again (R129 to R131, R418); a fallen limit holds back writes at step 4 (R128). -/
def State.judgeMode (s : State) : State :=
  if s.runs then
    let r := s.fl.judgeMode s.ptm.against s.stampMs
    let g := s.told r
    if !s.fl.ptx.unp && g.fl.ptx.unp then
      { g with qce := { g.qce with ctxs := g.qce.ctxs.map fun e =>
        (e.1, if e.2.beforeData && !(g.fl.room (g.cost e.2).2.2) then { e.2 with spaceWait := true } else e.2) } }
    else g
  else s

end Sys2Proof.Machine
end

