-- ==== Sys2Proof/Machine/DataPath.lean ====
section
/-! DEFINITION. The data path of the I/O commands after their fetch (R17 to R20, R88 to R92, R119, R127, R139, R147, R195, R313 to R315, R359,
R367): locks and admission, translation, data in and out, the lanes, completion entries and interrupts; and the choice of the next fetch. -/

namespace Sys2Proof.Machine

/-! ## Fetch -/

/-- SQ_FETCH_ISSUE (R79 to R83): weights are the instances' shares. -/
def execSqFetchIssue (s : State) : Host.Outcome State Fault Refusal :=
  .next (if s.fetches then
    { s with qce := s.qce.issueFetch fun i => ((Tab.get? s.tas.insts i).map (·.cur.weight)).getD 64 }
  else s)

/-! ## Locks and admission -/

/-- RANGE_LOCK_ENTRY_GRANT: a free entry goes to the waiting command with the lowest FSN (R119). -/
def execRangeLockEntryGrant (s : State) : Host.Outcome State Fault Refusal :=
  .next (s.whenRuns fun s =>
    if s.qce.locks.length < 262144 then
      match s.qce.firstWaiter with
      | some c => (s.lockAndRoute c).settle
      | none => s
    else s)

/-- IUs that a command's changes touch. -/
def State.iusOf (s : State) (x : Ctx) : Nat :=
  match x.nsx.bind s.fl.ns? with
  | some n => (x.mods.map fun m => (wholeIus n m).length + (partIus n m).length).sum
  | none => 0

/-- Commands that TAS may take in: none while a sanitize stands, none whose key slot waits for a change (R365), no write while a checkpoint
holds them (R225). -/
def State.cands (s : State) : List Cand :=
  if s.sec.sanitize.isSome then []
  else
    (s.qce.ctxs.filter fun e =>
      e.2.state == .admitwait && e.2.kind != .parity && !e.2.detached && !(s.sec.slotWait e.2.keyslot e.2.fsn)
        && !(e.2.kind.modifies && s.fl.ckptHeld (s.iusOf e.2))).map fun e => s.cand e.1 e.2

/-- WU of the reads in the window, and what counts against the Oasis limit (R148). -/
def State.inWindow (s : State) : Nat := ((s.qce.ctxs.filter fun e => e.2.admitted && e.2.kind.reads).map fun e => (s.cost e.2).2.1).sum
def State.oasisLoad (s : State) : Nat :=
  s.fl.dirty + ((s.qce.ctxs.filter fun e => e.2.admitted && e.2.kind.modifies && !e.2.recorded && e.2.open').map fun e => (s.cost e.2).2.2).sum

/-- ADMIT_COMMAND (R147, R148). -/
def execAdmitCommand (s : State) : Host.Outcome State Fault Refusal :=
  .next (s.whenRuns fun s =>
    match s.tas.pick s.inWindow s.oasisLoad s.fl.ptx.limit s.cands with
    | none => s
    | some k =>
      match s.qce.ctx? k.ctx with
      | none => s
      | some x => (s.letIn k.ctx x).settle)

/-! ## Reading -/

/-- Where a block that a command reads is (R18, R108). -/
def State.findBlock (s : State) (n : Ns) (nsx l : Nat) : Found :=
  s.fl.find (if l < 2 ^ 48 then nsx else l / 2 ^ 48 - 1) (s.readNs n l) (l % 2 ^ 48)

/-- The key of the granule of a block, by its first block. -/
def State.granuleKey (s : State) (n : Ns) (l : Nat) : Nat :=
  l / 2 ^ 48 * 2 ^ 48 + (l % 2 ^ 48) / (s.readNs n l).perGranule * (s.readNs n l).perGranule

/-- What translation found: cells at hand, whether any came from the Oasis, granules on the media by key, and whether a block is lost. -/
structure Translated where
  cells : Tab Cell
  oasis : Bool
  media : Tab Nat
  lost : Bool

/-- Translates the blocks of a command, one after another. -/
def State.translate (s : State) (n : Ns) (nsx : Nat) (ls : List Nat) : Translated :=
  ls.foldl (fun (t : Translated) l =>
    match s.findBlock n nsx l with
    | .zero => { t with cells := Tab.set t.cells l (zeroCell n.lbaf (l % 2 ^ 48)) }
    | .cell c => { t with cells := Tab.set t.cells l c, oasis := true }
    | .lost => { t with lost := true }
    | .frame d b f => { t with media := Tab.set t.media (s.granuleKey n l) (locKey d b f) }) ⟨[], false, [], false⟩

/-- The clusters of some frame locations. -/
def clustersOf (t : Tab Nat) : List Nat := distinct (t.map fun e => dieCluster (e.2 / 2 ^ 27))

/-- A reading command's frames are asked for, one die read each. -/
def Flash.readFrames (f : Flash) (now c : Nat) (x : Ctx) (media : Tab Nat) : Flash × List Note :=
  let bands := distinct (media.filterMap fun e => (f.bandOf (e.2 / 2 ^ 27) (e.2 / 2 ^ 15 % 4096)).map Prod.fst)
  let g : Flash := { f with ptx := { f.ptx with holds := bands.map (fun b => (c, b)) ++ f.ptx.holds } }
  forEach g media fun g e => g.startRead now (.host c e.1) e.2 (some (x.waymark % 2 ^ 32)) x.fsn x.fetchedAt x.lr

/-- TRANSLATE_COMPLETE (R18, R88, R193, R195): each block's newest data is found; what lies on the media is asked for. -/
def execTranslateComplete (ctx : Nat) (s : State) : Host.Outcome State Fault Refusal :=
  .next (s.whenRuns fun s =>
    match s.qce.ctx? ctx with
    | none => s
    | some x =>
      match x.state, x.nsx.bind s.fl.ns? with
      | .translate, some n =>
        let nsx := x.nsx.getD 0
        let ls := lbasOf x.rds
        let t := s.translate n nsx ls
        let f : Flash := { s.fl with ptx := (distinct (ls.map fun l => l % 2 ^ 48 / n.perIu)).foldl (fun (p : Ptx) iu => p.touch nsx iu false) s.fl.ptx }
        let g := s.withFl f
        if t.lost then (g.fin ctx (.unrecovered true)).settle
        else if t.media.isEmpty then
          (g.setCtx ctx { x with state := .data, cells := t.cells, arrived := !t.oasis }).settle
        else
          let ks := clustersOf t.media
          let y : Ctx :=
            { x with
              state := .media, cells := t.cells, arrived := !t.oasis, frames := t.media.map fun e => (e.1, dieCluster (e.2 / 2 ^ 27))
              cmask := (ks.map fun k => 2 ^ k).sum, covered := x.covered && s.contract ks }
          let r := f.readFrames s.clock.now ctx y t.media
          (g.setCtx ctx y).told r
      | _, _ => s)

/-- OASIS_READ_COMPLETE: data from the Oasis is at a read lane (R18). -/
def execOasisReadComplete (ctx : Nat) (s : State) : Host.Outcome State Fault Refusal :=
  .next (s.whenRuns fun s =>
    s.updCtx ctx fun x => if x.kind.reads && (x.state == .media || x.state == .data) then { x with arrived := true } else x)

/-- A lane mismatch: the lane is fenced and the frame is redone on another lane (R367). -/
def State.laneMismatch (s : State) (write : Bool) (lane : Nat) : State :=
  let r := s.sec.laneFault write lane
  ({ s with sec := r.1 }).reports r.2

/-- The check of a Copy's source blocks, range by range, with PRINFOR (R137, R139). -/
def Ns.sourcesStatus (n : Ns) (prchk : Nat) : List Span → List (Nat × Nat × Nat) → List LBlock → Option Status
  | r :: rs, (ref, app, mask) :: ts, bs =>
    match n.piStatus prchk app mask ref (bs.take r.len) with
    | some st => some st
    | none => n.sourcesStatus prchk rs ts (bs.drop r.len)
  | _, _, _ => none

/-- What the checker does with blocks that a command writes: generates their protection information under PRACT, or checks it (R137, R138).
`ref`: the first block's reference tag; `stag`: the storage tag that the command gives (R164). -/
def Ns.checkWrite (n : Ns) (pract : Bool) (prchk app mask ref stag : Nat) (bs : List LBlock) : Except Status (List LBlock) :=
  if n.pit = 0 then .ok bs
  else if pract then
    .ok (bs.zipIdx.map fun e =>
      { e.1 with pi := ⟨Config.guard n.guardBits e.1.data, app, (if n.pit = 3 then ref else ref + e.2) % (refOnes n.lbaf + 1), stag⟩ })
  else
    match n.piStatus prchk app mask ref bs with
    | some st => .error st
    | none => .ok bs

/-- The first reference tag of a writing command: an append's is its assigned LBA for types 1 and 2 (R138). -/
def Ctx.refFor (x : Ctx) (n : Ns) : Nat := if x.kind == .append && n.pit != 3 then x.slba else x.ilbrt

/-- Decrypted blocks of a reading command pass the checker (R139); a Copy's go on to be written. -/
def State.checkRead (s : State) (c : Nat) (x : Ctx) (n : Ns) (bs : List LBlock) : State :=
  if x.kind == .copy then
    match n.sourcesStatus (natBits x.sqe.cdw12 14 12) x.rds x.srcTags bs with
    | some st => s.fin c st
    | none =>
      match n.checkWrite x.pract x.prchk x.lbat x.lbatm x.ilbrt (x.sqe.storageTag n.lbaf) bs with
      | .error st => s.fin c st
      | .ok out => s.updCtx c fun y => { y with given := some out }
  else
    match n.piStatus x.prchk x.lbat x.lbatm x.ilbrt bs with
    | some st => s.fin c st
    | none =>
      let out := if x.pract && n.pit != 0 then bs.map fun b => { b with pi := ⟨0, 0, 0, 0⟩ } else bs
      s.updCtx c fun y => { y with blocks := out, encrypted := true }

/-- XTS_DECRYPT_DONE (R139, R359, R366, R367). -/
def execXtsDecryptDone (ctx : Nat) (o : LaneOutcome) (s : State) : Host.Outcome State Fault Refusal :=
  .next (s.whenRuns fun s =>
    match s.qce.ctx? ctx with
    | none => s
    | some x =>
      match x.nsx.bind s.fl.ns? with
      | none => s
      | some n =>
        if x.kind.reads && x.state == .data && x.arrived && !x.encrypted && !(x.kind == .copy && x.given.isSome) then
          match o with
          | .mismatch lane => s.laneMismatch false lane
          | .ok =>
            match s.decrypt x n with
            | .error st => (s.fin ctx st).settle
            | .ok bs => (s.checkRead ctx x n bs).settle
        else s)

/-- HOST_DATA_TRANSFER_DONE: the data of a Read is in host memory (R17, R88). -/
def execHostDataTransferDone (ctx : Nat) (s : State) : Host.Outcome State Fault Refusal :=
  .next (s.whenRuns fun s =>
    match s.qce.ctx? ctx with
    | none => s
    | some x =>
      if x.kind == .read && x.state == .data && x.recorded then
        let n := (x.nsx.bind s.fl.ns?).map (·.units x.rds)
        (((s.emit (.blocks ctx x.blocks)).updCtx ctx fun y => { y with done := n.getD 0 }).fin ctx .success).settle
      else s)

/-! ## Writing -/

/-- Host data of a write arrives and passes the checker, or the command ends (R19, R137); where the data would pass the limit in force, it is not taken
and the write waits at step 4 (R128). A Compare keeps the host's blocks. -/
def State.arrive (s : State) (c : Nat) (x : Ctx) (n : Ns) (bs : List LBlock) : State :=
  if bs.length ≠ x.nlb + 1 then s
  else if x.kind == .compare then
    (if x.open' && x.given.isNone then (s.updCtx c fun y => { y with given := some bs }).settle else s)
  else if (x.kind == .write || x.kind == .append) && x.state == .data && !x.arrived && !x.spaceWait then
    if !(s.fl.room (s.cost x).2.2) then s.updCtx c fun y => { y with spaceWait := true }
    else
    match n.checkWrite x.pract x.prchk x.lbat x.lbatm (x.refFor n) (x.sqe.storageTag n.lbaf) bs with
    | .error st => (s.fin c st).settle
    | .ok out => s.updCtx c fun y => { y with blocks := out, arrived := true, done := n.units x.mods }
  else s

/-- WRITE_DATA_ARRIVAL (R19, R137). -/
def execWriteDataArrival (ctx : Nat) (blocks : List LBlock) (s : State) : Host.Outcome State Fault Refusal :=
  .next (s.whenRuns fun s =>
    match s.qce.ctx? ctx with
    | none => s
    | some x =>
      match x.nsx.bind s.fl.ns? with
      | none => s
      | some n => s.arrive ctx x n blocks)

/-- OASIS_SPACE_WAIT_RELEASE: a write that waits at step 4 of R19 goes on once its data fits under the limit (R128). -/
def execOasisSpaceWaitRelease (ctx : Nat) (s : State) : Host.Outcome State Fault Refusal :=
  .next (s.whenRuns fun s =>
    match s.qce.ctx? ctx with
    | none => s
    | some x => if x.spaceWait && s.fl.room (s.cost x).2.2 then s.updCtx ctx fun y => { y with spaceWait := false } else s)

/-- Blocks as a key leaves them in the Oasis (R19, R20). -/
def encryptBlocks (k : XKey) (slot lo : Nat) (bs : List LBlock) : Tab Cell :=
  bs.zipIdx.map fun e => (lo + e.2, { key := some k, slot := slot, lba := lo + e.2, block := e.1 })

/-- XTS_ENCRYPT_DONE (R19, R359, R366, R367): the ciphertext is in the Oasis, and the change is recorded as soon as it may be. -/
def execXtsEncryptDone (ctx : Nat) (o : LaneOutcome) (s : State) : Host.Outcome State Fault Refusal :=
  .next (s.whenRuns fun s =>
    match s.qce.ctx? ctx with
    | none => s
    | some x =>
      let bs := if x.spaceWait then none else if x.kind == .copy then x.given else if (x.kind == .write || x.kind == .append) && x.arrived then some x.blocks else none
      match bs, x.state == .data && !x.encrypted with
      | some bs, true =>
        match o with
        | .mismatch lane => s.laneMismatch true lane
        | .ok =>
          if x.kind == .copy && !(s.fl.room (s.cost x).2.2) then s.updCtx ctx fun y => { y with spaceWait := true }
          else
          match Tab.get? s.sec.keys x.keyslot with
          | none => (s.fin ctx .keyNotLoaded).settle
          | some k => (s.updCtx ctx fun y => { y with cells := encryptBlocks k x.keyslot x.slba bs, encrypted := true, oas := true }).settle
      | _, _ => s)

/-- FUA_WRITE_COMPLETE (R127, R133): a write with FUA that waited for its program, or finds the mode protected. -/
def execFuaWriteComplete (ctx : Nat) (s : State) : Host.Outcome State Fault Refusal :=
  .next (s.whenRuns fun s =>
    match s.qce.ctx? ctx with
    | none => s
    | some x =>
      if x.fua && x.recorded && x.state == .data && x.kind.modifies
          && (!s.fl.ptx.unp || s.fl.programmed fun nsx w => some nsx == x.nsx && w == x.wsn) then
        (s.fin ctx .success).settle
      else s)

/-- Whether a Flush covers a change to a namespace (R105). -/
def Ctx.covers (x : Ctx) (nsx w : Nat) : Bool :=
  x.nss.contains nsx && (decide (w ≤ x.wsn) && !x.exempt.contains w || x.also.contains w)

/-- FLUSH_COMPLETE (R125, R126, R133). -/
def execFlushComplete (ctx : Nat) (s : State) : Host.Outcome State Fault Refusal :=
  .next (s.whenRuns fun s =>
    match s.qce.ctx? ctx with
    | none => s
    | some x =>
      if x.kind == .flush && x.state == .data && (!x.ord || s.qce.predsCommitted x)
          && (x.arrived || !s.fl.ptx.unp || s.fl.programmed x.covers) then
        (s.fin ctx .success).settle
      else s)

/-! ## Histograms and statistics (R161, R313 to R315, R457) -/

/-- The bucket of an interval in 100 ns units (R314). -/
def histBucket (t : Nat) : Nat :=
  let us := t / 10
  if us < 16 then us
  else
    match (List.range 13).find? fun o => decide (us < 2 ^ (o + 5)) with
    | some o => 16 + 8 * o + (us / 2 ^ o - 16) / 2
    | none => 119

/-- LIMIT of histogram h (R313). -/
def histLimit (h : Nat) : Nat := if h = 0 then 1775 else if h = 1 then 525 else 0

/-- Adds to a counter that saturates. -/
def addTo (t : Tab Nat) (k n : Nat) : Tab Nat := Tab.set t k (satAdd (2 ^ 64 - 1) (Tab.getD t k 0) n)

/-- Records an interval in histogram h, by the page's byte offsets. -/
def histAdd (t : Tab Nat) (h iv : Nat) (late mirage : Bool) : Tab Nat :=
  let b := 64 + 1024 * h
  let t := addTo (addTo t b 1) (b + 8) iv
  let t := Tab.set t (b + 16) (max (Tab.getD t (b + 16) 0) (min iv (2 ^ 32 - 1)))
  let t := if histLimit h ≠ 0 ∧ histLimit h < iv then addTo t (b + 24) 1 else t
  let t := if late && decide (h < 6) then addTo t (b + 32) 1 else t
  let t := if mirage then addTo t (b + 40) 1 else t
  addTo t (b + 64 + 8 * histBucket iv) 1

/-- A read is covered by the contract (R307, R315): its instance was within its share in the epoch before its admission and, where that
epoch has ended, in the epoch of admission. -/
def State.coveredNow (s : State) (x : Ctx) : Bool := x.covered && x.inShare && x.status.isOk && s.contract []

/-- The histograms after a command's completion. -/
def State.histAfter (s : State) (t : Tab Nat) (x : Ctx) : Tab Nat :=
  let iv := s.clock.now - x.fetchedAt
  let late := x.admitted && decide (x.waymark < s.clock.now)
  let slc := b2n (((x.nsx.bind s.fl.ns?).map (·.slc)).getD false)
  let t := if x.kind == .read then
      histAdd (if s.coveredNow x then histAdd t slc iv late x.mir else addTo t 32 1) (2 + slc) iv late x.mir
    else if x.kind == .write || x.kind == .append then histAdd t 4 iv late x.mir
    else if x.kind == .flush then histAdd t 5 iv late x.mir
    else t
  histAdd (histAdd t 6 x.lockTime false x.mir) 7 x.admitTime false x.mir

/-- Bytes of host data that a completed command moved to and from the host. -/
def State.hostBytes (s : State) (x : Ctx) : Nat × Nat :=
  match x.nsx.bind s.fl.ns? with
  | some n =>
    if !x.status.isOk then (0, 0)
    else if x.kind == .read then (n.dataBytes (x.nlb + 1), 0)
    else if x.kind == .write || x.kind == .append || x.kind == .compare then (0, n.dataBytes (x.nlb + 1))
    else (0, 0)
  | none => (0, 0)

/-- Counts of an instance after a command's completion. -/
def State.statsAfter (s : State) (t : TasInst) (x : Ctx) : TasInst :=
  let b := s.hostBytes x
  let u := t.bump (if x.kind == .read then 48 else if x.kind == .write || x.kind == .append then 56 else 64) 1
  let u := (u.bump 72 b.1).bump 80 b.2
  let u := if x.mir then u.bump 192 1 else u
  { u with hist := s.histAfter u.hist x }

/-- Counters of the SMART page and of log page 0xC1 after a command's completion (R133, R457). -/
def Ptx.completed (p : Ptx) (now : Nat) (x : Ctx) (bytes : Nat) : Ptx :=
  let p : Ptx := { p with
    readCmds := p.readCmds + b2n (x.kind == .read || x.kind == .compare || x.kind == .verify)
    writeCmds := p.writeCmds + b2n (x.kind == .write || x.kind == .append), hostRead := p.hostRead + bytes }
  if x.kind == .flush && x.status.isOk then { p with flushes := p.flushes + 1, maxFlush := max p.maxFlush ((now - x.fetchedAt) / 10) } else p

/-- An I/O command has completed: histograms, statistics, and what its completion promises (R124, R128, R313). -/
def State.countDone (s : State) (x : Ctx) : State :=
  if x.adm then s
  else
    let f := if x.kind.modifies && x.recorded then s.fl.complete x.fsn else s.fl
    { s with
      hist := s.histAfter s.hist x
      tas := s.tas.updInst x.inst fun t => s.statsAfter t x
      fl := { f with ptx := f.ptx.completed s.clock.now x (s.hostBytes x).1 } }

/-! ## Completion entries and interrupts -/

/-- The Error Information entry of a completion that is not successful: the newest 256 are kept (R94). -/
def Inst.logError (i : Inst) (x : Ctx) : Inst :=
  if x.status.isOk then i
  else
    let e : ErrEntry := ⟨i.errCount + 1, x.sqid, x.sqe.cid, x.status.code, x.slba, x.sqe.nsid⟩
    { i with errCount := i.errCount + 1, errors := (e :: i.errors).take 256 }

/-- A posted Delete I/O SQ takes its queue away (R105), and a freeze of it with its log entry (R103). -/
def Qce.afterDelete (q : Qce) (x : Ctx) : Qce :=
  if x.adm && !x.side && x.sqe.opc == 0x00 && x.status.isOk then
    ({ q with sqs := Tab.erase q.sqs (qKey x.inst x.sqe.qid) }).updInst x.inst fun i => { i with frozen := i.frozen.filter (· ≠ x.sqe.qid) }
  else q

/-- The entry of a context as the queue gives it now (R89). Without SQ flow control SQHD is 0xFFFF (PRESUMED, NVMe over Fabrics, log entry
26). -/
def Ctx.entry (x : Ctx) (sq : Sq) (cq : Cq) : Cqe :=
  ⟨x.sqe.cid, x.sqid, if sq.flow then sq.head else 0xFFFF, cq.phase, x.status, x.dw0, x.dw1⟩

/-- The instance after an entry for one of its queues with this vector, if any; the flag says that a message is sent. -/
def Inst.entered (i : Inst) (now cqid : Nat) (bad : Bool) : Option Nat → Inst × Bool
  | some v => i.posted now v (cqid == 0) bad
  | none => (i, false)

/-- The message of a vector, where one is sent. -/
def State.interrupt (s : State) (inst : Nat) : Option Nat → Bool → State
  | some v, true => s.emit (.interrupt inst v)
  | _, _ => s

/-- Posts the entry of a context: the CQE, the interrupt, the counts, and the context is free. -/
def State.post (s : State) (inst cqid c : Nat) (x : Ctx) (i : Inst) (sq : Sq) (cq : Cq) : State :=
  let g := s.emit (.cqe inst cqid (x.entry sq cq))
  let vec := if i.eth then none else cq.vector
  let r := i.entered s.clock.now cqid (!x.status.isOk) vec
  let q := (g.qce.updCq inst cqid Cq.push).updInst inst fun _ => r.1.logError x
  let g : State := { g with qce := q.afterDelete x }
  ((g.interrupt inst (vec.map i.message) r.2).countDone x).freeCtx c x

/-- CQE_POST (R89, R90, R101, R106): the next context of a CQ that may be posted, while the queue has room; where there is none, what waited for the
end of a handover goes on. -/
def execCqePost (inst cqid : Nat) (s : State) : Host.Outcome State Fault Refusal :=
  .next (s.whenRuns fun s =>
    if s.clock.now < s.mgc.postHold then s
    else
      match s.qce.nextToPost inst cqid, s.qce.inst? inst, s.qce.cq? inst cqid with
      | some (c, x), some i, some cq =>
        match s.qce.sq? inst x.sqid with
        | some sq => if cq.hasRoom && i.state == .ready then (s.post inst cqid c x i sq cq).settle else s
        | none => s
      | _, _, _ => s.settle)

/-- INTERRUPT_COALESCE_TIMEOUT (R92): the time since the first unsignalled entry has passed. -/
def execInterruptCoalesceTimeout (inst vector : Nat) (s : State) : Host.Outcome State Fault Refusal :=
  .next (s.whenRuns fun s =>
    match s.qce.inst? inst with
    | none => s
    | some i =>
      let v := Tab.getD i.vectors vector Vector'.fresh
      match i.coalesce v with
      | some (_, t) =>
        if 0 < v.unsignalled then
          let g := s.until' (v.firstAt + t)
          let r := i.signal v
          let g : State := { g with qce := g.qce.updInst inst fun i => { i with vectors := Tab.set i.vectors vector r.1 } }
          if r.2 then g.emit (.interrupt inst (i.message vector)) else g
        else s
      | none => s)

/-- The instance after a write to a vector's mask bit, or to INTMS and INTMC, which act only while single-message MSI is in use (R91, R494). -/
def Inst.maskWrite (i : Inst) : IntWrite → Inst
  | .vector n m =>
    if i.allot < n then i else { i with vectors := Tab.set i.vectors n { Tab.getD i.vectors n Vector'.fresh with masked := m } }
  | .intms v => if i.irq.msi && !i.irq.msix then { i with irq := { i.irq with intm := i.irq.intm ||| v } } else i
  | .intmc v => if i.irq.msi && !i.irq.msix then { i with irq := { i.irq with intm := (i.irq.intm ||| v) ^^^ v } } else i

/-- MSIX_VECTOR_UNMASK (R91): a vector's mask bit, INTMS or INTMC is written; messages that were pending and are not held back are sent. -/
def execMsixVectorUnmask (inst : Nat) (w : IntWrite) (s : State) : Host.Outcome State Fault Refusal :=
  .next (s.whenRuns fun s =>
    match s.qce.inst? inst with
    | none => s
    | some i =>
      if i.eth then s
      else
        let r := (i.maskWrite w).release
        ({ s with qce := s.qce.updInst inst fun _ => r.1 }).emits (r.2.map (Output.interrupt inst)))

end Sys2Proof.Machine
end

