-- ==== Sys2Proof/Machine/Registers.lean ====
section
/-! DEFINITION. Accesses to CSR space (R12, R486 to R491): who may write, what is refused, and how a register takes a write. What a write
triggers beside it is with the commands that write. -/

namespace Sys2Proof.Machine

/-- REQ of MGC_CSRERR (R488). -/
def Requester.code : Requester → Nat
  | .cameleer => 0 | .core n => n + 1 | .debug => 9 | .sideband => 0

/-- The registers of a block. -/
def State.regs (s : State) (b : Block) : RegFile :=
  match b with
  | .hfu => s.hfu.regs | .qce => s.qce.regs | .tas => s.tas.regs | .ptx => s.fl.ptx.regs | .mbe => s.fl.mbe.regs
  | .dip => s.fl.dip.regs | .mss => s.mss.regs | .sec => s.sec.regs | .mgc => s.mgc.regs | .ptm => s.ptm.regs | .fev => s.fev.regs

def State.setRegs (s : State) (b : Block) (rf : RegFile) : State :=
  match b with
  | .hfu => { s with hfu := { s.hfu with regs := rf } }
  | .qce => { s with qce := { s.qce with regs := rf } }
  | .tas => { s with tas := { s.tas with regs := rf } }
  | .ptx => { s with fl := { s.fl with ptx := { s.fl.ptx with regs := rf } } }
  | .mbe => { s with fl := { s.fl with mbe := { s.fl.mbe with regs := rf } } }
  | .dip => { s with fl := { s.fl with dip := { s.fl.dip with regs := rf } } }
  | .mss => { s with mss := { s.mss with regs := rf } }
  | .sec => { s with sec := { s.sec with regs := rf } }
  | .mgc => { s with mgc := { s.mgc with regs := rf } }
  | .ptm => { s with ptm := { s.ptm with regs := rf } }
  | .fev => { s with fev := { s.fev with regs := rf } }

def State.reg (s : State) (r : Reg) : W32 := (s.regs r.block).get r
def State.setReg (s : State) (r : Reg) (w : W32) : State := s.setRegs r.block ((s.regs r.block).set r w)

/-- The lock that freezes a register's RWL fields is set (R489). -/
def State.locked (s : State) (r : Reg) : Bool :=
  match r.lock with
  | some l => (s.reg l).bits 31 31 == 1
  | none => false

/-- Pages that an application core may write (R487). -/
def Block.ofCores : Block → Bool
  | .ptx => true | .mbe => true | .dip => true | .mss => true | _ => false

def Requester.mayWrite (r : Requester) (b : Block) : Bool :=
  match r with
  | .core _ => b.ofCores
  | .sideband => false
  | _ => true

/-- CSR space serves a requester: the debug port only once unlock is granted, the sideband not at all (R371, R411, R487). -/
def State.serves (s : State) (r : Requester) : Bool := s.up && (r != .debug || s.sec.debugUnlocked) && r != .sideband

/-- A refusal is recorded (R488). -/
def State.csrErr (s : State) (reason : Nat) (r : Requester) (addr : Nat) : State :=
  s.setReg .mgcCsrerr (((((s.reg .mgcCsrerr).setBits 31 31 1).setBits 30 28 reason).setBits 25 22 r.code).setBits 21 0 ((addr - 0x40000000) / 8))

/-- The address of a register (R492). -/
def Reg.addr (r : Reg) : Nat :=
  (addrRuns.findSome? fun a => ((List.range a.count).find? fun i => a.reg i == r).map fun i => a.base + a.stride * i).getD 0

/-- PTX_RCLTHR takes a write only whole: both fields in range, RCLURG + 16 not above RCLSTART. -/
def rclthrOk (v : W32) : Bool := decide (48 ≤ v.bits 31 16 ∧ 24 ≤ v.bits 15 0 ∧ v.bits 15 0 + 16 ≤ v.bits 31 16)

/-- Ethernet ports. -/
def Hfu.ethPorts (h : Hfu) : Nat := (h.ports.filter fun e => e.2.proto == .eth).length

/-- The lane group of a port is enabled. -/
def Hfu.groupOn (h : Hfu) (n : Nat) : Bool :=
  match Tab.get? h.ports n with
  | some p => h.regs.bit .hfuLgcfg (if p.group = 0 then 4 else 12)
  | none => false

/-- QCE_HPn_QPOOL after a write (R140): POOL changes only while the port's lane group is down, and never above 16,384 in all. -/
def State.writeQpool (s : State) (n : Nat) (v : W32) : State :=
  let r : Reg := .qceQpool n
  let new := r.write (s.locked r) (s.reg r) v
  let rest := (((List.range 4).filter (· ≠ n)).map fun k => s.qce.regs.fld (.qceQpool k) 30 16).sum
  if new.bits 30 16 ≠ (s.reg r).bits 30 16 ∧ s.hfu.groupOn n then s.setReg r (new.setBits 30 16 ((s.reg r).bits 30 16))
  else if 16384 < rest + new.bits 30 16 then s
  else s.setReg r new

/-- A register after a write: its own rule where it has one, otherwise field by field (R12). -/
def State.storeReg (s : State) (r : Reg) (v : W32) : State :=
  match r with
  | .hfuLeasecfg => { s with hfu := s.hfu.writeLeasecfg v }
  | .hfuInstcfg n => { s with hfu := s.hfu.writeInstcfg n v }
  | .ptmHuecfg => { s with ptm := s.ptm.writeHuecfg s.fl.ptx.protMax v }
  | .mssDmcfg => { s with mss := s.mss.writeDmcfg v }
  | .mssStgcfg => { s with mss := s.mss.writeStgcfg s.hfu.ethPorts v }
  | .mgcSbicfg => { s with mgc := s.mgc.writeSbicfg v }
  | .secSealkey m => { s with sec := s.sec.writeKey m v }
  | .qceQpool n => s.writeQpool n v
  | .ptxRclthr => if rclthrOk v then s.setReg r (r.write (s.locked r) (s.reg r) v) else s
  | _ => s.setReg r (r.write (s.locked r) (s.reg r) v)

/-- A write to a register by a requester: refused, recorded where it would change a locked field, or made, with what it triggers (R487,
R488). -/
def State.csrWrite (s : State) (r : Requester) (reg : Reg) (v : W32) (eff : State → State) : State :=
  if !s.serves r then s
  else if !r.mayWrite reg.block then s.csrErr 3 r reg.addr
  else
    let g := if s.locked reg && reg.changesLocked (s.reg reg) v then s.csrErr 4 r reg.addr else s
    eff (g.storeReg reg v)

/-- HBEAT_OUT toggles (R454): from the first valid kick, but for the safe state, a dump, the reset held after one and a use as a
general-purpose output. -/
def State.heartbeats (s : State) : Bool := s.fev.hbStarted && !s.fev.safe && !s.dumped && !s.fev.regs.bit .fevCfg 8

/-- Reads of FEV's registers (R34, R451, R453, R456). -/
def State.viewFev (s : State) (r : Reg) : W32 :=
  let f := s.fev
  let w := f.regs.get r
  match r with
  | .fevDevwdg => (w.setBits 15 8 (250 - min 250 (ceilDiv (f.heldAt.getD s.clock.now - f.kickedAt) 10000))).setBits 7 4 f.badKick
  | .fevEscstat => w.setBits 25 24 (min 3 (f.count60 .device s.hours))
  | .fevFfqstat => (w.setBits 15 8 f.ffqOvfl).setBits 5 0 f.ffq.length
  | .fevFfqdata m => match f.ffq[(f.regs.fld .fevFfqsel 4 0)]? with
    | some e => BitVec.ofNat 32 (leNat (slice e.bytes (4 * m) 4))
    | none => 0
  | .fevStat =>
    (((((w.setBits 31 31 (b2n f.safe)).setBits 30 30 (b2n f.safeDump)).setBits 29 29 (b2n s.heartbeats)).setBits 23 16 f.csrc).setBits 15 8
      f.ccode).setBits 7 4 (min 15 (f.safeCnt s.clock.aon))
  | .fevLogstat =>
    (((w.setBits 31 31 (b2n f.erasing.isSome)).setBits 30 24 f.queue.length).setBits 18 18 (b2n f.nextIdx.isNone)).setBits 17 0 (f.nextIdx.getD 0)
  | _ => w

/-- Staging that a Parity Compute job holds: 8 KiB for each buffer (R291). -/
def PcJob.staging (x : PcJob) : Nat := (x.desc.nin + x.desc.nout) * 8192
def Dip.pcUse (p : Dip) : Nat := (p.pcJobs.map fun e => if e.2.running then e.2.staging else 0).sum

/-- A frame of a job lies in staging. -/
def Job.inStaging (j : Job) : Bool := j.stage == .staged || ((j.stage == .soft2 || j.stage == .soft3) && j.readsLeft == 0)

/-- Helper frames that a job has in staging. -/
def Job.helpersHeld (j : Job) : Nat := (j.wanted.filter fun r => Tab.get? j.helpers r == some true).length

/-- Bytes of staging in use: host I/O, internal, Mirage (R343). A frame counts 4,552 B; program data counts while its program is at the die (DESIGN
CHOICE, log entry 214). -/
def State.stagingUse (s : State) : Nat × Nat × Nat :=
  let jobs := s.fl.dip.jobs
  let mirage := fun (j : Job) => match j.purpose with
    | .helper p _ => (Tab.get? jobs p).elim false fun x => x.stage == .mirage
    | _ => false
  let host := fun (j : Job) => match j.purpose with
    | .host _ _ => true
    | _ => false
  let staged := jobs.filter fun e => e.2.inStaging
  let hostFrames := (staged.filter fun e => host e.2).length
  let mirFrames := (staged.filter fun e => mirage e.2).length + (jobs.map fun e => if e.2.stage == .mirage then e.2.helpersHeld else 0).sum
  let intFrames := (staged.filter fun e => !host e.2 && !mirage e.2).length
    + (jobs.map fun e => if e.2.stage == .localRec || e.2.stage == .globalRec then e.2.helpersHeld else 0).sum
    + (s.fl.ptx.copies.map fun e => e.2.got.length).sum
  let slc := fun (id : Nat) => (((Tab.get? s.fl.ptx.wls id).bind fun w => Tab.get? s.fl.ptx.bands w.band).map fun b => b.slc).getD false
  let programs := (s.fl.mbe.dies.flatMap fun e => (e.2.op.toList ++ e.2.nested.toList).map fun o => match o.kind with
    | .program id => 16 * (s.fl.hw.desc e.1).step (slc id)
    | .erase _ _ _ => 0).sum
  (hostFrames * 4552 + (s.hfu.ports.map fun e => e.2.allot).sum, (intFrames + programs) * 4552, mirFrames * 4552)

/-- MSS_STGSTAT: each part in MiB, rounded up (R343). -/
def State.stgstat (s : State) (w : W32) : W32 :=
  let u := s.stagingUse
  let mib' := fun (n : Nat) => min 127 (ceilDiv n 1048576)
  (((w.setBits 27 21 (mib' s.fl.dip.pcUse)).setBits 20 14 (mib' u.2.2)).setBits 13 7 (mib' u.2.1)).setBits 6 0 (mib' u.1)

/-- What a register reads as (R12, R488). Event record payloads and the like read as their fields do. -/
def State.viewReg (s : State) (r : Reg) : W32 :=
  match r.block with
  | .hfu => s.hfu.view r
  | .qce => s.qce.view r
  | .tas => s.tas.view r
  | .ptx => s.fl.viewPtx r (s.mss.cap - 16 * gib) (s.mss.cap - 16 * gib - s.fl.usedMap) (s.fl.ptx.poolSize - s.fl.ptx.poolUsed) (65536 - s.fl.ptx.wpUsed)
  | .mbe => match r with
    | .mbeSchedstat k => (s.fl.viewMbe r).setBits 31 16 (Config.heart k s.clock.now)
    | _ => s.fl.viewMbe r
  | .dip => s.fl.viewDip r
  | .mss => match r with
    | .mssStgstat => s.stgstat (s.mss.view r)
    | _ => s.mss.view r
  | .sec => s.sec.view r
  | .mgc => s.mgc.view s.fev.writing.isSome s.fev.erasing r
  | .ptm => s.ptm.view r
  | .fev => s.viewFev r

end Sys2Proof.Machine
end

