-- ==== Sys2Proof/Machine/Instances.lean ====
section
/-! DEFINITION. Instances (R45, R50, R51, R73 to R78, R105 to R107, R140 to R143, R158 to R161): how they come and go, their reset, enable and
shutdown, doorbells, and the start of a clean shutdown. -/

namespace Sys2Proof.Machine

/-! ## Queues of an instance -/

/-- An empty submission queue with its reserve of contexts (R83). -/
def Sq.fresh (size cq prio reserve lc : Nat) (flow : Bool) : Sq :=
  { size := size, head := 0, tail := 0, cq := cq, prio := prio, flow := flow, reserve := reserve, reserveMax := reserve, heldRes := 0, heldSh := 0
    reads := [], retried := false, ordered := false, frozen := none, lc := lc, nextOrder := 0, capsules := [], heldBytes := [], deleting := false }

/-- LCDEF of an instance's share, the class of a new SQ (R146). -/
def State.lcdef (s : State) (inst : Nat) : Nat := ((Tab.get? s.tas.insts inst).map (·.cur.lcdef)).getD 4

/-- A submission queue comes to be: RSVADM contexts for an admin SQ, RSVIO for an I/O SQ (R83, R84). -/
def State.addSq (s : State) (inst qid size cq prio : Nat) (flow : Bool) : State :=
  let n := if qid = 0 then s.qce.rsvadm else s.qce.rsvio
  { s with qce := ({ s.qce with sqs := Tab.set s.qce.sqs (qKey inst qid) (Sq.fresh size cq prio n (s.lcdef inst) flow) }).noteEmpty }

/-- A completion queue comes to be. -/
def State.addCq (s : State) (inst qid size : Nat) (vector : Option Nat) : State :=
  { s with qce := { s.qce with cqs := Tab.set s.qce.cqs (qKey inst qid) ⟨size, 0, 0, true, vector⟩ } }

/-- The queues of an instance are gone; on Ethernet `admin` keeps the admin queue pair. -/
def Qce.dropQueues (q : Qce) (inst : Nat) (admin : Bool) : Qce :=
  let keep := fun (k : Nat) => k / 512 != inst || admin && k % 512 == 0
  { q with sqs := Tab.keep q.sqs fun k _ => keep k, cqs := Tab.keep q.cqs fun k _ => keep k }

/-! ## Instances come and go (R143) -/

/-- An instance that has just left UNUSED. -/
def Inst.fresh (port : Nat) (pf eth : Bool) (st : InstState) (allot now : Nat) : Inst :=
  { port := port, pf := pf, eth := eth, state := st, resetTo := .disabled, cc := 0, rdy := false, cfs := false, shst := 0, aqa := 0, asq := 0
    acq := 0, allot := allot, vectors := [], hostId := 0, stamp := none, features := [], aers := [], events := [], reported := [], errors := []
    errCount := 0, frozen := [], freezes := 0, kato := 0, kaAt := now, changedNs := [], resvLog := [], resvCount := 0, changedZones := []
    shutdown := none, resetAt := now, irq := .fresh }

/-- Configuration space of a function, and its interrupt state replaced. A message that has waited for it is sent (R91). -/
def State.cfgOf (s : State) (inst : Nat) : FnCfg := Tab.getD s.hfu.cfg inst .fresh
def State.setIrq (s : State) (inst : Nat) (q : Irq) : State :=
  match s.qce.inst? inst with
  | none => s
  | some i =>
    let r := ({ i with irq := q } : Inst).release
    ({ s with qce := s.qce.updInst inst fun _ => r.1 }).emits (r.2.map (Output.interrupt inst))

/-- An instance leaves UNUSED, with its share, INSTSEQ and cleared counts (R143, R154, R313): the first write sequence number not yet given out. -/
def State.addInst (s : State) (inst : Nat) (i : Inst) (share : Share) : State :=
  { s with
    qce := { s.qce with insts := Tab.set s.qce.insts inst i }
    tas := (s.tas.open' inst share (s.fl.ptx.wsn + 1)).updInst inst fun t => { t with hist := Tab.set t.hist 8 s.clock.now } }

/-- An instance becomes UNUSED: its queues, its connections and what the device kept of it go. -/
def State.removeInst (s : State) (inst : Nat) : State :=
  let q := s.qce.dropQueues inst false
  { s with
    qce := { q with insts := Tab.erase q.insts inst, ctxs := Tab.keep q.ctxs fun _ x => x.inst != inst || x.side || x.detached, shut := Tab.erase q.shut inst }
    tas := { s.tas with insts := Tab.erase s.tas.insts inst }
    hfu := { s.hfu with conns := Tab.keep s.hfu.conns fun _ c => c.inst != inst, cfg := Tab.erase s.hfu.cfg inst }
    sec := s.sec.dropEndpoints inst }

/-- VQ resources of a virtual function (R141). -/
def Qce.vqOf (q : Qce) (port inst : Nat) : Nat := (Tab.get? q.vq inst).getD (Tab.getD q.vq (2048 + port) 0)

/-- A virtual function is Online: not OFFLINE, or, before it is enabled, with resources enough for it (R141). -/
def Qce.vfOnline (q : Qce) (port inst : Nat) : Bool :=
  match q.inst? inst with
  | some x => x.state != .offline
  | none => decide (2 ≤ q.vqOf port inst)

/-- POOL and QPDEF of a port. -/
def Qce.pool (q : Qce) (n : Nat) : Nat := q.regs.fld (.qceQpool n) 30 16
def Qce.qpdef (q : Qce) (n : Nat) : Nat := q.regs.fld (.qceQpool n) 8 0

/-- Flexible VQ resources of a port that no function holds (R141). -/
def State.vqFree (s : State) (n : Nat) : Nat :=
  let r := s.hfu.range n
  (s.qce.pool n - s.qce.qpdef n) + (r.2 - 1) - ((List.range (r.2 - 1)).map fun j => s.qce.vqOf n (r.1 + 1 + j)).sum

/-- The MAC address of a port: the device's identity with the port number added to its lowest byte (R48). -/
def macOf (identity : List Byte) (n : Nat) : List Byte := (fit 6 identity).set 5 ((fit 6 identity).getD 5 0 + BitVec.ofNat 8 n)

/-- A port begins with the range and the pool in force (R40, R41, R140, R141): on PCIe its physical function, and VQ resources dealt equally; on
Ethernet its MAC address. -/
def State.openPort (s : State) (n : Nat) (p : Port) : State :=
  let old := Tab.keysWhere s.qce.insts fun _ i => i.port == n
  let s := old.foldl State.removeInst s
  let r := s.hfu.range n
  let dealt := if r.2 ≤ 1 then 0 else min 256 ((s.qce.pool n - s.qce.qpdef n) / (r.2 - 1)) + 1
  let vq := Tab.keep s.qce.vq fun k _ => decide (k < r.1 ∨ r.1 + r.2 ≤ k) && k != 2048 + n
  let s : State :=
    { s with
      qce := { s.qce with vq := if p.proto = .pcie then Tab.set vq (2048 + n) dealt else vq }
      hfu := { s.hfu with ports := Tab.upd s.hfu.ports n fun p => if p.proto = .eth then { p with mac := macOf s.mgc.cal.identity n } else p } }
  if p.proto = .pcie ∧ 0 < r.2 then
    s.addInst r.1 (Inst.fresh n true false .disabled (min (s.qce.qpdef n) (s.qce.pool n)) s.clock.now) .default'
  else s

/-! ## Instance reset (R158 to R160) -/

/-- A context number that no command has: what a withdrawn command's work in progress names. -/
def noCtx : Nat := 1048576

/-- What still runs for a command no longer names it: a purge's erases, an activation (R158, R407). -/
def State.forget (s : State) (c : Nat) : State :=
  { s with
    fl := { s.fl with ptx := { s.fl.ptx with
      purges := Tab.mapVals s.fl.ptx.purges fun _ p => if p.ctx = c then { p with ctx := noCtx } else p } }
    mgc := { s.mgc with act := s.mgc.act.map fun a => if a.by' = .ctx c then { a with by' := .ctx noCtx } else a } }

/-- A command of a resetting instance is cancelled: no completion, and its lock is released (R114, R158). -/
def State.cancelCtx (s : State) (c : Nat) : State :=
  let g := (s.withdraw c).forget c
  { g with qce := (g.qce.dropLocks c).updCtx c fun x => { x with state := .cancelled } }

/-- A write that is not recorded and whose data is wholly in the Oasis. -/
def Ctx.storedWrite (x : Ctx) : Bool := x.kind.modifies && x.oas && !x.recorded && (x.state == .data || x.state == .ordwait)

/-- Contexts that an instance's reset ends. -/
def Qce.ofInst (q : Qce) (inst : Nat) : List (Nat × Ctx) :=
  q.ctxs.filter fun e => e.2.inst == inst && !e.2.side && !e.2.detached && e.2.state != .cancelled

/-- An earlier read of another instance holds a write (R116, R158). -/
def Qce.heldByOther (q : Qce) (inst : Nat) (x : Ctx) : Bool :=
  ({ q with ctxs := Tab.keep q.ctxs fun _ e => e.inst != inst || e.side || e.detached }).readBefore x

/-- The writes of an instance that its reset records or detaches, in fetch order. In an ordered SQ a write is kept only where every predecessor is
recorded, so nothing is kept behind one that another instance's read holds (R158; log entry 201). -/
def Qce.keptWrites (q : Qce) (inst : Nat) : List Nat :=
  let mine := q.ofInst inst
  let stored := (mine.filter fun e => e.2.storedWrite).foldr (insertBy fun a b => fsnUpTo a.2.fsn b.2.fsn) []
  (stored.foldl (fun (acc : List Nat × List Nat) e =>
    if !e.2.ord || mine.all fun p => p.2.sqid != e.2.sqid || decide (e.2.order ≤ p.2.order) || p.2.committed || acc.2.contains p.1 then
      (acc.1 ++ [e.1], if q.heldByOther inst e.2 then acc.2 else acc.2 ++ [e.1])
    else acc) ([], [])).1

/-- A kept write is recorded and never completed; held under R116 by an earlier read of another instance, it is detached (R158). -/
def State.keepWrite (s : State) (c : Nat) : State :=
  match s.qce.ctx? c with
  | none => s
  | some x =>
    if x.kind.protectable && s.fl.ptx.wprot then s.cancelCtx c
    else if s.qce.readBefore x then
      { s with
        qce := s.qce.updCtx c fun y => { y with detached := true, ord := false }
        tas := s.tas.updInst x.inst fun t => t.bump 208 1 }
    else ((s.record c { x with state := .data }).forget c).updCtx c fun y => { y with state := .cancelled }

/-- Every live command of an instance ends (R158). -/
def State.teardown (s : State) (inst : Nat) : State :=
  let kept := s.qce.keptWrites inst
  let all := (s.qce.ofInst inst).map Prod.fst
  let g := (all.filter fun c => !kept.contains c).foldl State.cancelCtx s
  let g := kept.foldl State.keepWrite g
  let live := (g.qce.ctxs.filter fun e => kept.contains e.1 && e.2.detached).length
  { g with tas := g.tas.updInst inst fun t => (t.bump 124 1).bump 200 (all.length - live) }

/-- The later of two outcomes of a reset. -/
def ResetTo.max : ResetTo → ResetTo → ResetTo
  | .unused, _ => .unused
  | _, .unused => .unused
  | .offline, _ => .offline
  | _, .offline => .offline
  | .disabled, .disabled => .disabled

/-- A reset event of an instance (R143, R158 to R160): its commands end at once, its open download is discarded. One during the pause of a hot
activation starts at the pause's end (R106); a second is absorbed. In the safe state or a dump nothing is reset (R56). -/
def State.resetInst (s : State) (inst : Nat) (to' : ResetTo) : State :=
  if s.fev.safe || s.dumped then s
  else
    match s.qce.inst? inst with
    | none => s
    | some i =>
      match i.state with
      | .resetting => { s with qce := s.qce.updInst inst fun i => { i with resetTo := i.resetTo.max to' } }
      | .disabled =>
        match to' with
        | .unused => s.removeInst inst
        | .offline => { s with qce := s.qce.updInst inst fun i => { i with state := .offline } }
        | .disabled => s
      | .offline => s
      | _ =>
        let s := s.until' s.mgc.postHold
        let g := s.teardown inst
        let g : State :=
          { g with
            qce := g.qce.updInst inst fun i =>
              { i with state := .resetting, resetTo := to', resetAt := s.clock.now, aers := [], events := [], reported := [], shutdown := none }
            sec := g.sec.dropEndpoints inst
            mgc := match g.mgc.download with
              | some d => if d.owner = .inst inst then { g.mgc with download := none } else g.mgc
              | none => g.mgc }
        g.settle

/-- An instance's registers and queues after its reset (R479). Feature values return to their defaults (PRESUMED, NVMe base specification, log
entry 26). -/
def Inst.cleared (i : Inst) (st : InstState) : Inst :=
  { i with
    state := st, cc := 0, rdy := false, cfs := false, shst := 0, stamp := none, features := []
    hostId := if i.eth then i.hostId else 0
    irq := { i.irq with intm := 0 }
    vectors := Tab.mapVals i.vectors fun _ v => { Vector'.fresh with masked := v.masked } }

/-- INSTANCE_RESET_COMPLETE: every context of the instance is free or detached, and it leaves RESETTING (R143, R159). A device recovery pauses the
reset (R160). -/
def execInstanceResetComplete (inst : Nat) (s : State) : Host.Outcome State Fault Refusal :=
  .next (
    match s.qce.inst? inst with
    | none => s
    | some i =>
      if i.state ≠ .resetting || s.fev.active.contains .device || s.fev.safe || s.dumped then s
      else
        let gone := s.qce.ctxs.filter fun e => e.2.inst == inst && e.2.state == .cancelled && !e.2.side && !e.2.detached
        let q := s.qce.dropQueues inst i.eth
        let g := gone.foldl (fun (g : State) e => g.freeCtx e.1 e.2) { s with qce := q }
        match i.resetTo with
        | .unused => (g.removeInst inst).settle
        | to' =>
          let st : InstState := if to' = .offline then .offline else .disabled
          ({ g with
            qce := (g.qce.updInst inst fun i => i.cleared st).updSq inst 0 fun q => { q with heldRes := 0, heldSh := 0, capsules := [], heldBytes := [] }
            hfu := { g.hfu with conns := Tab.keep g.hfu.conns fun _ c => c.inst != inst || c.qid == 0 } }).settle)

/-- The end of an association (R51): its connections are gone, its instance is reset and freed. -/
def State.endAssociation (s : State) (inst : Nat) : State :=
  match s.qce.inst? inst with
  | some i =>
    if i.eth then
      let g : State := { s with hfu := { s.hfu with conns := Tab.keep s.hfu.conns fun _ c => c.inst != inst } }
      g.resetInst inst .unused
    else s
  | none => s

/-- An instance's PCIe function state is at its reset values: all vectors masked, interrupts off, configuration space as after reset (log entry
42). -/
def State.functionReset (s : State) (inst : Nat) (to' : ResetTo) : State :=
  (({ s with
    qce := s.qce.updInst inst fun i => { i with vectors := [], irq := .fresh, aqa := 0, asq := 0, acq := 0 }
    hfu := { s.hfu with cfg := Tab.erase s.hfu.cfg inst } }).resetInst inst to')

/-- FUNCTION_LEVEL_RESET (R45, R476): an FLR of a PF also takes its virtual functions away. -/
def execFunctionLevelReset (inst : Nat) (s : State) : Host.Outcome State Fault Refusal :=
  .next (
    match s.qce.inst? inst with
    | none => s
    | some i =>
      if i.eth || s.fev.safe || s.dumped then s
      else
        let g := s.functionReset inst .disabled
        if i.pf then
          (Tab.keysWhere g.qce.insts fun _ j => j.port == i.port && !j.pf).foldl (fun (g : State) v =>
            (match (g.qce.inst? v).map (·.state) with
            | some InstState.offline => g.removeInst v
            | _ => g.functionReset v .unused)) g
        else g)

/-! ## Enable, reset and shutdown by the host (R105, R107, R143) -/

/-- Queue sizes of AQA: submission and completion, in entries. -/
def asqs (aqa : Nat) : Nat := natBits aqa 11 0 + 1
def acqs (aqa : Nat) : Nat := natBits aqa 27 16 + 1

/-- CSTS.RDY may be set: the device is ready and in no safe state (R469). -/
def State.mayReady (s : State) : Bool := s.mgc.boot == .ready && !s.fev.safe && !s.dumped

/-- CC.EN goes from 0 to 1 (R74, R143, R469): the admin queues come to be; a quiesced device resumes (R474). -/
def State.enable (s : State) (inst : Nat) (i : Inst) (cc aqa asq acq : Nat) : State :=
  if i.state ≠ .disabled || !s.up || natBits cc 0 0 == 0 then s
  else if !i.eth && (asqs aqa < 2 || acqs aqa < 2) then
    { s with qce := s.qce.updInst inst fun i => { i with cc := cc, aqa := aqa, asq := asq, acq := acq, cfs := true } }
  else
    let on := fun (i : Inst) =>
      { i with state := .ready, cc := cc, aqa := aqa, asq := asq, acq := acq, rdy := s.mayReady, cfs := false, shst := 0, freezes := 0, frozen := []
               kaAt := s.clock.now }
    let g : State := { s with qce := s.qce.updInst inst on, mgc := { s.mgc with quiesced := false } }
    if i.eth then { g with qce := g.qce.updSq inst 0 fun q => { q with reserve := g.qce.rsvadm, reserveMax := g.qce.rsvadm } }
    else (g.addSq inst 0 (asqs aqa) 0 0 true).addCq inst 0 (acqs aqa) (some 0)

/-- In the safe state a write to CC is stored and has no other effect (R445). -/
def State.storeCc (s : State) (inst cc : Nat) : State := { s with qce := s.qce.updInst inst fun i => { i with cc := cc } }

/-- CC_EN_SET (R143, R445). -/
def execCcEnSet (inst cc aqa asq acq : Nat) (s : State) : Host.Outcome State Fault Refusal :=
  .next (match s.qce.inst? inst with
    | some i => if s.fev.safe then s.storeCc inst cc else s.enable inst i cc aqa asq acq
    | none => s)

/-- CC.EN goes from 1 to 0: a controller reset (R105, R143). -/
def State.disable (s : State) (inst : Nat) (i : Inst) : State :=
  if natBits i.cc 0 0 = 1 ∧ i.state = .disabled then { s with qce := s.qce.updInst inst fun i => { i with cc := 0, cfs := false } }
  else s.resetInst inst .disabled

/-- CC_EN_CLEAR (R105, R143). -/
def execCcEnClear (inst cc : Nat) (s : State) : Host.Outcome State Fault Refusal :=
  .next (match s.qce.inst? inst with
    | some i => if s.fev.safe then s.storeCc inst cc else if natBits cc 0 0 = 0 then s.disable inst i else s
    | none => s)

/-- CC.SHN stops the instance's fetch; its live commands complete (R107). -/
def State.shutdownInst (s : State) (inst : Nat) (i : Inst) : State :=
  if i.state = .ready ∧ i.rdy ∧ i.shst = 0 then
    { s with qce := s.qce.updInst inst fun i => { i with shst := 1, shutdown := some none } }
  else s

/-- CC_SHUTDOWN_NOTIFY (R107). -/
def execCcShutdownNotify (inst shn : Nat) (s : State) : Host.Outcome State Fault Refusal :=
  .next (match s.qce.inst? inst with
    | some i =>
      let cc := i.cc - natBits i.cc 15 14 * 2 ^ 14 + shn % 4 * 2 ^ 14
      if s.fev.safe then s.storeCc inst cc
      else if s.runs && (shn == 1 || shn == 2) then (s.storeCc inst cc).shutdownInst inst i
      else s
    | none => s)

/-- A clean shutdown starts (R472, R473): fetch stops on every instance. None starts while one runs (R475), and one that has completed leaves only the
device reset to do. -/
def State.startShutdown (s : State) (devrst : Bool) : State :=
  if !s.runs then s
  else if s.mgc.quiesced then { s with mgc := { s.mgc with resetDue := s.mgc.resetDue || devrst } }
  else
    match s.mgc.shutdown with
    | some d => { s with mgc := { s.mgc with shutdown := some { d with devrst := d.devrst || devrst } } }
    | none =>
      { s with
        mgc := { s.mgc with shutdown := some ⟨s.clock.now, devrst⟩ }
        qce := { s.qce with insts := Tab.mapVals s.qce.insts fun _ i => if i.state = .ready ∧ i.shst = 0 then { i with shst := 1 } else i } }

/-- Live commands of an instance, but for outstanding Asynchronous Event Requests, which wait for events. -/
def State.liveCmds (s : State) (inst : Nat) (i : Inst) : Bool := (s.qce.ofInst inst).any fun e => !i.aers.contains e.1

/-- Every other instance is out of use or shut down (R472). -/
def State.othersShut (s : State) (inst : Nat) : Bool :=
  s.qce.insts.all fun e => e.1 == inst || e.2.state == .offline || e.2.state == .disabled || e.2.shst == 2

/-- The flush of a shutdown notification has finished: SHST is 0b10, and the last one shuts the device down (R107, R472). -/
def State.shutdownDone (s : State) (inst : Nat) : State :=
  let g : State := { s with qce := s.qce.updInst inst fun i => { i with shst := 2 } }
  if g.othersShut inst && !g.mgc.quiesced && g.mgc.shutdown.isNone then g.startShutdown false else g

/-- CC_SHUTDOWN_FLUSH_DONE (R107): the flush begins once no command of the instance is live, and covers what a Flush fetched then would. -/
def execCcShutdownFlushDone (inst : Nat) (s : State) : Host.Outcome State Fault Refusal :=
  .next (s.whenRuns fun s =>
    match s.qce.inst? inst with
    | none => s
    | some i =>
      let mine := fun (nsx : Nat) => match s.fl.ns? nsx with | some n => n.attached.contains inst | none => false
      match i.state, i.shst, i.shutdown with
      | .ready, 1, some none =>
        if s.liveCmds inst i then s
        else
          let ex := (s.qce.ctxs.filter fun e => e.2.kind.modifies && e.2.recorded).map fun e => e.2.wsn
          let g : State := { s with qce := s.qce.updInst inst fun i => { i with shutdown := some (some (s.fl.ptx.wsn, ex)) } }
          if !s.fl.ptx.unp then g.shutdownDone inst else g
      | .ready, 1, some (some (w, ex)) =>
        if !s.fl.ptx.unp || s.fl.programmed (fun nsx u => mine nsx && decide (u ≤ w) && !ex.contains u) then s.shutdownDone inst else s
      | _, _, _ => s)

/-! ## Doorbells (R77, R78) -/

/-- The instance of a PCIe doorbell that has an effect: ready, and no reset in progress. -/
def State.ringing (s : State) (inst : Nat) : Bool :=
  match s.qce.inst? inst with
  | some i => s.runs && !i.eth && i.state == .ready && i.rdy
  | none => false

/-- An Error event: 0x00 invalid doorbell register, 0x01 invalid doorbell write value. -/
def doorbellError (info : Nat) : AsyncEvent := ⟨0, info, 0x01⟩

/-- SQ_TAIL_DOORBELL (R78). -/
def execSqTailDoorbell (inst sqid v : Nat) (s : State) : Host.Outcome State Fault Refusal :=
  .next (
    if !s.ringing inst || decide (256 < sqid) then s
    else
      match s.qce.sq? inst sqid with
      | none => s.notify inst (doorbellError 0)
      | some q =>
        if q.size ≤ v then s.notify inst (doorbellError 1)
        else { s with qce := s.qce.updSq inst sqid fun q => { q with tail := v } })

/-- A head lies in the span from the current head to one past the last posted entry. -/
def Cq.mayFree (q : Cq) (v : Nat) : Bool := decide ((v + q.size - q.head) % q.size ≤ (q.tail + q.size - q.head) % q.size)

/-- CQ_HEAD_DOORBELL (R78). -/
def execCqHeadDoorbell (inst cqid v : Nat) (s : State) : Host.Outcome State Fault Refusal :=
  .next (
    if !s.ringing inst || decide (256 < cqid) then s
    else
      match s.qce.cq? inst cqid with
      | none => s.notify inst (doorbellError 0)
      | some q =>
        if q.size ≤ v || !(q.mayFree v) then s.notify inst (doorbellError 1)
        else { s with qce := s.qce.updCq inst cqid fun q => { q with head := v } })

/-! ## Virtual functions (R143) -/

/-- One virtual function appears: DISABLED with resources, else OFFLINE. -/
def State.addVf (s : State) (port inst : Nat) : State :=
  if (s.qce.inst? inst).isSome then s
  else
    let vq := s.qce.vqOf port inst
    s.addInst inst (Inst.fresh port false false (if 2 ≤ vq then .disabled else .offline) (vq - 1) s.clock.now) .default'

/-- One virtual function goes, from DISABLED: its resources return to the flexible pool. -/
def State.dropVf (s : State) (inst : Nat) : State :=
  match (s.qce.inst? inst).map (·.state) with
  | some InstState.disabled =>
    let g := s.removeInst inst
    { g with qce := { g.qce with vq := Tab.set g.qce.vq inst 0 } }
  | _ => s

/-- NUMVFS_WRITE (R41, R143). -/
def execNumvfsWrite (port n : Nat) (enable : Bool) (s : State) : Host.Outcome State Fault Refusal :=
  .next (
    match Tab.get? s.hfu.ports port with
    | none => s
    | some p =>
      let r := s.hfu.range port
      if p.proto ≠ .pcie || !s.up || s.dumped || decide (r.2 ≤ n) then s
      else if enable then (List.range n).foldl (fun (g : State) j => g.addVf port (r.1 + 1 + j)) s
      else (Tab.keysWhere s.qce.insts fun _ i => i.port == port && !i.pf).foldl State.dropVf s)

end Sys2Proof.Machine
end

