-- ==== Sys2Proof/Machine/HostPorts.lean ====
section
/-! DEFINITION. Host ports (R37 to R57, R476): lane groups, links and their loss, errors at the link, and the NVMe-oF transports. -/

namespace Sys2Proof.Machine

/-! ## Links -/

/-- Instances of a port. -/
def Qce.instsOf (q : Qce) (port : Nat) : List Nat := Tab.keysWhere q.insts fun _ i => i.port == port

/-- Every instance of a port is reset (R45, R476); the SPDM state of its endpoints is lost with the link (R357). On Ethernet the associations of
the instances end. -/
def State.portReset (s : State) (n : Nat) : State :=
  if s.fev.safe || s.dumped then s
  else
    (s.qce.instsOf n).foldl (fun (g : State) i =>
      let g : State := { g with sec := g.sec.dropEndpoints i }
      match g.qce.inst? i with
      | some x => if x.eth then g.endAssociation i else g.functionReset i .disabled
      | none => g) s

/-- A link goes down (R55): counted and reported. -/
def State.linkLoss (s : State) (n : Nat) (next : LinkState) : State :=
  let r := s.hfu.linkDown n next
  ({ s with hfu := r.1 }).reports r.2

/-- Ports of a lane group; PCIe x16 spans both. -/
def Hfu.portsIn (h : Hfu) (g : Nat) : List Nat := Tab.keysWhere h.ports fun _ p => p.group == g || p.lanes == 16

/-- A port's link that is not down already. -/
def State.linked (s : State) (n : Nat) (proto : Proto) : Bool :=
  s.up && (match Tab.get? s.hfu.ports n with | some p => p.proto == proto && p.state != .down | none => false)

/-- The loss of a port by its kind (R55): a PCIe port's instances are reset, an Ethernet port's associations go on. -/
def State.portLoss (s : State) (n : Nat) (next : LinkState) : State :=
  if s.linked n .pcie then (s.linkLoss n next).portReset n
  else if s.linked n .eth then s.linkLoss n next
  else s

/-- A lane group is enabled: LGnEN. -/
def Hfu.enabled (h : Hfu) (g : Nat) : Bool := h.regs.bit .hfuLgcfg (if g = 0 then 4 else 12)

/-- PCIE_PERST_DEASSERT (R38, R44): the group's PCIe ports enter Detect, where the group is enabled (R39). -/
def execPciePerstDeassert (g : Nat) (s : State) : Host.Outcome State Fault Refusal :=
  .next (
    if Tab.has s.hfu.perst g then s
    else
      { s with
        hfu := { s.hfu with
          perst := Tab.set s.hfu.perst g s.clock.now
          ports := Tab.mapVals s.hfu.ports fun _ p =>
            if p.group = g ∧ p.proto = .pcie then
              { p with perstHigh := true, perstAt := s.clock.now, state := if s.hfu.railLow || !s.hfu.enabled g then p.state else .training }
            else p } })

/-- PCIE_PERST_ASSERT: a port reset (R476). -/
def execPciePerstAssert (g : Nat) (s : State) : Host.Outcome State Fault Refusal :=
  .next (
    let mine := Tab.keysWhere s.hfu.ports fun _ p => p.group == g && p.proto == .pcie
    let h : Hfu :=
      { s.hfu with
        perst := Tab.erase s.hfu.perst g
        ports := Tab.mapVals s.hfu.ports fun n p => if mine.contains n then { p with perstHigh := false } else p }
    mine.foldl (fun (g : State) n => g.portLoss n .down) { s with hfu := h })

/-- LINK_TRAINED (R54). -/
def execLinkTrained (port speed width best : Nat) (s : State) : Host.Outcome State Fault Refusal :=
  .next (
    if s.up && !s.hfu.railLow then
      let r := s.hfu.linkUp port speed width best
      ({ s with hfu := r.1 }).reports r.2
    else s)

/-- PCIE_HOT_RESET (R45, R55, R56). -/
def execPcieHotReset (port : Nat) (s : State) : Host.Outcome State Fault Refusal :=
  .next (if s.linked port .pcie then s.portLoss port .training else s)

/-- PCIE_LINK_DOWN (R45, R55, R56): retraining starts at once. -/
def execPcieLinkDown (port : Nat) (s : State) : Host.Outcome State Fault Refusal :=
  .next (if s.linked port .pcie then s.portLoss port .training else s)

/-- ETH_LINK_DOWN (R55). -/
def execEthLinkDown (port : Nat) (s : State) : Host.Outcome State Fault Refusal :=
  .next (if s.linked port .eth then s.portLoss port .training else s)

/-- LANE_GROUP_CLOCK_LOSS (R26, R55): every port of the group; no device fault. -/
def execLaneGroupClockLoss (g : Nat) (s : State) : Host.Outcome State Fault Refusal :=
  .next (
    if s.up && decide (g < 2) then
      ((s.hfu.portsIn g).foldl (fun (t : State) n => t.portLoss n .training) s).report (mkReport 0x01 0x06 15 g 0 0 0)
    else s)

/-- SERDES_RAIL_RECOVERY (R512): both lane groups retrain. -/
def execSerdesRailRecovery (s : State) : Host.Outcome State Fault Refusal :=
  .next (
    if s.hfu.railLow then
      { s with
        hfu := { s.hfu with
          railLow := false
          ports := Tab.mapVals s.hfu.ports fun _ p =>
            if (p.proto = .eth ∨ p.perstHigh) ∧ s.hfu.enabled p.group then { p with state := .training } else p } }
    else s)

/-! ## Lane groups (R37, R39) -/

/-- LGnERR as it stands. -/
def Hfu.errs (h : Hfu) : LaneEval := ⟨h.regs.fld .hfuLgcfg 7 5, h.regs.fld .hfuLgcfg 15 13, []⟩

/-- The lane groups are settled anew: ports that changed, those of the groups in `again` and a PCIe x16 port, which spans both, start with their
instances (R37, R39, R42). -/
def State.settleLanes (s : State) (again : List Nat) : State :=
  let h : Hfu := { s.hfu with ports := Tab.keep s.hfu.ports fun _ p => !again.contains p.group && p.lanes != 16 }
  let e := h.eval s.part.s0
  let new := h.applyLanes e
  let gone := (Tab.keysWhere s.hfu.ports fun n _ => !(Tab.has new.ports n)).flatMap s.qce.instsOf
  let g : State := gone.foldl State.removeInst { s with hfu := new }
  let g := new.ports.foldl (fun (g : State) p => if Tab.get? h.ports p.1 = some p.2 then g else g.openPort p.1 p.2) g
  g.reports (laneReports again s.hfu.errs e)

/-- What a write to HFU_LGCFG brings: cleared groups go down, enabled groups are settled. -/
def State.lanesChanged (s : State) (old : W32) : State :=
  let now := s.reg .hfuLgcfg
  let en := fun (w : W32) (g : Nat) => w.bits (if g = 0 then 4 else 12) (if g = 0 then 4 else 12) == 1
  let off := (List.range 2).filter fun g => en old g && !en now g
  let on := (List.range 2).filter fun g => !en old g && en now g
  let g := off.foldl (fun (t : State) k => (t.hfu.portsIn k).foldl (fun (t : State) n =>
    let eth := t.linked n .eth
    let u := t.portLoss n .down
    if eth then u.portReset n else u) t) s
  if on.isEmpty then g else g.settleLanes on

/-- HFU_LGCFG_WRITE (R39). -/
def execHfuLgcfgWrite (r : Requester) (v : W32) (s : State) : Host.Outcome State Fault Refusal :=
  .next (s.csrWrite r .hfuLgcfg v fun g => g.lanesChanged (s.reg .hfuLgcfg))

/-- HFU_LEASECFG_WRITE (R526). -/
def execHfuLeasecfgWrite (r : Requester) (v : W32) (s : State) : Host.Outcome State Fault Refusal :=
  .next (s.csrWrite r .hfuLeasecfg v id)

/-! ## Requests and errors at the link (R44, R57) -/

/-- The DVSEC "Port Identity" of a port's functions, 36 B (R43, R495). Bits 31:16 of its first word are the version and the next capability's
offset, which no rule gives. -/
def State.portIdentity (s : State) (port : Nat) (p : Port) : List Byte :=
  leBytes 4 (Config.dvsecNext % 65536 * 65536 + 0x0023) ++ leBytes 4 (0x024 * 2 ^ 20 + Config.pciVendor % 65536) ++ leBytes 2 0x0001
    ++ leBytes 1 port ++ leBytes 1 (if p.lanes = 16 then 2 else p.group) ++ leBytes 2 (s.hfu.range port).1 ++ leBytes 2 (s.hfu.range port).2
    ++ fit 20 s.mgc.cal.serial

/-- What a register of a function's configuration space reads as (R43, R57, R91, R493 to R495). The placing of fields in their registers is the
PCIe base specification's (PRESUMED, log entry 179). -/
def State.cfgRead (s : State) (port : Nat) (p : Port) (inst : Nat) (i : Inst) : CfgReg → Nat
  | .bar n => if !i.pf then 0 else if n = 0 then barLow (s.cfgOf inst).bar0 else if n = 1 then barHigh (s.cfgOf inst).bar0 else 0
  | .rom => 0
  | .devCap => 2 + 2 ^ 28
  | .devCtl => (s.cfgOf inst).mps * 2 ^ 5 + (s.cfgOf inst).mrrs * 2 ^ 12
  | .devCap2 => 0xF
  | .devCtl2 => (s.cfgOf inst).cto
  | .linkCap => 7 + p.lanes * 2 ^ 4
  | .linkSta => p.speed + p.width * 2 ^ 4
  | .pmCtl => if (s.cfgOf inst).d3hot then 3 else 0
  | .msi => if i.pf then b2n i.irq.msi else 0
  | .msix => i.allot + 2 ^ 14 * b2n i.irq.fmask + 2 ^ 15 * b2n i.irq.msix
  | .msixTable => 0x2000
  | .msixPba => 0x4000
  | .totalVfs => if i.pf then (s.hfu.range port).2 - 1 else 0
  | .pageSizes => if i.pf then 0x1F else 0
  | .sysPage => if i.pf then (s.cfgOf inst).sysPage else 0
  | .vfBar n => if !i.pf then 0 else if n = 0 then barLow (s.cfgOf inst).vfBar0 else if n = 1 then barHigh (s.cfgOf inst).vfBar0 else 0
  | .dvsec off => leNat (slice (s.portIdentity port p) (off / 4 * 4) 4)

/-- A write to a register of configuration space: a value that the register does not support changes nothing. -/
def State.cfgWrite (s : State) (inst : Nat) (i : Inst) (r : CfgReg) (v : Nat) : State :=
  let c := s.cfgOf inst
  let put := fun (x : FnCfg) => ({ s with hfu := { s.hfu with cfg := Tab.set s.hfu.cfg inst x } } : State)
  match r with
  | .bar n => if i.pf ∧ n < 2 then put { c with bar0 := barWrite c.bar0 32768 (n == 1) v } else s
  | .devCtl =>
    put { c with
      mps := if natBits v 7 5 ≤ 2 then natBits v 7 5 else c.mps
      mrrs := if natBits v 14 12 ≤ 5 then natBits v 14 12 else c.mrrs }
  | .devCtl2 => if [0, 1, 2, 5, 6, 9, 10, 13, 14].contains (natBits v 3 0) then put { c with cto := natBits v 3 0 } else s
  | .pmCtl => if natBits v 1 0 = 0 ∨ natBits v 1 0 = 3 then put { c with d3hot := natBits v 1 0 == 3 } else s
  | .msi => if i.pf then s.setIrq inst { i.irq with msi := natBits v 0 0 == 1 } else s
  | .msix => s.setIrq inst { i.irq with fmask := natBits v 14 14 == 1, msix := natBits v 15 15 == 1 }
  | .sysPage =>
    if i.pf ∧ [1, 2, 4, 8, 16].contains v then
      let d : FnCfg := { c with sysPage := v }
      put { d with vfBar0 := c.vfBar0 / d.vfBarSize * d.vfBarSize }
    else s
  | .vfBar n => if i.pf ∧ n < 2 then put { c with vfBar0 := barWrite c.vfBar0 c.vfBarSize (n == 1) v } else s
  | _ => s

/-- CONFIG_REQUEST: Request Retry Status until 100 ms after PERSTn_N is deasserted, the latest moment the spec allows (R44, log entry 44). A port
without instances, and a function that is not there, answer Unsupported Request (R40). -/
def execConfigRequest (q : CfgReq) (s : State) : Host.Outcome State Fault Refusal :=
  .next (
    match Tab.get? s.hfu.ports q.port with
    | some p =>
      let inst := (s.hfu.range q.port).1 + q.fn
      if p.proto ≠ .pcie ∨ p.state ≠ .up then s
      else if (s.hfu.range q.port).2 ≤ q.fn then s.emit (.unsupported inst)
      else if s.clock.now < p.perstAt + 100 * msT then s.emit (.config q.port q.fn none)
      else
        match s.qce.inst? inst with
        | none => s.emit (.unsupported inst)
        | some i =>
          match q.w with
          | none => s.emit (.config q.port q.fn (some (s.cfgRead q.port p inst i q.reg)))
          | some v => (s.cfgWrite inst i q.reg v).emit (.config q.port q.fn (some 0))
    | none => s)

/-- A correctable event, and an uncorrectable one, of a port. -/
def State.countCorr (s : State) (n : Nat) : State := { s with hfu := s.hfu.countCorr n }
def State.countUncorr (s : State) (n : Nat) : State := { s with hfu := s.hfu.countUncorr n }

/-- The link of a port is up. -/
def State.portUp (s : State) (n : Nat) (proto : Proto) : Bool :=
  match Tab.get? s.hfu.ports n with
  | some p => p.proto == proto && p.state == .up
  | none => false

/-- A D-class fault of R57 for which R444 has no code: it enters the first-fault queue (R440, R453) and no record is appended, as R57's table has
it "counted only" or reported to the host alone. Its CODE and SEV are free values (log entry 180). -/
def State.uncoded (s : State) (objType obj : Nat) : State :=
  let a := s.fresh
  let b := a.2.fresh
  { b.2 with fev := b.2.fev.firstFault ⟨0x01, a.1 % 256, .d, b.1 % 4, objType, obj, 0, 0, 0⟩ s.stamp }

/-- PCIE_RECEIVER_ERROR: the link replays (R57). -/
def execPcieReceiverError (port : Nat) (s : State) : Host.Outcome State Fault Refusal :=
  .next (if s.portUp port .pcie then (s.countCorr port).emit (.aer port 0) else s)

/-- MALFORMED_TLP: reported as fatal (R57). -/
def execMalformedTlp (port : Nat) (s : State) : Host.Outcome State Fault Refusal :=
  .next (if s.portUp port .pcie then ((s.uncoded 4 port).countUncorr port).emit (.aer port 2) else s)

/-- Offsets of BAR0 that hold something (R494): `v` is the vector count. -/
def barHolds (v offset : Nat) : Bool :=
  decide (offset < 0x1808 ∨ 0x2000 ≤ offset ∧ offset < 0x2000 + 16 * v ∨ 0x4000 ≤ offset ∧ offset < 0x4028)

/-- BAR_UNSUPPORTED_ACCESS (R57, R494). -/
def execBarUnsupportedAccess (inst offset : Nat) (s : State) : Host.Outcome State Fault Refusal :=
  .next (
    match s.qce.inst? inst with
    | some i =>
      if i.eth || barHolds (i.allot + 1) offset || !s.portUp i.port .pcie then s
      else (((s.uncoded 5 inst).countUncorr i.port).emit (.unsupported inst)).emit (.aer i.port 3)
    | none => s)

/-- A fetch read fails: retried once; the second failure fails the instance (R57, R143). -/
def State.fetchFailed (s : State) (inst sqid : Nat) : State :=
  match s.qce.inst? inst, s.qce.sq? inst sqid with
  | some i, some q =>
    if i.eth || q.reads.isEmpty || i.state ≠ .ready then s
    else
      let g := (s.countUncorr i.port).emit (.aer i.port 1)
      if q.retried then
        ({ g with qce := g.qce.updInst inst fun i => { i with state := .failed, cfs := true } }).report (mkReport 0x01 0x04 5 inst sqid 0 0)
      else ({ g with qce := g.qce.updSq inst sqid fun q => { q with retried := true } }).uncoded 5 inst
  | _, _ => s

/-- A read of data, of a PRP or of an SGL fails: Data Transfer Error, and no data of the command enters the Oasis (R57). -/
def State.dataFailed (s : State) (c : Nat) : State :=
  match s.qce.ctx? c with
  | some x =>
    match s.qce.inst? x.inst with
    | some i =>
      if i.eth || x.side || x.recorded || x.oas || !x.open' then s
      else ((((s.uncoded 5 x.inst).countUncorr i.port).emit (.aer i.port 1)).fin c .dataTransfer).settle
    | none => s
  | none => s

/-- COMPLETION_TIMEOUT (R57). -/
def execCompletionTimeout (t : HostRead) (s : State) : Host.Outcome State Fault Refusal :=
  .next (s.whenRuns fun s =>
    match t with
    | .fetch inst sqid => s.fetchFailed inst sqid
    | .data c => s.dataFailed c)

/-- HOST_READ_FAILURE (R57). For an SQ entry fetch the table names a poisoned completion; Unsupported Request and Completer Abort are taken
as the same failure (DEDUCED, log entry 45). -/
def execHostReadFailure (t : HostRead) (why : ReadFault) (s : State) : Host.Outcome State Fault Refusal :=
  .next (s.whenRuns fun s =>
    match t, why with
    | .fetch inst sqid, .poisoned => s.fetchFailed inst sqid
    | .fetch inst sqid, .unsupported => s.fetchFailed inst sqid
    | .fetch inst sqid, .abort => s.fetchFailed inst sqid
    | .data c, _ => s.dataFailed c)

/-! ## Ethernet ports and transports (R46 to R52) -/

def State.conn? (s : State) (c : Nat) : Option Conn := Tab.get? s.hfu.conns c
def State.updConn (s : State) (c : Nat) (f : Conn → Conn) : State := { s with hfu := { s.hfu with conns := Tab.upd s.hfu.conns c f } }

/-- Transient Transport Error (PRESUMED number, NVMe over Fabrics, log entry 26). -/
def Status.transport : Status := ⟨0, 0x22, false⟩

/-- The discovery controller of a port as a connection names it: it takes no instance (R50). -/
def discInst (port : Nat) : Nat := 2048 + port

/-- An association ends: an instance's by R51, a discovery controller's with its connections. -/
def State.dropAssociation (s : State) (inst : Nat) : State :=
  if 2048 ≤ inst then { s with hfu := { s.hfu with conns := Tab.keep s.hfu.conns fun _ c => c.inst != inst } } else s.endAssociation inst

/-- A transport connection is gone: its association ends (R51). -/
def State.connLost (s : State) (c : Nat) : State :=
  match s.conn? c with
  | some k =>
    if 2048 ≤ k.inst then { s with hfu := { s.hfu with conns := Tab.erase s.hfu.conns c } } else s.endAssociation k.inst
  | none => s

/-- TRANSPORT_CONNECTION_FAILURE (R51). -/
def execTransportConnectionFailure (conn : Nat) (s : State) : Host.Outcome State Fault Refusal := .next (s.connLost conn)

/-- The stored configuration block of an Ethernet port, where it is well formed (R413). -/
def State.portBlock (s : State) (n : Nat) : Option (List Byte) := (Tab.get? s.mgc.ports n).filter portBlockOk

/-- PFCPRI of a port; priority 3 by default (R46). -/
def State.pfcPrio (s : State) (n : Nat) : Nat := ((s.portBlock n).map fun b => leNat (slice b 2 1)).getD 3

/-- Frames that a port takes: up to 9,216 B and its block's MAXFRAME, on its VLAN, with a version of IP that it runs (R46, R48, R413). A port without
a valid block has no address and takes none of NVMe-oF. What becomes of any other frame no rule says: it is dropped (log entry 181). -/
def State.accepts (s : State) (port : Nat) (h : EthHead) : Bool :=
  match s.portBlock port with
  | none => false
  | some b =>
    decide (h.len ≤ 9216 ∧ h.len ≤ leNat (slice b 6 2) ∧ h.vlan = leNat (slice b 4 2) % 4096)
      && natBits (leNat (slice b 1 1)) (if h.v6 then 1 else 0) (if h.v6 then 1 else 0) == 1

/-- The bytes that a frame holds in the receive allotment: those of the lossless priority (R47). -/
def State.heldBytes (s : State) (port : Nat) (h : EthHead) (n : Nat) : Nat := if h.prio = s.pfcPrio port then n else 0

/-- A frame finds room: in the 4 MiB of the allotment, or in the share of its own priority (R47). -/
def State.roomFor (s : State) (port : Nat) (h : EthHead) (n : Nat) : Bool :=
  if h.prio = s.pfcPrio port then decide (((Tab.get? s.hfu.ports port).map (·.allot)).getD 0 + n ≤ allotSize) else !h.full

/-- The largest command capsule: the entry and 8 KiB in the capsule (R49). -/
def capsuleMax : Nat := 64 + 8192

/-- A command capsule arrives on a connection; one larger than the limit ends it (PRESUMED, log entry 181). -/
def State.capsule (s : State) (port : Nat) (h : EthHead) (c n : Nat) : State :=
  match s.conn? c with
  | none => s
  | some k =>
    if k.port ≠ port then s
    else if capsuleMax < n then s.connLost c
    else
      let held := s.heldBytes port h n
      let g := (s.allotment port fun a => a + held).updConn c fun k => { k with retries := 0 }
      { g with qce := g.qce.updSq k.inst k.qid fun q => { q with capsules := q.capsules ++ [held] } }

/-- A digest error on the data of a command ends it; one on a header ends its connection (R57). Each concerns a connection that uses the digest
(R49). -/
def State.dataDigest (s : State) (port c : Nat) : State :=
  match s.qce.ctx? c with
  | some x =>
    if (((s.qce.inst? x.inst).map (·.port)) == some port) && s.hfu.conns.any (fun e => e.2.inst == x.inst && e.2.qid == x.sqid && e.2.ddgst)
        && x.open' && !x.recorded && !x.oas && s.runs then (((s.uncoded 5 x.inst).countUncorr port).fin c .transport).settle
    else s
  | none => s
def State.headerDigest (s : State) (port c : Nat) : State :=
  match s.conn? c with
  | some k =>
    if k.port = port ∧ !k.rdma ∧ k.hdgst then ((s.countUncorr port).report (mkReport 0x01 0x05 5 k.inst 0 0 0)).connLost c else s
  | none => s

/-- A frame of a port whose link is up (R47, R49, R57). A packet whose ICRC fails is dropped, and its transport sends it again. -/
def State.frame (s : State) (port : Nat) (h : EthHead) (f : EthFrame) : State :=
  match f with
  | .bad => (s.uncoded 4 port).countUncorr port
  | .taken n => s.allotment port fun a => a - n
  | .icrc _ => s
  | .capsule c n => if s.accepts port h && s.roomFor port h n then s.capsule port h c n else s
  | .data n => if s.accepts port h && s.roomFor port h n then s.allotment port fun a => a + s.heldBytes port h n else s
  | .dataDigest c => if s.accepts port h then s.dataDigest port c else s
  | .headerDigest c => if s.accepts port h then s.headerDigest port c else s

/-- Codewords that FEC has corrected are counted (R56). -/
def State.countFec (s : State) (port words : Nat) : State := { s with hfu := s.hfu.countFec port words }

/-- ETH_FRAME_RECEIVE (R46, R47, R49, R56, R57). -/
def execEthFrameReceive (port : Nat) (r : EthRx) (s : State) : Host.Outcome State Fault Refusal :=
  .next (if s.portUp port .eth && !s.dumped then (s.countFec port r.head.fec).frame port r.head r.frame else s)

/-- PFC_PAUSE_RECEIVE (R46, R47): the port stops transmitting on its lossless priority while paused. -/
def execPfcPauseReceive (port prio quanta : Nat) (s : State) : Host.Outcome State Fault Refusal :=
  .next (
    if s.portUp port .eth && prio == s.pfcPrio port then
      { s with
        hfu := { s.hfu with ports := Tab.upd s.hfu.ports port fun p => { p with paused := if quanta = 0 then [] else [prio] } } }
    else s)

/-- ECN_CE_RECEIVE (R52). -/
def execEcnCeReceive (conn : Nat) (s : State) : Host.Outcome State Fault Refusal :=
  .next (
    match s.conn? conn with
    | some k =>
      if k.rdma then
        let r := k.ce s.clock.now
        let g := s.updConn conn fun _ => r.1
        if r.2 then g.emit (.cnp conn) else g
      else s
    | none => s)

/-- CNP_RECEIVE (R52). -/
def execCnpReceive (conn : Nat) (s : State) : Host.Outcome State Fault Refusal :=
  .next (s.updConn conn fun k => if k.rdma then k.cnp s.clock.now else k)

/-- CNP_RATE_RECOVERY (R52): 50 µs without a further notification. -/
def execCnpRateRecovery (conn : Nat) (s : State) : Host.Outcome State Fault Refusal :=
  .next (
    match s.conn? conn with
    | some k =>
      match k.cnpSeen with
      | some t =>
        let g := s.until' (t + 500)
        g.updConn conn fun k => k.recover g.clock.now (portRate (((Tab.get? s.hfu.ports k.port).map (·.lanes)).getD 2))
      | none => s
    | none => s)

/-- A port may not transmit on its lossless priority, which a PFC frame has paused (R46, R47). -/
def State.pausedPort (s : State) (n : Nat) : Bool := ((Tab.get? s.hfu.ports n).map fun p => !p.paused.isEmpty).getD false

/-- A request or segment is not acknowledged in time: retransmitted, or after `limit` retransmissions the connection is lost (R49). A port that is
paused sends nothing, and the attempt does not count (DEDUCED, log entry 181). -/
def State.resend (s : State) (c : Nat) (rdma : Bool) (limit : Nat) : State :=
  match s.conn? c with
  | some k =>
    if k.rdma ≠ rdma || s.pausedPort k.port then s
    else if limit ≤ k.retries then s.connLost c
    else (s.updConn c fun k => { k with retries := k.retries + 1 }).emit (.resend c)
  | none => s

/-- ROCE_ACK_TIMEOUT (R49): retry count 7. -/
def execRoceAckTimeout (conn : Nat) (s : State) : Host.Outcome State Fault Refusal := .next (s.resend conn true 7)

/-- TCP_RETRANSMIT_TIMEOUT (R49): the connection is aborted after 8 retransmissions of one segment. -/
def execTcpRetransmitTimeout (conn : Nat) (s : State) : Host.Outcome State Fault Refusal := .next (s.resend conn false 8)

/-! ## Associations (R50, R51, R75, R142) -/

/-- Fabrics statuses (PRESUMED numbers, NVMe over Fabrics, log entry 26). -/
def Status.connectParams : Status := stat 1 0x82
def Status.connectHost : Status := stat 1 0x84

/-- The share defaults of a port's configuration block; a field of 0 gives none (R146, R413). -/
def shareOfBlock (b : List Byte) : Share :=
  let w := leNat (slice b 64 2)
  let m := leNat (slice b 66 1)
  let u := leNat (slice b 76 1)
  { weight := if w = 0 then 64 else w, iopslim := leNat (slice b 68 4), bwlim := leNat (slice b 72 4), burst := if u = 0 then 10 else u
    rclbkt := leNat (slice b 77 1) == 1, lcmask := if m = 0 then 0xFF else m, lcdef := if m = 0 ∧ w = 0 then 4 else leNat (slice b 67 1) }

/-- Queue pairs that the instances of a port hold. -/
def Qce.allotted (q : Qce) (port : Nat) : Nat := ((q.insts.filter fun e => e.2.port == port).map fun e => e.2.allot).sum

/-- A connection comes to be. -/
def State.addConn (s : State) (k : Conn) : State :=
  { s with hfu := { s.hfu with conns := Tab.set s.hfu.conns ((Tab.firstFree s.hfu.conns 0 (s.hfu.conns.length + 1)).getD 0) k } }

/-- Connections of the device, shared by both transports (R49). -/
def connLimit : Nat := 18432

/-- The connection of a Connect. -/
def ConnectReq.conn (q : ConnectReq) (port inst qid rate : Nat) : Conn :=
  ⟨port, inst, qid, q.rdma, rate, none, none, 0, if q.rdma then q.mtu else min q.mtu 9156, !q.rdma && q.hdgst, !q.rdma && q.ddgst⟩

/-- A Connect that reaches a listening port with a path MTU that the transport has (R49). -/
def ConnectReq.heard (q : ConnectReq) : Bool :=
  if q.rdma then q.tport == 4420 && [1024, 2048, 4096].contains q.mtu else q.tport == (if q.discovery then 8009 else 4420)

/-- A Connect to a port's discovery controller, which takes no instance (R50). -/
def State.connectDiscovery (s : State) (port : Nat) (q : ConnectReq) (rate : Nat) : State :=
  if q.qid ≠ 0 then s.emit (.connect port (discInst port) q.qid (some .connectParams))
  else (s.addConn (q.conn port (discInst port) 0 rate)).emit (.connect port (discInst port) 0 none)

/-- A Connect to an admin queue (R50, R142, R143): the lowest free instance of the port's range. A keep-alive timeout of 0 is taken as none, which
R51's range leaves open (DESIGN CHOICE, log entry 182). -/
def State.connectAdmin (s : State) (port : Nat) (q : ConnectReq) (b : List Byte) (rate : Nat) : State :=
  let r := s.hfu.range port
  if q.sqsize + 1 < 2 ∨ 4096 < q.sqsize + 1 ∨ q.kato ≠ 0 ∧ (q.kato < 1000 ∨ 3600000 < q.kato) then s.emit (.connect port 0 0 (some .connectParams))
  else
    match (List.range r.2).find? fun j => (s.qce.inst? (r.1 + j)).isNone with
    | none => s.emit (.connect port 0 0 (some .connectHost))
    | some j =>
      let inst := r.1 + j
      let allot := min (s.qce.qpdef port) (s.qce.pool port - s.qce.allotted port)
      let i : Inst := { Inst.fresh port false true .disabled allot s.clock.now with hostId := q.hostId, kato := q.kato }
      let g := s.addInst inst i (shareOfBlock b)
      let g := (g.addSq inst 0 (q.sqsize + 1) 0 0 (!q.noFlow)).addCq inst 0 0 none
      let g := g.addConn (q.conn port inst 0 rate)
      ({ g with mgc := { g.mgc with quiesced := false } }).emit (.connect port inst 0 none)

/-- A Connect to an I/O queue (R75). -/
def State.connectIo (s : State) (port : Nat) (q : ConnectReq) (rate : Nat) : State :=
  match s.qce.inst? q.cntlid with
  | none => s.emit (.connect port q.cntlid q.qid (some .connectParams))
  | some i =>
    if i.port ≠ port || !i.eth || i.state ≠ .ready || !i.rdy || decide (i.allot < q.qid) || (s.qce.sq? q.cntlid q.qid).isSome
        || decide (q.sqsize + 1 < 2 ∨ 4096 < q.sqsize + 1) then s.emit (.connect port q.cntlid q.qid (some .connectParams))
    else if i.hostId ≠ q.hostId then s.emit (.connect port q.cntlid q.qid (some .connectHost))
    else
      let g := (s.addSq q.cntlid q.qid (q.sqsize + 1) q.qid 0 (!q.noFlow)).addCq q.cntlid q.qid 0 none
      (g.addConn (q.conn port q.cntlid q.qid rate)).emit (.connect port q.cntlid q.qid none)

/-- FABRICS_CONNECT (R49, R50, R75): the listening ports refuse connections before device ready (R470) and where the port's block fails (R413); a
transport that the block leaves off takes none, and neither does a device that holds all its connections. -/
def execFabricsConnect (port : Nat) (q : ConnectReq) (s : State) : Host.Outcome State Fault Refusal :=
  .next (s.whenRuns fun s =>
    match s.portBlock port with
    | none => s
    | some b =>
      if s.portUp port .eth && natBits (leNat (slice b 1 1)) (if q.rdma then 2 else 3) (if q.rdma then 2 else 3) == 1 then
        let rate := portRate (((Tab.get? s.hfu.ports port).map (·.lanes)).getD 2)
        if !q.heard || decide (connLimit ≤ s.hfu.conns.length) then s
        else if q.discovery then s.connectDiscovery port q rate
        else if q.qid = 0 then s.connectAdmin port q b rate
        else s.connectIo port q rate
      else s)

/-- FABRICS_DISCONNECT (R51). -/
def execFabricsDisconnect (inst : Nat) (s : State) : Host.Outcome State Fault Refusal := .next (s.dropAssociation inst)

/-- CAP (R94): queue entries, contiguous queues, weighted round robin, timeout, command sets, largest page. CSS is PRESUMED (NVMe base
specification, log entry 26). -/
def Inst.cap (i : Inst) : Nat :=
  (if i.eth then 0x0FFF else 0xFFFF) + 2 ^ 16 + 2 ^ 17 + 90 * 2 ^ 24 + (2 ^ 0 + 2 ^ 6) * 2 ^ 37 + 4 * 2 ^ 52

/-- CSTS: RDY, CFS, SHST. In the safe state CFS is 1 on every instance (R445). -/
def Inst.csts (i : Inst) : Nat := b2n i.rdy + 2 * b2n i.cfs + 4 * i.shst

/-- FABRICS_PROPERTY_GET (R496): CAP, VS, CC and CSTS. -/
def execFabricsPropertyGet (inst offset : Nat) (s : State) : Host.Outcome State Fault Refusal :=
  .next (
    match s.qce.inst? inst with
    | some i =>
      if !i.eth then s
      else
        match offset with
        | 0x00 => s.emit (.property inst i.cap none)
        | 0x08 => s.emit (.property inst 0x00020100 none)
        | 0x14 => s.emit (.property inst i.cc none)
        | 0x1C => s.emit (.property inst i.csts none)
        | _ => s.emit (.property inst 0 (some .invalidField))
    | none => s)

/-- A write to CC (R105, R107, R143): enable, reset, or shutdown notification; one that leaves EN as it is is stored. -/
def State.writeCc (s : State) (inst : Nat) (i : Inst) (v : Nat) : State :=
  if s.fev.safe then s.storeCc inst v
  else if natBits v 0 0 = 1 ∧ natBits i.cc 0 0 = 0 then s.enable inst i v i.aqa i.asq i.acq
  else if natBits v 0 0 = 0 ∧ natBits i.cc 0 0 = 1 then s.disable inst i
  else if s.runs && (natBits v 15 14 == 1 || natBits v 15 14 == 2) then (s.storeCc inst v).shutdownInst inst i
  else s.storeCc inst v

/-- FABRICS_PROPERTY_SET (R496): CC; CAP, VS and CSTS hold nothing that a write changes. -/
def execFabricsPropertySet (inst offset v : Nat) (s : State) : Host.Outcome State Fault Refusal :=
  .next (
    match s.qce.inst? inst with
    | some i =>
      if !i.eth then s
      else if offset = 0x14 then (s.writeCc inst i v).emit (.property inst 0 none)
      else if offset = 0 ∨ offset = 8 ∨ offset = 0x1C then s.emit (.property inst 0 none)
      else s.emit (.property inst 0 (some .invalidField))
    | none => s)

/-- KEEP_ALIVE_TIMEOUT (R51, R106): the time has passed since the last command, seen at the next multiple of 100 ms; a posting pause does
not count. -/
def execKeepAliveTimeout (inst : Nat) (s : State) : Host.Outcome State Fault Refusal :=
  .next (
    match s.qce.inst? inst with
    | some i =>
      if !i.eth || i.kato == 0 || s.fev.safe || s.dumped then s
      else
        let due := i.kaAt + i.kato * msT + (if i.kaAt ≤ s.mgc.postHold ∧ s.mgc.postHold ≠ 0 then 2 * msT else 0)
        (s.until' (ceilDiv due (100 * msT) * (100 * msT))).endAssociation inst
    | none => s)

end Sys2Proof.Machine
end

