-- ==== Sys2Proof/Machine/Admin.lean ====
section
/-! DEFINITION. Admin commands as they are taken (R93, R410): from an instance's admin queue or over the sideband, with the checks that come before
each command's own. -/

namespace Sys2Proof.Machine

/-- Which instances a command is for (R93). -/
inductive AdminScope where
  | every
  /-- A PF on PCIe. -/
  | pf
  /-- A PF on PCIe, or any Ethernet instance. -/
  | pfOrEth
  | pcie
  | ethernet
  deriving DecidableEq, Repr

/-- A sideband command is taken: its context comes from the shared pool (R410). None where fetch does not run, the pool is empty or the
controller it names does not exist. -/
def State.takeSide (s : State) (inst : Nat) (q : Sqe) : Option (State × Nat) :=
  if s.fetches && decide (0 < s.qce.shFree) && (inst == 0xFFFF || (s.qce.inst? inst).isSome) then
    let c := s.qce.freeCtx
    let x : Ctx :=
      { Ctx.blank with
        kind := .admin, inst := inst, side := true, sqe := q, fsn := s.qce.fsn, adm := true, wr := q.opc % 2 == 1, shared := true
        fetchedAt := s.clock.now, state := .fw }
    some ({ s with qce := { s.qce with ctxs := Tab.set s.qce.ctxs c x, fsn := nextFsn s.qce.fsn } }, c)
  else none

/-- Whether a caller is within a command's scope. A sideband command runs as from a PF on PCIe. -/
def State.inScope (s : State) (x : Ctx) (sc : AdminScope) : Bool :=
  match s.qce.inst? x.inst with
  | none => x.side
  | some i =>
    match sc with
    | .every => true
    | .pf => x.side || i.pf && !i.eth
    | .pfOrEth => x.side || i.pf || i.eth
    | .pcie => !x.side && !i.eth
    | .ethernet => !x.side && i.eth

/-- The Host Identifier of a caller: zero over the sideband (R410). -/
def State.callerHost (s : State) (x : Ctx) : Nat := if x.side then 0 else s.hostOf x.inst

/-- An admin command is taken, checked and handled at its fetch. `side`: supported over the sideband (R409); `san`: permitted while a sanitize runs or has
failed (the NVMe base specification's list, PRESUMED, log entry 26). -/
def State.adminNow (s : State) (a : AdminCmd) (opc : Nat) (sc : AdminScope) (side san : Bool) (go : State → Nat → Ctx → State) : State :=
  match if a.side then s.takeSide a.inst a.q else s.take a.inst 0 .admin a.q with
  | none => s
  | some (g, c) =>
    match g.qce.ctx? c with
    | none => g
    | some x =>
      (if x.sqe.opc ≠ opc ∨ !(g.inScope x sc) ∨ x.side ∧ !side then g.fin c .invalidOpcode
      else
        match if san then none else g.sanitizeStatus with
        | some st => g.fin c st
        | none => go g c x).settle

/-- An admin command is taken, checked and handled; during a handover once its step 7 is over (R407). -/
def State.admin (s : State) (a : AdminCmd) (opc : Nat) (sc : AdminScope) (side san : Bool) (go : State → Nat → Ctx → State) : State :=
  s.adminNow a opc sc side san fun g c x => go (g.until' (g.mgc.postHold - 5000)) c x

/-- A namespace that an admin command names, as its caller sees it: over the sideband, without an instance, any. -/
def State.callerNs (s : State) (x : Ctx) (nsid : Nat) : Option Ns :=
  if x.side && x.inst == 0xFFFF then (if nsid = 0 then none else s.fl.ns? (nsid - 1)) else s.fl.attachedNs x.inst nsid

/-- The command waits in FW until its delta record is durable, and completes with what it holds then (R70, R223). -/
def State.finDurable (s : State) (c : Nat) (st : Status) (dw0 dw1 wsn : Nat) : State :=
  s.updCtx c fun x => { x with status := st, dw0 := dw0, dw1 := dw1, wsn := wsn, encrypted := true }

/-- A change of lease generations is journalled (R70, R222); answers its write sequence number. -/
def Ptx.logLeases (p : Ptx) (now : Nat) (gs : List (Nat × Nat)) : Ptx × Nat :=
  let w := p.wsn + 1
  ((gs.foldl (fun (q : Ptx) g => q.log now (.lease g.1 g.2) w true) { p with wsn := w }), w)

end Sys2Proof.Machine
end

