-- ==== Sys2Proof/Machine/IoCommands.lean ====
section
/-! DEFINITION. The I/O commands that name logical blocks, at their fetch (R17, R19, R64, R88, R105, R174 to R178, R184, R217 to R219, R287):
taken from their queue, checked in order, their fields set in the context, and sent to the range locks and admission. Opcodes and
field places of NVMe's own commands are its command sets' (PRESUMED, log entry 26). -/

namespace Sys2Proof.Machine

/-! ## Checks -/

/-- The status of the first check that fails: checks in order, each with what it answers. -/
def firstFailing : List (Bool × Status) → Option Status
  | [] => none
  | (bad, st) :: rest => if bad then some st else firstFailing rest

/-- A command's claims on a namespace: whether it writes to it, whether the lease guards it, whether write protection stops it. -/
structure Claim where
  write : Bool
  guarded : Bool
  protectable : Bool

/-- What a read claims, and what a write claims. -/
def Claim.reads : Claim := ⟨false, false, false⟩
def Claim.writes : Claim := ⟨true, true, true⟩

/-- A command of an I/O queue is taken and, past its opcode and any sanitize, handled (R64, R88, R377). The admin queue's commands have
rows of their own. -/
def State.io (s : State) (c : IoCmd) (k : Kind) (opc : Nat) (go : State → Nat → Ctx → State) : State :=
  match if c.sqid = 0 then none else s.take c.inst c.sqid k c.q with
  | none => s
  | some (g, ctx) =>
    match g.qce.ctx? ctx with
    | none => g
    | some x =>
      (if x.sqe.opc ≠ opc then g.fin ctx .invalidOpcode
      else
        match g.sanitizeStatus with
        | some st => g.fin ctx st
        | none => go g ctx x).settle

/-- A command on one namespace: attached, its own fields, then reservation, lease and write protection (R64). -/
def State.onNs (s : State) (c : IoCmd) (k : Kind) (opc : Nat) (claim : Claim)
    (checks : Ctx → Nat → Ns → List (Bool × Status)) (go : State → Nat → Ctx → Nat → Ns → State) : State :=
  s.io c k opc fun g ctx x =>
    match g.fl.attachedNs c.inst c.q.nsid with
    | none => g.fin ctx .invalidNs
    | some n =>
      match firstFailing (checks x (c.q.nsid - 1) n) with
      | some st => g.fin ctx st
      | none =>
        match g.rightsStatus (c.q.nsid - 1) n c.inst claim.write claim.guarded claim.protectable with
        | some st => g.fin ctx st
        | none => go g ctx x (c.q.nsid - 1) n

/-- Checks of the fields that name blocks: storage tag check, directive type, key tag, length moved, and LBA range (R64, R94, R164, R363). -/
def blockChecks (moves : Bool) (x : Ctx) (nsx : Nat) (n : Ns) : List (Bool × Status) :=
  [ (x.sqe.stc, .invalidField), (x.sqe.dtype != 0 && x.sqe.dtype != 2, .invalidField), ((n.keySlot nsx x.sqe).isNone, .invalidField),
    (moves && decide (mdts < n.dataBytes (x.sqe.nlb + 1)), .invalidField), (decide (n.nsze < x.sqe.slba + x.sqe.nlb + 1), .lbaRange) ]

/-- The fields of the context that a command on blocks uses (R85). -/
def Ctx.blockFields (x : Ctx) (nsx : Nat) (n : Ns) : Ctx :=
  { x with
    nsx := some nsx, slba := x.sqe.slba, nlb := x.sqe.nlb, keyslot := (n.keySlot nsx x.sqe).getD 0, fua := x.sqe.fua, lr := x.sqe.lr
    pract := x.sqe.pract, prchk := x.sqe.prchk, ilbrt := x.sqe.refTag n.wideRef, lbat := x.sqe.appTag, lbatm := x.sqe.appMask
    dspec := if x.sqe.dtype = 2 then x.sqe.dspec else 0 }

/-! ## Reading commands -/

/-- A reading command on the span that its entry names. -/
def State.readCmd (s : State) (c : IoCmd) (k : Kind) (opc : Nat) (moves : Bool) : State :=
  s.onNs c k opc .reads (blockChecks moves) fun g ctx x nsx n =>
    let y := x.blockFields nsx n
    (g.setCtx ctx { y with rds := [y.span] }).route ctx

/-- READ (R17, R64, R108). -/
def execRead (c : IoCmd) (s : State) : Host.Outcome State Fault Refusal := .next (s.readCmd c .read 0x02 true)

/-- COMPARE: a reading command whose host data arrives for the comparison (R108, R139). -/
def execCompare (c : IoCmd) (s : State) : Host.Outcome State Fault Refusal := .next (s.readCmd c .compare 0x05 true)

/-- VERIFY (R108, R139). -/
def execVerify (c : IoCmd) (s : State) : Host.Outcome State Fault Refusal := .next (s.readCmd c .verify 0x0C false)

/-! ## Modifying commands on one span -/

/-- A checked modifying command finds its place: in a zoned namespace its zone (R175), otherwise its barchan (R171, R184). `append`: the
device assigns the first block. -/
def State.placeWrite (s : State) (ctx : Nat) (x : Ctx) (nsx : Nat) (n : Ns) (append : Bool) : State :=
  if n.zoned then
    let z := x.slba / n.zsze
    match s.fl.zoneWrite s.clock.now s.hours nsx n z (if append then none else some x.slba) (x.nlb + 1) x.fsn with
    | .error st => s.fin ctx st
    | .ok (f, lo, bar) =>
      ((s.withFl f).setCtx ctx { x with slba := lo, zone := some z, barchan := bar, mods := [⟨lo, x.nlb + 1⟩] }).lockAndRoute ctx
  else
    let b := s.fl.barchanFor n (if x.dspec = 0 ∧ x.sqe.dtype ≠ 2 then none else some x.dspec)
    let p := if b.2 then s.fl.ptx.fdpEvent s.clock.now 0x03 (n.handles.headD 0) else s.fl.ptx
    ((s.withFl { s.fl with ptx := p }).setCtx ctx { x with barchan := b.1, mods := [x.span] }).lockAndRoute ctx

/-- A modifying command on the span that its entry names. -/
def State.writeCmd (s : State) (c : IoCmd) (k : Kind) (opc : Nat) (moves : Bool) : State :=
  s.onNs c k opc .writes (blockChecks moves) fun g ctx x nsx n => g.placeWrite ctx (x.blockFields nsx n) nsx n false

/-- WRITE (R19, R64). -/
def execWrite (c : IoCmd) (s : State) : Host.Outcome State Fault Refusal := .next (s.writeCmd c .write 0x01 true)

/-- WRITE_ZEROES (R217). -/
def execWriteZeroes (c : IoCmd) (s : State) : Host.Outcome State Fault Refusal := .next (s.writeCmd c .zeroes 0x08 false)

/-- WRITE_UNCORRECTABLE (R196, R217). -/
def execWriteUncorrectable (c : IoCmd) (s : State) : Host.Outcome State Fault Refusal := .next (s.writeCmd c .uncorrectable 0x04 false)

/-- ZONE_APPEND (R113, R175): SLBA names the zone, whose write pointer gives the first block. -/
def execZoneAppend (c : IoCmd) (s : State) : Host.Outcome State Fault Refusal :=
  .next (s.onNs c .append 0x7D .writes
    (fun x nsx n => (!n.zoned, .invalidOpcode) :: blockChecks true x nsx n ++ [(n.zsze != 0 && x.sqe.slba % n.zsze != 0, .invalidField)])
    fun g ctx x nsx n => g.placeWrite ctx (x.blockFields nsx n) nsx n true)

/-- DATASET_MANAGEMENT (R217): without Deallocate its attributes are ignored. -/
def execDatasetManagement (c : IoCmd) (ranges : List Span) (s : State) : Host.Outcome State Fault Refusal :=
  .next (s.onNs c .dsm 0x09 ⟨true, c.q.deallocates, false⟩
    (fun _ _ n => [(ranges.any fun r => decide (n.nsze < r.lo + r.len), .lbaRange)])
    fun g ctx x nsx n =>
      (g.setCtx ctx { x with nsx := some nsx, keyslot := n.firstSlot nsx, mods := if x.sqe.deallocates then ranges else [] }).lockAndRoute ctx)

/-! ## Copy -/

/-- The source ranges of a Copy as spans that its context reads. -/
def CopySrc.span (r : CopySrc) (nsid : Nat) : Span :=
  ⟨if r.nsid = 0 ∨ r.nsid = nsid then r.slba else 2 ^ 48 * r.nsid + r.slba, r.len⟩

/-- The checks of one source range: its namespace attached, of one format with the destination, readable, and the range within it. -/
def State.sourceStatus (s : State) (inst nsid : Nat) (n : Ns) (r : CopySrc) : Option Status :=
  let id := if r.nsid = 0 then nsid else r.nsid
  match s.fl.attachedNs inst id with
  | none => some .invalidNs
  | some m =>
    if m.lbaf ≠ n.lbaf ∨ m.pit ≠ n.pit then some ⟨1, 0x85, Config.dnr 1 0x85⟩
    else if m.nsze < r.slba + r.len then some .lbaRange
    else s.rightsStatus (id - 1) m inst false false false

/-- COPY (R145): the destination starts at SLBA; MSSRL and MCL are 2 MiB of logical blocks each. -/
def execCopy (c : IoCmd) (srcs : List CopySrc) (s : State) : Host.Outcome State Fault Refusal :=
  let total := (srcs.map (·.len)).sum
  .next (s.onNs c .copy 0x19 .writes
    (fun x nsx n =>
      [ (x.sqe.stc || srcs.isEmpty || srcs.any (fun r => r.len == 0), .invalidField), ((n.keySlot nsx x.sqe).isNone, .invalidField),
        (decide (mdts < n.dataBytes total) || srcs.any (fun r => decide (mdts < n.dataBytes r.len)), ⟨1, 0x83, Config.dnr 1 0x83⟩),
        (decide (n.nsze < x.sqe.slba + total), .lbaRange) ])
    fun g ctx x nsx n =>
      match srcs.findSome? (g.sourceStatus c.inst c.q.nsid n) with
      | some st => g.fin ctx st
      | none =>
        let y : Ctx :=
          { x.blockFields nsx n with
            nlb := total - 1, rds := srcs.map fun r => r.span c.q.nsid, srcTags := srcs.map fun r => (r.ref, r.app, r.appMask) }
        g.placeWrite ctx y nsx n false)

/-! ## Flush -/

/-- The write sequence numbers that a Flush fetched now leaves out: recorded, their CQEs not yet posted; in its own ordered SQ those
before it are covered (R105). -/
def Qce.unposted (q : Qce) (x : Ctx) : List Nat :=
  (q.ctxs.filter fun e => e.2.kind.modifies && e.2.recorded && !(x.ord && e.2.ofSq x.inst x.sqid)).map fun e => e.2.wsn

/-- FLUSH (R105): of one namespace, or of every attached one. -/
def execFlush (c : IoCmd) (s : State) : Host.Outcome State Fault Refusal :=
  .next (s.io c .flush 0x00 fun g ctx x =>
    let all := Tab.keysWhere g.fl.ptx.nss fun _ n => n.attached.contains c.inst
    let named := if c.q.nsid = 0xFFFFFFFF then all else if (g.fl.attachedNs c.inst c.q.nsid).isSome then [c.q.nsid - 1] else []
    if c.q.nsid ≠ 0xFFFFFFFF ∧ named.isEmpty then g.fin ctx .invalidNs
    else if named.any (fun k => (g.resvOf k).conflict (g.hostOf c.inst) true) then g.fin ctx .conflict
    else
      let y : Ctx :=
        { x with
          nsx := if c.q.nsid = 0xFFFFFFFF then none else some (c.q.nsid - 1), nss := named, wsn := g.fl.ptx.wsn
          exempt := g.qce.unposted x, arrived := !g.fl.ptx.unp }
      (g.setCtx ctx y).route ctx)

/-! ## Zone management -/

/-- The action of a Zone Management Send (NVMe zoned namespaces). -/
def zoneActOf : Nat → Option ZoneAct
  | 1 => some .close | 2 => some .finish | 3 => some .open' | 4 => some .reset' | 5 => some .offline | _ => none

/-- ZONE_MANAGEMENT_SEND (R174, R178): states change at fetch; one entry covers the zone, or the namespace with Select All; blocks are
unmapped at the commit point. Set Zone Descriptor Extension and reserved actions are Invalid Field in Command. -/
def execZoneManagementSend (c : IoCmd) (s : State) : Host.Outcome State Fault Refusal :=
  .next (s.onNs c .zoneSend 0x79 ⟨true, true, false⟩
    (fun x _ n =>
      [ (!n.zoned, .invalidOpcode), ((zoneActOf x.sqe.zoneAction).isNone, .invalidField),
        (!x.sqe.selectAll && decide (n.nsze ≤ x.sqe.slba), .lbaRange),
        (!x.sqe.selectAll && n.zsze != 0 && x.sqe.slba % n.zsze != 0, .invalidField) ])
    fun g ctx x nsx n =>
      match zoneActOf x.sqe.zoneAction with
      | none => g.fin ctx .invalidField
      | some a =>
        let zs := n.actZones a (if x.sqe.selectAll then none else some (x.sqe.slba / n.zsze))
        let r := g.fl.zoneActs g.clock.now g.hours nsx a zs
        match r.2 with
        | some st => (g.withFl r.1).fin ctx st
        | none =>
          let span : Span := if x.sqe.selectAll then ⟨0, n.nsze⟩ else ⟨x.sqe.slba, n.zsze⟩
          let y : Ctx :=
            { x with
              nsx := some nsx, keyslot := n.firstSlot nsx, slba := if x.sqe.selectAll then 0 else x.sqe.slba, mods := [span]
              rds := if a.clears then zs.map fun z => ⟨z * n.zsze, n.zsze⟩ else [] }
          ((g.withFl r.1).setCtx ctx y).lockAndRoute ctx)

/-- The Report Zones data: zones that match, descriptors up to what the buffer holds; with Partial Report the count is of those returned. -/
def Ns.zoneReport (n : Ns) (z opt bytes : Nat) (part : Bool) : List Byte :=
  let zs := n.report z opt
  let fits := zs.take ((bytes - 64) / 64)
  fit bytes (leBytes 8 (if part then fits.length else zs.length) ++ zeros 56 ++ fits.flatMap fun e => zoneDesc n e.1 e.2)

/-- ZONE_MANAGEMENT_RECEIVE: Report Zones as of its own fetch (R174, R178). -/
def execZoneManagementReceive (c : IoCmd) (s : State) : Host.Outcome State Fault Refusal :=
  .next (s.onNs c .zoneRecv 0x7A .reads
    (fun x _ n =>
      [ (!n.zoned, .invalidOpcode), (x.sqe.zoneRecvAction != 0, .invalidField), (decide (7 < x.sqe.reportOption), .invalidField),
        (decide (n.nsze ≤ x.sqe.slba), .lbaRange) ])
    fun g ctx x nsx n =>
      g.endIn ctx x nsx [] (n.zoneReport (x.sqe.slba / n.zsze) x.sqe.reportOption ((x.sqe.cdw12 + 1) * 4) x.sqe.partial'))

/-! ## Purge Range -/

/-- PURGE_RANGE (R218, R219): in a zoned namespace every zone of the range but an Offline or Read Only one is reset at fetch. -/
def execPurgeRange (c : IoCmd) (s : State) : Host.Outcome State Fault Refusal :=
  let len := c.q.purgeNlb + 1
  .next (s.onNs c .purge 0x81 ⟨true, true, false⟩
    (fun x _ n =>
      [ (c.q.cdw13 != 0 || c.q.cdw14 != 0 || c.q.cdw15 != 0, .invalidField), (decide (n.nsze < x.sqe.slba + len), .lbaRange),
        (n.zoned && (x.sqe.slba % n.zsze != 0 || len % n.zsze != 0), .invalidField) ])
    fun g ctx x nsx n =>
      let zs := if n.zoned then (List.range (len / n.zsze)).map (· + x.sqe.slba / n.zsze) else []
      let live := zs.filter fun z => (n.zone z).st != .offline && (n.zone z).st != .readOnly
      let r := g.fl.zoneActs g.clock.now g.hours nsx .reset' live
      ((g.withFl r.1).setCtx ctx { x with nsx := some nsx, keyslot := n.firstSlot nsx, slba := x.sqe.slba, mods := [⟨x.sqe.slba, len⟩] }).lockAndRoute ctx)

/-! ## Parity Compute -/

/-- PARITY_COMPUTE (R287 to R292): the job waits in ADMITWAIT, without an entry and whatever its latency class. -/
def execParityCompute (c : IoCmd) (d : PcDesc) (s : State) : Host.Outcome State Fault Refusal :=
  .next (s.io c .parity 0x83 fun g ctx x =>
    let q := c.q
    if x.fab || !(g.fl.dip.regs.bit .dipPccfg 31) then g.fin ctx .invalidOpcode
    else if q.nsid + q.cdw10 + q.cdw11 + q.cdw12 + q.cdw13 + q.cdw14 + q.cdw15 ≠ 0 ∨ q.psdt ≠ 0 ∨ !d.ok then g.fin ctx .invalidField
    else if !d.aligned || q.dptr0 % 4096 != 0 then g.fin ctx (stat 0 0x13)
    else
      let job : PcJob := ⟨ctx, c.inst, x.fsn, d, g.clock.now, false⟩
      let f : Flash := { g.fl with dip := { g.fl.dip with pcJobs := Tab.set g.fl.dip.pcJobs ctx job } }
      { (g.withFl f).setCtx ctx { x with state := .admitwait, admitWaitAt := g.clock.now } with tas := g.tas.admitting c.inst })

/-! ## I/O Management (R184) -/

/-- IO_MANAGEMENT_SEND: Reclaim Unit Handle Update of some placement handle indexes of the namespace. -/
def execIoManagementSend (c : IoCmd) (handles : List Nat) (s : State) : Host.Outcome State Fault Refusal :=
  .next (s.onNs c .ioMgmt 0x1D ⟨true, false, false⟩
    (fun x _ n =>
      [ (natBits x.sqe.cdw10 7 0 != 1, .invalidField), (!s.fl.ptx.fdp, stat 0 0x29),
        (handles.any fun h => decide (n.handles.length ≤ h), .invalidField) ])
    fun g ctx x nsx n => g.endIn ctx x nsx (handles.map fun h => n.handles.getD h 0) [])

/-- The Reclaim Unit Handle Status data of a namespace: a descriptor of 32 bytes for each placement handle (NVMe base specification). -/
def Flash.handleStatus (f : Flash) (n : Ns) : List Byte :=
  let unit := (f.hw.desc (f.hw.channels.headD 0 * 32)).units false * 2097152 / n.blockBytes
  let one := fun (i h : Nat) =>
    let left := match Tab.get? f.ptx.filling (3072 + h) with
      | some k => match Tab.get? f.ptx.bands k with
        | some b => unit - b.placed * 2097152 / n.blockBytes
        | none => unit
      | none => unit
    leBytes 2 i ++ leBytes 2 h ++ leBytes 4 0 ++ leBytes 8 left ++ zeros 16
  zeros 14 ++ leBytes 2 n.handles.length ++ (n.handles.zipIdx).flatMap fun e => one e.2 e.1

/-- IO_MANAGEMENT_RECEIVE: Reclaim Unit Handle Status. -/
def execIoManagementReceive (c : IoCmd) (s : State) : Host.Outcome State Fault Refusal :=
  .next (s.onNs c .ioMgmt 0x12 .reads
    (fun x _ _ => [(natBits x.sqe.cdw10 7 0 != 1, .invalidField), (!s.fl.ptx.fdp, stat 0 0x29)])
    fun g ctx x nsx n => g.endIn ctx x nsx [] (fit ((x.sqe.cdw11 + 1) * 4) (g.fl.handleStatus n)))

end Sys2Proof.Machine
end

