-- ==== Sys2Proof/Machine/Ownership.lean ====
section
/-! DEFINITION. Who may write a namespace (R58 to R72): reservations, and the ownership lease. -/

namespace Sys2Proof.Machine

/-! ## Reservations. Their actions and notices follow the NVMe base specification (log entry 26). -/

def Status.preempted : Status := stat 0 0x1B

/-- The outcome of a reservation command as a status. -/
def ResvOutcome.status : ResvOutcome → Status
  | .ok => .success
  | .conflict => .conflict
  | .badField => .invalidField

/-- A reservation notification to one instance: its log page entry, and the event while the page had none. Types: 1 registration preempted,
2 reservation released, 3 reservation preempted; the mask of Feature 0x82 holds a type back. -/
def Qce.resvNote (q : Qce) (nsid type inst : Nat) : Qce :=
  match q.inst? inst with
  | none => q
  | some i =>
    if natBits (i.feature (0x82 + 256 * nsid) 0) type type = 1 then q
    else
      let g := q.updInst inst fun i =>
        { i with resvCount := i.resvCount + 1, resvLog := (i.resvLog ++ [(i.resvCount + 1, type, nsid)]).drop (i.resvLog.length + 1 - 64) }
      g.raise inst ⟨6, 0, 0x80⟩

/-- A notification to every instance of some hosts that has the namespace attached. -/
def State.resvNotes (s : State) (nsx type : Nat) (hosts : List Nat) : State :=
  match s.fl.ns? nsx with
  | none => s
  | some n =>
    let insts := n.attached.filter fun i => ((s.qce.inst? i).map fun x => hosts.contains x.hostId).getD false
    { s with qce := insts.foldl (fun (q : Qce) i => q.resvNote (nsx + 1) type i) s.qce }

/-- A namespace's reservation is set, with the notice of a release where one stood for registrants and stands no longer. -/
def State.setResv (s : State) (nsx host : Nat) (old new : Resv) : State :=
  let g : State := { s with hfu := { s.hfu with resv := Tab.set s.hfu.resv nsx new } }
  if 3 ≤ old.rtype ∧ new.rtype = 0 ∧ !new.regs.isEmpty then g.resvNotes nsx 2 ((new.regs.map (·.host)).filter (· ≠ host)) else g

/-- A reservation command: taken, its namespace attached, then handled; it changes the state at its own fetch (R59). -/
def State.resvCmd (s : State) (c : IoCmd) (opc : Nat) (go : State → Nat → Ctx → Nat → State) : State :=
  s.io c .resv opc fun g ctx x =>
    match g.fl.attachedNs c.inst c.q.nsid with
    | none => g.fin ctx .invalidNs
    | some _ => go g ctx x (c.q.nsid - 1)

/-- The end of a reservation command: refused, or on its way to its commit point (R88, R101). -/
def State.resvEnd (s : State) (c : Nat) (x : Ctx) (nsx : Nat) (reply : List Byte) (r : ResvOutcome) : State :=
  if r = .ok then s.endIn c x nsx [] reply else s.fin c r.status

/-- Persist Through Power Loss as CPTPL changes it. -/
def Resv.withPtpl (r : Resv) (cptpl : Nat) : Resv := if cptpl = 2 then { r with ptpl := false } else if cptpl = 3 then { r with ptpl := true } else r

/-- RESERVATION_REGISTER (R58, R59). -/
def execReservationRegister (c : IoCmd) (crkey nrkey : Nat) (s : State) : Host.Outcome State Fault Refusal :=
  .next (s.resvCmd c 0x0D fun g ctx x nsx =>
    let host := g.hostOf c.inst
    let old := g.resvOf nsx
    let r := old.register host c.inst x.sqe.resvAction crkey nrkey x.sqe.iekey
    let g := if r.2 = .ok then g.setResv nsx host old (r.1.withPtpl x.sqe.cptpl) else g
    g.resvEnd ctx x nsx [] r.2)

/-- Commands of preempted hosts that TAS has not admitted end (R60). -/
def State.abortHosts (s : State) (nsx : Nat) (hosts : List Nat) : State :=
  (Tab.keysWhere s.qce.ctxs fun _ x =>
    x.nsx == some nsx && !x.admitted && [CtxState.fetched, .lockwait, .admitwait].contains x.state && hosts.contains (s.hostOf x.inst)).foldl
    (fun (g : State) k => g.fin k .preempted) s

/-- RESERVATION_ACQUIRE (R58 to R60). -/
def execReservationAcquire (c : IoCmd) (crkey prkey : Nat) (s : State) : Host.Outcome State Fault Refusal :=
  .next (s.resvCmd c 0x11 fun g ctx x nsx =>
    let host := g.hostOf c.inst
    let old := g.resvOf nsx
    let r := old.acquire host x.sqe.resvAction x.sqe.resvType crkey prkey x.sqe.iekey
    let g := if r.2.1 = .ok then (g.setResv nsx host old r.1).resvNotes nsx 1 r.2.2 else g
    let g := if x.sqe.resvAction = 2 ∧ r.2.1 = .ok then g.abortHosts nsx r.2.2 else g
    g.resvEnd ctx x nsx [] r.2.1)

/-- RESERVATION_RELEASE (R58, R59): Clear tells the other registrants. -/
def execReservationRelease (c : IoCmd) (crkey : Nat) (s : State) : Host.Outcome State Fault Refusal :=
  .next (s.resvCmd c 0x15 fun g ctx x nsx =>
    let host := g.hostOf c.inst
    let old := g.resvOf nsx
    let r := old.release host x.sqe.resvAction x.sqe.resvType crkey x.sqe.iekey
    let g := if r.2 = .ok then g.setResv nsx host old r.1 else g
    let g := if r.2 = .ok ∧ x.sqe.resvAction = 1 then g.resvNotes nsx 3 ((old.regs.map (·.host)).filter (· ≠ host)) else g
    g.resvEnd ctx x nsx [] r.2)

/-- RESERVATION_REPORT (R58). -/
def execReservationReport (c : IoCmd) (s : State) : Host.Outcome State Fault Refusal :=
  .next (s.resvCmd c 0x0E fun g ctx x nsx =>
    g.resvEnd ctx x nsx (fit ((x.sqe.cdw10 + 1) * 4) ((g.resvOf nsx).report (natBits x.sqe.cdw11 0 0 == 1))) .ok)

/-! ## The ownership lease (R65 to R71) -/

def Status.leaseHeld : Status := ⟨7, 0x80, false⟩
def Status.leaseHoldoff : Status := ⟨7, 0x82, false⟩
def Status.hostIdRequired : Status := ⟨7, 0x83, true⟩
def Status.notOwner : Status := ⟨7, 0x84, false⟩
def Status.leaseField : Status := ⟨0, 0x02, true⟩
def Status.leaseNs : Status := ⟨0, 0x0B, true⟩

/-- The status of a verdict. -/
def LeaseVerdict.status : LeaseVerdict → Status
  | .ok => .success
  | .held => .leaseHeld
  | .holdoff => .leaseHoldoff
  | .notOwner => .notOwner

/-- The namespaces that a lease command names (R65, R67, R68). -/
def State.leaseTargets (s : State) (x : Ctx) : Except Status (List Nat) :=
  if x.sqe.nsid = 0xFFFFFFFF then
    let ks := Tab.keysWhere s.fl.ptx.nss fun k _ => (s.callerNs x (k + 1)).isSome && (s.leaseOf k).guarded
    if ks.isEmpty then .error .leaseField else .ok ks
  else
    match s.callerNs x x.sqe.nsid with
    | none => .error .leaseNs
    | some _ => if (s.leaseOf (x.sqe.nsid - 1)).guarded then .ok [x.sqe.nsid - 1] else .error .leaseField

/-- Remaining hold-off in ms. -/
def State.holdoffLeft (s : State) : Nat :=
  match s.hfu.holdoff with
  | some t => (t - s.clock.lease) / 10000
  | none => 0

/-- DW1: the generation of the lowest-numbered namespace, and whether the caller owns them all (R65, R67). -/
def leaseDw1 (host : Nat) (ls : List Lease) : Nat :=
  ((ls.head?).map (·.gen)).getD 0 % 2 ^ 31 * 2 + b2n (decide (host ≠ 0) && ls.all fun l => l.owner == some host)

/-- The smallest of some numbers. -/
def least (d : Nat) : List Nat → Nat
  | [] => d
  | x :: xs => xs.foldl min x

/-- A lease action on some namespaces: all, or none (R66, R67). DW0 of status 0x84, and of 0x83, is 0 (DESIGN CHOICE, log entry 203). -/
def State.lease (s : State) (c : Nat) (x : Ctx) (host : Nat) (ks : List Nat) : State :=
  let act := x.sqe.cdw10 % 16
  let dur := grantMs (s.hfu.regs.fld .hfuLeasecfg 15 0) (s.hfu.regs.fld .hfuLeasecfg 31 16) x.sqe.cdw11
  let rs := ks.map fun k => (k, s.leaseOf k, (s.leaseOf k).act s.hfu.holdoff.isSome s.clock.lease host act dur)
  let olds := rs.map fun r => r.2.1
  match rs.find? fun r => r.2.2.2 != .ok with
  | some r =>
    let dw0 := match r.2.2.2 with
      | .held => (olds.map fun l => l.remaining s.clock.lease).foldl max 0
      | .holdoff => s.holdoffLeft
      | _ => 0
    s.finWith c r.2.2.2.status dw0 (leaseDw1 host olds)
  | none =>
    let news := rs.map fun r => r.2.2.1
    let dw0 := if act = 0 then least 0 (olds.map fun l => l.remaining s.clock.lease) else if act = 3 then 0 else dur
    let changed := (rs.filter fun r => r.2.2.1.gen != r.2.1.gen).map fun r => (r.1, r.2.2.1.gen)
    let g : State := { s with hfu := { s.hfu with leases := rs.foldl (fun (t : Tab Lease) r => Tab.set t r.1 r.2.2.1) s.hfu.leases } }
    if changed.isEmpty then g.finWith c .success dw0 (leaseDw1 host news)
    else
      let p := g.fl.ptx.logLeases g.clock.now changed
      (g.withFl { g.fl with ptx := p.1 }).finDurable c .success dw0 (leaseDw1 host news) p.2

/-- OWNERSHIP_LEASE (R65 to R71): decided at its fetch, during a handover too (R106). -/
def execOwnershipLease (a : AdminCmd) (s : State) : Host.Outcome State Fault Refusal :=
  .next (s.adminNow a 0xC8 .every true true fun g c x =>
    if 3 < x.sqe.cdw10 % 16 then g.fin c .leaseField
    else
      match g.leaseTargets x with
      | .error st => g.fin c st
      | .ok ks =>
        let host := g.callerHost x
        if host = 0 ∧ x.sqe.cdw10 % 16 ≠ 0 then g.finWith c .hostIdRequired 0 (leaseDw1 host (ks.map g.leaseOf)) else g.lease c x host ks)

/-- LEASE_HOLDOFF_END: MAXDUR has passed on the lease clock since device ready (R70). -/
def execLeaseHoldoffEnd (s : State) : Host.Outcome State Fault Refusal :=
  .next (s.whenRuns fun s =>
    match s.hfu.holdoff with
    | none => s
    | some t =>
      let g := s.until' (s.clock.now + (t - s.clock.lease))
      if t ≤ g.clock.lease then { g with hfu := { g.hfu with holdoff := none } } else s)

end Sys2Proof.Machine
end

