-- ==== Sys2Proof/Machine/Security.lean ====
section
/-! DEFINITION. SEC's commands: SPDM (R357, R358), boot records (R353, R355), the Seal engine (R364, R368 to R370), key slots (R365), alarms and
debug unlock (R371 to R373), and the security commands of hosts: Security Send and Receive (R363), Format NVM (R376) and Sanitize (R375, R377). -/

namespace Sys2Proof.Machine

/-! ## SPDM -/

/-- The sideband's balls are not claimed by the debug port (R455). -/
def State.sideband (s : State) : Bool := s.up && !(s.straps.testBit 6 && s.sec.debugUnlocked)

/-- A transport endpoint that is there: the DOE of a PF, the Security Send of an instance, or the sideband (R357). -/
def State.spdmEndpoint (s : State) (ep : Nat) : Bool :=
  if 4096 ≤ ep then s.sideband
  else
    match s.qce.inst? (ep / 2) with
    | some i => ep % 2 == 1 || i.pf && !i.eth
    | none => false

/-- An endpoint's answer: given by the Cameleer, which neither the safe state nor a device recovery leaves running. -/
def State.spdmServed (s : State) (ep : Nat) (f : State → State) : Host.Outcome State Fault Refusal :=
  .next (if s.runs && !s.fetchPaused && s.spdmEndpoint ep then f s else s)

/-- An SPDM request is answered (R357, R358). -/
def State.spdmAsk (s : State) (ep : Nat) (q : SpdmReq) : Host.Outcome State Fault Refusal :=
  s.spdmServed ep fun s =>
    let r := s.sec.spdmAt (newestRecord s.fev.bootRecords) ep q
    ({ s with sec := r.1 }).emit (.spdm ep r.2)

/-- GET_VERSION (R357). -/
def execGetVersion (ep : Nat) (s : State) : Host.Outcome State Fault Refusal := s.spdmAsk ep .getVersion

/-- GET_CAPABILITIES (R357). -/
def execGetCapabilities (ep version maxSize : Nat) (s : State) : Host.Outcome State Fault Refusal := s.spdmAsk ep (.getCapabilities version maxSize)

/-- NEGOTIATE_ALGORITHMS (R357). -/
def execNegotiateAlgorithms (ep : Nat) (p384 sha384 : Bool) (s : State) : Host.Outcome State Fault Refusal :=
  s.spdmAsk ep (.negotiate p384 sha384)

/-- GET_DIGESTS (R358). -/
def execGetDigests (ep : Nat) (s : State) : Host.Outcome State Fault Refusal := s.spdmAsk ep .getDigests

/-- GET_CERTIFICATE (R358). -/
def execGetCertificate (ep slot offset len : Nat) (s : State) : Host.Outcome State Fault Refusal := s.spdmAsk ep (.getCertificate slot offset len)

/-- CHALLENGE (R358). -/
def execChallenge (ep slot : Nat) (s : State) : Host.Outcome State Fault Refusal := s.spdmAsk ep (.challenge slot)

/-- GET_MEASUREMENTS (R358). -/
def execGetMeasurements (ep index : Nat) (signed : Bool) (s : State) : Host.Outcome State Fault Refusal := s.spdmAsk ep (.getMeasurements index signed)

/-- CHUNK_GET (R357). -/
def execChunkGet (ep handle seq : Nat) (s : State) : Host.Outcome State Fault Refusal :=
  s.spdmServed ep fun s =>
    let r := s.sec.chunkGet ep handle seq
    ({ s with sec := r.1 }).emit (.spdm ep r.2)

/-- CHUNK_SEND (R357). -/
def execChunkSend (ep handle seq : Nat) (last : Bool) (part : List Byte) (spelled : SpdmReq) (s : State) : Host.Outcome State Fault Refusal :=
  s.spdmServed ep fun s =>
    let r := s.sec.chunkSend (newestRecord s.fev.bootRecords) ep handle seq last part spelled
    ({ s with sec := r.1 }).emits (r.2.map fun a => .spdm ep a)

/-! ## Boot records -/

/-- FIN: SEC starts to build the record (R353); in a hot activation this is its record phase (R405). -/
def State.brFin (s : State) (v : W32) : State :=
  if v.bits 31 31 = 1 then
    let sec := s.sec.finish s.fev.bootRecords s.stamp s.mgc.cal.serial
    let act := s.mgc.act.map fun a => if a.phase = .handover ∧ sec.building.isSome then { a with phase := .record } else a
    { s with sec := sec, mgc := { s.mgc with act := act } }
  else s

/-- SEC_BRCTL_FIN (R353). -/
def execSecBrctlFin (r : Requester) (s : State) : Host.Outcome State Fault Refusal :=
  .next (s.csrWrite r .secBrctl 0x80000000 fun s => s.brFin 0x80000000)

/-- The retained record that SEL names (R355): 0 the newest, 1 that of a BOOTSEQ, 2 the oldest, 3 the oldest above a BOOTSEQ. -/
def pickRecord (rs : List (Nat × List Byte)) (sel seq : Nat) : Option (Nat × List Byte) :=
  match sel with
  | 0 => newestRecord rs
  | 1 => rs.find? fun r => r.1 == seq
  | 2 => leastBy (fun r : Nat × List Byte => r.1) rs
  | _ => leastBy (fun r : Nat × List Byte => r.1) (rs.filter fun r => decide (seq < r.1))

def Status.notRetained : Status := ⟨7, 0x90, true⟩

/-- BOOT_RECORD_FETCH (R355). -/
def execBootRecordFetch (a : AdminCmd) (s : State) : Host.Outcome State Fault Refusal :=
  .next (s.admin a 0xCA .every true true fun g c x =>
    match pickRecord g.fev.bootRecords (x.sqe.cdw10 % 4) (x.sqe.cdw11 + 2 ^ 32 * x.sqe.cdw12) with
    | none => g.fin c .notRetained
    | some (seq, bs) =>
      (g.emit (.data c (fit 4096 bs))).finWith c .success (leNat (slice bs 6 2) + 65536 * leNat (slice bs 5 1)) (seq % 2 ^ 32))

/-! ## The Seal engine and key slots -/

/-- The NSID and key tag of a pool slot (R363). -/
def Ptx.poolTarget (p : Ptx) (slot : Nat) : Option (Nat × Nat) :=
  p.nss.findSome? fun e => match e.2.kpio with
    | some (base, nkt) => if base ≤ slot ∧ slot < base + nkt then some (e.1 + 1, slot - base) else none
    | none => none

/-- What a write to SEC_SEALCTL starts (R368, R370). -/
def State.sealGo (s : State) (v : W32) : State :=
  if v.bits 31 31 = 0 ∨ s.sec.run.isSome then s
  else
    let slot := s.sec.regs.fld .secSealctl 15 0
    let live := s.liveOn slot s.qce.fsn
    match s.sec.regs.fld .secSealctl 24 22 with
    | 0 => { s with sec := s.sec.sealGcm }
    | 1 => { s with sec := s.sec.sealKeygen slot s.qce.fsn live }
    | 2 => { s with sec := s.sec.sealUnwrap slot s.qce.fsn live }
    | 3 =>
      let r := s.sec.sealInject slot s.qce.fsn live (s.fl.ptx.poolTarget slot)
      ({ s with sec := r.1 }).reports r.2
    | 4 => { s with sec := s.sec.sealClear slot s.qce.fsn live }
    | _ => { s with sec := s.sec.sealErr }

/-- A write to SEC_SEALCTL with GO and an operation. -/
def State.sealOp (s : State) (r : Requester) (v : W32) (op : Nat) : State :=
  let w := (v.setBits 24 22 op).setBits 31 31 1
  s.csrWrite r .secSealctl w fun s => s.sealGo w

/-- SEAL_GCM: OP 0 (R370). -/
def execSealGcm (r : Requester) (v : W32) (s : State) : Host.Outcome State Fault Refusal := .next (s.sealOp r v 0)

/-- SEAL_KEYGEN: OP 1 (R368). -/
def execSealKeygen (r : Requester) (v : W32) (s : State) : Host.Outcome State Fault Refusal := .next (s.sealOp r v 1)

/-- SEAL_UNWRAP: OP 2 (R368, R369). -/
def execSealUnwrap (r : Requester) (v : W32) (s : State) : Host.Outcome State Fault Refusal := .next (s.sealOp r v 2)

/-- SEAL_INJECT: OP 3 (R364, R368). -/
def execSealInject (r : Requester) (v : W32) (s : State) : Host.Outcome State Fault Refusal := .next (s.sealOp r v 3)

/-- SEAL_CLEAR: OP 4 (R368). -/
def execSealClear (r : Requester) (v : W32) (s : State) : Host.Outcome State Fault Refusal := .next (s.sealOp r v 4)

/-- SEAL_DONE (R370). -/
def execSealDone (s : State) : Host.Outcome State Fault Refusal := .next { s with sec := s.sec.sealDone }

/-- What a write to SEC_SEALLOCK does beside KLOCK: KCLR, ignored while KLOCK was set (R370). -/
def State.sealLock (s : State) (locked : Bool) (v : W32) : State :=
  if v.bits 1 1 = 1 ∧ !locked then { s with sec := { s.sec with skey := [] } } else s

/-- SEC_SEALLOCK_KCLR (R370). -/
def execSecSeallockKclr (r : Requester) (s : State) : Host.Outcome State Fault Refusal :=
  .next (s.csrWrite r .secSeallock 2 fun g => g.sealLock (s.sec.regs.bit .secSeallock 0) 2)

/-- SEC_SEALLOCK_KLOCK (R370, R491). -/
def execSecSeallockKlock (r : Requester) (s : State) : Host.Outcome State Fault Refusal := .next (s.csrWrite r .secSeallock 1 id)

/-- KEY_SLOT_CHANGE_APPLY: no live context fetched before the oldest change of the slot names it any more (R365). -/
def execKeySlotChangeApply (slot : Nat) (s : State) : Host.Outcome State Fault Refusal :=
  .next (
    match s.sec.changes.find? fun x => x.slot == slot with
    | some x => if s.liveOn slot x.fsn = 0 then ({ s with sec := s.sec.applyChange slot }).settle else s
    | none => s)

/-! ## Alarms and debug unlock -/

/-- An alarm of R371: it is latched, zeroization runs, and a U-class fault is raised (R372). -/
def State.alarm (s : State) (n : Nat) : State :=
  if s.up then
    let g : State := { s with sec := s.sec.alarm n }
    g.report (mkReport 0x08 0x05 0 0 g.sec.alarmstat.toNat 0 0)
  else s

/-- SUPPLY_GLITCH_ALARM (R371, R372). -/
def execSupplyGlitchAlarm (s : State) : Host.Outcome State Fault Refusal := .next (s.alarm 0)

/-- CLOCK_ALARM (R371, R372). -/
def execClockAlarm (s : State) : Host.Outcome State Fault Refusal := .next (s.alarm 1)

/-- ROUND_CHECK_ALARM (R371, R372). -/
def execRoundCheckAlarm (s : State) : Host.Outcome State Fault Refusal := .next (s.alarm 2)

/-- DEBUG_UNLOCK: the keys are erased before access opens, without a fault (R371 to R373). Where STRAP_DBGSEL was sampled, the sideband is silent
from then on and a running Ahnah task ends without a result (R455). -/
def execDebugUnlock (s : State) : Host.Outcome State Fault Refusal :=
  .next (
    if s.up && !s.sec.debugUnlocked then
      let g : State := { s with sec := { s.sec.alarm 3 with debugUnlocked := true } }
      let ah : Ahnah := { g.mgc.ah with busy := none }
      let g : State := if s.straps.testBit 6 then { g with mgc := { g.mgc with ah := ah } } else g
      g.report (mkReport 0x08 0x06 0 0 0 0 0)
    else s)

/-! ## Security Send and Receive -/

/-- The lowest block of contiguous pool slots that no namespace holds (R363). -/
def Ptx.freePool (p : Ptx) (nkt : Nat) : Option Nat :=
  let used := p.nss.filterMap fun e => e.2.kpio
  ((nsSlots :: used.map fun u => u.1 + u.2).foldr (insertBy fun a b => decide (a ≤ b)) []).find? fun b =>
    decide (b + nkt ≤ keySlots) && used.all fun u => decide (b + nkt ≤ u.1 ∨ u.1 + u.2 ≤ b)

/-- A failure in the SSC's manner (R363, R364, log entry 49). -/
def Status.ssc (reason : Nat) : Status := stat (Config.sscStatus reason).1 (Config.sscStatus reason).2

/-- The key slots of a namespace's block are emptied. -/
def State.clearBlock (s : State) (fsn : Nat) (k : Option (Nat × Nat)) : State :=
  match k with
  | some (base, nkt) =>
    { s with sec := (List.range nkt).foldl (fun (c : Sec) i => c.change (base + i) none fsn (s.liveOn (base + i) fsn) false) s.sec }
  | none => s

/-- Key Per I/O is set for a namespace. -/
def State.setKpio (s : State) (nsx : Nat) (k : Option (Nat × Nat)) : State :=
  s.withFl { s.fl with ptx := { s.fl.ptx with nss := Tab.upd s.fl.ptx.nss nsx fun n => { n with kpio := k } } }

/-- The Key Per I/O SSC is offered (SEC_CFG.KPIOEN). -/
def State.kpioOn (s : State) : Bool := s.sec.regs.bit .secCfg 0

/-- Enabling gives a namespace a block of pool slots; one that it held before is given back (R363). -/
def State.kpioEnable (s : State) (c : Nat) (x : Ctx) (nsx nkt : Nat) (n : Ns) : State :=
  let g := (s.clearBlock x.fsn n.kpio).setKpio nsx none
  if nkt < 1 ∨ 1024 < nkt then s.fin c .invalidField
  else
    match g.fl.ptx.freePool nkt with
    | some base => (g.setKpio nsx (some (base, nkt))).fin c .success
    | none => s.fin c (.ssc 0)

/-- A host's key for a key tag (R364): a blob that loads nothing fails, with an event. -/
def State.injectKey (s : State) (c : Nat) (x : Ctx) (nsid tag : Nat) (blob : List Byte) (n : Ns) : State :=
  let target := match n.kpio with
    | some (_, nkt) => if tag < nkt then some (nsid, tag) else none
    | none => none
  let slot := ((n.kpio).map (·.1)).getD 0 + tag
  if s.sec.noKeys then s.fin c (.ssc 1)
  else
    match if blob.length = 204 then s.sec.injection blob target else none with
    | some k => ({ s with sec := s.sec.change slot (some k) x.fsn (s.liveOn slot x.fsn) false }).fin c .success
    | none => (s.report (mkReport 0x08 0x02 13 slot 0 0 0)).fin c (.ssc 1)

/-- SECURITY_SEND (R357, R363, R364): SPDM's answer waits for Security Receive. -/
def execSecuritySend (a : AdminCmd) (p : SecPayload) (s : State) : Host.Outcome State Fault Refusal :=
  .next (s.admin a 0x81 .every true false fun g c x =>
    let onNs := fun (nsid : Nat) (f : Ns → State) =>
      if !g.kpioOn then g.fin c .invalidField
      else
        match g.callerNs x nsid with
        | some n => f n
        | none => g.fin c .invalidNs
    match p with
    | .spdm q =>
      let ep := if x.side && x.inst == 0xFFFF then 4097 else 2 * x.inst + 1
      let r := g.sec.spdmAt (newestRecord g.fev.bootRecords) ep q
      ({ g with sec := { r.1 with endpoints := Tab.upd r.1.endpoints ep fun e => { e with waiting := some r.2 } } }).fin c .success
    | .kpioEnable nsid nkt => onNs nsid fun n => g.kpioEnable c x (nsid - 1) nkt n
    | .kpioDisable nsid => onNs nsid fun n => ((g.clearBlock x.fsn n.kpio).setKpio (nsid - 1) none).fin c .success
    | .inject nsid tag blob => onNs nsid fun n => g.injectKey c x nsid tag blob n
    | .other => g.fin c .invalidField)

/-- SECURITY_RECEIVE (R357, R363). -/
def execSecurityReceive (a : AdminCmd) (p : SecQuery) (s : State) : Host.Outcome State Fault Refusal :=
  .next (s.admin a 0x82 .every true true fun g c x =>
    match p with
    | .spdm =>
      let ep := if x.side && x.inst == 0xFFFF then 4097 else 2 * x.inst + 1
      match (Tab.get? g.sec.endpoints ep).bind (·.waiting) with
      | some r =>
        let sec : Sec := { g.sec with endpoints := Tab.upd g.sec.endpoints ep fun e => { e with waiting := none } }
        (({ g with sec := sec }).emit (.spdm ep r)).fin c .success
      | none => g.fin c .sequenceError
    | .discovery => (g.emit (.data c (fit x.sqe.cdw11 (Config.discovery g.kpioOn)))).fin c .success
    | .other => g.fin c .invalidField)

/-! ## Format NVM and Sanitize -/

/-- The rights of an admin command that changes a namespace: reservation, lease, write protection (R61, R64). -/
def State.adminRights (s : State) (x : Ctx) (k : Nat) (n : Ns) : Option Status :=
  if (s.resvOf k).conflict (s.callerHost x) true then some .conflict
  else if !((s.leaseOf k).permits s.clock.lease (s.callerHost x)) then some .leaseRequired
  else if n.wprot ≠ 0 then some .writeProtected
  else none

/-- The format that CDW10 names is one of R163, with a protection type that it can carry. -/
def Sqe.fmtOk (q : Sqe) : Bool := decide (q.fmtLbaf ≤ 4 ∧ q.fmtPi ≤ 3) && (decide (2 ≤ q.fmtLbaf) || q.fmtPi == 0)

/-- The namespaces that a command acts on: the one it names, or with NSID 0xFFFFFFFF every one its caller sees. -/
def State.namedNs (s : State) (x : Ctx) : List Nat :=
  if x.sqe.nsid = 0xFFFFFFFF then Tab.keysWhere s.fl.ptx.nss fun k _ => (s.callerNs x (k + 1)).isSome
  else if (s.callerNs x x.sqe.nsid).isSome then [x.sqe.nsid - 1] else []

/-- FORMAT_NVM (R61, R64, R113, R168, R376): its entries cover the namespaces; what it does follows once it may (State.actOnNs). -/
def execFormatNvm (a : AdminCmd) (s : State) : Host.Outcome State Fault Refusal :=
  .next (s.admin a 0x80 .pf true false fun g c x =>
    let ks := g.namedNs x
    if x.sqe.nsid ≠ 0xFFFFFFFF ∧ ks.isEmpty then g.fin c .invalidNs
    else if 2 < x.sqe.ses then g.fin c .invalidField
    else if !x.sqe.fmtOk then g.fin c (stat 1 0x0A)
    else
      match ks.findSome? fun k => (g.fl.ns? k).bind fun n => g.adminRights x k n with
      | some st => g.fin c st
      | none =>
        match g.fl.formatReserve g.mapRegion c x.sqe ks with
        | .error st => g.fin c st
        | .ok f => ((g.withFl f).setCtx c { x with nss := ks, arrived := true }).lockAndRoute c)

/-- The action of a Sanitize (R375). -/
def sanActOf : Nat → Option SanAction
  | 1 => some .exitFailure | 2 => some .block | 3 => some .overwrite | 4 => some .crypto | _ => none

/-- Another host holds an unexpired lease on a lease-guarded namespace (R61). -/
def State.leasedByOther (s : State) (host : Nat) : Bool :=
  s.hfu.leases.any fun e => e.2.guarded && e.2.unexpired s.clock.lease && e.2.owner.isSome && e.2.owner != some host

/-- A sanitize begins at its fetch: admission stops, and what TAS has not admitted completes with Sanitize In Progress (R377). -/
def State.sanitizeFetch (s : State) (c : Nat) (x : Ctx) (act : SanAction) : State :=
  let z : Sanitize := ⟨act, x.inst, x.sqe.ause, x.sqe.passes, x.sqe.cdw11, x.sqe.oipbp, false⟩
  let sec : Sec :=
    { s.sec with
      sanitize := some z, sanStatus := 2, sanCdw10 := x.sqe.cdw10, sanProgress := 0, passesDone := 0
      lastPasses := if act = .overwrite then x.sqe.passes else s.sec.lastPasses }
  let g : State := { s with sec := sec }
  let jobRuns := fun (k : Nat) => ((Tab.get? g.fl.dip.pcJobs k).map (·.running)).getD false
  let waiting := Tab.keysWhere g.qce.ctxs fun k y => y.kind != .admin && !y.admitted && y.open' && !(y.kind == .parity && jobRuns k)
  let g := waiting.foldl (fun (g : State) k => g.fin k .sanitizing) g
  (g.setCtx c { x with nss := g.fl.ptx.nss.map Prod.fst, arrived := true }).lockAndRoute c

/-- SANITIZE (R61, R375 to R377). After a failure in restricted completion mode only a restricted Sanitize is taken (PRESUMED, log entry
26). -/
def execSanitize (a : AdminCmd) (s : State) : Host.Outcome State Fault Refusal :=
  .next (s.admin a 0x84 .pf true true fun g c x =>
    match sanActOf x.sqe.sanact with
    | none => g.fin c .invalidField
    | some act =>
      if x.sqe.ndas || (act == .overwrite && x.sqe.oipbp && x.sqe.passes == 1) then g.fin c .invalidField
      else if g.sec.sanitize.isSome then g.fin c .sanitizing
      else if g.leasedByOther (g.callerHost x) then g.fin c .leaseHeld
      else if act = .exitFailure then
        if g.sec.sanStatus = 3 then
          if g.sec.sanFailUse then ({ g with sec := { g.sec with sanStatus := 0 } }).fin c .success else g.fin c .sanitizeFailed
        else g.fin c .success
      else if g.sec.sanStatus = 3 ∧ !g.sec.sanFailUse ∧ x.sqe.ause then g.fin c .sanitizeFailed
      else if act = .crypto ∧ g.fl.hostKeyed then g.fin c .eraseIneffective
      else g.sanitizeFetch c x act)

/-- What the action has left of the flash side (R375): crypto erase is the keys' alone, an overwrite erases once more than it has passes. -/
def Flash.sanitized (f : Flash) (z : Sanitize) (ok : Bool) : Flash :=
  match z.action with
  | .block => if ok then f.eraseAll 1 else f
  | .overwrite => if ok then f.eraseAll (z.passes + 1) else f
  | _ => f

/-- SANITIZE_COMPLETE (R375, R377): the action ends, and its event is raised. -/
def execSanitizeComplete (ok : Bool) (s : State) : Host.Outcome State Fault Refusal :=
  .next (s.whenRuns fun s =>
    let g := s.sanitizeStart
    match g.sec.sanitize with
    | none => g
    | some z =>
      if !z.started then g
      else
        let sec : Sec :=
          { g.sec with
            sanitize := none, sanStatus := if ok then 1 else 3, sanProgress := 65535, sanFailUse := z.ause
            passesDone := if z.action = .overwrite ∧ ok then z.passes else g.sec.passesDone }
        (({ g with fl := g.fl.sanitized z ok, sec := sec }).notify z.inst ⟨6, 0x01, 0x81⟩).settle.warn)

end Sys2Proof.Machine
end

