-- ==== Sys2Proof/Machine/Tenants.lean ====
section
/-! DEFINITION. Tenant arbitration as time passes (R147, R149, R277, R433), and the share registers (R155, R157). -/

namespace Sys2Proof.Machine

/-- The refills of the throttle's caps in bytes per epoch, while it is ACTIVE (R433). -/
def Ptm.capRefills (p : Ptm) : Option (Nat × Nat) :=
  match p.throttle with
  | .none => none
  | _ => some ((p.fw * (p.rw0 : Rat) / 10000).floor.toNat, (p.fr * (p.rr0 : Rat) / 10000).floor.toNat)

/-- Reads admitted in the ending epoch are covered only if their instance was within its share in that epoch too (R307). -/
def Qce.epochJudged (q : Qce) (tas : Tas) (ending : Nat) : Qce :=
  { q with
    ctxs := q.ctxs.map fun e =>
      (e.1, if e.2.admitted && e.2.admitEpoch == ending then
          { e.2 with inShare := e.2.inShare && ((Tab.get? tas.insts e.2.inst).map (·.within)).getD true }
        else e.2) }

/-- EPOCHS and EPINSH of log page 0xC3 (R313): the epoch that has ended counts for every instance and for the device. -/
def Tas.countEpoch (a : Tas) : Tas :=
  { a with insts := Tab.mapVals a.insts fun _ t => { t with hist := if t.within then addTo (addTo t.hist 16 1) 24 1 else addTo t.hist 16 1 } }

/-- Queues whose class the share in force no longer holds move to LCDEF (R151). -/
def Qce.reclass (q : Qce) (tas : Tas) : Qce :=
  { q with sqs := q.sqs.map fun e => match Tab.get? tas.insts (e.1 / 512) with
      | some t => (e.1, if t.cur.lcmask.testBit e.2.lc then e.2 else { e.2 with lc := t.cur.lcdef })
      | none => e }

/-- Instances that stand in ADMITWAIT as an epoch begins (R161). -/
def Tas.markActive (a : Tas) (inside : List Nat) : Tas :=
  { a with insts := Tab.mapVals a.insts fun k t => { t with active := inside.contains k } }

/-- An epoch boundary (R147), with the waits of R296 and the Mirage bucket (R277). -/
def State.epochBoundary (s : State) : State :=
  let waiters := s.qce.waiters
  let ended := s.tas.epoch != 0
  let judged := s.tas.boundary (fun i => waiters.contains i) s.ptm.capRefills
  let inside := distinct ((s.qce.ctxs.filter fun e => e.2.state == .admitwait && !e.2.detached).map fun e => e.2.inst)
  let tas := (if ended then judged.countEpoch else judged).markActive inside
  let q := (s.qce.epochJudged tas s.tas.epoch).reclass tas
  { s with
    tas := tas
    qce := (Tab.keysWhere tas.insts fun _ _ => true).foldl (fun (q : Qce) i => q.judgeShut tas s.clock.now i) q
    fl := s.fl.refillMirage
    hist := if ended then addTo (addTo s.hist 16 1) 24 1 else s.hist }

/-- TAS_EPOCH_BOUNDARY: every 100 µs from device ready (R147). -/
def execTasEpochBoundary (s : State) : Host.Outcome State Fault Refusal :=
  .next (s.whenRuns fun s => (s.until' (s.mgc.readyAt + s.tas.epoch * 1000)).epochBoundary)

/-- What a write to TAS_SHCMD does: LOAD, then STAGE (R157). -/
def State.shareCmd (s : State) (v : W32) : State :=
  let a := if v.bits 1 1 = 1 then s.tas.load else s.tas
  { s with tas := if v.bits 0 0 = 1 then a.stageRegs else a }

/-- TAS_SHCMD_LOAD (R157). -/
def execTasShcmdLoad (r : Requester) (s : State) : Host.Outcome State Fault Refusal :=
  .next (s.csrWrite r .tasShcmd 2 fun g => g.shareCmd 2)

/-- TAS_SHCMD_STAGE (R155, R157). -/
def execTasShcmdStage (r : Requester) (s : State) : Host.Outcome State Fault Refusal :=
  .next (s.csrWrite r .tasShcmd 1 fun g => g.shareCmd 1)

end Sys2Proof.Machine
end

