-- ==== Sys2Proof/Machine/Features.lean ====
section
/-! DEFINITION. Set Features and Get Features (R76, R96, R499) with the features that other chapters define (R61, R92, R100, R103, R151, R156,
R183, R187, R255). The fields of standard features are the NVMe base specification's (PRESUMED, log entry 26). -/

namespace Sys2Proof.Machine

/-! ## What features there are -/

/-- The identifiers of R96 and R499. -/
def fids : List Nat :=
  [0x01, 0x02, 0x04, 0x05, 0x06, 0x07, 0x08, 0x09, 0x0A, 0x0B, 0x0E, 0x0F, 0x1D, 0x1E, 0x81, 0x82, 0x83, 0x84, 0xD0, 0xD1, 0xD2, 0xD3, 0xD4, 0xD5, 0xD6]

/-- Features of a namespace; of them, those that a host sets for one namespace or for all. -/
def nsFids : List Nat := [0x05, 0x1E, 0x82, 0x83, 0x84, 0xD0, 0xD5, 0xD6]

/-- Features that no instance keeps: the sideband reaches them without a controller (R410). -/
def deviceFids : List Nat := [0x05, 0x1D, 0x1E, 0x83, 0x84, 0xD0, 0xD4, 0xD5, 0xD6]

def Status.notSaveable : Status := stat 1 0x0D
def Status.notChangeable : Status := stat 1 0x0E
def Status.fdpDisabled : Status := stat 0 0x29

/-- The number that a Set Features structure carries, and its bytes. -/
def FeatureData.num : FeatureData → Nat
  | .none' => 0
  | .number v => v
  | .bytes b => leNat b
def FeatureData.list : FeatureData → List Byte
  | .bytes b => b
  | _ => []

/-- A PF on PCIe, or the sideband, which runs as one (R410). -/
def State.asPf (s : State) (x : Ctx) : Bool := x.side || ((s.qce.inst? x.inst).map fun i => i.pf && !i.eth).getD false

/-- An instance of the caller's port; over the sideband without a controller, any. -/
def State.ofPort (s : State) (x : Ctx) (inst : Nat) : Bool :=
  match s.qce.inst? x.inst with
  | some i => decide ((s.hfu.range i.port).1 ≤ inst ∧ inst < (s.hfu.range i.port).1 + (s.hfu.range i.port).2)
  | none => x.side

/-- The instance's allotment less 1, in both halves (R76). -/
def Inst.numQueues (i : Inst) : Nat := (i.allot + 65535) % 65536 * 65537

/-! ## Setting -/

/-- A value that an instance keeps. -/
def State.setKept (s : State) (c : Nat) (x : Ctx) (key v : Nat) : State :=
  ({ s with qce := s.qce.updInst x.inst fun i => { i with features := Tab.set i.features key v } }).fin c .success

/-- A vector of a PCIe instance is changed (R92). A Set of feature 0xD1 with EN = 0 keeps neither THR nor TIME, and Get returns 0 for both then (DESIGN
CHOICE, log entry 202). -/
def State.setVector (s : State) (c : Nat) (x : Ctx) (iv : Nat) (f : Vector' → Vector') : State :=
  match s.qce.inst? x.inst with
  | some i =>
    if i.eth ∨ i.allot < iv then s.fin c .invalidField
    else
      ({ s with qce := s.qce.updInst x.inst fun i =>
        { i with vectors := Tab.set i.vectors iv (f (Tab.getD i.vectors iv Vector'.fresh)) } }).fin c .success
  | none => s.fin c .invalidField

/-- What a Set does on every namespace it names: the one of its NSID, or with 0xFFFFFFFF every one that the caller sees. -/
def State.setOnNs (s : State) (c : Nat) (x : Ctx) (f : State → Nat → State) : State :=
  if x.sqe.nsid ≠ 0xFFFFFFFF ∧ (s.callerNs x x.sqe.nsid).isNone then s.fin c .invalidNs
  else ((s.namedNs x).foldl f s).fin c .success

def State.updNs (s : State) (k : Nat) (f : Ns → Ns) : State :=
  { s with fl := { s.fl with ptx := { s.fl.ptx with nss := Tab.upd s.fl.ptx.nss k f } } }

/-- Namespace Write Protection Config: protection until power cycle, or for good, does not change any more. -/
def State.setProtection (s : State) (c : Nat) (x : Ctx) : State :=
  let v := natBits x.sqe.cdw11 2 0
  match s.callerNs x x.sqe.nsid with
  | none => s.fin c .invalidNs
  | some n =>
    if 3 < v then s.fin c .invalidField
    else if 2 ≤ n.wprot then s.fin c .notChangeable
    else (s.updNs (x.sqe.nsid - 1) fun m => { m with wprot := v }).fin c .success

/-- Lease Guard (R61, R63, R70): a changed generation is journalled, and the command completes once the record is durable. -/
def State.setGuards (s : State) (c : Nat) (x : Ctx) : State :=
  if x.sqe.nsid ≠ 0xFFFFFFFF ∧ (s.callerNs x x.sqe.nsid).isNone then s.fin c .invalidNs
  else
    let on := natBits x.sqe.cdw11 0 0 == 1
    let rs := (s.namedNs x).map fun k =>
      let l := (s.leaseOf k).setGuard on
      (k, s.leaseOf k, if x.sqe.sv then { l with saved := on } else l)
    let g : State := { s with hfu := { s.hfu with leases := rs.foldl (fun (t : Tab Lease) r => Tab.set t r.1 r.2.2) s.hfu.leases } }
    let changed := (rs.filter fun r => r.2.2.gen != r.2.1.gen).map fun r => (r.1, r.2.2.gen)
    if changed.isEmpty then g.fin c .success
    else
      let p := g.fl.ptx.logLeases g.clock.now changed
      (g.withFl { g.fl with ptx := p.1 }).finDurable c .success 0 0 p.2

/-- Ordered Submission Queue (R100, R103): ORD for commands fetched from now on; RESUME restarts a frozen queue at its head. -/
def State.setOrdered (s : State) (c : Nat) (x : Ctx) : State :=
  let k := natBits x.sqe.cdw11 15 0
  match s.qce.sq? x.inst k with
  | none => s.fin c .invalidField
  | some q =>
    if k = 0 then s.fin c .invalidField
    else
      let resume := natBits x.sqe.cdw11 17 17 == 1 && q.frozen.isSome
      let g := s.qce.updSq x.inst k fun q =>
        { q with ordered := natBits x.sqe.cdw11 16 16 == 1, frozen := if resume then none else q.frozen }
      ({ s with qce := if resume then g.updInst x.inst fun i => { i with frozen := i.frozen.filter (· ≠ k) } else g }).fin c .success

/-- Latency Class (R151). -/
def State.setClass (s : State) (c : Nat) (x : Ctx) : State :=
  let k := natBits x.sqe.cdw11 15 0
  let lc := natBits x.sqe.cdw11 18 16
  let mask := ((Tab.get? s.tas.insts x.inst).map (·.cur.lcmask)).getD 0xFF
  if k = 0 ∨ (s.qce.sq? x.inst k).isNone ∨ !mask.testBit lc then s.fin c .invalidField
  else ({ s with qce := s.qce.updSq x.inst k fun q => { q with lc := lc } }).fin c .success

/-- The share that Set Features 0xD4 spells (R156). -/
def Sqe.share (q : Sqe) : Share :=
  { weight := natBits q.cdw12 10 0, lcmask := natBits q.cdw12 23 16, lcdef := natBits q.cdw12 26 24, iopslim := natBits q.cdw13 19 0
    bwlim := natBits q.cdw14 19 0, rclbkt := natBits q.cdw15 8 8 == 1, burst := natBits q.cdw15 7 0 }

/-- Instance Share (R155, R156). -/
def State.setShare (s : State) (c : Nat) (x : Ctx) : State :=
  let inst := natBits x.sqe.cdw11 10 0
  if !s.asPf x || !s.ofPort x inst || !x.sqe.share.valid then s.fin c .invalidField
  else ({ s with tas := s.tas.stage inst x.sqe.share }).fin c .success

/-- The size that a namespace will have once the growths fetched so far have acted (R190). -/
def State.expectedSize (s : State) (k : Nat) (n : Ns) : Nat :=
  ((s.qce.ctxs.filter fun e => e.2.sizes k && e.2.arrived).map fun e => e.2.sqe.newSize).foldl max n.nsze

/-- Namespace Size (R187 to R190): growth reserves its capacity and map cost, and waits behind what holds the namespace's last block; a shrink needs a
lease and holds the entry of the tail, as it will stand after the growths fetched before it. -/
def State.setSize (s : State) (c : Nat) (x : Ctx) : State :=
  if !s.asPf x then s.fin c .invalidField
  else
    match s.callerNs x x.sqe.nsid with
    | none => s.fin c .invalidNs
    | some n =>
      let k := x.sqe.nsid - 1
      let size := x.sqe.newSize
      if !n.sizeOk size then s.fin c .invalidField
      else
        let old := s.expectedSize k n
        if size < old then
          if !((s.leaseOf k).permits s.clock.lease (s.callerHost x)) then s.fin c .leaseRequired
          else (s.setCtx c { x with nsx := some k, mods := [⟨size, old - size⟩] }).lockAndRoute c
        else
          match s.fl.reserve s.mapRegion c (n.capacity size - n.capacity old) (n.mapCost size - n.mapCost old) with
          | none => s.fin c .noCapacity
          | some f => ((s.withFl f).setCtx c { x with nsx := some k, rds := [⟨n.nsze - 1, 1⟩], arrived := true }).route c

/-- Media Mode (R255). -/
def State.setMode (s : State) (c : Nat) (x : Ctx) : State :=
  if !s.asPf x then s.fin c .invalidField
  else
    match s.callerNs x x.sqe.nsid with
    | none => s.fin c .invalidNs
    | some n =>
      let m : Ns := { n with slc := natBits x.sqe.cdw11 0 0 == 1 }
      if !(s.fl.mappedIus (x.sqe.nsid - 1)).isEmpty || n.zones.any fun z => z.2.st != .empty then s.fin c .sequenceError
      else if s.fl.unvmcap + n.capacity n.nsze < m.capacity n.nsze then s.fin c .noCapacity
      else (s.updNs (x.sqe.nsid - 1) fun y => { y with slc := m.slc }).fin c .success

/-- Flexible Data Placement (R183): only while no namespace exists. -/
def State.setFdp (s : State) (c : Nat) (x : Ctx) : State :=
  let on := natBits x.sqe.cdw12 0 0 == 1
  if natBits x.sqe.cdw11 15 0 ≠ 1 ∨ natBits x.sqe.cdw12 15 8 ≠ 0 then s.fin c .invalidField
  else if !s.fl.ptx.nss.isEmpty then s.fin c .sequenceError
  else
    let p : Ptx := { s.fl.ptx with fdp := on, stats := if on = s.fl.ptx.fdp then s.fl.ptx.stats else Tab.keep s.fl.ptx.stats fun b _ => decide (b < 3072) }
    ({ s with fl := { s.fl with ptx := p } }).fin c .success

/-- Event types of FDP (R182). -/
def fdpTypes : List Nat := [0x00, 0x02, 0x03, 0x80, 0x81]

/-- The reclaim unit handle of a placement handle of the namespace that an FDP Events feature names. -/
def State.fdpTarget (s : State) (x : Ctx) : Except Status Nat :=
  match s.callerNs x x.sqe.nsid with
  | none => .error .invalidNs
  | some n =>
    if !s.fl.ptx.fdp then .error .fdpDisabled
    else
      match n.handles[(natBits x.sqe.cdw11 15 0)]? with
      | some h => .ok h
      | none => .error .invalidField

/-- FDP Events (R183): each event of the list enabled or disabled for a handle. -/
def State.setFdpEvents (s : State) (c : Nat) (x : Ctx) (d : FeatureData) : State :=
  match s.fdpTarget x with
  | .error st => s.fin c st
  | .ok h =>
    let ts := (d.list.take (natBits x.sqe.cdw11 23 16)).map (·.toNat)
    if ts.any fun t => !fdpTypes.contains t then s.fin c .invalidField
    else
      let rest := (Tab.getD s.fl.ptx.fdpEnable h []).filter fun t => !ts.contains t
      let p : Ptx := { s.fl.ptx with fdpEnable := Tab.set s.fl.ptx.fdpEnable h (if natBits x.sqe.cdw12 0 0 = 1 then rest ++ ts else rest) }
      ({ s with fl := { s.fl with ptx := p } }).fin c .success

/-- Keep Alive Timer: on PCIe only 0 (R96); on Ethernet within the range of R51. -/
def State.setKato (s : State) (c : Nat) (x : Ctx) (i : Inst) : State :=
  let v := x.sqe.cdw11
  if v ≠ 0 ∧ (!i.eth ∨ v < 1000 ∨ 3600000 < v) then s.fin c .invalidField
  else if i.eth then ({ s with qce := s.qce.updInst x.inst fun i => { i with kato := v, kaAt := s.clock.now } }).fin c .success
  else s.fin c .success

/-- Timestamp (R528): the instance's own, and the device's. -/
def State.setStamp (s : State) (c : Nat) (x : Ctx) (v : Nat) : State :=
  let t := some (v % 2 ^ 48, s.clock.now)
  ({ s with qce := { s.qce with insts := Tab.upd s.qce.insts x.inst (fun i => { i with stamp := t }), stamp := t } }).fin c .success

/-- Temperature Threshold: the Composite Temperature's over or under threshold, or every sensor's (R437). -/
def State.setThreshold (s : State) (c : Nat) (x : Ctx) : State :=
  let sel := natBits x.sqe.cdw11 19 16
  let ty := natBits x.sqe.cdw11 21 20
  if (sel ≠ 0 ∧ sel ≠ 15) ∨ 1 < ty then s.fin c .invalidField
  else s.setKept c x (0x04 + 0x100 * ty) (natBits x.sqe.cdw11 15 0)

/-- The bits of CDW11 that a kept feature has; the others are reserved and read as 0 (R11; places of the NVMe base specification, PRESUMED, log entry
26). -/
def instMask (fid : Nat) : Nat := match fid with
  | 0x01 => 0xFFFFFF07 | 0x08 => 0xFFFF | 0x0B => 0x0800FFFF | 0x82 => 0xE | _ => 2 ^ 32 - 1

/-- Features of the caller's instance. -/
def State.setInstFeature (s : State) (c : Nat) (x : Ctx) (i : Inst) (d : FeatureData) : State :=
  let v := x.sqe.cdw11
  match x.sqe.fid with
  | 0x02 => if natBits v 4 0 = 0 then s.setKept c x 0x02 (natBits v 7 0) else s.fin c .invalidField
  | 0x04 => s.setThreshold c x
  | 0x06 => s.fin c (if natBits v 0 0 = 1 then .success else .invalidField)
  | 0x07 => s.finWith c .success i.numQueues 0
  | 0x09 => s.setVector c x (natBits v 15 0) fun y => { y with cd := natBits v 16 16 == 1 }
  | 0x0A => s.setKept c x 0x0A (natBits v 0 0)
  | 0x0E => s.setStamp c x d.num
  | 0x0F => s.setKato c x i
  | 0x81 =>
    if i.eth then s.fin c .sequenceError
    else
      let h := if natBits v 0 0 = 1 then d.num % 2 ^ 128 else d.num % 2 ^ 64
      ({ s with qce := s.qce.updInst x.inst fun i => { i with hostId := h } }).fin c .success
  | 0x82 =>
    s.setOnNs c x fun g k => { g with qce := g.qce.updInst x.inst fun i => { i with features := Tab.set i.features (0x82 + 256 * (k + 1)) (v &&& instMask 0x82) } }
  | 0xD1 =>
    s.setVector c x (natBits v 15 0) fun y =>
      { y with fine := if natBits x.sqe.cdw12 0 0 = 1 then some (natBits v 31 24, natBits v 23 16) else none }
  | 0xD2 => s.setOrdered c x
  | 0xD3 => s.setClass c x
  | f => s.setKept c x f (v &&& instMask f)

/-- Features of the device and of its namespaces. -/
def State.setDeviceFeature (s : State) (c : Nat) (x : Ctx) (d : FeatureData) : State :=
  let v := x.sqe.cdw11
  match x.sqe.fid with
  | 0x05 => s.setOnNs c x fun g k => g.updNs k fun n => { n with tler := natBits v 15 0, dulbe := natBits v 16 16 == 1 }
  | 0x1D => s.setFdp c x
  | 0x1E => s.setFdpEvents c x d
  | 0x83 =>
    s.setOnNs c x fun g k =>
      { g with hfu := { g.hfu with resv := Tab.set g.hfu.resv k { g.resvOf k with ptpl := natBits v 0 0 == 1 } } }
  | 0x84 => s.setProtection c x
  | 0xD0 => s.setGuards c x
  | 0xD4 => s.setShare c x
  | 0xD5 => s.setSize c x
  | _ => s.setMode c x

/-- SET_FEATURES (R96, R499). -/
def execSetFeatures (a : AdminCmd) (d : FeatureData) (s : State) : Host.Outcome State Fault Refusal :=
  .next (s.admin a 0x09 .every true true fun g c x =>
    if !fids.contains x.sqe.fid then g.fin c .invalidField
    else if x.sqe.sv ∧ x.sqe.fid ≠ 0xD0 then g.fin c .notSaveable
    else if deviceFids.contains x.sqe.fid then g.setDeviceFeature c x d
    else
      match g.qce.inst? x.inst with
      | some i => g.setInstFeature c x i d
      | none => g.fin c .invalidField)

/-- NAMESPACE_SHRINK_COMPLETE (R189): the shrink has left LOCKWAIT, and earlier reads of the tail no longer hold it (R116). -/
def execNamespaceShrinkComplete (ctx : Nat) (s : State) : Host.Outcome State Fault Refusal :=
  .next (s.whenRuns fun s =>
    match s.qce.ctx? ctx with
    | none => s
    | some x =>
      if x.kind != .admin || x.sqe.opc != 0x09 || x.state != .fw || x.mods.isEmpty || x.rlWait || s.qce.readBefore x || s.handover then s
      else
        match x.nsx with
        | none => s
        | some k =>
          (match s.fl.ns? k with
          | none => s.fin ctx .invalidNs
          | some _ => if s.qce.sizeBefore k x then s else s.sizeChange ctx x k).settle)

/-! ## Getting -/

/-- What a Get Features answers: DW0, DW1 and a data structure. -/
structure FeatureValue where
  dw0 : Nat
  dw1 : Nat := 0
  data : Option (List Byte) := none
  deriving DecidableEq, Repr

/-- Capabilities of a feature (R499): saveable, namespace-specific, changeable. Those of standard features that the table of R499 does not give
are PRESUMED (log entry 26). -/
def featureCaps (fid : Nat) : Nat := if fid = 0xD0 then 7 else if nsFids.contains fid then 6 else 4

/-- A feature of one namespace. -/
def State.getOnNs (s : State) (x : Ctx) (f : Nat → Ns → FeatureValue) : Except Status FeatureValue :=
  match s.callerNs x x.sqe.nsid with
  | none => .error .invalidNs
  | some n => .ok (f (x.sqe.nsid - 1) n)

/-- A feature of an I/O SQ. -/
def State.getOnSq (s : State) (x : Ctx) (f : Nat → Sq → Nat) : Except Status FeatureValue :=
  let k := natBits x.sqe.cdw11 15 0
  match s.qce.sq? x.inst k with
  | none => .error .invalidField
  | some q => if k = 0 then .error .invalidField else .ok { dw0 := f k q }

/-- A feature of a vector. -/
def Inst.getVector (i : Inst) (x : Ctx) (f : Nat → Vector' → FeatureValue) : Except Status FeatureValue :=
  let iv := natBits x.sqe.cdw11 15 0
  if i.eth ∨ i.allot < iv then .error .invalidField else .ok (f iv (Tab.getD i.vectors iv Vector'.fresh))

/-- The value of a feature of the caller's instance; `dflt` asks for the default. -/
def State.getInstFeature (s : State) (x : Ctx) (i : Inst) (dflt : Bool) : Except Status FeatureValue :=
  let kept := fun (key d : Nat) => if dflt then d else i.feature key d
  match x.sqe.fid with
  | 0x01 => .ok { dw0 := kept 0x01 7 }
  | 0x04 =>
    let ty := natBits x.sqe.cdw11 21 20
    if natBits x.sqe.cdw11 19 16 ≠ 0 ∨ 1 < ty then .error .invalidField
    else .ok { dw0 := kept (0x04 + 0x100 * ty) (if ty = 0 then 368 else 0) + 2 ^ 20 * ty }
  | 0x06 => .ok { dw0 := 1 }
  | 0x07 => .ok { dw0 := i.numQueues }
  | 0x09 => i.getVector x fun iv y => { dw0 := iv + 65536 * b2n (y.cd && !dflt) }
  | 0x0E =>
    .ok { dw0 := 0, data := some (if dflt then zeros 8 else leBytes 6 (i.stampMs s.clock.now) ++ leBytes 1 (2 * b2n i.stamp.isSome) ++ zeros 1) }
  | 0x0F => .ok { dw0 := if dflt ∨ !i.eth then 0 else i.kato }
  | 0x81 => .ok { dw0 := 0, data := some (leBytes (if natBits x.sqe.cdw11 0 0 = 1 then 16 else 8) (if dflt then 0 else i.hostId)) }
  | 0x82 => s.getOnNs x fun k _ => { dw0 := kept (0x82 + 256 * (k + 1)) 0 }
  | 0xD1 =>
    i.getVector x fun iv y =>
      match y.fine, dflt with
      | some (thr, t), false => { dw0 := thr * 2 ^ 24 + t * 2 ^ 16 + iv, dw1 := 1 }
      | _, _ => { dw0 := iv }
  | 0xD2 => s.getOnSq x fun k q => k + 65536 * b2n (q.ordered && !dflt) + 2 ^ 18 * b2n (q.frozen.isSome && !dflt)
  | 0xD3 => s.getOnSq x fun k q => k + 65536 * (if dflt then s.lcdef x.inst else q.lc)
  | f => .ok { dw0 := kept f 0 }

/-- Get Features 0xD4 (R156): any instance for itself, a PF for any of its port; of an UNUSED one the defaults and what is staged (log entry 168). -/
def State.getShare (s : State) (x : Ctx) (dflt : Bool) : Except Status FeatureValue :=
  let inst := natBits x.sqe.cdw11 10 0
  if inst ≠ x.inst ∧ !(s.asPf x && s.ofPort x inst) then .error .invalidField
  else
    .ok { dw0 := 0, data := some ((if dflt then TasInst.fresh .default' 0 else s.tas.instOf inst).shareBytes inst) }

/-- The value of a feature of the device or of a namespace; `sel` 0 asks for the value in force, 2 for the saved one. -/
def State.getDeviceFeature (s : State) (x : Ctx) (sel : Nat) : Except Status FeatureValue :=
  let now := sel == 0
  match x.sqe.fid with
  | 0x05 => s.getOnNs x fun _ n => { dw0 := if now then n.tler + 65536 * b2n n.dulbe else 0 }
  | 0x1D => if natBits x.sqe.cdw11 15 0 = 1 then .ok { dw0 := b2n (s.fl.ptx.fdp && now) } else .error .invalidField
  | 0x1E =>
    match s.fdpTarget x with
    | .error st => .error st
    | .ok h =>
      let on := fun (t : Nat) => now && (Tab.getD s.fl.ptx.fdpEnable h []).contains t
      .ok { dw0 := fdpTypes.length, data := some (fdpTypes.flatMap fun t => leBytes 1 t ++ leBytes 1 (b2n (on t))) }
  | 0x83 => s.getOnNs x fun k _ => { dw0 := b2n ((s.resvOf k).ptpl && now) }
  | 0x84 => s.getOnNs x fun _ n => { dw0 := if now then n.wprot else 0 }
  | 0xD0 => s.getOnNs x fun k _ => { dw0 := b2n (if now then (s.leaseOf k).guarded else sel == 2 && (s.leaseOf k).saved) }
  | 0xD4 => s.getShare x (!now)
  | 0xD5 => s.getOnNs x fun _ n => { dw0 := n.nsze % 2 ^ 32, dw1 := n.nsze / 2 ^ 32 }
  | _ => s.getOnNs x fun _ n => { dw0 := b2n (n.slc && now) }

/-- GET_FEATURES (R96, R499). -/
def execGetFeatures (a : AdminCmd) (s : State) : Host.Outcome State Fault Refusal :=
  .next (s.admin a 0x0A .every true true fun g c x =>
    if !fids.contains x.sqe.fid ∨ 3 < x.sqe.sel then g.fin c .invalidField
    else if x.sqe.sel = 3 then g.finWith c .success (featureCaps x.sqe.fid) 0
    else
      let r := if deviceFids.contains x.sqe.fid then g.getDeviceFeature x x.sqe.sel
        else
          match g.qce.inst? x.inst with
          | some i => g.getInstFeature x i (x.sqe.sel != 0)
          | none => .error .invalidField
      match r with
      | .error st => g.fin c st
      | .ok v =>
        let g := match v.data with
          | some bs => g.emit (.data c bs)
          | none => g
        g.finWith c .success v.dw0 v.dw1)

end Sys2Proof.Machine
end

