-- ==== Sys2Proof/Machine/Firmware.lean ====
section
/-! DEFINITION. Firmware images (R97, R396 to R407, R410): the download, Firmware Commit, hot activation, and the end of a boot record
that closes it (R354, R401). -/

namespace Sys2Proof.Machine

/-! ## The download -/

/-- The owner of a command's download (R97, R410). -/
def Ctx.dlOwner (x : Ctx) : DlOwner := if x.side then .sideband else .inst x.inst

/-- Two pieces share a byte. -/
def piecesMeet (a : Nat × List Byte) (o n : Nat) : Bool := decide (a.1 < o + n ∧ o < a.1 + a.2.length)

/-- What a piece does to the one open download: accepted, or a status (R97). -/
def Mgc.takePiece (m : Mgc) (now : Nat) (owner : DlOwner) (o : Nat) (bs : List Byte) : Except Status Mgc :=
  let d : Download := (m.download).getD ⟨owner, [], now⟩
  if d.owner ≠ owner then .error .sequenceError
  else if d.pieces.any fun p => piecesMeet p o bs.length then .error (stat 1 0x14)
  else .ok { m with download := some { d with pieces := Tab.set d.pieces o bs, lastAt := now } }

/-- FIRMWARE_IMAGE_DOWNLOAD (R97). -/
def execFirmwareImageDownload (a : AdminCmd) (data : List Byte) (s : State) : Host.Outcome State Fault Refusal :=
  .next (s.admin a 0x11 .pfOrEth true false fun g c x =>
    let len := (x.sqe.cdw10 + 1) * 4
    let o := x.sqe.cdw11 * 4
    if len % 4096 ≠ 0 ∨ o % 4096 ≠ 0 ∨ 41943040 < o + len then g.fin c .invalidField
    else
      match g.mgc.takePiece g.clock.now x.dlOwner o (fit len data) with
      | .ok m => ({ g with mgc := m }).fin c .success
      | .error st => g.fin c st)

/-- SIDEBAND_DOWNLOAD_TIMEOUT: 60 s without a piece or a commit (R410). -/
def execSidebandDownloadTimeout (s : State) : Host.Outcome State Fault Refusal :=
  .next (
    match s.mgc.download with
    | some d =>
      if d.owner = .sideband ∧ s.up then
        let g := s.until' (d.lastAt + 60 * secT)
        { g with mgc := { g.mgc with download := none } }
      else s
    | none => s)

/-! ## Firmware Commit -/

/-- The versions of the die descriptors of the populated clusters: VER is 0x01 (R234, R397). -/
def Flash.dvers (f : Flash) : List Nat := f.hw.clusterList.map fun k => (f.hw.desc (256 * k)).ver

/-- A requester's download is closed: it stays open until its owner's Firmware Commit (R97). -/
def Mgc.closeDownload (m : Mgc) (owner : DlOwner) : Mgc :=
  match m.downloadOf owner with
  | some _ => { m with download := none }
  | none => m

/-- A commit's download is written into its slot, with its stage 2 (R398, R399), and is closed. -/
def Mgc.writeImage (m : Mgc) (owner : DlOwner) (slot : Nat) : Mgc :=
  match m.downloadOf owner with
  | none => m
  | some d =>
    let h := ImgHeader.ofBytes (d.bytes 0 4096)
    { ((m.writeSlot slot d).writeStage2 h d.bytes) with download := none }

/-- What a commit leaves, and whether a hot activation starts (R402, R403). -/
def Mgc.commit (m : Mgc) (now : Nat) (by' : CommitFrom) (owner : DlOwner) (fs action : Nat) (v : CommitVerdict) : Mgc × Bool :=
  let slot := m.commitSlot fs
  match v with
  | .ok =>
    if action = 0 then (m.writeImage owner slot, false)
    else if action = 1 then ((m.writeImage owner slot).makeNext slot, false)
    else if action = 2 then ((m.makeNext slot).closeDownload owner, false)
    else if slot = m.run.slot then (m.closeDownload owner, false)
    else
      let w := m.writeImage owner slot
      ({ w with act := some ⟨.prepare, slot, w.header slot, by', now⟩ }, true)
  | .needsReset => ((m.writeImage owner slot).makeNext slot, false)
  | .badImage => (m.closeDownload owner, false)
  | .prohibited => (m.closeDownload owner, false)
  | _ => (m, false)

/-- The sideband's download is discarded when a commit that uses it ends (R410). -/
def Mgc.endSideDownload (m : Mgc) (owner : DlOwner) : Mgc :=
  if owner = .sideband then m.closeDownload owner else m

/-- Firmware Commit by a requester: the state, its status, and whether it waits for an activation. -/
def State.commit (s : State) (by' : CommitFrom) (owner : DlOwner) (fs action : Nat) : State × CommitVerdict × Bool :=
  let v := s.mgc.commitVerdict s.sec.sanitize.isSome owner fs action s.sec.stage2Svn s.fl.dvers
  let r := s.mgc.commit s.clock.now by' owner fs action v
  ({ s with
    mgc := r.1.endSideDownload owner
    sec := if r.2 then { s.sec with regs := s.sec.regs.setFld .secBrctl 29 29 0 } else s.sec }, v, r.2)

/-- FIRMWARE_COMMIT (R97, R402, R403): FS and the commit action of CDW10. A commit action beyond 0b011 is not supported. -/
def execFirmwareCommit (a : AdminCmd) (s : State) : Host.Outcome State Fault Refusal :=
  .next (s.admin a 0x10 .pfOrEth true false fun g c x =>
    let action := natBits x.sqe.cdw10 5 3
    if 3 < action then g.fin c .invalidField
    else
      let r := g.commit (.ctx c) x.dlOwner (natBits x.sqe.cdw10 2 0) action
      if r.2.2 then r.1 else r.1.fin c (if r.2.1 = .ok then .success else stat r.2.1.status.1 r.2.1.status.2))

/-! ## Hot activation (R404 to R407) -/

/-- The measurement entries of an image: its header, then its components as they are loaded (R352, R385). -/
def imageMeas (slot : Nat) (headDigest : Nat) (h : ImgHeader) : List Meas :=
  ⟨2, slot, false, false, h.svn, h.version, headDigest⟩ ::
    [3, 7, 4, 5, 6].filterMap fun k => (h.comps.find? fun c => c.kind == k).map fun c => ⟨k, slot, false, false, c.svn, c.version, c.digest⟩

/-- The measurements of an activated image take the places of the old one's; the training firmware is not loaded again. -/
def replaceMeas (old new : List Meas) : List Meas :=
  old.map fun m => (new.find? fun n => n.kind == m.kind).getD m

/-- The commit of an activation ends. -/
def State.endCommit (s : State) (a : Activation) (st : Status) : State :=
  let g : State := { s with mgc := { s.mgc with act := none } }
  match a.by' with
  | .ctx c => g.fin c st
  | .ahnah => { g with mgc := g.mgc.ahEnd (if st.isOk then 0 else 0x8000 + st.sct * 256 + st.sc) [] }

/-- A recovery of a cluster or of the device runs: prepare waits for its end (R404). -/
def State.recoveringFw (s : State) : Bool := s.fev.active.any fun x => match x with | .cluster _ => true | .device => true | _ => false

/-- The posting pause of a handover, in µs: LASTPAUSE (R405). -/
def handoverUs : Nat := 2000

/-- ACTIVATION_PREPARE_DONE: steps 1 to 8 of the handover (R404, R405). `digestOk` says that the DIGESTs of steps 5 and 6 match; a mismatch
reloads the previous image, sets ABORTEV and ends the commit (R407). -/
def execActivationPrepareDone (digestOk : Bool) (s : State) : Host.Outcome State Fault Refusal :=
  .next (s.whenRuns fun s =>
    match s.mgc.act with
    | none => s
    | some a =>
      if a.phase ≠ .prepare ∨ s.recoveringFw then s
      else if digestOk then
        let meas := replaceMeas s.sec.meas (imageMeas a.slot (s.mgc.headerDigest a.slot) a.header)
        let sec : Sec := { s.sec with meas := meas, endpoints := [], bootCause := 2, regs := s.sec.regs.setFld .secBrctl 29 29 0 }
        let mgc : Mgc :=
          { s.mgc with
            regs := s.mgc.regs.setFld .mgcActstat 21 0 handoverUs
            act := some { a with phase := .handover, startedAt := s.clock.now }
            run := ⟨a.slot, a.header.svn, a.header.version, a.header.hsv⟩, postHold := s.clock.now + 20000 }
        { s with sec := sec, mgc := mgc }
      else
        let r := s.fresh
        let g := r.2.report (mkReport 0x09 0x03 0 0 r.1 0 0)
        let regs := (g.mgc.regs.setFld .mgcActstat 29 29 1).setFld .mgcActstat 21 0 handoverUs
        (({ g with mgc := { g.mgc with regs := regs, postHold := s.clock.now + 20000 } }).endCommit a (stat 1 0x13)).settle)

/-- MINIMG follows the running image once a boot record of it is appended, and never falls (R401). -/
def Calib.raised (c : Calib) (svn : Nat) : Calib := { c with minimg := max c.minimg svn }

/-- BOOT_RECORD_APPENDED (R354): the record is in the log and in the chain area; MINIMG follows the running image (R401), and after an activation
NEXT names its slot and the commit ends (R405). A record of an activation is not built before its posting pause is over. -/
def execBootRecordAppended (s : State) : Host.Outcome State Fault Refusal :=
  .next (
    if s.up && !s.fev.safe && s.sec.building.isSome then
      let s := s.until' s.mgc.postHold
      let r := s.sec.appended s.fev s.stamp
      let cal := if s.sec.runFits s.fev then s.mgc.cal.raised s.mgc.run.svn else s.mgc.cal
      let g : State := { s with sec := r.1, fev := r.2, mgc := { s.mgc with cal := cal } }
      match g.mgc.act with
      | some a =>
        if a.phase = .prepare then g
        else (({ g with mgc := { g.mgc with cal := { cal with next := a.slot, nextPending := false } } }).endCommit a .success).settle
      | none => g
    else s)

end Sys2Proof.Machine
end

