-- ==== Sys2Proof/Machine/Pages.lean ====
section
/-! DEFINITION. Get Log Page (R95): the pages, those of other chapters included (R104, R135, R161, R181, R182, R185, R229, R294, R313, R377, R408,
R438, R451, R457, R458). Standard pages have the NVMe base specification's layout (PRESUMED, log entry 26); bytes that no rule states are open
(log entry 50). -/

namespace Sys2Proof.Machine

/-! ## Pages -/

/-- A log page: its length, and its bytes from an offset. -/
structure Page where
  size : Nat
  get : Nat → Nat → List Byte

/-- A page that is kept whole. -/
def Page.whole (bs : List Byte) : Page := ⟨bs.length, fun o n => slice bs o n⟩

/-- A page of rows of one size. -/
def Page.rows (size count : Nat) (row : Nat → List Byte) : Page :=
  ⟨size * count, fun o n =>
    let a := o / size
    slice ((List.range (ceilDiv (o + n - a * size) size)).flatMap fun i => if a + i < count then fit size (row (a + i)) else zeros size) (o - a * size) n⟩

/-- Bytes of a returned structure that no rule states. -/
def openBytes (structure' lo n : Nat) : List Byte := (List.range n).map fun i => Config.pageByte structure' (lo + i)

/-- What a read returns: beyond the page's end nothing is stated. -/
def Page.read (p : Page) (lid o n : Nat) : List Byte :=
  let m := min n (p.size - o)
  p.get o m ++ openBytes (0x1000 + lid) (o + m) (n - m)

/-- Units of 512,000 B, rounded up. -/
def dataUnits (bytes : Nat) : Nat := ceilDiv bytes 512000

/-! ## Error Information, SMART / Health, Endurance Group (R94, R229, R457) -/

/-- An Error Information entry: 64 B. -/
def ErrEntry.bytes (e : ErrEntry) : List Byte :=
  leBytes 8 e.count ++ leBytes 2 e.sqid ++ leBytes 2 e.cid ++ leBytes 2 (2 * e.status) ++ openBytes 0x01 14 2 ++ leBytes 8 e.lba ++ leBytes 4 e.nsid
    ++ zeros 32

/-- Log page 0x01: 256 entries, newest first. -/
def State.page01 (s : State) (x : Ctx) : Page :=
  let es := ((s.qce.inst? x.inst).map (·.errors)).getD []
  .rows 64 256 fun i => match es[i]? with
    | some e => e.bytes
    | none => zeros 64

/-- Percentage Used (R229): of the QLC blocks' rated cycles. -/
def Flash.rated (f : Flash) : Nat := (f.hw.desc ((f.hw.channels.headD 0) * 32)).rated false
def Flash.percentUsed (f : Flash) : Nat := min 255 (100 * f.meanAll false / (max 1 f.rated : Nat)).floor.toNat

/-- Endurance Estimate in GB (R229). -/
def Flash.enduranceGb (f : Flash) : Nat :=
  let w : Rat := if f.ptx.hostWritten = 0 then 1 else max 1 ((f.ptx.mediaWritten : Rat) / (f.ptx.hostWritten : Nat))
  (((f.rated : Rat) - f.meanAll false) * (f.hw.dataCap : Nat) / (w * 1000000000)).floor.toNat

/-- Critical Warning of the endurance group (R229). -/
def Flash.egWarning (f : Flash) : Nat := b2n (decide (f.sparePercent < 10)) + 8 * b2n f.ptx.wprot

/-- Error Information entries of all instances (R457). -/
def Qce.errorCount (q : Qce) : Nat := (q.insts.map fun e => e.2.errCount).sum

/-- A temperature in K from quarters of a degree; 0 where none is trusted. -/
def kelvin : Option Int → Nat
  | none => 0
  | some t => (t / 4 + 273).toNat

/-- Temperature Sensors 1 to 4 (R437): cluster junctions, NAND, DRAM, TS16 to TS19. -/
def Ptm.sensorsK (p : Ptm) : List Nat :=
  [ kelvin (maxInt (p.trustedOf (List.range 16))), kelvin (maxInt ((List.range 8).flatMap p.nandOf)), kelvin ((maxInt (p.dram.map Prod.snd)).map (· * 4)),
    kelvin (maxInt (p.trustedOf [16, 17, 18, 19])) ]

/-- Log page 0x02 (R457): 512 B. Controller Busy Time is not stated. -/
def State.page02 (s : State) : Page :=
  let p := s.fl.ptx
  .whole (fit 512 (
    leBytes 1 s.warnings ++ leBytes 2 (kelvin s.ptm.composite) ++ leBytes 1 s.fl.sparePercent ++ leBytes 1 10 ++ leBytes 1 s.fl.percentUsed
      ++ leBytes 1 s.fl.egWarning ++ zeros 25 ++ leBytes 16 (dataUnits p.hostRead) ++ leBytes 16 (dataUnits p.hostWritten) ++ leBytes 16 p.readCmds
      ++ leBytes 16 p.writeCmds ++ openBytes 0x02 96 16 ++ leBytes 16 s.clock.pcyc ++ leBytes 16 (s.hours / 3600) ++ leBytes 16 p.unsafeShut
      ++ leBytes 16 p.mediaErrors ++ leBytes 16 s.qce.errorCount ++ leBytes 4 (s.health.warmTime / (60 * secT)) ++ leBytes 4 (s.health.hotTime / (60 * secT))
      ++ (s.ptm.sensorsK.flatMap (leBytes 2)) ++ zeros 8 ++ leBytes 4 s.health.thrEntries ++ zeros 4 ++ leBytes 4 (s.ptm.activeMs s.clock.now / 1000)))

/-- Log page 0x09 for endurance group 1 (R229): 512 B. -/
def State.page09 (s : State) : Page :=
  let f := s.fl
  .whole (fit 512 (
    leBytes 1 f.egWarning ++ zeros 2 ++ leBytes 1 f.sparePercent ++ leBytes 1 10 ++ leBytes 1 f.percentUsed ++ zeros 26 ++ leBytes 16 f.enduranceGb
      ++ leBytes 16 (dataUnits f.ptx.hostRead) ++ leBytes 16 (dataUnits f.ptx.hostWritten) ++ leBytes 16 (dataUnits f.ptx.mediaWritten)
      ++ leBytes 16 f.ptx.readCmds ++ leBytes 16 f.ptx.writeCmds ++ leBytes 16 f.ptx.mediaErrors ++ leBytes 16 s.qce.errorCount
      ++ leBytes 16 f.hw.offered ++ leBytes 16 f.unvmcap))

/-! ## Firmware, namespaces, commands, self-test -/

/-- The version that a slot reports in log page 0x03 (R408): none for an empty or failing slot. -/
def State.slotVersion (s : State) (slot : Nat) : Option Nat :=
  if (s.mgc.checkSlot slot s.sec.stage2Svn true s.fl.dvers).isNone then some (s.mgc.header slot).version else none

/-- A list of namespace identifiers of 1,024 places. -/
def nsidList (ks : List Nat) : List Byte := fit 4096 (ks.flatMap (leBytes 4))

/-- Log page 0x04. -/
def State.page04 (s : State) (x : Ctx) : Page :=
  let ks := ((s.qce.inst? x.inst).map (·.changedNs)).getD []
  .whole (if 1024 < ks.length then nsidList [0xFFFFFFFF] else nsidList (ks.foldr (insertBy fun a b => decide (a ≤ b)) []))

/-- Admin opcodes of R93 that an instance supports. -/
def State.adminOpcodes (s : State) (x : Ctx) : List Nat :=
  let eth := ((s.qce.inst? x.inst).map (·.eth)).getD false
  [0x02, 0x06, 0x08, 0x09, 0x0A, 0x0C, 0x14, 0x19, 0x1A, 0x1D, 0x1E, 0x81, 0x82, 0x86, 0xC8, 0xCA]
    ++ (if eth then [0x18, 0x7F] else [0x00, 0x01, 0x04, 0x05])
    ++ (if s.asPf x then [0x0D, 0x15, 0x1C, 0x80, 0x84, 0xCC] else []) ++ if s.asPf x || eth then [0x10, 0x11] else []

/-- I/O opcodes of a command set: NVM 0, Zoned Namespace 2. -/
def ioOpcodes (csi : Nat) : List Nat :=
  [0x00, 0x01, 0x02, 0x04, 0x05, 0x08, 0x09, 0x0C, 0x0D, 0x0E, 0x11, 0x12, 0x15, 0x19, 0x1D, 0x81, 0x83] ++ if csi = 2 then [0x79, 0x7A, 0x7D] else []

/-- An entry of Commands Supported and Effects: bit 0 for a supported opcode; its other bits are not stated. -/
def effects (ops : List Nat) (base k : Nat) : List Byte :=
  if ops.contains k then BitVec.ofNat 8 ((Config.pageByte 0x05 (base + 4 * k)).toNat / 2 * 2 + 1) :: openBytes 0x05 (base + 4 * k + 1) 3 else zeros 4

/-- Log page 0x05: 4,096 B. -/
def State.page05 (s : State) (x : Ctx) : Page :=
  let adm := s.adminOpcodes x
  let io := ioOpcodes (natBits x.sqe.cdw14 31 24)
  .rows 4 1024 fun k => if k < 256 then effects adm 0 k else if k < 512 then effects io 1024 (k - 256) else zeros 4

/-- A self-test result: 28 B; a place without one has result code 0xF. -/
def DstResult.bytes (r : DstResult) : List Byte :=
  leBytes 1 (r.kind * 16 + r.code) ++ leBytes 1 r.segment ++ leBytes 1 (b2n r.nsid.isSome) ++ zeros 1 ++ leBytes 8 r.hours ++ leBytes 4 (r.nsid.getD 0)
    ++ zeros 12

/-- Log page 0x06 (R458): 564 B. How far a test has come is not stated. -/
def State.page06 (s : State) : Page :=
  let now := match s.mgc.dst with
    | some d => leBytes 1 d.kind ++ openBytes 0x06 1 1
    | none => zeros 2
  .whole (now ++ zeros 2 ++ (List.range 20).flatMap fun i => match s.mgc.dstResults[i]? with
    | some r => r.bytes
    | none => leBytes 1 0x0F ++ zeros 27)

/-- Log page 0x0C (R95): one group, with every namespace attached to the instance, Optimized. -/
def State.page0C (s : State) (x : Ctx) : Page :=
  let ks := (Tab.keysWhere s.fl.ptx.nss fun k _ => (s.callerNs x (k + 1)).isSome).map (· + 1)
  let ids := if natBits x.sqe.lsp 0 0 = 1 then [] else ks
  .whole (zeros 8 ++ leBytes 2 1 ++ zeros 6 ++ leBytes 4 1 ++ leBytes 4 ids.length ++ zeros 8 ++ leBytes 1 1 ++ zeros 15 ++ ids.flatMap (leBytes 4))

/-! ## Flexible Data Placement (R182, R185) -/

/-- Log page 0x20. -/
def State.page20 (s : State) : Page :=
  let size := 64 + 4 * 1024
  .whole (leBytes 2 0 ++ leBytes 1 1 ++ zeros 1 ++ leBytes 4 (16 + size) ++ zeros 8
    ++ leBytes 2 size ++ leBytes 1 0x80 ++ zeros 1 ++ leBytes 4 1 ++ leBytes 2 1024 ++ leBytes 2 127 ++ leBytes 4 8192
    ++ leBytes 8 (32 * (s.fl.hw.desc ((s.fl.hw.channels.headD 0) * 32)).blockBytes) ++ leBytes 4 0 ++ zeros 36
    ++ (List.range 1024).flatMap fun _ => leBytes 1 1 ++ zeros 3)

/-- Log page 0x21: the handles that a namespace names are host specified. -/
def State.page21 (s : State) : Page :=
  .whole (leBytes 2 1024 ++ zeros 6 ++ (List.range 1024).flatMap fun h =>
    leBytes 1 (b2n (s.fl.ptx.nss.any fun e => e.2.handles.contains h)) ++ zeros 7)

/-- Log page 0x22 (R185). -/
def State.page22 (s : State) : Page :=
  .whole (leBytes 16 (s.fl.ptx.hostWritten + s.fl.ptx.hostMeta) ++ leBytes 16 s.fl.ptx.mediaWritten ++ leBytes 16 s.fl.ptx.mediaErased ++ zeros 16)

/-- Log page 0x23: host events with LSP bit 0, else controller events. -/
def State.page23 (s : State) (x : Ctx) : Page :=
  let host := natBits x.sqe.lsp 0 0 == 1
  let es := s.fl.ptx.fdpLog.filter fun e => decide (e.1 < 0x80) == host
  .whole (leBytes 4 es.length ++ zeros 60 ++ es.flatMap fun e =>
    leBytes 1 e.1 ++ leBytes 1 0x04 ++ zeros 2 ++ leBytes 8 (e.2.2 / 10000) ++ zeros 20 ++ leBytes 2 0 ++ leBytes 2 e.2.1 ++ zeros 28)

/-- What uses a barchan (R185): TYPE, RUH, NSID, ZSLBA. -/
def Ptx.barUse (p : Ptx) (b : Nat) : Nat × Nat × Nat × Nat :=
  if b ≤ 31 then (1, 0xFFFF, 0, 0)
  else if b = 32 then (2, 0xFFFF, 0, 0)
  else if p.fdp ∧ 3072 ≤ b then (5, b - 3072, 0, 0)
  else
    match p.nss.find? fun e => e.2.stream == some b || e.2.zones.any fun z => z.2.barchan == some b with
    | none => (0, 0xFFFF, 0, 0)
    | some (k, n) =>
      match n.zones.find? fun z => z.2.barchan == some b with
      | some z => (4, 0xFFFF, k + 1, z.1 * n.zsze)
      | none => (3, 0xFFFF, k + 1, 0)

/-- An instance sees the entry of a barchan in full. -/
def State.seesBar (s : State) (x : Ctx) (b : Nat) (use : Nat × Nat × Nat × Nat) : Bool :=
  match use.1 with
  | 0 => false
  | 1 => true
  | 2 => true
  | 5 => s.fl.ptx.nss.any fun e => e.2.handles.contains (b - 3072) && (s.callerNs x (e.1 + 1)).isSome
  | _ => (s.callerNs x use.2.2.1).isSome

/-- Log page 0xC7 (R185): 64 B per barchan. -/
def State.pageC7 (s : State) (x : Ctx) : Page :=
  .rows 64 4096 fun b =>
    let use := s.fl.ptx.barUse b
    if s.seesBar x b use then
      let t := Tab.getD s.fl.ptx.stats b ⟨0, 0, 0, 0, 0, 0, 0, 0⟩
      leBytes 1 use.1 ++ zeros 1 ++ leBytes 2 use.2.1 ++ leBytes 4 use.2.2.1 ++ leBytes 8 t.hbw ++ leBytes 8 t.mbw ++ leBytes 8 t.rcb ++ leBytes 8 t.padb
        ++ leBytes 8 use.2.2.2 ++ zeros 16
    else leBytes 1 use.1 ++ zeros 63

/-! ## Reservations, sanitize, zones -/

/-- Log page 0x80: the oldest notification not yet read. -/
def State.page80 (s : State) (x : Ctx) : Page :=
  let es := ((s.qce.inst? x.inst).map (·.resvLog)).getD []
  .whole (match es with
    | [] => zeros 64
    | e :: rest => leBytes 8 e.1 ++ leBytes 1 e.2.1 ++ leBytes 1 (min 255 rest.length) ++ zeros 2 ++ leBytes 4 e.2.2 ++ zeros 48)

/-- A time estimate of R377 that the spec gives for the reference build alone. -/
def State.estimate (s : State) (at' v : Nat) : List Byte := if s.fl.hw = Attached.reference then leBytes 4 v else openBytes 0x81 at' 4

/-- Log page 0x81 (R377): 512 B. Global Data Erased is not stated. -/
def State.page81 (s : State) : Page :=
  let c := s.sec
  .whole (fit 512 (
    leBytes 2 c.sanProgress ++ leBytes 1 (c.sanStatus + 8 * (c.passesDone % 32)) ++ [Config.pageByte 0x81 3 &&& 1] ++ leBytes 4 c.sanCdw10
      ++ s.estimate 8 (10200 * max 1 c.lastPasses) ++ s.estimate 12 130 ++ s.estimate 16 2 ++ leBytes 12 (2 ^ 96 - 1)))

/-- Log page 0xBF (R181): the zones of the namespace that the command names. -/
def State.pageBF (s : State) (x : Ctx) : Page :=
  let zs := (((s.qce.inst? x.inst).map (·.changedZones)).getD []).filter fun z => z.1 + 1 == x.sqe.nsid
  let zsze := ((s.callerNs x x.sqe.nsid).map (·.zsze)).getD 0
  .whole (fit 4096 (leBytes 2 (if 511 < zs.length then 0xFFFF else zs.length) ++ zeros 6
    ++ if 511 < zs.length then [] else zs.flatMap fun z => leBytes 8 (z.2 * zsze)))

/-! ## Vendor pages -/

/-- An entry of log page 0xC0 (R104). -/
def Freeze.bytes (z : Freeze) (sqid : Nat) : List Byte :=
  leBytes 2 sqid ++ leBytes 2 z.fcid ++ leBytes 2 z.fstat ++ zeros 2 ++ leBytes 5 z.ffsn ++ zeros 3 ++ leBytes 4 z.head ++ leBytes 4 z.ndisc
    ++ leBytes 2 z.dcid0 ++ leBytes 2 z.dcid1 ++ leBytes 4 z.nsid ++ leBytes 8 z.slba ++ leBytes 8 z.time ++ zeros 16

/-- Log page 0xC0 (R104). -/
def State.pageC0 (s : State) (x : Ctx) : Page :=
  let i := s.qce.inst? x.inst
  let es := ((i.map (·.frozen)).getD []).filterMap fun k => ((s.qce.sq? x.inst k).bind (·.frozen)).map fun z => z.bytes k
  .whole (leBytes 4 es.length ++ leBytes 4 ((i.map (·.freezes)).getD 0) ++ zeros 56 ++ es.flatten)

/-- Log page 0xC1 (R135): 64 B. -/
def State.pageC1 (s : State) : Page :=
  let p := s.fl.ptx
  .whole (leBytes 1 (b2n p.unp) ++ leBytes 1 p.reason ++ zeros 2 ++ leBytes 4 p.switches ++ leBytes 8 p.lastSw ++ leBytes 8 s.fl.dirty
    ++ leBytes 8 p.limit ++ leBytes 8 s.fl.drainPend ++ leBytes 4 (min p.flushes (2 ^ 32 - 1)) ++ leBytes 4 (min p.maxFlush (2 ^ 32 - 1)) ++ zeros 16)

/-- The instance that a Log Specific Identifier names (R161): 0xFFFF the requester; another one for a PF of its port alone. -/
def State.lsiInst (s : State) (x : Ctx) : Except Status Nat :=
  let k := x.sqe.lsi
  if k = 0xFFFF ∨ k = x.inst then (if (s.qce.inst? x.inst).isSome then .ok x.inst else .error .invalidField)
  else if k < 2048 ∧ s.asPf x ∧ s.ofPort x k then .ok k
  else .error .invalidField

/-- Log page 0xC2 (R161). -/
def State.pageC2 (s : State) (inst : Nat) : Page := .whole ((s.tas.instOf inst).logC2 inst)

/-- The scope of log page 0xC3 (R313): an instance, or none for the whole device. -/
def State.histScope (s : State) (x : Ctx) : Except Status (Option Nat) :=
  if x.sqe.lsi = 0xFFFE then (if s.asPf x then .ok none else .error .invalidField)
  else
    match s.lsiInst x with
    | .ok k => .ok (some k)
    | .error st => .error st

/-- A histogram of log page 0xC3: 1,024 B. -/
def histBytes (t : Tab Nat) (h : Nat) : List Byte :=
  let b := 64 + 1024 * h
  let q := fun (k : Nat) => leBytes 8 (Tab.getD t (b + k) 0)
  q 0 ++ q 8 ++ leBytes 4 (Tab.getD t (b + 16) 0) ++ leBytes 4 (histLimit h) ++ q 24 ++ q 32 ++ q 40 ++ zeros 16
    ++ (List.range 120).flatMap fun k => q (64 + 8 * k)

/-- Log page 0xC3 (R313): 8,256 B. -/
def pageC3 (id : Nat) (t : Tab Nat) : Page :=
  let q := fun (k : Nat) => leBytes 8 (Tab.getD t k 0)
  .whole (leBytes 2 id ++ zeros 6 ++ q 8 ++ q 16 ++ q 24 ++ q 32 ++ zeros 24 ++ (List.range 8).flatMap (histBytes t))

/-- STATE of log page 0xC4. -/
def DieHealth.code : DieHealth → Nat
  | .inService => 1 | .suspect => 2 | .retiring => 3 | .retired => 4

/-- An entry of log page 0xC4 (R294). -/
def DieRec.bytes (r : DieRec) : List Byte :=
  leBytes 1 r.health.code ++ leBytes 1 (b2n r.heldOut + 2 * b2n r.byCommand) ++ leBytes 2 (min 65535 r.gbad)
    ++ leBytes 2 (if r.health = .retiring then 1000 * (r.total - r.todo.length) / max 1 r.total else 0xFFFF) ++ zeros 2
    ++ leBytes 4 (min (2 ^ 32 - 1) r.soft) ++ leBytes 4 (min (2 ^ 32 - 1) r.dune)

/-- Log page 0xC4 (R294): a header of 64 B, then 16 B for each die index. -/
def State.pageC4 (s : State) : Page :=
  let f := s.fl
  let ds := f.hw.dies
  let count := fun (p : DieHealth → Bool) => (ds.filter fun d => p (f.dieRec d).health).length
  let head := leBytes 2 ds.length ++ leBytes 2 (count fun h => h == .inService || h == .suspect) ++ leBytes 2 (count fun h => h == .retiring)
    ++ leBytes 2 (count fun h => h == .retired) ++ leBytes 8 f.dip.unrec ++ leBytes 8 f.dip.mirages ++ leBytes 8 f.dip.mirdeny ++ leBytes 8 f.dip.softdec
    ++ leBytes 8 f.dip.dunerec ++ leBytes 8 f.dip.mispl ++ zeros 8
  .rows 16 2052 fun k =>
    if k < 4 then slice head (16 * k) 16
    else if f.hw.hasDie (k - 4) then (f.dieRec (k - 4)).bytes
    else zeros 4 ++ leBytes 2 0xFFFF ++ zeros 10

/-- The valid records of the event log, by RSEQ. -/
def Fev.validSeqs (f : Fev) : List Nat := (f.log.filter fun e => e.2.stage == .valid).map fun e => e.2.rseq

/-- The 64 B header of log page 0xC5 (R451). -/
def Fev.logHeader (f : Fev) : List Byte :=
  let ss := f.validSeqs
  leBytes 8 (ss.foldl max 0) ++ leBytes 8 (match ss with
      | [] => 0
      | a :: rest => rest.foldl min a)
    ++ leBytes 4 (f.nextIdx.getD 0xFFFFFFFF) ++ leBytes 4 ss.length ++ leBytes 4 f.dropped ++ leBytes 4 f.dropCrit ++ leBytes 4 f.badrec
    ++ leBytes 2 ((List.range logSectors).filter fun k => f.level k == 3).length ++ leBytes 1 f.ffq.length ++ leBytes 1 f.ffqOvfl ++ zeros 24

/-- Bytes of a slot of the event log, and of an entry of the first-fault queue. -/
def Fev.slotBytes (f : Fev) (n : Nat) : List Byte := match Tab.get? f.log n with
  | some e => e.shown
  | none => zeros 64
def Fev.ffqBytes (f : Fev) (n : Nat) : List Byte := match f.ffq[n]? with
  | some e => e.bytes
  | none => zeros 16

/-- Log page 0xC5 (R451): the header, 32 first-fault entries, 262,144 slots. -/
def Fev.pageC5 (f : Fev) : Page :=
  .rows 64 262153 fun k =>
    if k = 0 then f.logHeader
    else if k < 9 then (List.range 4).flatMap fun i => f.ffqBytes (4 * (k - 1) + i)
    else f.slotBytes (k - 9)

/-! ## The command -/

/-- The page that a Get Log Page names (R95). -/
def State.logPage (s : State) (x : Ctx) : Except Status Page :=
  match x.sqe.lid with
  | 0x01 => .ok (s.page01 x)
  | 0x02 => .ok s.page02
  | 0x03 => .ok (.whole (s.mgc.logFirmware s.slotVersion))
  | 0x04 => .ok (s.page04 x)
  | 0x05 => .ok (s.page05 x)
  | 0x06 => .ok s.page06
  | 0x09 => if x.sqe.lsi = 1 then .ok s.page09 else .error .invalidField
  | 0x0C => .ok (s.page0C x)
  | 0x20 => if x.sqe.lsi = 1 then .ok s.page20 else .error .invalidField
  | 0x21 => if x.sqe.lsi ≠ 1 then .error .invalidField else if s.fl.ptx.fdp then .ok s.page21 else .error .fdpDisabled
  | 0x22 => if x.sqe.lsi ≠ 1 then .error .invalidField else if s.fl.ptx.fdp then .ok s.page22 else .error .fdpDisabled
  | 0x23 => if x.sqe.lsi ≠ 1 then .error .invalidField else if s.fl.ptx.fdp then .ok (s.page23 x) else .error .fdpDisabled
  | 0x80 => .ok (s.page80 x)
  | 0x81 => .ok s.page81
  | 0xBF => if (s.callerNs x x.sqe.nsid).isSome then .ok (s.pageBF x) else .error .invalidNs
  | 0xC0 => .ok (s.pageC0 x)
  | 0xC1 => .ok s.pageC1
  | 0xC2 =>
    match s.lsiInst x with
    | .ok k => .ok (s.pageC2 k)
    | .error st => .error st
  | 0xC3 =>
    match s.histScope x with
    | .ok (some k) => .ok (pageC3 k (Tab.getD s.tas.insts k (TasInst.fresh .default' 0)).hist)
    | .ok none => .ok (pageC3 0xFFFE s.hist)
    | .error st => .error st
  | 0xC4 => .ok s.pageC4
  | 0xC5 => .ok s.fev.pageC5
  | 0xC6 => .ok (.whole (s.ptm.logC6 (!s.fl.ptx.unp) s.clock.now))
  | 0xC7 => .ok (s.pageC7 x)
  | _ => .error (stat 1 0x09)

/-- A read of log page 0xC2 or 0xC3 by a PF with LSP bit 0 clears its counters (R161, R313). -/
def State.clearCounters (s : State) (x : Ctx) : State :=
  if natBits x.sqe.lsp 0 0 = 0 ∨ !s.asPf x then s
  else if x.sqe.lid = 0xC2 then
    match s.lsiInst x with
    | .ok k => { s with tas := s.tas.updInst k fun t => { t with stats := [] } }
    | .error _ => s
  else if x.sqe.lid = 0xC3 then
    match s.histScope x with
    | .ok (some k) => { s with tas := s.tas.updInst k fun t => { t with hist := [(8, s.clock.now)] } }
    | .ok none => { s with hist := [(8, s.clock.now)] }
    | .error _ => s
  else s

/-- What a read of a page with Retain Asynchronous Event 0 does: its events may be raised again, and a list that it returned is empty (R93,
R181). -/
def Qce.pageTaken (q : Qce) (inst lid nsid : Nat) : Qce :=
  (q.updInst inst fun i =>
    { i with
      changedNs := if lid = 0x04 then [] else i.changedNs
      changedZones := if lid = 0xBF then i.changedZones.filter fun z => z.1 + 1 != nsid else i.changedZones
      resvLog := if lid = 0x80 then i.resvLog.drop 1 else i.resvLog }).pageRead inst lid

/-- The ports a discovery controller reports: each transport and address its configuration block enables (R49, R50, R413). -/
def discEntries (port : Nat) (b : List Byte) : List DiscEntry :=
  let f := leNat (slice b 1 1)
  [2, 3].flatMap fun t =>
    if !f.testBit t then []
    else
      [0, 1].filterMap fun v =>
        if f.testBit v then some ⟨port, t == 2, v == 1, 4420, if v = 0 then slice b 8 4 else slice b 20 16⟩ else none

/-- A Discovery log page read at a port's discovery controller: the ports and subsystem NQN of this device only (R50). -/
def State.discoveryPage (s : State) (a : AdminCmd) : State :=
  if a.q.lid = 0x70 ∧ (s.hfu.conns.any fun c => c.2.inst == a.inst) then
    s.emit (.discovery (a.inst - 2048) Config.subsysNqn
      ((Tab.keysWhere s.hfu.ports fun _ p => p.proto = .eth).flatMap fun n => discEntries n ((s.portBlock n).getD [])))
  else s

/-- GET_LOG_PAGE (R95), and at a port's discovery controller the Discovery log page. -/
def execGetLogPage (a : AdminCmd) (s : State) : Host.Outcome State Fault Refusal :=
  .next (if 2048 ≤ a.inst ∧ !a.side then s.discoveryPage a else s.admin a 0x02 .every true true fun g c x =>
    match g.logPage x with
    | .error st => g.fin c st
    | .ok p =>
      let o := x.sqe.logOffset
      let n := x.sqe.logBytes
      if o % 4 ≠ 0 ∨ p.size < o ∨ x.sqe.lid = 0xC5 ∧ p.size < o + n then g.fin c .invalidField
      else
        let h := (g.emit (.data c (p.read x.sqe.lid o n))).clearCounters x
        let h : State := if x.sqe.rae then h else { h with qce := h.qce.pageTaken x.inst x.sqe.lid x.sqe.nsid }
        h.fin c .success)

end Sys2Proof.Machine
end

