-- ==== Sys2Proof/Machine/Identify.lean ====
section
/-! DEFINITION. Identify (R93, R94, R120, R141, R145, R163 to R166, R173, R437, R458, R471, R474, R497, R498). Structures have the NVMe base
specification's layout (PRESUMED, log entry 26); bytes that no rule states are open (log entry 50). -/

namespace Sys2Proof.Machine

/-- A structure of `size` bytes from its stated fields, by offset; between them bytes are open. -/
def layOut (structure' at' size : Nat) : List (Nat × List Byte) → List Byte
  | [] => openBytes structure' at' (size - at')
  | (o, bs) :: rest => openBytes structure' at' (o - at') ++ bs ++ layOut structure' (o + bs.length) size rest

/-- A byte with some bits stated and the others open. -/
def partByte (structure' at' mask v : Nat) : List Byte :=
  [(Config.pageByte structure' at' &&& ~~~(BitVec.ofNat 8 mask)) ||| BitVec.ofNat 8 (v &&& mask)]

/-! ## Controllers -/

/-- LGMODE: the mode of the lane group of a port (R35). -/
def Hfu.modeOf (h : Hfu) (n : Nat) : Nat :=
  match Tab.get? h.ports n with
  | some p => if p.group = 0 then h.regs.fld .hfuLgcfg 2 0 else h.regs.fld .hfuLgcfg 10 8
  | none => 0

/-- FEAT of R497. -/
def State.featByte (s : State) : Nat :=
  b2n (!s.part.s0) + 2 * s.fl.dip.regs.fld .dipPccfg 31 31 + 4 * s.sec.regs.fld .secCfg 0 0 + 8 * s.fl.dip.regs.fld .dipMircfg 31 31
    + 16 * s.fl.ptx.regs.fld .ptxRclcfg 28 28

/-- Bytes 3,072 to 4,095 of Identify Controller (R497). -/
def State.vendorController (s : State) (i : Inst) : List Byte :=
  let mib := 1048576
  leBytes 2 1 ++ leBytes 1 i.port ++ leBytes 1 (s.hfu.modeOf i.port) ++ leBytes 2 (s.hfu.regs.fld .hfuLeasecfg 31 16)
    ++ leBytes 2 (s.hfu.regs.fld .hfuLeasecfg 15 0) ++ (s.tas.lcbud.flatMap (leBytes 2)) ++ leBytes 1 s.featByte ++ leBytes 1 (b2n s.fl.ptx.unp)
    ++ leBytes 1 s.tas.wcost ++ leBytes 1 (s.fl.dip.regs.fld .dipMircfg 7 0) ++ leBytes 4 (s.fl.ptx.protMax / mib) ++ leBytes 4 (s.fl.ptx.unpMax / mib)
    ++ leBytes 8 s.mgc.run.version ++ leBytes 4 s.mgc.run.svn ++ leBytes 4 s.mgc.cal.minimg ++ leBytes 2 s.fl.hw.dies.length
    ++ leBytes 2 (s.fl.hw.dies.filter fun d => (s.fl.dieRec d).health == .retired).length
    ++ leBytes 8 ((s.fl.hw.channels.map fun ch => 2 ^ ch).sum) ++ zeros 960

/-- Identify Controller, CNS 0x01 (R94, R120, R375, R403, R408, R437, R458, R471, R474). -/
def State.identifyController (s : State) (inst : Nat) (i : Inst) : List Byte :=
  layOut 0x2001 0 4096
    [ (4, fit 20 s.mgc.cal.serial), (64, versionText s.mgc.run.version), (77, leBytes 1 9 ++ leBytes 2 inst), (84, leBytes 4 45000000 ++ leBytes 4 12000000),
      (258, leBytes 1 31 ++ leBytes 1 15 ++ leBytes 1 0x14), (262, leBytes 1 255), (266, leBytes 2 368 ++ leBytes 2 378 ++ leBytes 2 1),
      (280, leBytes 16 s.fl.hw.offered ++ leBytes 16 s.fl.unvmcap), (316, leBytes 2 20), (319, leBytes 1 1 ++ leBytes 2 1),
      (328, leBytes 3 7 ++ partByte 0x2001 331 0x3F 0x20), (340, leBytes 2 1), (512, leBytes 1 0x66 ++ leBytes 1 0x44 ++ leBytes 2 (if i.eth then 4096 else 0)
        ++ leBytes 4 8192), (522, leBytes 2 0), (525, leBytes 1 7 ++ leBytes 2 511 ++ leBytes 2 511), (532, leBytes 2 0), (3072, s.vendorController i) ]

/-- Primary Controller Capabilities, CNS 0x14 (R141). -/
def State.primaryCaps (s : State) (inst : Nat) (i : Inst) : List Byte :=
  let r := s.hfu.range i.port
  let vfs := (List.range (r.2 - 1)).map fun j => s.qce.vqOf i.port (r.1 + 1 + j)
  let frt := s.qce.pool i.port - s.qce.qpdef i.port + r.2 - 1
  let prt := s.qce.qpdef i.port + 1
  let half := leBytes 4 frt ++ leBytes 4 vfs.sum ++ leBytes 2 0 ++ leBytes 2 prt
  layOut 0x2014 0 4096 [(0, leBytes 2 inst ++ leBytes 2 i.port ++ leBytes 1 3), (32, half), (64, half)]

/-- Secondary Controller List, CNS 0x15: the virtual functions of the PF's port, from a controller identifier on. -/
def State.secondaryList (s : State) (inst : Nat) (i : Inst) (lo : Nat) : List Byte :=
  let r := s.hfu.range i.port
  let vfs := (((List.range (r.2 - 1)).map (· + 1)).filter fun j => decide (lo ≤ r.1 + j)).take 127
  let entry := fun (j : Nat) =>
    let v := r.1 + j
    let online := s.qce.vfOnline i.port v
    let vq := s.qce.vqOf i.port v
    leBytes 2 v ++ leBytes 2 inst ++ leBytes 1 (b2n online) ++ zeros 3 ++ leBytes 2 j ++ leBytes 2 vq ++ leBytes 2 vq ++ zeros 18
  fit 4096 (leBytes 1 vfs.length ++ zeros 31 ++ vfs.flatMap entry)

/-- A controller list: a count, then the identifiers. -/
def controllerList (ks : List Nat) : List Byte :=
  let few := ks.take 2047
  fit 4096 (leBytes 2 few.length ++ few.flatMap (leBytes 2))

/-- Controllers that exist, in rising order from one. -/
def State.controllersFrom (s : State) (lo : Nat) (p : Nat → Bool) : List Nat :=
  (Tab.keysWhere s.qce.insts fun k _ => decide (lo ≤ k) && p k).foldr (insertBy fun a b => decide (a ≤ b)) []

/-! ## Namespaces -/

/-- Namespace identifiers above one, in rising order: at most 1,024. -/
def State.nsidsAbove (s : State) (lo : Nat) (p : Nat → Ns → Bool) : List Nat :=
  (((Tab.keysWhere s.fl.ptx.nss fun k n => decide (lo < k + 1) && p k n).map (· + 1)).foldr (insertBy fun a b => decide (a ≤ b)) []).take 1024

/-- The LBA formats of R163: metadata bytes and the exponent of the data size. -/
def lbaFormats : List (Nat × Nat) := [(0, 9), (0, 12), (8, 12), (16, 12), (16, 12)]

/-- The vendor fields of Identify Namespace (R166, R498). -/
def State.vendorNs (s : State) (k : Nat) (n : Ns) : List Byte :=
  leBytes 1 (if n.iu = 1 then 0 else if n.iu = 4 then 1 else 2) ++ leBytes 1 n.sflags ++ zeros 2 ++ leBytes 8 n.zsze ++ leBytes 4 n.zactive ++ leBytes 4 n.zopen
    ++ leBytes 1 (b2n n.slc) ++ leBytes 1 (b2n (s.leaseOf k).guarded + 2 * b2n n.kpio.isSome + 4 * b2n n.stream.isSome) ++ leBytes 2 k
    ++ leBytes 2 (n.stream.getD 0xFFFF) ++ leBytes 2 ((n.kpio.map Prod.snd).getD 0) ++ leBytes 4 (n.mapCost n.nsze / 1048576) ++ zeros 224

/-- NSATTR bit 0: the namespace is write protected, by the device or by its own feature (R216). -/
def State.nsProtected (s : State) (n : Ns) : Bool := s.fl.ptx.wprot && !n.zoned || n.wprot != 0

/-- Identify Namespace, CNS 0x00 (R120, R145, R162 to R166, R498). -/
def State.identifyNs (s : State) (k : Nat) (n : Ns) : List Byte :=
  let u := n.perIu - 1
  let au := 262144 / n.blockBytes - 1
  let mcl := 2097152 / n.blockBytes
  layOut 0x2000 0 4096
    [ (0, leBytes 8 n.nsze ++ leBytes 8 n.nsze), (24, partByte 0x2000 24 0x13 0x12 ++ leBytes 1 4 ++ leBytes 1 (n.lbaf + 16 * b2n n.extended)),
      (29, leBytes 1 (n.pit + 8 * b2n n.piFirst) ++ partByte 0x2000 30 1 (b2n n.shared)),
      (33, leBytes 1 0x19 ++ leBytes 2 au ++ leBytes 2 au ++ leBytes 2 0 ++ leBytes 2 au ++ leBytes 2 0 ++ leBytes 2 au),
      (48, leBytes 16 (n.capacity n.nsze) ++ leBytes 2 u ++ leBytes 2 u ++ leBytes 2 u ++ leBytes 2 u ++ leBytes 2 au ++ leBytes 2 mcl ++ leBytes 4 mcl),
      (92, leBytes 4 1), (99, partByte 0x2000 99 1 (b2n (s.nsProtected n))), (102, leBytes 2 1), (128, lbaFormats.zipIdx.flatMap fun f => leBytes 2 f.1.1 ++ leBytes 1 f.1.2 ++ partByte 0x2000 (131 + 4 * f.2) 0xFC 0),
      (3840, s.vendorNs k n) ]

/-- What Identify Namespace says of every namespace: NSID 0xFFFFFFFF. -/
def identifyCommonNs : List Byte := layOut 0x2100 0 4096 [(25, leBytes 1 4), (33, leBytes 1 0x19), (92, leBytes 4 1), (102, leBytes 2 1)]

/-- Namespace Identification Descriptors, CNS 0x03: an NGUID, whose value is not stated, and the command set. -/
def Ns.descriptors (n : Ns) (k : Nat) : List Byte :=
  fit 4096 (leBytes 1 2 ++ leBytes 1 16 ++ zeros 2 ++ openBytes 0x2003 (16 * k) 16 ++ leBytes 1 4 ++ leBytes 1 1 ++ zeros 2 ++ leBytes 1 (if n.zoned then 2 else 0))

/-- The command set of a namespace. -/
def Ns.csi (n : Ns) : Nat := if n.zoned then 2 else 0

/-- The NVM command set's own part, CNS 0x05 with CSI 0, of a namespace of either command set (R163, R164): guard types and storage tag sizes; STCRS is 0. -/
def identifyNvmNs : List Byte :=
  layOut 0x2005 0 4096
    [ (8, partByte 0x2005 8 4 0), (12, ([(0, 0), (0, 0), (0, 0), (2, 0), (1, 32)] : List (Nat × Nat)).flatMap fun f => leBytes 4 (f.2 + 128 * f.1)) ]

/-- The zoned command set's own part, CNS 0x05 with CSI 2 (R173). -/
def Ns.zonedPart (n : Ns) : List Byte :=
  layOut 0x2205 0 4096
    [ (0, leBytes 2 0 ++ leBytes 2 1 ++ leBytes 4 (n.zactive - 1) ++ leBytes 4 (n.zopen - 1) ++ zeros 32),
      (2816, (List.range 5).flatMap fun f => leBytes 8 (n.zsze * n.blockBytes / (if f = 0 then 512 else 4096)) ++ leBytes 1 0 ++ zeros 7) ]

/-- The part that no command set owns, CNS 0x08. -/
def State.independentNs (s : State) (n : Ns) : List Byte :=
  layOut 0x2008 0 4096
    [(1, partByte 0x2008 1 1 (b2n n.shared)), (4, leBytes 4 1), (8, partByte 0x2008 8 1 (b2n (s.nsProtected n))), (12, leBytes 2 1)]

/-- A structure of one namespace: zeros for one that the caller does not see. -/
def State.ofNs (s : State) (x : Ctx) (all : Bool) (f : Nat → Ns → List Byte) : Except Status (List Byte) :=
  if x.sqe.nsid = 0 ∨ 8192 < x.sqe.nsid then .error .invalidNs
  else
    match if all then s.fl.ns? (x.sqe.nsid - 1) else s.callerNs x x.sqe.nsid with
    | some n => .ok (f (x.sqe.nsid - 1) n)
    | none => .ok (zeros 4096)

/-! ## The command -/

/-- The command sets of R162. -/
def knownCsi (k : Nat) : Bool := k == 0 || k == 2

/-- Structures of the caller's instance. -/
def State.identifyInst (s : State) (x : Ctx) (i : Inst) : Except Status (List Byte) :=
  match x.sqe.cns with
  | 0x01 => .ok (s.identifyController x.inst i)
  | 0x06 => if x.sqe.csi = 2 then .ok (layOut 0x2206 0 4096 [(0, leBytes 1 0)]) else if x.sqe.csi = 0 then .ok (openBytes 0x2006 0 4096) else .error .invalidField
  | 0x14 => if i.pf && !i.eth then .ok (s.primaryCaps x.inst i) else .error .invalidField
  | 0x15 => if i.pf && !i.eth then .ok (s.secondaryList x.inst i x.sqe.cntid) else .error .invalidField
  | _ => .ok (fit 4096 (leBytes 8 5))

/-- What an Identify returns (R93). -/
def State.identify (s : State) (x : Ctx) : Except Status (List Byte) :=
  let active := fun (k : Nat) => (s.callerNs x (k + 1)).isSome
  match x.sqe.cns with
  | 0x00 => if x.sqe.nsid = 0xFFFFFFFF then .ok identifyCommonNs else s.ofNs x false s.identifyNs
  | 0x02 => if 0xFFFFFFFE ≤ x.sqe.nsid then .error .invalidNs else .ok (nsidList (s.nsidsAbove x.sqe.nsid fun k _ => active k))
  | 0x03 => s.ofNs x false fun k n => n.descriptors k
  | 0x05 =>
    if knownCsi x.sqe.csi then s.ofNs x false fun _ n => if x.sqe.csi = 0 then identifyNvmNs else if n.zoned then n.zonedPart else zeros 4096
    else .error .invalidField
  | 0x07 =>
    if !knownCsi x.sqe.csi then .error .invalidField
    else if 0xFFFFFFFE ≤ x.sqe.nsid then .error .invalidNs
    else .ok (nsidList (s.nsidsAbove x.sqe.nsid fun k n => active k && n.csi == x.sqe.csi))
  | 0x08 => s.ofNs x false fun _ n => s.independentNs n
  | 0x10 => if 0xFFFFFFFE ≤ x.sqe.nsid then .error .invalidNs else .ok (nsidList (s.nsidsAbove x.sqe.nsid fun _ _ => true))
  | 0x11 => s.ofNs x true s.identifyNs
  | 0x12 =>
    match s.fl.ns? (x.sqe.nsid - 1) with
    | some n => if x.sqe.nsid = 0 then .error .invalidNs else .ok (controllerList (s.controllersFrom x.sqe.cntid fun k => n.attached.contains k))
    | none => .error .invalidNs
  | 0x13 => .ok (controllerList (s.controllersFrom x.sqe.cntid fun _ => true))
  | k =>
    if [0x01, 0x06, 0x14, 0x15, 0x1C].contains k then
      match s.qce.inst? x.inst with
      | some i => s.identifyInst x i
      | none => .error .invalidField
    else .error .invalidField

/-- IDENTIFY (R93, R94). -/
def execIdentify (a : AdminCmd) (s : State) : Host.Outcome State Fault Refusal :=
  .next (s.admin a 0x06 .every true true fun g c x =>
    match g.identify x with
    | .ok bs => (g.emit (.data c bs)).fin c .success
    | .error st => g.fin c st)

end Sys2Proof.Machine
end

