-- ==== Sys2Proof/Machine/MediaEvents.lean ====
section
/-! DEFINITION. Events of the media side (R21, R186, R201, R205, R209, R215, R222, R224, R236, R243 to R249, R254, R257, R266 to R282, R291, R301 to
R305): stripes, dies, decoders, reclaim, checkpoints, rebuild and parity jobs. -/

namespace Sys2Proof.Machine

/-! ## What every event of the media side is followed by -/

/-- Since when the timed condition of the capacity state holds (R215). -/
def Flash.capTimed (f : Flash) (now : Nat) : Flash :=
  let holds := if f.ptx.cap = 3 then f.nothingToReclaim else if f.ptx.cap = 4 then !f.anyLow && decide (f.ptx.rclUrg ≤ f.fbe) else false
  { f with ptx := { f.ptx with capSince := if holds then some (f.ptx.capSince.getD now) else none } }

/-- What the media side does of itself after an event: bands move on, dies become RETIRED, wear moves are forced (R213), the capacity state, the
drain, the Wadi, the journal and the checkpoint follow. -/
def Flash.follow (f : Flash) (now hours : Nat) : Flash × List Note :=
  let g := ((f.closeStale now hours).settle.wearLevel hours false).wearLevel hours true
  let r := thenDo g.allRetired Flash.capUpdate
  thenDo r fun g => ((((g.capTimed now).drained.wadiRelease).journalIfFull now).noteAllReady now).ckptIfDue now hours

/-- An event of the media side has been handled. -/
def State.media (s : State) (r : Flash × List Note) : State :=
  (s.told (thenDo r fun f => f.follow s.clock.now s.hours)).judgeMode

/-- Runs an event of the media side where the device runs. -/
def State.onMedia (s : State) (f : State → Flash × List Note) : Host.Outcome State Fault Refusal :=
  .next (s.whenRuns fun s => s.media (f s))

/-- A die lies in a scope that recovers (R30). -/
def State.recovering (s : State) (d : Nat) : Bool :=
  s.fev.active.any fun sc => match sc with
    | .channel n => n == d / 32
    | .cluster k => k == dieCluster d
    | .device => true
    | .core _ => false

/-- A die's sequencer runs. -/
def State.dieRuns (s : State) (d : Nat) : Bool :=
  s.fl.hw.hasDie d && !s.recovering d && Tab.getD s.fl.mbe.chSt (d / 32) 0 == 2

/-- An event of one attached die. -/
def State.onDie (s : State) (d : Nat) (f : State → Flash × List Note) : Host.Outcome State Fault Refusal :=
  s.onMedia fun s => if s.dieRuns d then f s else (s.fl, [])

/-! ## Stripes -/

/-- A change that a Flush or a FUA write waits for in unprotected mode (R126, R127), or the flush of a shutdown notification (R107). -/
def State.wanted (s : State) (nsx w : Nat) : Bool :=
  s.fl.ptx.unp
    && ((s.qce.ctxs.any fun e =>
          e.2.kind == .flush && e.2.state == .data && !e.2.arrived && e.2.covers nsx w
            || e.2.fua && e.2.recorded && e.2.state == .data && e.2.nsx == some nsx && e.2.wsn == w)
        || s.qce.insts.any fun e => match e.2.shutdown with
          | some (some (u, ex)) => decide (w ≤ u) && !ex.contains w && (match s.fl.ns? nsx with | some n => n.attached.contains e.1 | none => false)
          | _ => false)

/-- A stripe that is not full may be programmed (R201). -/
def State.padOk (s : State) (barchan : Nat) : Bool := s.fl.padReason barchan s.wanted s.mgc.shutdown.isSome

/-- A barchan carries data that goes ahead of other Oasis data (R126, R130). -/
def State.urgentFor (s : State) (barchan : Nat) : Bool :=
  s.fl.ptx.draining || (s.fl.waitingSlots barchan).any fun e => (e.2.wsn :: e.2.carried).any fun w => s.wanted e.2.nsx w

/-- Holds a full stripe (R186): steering is on, a die of its band is busy, another barchan's ready stripe is free of busy dies, no
reason against a hold stands, and HOLDMAX has not passed since it was ready (log entry 60). -/
def State.holds (s : State) (barchan : Nat) : Bool :=
  s.fl.stripeReady barchan && s.fl.ptx.regs.bit .ptxSteercfg 31 && s.fl.busyFor barchan && s.fl.otherReady barchan
    && !(s.fl.noHold barchan s.wanted)
    && decide (s.clock.now < Tab.getD s.fl.ptx.readyAt barchan s.clock.now + s.fl.ptx.regs.fld .ptxSteercfg 27 16 * 10)

/-- Starts the merge reads that a barchan's waiting IUs need (R169). -/
def Flash.mergeAll (f : Flash) (now barchan : Nat) : Flash × List Note :=
  forEach f ((f.needMerge barchan).filter fun e => !e.2.merging) fun g e => g.startMerge now e.1 e.2

/-- Places what a barchan has ready: missing granules are read first; a stripe is held, or placed (R169, R186, R199, R201). Barchans 16 and 17 take what
the running checkpoint writes (R202, R224). -/
def State.placeStripe (s : State) (barchan : Nat) (pad expired : Bool) : Flash × List Note :=
  let f := s.fl
  let ok := pad && s.padOk barchan
  if barchan = 16 ∨ barchan = 17 then (f.placeCkpt s.clock.now barchan, [])
  else if !(f.stripeReady barchan) && !ok then (f, [])
  else if !(f.needMerge barchan).isEmpty then f.mergeAll s.clock.now barchan
  else if !expired && s.holds barchan then (f, [])
  else (f.issueStripe s.clock.now barchan ok (s.urgentFor barchan), [])

/-- STRIPE_PROGRAM_ISSUE (R21, R199 to R201): a full stripe, or with `pad` one that R201 lets be padded. -/
def execStripeProgramIssue (barchan : Nat) (pad : Bool) (s : State) : Host.Outcome State Fault Refusal :=
  s.onMedia fun s => s.placeStripe barchan pad false

/-- STRIPE_HOLD_EXPIRY (R186): HOLDMAX has passed since the stripe that is held was ready. -/
def execStripeHoldExpiry (barchan : Nat) (s : State) : Host.Outcome State Fault Refusal :=
  .next (s.whenRuns fun s =>
    match s.holds barchan, Tab.get? s.fl.ptx.readyAt barchan with
    | true, some t =>
      let g := s.until' (t + s.fl.ptx.regs.fld .ptxSteercfg 27 16 * 10)
      g.media (g.placeStripe barchan false true)
    | _, _ => s)

/-- JTIME_EXPIRY (R222): the journal tail is programmed. -/
def execJtimeExpiry (s : State) : Host.Outcome State Fault Refusal :=
  .next (s.whenRuns fun s =>
    if s.fl.ptx.tail.isEmpty then s
    else
      let g := s.until' (s.fl.ptx.tailAt + s.fl.ptx.jtime)
      g.media (g.fl.programJournal g.clock.now false, []))

/-! ## Dies -/

/-- DIE_WORK_SELECT (R301 to R304). In a scope that recovers the die takes nothing, and its reads wait or go to Mirage reads (R30; taken at this
event, DEDUCED, log entry 178). -/
def execDieWorkSelect (die : Nat) (s : State) : Host.Outcome State Fault Refusal :=
  s.onMedia fun s =>
    if s.dieRuns die then s.fl.selectWork s.clock.now s.hours die s.recovering
    else if s.fl.hw.hasDie die && s.recovering die then (s.fl.mirageWaiting s.clock.now die s.recovering, [])
    else (s.fl, [])

/-- DIE_SUSPENDED (R247, R248). -/
def execDieSuspended (die : Nat) (s : State) : Host.Outcome State Fault Refusal :=
  s.onDie die fun s => (s.fl.suspended s.clock.now die, [])

/-- DIE_READ_DONE (R243). -/
def execDieReadDone (die job : Nat) (s : State) : Host.Outcome State Fault Refusal :=
  s.onDie die fun s => (s.fl.readDone die job, [])

/-- FRAME_TRANSFER_DONE (R237). -/
def execFrameTransferDone (ch : Nat) (s : State) : Host.Outcome State Fault Refusal :=
  s.onMedia fun s =>
    if s.fl.hw.hasChannel ch && Tab.getD s.fl.mbe.chSt ch 0 == 2 then (s.fl.transferDone s.clock.now ch, []) else (s.fl, [])

/-- An operation that ran when the safe state or a dump began has finished: its die is idle, and nothing follows (R259). -/
def Flash.quietEnd (f : Flash) (d : Nat) : Flash :=
  f.updDie d fun x =>
    match x.st with
    | .prog => { x with st := .idle, op := none, suspending := false }
    | .erase => { x with st := .idle, op := none, suspending := false }
    | .esProg => { x with st := .es, nested := none }
    | _ => x

/-- WORDLINE_PROGRAM_STATUS (R239, R244, R246): commits, or places the data again. -/
def execWordlineProgramStatus (die : Nat) (pass : Bool) (s : State) : Host.Outcome State Fault Refusal :=
  .next (
    if s.runs then (if s.dieRuns die then s.media (s.fl.programStatus s.clock.now s.hours die pass) else s)
    else if s.up then s.withFl (s.fl.quietEnd die) else s)

/-- ERASE_STATUS (R239, R245, R246). -/
def execEraseStatus (die : Nat) (pass : Bool) (s : State) : Host.Outcome State Fault Refusal :=
  .next (
    if s.runs then (if s.dieRuns die then s.media (s.fl.eraseDone s.clock.now s.hours die pass) else s)
    else if s.up then s.withFl (s.fl.quietEnd die) else s)

/-- DIE_RESET_COMPLETE (R30, R247, R279). -/
def execDieResetComplete (die : Nat) (ok : Bool) (s : State) : Host.Outcome State Fault Refusal :=
  s.onMedia fun s => s.fl.resetDone s.clock.now s.hours die ok

/-- SUSPEND_HOLD_EXPIRY (R248, R304). -/
def execSuspendHoldExpiry (die : Nat) (s : State) : Host.Outcome State Fault Refusal :=
  .next (s.whenRuns fun s =>
    if s.dieRuns die then
      let g := s.until' (s.fl.die die).holdEnd
      g.media (g.fl.holdExpired g.clock.now die g.recovering, [])
    else s)

/-- NESTWAIT_EXPIRY (R249). -/
def execNestwaitExpiry (die : Nat) (s : State) : Host.Outcome State Fault Refusal :=
  s.onDie die fun s => s.fl.nestExpired s.clock.now s.hours die

/-- INTMAX_EXPIRY (R301): the oldest internal operation has waited INTMAX behind host reads; the die takes it as soon as it can. -/
def execIntmaxExpiry (die : Nat) (s : State) : Host.Outcome State Fault Refusal :=
  .next (s.whenRuns fun s =>
    match (s.fl.die die).internal.head? with
    | some q =>
      if s.dieRuns die then
        let g := s.until' (q.since + s.fl.intmaxT die)
        g.media (g.fl.selectWork g.clock.now g.hours die g.recovering)
      else s
    | none => s)

/-- TYPICAL_TIME_PASSED (R302, R304). -/
def execTypicalTimePassed (die : Nat) (s : State) : Host.Outcome State Fault Refusal :=
  s.onDie die fun s => (s.fl.typicalPassed s.clock.now die s.recovering, [])

/-- DIE_STATE_PUBLISH (R305): a cluster scheduler publishes its dies. -/
def execDieStatePublish (k : Nat) (s : State) : Host.Outcome State Fault Refusal :=
  s.onMedia fun s => (s.fl.publish s.clock.now k s.recovering, [])

/-- ZQ_SHORT_CALIBRATION (R236): queued at class B on every CE of the cluster. -/
def execZqShortCalibration (k : Nat) (s : State) : Host.Outcome State Fault Refusal :=
  s.onMedia fun s => (s.fl.calibrate s.clock.now k, [])

/-! ## Decoders and reconstruction -/

/-- Time-Limited Error Recovery of the namespace that a host read is for, in units of 100 ms; 0 where none. -/
def State.tlerOf (s : State) (job : Nat) : Nat :=
  match Tab.get? s.fl.dip.jobs job with
  | some j =>
    match j.purpose with
    | .host c _ => ((s.qce.ctx? c).bind fun x => x.nsx.bind s.fl.ns?).elim 0 fun n => n.tler
    | _ => 0
  | none => 0

/-- HARD_DECODE_DONE (R263, R266 to R269). -/
def execHardDecodeDone (job : Nat) (d : Decoded) (s : State) : Host.Outcome State Fault Refusal :=
  s.onMedia fun s => s.fl.hardDone s.clock.now s.hours (s.tlerOf job) job d

/-- SOFT_DECODE_DONE (R263, R267 to R269). -/
def execSoftDecodeDone (job : Nat) (d : Decoded) (s : State) : Host.Outcome State Fault Refusal :=
  s.onMedia fun s => s.fl.softDone s.clock.now s.hours (s.tlerOf job) job d

/-- RECONSTRUCTION_DONE (R268, R275, R278). -/
def execReconstructionDone (job : Nat) (ok : Bool) (s : State) : Host.Outcome State Fault Refusal :=
  s.onMedia fun s => s.fl.rebuilt s.clock.now job ok

/-- PATROL_READ (R270): one stored frame of a FULL block is read at class B, with the recovery sequence where it needs it; not with PATROLD 0. -/
def execPatrolRead (die block frame : Nat) (s : State) : Host.Outcome State Fault Refusal :=
  s.onMedia fun s =>
    match s.fl.bandOf die block with
    | some (_, b) =>
      if frame / 16 < b.committed && (s.fl.blk (blkKey die block)).st == .full && s.fl.dip.regs.fld .dipCfg 15 8 != 0 then s.fl.startRead s.clock.now .patrol (locKey die block frame) none 0 s.clock.now false else (s.fl, [])
    | none => (s.fl, [])

/-! ## Reclaim, erase and pools -/

/-- ERASE_ISSUE (R203, R205, R245). -/
def execEraseIssue (band : Nat) (s : State) : Host.Outcome State Fault Refusal := s.onMedia fun s => s.fl.eraseBand s.clock.now band

/-- SLC_POOL_REBALANCE (R254). -/
def execSlcPoolRebalance (s : State) : Host.Outcome State Fault Refusal := s.onMedia fun s => (s.fl.rebalance s.clock.now, [])

/-- WADI_BAND_EXCHANGE (R257). -/
def execWadiBandExchange (n : Nat) (s : State) : Host.Outcome State Fault Refusal :=
  s.onMedia fun s =>
    let f := s.fl.wadiExchange n
    ({ f with ptx := { f.ptx with wadiSwapAt := s.clock.now } }, [])

/-- RECLAIM_VICTIM_SELECT (R207 to R210). -/
def execReclaimVictimSelect (s : State) : Host.Outcome State Fault Refusal := s.onMedia fun s => s.fl.selectVictims s.clock.now s.hours

/-- A capacity state's timed row (R215): after `t` of its condition. -/
def State.capTimeout (s : State) (st t next : Nat) : State :=
  match decide (s.fl.ptx.cap = st), s.fl.ptx.capSince with
  | true, some a =>
    let g := s.until' (a + t)
    g.media (g.fl.toCap next)
  | _, _ => s

/-- CONSTRAINED_TIMEOUT (R215, R216): 1 s with nothing to reclaim. -/
def execConstrainedTimeout (s : State) : Host.Outcome State Fault Refusal := .next (s.whenRuns fun s => s.capTimeout 3 secT 4)

/-- WP_SPACE_RECOVERY_TIMEOUT (R215): 60 s of regained space. -/
def execWpSpaceRecoveryTimeout (s : State) : Host.Outcome State Fault Refusal := .next (s.whenRuns fun s => s.capTimeout 4 (60 * secT) 2)

/-! ## Checkpoints and limits -/

/-- FORCE starts a checkpoint (R224). -/
def State.forceCkpt (s : State) : State := s.whenRuns fun s => s.media (s.fl.ckptStart s.clock.now s.hours false)

/-- PTX_CKPTSTAT_FORCE (R224). -/
def execPtxCkptstatForce (r : Requester) (s : State) : Host.Outcome State Fault Refusal :=
  .next (s.csrWrite r .ptxCkptstat 0x40000000 State.forceCkpt)

/-- CHECKPOINT_COMPLETE (R224): every chunk, table and directory has been written after the first descriptor copy, which gets its VALID mark. -/
def execCheckpointComplete (s : State) : Host.Outcome State Fault Refusal :=
  s.onMedia fun s => if s.fl.ckptWritten then s.fl.ckptSeal else (s.fl, [])

/-- What a write to PTX_OASISCFG brings with it (R128, R129, R134, R419): the mode is judged again, and the HUE against a new PROTMAX. -/
def State.oasisChanged (s : State) (old : Nat) : State :=
  let g : State :=
    if s.fl.ptx.protMax = old then s else { s with ptm := s.ptm.protmaxChanged s.clock.now s.fl.ptx.protMax }
  g.judgeMode

/-- PTX_OASISCFG_WRITE (R134). -/
def execPtxOasiscfgWrite (r : Requester) (v : W32) (s : State) : Host.Outcome State Fault Refusal :=
  .next (s.csrWrite r .ptxOasiscfg v fun g => g.oasisChanged s.fl.ptx.protMax)

/-! ## Dies that leave service, and rebuild -/

/-- DIE_SUSPECT_CLEAR (R279). -/
def execDieSuspectClear (die : Nat) (s : State) : Host.Outcome State Fault Refusal :=
  .next (s.whenRuns fun s =>
    if (s.fl.dieRec die).health = .suspect then
      let g := s.until' ((s.fl.dieRec die).suspectAt + dayT)
      g.media (g.fl.suspectClear g.clock.now die, [])
    else s)

/-- REBUILD_WORK_ISSUE (R281, R282): the next band of the die is relocated, or its lost block is promoted to a spare. In a scope that recovers the
work pauses (R284). -/
def execRebuildWorkIssue (die : Nat) (s : State) : Host.Outcome State Fault Refusal :=
  s.onMedia fun s =>
    if s.recovering die then (s.fl, [])
    else
      match (s.fl.dieRec die).promoting with
      | some _ => s.fl.spareDone s.clock.now die
      | none => (s.fl.rebuildIssue die, [])

/-! ## Parity jobs (R287 to R292) -/

/-- A job may start: jobs hold 8 KiB of staging per buffer, PCMAX MiB in all (R291, R343). -/
def State.pcFits (s : State) (j : PcJob) : Bool :=
  decide (s.fl.dip.pcUse + j.staging ≤ s.mss.regs.fld .mssStgcfg 31 28 * mib)

/-- PARITY_JOB_START (R291): the engine has no other work, and the next job in the rotation starts. -/
def execParityJobStart (s : State) : Host.Outcome State Fault Refusal :=
  .next (s.whenRuns fun s =>
    match s.fl.dip.pcNext with
    | some (c, j) =>
      match s.qce.ctx? c with
      | some x =>
        if s.fl.engineFree && s.pcFits j && x.open' then
          let dip : Dip := { s.fl.dip with pcJobs := Tab.set s.fl.dip.pcJobs c { j with running := true }, lastPc := j.inst }
          { s with
            fl := { s.fl with dip := dip }
            qce := s.qce.updCtx c fun y => { y with state := .data } }
        else s
      | none => s
    | none => s)

/-- PARITY_JOB_TIMEOUT (R291): a job that has waited PCTMO is not started; Parity Compute Deferred. -/
def execParityJobTimeout (ctx : Nat) (s : State) : Host.Outcome State Fault Refusal :=
  .next (s.whenRuns fun s =>
    match Tab.get? s.fl.dip.pcJobs ctx with
    | some j =>
      if j.running then s
      else
        let g := s.until' (j.fetchedAt + s.fl.dip.regs.fld .dipPccfg 15 0 * msT)
        (g.fin ctx ⟨7, 0x8C, false⟩).settle
    | none => s)

/-- PARITY_JOB_DONE (R289, R292): a compute writes its outputs to the host, free bytes where its buffers overlap (log entry 62); a check compares, and
names the first byte that differs. -/
def execParityJobDone (ctx : Nat) (inputs outputs : List (List Nat)) (s : State) : Host.Outcome State Fault Refusal :=
  .next (s.whenRuns fun s =>
    match Tab.get? s.fl.dip.pcJobs ctx with
    | some j =>
      if j.running then
        let outs := j.desc.outputs inputs
        if j.desc.flags = 1 then
          match firstDiff outs outputs with
          | some (i, k) => (s.finWith ctx .compareFailure i k).settle
          | none => (s.fin ctx .success).settle
        else if j.desc.overlap then
          let n := j.desc.nout * j.desc.len * 4096
          let g := ({ s with free := s.free + n }).emit (.data ctx ((List.range n).map fun i => BitVec.ofNat 8 (Config.freeValue (s.free + i))))
          (g.fin ctx .success).settle
        else
          let g := s.emit (.data ctx (outs.flatMap fun o => o.map fun b => BitVec.ofNat 8 b))
          (g.fin ctx .success).settle
      else s
    | none => s)

end Sys2Proof.Machine
end

