-- ==== Sys2Proof/Machine/Recovery.lean ====
section
/-! DEFINITION. Clock losses, watchdogs, faults of scopes and their recoveries (R26 to R34), reports, and the registers of FEV (R440, R453,
R456). -/

namespace Sys2Proof.Machine

/-! ## Scopes that recover (R30 to R32) -/

/-- The device stands where recoveries run: device ready, no dump. In the safe state a fault is recorded only (R32, R455). -/
def State.watched (s : State) : Bool := s.mgc.boot == .ready && !s.dumped && !s.porst

/-- Every die of some channels with work outstanding is reset (R30). -/
def Flash.channelsReset (f : Flash) (now hours st : Nat) (chs : List Nat) : Flash :=
  chs.foldl (fun (g : Flash) c => g.channelReset now hours c) (f.setCh chs st)

/-- What a device recovery stops besides its channels: patrol scrub, fetch, the cores, and the Cameleer watchdog's count (R30, R455). -/
def State.deviceStop (s : State) : State :=
  { s with
    mss := s.mss.stopScrub, fetchPaused := true, mgc := { s.mgc with acRun := 0 }
    fev := { s.fev with heldAt := some s.clock.now } }

/-- What a scope's recovery does at its start (R30): SEQSTAT shows 3 in a unit's recovery and 4 in a cluster's, and 4 on every channel in the
device's, for which R259 has no code (DESIGN CHOICE, log entry 176). The Cameleer watchdog's count is held in a device recovery (R455). -/
def State.recover (s : State) (sc : Scope) : State :=
  match sc with
  | .channel n => s.media (s.fl.channelsReset s.clock.now s.hours 3 [n], [])
  | .cluster k => s.media ((s.fl.abandonMirages s.clock.now k).channelsReset s.clock.now s.hours 4 (clusterChannels k), [])
  | .core n => { s with mgc := { s.mgc with acRun := s.mgc.acRun - s.mgc.acRun / 2 ^ n % 2 * 2 ^ n } }
  | .device => (s.media (s.fl.channelsReset s.clock.now s.hours 4 s.fl.hw.channels, [])).deviceStop

/-- A fault in a scope: its recovery, a fault absorbed, the enclosing scope's recovery, or a U-class fault (R31, R32). `fuel` is the number of
scopes that can enclose one another. -/
def State.scopeFault : Nat → State → Scope → State
  | 0, s, _ => s
  | fuel + 1, s, sc =>
    match s.fev.judge sc s.hours with
    | .absorbed => s.report (sc.report (s.fev.count60 sc s.hours) 1)
    | .recovers => ({ s with fev := s.fev.startRecovery sc s.stamp }).recover sc
    | .escalate e => State.scopeFault fuel { s with fev := s.fev.escBit sc } e
    | .fatal => s.report (mkReport 0x0B 0x04 0 0 0 0 0)

/-- A fault in a scope, where the device stands to recover. -/
def State.faultIn (s : State) (sc : Scope) : State := if s.watched then State.scopeFault 3 s sc else s

/-- A recovery in progress completes (R30). -/
def State.recovered (s : State) (sc : Scope) (f : State → State) : State :=
  if s.runs && s.fev.active.contains sc then f { s with fev := s.fev.endRecovery sc } else s

/-! ## Clocks (R26, R463) -/

/-- A U-class fault of a clock. -/
def State.clockFault (s : State) (code arg : Nat) : State := if s.up then s.report (mkReport 0x0B code 0 0 arg 0 0) else s

/-- REFCLK_MAIN_LOSS (R26): a U-class fault. The edge count that its record carries is a free value. -/
def execRefclkMainLoss (s : State) : Host.Outcome State Fault Refusal :=
  .next (s.fresh.2.clockFault 0x05 s.fresh.1)

/-- CORE_PLL_LOCK_LOSS (R26): CLK_CORE 0, CLK_FAB 1, CLK_DMC 2 or CLK_MGT 3. -/
def execCorePllLockLoss (clk : Nat) (s : State) : Host.Outcome State Fault Refusal :=
  .next (if clk < 4 then s.clockFault 0x06 clk else s)

/-- NAND_PLL_LOCK_LOSS (R26): a cluster recovery. A cluster without a channel has no clock that matters (R231). -/
def execNandPllLockLoss (k : Nat) (s : State) : Host.Outcome State Fault Refusal :=
  .next (if (clusterChannels k).any s.fl.hw.hasChannel then s.faultIn (.cluster k) else s)

/-- AON_XTAL_LOSS (R26, R463): the counters go on from REFCLK_MAIN; an event is recorded, but not in the first 2 s of VDD_AON. -/
def execAonXtalLoss (s : State) : Host.Outcome State Fault Refusal :=
  .next (if !s.up || s.clock.xtalLost then s
    else
      let g : State := { s with clock := { s.clock with xtal := false } }
      if s.clock.aon < s.clock.aonAt + 20000000 then g
      else ({ g with clock := { g.clock with xtalLost := true } }).report (mkReport 0x0B 0x07 0 0 0 0 0))

/-- AON_XTAL_RATIO_CHECK_PASS (R463). -/
def execAonXtalRatioCheckPass (s : State) : Host.Outcome State Fault Refusal :=
  .next (if s.up then { s with clock := { s.clock with xtal := true, xtalLost := false } } else s)

/-! ## Watchdogs (R27 to R29) -/

/-- The maximum time of an operation on a die by its descriptor, in 100 ns units (R27, R234). -/
def Flash.maxT (f : Flash) (d : Nat) (k : OpKind) : Nat :=
  match k with
  | .erase _ _ _ => (f.hw.desc d).tbex * 10
  | .program id =>
    let slc := ((Tab.get? f.ptx.wls id).bind fun w => Tab.get? f.ptx.bands w.band).map fun b => b.slc
    if slc.getD false then (f.hw.desc d).tpsx * 10 else (f.hw.desc d).tpnx * 10

/-- The maximum array time of a frame read. -/
def Flash.readMaxT (f : Flash) (d id : Nat) : Nat :=
  let slc := ((Tab.get? f.dip.jobs id).map fun j => (f.blk (blkKey d j.block)).slc).getD false
  if slc then (f.hw.desc d).trsx else (f.hw.desc d).trnx

/-- When the channel watchdog expires on what runs on a die: at twice the descriptor's maximum of array time, time suspended left out; a
nested program runs under its own count, its erase's count paused (R27, R29). A suspend command has twice the descriptor's maximum until the die
reports suspended status (R258). -/
def Flash.watchdogDue (f : Flash) (now d : Nat) : Option Nat :=
  let x := f.die d
  let opDue := fun (o : Op) => now + (2 * f.maxT d o.kind - o.ranAt now)
  let op := match x.st with
    | .prog => x.op.map opDue
    | .erase => x.op.map opDue
    | .esProg => x.nested.map opDue
    | .reset => some (x.resetAt + 2 * ((f.hw.desc d).trst * 10))
    | _ => none
  let susp := if x.suspending then (x.op.map fun o => x.suspAt + 2 * f.suspT d o.kind).toList else []
  (susp ++ x.reads.map fun r => r.2 + 2 * f.readMaxT d r.1).foldl (fun m t => some (match m with | some u => min u t | none => t)) op

/-- CHANNEL_WATCHDOG_EXPIRY (R27, R29, R279): the die's expiry is counted, and its channel recovers. -/
def execChannelWatchdogExpiry (ch die : Nat) (s : State) : Host.Outcome State Fault Refusal :=
  .next (if s.watched && s.fl.hw.hasDie die && die / 32 == ch then
      match s.fl.watchdogDue s.clock.now die with
      | none => s
      | some due =>
        let g := s.until' due
        if g.fev.safe then g.faultIn (.channel ch)
        else (g.media (g.fl.dieExpiry g.clock.now g.hours die)).faultIn (.channel ch)
    else s)

/-- SCHEDULER_HEARTBEAT_TIMEOUT (R27): 5 ms without an increment, at the earliest 5 ms after the check began. The check pauses during
recoveries of the cluster or the device, and in the safe state, and restarts at 5 ms (R455). -/
def execSchedulerHeartbeatTimeout (k : Nat) (s : State) : Host.Outcome State Fault Refusal :=
  .next (if (clusterChannels k).any s.fl.hw.hasChannel && s.watched && !s.fev.safe && !s.fev.active.contains (.cluster k)
        && !s.fev.active.contains .device then
      (s.until' (Tab.getD s.fev.schedFrom k 0 + 5 * msT)).faultIn (.cluster k)
    else s)

/-- The Cameleer has left its reset and its watchdog runs: device ready, or stage 2's recovery state. -/
def State.kicking (s : State) : Bool :=
  (s.mgc.boot == .ready || s.mgc.boot == .recovery || s.mgc.boot == .stopped) && !s.dumped && !s.porst

/-- CAMELEER_WATCHDOG_EXPIRY (R27, R30): EXPIRED is set and a device recovery starts. The count is held during a device recovery (R455). Before
device ready and in the recovery state of stage 2, where the watchdog runs already, no rule says what follows: EXPIRED alone is set, and the
count starts again (DESIGN CHOICE, log entry 177). `measured` is the measurement of the image as the warm restart will read it (log entry 206). -/
def execCameleerWatchdogExpiry (measured : Nat) (s : State) : Host.Outcome State Fault Refusal :=
  .next (if !s.kicking || s.fev.active.contains .device then s
    else
      let g := s.until' (s.fev.kickedAt + 2500000)
      let g : State := { g with fev := { g.fev with regs := g.fev.regs.setFld .fevDevwdg 3 3 1 } }
      if g.watched then { g with mgc := { g.mgc with reload := some measured } }.faultIn .device else { g with fev := { g.fev with kickedAt := g.clock.now } })

/-- AC_HEARTBEAT_MISS (R29, R30): paused in the steps 2 to 6 of a handover, which one command of this model carries out whole. -/
def execAcHeartbeatMiss (n : Nat) (s : State) : Host.Outcome State Fault Refusal :=
  .next (if n < 8 then s.faultIn (.core n) else s)

/-- What a write to FEV_DEVWDG does (R28, R34): a valid kick restarts the count, any other value counts in BADKICK. -/
def State.kick (s : State) (v : W32) : State :=
  if v.bits 31 16 = 0xA5C3 then { s with fev := { s.fev with kickedAt := s.clock.now, hbStarted := true } }
  else { s with fev := { s.fev with badKick := satAdd 15 s.fev.badKick 1 } }

/-- FEV_DEVWDG_WRITE (R28, R34). -/
def execFevDevwdgWrite (r : Requester) (v : W32) (s : State) : Host.Outcome State Fault Refusal :=
  .next (s.csrWrite r .fevDevwdg v fun g => g.kick v)

/-! ## Recoveries end (R30) -/

/-- UNIT_RECOVERY_COMPLETE (R30). -/
def execUnitRecoveryComplete (ch : Nat) (s : State) : Host.Outcome State Fault Refusal :=
  .next (s.recovered (.channel ch) fun g => g.media (g.fl.channelsBack [ch], []))

/-- CLUSTER_RECOVERY_COMPLETE (R30). -/
def execClusterRecoveryComplete (k : Nat) (s : State) : Host.Outcome State Fault Refusal :=
  .next (s.recovered (.cluster k) fun g =>
    let h : State := { g with fev := { g.fev with schedFrom := Tab.set g.fev.schedFrom k g.clock.now } }
    h.media (h.fl.channelsBack (clusterChannels k), []))

/-- AC_RECOVERY_COMPLETE (R30): the core runs again. -/
def execAcRecoveryComplete (n : Nat) (s : State) : Host.Outcome State Fault Refusal :=
  .next (s.recovered (.core n) fun g => { g with mgc := { g.mgc with acRun := g.mgc.acRun + (1 - g.mgc.acRun / 2 ^ n % 2) * 2 ^ n } })

/-- What the end of a device recovery lets go on: the cores, fetch, the watchdogs' counts (R30, R455). -/
def State.deviceBack (s : State) : State :=
  { s with
    fetchPaused := false, mgc := { s.mgc with acRun := 255, reload := none }
    fev := { s.fev with kickedAt := s.clock.now, heldAt := none, schedFrom := (List.range 8).map fun k => (k, s.clock.now) } }

/-- The measurement of the image that a device recovery reloads (R30): of the running slot's bytes in the store, where a watchdog expiry brings
none of its own (log entry 206). -/
def State.reloaded (s : State) : Nat := s.mgc.reload.getD (s.mgc.headerDigest s.mgc.run.slot)

/-- DEVICE_RECOVERY_COMPLETE (R30): the cores run, every engine is reloaded, fetch goes on, and a kick is due 250 ms later (R455). Whatever
started the recovery, a measurement of the reloaded image that differs from SEC's stops it with a U-class fault instead. -/
def execDeviceRecoveryComplete (s : State) : Host.Outcome State Fault Refusal :=
  .next (if s.runs && s.fev.active.contains .device && s.reloaded != s.sec.imageDigest then s.report (mkReport 0x0B 0x08 0 0 0 0 0)
    else s.recovered .device fun g =>
      let h := g.deviceBack
      h.media (h.fl.channelsBack h.fl.hw.channels, []))

/-! ## Reports and FEV's registers (R440, R453, R456) -/

/-- The codes of R444 that a report brings from outside; those of recoveries, of the safe state and of drops are FEV's own. -/
def reported (src code : Nat) : Bool :=
  match src with
  | 1 => decide (1 ≤ code ∧ code ≤ 6)
  | 2 => code == 1
  | 4 => decide (1 ≤ code ∧ code ≤ 4)
  | 5 => decide (1 ≤ code ∧ code ≤ 3)
  | 6 => decide (1 ≤ code ∧ code ≤ 5)
  | 7 => decide (1 ≤ code ∧ code ≤ 7)
  | 8 => decide (1 ≤ code ∧ code ≤ 6)
  | 9 => decide (1 ≤ code ∧ code ≤ 4)
  | 10 => decide (1 ≤ code ∧ code ≤ 7)
  | 11 => decide (4 ≤ code ∧ code ≤ 8)
  | _ => false

/-- FAULT_REPORT (R440, R441, R30). -/
def execFaultReport (f : FaultIn) (s : State) : Host.Outcome State Fault Refusal :=
  .next (if !s.up then s
    else
      match f with
      | .coded src code ot ob a0 a1 a2 severe => if reported src code then s.report (mkReport src code ot ob a0 a1 a2 severe) else s
      | .sequencer ch => if s.fl.hw.hasChannel ch then s.faultIn (.channel ch) else s
      | .core n => if n < 8 then s.faultIn (.core n) else s)

/-- The event source of a requester of CSR space (R456): the debug port acts in the Cameleer's place. -/
def Requester.source : Requester → Nat
  | .cameleer => 0x10 | .core n => 0x11 + n | .debug => 0x10 | .sideband => 0x10

/-- OBJ, ARG0, ARG1 or ARG2 of a firmware record, from two payload registers. -/
def Fev.payload (f : Fev) (m : Nat) : Nat := (f.regs.get (.fevEvwrpay (2 * m))).toNat + 2 ^ 32 * (f.regs.get (.fevEvwrpay (2 * m + 1))).toNat

/-- What a write to FEV_EVWRHDR does (R456). -/
def State.firmwareRecord (s : State) (r : Requester) (v : W32) : State :=
  if v.bits 31 31 = 0 then s
  else if v.bits 25 24 = 3 then { s with fev := { s.fev with regs := s.fev.regs.setFld .fevEvwrhdr 29 29 1 } }
  else
    let f := s.fev
    let e : EvRec :=
      ⟨s.hours, s.clock.pcyc, 0, .event, v.bits 25 24, r.source, v.bits 7 0,
        .std (v.bits 23 20) (f.payload 0) (f.payload 1) (f.payload 2) (f.payload 3)⟩
    { s with fev := ({ f with regs := f.regs.setFld .fevEvwrhdr 29 29 0 }).append e }

/-- FEV_EVWRHDR_GO (R456). -/
def execFevEvwrhdrGo (r : Requester) (v : W32) (s : State) : Host.Outcome State Fault Refusal :=
  .next (s.csrWrite r .fevEvwrhdr v fun g => g.firmwareRecord r v)

/-- What a write to FEV_FFQSTAT does (R453). -/
def State.ffqClear (s : State) (v : W32) : State :=
  if v.bits 31 31 = 1 then { s with fev := { s.fev with ffq := [], ffqOvfl := 0 } } else s

/-- FEV_FFQSTAT_CLR (R453). -/
def execFevFfqstatClr (r : Requester) (s : State) : Host.Outcome State Fault Refusal :=
  .next (s.csrWrite r .fevFfqstat 0x80000000 fun g => g.ffqClear 0x80000000)

end Sys2Proof.Machine
end

