-- ==== Sys2Proof/Machine/Memory.lean ====
section
/-! DEFINITION. DRAM and SRAM (chapter 11): requests, valid-bit clears, scrubs, training helpers, refresh and its kin, and what uncorrectable
lines and words bring (R330, R342). -/

namespace Sys2Proof.Machine

/-! ## Uncorrectable lines (R330) -/

/-- DRAM serves requests: MSS_DMSTAT.READY, no self-refresh, no dump (R323, R344). -/
def State.dramUp (s : State) : Bool := s.up && s.mss.regs.bit .mssDmstat 31 && !s.mss.selfRefresh && !s.dumped

/-- An uncorrectable line, as a report: ARG0 is the region's row (R444). -/
def lineReport (a : Nat) : Report :=
  let g := regionOf a
  let r := mkReport 0x07 0x05 7 (a / 64 * 64) g.ueRow 0 0 (g.ueRow == 8)
  if g.ueRow = 0 then { r with sev := 3 } else r

/-- The newest data of an IU was in a lost Oasis granule: marker 0x2; a superseded granule is freed (R196, R330). -/
def Flash.loseSlot (f : Flash) (now k : Nat) : Flash :=
  match Tab.get? f.ptx.slots k with
  | none => f
  | some sl =>
    if f.ent? sl.nsx sl.iu = some (.oasis k) then
      let g := f.mark now sl.nsx [sl.iu] 2 sl.wsn
      { g with dip := { g.dip with reliability := true } }
    else { f with ptx := { f.ptx with slots := Tab.erase f.ptx.slots k } }

/-- Bands whose open blocks have their records in a line of the block table, at 8 bytes by die and block (log entry 47). -/
def Flash.bandsAt (f : Flash) (a : Nat) : List Nat :=
  let first := (a / 64 * 64 - 144 * 1048576) / 8
  (List.range 8).filterMap fun i =>
    if (f.blk (first + i)).st = .opened then (f.bandOf ((first + i) / 4096) ((first + i) % 4096)).map Prod.fst else none

/-- The eight records in a line of the block table are rebuilt from the band table as at start; a band with an open block of them closes short before
(R242, R330). -/
def Flash.blockLine (f : Flash) (now hours a : Nat) : Flash :=
  let first := (a / 64 * 64 - 144 * 1048576) / 8
  let g := (f.bandsAt a).foldl (fun (h : Flash) k => h.closeShort now hours k) f
  ((List.range 8).filter fun i => Tab.has g.mbe.blks (first + i)).foldl (fun (h : Flash) i =>
    h.setBlk (first + i) (h.rebuiltBlk (first + i) (h.blk (first + i)))) g

/-- Connections whose offload state lies in a line (log entry 48). -/
def Hfu.connsIn (h : Hfu) (line : Nat) : List Nat := Tab.keysWhere h.conns fun c _ => Config.connLine c line

/-- What a lost line brings, by region (R330). -/
def State.lostLine (s : State) (line : Nat) : State :=
  let a := line * 64
  match regionOf a with
  | .oasis => s.media (s.fl.loseSlot s.clock.now (a / 4096 - 1048576), [])
  | .slotHeaders => s.media (s.fl.loseSlot s.clock.now (line - 320 * 16384), [])
  | .sqeArchive =>
    match s.qce.ctx? (line - 80 * 16384) with
    | some x => if x.state = .fw then (s.fin (line - 80 * 16384) .internalError).settle else s
    | none => s
  | .blockTable => s.media (s.fl.blockLine s.clock.now s.hours a, [])
  | .transport => (s.hfu.connsIn line).foldl State.connLost s
  | .firmware => s.faultIn .device
  | _ => s

/-- An uncorrectable or poisoned line was read (R330): scratch is counted only. -/
def State.uncorrectable (s : State) (u : Uncorr) : State :=
  if regionOf (u.line * 64) = .scratch then s else (s.report (lineReport (u.line * 64))).lostLine u.line

/-- A rank that enters device-erasure mode is kept in the calibration partition, with Critical Warning bit 2 (R329). -/
def State.erasures (s : State) (rs : List Report) : State :=
  if rs.any fun r => r.src == 0x07 && r.code == 0x04 then
    { s with mgc := { s.mgc with cal := { s.mgc.cal with erasure := s.mss.erasure } }
             fl := { s.fl with dip := { s.fl.dip with reliability := true } } }
  else s

/-- MSS after an event of its own, with what it found and reported. -/
def State.memory (s : State) (m : Mss) (us : List Uncorr) (rs : List Report) : State :=
  (us.foldl State.uncorrectable ((({ s with mss := m }).erasures rs).reports rs)).warn

/-- A byte of DRAM as a read finds it: in the archive, the entry of a live context; in the block table, the record of block `b` of die `d` at
8 × (4,096 × d + b); in the redirect tables, 16 KiB a die, the entry of block `b` at 4 × b (R86, R239, R282, R321; log entry 97); elsewhere what was
stored. -/
def State.dramByte (s : State) (a : Nat) (b : Byte) : Byte :=
  let mi := a / 1048576
  if 80 ≤ mi ∧ mi < 144 then
    match s.qce.ctx? ((a - 80 * 1048576) / 64) with
    | some x => x.sqe.bytes.getD (a % 64) b
    | none => b
  else if 144 ≤ mi ∧ mi < 208 then
    let k := (a - 144 * 1048576) / 8
    if s.fl.hw.hasDie (k / 4096) then (leBytes 8 (s.fl.blk k).word).getD (a % 8) b else b
  else if 272 ≤ mi ∧ mi < 304 then
    let k := (a - 272 * 1048576) / 4
    if s.fl.inService (k / 4096) || !s.fl.hw.hasDie (k / 4096) then b
    else (leBytes 4 ((Tab.get? s.fl.dip.redirect k).elim 0 fun x => 2 ^ 31 + x)).getD (a % 4) b
  else b

/-- A read's answer, with what the engines' tables hold. -/
def State.seen (s : State) (r : MemAnswer) : MemAnswer :=
  match r with
  | .data req a bs flag => .data req a (bs.zipIdx.map fun e => s.dramByte (a + e.2) e.1) flag
  | .written req a ok => .written req a ok

/-- A request's result. -/
def State.answered (s : State) (r : MemResult) : State :=
  (s.emits (r.answers.map fun a => .mem (s.seen a))).memory r.mss r.uncorr r.reports

/-! ## Requests (R319, R322, R328 to R332) -/

/-- DRAM_READ (R319, R328, R331): beyond the installed capacity, an access fault of its requester. -/
def execDramRead (req addr len : Nat) (waymark : Bool) (errs : LineErrs) (s : State) : Host.Outcome State Fault Refusal :=
  if !s.dramUp then .next s
  else if s.mss.cap < addr + len then .fault .accessFault
  else .next (s.answered (s.mss.read s.clock.now s.part.raaimt req waymark addr len errs))

/-- The parts of a write, granule by granule: each is at most `len` bytes long. -/
def granuleParts : Nat → Nat → List Byte → List (Nat × List Byte)
  | 0, _, _ => []
  | fuel + 1, a, bs =>
    match bs with
    | [] => []
    | _ =>
      let n := 4096 - a % 4096
      (a, bs.take n) :: granuleParts fuel (a + n) (bs.drop n)

/-- The parts of a write that every region it touches lets its requester make; otherwise nothing of it is made (R322). -/
def State.writeParts (s : State) (req : Nat) (waymark : Bool) (errs : LineErrs) (ps : List (Nat × List Byte)) : State :=
  match ps.find? fun p => !(regionOf p.1).writer req with
  | some p => s.report (mkReport 0x07 0x01 12 req p.1 0 0)
  | none => ps.foldl (fun (g : State) p => g.answered (g.mss.write g.clock.now g.part.raaimt req waymark p.1 p.2 errs)) s

/-- DRAM_WRITE (R319, R322, R330 to R332). -/
def execDramWrite (req addr : Nat) (bytes : List Byte) (waymark : Bool) (errs : LineErrs) (s : State) : Host.Outcome State Fault Refusal :=
  if !s.dramUp then .next s
  else if s.mss.cap < addr + bytes.length then .fault .accessFault
  else .next (s.writeParts req waymark errs (granuleParts (bytes.length / 4096 + 2) addr bytes))

/-- ZERO_FILL_DONE (R332). -/
def execZeroFillDone (granule : Nat) (s : State) : Host.Outcome State Fault Refusal :=
  .next (if s.dramUp then s.answered (s.mss.fillDone s.clock.now s.part.raaimt granule) else s)

/-! ## Valid-bit clears and scrubs (R333 to R335) -/

/-- What a write to MSS_VBCLR1 does. -/
def State.clearGo (s : State) (v : W32) : State :=
  if v.bits 31 31 = 1 ∧ s.dramUp then s.answered (s.mss.vbclr s.clock.now s.part.raaimt) else s

/-- MSS_VBCLR1_GO (R333). -/
def execMssVbclr1Go (r : Requester) (v : W32) (s : State) : Host.Outcome State Fault Refusal :=
  .next (s.csrWrite r .mssVbclr1 v fun g => g.clearGo v)

/-- VALID_BIT_CLEAR_DONE (R333). -/
def execValidBitClearDone (s : State) : Host.Outcome State Fault Refusal :=
  .next (if s.dramUp then { s with mss := s.mss.vbclrDone } else s)

/-- What a write to MSS_RSCTL does. -/
def State.scrubGo (s : State) (v : W32) : State :=
  if v.bits 31 31 = 1 ∧ s.dramUp then { s with mss := s.mss.rsGo } else s

/-- MSS_RSCTL_GO (R335). -/
def execMssRsctlGo (r : Requester) (v : W32) (s : State) : Host.Outcome State Fault Refusal :=
  .next (s.csrWrite r .mssRsctl v fun g => g.scrubGo v)

/-- RANGE_SCRUB_DONE (R335). -/
def execRangeScrubDone (covered : Nat) (stopped : Bool) (errs : LineErrs) (s : State) : Host.Outcome State Fault Refusal :=
  .next (if s.dramUp then
      let r := s.mss.rsEnd s.clock.now covered stopped errs
      s.memory r.1 r.2.1 r.2.2
    else s)

/-- PATROL_SCRUB_STEP (R334). -/
def execPatrolScrubStep (errs : LineErrs) (s : State) : Host.Outcome State Fault Refusal :=
  .next (if s.dramUp then
      let r := s.mss.patrolStep s.clock.now errs
      s.memory r.1 r.2.1 r.2.2
    else s)

/-! ## Training helpers and retraining (R324, R326) -/

/-- What a write to a TRNCTL does. -/
def State.trainCtl (s : State) (ch : Nat) (v : W32) : State :=
  if v.bits 31 31 = 1 ∧ !s.fev.safe ∧ !s.dumped then { s with mss := s.mss.trainGo ch } else s

/-- A write to a channel's TRNCTL with GO and an OP. -/
def State.helper (s : State) (r : Requester) (ch op : Nat) (v : W32) : State :=
  let w := (v.setBits 25 24 op).setBits 31 31 1
  if ch < 12 then s.csrWrite r (.mssTrnctl ch) w fun g => g.trainCtl ch w else s

/-- TRAINING_WRITE_PATTERN: OP 0 (R324). -/
def execTrainingWritePattern (r : Requester) (ch : Nat) (v : W32) (s : State) : Host.Outcome State Fault Refusal := .next (s.helper r ch 0 v)

/-- TRAINING_READ_COMPARE: OP 1 (R324). -/
def execTrainingReadCompare (r : Requester) (ch : Nat) (v : W32) (s : State) : Host.Outcome State Fault Refusal := .next (s.helper r ch 1 v)

/-- TRAINING_WRITE_READ_COMPARE: OP 2 (R324). -/
def execTrainingWriteReadCompare (r : Requester) (ch : Nat) (v : W32) (s : State) : Host.Outcome State Fault Refusal :=
  .next (s.helper r ch 2 v)

/-- TRAINING_HELPER_DONE (R324): the lanes that miscompared. -/
def execTrainingHelperDone (ch dq cb : Nat) (s : State) : Host.Outcome State Fault Refusal := .next { s with mss := s.mss.trainDone ch dq cb }

/-- DQS_OSCILLATOR_READ (R326). -/
def execDqsOscillatorRead (rank drift : Nat) (s : State) : Host.Outcome State Fault Refusal :=
  .next (if s.dramUp then { s with mss := s.mss.oscRead s.clock.now rank drift } else s)

/-- RETRAINING_PAUSE (R326): `waits`, a waymarked request for the rank is queued; `atEnd`, the correction reaches the end of its range. -/
def execRetrainingPause (rank : Nat) (waits atEnd : Bool) (s : State) : Host.Outcome State Fault Refusal :=
  .next (if s.dramUp then
      let r := s.mss.pause s.clock.now rank waits atEnd
      s.memory r.1 [] r.2
    else s)

/-! ## Refresh, temperature, power-down and rows (R336 to R341) -/

/-- REFRESH_DUE (R337). -/
def execRefreshDue (rank bank : Nat) (s : State) : Host.Outcome State Fault Refusal :=
  .next (if s.dramUp then { s with mss := s.mss.refresh rank bank } else s)

/-- MR4_READ (R326, R337, R430): the highest reading of a channel's ranks is PTM's. -/
def execMr4Read (rank : Nat) (deg : Int) (s : State) : Host.Outcome State Fault Refusal :=
  .next (if s.dramUp && decide (rank / 2 < 12) && decide (rank % 2 < s.mss.ranks) then
      let r := s.mss.mr4Read rank deg
      let ch := rank / 2
      let hot := (r.1.mr4.filter fun e => e.1 / 2 == ch).foldl (fun m e => max m e.2) deg
      ({ s with ptm := { s.ptm with dram := Tab.set s.ptm.dram ch hot } }).memory r.1 [] r.2
    else s)

/-- POWER_DOWN_ENTRY (R338). -/
def execPowerDownEntry (rank : Nat) (s : State) : Host.Outcome State Fault Refusal :=
  .next (if s.dramUp then { s with mss := s.mss.pdEntry s.clock.now rank } else s)

/-- PAGE_IDLE_CLOSE (R336). -/
def execPageIdleClose (bank : Nat) (s : State) : Host.Outcome State Fault Refusal :=
  .next (if s.dramUp then { s with mss := s.mss.pageClose s.clock.now bank } else s)

/-- ROW_TRACKER_WINDOW_END (R340, R341). -/
def execRowTrackerWindowEnd (rank : Nat) (s : State) : Host.Outcome State Fault Refusal :=
  .next (if s.dramUp then { s with mss := s.mss.windowEnd rank } else s)

/-! ## SRAM words (R87, R342, R367) -/

/-- An uncorrectable word of an SRAM other than the Caravanserai is counted and recorded; OBJ and ARG0 name the UEV bit. -/
def State.sramWord (s : State) (n : Nat) (severe : Bool) : State :=
  ({ s with mss := s.mss.sramCount n true }).report (mkReport 0x07 0x07 10 n n 0 0 severe)

/-- R87: the command of a live context completes with Internal Error; a completion that stands becomes Internal Error. -/
def State.contextLost (s : State) (c : Nat) : State :=
  match s.qce.ctx? c with
  | none => s
  | some x =>
    let g := ({ s with mss := s.mss.sramCount 0 true }).report (mkReport 0x02 0x01 5 x.inst x.sqid x.sqe.cid 0)
    if x.state = .completing then (g.spoil c x).settle
    else (g.fin c .internalError).settle

/-- What a word of SRAM brings (R342). -/
def State.sram (s : State) (w : SramWord) : State :=
  match w with
  | .corrected n => { s with mss := s.mss.sramCount n false }
  | .context c => s.contextLost c
  | .readFrame job => (s.sramWord 1 false).whenRuns fun g => g.media (g.fl.hardDone g.clock.now g.hours (g.tlerOf job) job (.failed 3136))
  | .oasisFrame => s.sramWord 1 false
  | .programData id =>
    (s.sramWord 1 false).whenRuns fun g =>
      match Tab.get? g.fl.ptx.wls id with
      | some wl => g.media (g.fl.bandFailed g.clock.now g.hours wl.band, [])
      | none => g
  | .ethernet conn n =>
    match s.conn? conn with
    | some k => ((s.sramWord 1 false).allotment k.port fun b => b - n).emit (.resend conn)
    | none => s.sramWord 1 false
  | .parity c =>
    (s.sramWord 1 false).whenRuns fun g => if Tab.has g.fl.dip.pcJobs c then (g.fin c .internalError).settle else g
  | .mapCache => s.sramWord 2 false
  | .keyStore slot =>
    let g := s.sramWord 3 false
    if slot < 8192 then g
    else ({ g with sec := g.sec.setSlot slot none }).report (mkReport 0x08 0x04 13 slot 0 0 0)
  | .coreMemory n => (s.sramWord 4 false).faultIn (.core n)
  | .cameleerMemory => (s.sramWord 4 false).faultIn .device
  | .scheduler k => (s.sramWord 5 false).faultIn (.cluster k)
  | .pointers => s.sramWord 5 true

/-- SRAM_SCRUB (R342). -/
def execSramScrub (w : SramWord) (s : State) : Host.Outcome State Fault Refusal :=
  .next (if s.up && !s.dumped && !s.porst then s.sram w else s)

end Sys2Proof.Machine
end

