-- ==== Sys2Proof/Machine/NsAdmin.lean ====
section
/-! DEFINITION. Namespace Management and Attachment (R162 to R172, R362), Device Self-test (R458), Directives (R93, R184), Virtualization
Management (R141, R143), Get LBA Status and Die Retire (R285, R286). Fields and statuses of standard commands are the NVMe base
specification's (PRESUMED, log entry 26). -/

namespace Sys2Proof.Machine

/-! ## Namespaces -/

/-- Create (R166, R167, R362): the namespace, its key and the key's blob; completion DW0 is its identifier. -/
def State.createNs (s : State) (c : Nat) (x : Ctx) (req : NsReq) : State :=
  if !knownCsi x.sqe.csi then s.fin c .invalidField
  else
    let q : NsReq := { req with zoned := x.sqe.csi == 2 }
    match s.fl.createStatus s.mapRegion q with
    | some st => s.fin c st
    | none =>
      if s.sec.noKeys then s.fin c .internalError
      else
        let r := s.fl.create q
        let k := r.2
        ({ s.withFl r.1 with sec := (s.sec.keygen k x.fsn (s.liveOn k x.fsn) false).1 }).finWith c .success (k + 1) 0

/-- The lease state of some namespaces is discarded: guarded or not as before, no owner, and the generation as a new namespace has it. -/
def Hfu.dropLeases (h : Hfu) (ks : List Nat) : Hfu := { h with leases := Tab.keep h.leases fun k _ => !ks.contains k }

/-- Delete (R63, R113, R116, R362, R380): of one namespace, or with NSID 0xFFFFFFFF of all; the lease state goes at its fetch, and it acts once it holds
their entries. -/
def State.deleteFetch (s : State) (c : Nat) (x : Ctx) : State :=
  let ks := if x.sqe.nsid = 0xFFFFFFFF then s.fl.ptx.nss.map Prod.fst else if x.sqe.nsid = 0 then [] else [x.sqe.nsid - 1]
  if x.sqe.nsid ≠ 0xFFFFFFFF ∧ (x.sqe.nsid = 0 ∨ (s.fl.ns? (x.sqe.nsid - 1)).isNone) then s.fin c .invalidNs
  else
    let gone := (ks.filter fun k => (s.leaseOf k).gen != 0).map fun k => (k, 0)
    let p := if gone.isEmpty then s.fl.ptx else (s.fl.ptx.logLeases s.clock.now gone).1
    (({ s with hfu := s.hfu.dropLeases ks, fl := { s.fl with ptx := p } }).setCtx c { x with nss := ks, arrived := true }).lockAndRoute c

/-- NAMESPACE_MANAGEMENT (R166, R167): SEL 0 Create, 1 Delete. -/
def execNamespaceManagement (a : AdminCmd) (req : NsReq) (s : State) : Host.Outcome State Fault Refusal :=
  .next (s.admin a 0x0D .pf true false fun g c x =>
    match natBits x.sqe.cdw10 3 0 with
    | 0 => g.createNs c x req
    | 1 => g.deleteFetch c x
    | _ => g.fin c .invalidField)

/-- A controller list is one: not empty, of at most 2,047 controllers that a port has, rising. -/
def State.listOk (s : State) (ks : List Nat) : Bool :=
  !ks.isEmpty && decide (ks.length ≤ 2047) && (ks.zip (ks.drop 1)).all (fun p => decide (p.1 < p.2)) && ks.all fun k => (s.hfu.portOf k).isSome

/-- The status of an attachment that may not be made. -/
def Ns.attachStatus (n : Ns) (ks : List Nat) : Option Status :=
  if ks.any n.attached.contains then some (stat 1 0x18)
  else if !n.shared ∧ 1 < n.attached.length + ks.length then some (stat 1 0x19)
  else none

/-- NAMESPACE_ATTACHMENT (R165): SEL 0 attaches, 1 detaches, all of the list or none of it. -/
def execNamespaceAttachment (a : AdminCmd) (ctrls : List Nat) (s : State) : Host.Outcome State Fault Refusal :=
  .next (s.admin a 0x15 .pf true false fun g c x =>
    let sel := natBits x.sqe.cdw10 3 0
    match (if x.sqe.nsid = 0 then none else g.fl.ns? (x.sqe.nsid - 1)) with
    | none => g.fin c .invalidNs
    | some n =>
      if 1 < sel then g.fin c .invalidField
      else if !g.listOk ctrls then g.fin c (stat 1 0x1C)
      else
        match (if sel = 0 then n.attachStatus ctrls else if ctrls.all n.attached.contains then none else some (stat 1 0x1A)) with
        | some st => g.fin c st
        | none =>
          let g := g.updNs (x.sqe.nsid - 1) fun m =>
            { m with attached := if sel = 0 then m.attached ++ ctrls else m.attached.filter fun k => !ctrls.contains k }
          ({ g with qce := g.qce.nsChanged x.sqe.nsid ctrls }).fin c .success)

/-! ## Device Self-test (R458) -/

/-- A result joins the self-test log, which keeps the newest 20. -/
def Mgc.endTest (m : Mgc) (hours code segment : Nat) (nsid : Option Nat) : Mgc :=
  match m.dst with
  | none => m
  | some d => { m with dst := none, dstResults := (⟨d.kind, code, segment, hours, nsid⟩ :: m.dstResults).take 20 }

/-- DEVICE_SELF_TEST (R458): STC 1 short, 2 extended, 0xF aborts the test; one test device-wide. -/
def execDeviceSelfTest (a : AdminCmd) (s : State) : Host.Outcome State Fault Refusal :=
  .next (s.admin a 0x14 .every true false fun g c x =>
    let stc := natBits x.sqe.cdw10 3 0
    if stc = 0xF then ({ g with mgc := g.mgc.endTest (g.hours / 3600) 1 0 none }).fin c .success
    else if stc ≠ 1 ∧ stc ≠ 2 then g.fin c .invalidField
    else if g.mgc.dst.isSome then g.fin c (stat 1 0x1D)
    else ({ g with mgc := { g.mgc with dst := some ⟨stc, x.inst⟩ } }).fin c .success)

/-- DEVICE_SELF_TEST_COMPLETE (R458): the test ends without a failed segment, or with the segment and the namespace concerned. -/
def execDeviceSelfTestComplete (failed : Option (Nat × Option Nat)) (s : State) : Host.Outcome State Fault Refusal :=
  .next (s.whenRuns fun s =>
    match failed with
    | none => { s with mgc := s.mgc.endTest (s.hours / 3600) 0 0 none }
    | some f => { s with mgc := s.mgc.endTest (s.hours / 3600) 7 f.1 f.2 })

/-! ## Directives (R93, R184) -/

/-- A command names a namespace that its caller sees. -/
def State.seesNs (s : State) (x : Ctx) : Bool := (s.callerNs x x.sqe.nsid).isSome

/-- DIRECTIVE_SEND: Enable Directive of the Identify directive. Identify itself stays enabled, and Data Placement is enabled while FDP is. -/
def execDirectiveSend (a : AdminCmd) (s : State) : Host.Outcome State Fault Refusal :=
  .next (s.admin a 0x19 .every false false fun g c x =>
    let on := natBits x.sqe.cdw12 0 0 == 1
    let target := natBits x.sqe.cdw12 15 8
    if !g.seesNs x && x.sqe.nsid != 0xFFFFFFFF then g.fin c .invalidNs
    else if natBits x.sqe.cdw11 15 8 = 0 ∧ natBits x.sqe.cdw11 7 0 = 1 ∧ (target = 0 ∧ on ∨ target = 2 ∧ on = g.fl.ptx.fdp) then g.fin c .success
    else g.fin c .invalidField)

/-- Return Parameters of the Identify directive: which directives are supported and enabled; which persist is not stated. -/
def directiveParams (fdp : Bool) : List Byte :=
  fit 4096 (leBytes 1 5 ++ zeros 31 ++ leBytes 1 (1 + 4 * b2n fdp) ++ zeros 31 ++ partByte 0x3000 64 0xFA 0)

/-- DIRECTIVE_RECEIVE: Return Parameters of the Identify directive. -/
def execDirectiveReceive (a : AdminCmd) (s : State) : Host.Outcome State Fault Refusal :=
  .next (s.admin a 0x1A .every false false fun g c x =>
    if !g.seesNs x then g.fin c .invalidNs
    else if natBits x.sqe.cdw11 15 8 = 0 ∧ natBits x.sqe.cdw11 7 0 = 1 then
      (g.emit (.data c (fit (4 * (x.sqe.cdw10 % 2 ^ 32 + 1)) (directiveParams g.fl.ptx.fdp)))).fin c .success
    else g.fin c .invalidField)

/-! ## Virtualization Management (R141, R143) -/

/-- The virtual functions of the caller's port. -/
def State.isVf (s : State) (i : Inst) (k : Nat) : Bool :=
  let r := s.hfu.range i.port
  decide (r.1 < k ∧ k < r.1 + r.2)

/-- Secondary Controller Assign: VQ resources with as many VI resources, while the function is Offline. -/
def State.assignVq (s : State) (c : Nat) (i : Inst) (k rt n : Nat) : State :=
  let held := s.qce.vqOf i.port k
  if s.qce.vfOnline i.port k then s.fin c (stat 1 0x20)
  else if 1 < rt then s.fin c (stat 1 0x22)
  else if rt = 1 then s.fin c (if n = held then .success else .invalidField)
  else if 257 < n ∨ held + s.vqFree i.port < n then s.fin c (stat 1 0x21)
  else
    let q := { s.qce with vq := Tab.set s.qce.vq k n }
    ({ s with qce := q.updInst k fun y => { y with allot := n - 1 } }).finWith c .success n 0

/-- VIRTUALIZATION_MANAGEMENT (R141, R143): 7 Secondary Controller Offline, 8 Assign, 9 Online. The PF's own allotment is fixed. -/
def execVirtualizationManagement (a : AdminCmd) (s : State) : Host.Outcome State Fault Refusal :=
  .next (s.admin a 0x1C .pf false false fun g c x =>
    let k := natBits x.sqe.cdw10 31 16
    match g.qce.inst? x.inst with
    | none => g.fin c .invalidField
    | some i =>
      match natBits x.sqe.cdw10 3 0 with
      | 7 => if g.isVf i k then (g.resetInst k .offline).fin c .success else g.fin c (stat 1 0x1F)
      | 8 => if g.isVf i k then g.assignVq c i k (natBits x.sqe.cdw10 10 8) (natBits x.sqe.cdw11 15 0) else g.fin c (stat 1 0x1F)
      | 9 =>
        if !g.isVf i k then g.fin c (stat 1 0x1F)
        else if g.qce.vqOf i.port k < 2 then g.fin c (stat 1 0x20)
        else
          ({ g with qce := g.qce.updInst k fun y =>
            { y with state := if y.state = InstState.offline then .disabled else y.state } }).fin c .success
      | _ => g.fin c .invalidField)

/-! ## Get LBA Status -/

/-- GET_LBA_STATUS (R93): which blocks the device reports is not stated, so what it returns is open. -/
def execGetLbaStatus (a : AdminCmd) (s : State) : Host.Outcome State Fault Refusal :=
  .next (s.admin a 0x86 .every true false fun g c x =>
    match g.callerNs x x.sqe.nsid with
    | none => g.fin c .invalidNs
    | some n =>
      if !([0x02, 0x10, 0x11].contains (natBits x.sqe.cdw13 31 24)) then g.fin c .invalidField
      else if n.nsze ≤ x.sqe.slba then g.fin c .lbaRange
      else
        let r := g.fresh
        (r.2.emit (.data c (openBytes (0x10000 + r.1) 0 (4 * (x.sqe.cdw12 % 2 ^ 32 + 1))))).fin c .success)

/-! ## Die Retire (R285, R286) -/

/-- Completion DW0 and DW1 of a die: its state, the progress of its rebuild, its grown bad blocks. -/
def DieRec.answer (r : DieRec) : Nat × Nat :=
  (r.health.code * 2 ^ 24 + (if r.health = .retiring then 1000 * (r.total - r.todo.length) / max 1 r.total else 0), r.gbad)

/-- The retirement of a die would leave a stripe outside R274. -/
def Flash.retireLoses (f : Flash) (d : Nat) : Bool :=
  let g := f.setDieRec d { f.dieRec d with health := .retiring }
  g.ptx.bands.any fun e =>
    e.2.st != .reclaimable && e.2.st != .erasing && e.2.set.any (fun y => y.1 == d)
      && (List.range (min 38 e.2.committed)).any fun k => !recoverable (g.lostRoles e.2 k)

/-- The allowance that is left. -/
def Flash.allowanceLeft (f : Flash) : Nat := f.hw.allowance - f.ptx.spent

def Status.wouldLose : Status := ⟨7, 0x8D, true⟩
def Status.allowanceGone : Status := ⟨7, 0x8E, true⟩

/-- Action 1: a die retires. -/
def State.retireByCommand (s : State) (d : Nat) (force : Bool) : Except Status State :=
  let f := s.fl
  if (f.dieRec d).health.leaving then .ok s
  else if !force ∧ f.retireLoses d then .error .wouldLose
  else if !force ∧ f.allowanceLeft < (f.hw.desc d).dieBytes then .error .allowanceGone
  else .ok (s.told (f.dieOut s.clock.now s.hours d 4 true))

/-- Action 2: one block becomes BAD, and its band is reclaimed. -/
def State.retireBlock (s : State) (d block : Nat) (force : Bool) : Except Status State :=
  let f := s.fl
  if (f.blk (blkKey d block)).st = .bad then .ok s
  else if !force ∧ f.allowanceLeft < (f.hw.desc d).blockBytes then .error .allowanceGone
  else
    let g := f.badBlock d block
    let g := match f.bandOf d block with
      | some e => g.bandFailed s.clock.now s.hours e.1
      | none => g
    let g := g.journalIfFull s.clock.now
    .ok (s.told (if g.overBadlim d && !(g.dieRec d).health.leaving then thenDo (g.dieOut s.clock.now s.hours d 1 false) Flash.capUpdate else g.capUpdate))

/-- DIE_RETIRE (R285, R286, R293): 0 Query, 1 retire the die, 2 retire one block. -/
def execDieRetire (a : AdminCmd) (s : State) : Host.Outcome State Fault Refusal :=
  .next (s.admin a 0xCC .pf true false fun g c x =>
    let d := natBits x.sqe.cdw10 10 0
    let act := natBits x.sqe.cdw11 2 0
    let force := natBits x.sqe.cdw11 8 8 == 1
    let block := natBits x.sqe.cdw12 11 0
    if !g.fl.hw.hasDie d ∨ 2 < act ∨ act = 2 ∧ (g.fl.hw.desc d).blks ≤ block then g.fin c .invalidField
    else
      match (if act = 1 then g.retireByCommand d force else if act = 2 then g.retireBlock d block force else .ok g) with
      | .error st => g.fin c st
      | .ok h =>
        let r := (h.fl.dieRec d).answer
        h.finWith c .success r.1 r.2)

end Sys2Proof.Machine
end

