-- ==== Sys2Proof/Machine/Power.lean ====
section
/-! DEFINITION. Hold-up energy, power loss, sensors and the throttle (chapter 14): what happens to the machine at each of PTM's events. -/

namespace Sys2Proof.Machine

/-! ## Power loss and its dump (R420 to R425) -/

/-- The SerDes of both lane groups power down. -/
def Hfu.dark (h : Hfu) : Hfu := { h with ports := Tab.mapVals h.ports fun _ p => { p with state := .down } }

/-- Power loss is detected (R421, R422, R439): a dump, or none with the HUE ABSENT; during a dump that runs the SerDes power down. -/
def State.powerLoss (s : State) : State :=
  if s.ptm.hue.judged then
    let g : State :=
      { s with
        fl := s.fl.enterSafe, mss := s.mss.stopScrub, hfu := s.hfu.dark
        mgc := { s.mgc with act := none, acRun := 0 } }
    g.startDump 0
  else if s.ptm.hue = .absent then
    { s with ptm := { s.ptm with dumpRes := 3 }, fl := { s.fl with ptx := { s.fl.ptx with unsafeShut := s.fl.ptx.unsafeShut + 1 } } }
  else { s with hfu := s.hfu.dark }

/-- PFAIL_ASSERT: PFAIL_N has been low for 1 µs (R421). -/
def execPfailAssert (s : State) : Host.Outcome State Fault Refusal :=
  .next (if s.up then
      ({ s with ptm := { s.ptm with pfail := true, regs := s.ptm.regs.setFld .ptmHuestat 25 25 1 } }).powerLoss
    else s)

/-- The dump has ended with its trailer: PTM keeps what log page 0xC6 reports, and the device is held in reset (R417, R422, R438). -/
def Ptm.dumpEnd (p : Ptm) (now carried : Nat) : Ptm :=
  match p.dump with
  | none => { p with hue := .off }
  | some d => { p with hue := .off, dumpBytes := carried, dumpTime := (now - d.started) / 10, dumpRes := 1 }

/-- DUMP_COMPLETE (R422, R425): the trailer is programmed. A reset that PORST_N asked for takes effect (R478). -/
def execDumpComplete (s : State) : Host.Outcome State Fault Refusal :=
  .next (if s.ptm.hue = .dumping then
      let carried := match s.fl.ptx.dump with
        | some d => d.bytes
        | none => 0
      let dump := s.fl.ptx.dump.map fun d => { d with trailer := true }
      { s with
        ptm := s.ptm.dumpEnd s.clock.now carried
        fl := { s.fl with ptx := { s.fl.ptx with dump := dump } }
        mgc := { s.mgc with acRun := 0, boot := if s.porst then .reset else s.mgc.boot } }
    else s)

/-! ## Hold-up energy (R414 to R419) -/

/-- The next multiple of a period in 100 ns units. -/
def nextMultiple (now period : Nat) : Nat := (now / period + 1) * period

/-- PTM's part after an event: the durability mode and the warnings are judged again (R129, R418). -/
def State.power (s : State) (p : Ptm) : State := ({ s with ptm := p }).judgeMode.warn

/-- HUE_SAMPLE: a sample of V in mV, every 1 ms (R414, R415, R417, R421). -/
def execHueSample (mV : Nat) (s : State) : Host.Outcome State Fault Refusal :=
  .next (if s.up then
      let g := s.until' (nextMultiple s.clock.now msT)
      let r := g.ptm.sample g.clock.now mV g.fl.ptx.protMax
      let h := g.power r.1
      if r.2 then h.powerLoss else h
    else s)

/-- HUE_RETEST_TIMER: 60 s in DEGRADED without a test (R417). -/
def execHueRetestTimer (s : State) : Host.Outcome State Fault Refusal :=
  .next (if s.up && s.ptm.hue == .degraded then
      let g := s.until' (s.ptm.degradedAt + 60 * secT)
      { g with ptm := { g.ptm.schedule with degradedAt := g.clock.now } }
    else s)

/-- HUE_TEST_PERIOD_EXPIRY: every HTPER hours after the test at start (R416). -/
def execHueTestPeriodExpiry (s : State) : Host.Outcome State Fault Refusal :=
  .next (match s.up, s.ptm.lastTest with
    | true, some t =>
      let g := s.until' (t + s.ptm.regs.fld .ptmHuecfg 7 0 * 3600 * secT)
      { g with ptm := g.ptm.schedule }
    | _, _ => s)

/-- CAP_TEST_START: a scheduled test whose condition holds (R416). -/
def execCapTestStart (s : State) : Host.Outcome State Fault Refusal :=
  .next (if s.up then { s with ptm := s.ptm.testStart s.clock.now } else s)

/-- What a write to PTM_HUESTAT does (R419). -/
def State.testGo (s : State) (v : W32) : State := if v.bits 27 27 = 1 then { s with ptm := s.ptm.schedule } else s

/-- PTM_HUESTAT_TESTGO (R416, R419). -/
def execPtmHuestatTestgo (r : Requester) (s : State) : Host.Outcome State Fault Refusal :=
  .next (s.csrWrite r .ptmHuestat 0x08000000 fun g => g.testGo 0x08000000)

/-- CAP_TEST_COMPLETE: V1, Vs and V2 in mV, 12 ms after the start (R416, R417). -/
def execCapTestComplete (v1 vs v2 : Nat) (s : State) : Host.Outcome State Fault Refusal :=
  .next (match s.up, s.ptm.testRun with
    | true, some t =>
      let g := s.until' (t + 12 * msT)
      g.power (g.ptm.testDone g.clock.now g.stampMs g.fl.ptx.protMax v1 vs v2)
    | _, _ => s)

/-- PTM_HUECFG_WRITE (R419). -/
def execPtmHuecfgWrite (r : Requester) (v : W32) (s : State) : Host.Outcome State Fault Refusal :=
  .next (s.csrWrite r .ptmHuecfg v id)

/-! ## Sensors (R428 to R431, R437) -/

/-- The Temperature Threshold of an instance in quarters of a degree: over, and under, temperature (feature 0x04; the over threshold is WCTEMP
until a host sets it, PRESUMED, log entry 26). -/
def Inst.tempOver (i : Inst) : Int := ((i.feature 0x04 368 : Int) - 273) * 4
def Inst.tempUnder (i : Inst) : Int := ((i.feature 0x104 0 : Int) - 273) * 4

/-- The Composite Temperature has crossed an instance's threshold. -/
def Inst.crossed (i : Inst) (old new : Int) : Bool :=
  decide (old < i.tempOver ∧ i.tempOver ≤ new) || decide (i.tempUnder < old ∧ new ≤ i.tempUnder)

/-- The Temperature Threshold event, for the instances that enable it (R96, R437). -/
def Qce.temperature (q : Qce) (old new : Option Int) : Qce :=
  match old, new with
  | some a, some b =>
    (q.insts.filter fun e => e.2.crossed a b && natBits (e.2.feature 0x0B 0) 1 1 == 1).foldl (fun (g : Qce) e => g.raise e.1 ⟨1, 1, 0x02⟩) q
  | _, _ => q

/-- Counters of the SMART page after an on-die sample (R457): WCTEMP 95 °C, CCTEMP 105 °C. -/
def Health.sampled (h : Health) (x : Option Int) (entered : Bool) : Health :=
  let t := x.getD (-160)
  { h with
    warmTime := h.warmTime + (if 380 ≤ t then 10 * msT else 0), hotTime := h.hotTime + (if 420 ≤ t then 10 * msT else 0)
    thrEntries := h.thrEntries + b2n entered }

/-- SENSOR_SAMPLE: the 24 on-die readings of every 10 ms, in quarters of a degree (R428 to R432, R435). During a dump bands and trips have no
effect (R439). -/
def execSensorSample (readings : List Int) (s : State) : Host.Outcome State Fault Refusal :=
  .next (if s.up && !s.dumped then
      let g := s.until' (nextMultiple s.clock.now (10 * msT))
      let w := g.tas.rates g.clock.now
      let r := g.ptm.sensorSample g.clock.now readings g.part.minTj w.1 w.2
      let entered := g.ptm.throttle == .none && r.1.throttle == .active
      (({ g with
          ptm := r.1, health := g.health.sampled r.1.composite entered
          qce := g.qce.temperature g.ptm.composite r.1.composite }).reports r.2).warn
    else s)

/-- The band of each cluster as the media side uses it (R250), and training of a cluster whose NAND temperature has moved more than 15 °C since its
last training (R236). -/
def State.nandBands (s : State) (k : Nat) : State :=
  let b := (Tab.getD s.ptm.nbands k ⟨0, 0⟩).band
  let f : Flash := { s.fl with mbe := { s.fl.mbe with tband := Tab.set s.fl.mbe.tband k b } }
  match maxInt (s.ptm.nandOf k) with
  | none => { s with fl := f }
  | some x =>
    match Tab.get? f.mbe.trained k with
    | none => { s with fl := { f with mbe := { f.mbe with trained := Tab.set f.mbe.trained k x } } }
    | some t =>
      if 60 < |x - t| then { s with fl := ({ f with mbe := { f.mbe with trained := Tab.set f.mbe.trained k x } }).calibrate s.clock.now k }
      else { s with fl := f }

/-- NAND_TEMPERATURE_READ: the readings of a cluster's channels, every 100 ms (R236, R250, R430, R431). -/
def execNandTemperatureRead (k : Nat) (readings : Tab Int) (s : State) : Host.Outcome State Fault Refusal :=
  .next (s.whenRuns fun s =>
    if k < 8 then
      let r := s.ptm.nandRead s.clock.now k (Tab.keep readings fun c _ => s.fl.hw.hasChannel c)
      ((({ s with ptm := r.1 }).nandBands k).reports r.2).warn
    else s)

/-! ## The throttle and thermal shutdown (R432 to R436) -/

/-- THROTTLE_LEVEL_UPDATE: every 100 ms while ACTIVE (R433). -/
def execThrottleLevelUpdate (s : State) : Host.Outcome State Fault Refusal :=
  .next (if s.up && !s.dumped && s.ptm.throttle == .active then
      let g := s.until' (nextMultiple s.clock.now (100 * msT))
      { g with ptm := g.ptm.levelNow }
    else s)

/-- THERMAL_SHUTDOWN (R432, R436): the 24 comparators act on what the sensors read; two at 120 °C or more shut the device down (log entry 205). No
rule names which of them the record gives: a free value. -/
def execThermalShutdown (s : State) : Host.Outcome State Fault Refusal :=
  .next (if s.up && s.ptm.throttle != .shutdown && decide (2 ≤ hotCount s.ptm.onDie) then
      let g : State := { s.fresh.2 with ptm := s.ptm.shutDown s.clock.now }
      g.report (mkReport 0x0A 0x06 9 s.fresh.1 0 0 0)
    else s)

/-- THERMTRIP_ASSERT: THERMTRIP_N goes low when the dump ends, or 200 ms after the fault (R436). -/
def execThermtripAssert (s : State) : Host.Outcome State Fault Refusal :=
  .next (if s.up && s.ptm.throttle == .shutdown then
      let g := if s.ptm.hue = .off then s else s.until' (s.ptm.shutAt + 200 * msT)
      { g with ptm := { g.ptm with thermtrip := true } }
    else s)

end Sys2Proof.Machine
end

