-- ==== Sys2Proof/Machine/Queues.lean ====
section
/-! DEFINITION. The admin commands that make and unmake queues and that end commands (R74, R93, R98, R105). -/

namespace Sys2Proof.Machine

def Status.badQueueId : Status := stat 1 0x01
def Status.badQueueSize : Status := stat 1 0x02
def Status.badCq : Status := stat 1 0x00
def Status.badVector : Status := stat 1 0x08
def Status.badDeletion : Status := stat 1 0x0C

/-- KEEP_ALIVE (R93): every command taken restarts the timer of an association, and this one does no more. -/
def execKeepAlive (a : AdminCmd) (s : State) : Host.Outcome State Fault Refusal :=
  .next (s.admin a 0x18 .ethernet false true fun g c _ => g.fin c .success)

/-- CREATE_IO_CQ: the limits of R74, in the order of its table. -/
def execCreateIoCq (a : AdminCmd) (s : State) : Host.Outcome State Fault Refusal :=
  .next (s.admin a 0x05 .pcie false true fun g c x =>
    let q := x.sqe
    let allot := ((g.qce.inst? x.inst).map (·.allot)).getD 0
    if q.qid = 0 ∨ allot < q.qid ∨ (g.qce.cq? x.inst q.qid).isSome then g.fin c .badQueueId
    else if q.qsize = 0 then g.fin c .badQueueSize
    else if !q.pc then g.fin c .invalidField
    else if allot < q.iv then g.fin c .badVector
    else (g.addCq x.inst q.qid (q.qsize + 1) (if q.ien then some q.iv else none)).fin c .success)

/-- CREATE_IO_SQ: the limits of R74, in the order of its table; RSVIO contexts are reserved (R83). -/
def execCreateIoSq (a : AdminCmd) (s : State) : Host.Outcome State Fault Refusal :=
  .next (s.admin a 0x01 .pcie false true fun g c x =>
    let q := x.sqe
    let allot := ((g.qce.inst? x.inst).map (·.allot)).getD 0
    if q.qid = 0 ∨ allot < q.qid ∨ (g.qce.sq? x.inst q.qid).isSome then g.fin c .badQueueId
    else if q.qsize = 0 then g.fin c .badQueueSize
    else if !q.pc then g.fin c .invalidField
    else if q.cqid = 0 ∨ (g.qce.cq? x.inst q.cqid).isNone then g.fin c .badCq
    else (g.addSq x.inst q.qid (q.qsize + 1) q.cqid q.qprio true).fin c .success)

/-- DELETE_IO_CQ (R74). -/
def execDeleteIoCq (a : AdminCmd) (s : State) : Host.Outcome State Fault Refusal :=
  .next (s.admin a 0x04 .pcie false true fun g c x =>
    let k := x.sqe.qid
    if k = 0 ∨ (g.qce.cq? x.inst k).isNone then g.fin c .badQueueId
    else if g.qce.sqs.any fun e => e.1 / 512 == x.inst && e.1 % 512 != 0 && e.2.cq == k then g.fin c .badDeletion
    else ({ g with qce := { g.qce with cqs := Tab.erase g.qce.cqs (qKey x.inst k) } }).fin c .success)

/-- A command ends without freezing its queue: the queue is being deleted (R105). -/
def State.endDeleted (s : State) (c : Nat) : State := ({ s with qce := s.qce.setDone c .sqDeletion }).withdraw c

/-- DELETE_IO_SQ (R105): fetch from the queue stops, what has not passed its commit point ends, and the Delete is posted after the queue's commands. -/
def execDeleteIoSq (a : AdminCmd) (s : State) : Host.Outcome State Fault Refusal :=
  .next (s.admin a 0x00 .pcie false true fun g c x =>
    let k := x.sqe.qid
    if k = 0 ∨ (g.qce.sq? x.inst k).isNone then g.fin c .badQueueId
    else
      let live := g.qce.inSq x.inst k
      let g : State := { g with qce := g.qce.updSq x.inst k fun q => { q.dropReads with deleting := true } }
      let g := ((live.filter fun e => !e.2.committed && e.2.open').map Prod.fst).foldl State.endDeleted g
      (g.updCtx c fun y => { y with after := live.map Prod.fst }).fin c .success)

/-! ## Abort and asynchronous event requests -/

/-- A command that an Abort ends, by the state it is in (R98). In DATA only what writes and is not recorded. -/
def Ctx.abortable (x : Ctx) : Bool :=
  match x.state with
  | .fetched | .lockwait | .admitwait | .translate | .media | .ordwait => true
  | .data => (x.kind.modifies || x.kind == .zoneSend) && !x.recorded
  | .fw => x.sqe.opc == 0x0C
  | .completing | .cancelled => false

/-- Aborts outstanding for an instance, but for one of them. -/
def Qce.abortsOut (q : Qce) (inst c : Nat) : Nat :=
  (q.ctxs.filter fun e => e.1 != c && e.2.ofSq inst 0 && e.2.sqe.opc == 0x08 && e.2.state != .cancelled).length

/-- The target of an Abort: the first live command of the SQ with the CID. -/
def Qce.abortTarget (q : Qce) (inst sqid cid : Nat) : Option (Nat × Ctx) :=
  (q.inSq inst sqid).find? fun e => e.2.sqe.cid == cid && e.2.state != .cancelled

/-- ABORT (R98): the state of the target at the Abort's fetch decides. -/
def execAbort (a : AdminCmd) (s : State) : Host.Outcome State Fault Refusal :=
  .next (s.admin a 0x08 .every false true fun g c x =>
    if 32 ≤ g.qce.abortsOut x.inst c then g.fin c (stat 1 0x03)
    else
      match g.qce.abortTarget x.inst x.sqe.abortSq x.sqe.abortCid with
      | none => g.finWith c .success 1 0
      | some (k, t) =>
        if t.abortable then
          let g := (g.updCtx k fun y => { y with abrq := true }).fin k .abortRequested
          let g : State := { g with qce := g.qce.updInst x.inst fun i => { i with aers := i.aers.filter (· ≠ k) } }
          (g.updCtx c fun y => { y with after := [k] }).finWith c .success 0 0
        else
          let g := if t.state = .completing then g.updCtx c fun y => { y with after := [k] } else g
          g.finWith c .success 1 0)

/-- ASYNC_EVENT_REQUEST (R93): held until an event is reported; the 17th of an instance is one too many. -/
def execAsyncEventRequest (a : AdminCmd) (s : State) : Host.Outcome State Fault Refusal :=
  .next (s.admin a 0x0C .every false true fun g c x =>
    if 16 ≤ ((g.qce.inst? x.inst).map (·.aers.length)).getD 0 then g.fin c (stat 1 0x05)
    else { g with qce := (g.qce.updInst x.inst fun i => { i with aers := i.aers ++ [c] }).tellEvents x.inst 16 })

end Sys2Proof.Machine
end

