-- ==== Sys2Proof/Machine/Flags.lean ====
section
/-! DEFINITION. The pins by which the device shows its health: FAULT_N, HBEAT_OUT and THERMTRIP_N (R436, R454). The device's flags in registers
are computed with the blocks that own them; Critical Warning (R457) stands in Ops. -/

namespace Sys2Proof.Machine

/-- FAULT_N is asserted (low): boot ROM halt, the recovery state of stage 2, and the safe state until the next cold entry (R454). -/
def State.faultN (s : State) : Bool := s.mgc.boot == .romHalt || s.mgc.boot == .recovery || s.fev.safe

/-- What HBEAT_OUT shows (R454, R455). -/
inductive Hbeat where
  | low
  | toggles
  /-- General-purpose output: GPIOVAL. -/
  | level (high : Bool)
  deriving DecidableEq, Repr

/-- HBEAT_OUT: low in the safe state, a halt, the recovery state, a dump and the reset held after one; GPIOVAL while HBGPIO is set; otherwise the
alive signal from the first valid kick on. -/
def State.hbeatOut (s : State) : Hbeat :=
  if s.faultN || s.dumped then .low
  else if s.fev.regs.bit .fevCfg 8 then .level (s.fev.regs.bit .fevCfg 9)
  else if s.heartbeats then .toggles
  else .low

/-- THERMTRIP_N is low (R436): after a thermal shutdown, once its dump has ended or 200 ms have passed. -/
def State.thermtrip (s : State) : Bool :=
  s.fev.safeThermal && (s.fev.safeDump && s.ptm.hue != .dumping || decide (2000000 ≤ s.clock.aon - s.fev.safeEntries.headD 0))

end Sys2Proof.Machine
end

