-- ==== Sys2Proof/Machine/Store.lean ====
section
/-! DEFINITION. The firmware store: calls of the ROM store service (R392 to R394), and the operations of the flash store controller (R389 to
R391). -/

namespace Sys2Proof.Machine

/-! ## What the store holds -/

/-- Whether a record's first program, and its valid mark, have been made. -/
def SlotStage.programmed : SlotStage → Bool
  | .first => false | _ => true

/-- The four words of a slot of the event log, with their program counts (R389, R443). -/
def Slot.words (sl : Slot) : List NorWord :=
  let valid := sl.stage == .valid
  let bs := sl.ev.bytes sl.rseq (if valid then 0 else 0xFF)
  if sl.stage.programmed then (List.range 4).map fun j => ⟨slice bs (16 * j) 16, if j = 0 && valid then 2 else 1⟩ else []

/-- The event log partition as words (R447). -/
def Fev.words (f : Fev) : Tab NorWord :=
  f.log.flatMap fun e => (e.2.words.zipIdx).map fun w => (0x540000 + 4 * e.1 + w.2, w.1)

/-- A chain entry: BOOTSEQ, the record's SHA-384, and a CRC-32C in the last of its 64 bytes (R354; their places a DESIGN CHOICE, log entry 217). -/
def chainEntry (e : Nat × Nat) : List Byte :=
  let b := leBytes 8 e.1 ++ leBytes 48 e.2 ++ zeros 4
  b ++ leBytes 4 (crc32c b)

/-- The chain area as words: the two first sectors of the spare partition (R354, R387). -/
def Sec.chainWords (c : Sec) : Tab NorWord :=
  ([(0x700000, c.chain0), (0x701000, c.chain1)] : List (Nat × List (Nat × Nat))).flatMap fun a =>
    a.2.reverse.zipIdx.flatMap fun e => (List.range 4).map fun j => (a.1 + 4 * e.2 + j, ⟨slice (chainEntry e.1) (16 * j) 16, 1⟩)

/-- What FEV and SEC hold of the store, as words. -/
def State.storeWords (s : State) : Tab NorWord := s.fev.words ++ s.sec.chainWords

/-- The Cameleer can call the service, and the store's controller runs: not in a safe state, a dump or a reset. -/
def State.storeUp (s : State) : Bool := s.up && !s.fev.safe && !s.dumped && !s.porst

/-! ## The store service (R392 to R394) -/

/-- An entry into the service region: at its one address, else an access fault; INWIN is latched on every entry (R394). -/
def State.enterStore (s : State) (en fr : Nat) (go : State → State × SvcResult) : Host.Outcome State Fault Refusal :=
  if !s.storeUp then .next s
  else if en ≠ 0x08070000 then .fault .entryFault
  else
    let r := go { s with mgc := s.mgc.enterService fr }
    .next (r.1.emit (.service r.2))

/-- What FEV's port erases, as a sector of the store. -/
def Fev.erasingSector (f : Fev) : Option Nat := f.erasing.map (· + 0x54)

/-- STORE_SERVICE_READ (R392, R394). -/
def execStoreServiceRead (en fr offset len : Nat) (s : State) : Host.Outcome State Fault Refusal :=
  s.enterStore en fr fun g => (g, g.mgc.svcRead g.storeWords offset len)

/-- STORE_SERVICE_PROGRAM (R389, R391 to R394). -/
def execStoreServiceProgram (en fr offset : Nat) (data : List Byte) (s : State) : Host.Outcome State Fault Refusal :=
  s.enterStore en fr fun g =>
    let r := g.mgc.svcProgram g.clock.now g.storeWords g.fev.writing.isSome g.fev.erasingSector offset data
    ({ g with mgc := r.1 }, r.2)

/-- STORE_SERVICE_ERASE (R391 to R394). -/
def execStoreServiceErase (en fr offset len : Nat) (s : State) : Host.Outcome State Fault Refusal :=
  s.enterStore en fr fun g =>
    let r := g.mgc.svcErase g.clock.now g.fev.erasing.isSome offset len
    ({ g with mgc := r.1 }, r.2)

/-- STORE_SERVICE_POLL (R392 to R394). -/
def execStoreServicePoll (en fr : Nat) (s : State) : Host.Outcome State Fault Refusal :=
  s.enterStore en fr fun g =>
    let r := g.mgc.svcPoll
    ({ g with mgc := r.1 }, r.2)

/-! ## The controller (R390) -/

/-- A read is served. -/
def State.serveRead (s : State) (r : FscRead) : State := s.emit (.store r.port (s.mgc.readStore s.storeWords r.offset r.len))

/-- Reads that waited for a nested program are served when it ends: reads go first (R455). -/
def State.serveReads (s : State) : State := { (s.mgc.reads.foldl State.serveRead s) with mgc := { s.mgc with reads := [] } }

/-- A program nested in a suspended erase runs: reads wait for it (R390). FEV's program waits while another port's runs (R455). -/
def State.nestedProgram (s : State) : Bool :=
  match s.mgc.prog with
  | some p => p.nested
  | none => s.fev.writing.isSome && (s.mgc.erase.isSome || s.fev.erasing.isSome)

/-- When the operation that runs has run long enough to be suspended (R390): 50 µs for a program, 2 ms for an erase. -/
def Mgc.suspendAt (m : Mgc) : Nat :=
  match m.prog, m.erase with
  | some p, _ => p.started + 500
  | none, some e => e.runSince + 20000
  | none, none => 0

/-- FSC_READ_REQUEST (R390): served at once, or once the running operation is suspended, or after a nested program. -/
def execFscReadRequest (port : FscPort) (offset len : Nat) (s : State) : Host.Outcome State Fault Refusal :=
  .next (if !s.up || decide (storeSize < offset + len) then s
    else
      let r : FscRead := ⟨port, offset, len⟩
      if s.nestedProgram then { s with mgc := { s.mgc with reads := s.mgc.reads ++ [r] } }
      else
        let g := s.until' s.mgc.suspendAt
        { (g.serveRead r) with mgc := g.mgc.resumed g.clock.now })

/-- The next program that waited starts (R390, R455). -/
def Mgc.nextProgram (m : Mgc) (now : Nat) : Mgc :=
  match m.waiting with
  | [] => m
  | (p, o, bs) :: rest => ({ m with waiting := rest }).startProgram now p o bs m.erase.isSome

/-- A program has ended, `fev` one of FEV's: the erase it was nested in runs again, reads that waited are served, and the program that came next
starts, FEV's own included (R390, R455). -/
def State.afterProgram (s : State) (fev : Bool) : State :=
  let run := fun e : FscErase => { e with runSince := s.clock.now, suspensions := if fev then satAdd 255 e.suspensions 1 else e.suspensions }
  let g := s.serveReads
  let m : Mgc := { g.mgc with erase := g.mgc.erase.map run }
  { g with mgc := if !fev && s.fev.writing.isSome then m else m.nextProgram s.clock.now }

/-- FEV's port: its program or erase has ended; a failure is recorded (R393, R459). -/
def State.fevStore (s : State) (f : Fev) (ok : Bool) (offset : Nat) : State :=
  let g : State := { s with fev := f }
  if ok then { g with mgc := { g.mgc with regs := g.mgc.regs.setFld .mgcFscstat 26 24 0 } }
  else ({ g with mgc := { g.mgc with regs := (g.mgc.regs.setFld .mgcFscstat 28 28 1).setFld .mgcFscstat 26 24 6 } }).report
    (mkReport 0x09 0x01 8 offset 0 0 0)

/-- FSC_PROGRAM_DONE (R390, R393, R443): the program that a port has running ends, a nested one not before its erase has run 2 ms; FEV's waits while
another port's runs (R455). A checkpoint goes on from the program of its descriptor (R224). -/
def execFscProgramDone (port : FscPort) (ok : Bool) (s : State) : Host.Outcome State Fault Refusal :=
  .next (if !s.up then s
    else
      match port with
      | .fev =>
        match s.fev.writing with
        | some n => if s.mgc.prog.isSome then s else (s.fevStore (s.fev.programDone ok) ok (0x5400000 + 64 * n)).afterProgram true
        | none => s
      | _ =>
        match s.mgc.prog with
        | none => s
        | some p =>
          if p.port ≠ port then s
          else
            let g := s.until' p.started
            let r := g.mgc.programDone g.storeWords ok
            let f := if port = .ptx then g.fl.ckptProgrammed ok else g.fl
            (({ g with mgc := r.1, fl := f }).afterProgram false).reports r.2)

/-- FSC_ERASE_DONE (R390, R392, R393, R448): FEV's erase waits while another port's runs. -/
def execFscEraseDone (port : FscPort) (ok : Bool) (s : State) : Host.Outcome State Fault Refusal :=
  .next (if !s.up then s
    else
      match port with
      | .fev =>
        match s.fev.erasing with
        | some n => if s.mgc.erase.isSome then s else s.fevStore (s.fev.eraseDone ok) ok (0x5400000 + 65536 * n)
        | none => s
      | _ =>
        if (s.mgc.erase.map (·.port)) = some port then
          let r := s.mgc.eraseDone s.clock.now ok
          (({ s with mgc := r.1 }).reports r.2).serveReads
        else s)

/-- FSC_SUSPEND_HOLD_EXPIRY: a suspension of an erase has lasted 2 ms; it resumes once a running nested program ends (R390). -/
def execFscSuspendHoldExpiry (s : State) : Host.Outcome State Fault Refusal :=
  .next (if s.up then
      let resume := fun e : FscErase =>
        { e with holdOver := true, runSince := if s.mgc.prog.isNone then s.clock.now else e.runSince }
      { s with mgc := { s.mgc with erase := s.mgc.erase.map resume } }
    else s)

end Sys2Proof.Machine
end

