-- ==== Sys2Proof/Machine/Start.lean ====
section
/-! DEFINITION. Power-up, resets and clean shutdown (chapter 16): what a reset leaves of each block, the start from the cold entry to device ready as
one step, and the commands that bring it about. -/

namespace Sys2Proof.Machine

/-! ## What a reset leaves of each block (R477, R479) -/

/-- A device reset waits for the recorder (R527): the running record finishes and queued ones fill the free slots. -/
def Fev.settleStore (f : Fev) : Fev := (List.range 150).foldl (fun (g : Fev) _ => g.programDone true) f

/-- A power-on reset cuts the record being written: its slot is never valid (R443, R527). -/
def Fev.cutStore (f : Fev) : Fev :=
  match f.writing with
  | some n => { f with writing := none, log := Tab.upd f.log n fun x => { x with stage := .broken } }
  | none => f

/-- A sector erase that was cut off: which of its records are still valid is open, and is taken from the bits of `free` (R450, R527, log entry 52). -/
def Fev.cutErase (f : Fev) (free : Nat) : Fev :=
  match f.erasing with
  | none => f
  | some v =>
    { f with
      erasing := none
      log := f.log.map fun e =>
        (e.1, if e.1 / logSlots = v && !free.testBit (e.1 % logSlots) then { e.2 with stage := .broken } else e.2) }

/-- The scan of the event log at a start, and what else FEV keeps (R450, R453, R477): after a power-on reset the first-fault queue alone. -/
def Fev.scan (f : Fev) (powerOn : Bool) : Fev :=
  let good := f.log.filter fun e => e.2.stage == .valid
  let top : Nat × Nat := good.foldl (fun b e => if b.1 < e.2.rseq then (e.2.rseq, e.1 / logSlots) else b) (0, 0)
  let g : Fev :=
    { f with
      regs := f.regs.filter fun r => r.1 == .fevFfqsel
      openSec := top.2, ready := none, rseq := top.1, queue := [], drop01 := 0, drop2 := 0, drop3 := 0
      badrec := f.log.length - good.length, safe := false, safeDump := false, safeThermal := false, starts := [], active := [], heldAt := none, schedFrom := [], badKick := 0
      hbStarted := true }
  if powerOn then { g with dropped := 0, dropCrit := 0, csrc := 0, ccode := 0, safeEntries := [] } else g

/-- Words of the store whose program or erase was cut off: their content is open, from free value `n` on (log entry 53). -/
def Mgc.spoil (m : Mgc) (n lo count : Nat) : Mgc :=
  let ws := (List.range count).map fun i => (lo + i, NorWord.mk (leBytes 16 (Config.freeValue (n + i))) 2)
  { m with nor := (m.nor.filter fun e => decide (e.1 < lo)) ++ ws ++ m.nor.filter fun e => decide (lo + count ≤ e.1) }

/-- What a reset cuts off in the store: an erase always, a program at a power-on reset; a device reset waits for the program (R527). -/
def Mgc.cutStore (m : Mgc) (n : Nat) (words : Tab NorWord) (powerOn : Bool) : Mgc :=
  let a := match m.erase with
    | some e => (m.unfactory (e.sectors.headD 0)).spoil n (e.sectors.headD 0 * 4096) 4096
    | none => m
  match a.prog with
  | some p => if powerOn then a.spoil (n + 4096) (p.offset / 16) (ceilDiv p.bytes.length 16) else (a.programDone words true).1
  | none => a

/-- What MGC keeps across every reset: the store and the calibration partition, with the VPD and the self-test results. -/
def Mgc.reset (m : Mgc) (now lastCold : Nat) : Mgc :=
  let z : Ahnah := { busy := none, done := false, err := false, task := 0, tag := 0, dlen := 0, result := 0, args := [0, 0, 0, 0], data := zeros 256 }
  { m with
    regs := RegFile.setFld [] .mgcRstctl 25 24 lastCold, s2Run := 0, prog := none, waiting := [], erase := none, reads := [], svcFail := none
    run := ⟨0, 0, 0, 0⟩, download := none, act := none, postHold := 0, ah := z, ports := m.cal.ports, eid := 0, miFreq := 1, miMtu := 64, miAen := 0
    boot := .reset, coldAt := now, readyAt := now, shutdown := none, quiesced := false, resetDue := false, acRun := 0, reload := none
    dst := none }

/-- SEC at a reset: alarm latches whose cause is gone clear at a power-on reset, which notes that there were any (R374); a debug unlock stays
(DEDUCED from R347 and R373, log entry 54); pool slots are cleared and namespace keys come back from their blobs (R362, R363). -/
def Sec.reset (c : Sec) (powerOn : Bool) : Sec :=
  let prev := if powerOn then b2n !c.alarms.isEmpty else c.regs.fld .secAlarmstat 4 4
  { c with
    regs := RegFile.setFld [] .secAlarmstat 4 4 prev, keys := [], changes := [], buffer := [], skey := [], run := none, gcm := ⟨[], []⟩
    alarms := if powerOn then c.alarms.filter fun a => a == 3 && c.debugUnlocked else c.alarms
    zeroed := c.zeroed && !powerOn, privKeys := false, svnAdvanced := false, meas := [], building := none, bootCause := b2n !powerOn, endpoints := [] }

/-- PTM at a reset: the HUE is judged again; what log page 0xC6 keeps of dumps stays, and at a device reset what it counts from power-on (R417, R438,
R479). -/
def Ptm.reset (p : Ptm) (board : HueParams) (powerOn : Bool) : Ptm :=
  let z := Ptm.initial board
  { z with
    dumpSeq := p.dumpSeq, dumpBytes := p.dumpBytes, dumpTime := p.dumpTime, dumpRes := p.dumpRes, pfail := p.pfail && !powerOn
    lastTestStamp := if powerOn then 0 else p.lastTestStamp, testFails := if powerOn then 0 else p.testFails
    rorTrips := if powerOn then 0 else p.rorTrips, thrTime := if powerOn then 0 else p.thrTime }

/-- Namespaces of which a host asked write protection until a power cycle (NVMe base specification, log entry 26). -/
def Flash.unprotect (f : Flash) : Flash :=
  { f with ptx := { f.ptx with nss := Tab.mapVals f.ptx.nss fun _ n => { n with wprot := if n.wprot = 2 then 0 else n.wprot } } }

/-- The flash side at a start (R227, R242, R426); a device reset keeps what counts from power-on (R135, R294). -/
def Flash.restart (f : Flash) (now hours : Nat) (powerOn : Bool) : Flash :=
  let g := (if powerOn then f.unprotect else f).replay now hours
  let p := f.ptx
  let d := f.dip
  if powerOn then g
  else
    { g with
      ptx := { g.ptx with reason := p.reason, switches := p.switches, lastSw := p.lastSw, flushes := p.flushes, maxFlush := p.maxFlush }
      dip := { g.dip with unrec := d.unrec, mirages := d.mirages, mirdeny := d.mirdeny, softdec := d.softdec, dunerec := d.dunerec, mispl := d.mispl } }

/-! ## Host ports (R35 to R41, R140) -/

/-- The reset values of the strap fields (R36, R40, R140, R466). -/
def strapLanes (s0 : Bool) (straps : Nat) : RegFile × RegFile × LaneEval :=
  let m0 := natBits straps 2 0
  let m1 := natBits straps 5 3
  let e := evalLanes s0 true true m0 m1 fun _ => (0, 0)
  let n := e.ports.length
  let h := (RegFile.setFld [] .hfuLgcfg 2 0 m0).setFld .hfuLgcfg 10 8 m1
  let range := (List.range n).foldl (fun (rf : RegFile) j =>
    (rf.setFld (.hfuInstcfg j) 10 0 (splitRange n j).1).setFld (.hfuInstcfg j) 27 16 (splitRange n j).2) h
  let share := fun (j : Nat) => 16384 * (splitRange n j).2 / 2048
  let spare := if n = 0 then 0 else 16384 - ((List.range n).map share).sum
  let pools := e.ports.zipIdx.foldl (fun (rf : RegFile) p =>
    (rf.setFld (.qceQpool p.2) 30 16 (share p.2 + if p.2 = 0 then spare else 0)).setFld (.qceQpool p.2) 8 0 (if p.1.2.1 = .eth then 8 else 64)) []
  (range, pools, e)

/-- The ports begin to train from the straps (R38), each with its instances; groups that cannot run are reported (R37). -/
def State.openPorts (s : State) (perst : List Nat) : State :=
  let l := strapLanes s.part.s0 s.straps
  let h0 : Hfu :=
    { s.hfu with
      regs := l.1, ports := [], conns := [], perst := perst.foldl (fun t g => Tab.set t g s.clock.now) []
      leases := Tab.mapVals s.hfu.leases fun _ x => { x with owner := none, guarded := x.saved }
      resv := Tab.keep s.hfu.resv fun _ r => r.ptpl, holdoff := none }
  let h := h0.applyLanes l.2.2
  let g : State :=
    { s with
      hfu := h, qce := { Qce.initial with regs := l.2.1, stamp := s.qce.stamp }, tas := Tas.initial
      fl := { s.fl with ptx := { s.fl.ptx with growths := [] } } }
  let g := h.ports.foldl (fun (g : State) p => g.openPort p.1 p.2) g
  g.reports (laneReports [0, 1] ⟨0, 0, []⟩ l.2.2)

/-! ## The cold entry (R467 steps 1 and 2) -/

/-- Straps are sampled and power cycles counted at a power-on reset; every block takes its reset values. `lastCold`: LASTCOLD. -/
def State.coldEntry (s : State) (env : StartEnv) (powerOn : Bool) (lastCold : Nat) : State :=
  let clock : Clock := if powerOn then { s.clock with now := 0, pcyc := s.clock.pcyc + 1 } else s.clock
  let f := if powerOn then s.fev.cutStore else s.fev.settleStore
  let fev := { (f.cutErase (Config.freeValue s.free)).scan powerOn with kickedAt := clock.now }
  let mss : Mss := { Mss.initial with timing := s.mss.timing, trainTemp := s.mss.trainTemp, lapStart := clock.now }
  let g : State :=
    { s with
      clock := clock, straps := if powerOn then env.straps % 256 else s.straps, fev := fev, free := s.free + 4353
      mgc := (s.mgc.cutStore (s.free + 1) s.storeWords powerOn).reset clock.now lastCold
      sec := s.sec.reset powerOn, ptm := s.ptm.reset s.mgc.cal.hue powerOn, mss := mss
      porst := false, fetchPaused := false, health := { s.health with backup := s.health.backup && !powerOn }, hist := []
      qce := { s.qce with stamp := if powerOn then none else s.qce.stamp } }
  g.openPorts env.perst

/-! ## The boot ROM and stage 2 (R349, R350, R399 to R401) -/

/-- The stage 2 copy that the ROM runs: the one of higher SVN among those it may run (R350, R399). -/
def Mgc.pickStage2 (m : Mgc) (svnMin advances : Nat) : Option (Nat × Nat × Nat) :=
  let ok := m.s2.filter fun e => decide (svnMin ≤ e.2.1) && (e.2.1 == svnMin || decide (0 < advances))
  ok.foldl (fun (b : Option (Nat × Nat × Nat)) e => match b with | some x => if x.2.1 < e.2.1 then some e else b | none => some e) none

/-- SEC as the ROM leaves it: the fused minimum advanced, the keys derived (R345, R350). -/
def Sec.romDone (c : Sec) (svn : Nat) : Sec :=
  let up := decide (c.svnMin < svn)
  { c with stage2Svn := svn, svnMin := svn, svnAdvanced := up, advancesLeft := c.advancesLeft - b2n up, privKeys := true }

/-- The slot that stage 2 runs: NEXT, or the other one (R400); whether it fell back. -/
def State.pickSlot (s : State) : Option (Nat × Bool) :=
  let ok := fun (slot : Nat) => (s.mgc.checkSlot slot s.sec.stage2Svn true s.fl.dvers).isNone
  let other := 3 - s.mgc.cal.next
  if ok s.mgc.cal.next then some (s.mgc.cal.next, false)
  else if ok other && decide (s.mgc.cal.minimg ≤ (s.mgc.header other).svn) then some (other, true)
  else none

/-- The measurements of a start in load order (R349, R352, R385). -/
def State.measured (s : State) (copy : Nat × Nat) (slot : Nat) : List Meas :=
  let im := imageMeas slot (s.mgc.headerDigest slot) (s.mgc.header slot)
  let own := fun (k : Nat) (x : Bool) (svn dig : Nat) => Meas.mk k 0 false x svn 0 dig
  [own 0 false 0 (Config.vendorDigest 0), own 1 true copy.1 copy.2] ++ im.take 2
    ++ [own 8 false 0 (Config.freeValue s.free), own 9 false 0 (Config.freeValue (s.free + 1))] ++ im.drop 2

/-- The running image (R400): the fallback is recorded, and NEXT is no longer pending. -/
def State.runSlot (s : State) (copy : Nat × Nat × Nat) (slot : Nat) (fell : Bool) : State :=
  let h := s.mgc.header slot
  let g : State := if fell then s.report (mkReport 0x09 0x02 0 0 slot 0 0) else s
  let cal : Calib := { g.mgc.cal with nextPending := false }
  { g with
    free := g.free + 2, sec := { g.sec with meas := g.measured copy.2 slot }
    mgc := { g.mgc with
      run := ⟨slot, h.svn, h.version, h.hsv⟩, cal := cal, s2Run := copy.1, regs := g.mgc.regs.setFld .mgcCfg 30 30 1 } }

/-! ## DRAM (R323, R324, R329) -/

/-- The saved training is restored where it stands and no rank is marked stale, else full training runs; all of DRAM reads as zero. -/
def State.trainDram (s : State) (env : StartEnv) : State :=
  let stale := s.mss.timing.any fun e => e.2.stale
  let full := !(env.savedTraining && s.mgc.cal.trained) || stale
  let bad := (List.range 12).filter env.dramFails.contains
  let good := ((List.range 12).map fun n => if bad.contains n then 0 else 2 ^ n).sum
  let regs := ((RegFile.set [] .mssDmcfg s.mgc.cal.dmcfg).setFld .mssDmstat 27 16 good).setFld .mssDmstat 30 30 (b2n full)
  if bad.isEmpty then
    { s with
      mss := { s.mss with
        regs := regs.setFld .mssDmstat 31 31 1, erasure := s.mgc.cal.erasure, timing := if full then [] else s.mss.timing
        trainTemp := if full then [] else s.mss.trainTemp }
      mgc := { s.mgc with acRun := 255, cal := { s.mgc.cal with trained := true } } }
  else
    (bad.foldl (fun (g : State) n => g.report (mkReport 0x07 0x02 2 n 0 0 0))
      { s with mss := { s.mss with regs := regs }, mgc := { s.mgc with acRun := 1, boot := .stopped } })

/-! ## NAND, the boot record, replay and device ready (R236, R353, R426, R469) -/

/-- MBE_CLk_CHCFG as the Cameleer loads it from the calibration partition (R232, R467). -/
def Flash.loadChcfg (f : Flash) : Flash :=
  let regs := f.hw.clusters.foldl (fun (rf : RegFile) e =>
    let r := Reg.mbeChcfg e.1
    ((((rf.setFld r 27 24 e.2.rate).setFld r 23 16 e.2.chen).setFld r 11 8 e.2.ce).setFld r 5 4 (e.2.luns - 1)).setFld r 3 0 e.2.kind) f.mbe.regs
  { f with mbe := { f.mbe with regs := regs } }

/-- A die that does not come up is held out and enters RETIRING (R235, R279). -/
def State.holdOut (s : State) (d : Nat) : State :=
  if s.fl.hw.hasDie d then
    let g := s.report (mkReport 0x05 0x01 1 d 0 0 0)
    let r := g.fl.retireDie g.clock.now g.hours d 5 false
    let f : Flash := { r.1 with dip := { r.1.dip with dies := Tab.upd r.1.dip.dies d fun x => { x with heldOut := true } } }
    r.2.2.foldl State.note { g with fl := f }
  else s

/-- The dies that cannot come up with their cluster (R235, R233): its descriptor is missing or bad, or its RATE is above the descriptor's limit. -/
def Flash.badDies (f : Flash) : List Nat :=
  f.hw.dies.filter fun d =>
    let e := f.hw.desc d
    let kind := ((Tab.get? f.hw.clusters (dieCluster d)).map (·.kind)).getD 0 % 16
    !(Tab.has f.hw.descs kind) || !e.good || decide (e.maxRate < f.rate d)

/-- Clusters whose microcode in the running image serves another descriptor version than theirs, with both (R238). -/
def State.misfits (s : State) : List (Nat × Nat × Nat) :=
  s.fl.hw.clusterList.filterMap fun k =>
    let v := (s.fl.hw.desc (256 * k)).ver
    ((s.mgc.header s.mgc.run.slot).comps.find? fun c => (c.kind == 5 || c.kind == 6) && c.dver != v).map fun c => (k, v, c.dver)

/-- The newest complete descriptor is the running checkpoint's where the store holds it whole, with its VALID mark (R226, R227). -/
def State.findCkpt (s : State) : State :=
  match s.fl.ptx.ckptRun with
  | none => s
  | some c =>
    if 2 ≤ s.fl.ptx.ckptStage ∧ s.mgc.readStore s.storeWords c.offset 4096 = c.bytes 0x00 then
      s.withFl { s.fl with ptx := s.fl.ptx.ckptTake c }
    else s

/-- The lease generations that the checkpoint and the journal hold (R70). -/
def Hfu.withGens (h : Hfu) (gens : Tab Nat) : Hfu := { h with leases := Tab.mapVals h.leases fun k l => { l with gen := Tab.getD gens k 0 } }

/-- Power was lost in a drain that exposed data: Critical Warning bit 4 stays set until power-on reset (R132). -/
def State.warnExposed (s : State) : State :=
  { s with health := { s.health with backup := s.health.backup || s.fl.ptx.draining && s.fl.ptx.exposed } }

/-- The dump that a start restores: a missing trailer is reported, and exposed data is a warning until power-on reset (R426). -/
def State.restoreDump (s : State) : State :=
  match s.fl.ptx.dump with
  | none => s
  | some d =>
    let g : State := if d.trailer then s else s.report (mkReport 0x0A 0x05 0 0 d.seq 0 0)
    let carried := (d.slots.map fun e => s.fl.slotGranules e.2).sum
    { g with
      health := { g.health with backup := g.health.backup || d.prot && !d.trailer && decide (carried < d.ngran) }
      mgc := { g.mgc with regs := g.mgc.regs.setFld .mgcBootstat 27 27 1 } }

/-- The boot record of the start is built and appended, and MINIMG follows the running image (R351, R353, R401). -/
def State.bootRecord (s : State) : State :=
  let a := (s.sec.finish s.fev.bootRecords s.stamp s.mgc.cal.serial).appended s.fev s.stamp
  let done := (s.sec.finish s.fev.bootRecords s.stamp s.mgc.cal.serial).runFits s.fev
  { s with sec := a.1, fev := a.2, mgc := { s.mgc with cal := if done then s.mgc.cal.raised s.mgc.run.svn else s.mgc.cal } }

/-- The LOCK bits of R489. -/
def lockBits : List Reg :=
  [.hfuLgcfg, .qceCtxcfg, .tasCfg, .ptxRclcfg, .dipCfg, .mssDmcfg, .secCfg, .mgcCfg, .ptmHuecfg, .fevCfg] ++ (List.range 8).map Reg.mbeChcfg

/-- Every LOCK bit is set but for those the calibration configuration exempts (R490). -/
def State.setLocks (s : State) : State :=
  (lockBits.filter fun r => !s.mgc.cal.lockExempt.contains r).foldl (fun (g : State) r => g.setReg r ((g.reg r).setBits 31 31 1)) s

/-- Ethernet ports without a valid configuration block are reported (R413). -/
def State.checkPorts (s : State) : State :=
  let bad := Tab.keysWhere s.hfu.ports fun n p => p.proto = .eth && (s.portBlock n).isNone
  bad.foldl (fun (g : State) n => g.report (mkReport 0x09 0x04 4 n 0 0 0)) s

/-- Device ready (R469): the time that the start took is free below the limit of R471 (log entry 55). The checkpoint that follows replay starts (R227). -/
def State.becomeReady (s : State) (clean : Bool) : State :=
  let limit := if clean then 120000000 else 450000000
  let g := s.fresh.2.until' (s.mgc.coldAt + s.fresh.1 % (limit + 1))
  let took := min 65535 ((g.clock.now - g.mgc.coldAt) / 100000)
  let g : State :=
    { g with
      mgc := { g.mgc with boot := .ready, readyAt := g.clock.now, regs := g.mgc.regs.setFld .mgcBootstat 15 0 took }
      fev := { g.fev with kickedAt := g.clock.now, schedFrom := (List.range 8).map fun k => (k, g.clock.now) }
      hfu := { g.hfu with holdoff := some (g.clock.lease + g.hfu.regs.fld .hfuLeasecfg 31 16 * msT) } }
  let g := g.setLocks
  (g.media (g.fl.ckptStart g.clock.now g.hours false)).epochBoundary

/-- Keys are unwrapped and the known-answer tests run (R467). -/
def State.selfTest (s : State) (env : StartEnv) : State :=
  let k := s.sec.unwrapAll.kat env.readLanesBad env.writeLanesBad
  ({ s with sec := k.1 } : State).reports k.2

/-- The channels come up, their dies are tested, and the map is replayed (R235 to R238, R227). -/
def State.bringMedia (s : State) (env : StartEnv) (powerOn : Bool) : State :=
  let off := s.misfits
  let runs := s.fl.hw.channels.filter fun ch => !(off.any fun x => x.1 == ch / 8)
  let f := (((s.fl.restart s.clock.now s.hours powerOn).loadChcfg).setCh s.fl.hw.channels 1).channelsBack runs
  let f : Flash := { f with dip := { f.dip with reliability := f.dip.reliability || !s.mss.erasure.isEmpty } }
  let regs := s.mgc.regs.setFld .mgcBootstat 26 26 (b2n env.replayTwice)
  let g : State := { s with fl := f, mgc := { s.mgc with regs := regs }, hfu := s.hfu.withGens s.fl.journalReplay.gens }
  let g := g.reports (off.map fun x => mkReport 0x05 0x02 3 x.1 x.2.1 x.2.2 0)
  (distinct (env.diesBad ++ f.badDies)).foldl State.holdOut g

/-- The start stops in the safe state that it has entered (R447). -/
def State.stopped (s : State) : State := { s with mgc := { s.mgc with boot := .stopped } }

/-- Steps 8 to 12 of R467. -/
def State.loadAndReplay (s : State) (env : StartEnv) (powerOn clean : Bool) : State :=
  let g := s.selfTest env
  if g.fev.safe then g.stopped
  else
    let h := g.checkPorts.bootRecord.findCkpt.warnExposed.restoreDump.bringMedia env powerOn
    if h.fev.safe then h.stopped else h.becomeReady clean

/-- A start from the cold entry (R467), as one step: to device ready, or to where it stops. -/
def State.start (s : State) (env : StartEnv) (powerOn : Bool) (lastCold : Nat) : State :=
  let clean := s.mgc.quiesced
  let g := s.coldEntry env powerOn lastCold
  let g : State := { g with mgc := { g.mgc with regs := g.mgc.regs.setFld .mgcBootstat 23 16 g.straps } }
  match if env.romGood then g.mgc.pickStage2 g.sec.svnMin g.sec.advancesLeft else none with
  | none => { g with mgc := { g.mgc with boot := .romHalt } }
  | some copy =>
    let g : State := { g with sec := g.sec.romDone copy.2.1, mgc := { g.mgc with s2Run := copy.1 } }
    if g.straps.testBit 7 || decide (3 ≤ g.fev.safeCnt g.clock.aon) then { g with mgc := { g.mgc with boot := .recovery } }
    else
      match g.pickSlot with
      | none => { g with mgc := { g.mgc with boot := .recovery } }
      | some slot =>
        let h := (g.runSlot copy slot.1 slot.2).trainDram env
        if h.fev.safe then h else h.loadAndReplay env powerOn clean

/-! ## Resets -/

/-- A dump that is cut off: what it has carried is open, whole groups in the order of R423, the journal tail before them (log entry 56). `free` tells
how far it came; nothing of it is found when its header was not yet programmed. -/
def Flash.cutDump (f : Flash) (free : Nat) : Flash :=
  match f.ptx.dump with
  | none => f
  | some d =>
    let order := f.dumpOrder.filter fun e => Tab.has d.slots e.1
    let total := (order.map fun e => f.slotGranules e.2).sum
    let came := free % (d.tail.length + total + 2)
    let old := Tab.keep d.slots fun k _ => !(order.any fun e => e.1 == k)
    let slots := (f.fitGroups (came - 1 - d.tail.length) order).foldl (fun t e => Tab.set t e.1 e.2) old
    let cut : WadiDump := { d with tail := d.tail.drop (d.tail.length - (came - 1)), slots := slots, trailer := false }
    { f with ptx := { f.ptx with dump := if came = 0 ∧ old.isEmpty then none else some cut } }

/-- The dump that runs ends where it stands (R439, R512). -/
def State.cutDump (s : State) : State :=
  if s.ptm.hue = .dumping then
    { s.fresh.2 with fl := s.fl.cutDump s.fresh.1, ptm := { s.ptm with hue := .absent, dumpRes := 2 } }
  else s

/-- A power-on reset takes effect: the device is held until PORST_N rises. -/
def State.hold (s : State) : State :=
  let g := s.cutDump
  { g with porst := true, mgc := { g.mgc with boot := .reset } }

/-- POWER_ON_RESET: PORST_N rises (R467). A dump that PORST_N started has ended before (R478). -/
def execPowerOnReset (env : StartEnv) (s : State) : Host.Outcome State Fault Refusal :=
  .next (if s.porst && s.ptm.hue != .dumping then s.start env true 0 else s)

/-- DEVICE_RESET (R474, R477): the cold entry 1 ms after a shutdown that asked for it, or after an image commit in the recovery state. -/
def execDeviceReset (env : StartEnv) (s : State) : Host.Outcome State Fault Refusal :=
  .next (if s.mgc.resetDue && s.up && !s.fev.safe then (s.until' (s.clock.now + msT)).start env false 1 else s)

/-- PORST_ASSERT (R478, R480). -/
def execPorstAssert (s : State) : Host.Outcome State Fault Refusal :=
  .next (
    if !s.up || s.porst then s
    else if s.ptm.hue = .dumping then { s with porst := true }
    else if s.ptm.hue = .off || s.mgc.quiesced || s.mgc.boot != .ready then s.hold
    else if s.ptm.hue.judged then { s.powerLoss with porst := true }
    else s.powerLoss.hold)

/-- The always-on domain has lost its supply (R453, R463). -/
def State.aonLost (s : State) : State :=
  { s with
    clock := { s.clock with xtal := false, xtalLost := false, aonAt := s.clock.aon }
    fev := { s.fev with ffq := [], ffqOvfl := 0, safeEntries := [], csrc := 0, ccode := 0, regs := s.fev.regs.filter fun r => r.1 != .fevFfqsel }
    sec := { s.sec with alarms := [] } }

/-- A U-class fault of a rail, for which R444 has no code: its source and code are open (log entry 57). -/
def State.railFault (s : State) : State :=
  let a := s.fresh
  let b := a.2.fresh
  if s.dumped || s.fev.safe then s else b.2.report ⟨a.1 % 256, b.1 % 256, .u, 3, 0, 0, 0, 0, 0⟩

/-- SUPPLY_UNDERVOLTAGE (R512). While a dump owns the supplies no rail causes a fault (R464). -/
def execSupplyUndervoltage (rail : Rail) (s : State) : Host.Outcome State Fault Refusal :=
  .next (
    match rail with
    | .mains aon => if aon then s.hold.aonLost else if s.up then s.hold else s
    | _ =>
      if !s.up || s.dumped then s
      else
        match rail with
        | .coreGlitch | .sram => s.alarm 0
        | .pll => s.fresh.2.report (mkReport 0x0B 0x06 0 0 (s.fresh.1 % 4) 0 0)
        | .serdes =>
          let g := (s.hfu.ports.map Prod.fst).foldl (fun (g : State) n =>
            if g.linked n .pcie || g.linked n .eth then g.portLoss n .down else g) s
          { g with hfu := { g.hfu with railLow := true } }
        | .nand k => if (clusterChannels k).any s.fl.hw.hasChannel then s.railFault else s
        | _ => s.railFault)

/-- POWER_RETURN_AFTER_DUMP: PFAIL_N high or V above VPF for 100 ms after the dump has ended (R427). LASTCOLD is 3, also where a safe state made the
dump (R446; DEDUCED, log entry 216). -/
def execPowerReturnAfterDump (env : StartEnv) (s : State) : Host.Outcome State Fault Refusal :=
  .next (
    if s.ptm.hue = .off && !s.porst && s.ptm.throttle != .shutdown && s.up then
      let g := s.until' (s.clock.now + 100 * msT)
      ({ g with ptm := { g.ptm with pfail := false } }).start env false 3
    else s)

/-- SAFEHOLD_EXPIRY: a safe state without a dump ends SAFEHOLD seconds after its entry (R446). -/
def execSafeholdExpiry (env : StartEnv) (s : State) : Host.Outcome State Fault Refusal :=
  .next (
    let hold := s.fev.regs.fld .fevCfg 7 0
    if s.fev.safe && !s.fev.safeDump && !s.fev.safeThermal && !s.dumped && !s.porst && hold != 0 then
      let g := s.until' (s.clock.now + ((s.fev.safeEntries.headD 0 + hold * secT) - s.clock.aon))
      g.start env false 2
    else s)

/-! ## Clean shutdown (R472 to R475) -/

/-- What a write to MGC_RSTCTL does: SHUT, DEVRST (R472, R474, R480). -/
def State.rstCtl (s : State) (v : W32) : State :=
  if v.bits 30 30 = 1 then s.startShutdown true else if v.bits 31 31 = 1 then s.startShutdown false else s

/-- MGC_RSTCTL_SHUT (R472). -/
def execMgcRstctlShut (r : Requester) (s : State) : Host.Outcome State Fault Refusal :=
  .next (s.csrWrite r .mgcRstctl 0x80000000 fun g => g.rstCtl 0x80000000)

/-- MGC_RSTCTL_DEVRST (R474). -/
def execMgcRstctlDevrst (r : Requester) (s : State) : Host.Outcome State Fault Refusal :=
  .next (s.csrWrite r .mgcRstctl 0x40000000 fun g => g.rstCtl 0x40000000)

/-- Live commands hold a shutdown back; outstanding Asynchronous Event Requests do not. -/
def State.anyLive (s : State) : Bool :=
  s.qce.ctxs.any fun e => !(s.qce.insts.any fun i => i.2.aers.contains e.1)

/-- A record that changes what replay restores: an entry, a lease generation, a redirect. Those of a checkpoint's own start and bands do not. -/
def JKind.changes : JKind → Bool
  | .entry _ _ _ => true
  | .lease _ _ => true
  | .redirect _ _ => true
  | .bandOpen _ => false
  | .bandClose _ => false
  | .checkpoint => false

/-- Step 3 and 4 of R473 on the flash side: what is still to be done, or none when the Oasis is drained and the newest checkpoint is clean with nothing
in the journal after it but records of the checkpoint itself (R226; log entry 195). -/
def Flash.shutdownStep (f : Flash) (now hours : Nat) : Option (Flash × List Note) :=
  let later := fun r : JRec => decide (f.ptx.ckpt.jpos ≤ r.no) && r.kind.changes
  if (f.ptx.slots.any fun e => e.2.stage != .superseded) || f.ptx.ckptRun.isSome || !f.ptx.flying.isEmpty then some (f, [])
  else if f.ptx.ckpt.clean && !((f.ptx.loose ++ f.ptx.journal).any later) then none
  else if f.ptx.tail.any later then some (f.programJournal now true, [])
  else some (f.ckptStart now hours true)

/-- The shutdown has ended: SHST, QUIESCED and SHTIME; Ahnah task 0x0B ends with it (R473, R474, R482). -/
def State.quiesce (s : State) (d : Shutdown) : State :=
  let ms := min 16777215 ((s.clock.now - d.startedAt) / 10000)
  let m : Mgc := { s.mgc with shutdown := none, quiesced := true, resetDue := d.devrst, regs := s.mgc.regs.setFld .mgcRstctl 23 0 ms }
  let m := match m.ah.busy with
    | some t => if t.code = 0x0B then m.ahEnd 0 [] else m
    | none => m
  { s with
    mgc := m
    qce := { s.qce with insts := Tab.mapVals s.qce.insts fun _ i => if i.state = .ready then { i with shst := 2 } else i } }

/-- CLEAN_SHUTDOWN_COMPLETE (R473, R475): each time the command comes the shutdown takes the step that is due; it ends when none is left. It waits for
live commands, a hot activation and the recoveries of a cluster or of the device. -/
def execCleanShutdownComplete (s : State) : Host.Outcome State Fault Refusal :=
  .next (s.whenRuns fun s =>
    match s.mgc.shutdown with
    | none => s
    | some d =>
      if s.anyLive || s.mgc.act.isSome || s.recoveringFw then s
      else
        match s.fl.shutdownStep s.clock.now s.hours with
        | none => s.quiesce d
        | some r => s.media r)

end Sys2Proof.Machine
end

