-- ==== Sys2Proof/Machine/Sideband.lean ====
section
/-! DEFINITION. The sideband (R357, R409 to R413, R452, R470, R482): MCTP and NVMe-MI, NVMe-MI Send and Receive, the Basic Management Command, and the
Ahnah tasks. Layouts and status codes of MCTP and NVMe-MI are those of their standards (PRESUMED, log entry 26). -/

namespace Sys2Proof.Machine

/-! ## Who serves the sideband -/

/-- The Cameleer serves the sideband: device ready, outside the safe state, a dump and a device recovery (R412, R470). -/
def State.cameleerServes (s : State) : Bool := s.runs && !s.fev.active.contains .device

/-- The MCTP endpoint answers: a binding is enabled, the balls are the sideband's, and the Cameleer serves. -/
def State.mctpAnswers (s : State) : Bool :=
  s.sideband && s.cameleerServes && (s.mgc.regs.bit .mgcSbicfg 12 || s.mgc.regs.bit .mgcSbicfg 13)

/-! ## NVMe-MI commands (R409) -/

/-- What an NVMe-MI command answers: its status, the management response, and data. -/
structure MiAnswer where
  status : Nat
  resp : Nat := 0
  data : List Byte := []
  deriving DecidableEq, Repr

def MiAnswer.invalidParameter : MiAnswer := { status := 4 }
def MiAnswer.invalidOpcode : MiAnswer := { status := 3 }

/-- The Composite Temperature as one byte in degrees Celsius; open without a trusted sensor. -/
def State.miTemperature (s : State) (structure' : Nat) : List Byte :=
  match s.ptm.composite with
  | some t => leBytes 1 (min 126 (t / 4).toNat)
  | none => openBytes structure' 2 1

/-- Read NVMe-MI Data Structure: subsystem information, ports, controllers, a controller's information, optional commands. -/
def State.miStructure (s : State) (dtyp : Nat) : MiAnswer :=
  match dtyp with
  | 0 => { status := 0, data := openBytes 0x4000 0 1 ++ leBytes 1 2 ++ leBytes 1 0 ++ openBytes 0x4000 3 29 }
  | 1 => { status := 0, data := openBytes 0x4001 0 32 }
  | 2 => { status := 0, data := controllerList (s.controllersFrom 0 fun _ => true) }
  | 3 => { status := 0, data := openBytes 0x4003 0 32 }
  | 4 => { status := 0, data := openBytes 0x4004 0 32 }
  | _ => .invalidParameter

/-- NVM Subsystem Health: Drive Functional, the inverted warnings, temperature, wear. The composite controller status is not stated, and whether
earlier changes were cleared shows only there. -/
def State.miHealth (s : State) : MiAnswer :=
  { status := 0
    data := partByte 0x4010 0 0x20 (if s.fev.safe then 0 else 0x20) ++ leBytes 1 (255 - s.warnings % 256) ++ s.miTemperature 0x4010
      ++ leBytes 1 s.fl.percentUsed ++ openBytes (0x20000 + s.free) 0 2 ++ zeros 2 }

/-- A controller's health: its identifier, status, temperature in K, wear, spare and Critical Warning. -/
def State.miController (s : State) (k : Nat) (i : Inst) : List Byte :=
  leBytes 2 k ++ partByte 0x4011 (16 * k) 0x0F (b2n i.rdy + 2 * b2n i.cfs + 4 * i.shst) ++ openBytes 0x4011 (16 * k + 1) 1
    ++ leBytes 2 (kelvin s.ptm.composite) ++ leBytes 1 s.fl.percentUsed ++ leBytes 1 s.fl.sparePercent ++ leBytes 1 s.warnings ++ zeros 7

/-- Controller Health Status Poll: the controllers from one on, as many as asked for. -/
def State.miControllers (s : State) (start count : Nat) : MiAnswer :=
  let ks := (s.controllersFrom start fun _ => true).take count
  { status := 0, resp := 2 ^ 16 * ks.length
    data := ks.flatMap fun k => match s.qce.inst? k with
      | some i => s.miController k i
      | none => [] }

/-- Configurations: 1 SMBus frequency, 2 health status change, 3 MCTP transmission unit of 64 to 256 B, 4 asynchronous events. -/
def State.miSet (s : State) (id v : Nat) : State × MiAnswer :=
  match id with
  | 1 => if 1 ≤ v ∧ v ≤ 3 then ({ s with mgc := { s.mgc with miFreq := v } }, { status := 0 }) else (s, .invalidParameter)
  | 2 => (s, { status := 0 })
  | 3 => if 64 ≤ v ∧ v ≤ 256 then ({ s with mgc := { s.mgc with miMtu := v } }, { status := 0 }) else (s, .invalidParameter)
  | 4 => ({ s with mgc := { s.mgc with miAen := v } }, { status := 0 })
  | _ => (s, .invalidParameter)

def State.miGet (s : State) (id : Nat) : MiAnswer :=
  match id with
  | 1 => { status := 0, resp := s.mgc.miFreq }
  | 2 => { status := 0 }
  | 3 => { status := 0, resp := s.mgc.miMtu }
  | 4 => { status := 0, resp := s.mgc.miAen }
  | _ => .invalidParameter

/-- A write into the 256 B VPD. -/
def Mgc.writeVpd (m : Mgc) (o : Nat) (bs : List Byte) : Mgc := { m with vpd := m.vpd.take o ++ bs ++ m.vpd.drop (o + bs.length) }

/-- An NVMe-MI command (R409). -/
def State.mi (s : State) (m : MiReq) : State × MiAnswer :=
  match m with
  | .readData dtyp => (s, s.miStructure dtyp)
  | .subsystemPoll _ => ({ s with free := s.free + 1 }, s.miHealth)
  | .controllerPoll start count _ => (s, s.miControllers start count)
  | .configSet id v => s.miSet id v
  | .configGet id => (s, s.miGet id)
  | .vpdRead o n => (s, if o + n ≤ 256 then { status := 0, data := slice s.mgc.vpd o n } else .invalidParameter)
  | .vpdWrite o bs => if o + bs.length ≤ 256 then ({ s with mgc := s.mgc.writeVpd o bs }, { status := 0 }) else (s, .invalidParameter)
  | .other => (s, .invalidOpcode)

/-- During a handover the Cameleer takes up sideband work at its step 7 (R405, R407). -/
def State.afterHandover (s : State) : State := s.until' (s.mgc.postHold - 5000)

/-- A command of the sideband, with its answer. -/
def State.miSide (s : State) (m : MiReq) : State :=
  if s.mctpAnswers then
    let r := s.afterHandover.mi m
    r.1.emit (.mi r.2.status (leBytes 3 r.2.resp ++ r.2.data))
  else s

/-- READ_NVME_MI_DATA_STRUCTURE. -/
def execReadNvmeMiDataStructure (dtyp : Nat) (s : State) : Host.Outcome State Fault Refusal := .next (s.miSide (.readData dtyp))

/-- SUBSYSTEM_HEALTH_STATUS_POLL. -/
def execSubsystemHealthStatusPoll (clear : Bool) (s : State) : Host.Outcome State Fault Refusal := .next (s.miSide (.subsystemPoll clear))

/-- CONTROLLER_HEALTH_STATUS_POLL. -/
def execControllerHealthStatusPoll (start count : Nat) (clear : Bool) (s : State) : Host.Outcome State Fault Refusal :=
  .next (s.miSide (.controllerPoll start count clear))

/-- CONFIGURATION_SET. -/
def execConfigurationSet (id value : Nat) (s : State) : Host.Outcome State Fault Refusal := .next (s.miSide (.configSet id value))

/-- CONFIGURATION_GET. -/
def execConfigurationGet (id : Nat) (s : State) : Host.Outcome State Fault Refusal := .next (s.miSide (.configGet id))

/-- VPD_READ. -/
def execVpdRead (offset len : Nat) (s : State) : Host.Outcome State Fault Refusal := .next (s.miSide (.vpdRead offset len))

/-- VPD_WRITE. -/
def execVpdWrite (offset : Nat) (data : List Byte) (s : State) : Host.Outcome State Fault Refusal := .next (s.miSide (.vpdWrite offset data))

/-- Commands that NVMe-MI Send carries; NVMe-MI Receive carries the others. -/
def MiReq.sends : MiReq → Bool
  | .configSet _ _ => true | .vpdWrite _ _ => true | _ => false

/-- An in-band NVMe-MI command: completion DW0 holds its status and its management response. -/
def State.miInBand (s : State) (c : Nat) (m : MiReq) : State :=
  let r := s.mi m
  (if m.sends then r.1 else r.1.emit (.data c r.2.data)).finWith c .success (r.2.status + 2 ^ 8 * r.2.resp) 0

/-- NVME_MI_SEND. -/
def execNvmeMiSend (a : AdminCmd) (m : MiReq) (s : State) : Host.Outcome State Fault Refusal :=
  .next (s.admin a 0x1D .every false true fun g c _ => g.miInBand c (if m.sends then m else .other))

/-- NVME_MI_RECEIVE. -/
def execNvmeMiReceive (a : AdminCmd) (m : MiReq) (s : State) : Host.Outcome State Fault Refusal :=
  .next (s.admin a 0x1E .every false true fun g c _ => g.miInBand c (if m.sends then .other else m))

/-! ## MCTP control and the Basic Management Command (R409) -/

/-- The answer to an MCTP control message: a completion code and data. -/
def State.mctp (s : State) (m : MctpReq) : State × Nat × List Byte :=
  match m with
  | .setEid e =>
    if e = 0 ∨ 255 ≤ e then (s, 2, [])
    else ({ s with mgc := { s.mgc with eid := e } }, 0, leBytes 1 0 ++ leBytes 1 e ++ leBytes 1 0)
  | .getEid => (s, 0, leBytes 1 s.mgc.eid ++ openBytes 0x5000 1 2)
  | .getUuid => (s, 0, openBytes 0x5001 0 16)
  | .getVersion ty => if [0xFF, 0x00, 0x04, 0x05].contains ty then (s, 0, leBytes 1 1 ++ openBytes (0x5100 + ty) 1 4) else (s, 0x80, [])
  | .getTypes => (s, 0, leBytes 1 2 ++ leBytes 1 0x04 ++ leBytes 1 0x05)
  | .other => (s, 5, [])

/-- MCTP_CONTROL_MESSAGE. -/
def execMctpControlMessage (m : MctpReq) (s : State) : Host.Outcome State Fault Refusal :=
  .next (
    if s.mctpAnswers then
      let r := s.afterHandover.mctp m
      r.1.emit (.mi r.2.1 r.2.2)
    else s)

/-- The data of the Basic Management Command: status flags, warnings, temperature, wear; then the serial number. -/
def State.basicManagement (s : State) : List Byte :=
  leBytes 1 6 ++ partByte 0x6000 1 0x20 (if s.fev.safe then 0 else 0x20) ++ leBytes 1 (255 - s.warnings % 256) ++ s.miTemperature 0x6000
    ++ leBytes 1 s.fl.percentUsed ++ openBytes 0x6000 5 3 ++ leBytes 1 22 ++ openBytes 0x6000 9 2 ++ fit 20 s.mgc.cal.serial ++ openBytes 0x6000 31 225

/-- BASIC_MANAGEMENT_READ: at SMBus address 0x6A, read only. -/
def execBasicManagementRead (offset len : Nat) (s : State) : Host.Outcome State Fault Refusal :=
  .next (
    if s.mctpAnswers && s.mgc.regs.bit .mgcSbicfg 12 then s.emit (.mi 0 (slice s.basicManagement offset len)) else s)

/-! ## The Ahnah tasks (R411, R412) -/

/-- The interface takes a GO (R411): it is enabled, its balls are the sideband's, no task runs. A device held in reset after a dump answers
nothing. -/
def State.ahTakes (s : State) : Bool :=
  s.sideband && s.mgc.regs.bit .mgcSbicfg 15 && s.mgc.ah.busy.isNone && (!s.dumped || s.fev.safe)

/-- A task ends. -/
def State.ahDone (s : State) (result : Nat) (data : List Byte) : State := { s with mgc := s.mgc.ahEnd result data }

/-- RESULT of an NVMe status (R412). -/
def Status.ahResult (st : Status) : Nat := if st.isOk then 0 else 0x8000 + st.sct * 256 + st.sc

/-- The recovery state of stage 2 serves the tasks marked so (R400, R412). -/
def State.inRecovery (s : State) : Bool := s.mgc.boot == .recovery && !s.fev.safe && !s.dumped

/-- A GO: the arguments and data stand in the registers; a task of the Cameleer's needs it (0x0004) and waits for the end of a handover (R407), a Write
task needs AHWR (0x0002), but for the recovery state. -/
def State.ahTask (s : State) (code tag : Nat) (args : List Nat) (data : List Byte) (hardware write recovery : Bool) (go : State → State) : State :=
  if !s.ahTakes then s
  else
    let g : State := { s with mgc := s.mgc.ahStart code (tag % 256) args data }
    let rec' := recovery && s.inRecovery
    if !hardware && !s.cameleerServes && !rec' then g.ahDone 4 []
    else if write && !rec' && !s.mgc.ahWr then g.ahDone 2 []
    else go (if hardware then g else g.afterHandover)

/-- The task holds the interface until it ends. -/
def State.ahWaits (s : State) (code : Nat) : State := { s with mgc := { s.mgc with ah := { s.mgc.ah with busy := some ⟨code⟩ } } }

/-- Argument `m`. -/
def argOf (args : List Nat) (m : Nat) : Nat := args.getD m 0 % 2 ^ 32

/-- The health summary of task 0x01. -/
def State.healthSummary (s : State) : List Byte :=
  leBytes 2 (kelvin s.ptm.composite) ++ leBytes 1 s.warnings ++ leBytes 1 (b2n s.fev.safe + 2 * b2n s.fl.ptx.unp + 4 * b2n s.faultN + 8 * s.fl.ptx.cap)
    ++ leBytes 4 (s.viewReg .fevEscstat).toNat ++ leBytes 4 (s.viewReg .secAlarmstat).toNat ++ leBytes 4 s.mgc.run.svn ++ leBytes 8 s.mgc.run.version
    ++ leBytes 8 s.hours

/-- AHNAH_HEALTH_SUMMARY. -/
def execAhnahHealthSummary (tag : Nat) (args : List Nat) (data : List Byte) (s : State) : Host.Outcome State Fault Refusal :=
  .next (s.ahTask 0x01 tag args data true false true fun g => g.ahDone 0 g.healthSummary)

/-- What an aligned 32-bit read of CSR space returns: a register, or 0 where none stands (R485, R486). -/
def State.csrRead (s : State) (addr : Nat) : W32 :=
  match regAt? addr with
  | some r => s.viewReg r
  | none => 0

/-- Offsets that task 0x02 may read. -/
def ahReadable (o : Nat) : Bool :=
  decide (0x90000 ≤ o ∧ o < 0xB0000) || [0x70108, 0x80100, 0x80200, 0x108, 0x128, 0x148, 0x168].contains o

/-- AHNAH_REGISTER_READ (R412, R487). -/
def execAhnahRegisterRead (tag : Nat) (args : List Nat) (data : List Byte) (s : State) : Host.Outcome State Fault Refusal :=
  .next (s.ahTask 0x02 tag args data true false true fun g =>
    let o := argOf args 0
    if !ahReadable o then g.ahDone 2 []
    else if o % 4 ≠ 0 then g.ahDone 3 []
    else g.ahDone 0 (leBytes 4 (g.csrRead (0x40000000 + o)).toNat))

/-- AHNAH_EVENT_RECORD_READ (R452): records, the header, or entries of the first-fault queue. -/
def execAhnahEventRecordRead (tag : Nat) (args : List Nat) (data : List Byte) (s : State) : Host.Outcome State Fault Refusal :=
  .next (s.ahTask 0x03 tag args data s.fev.safe false false fun g =>
    let a := argOf args 0
    let n := argOf args 1
    if a = 0xFFFFFFFF then g.ahDone 0 g.fev.logHeader
    else if a = 0xFFFFFFFE then (if 7 < n then g.ahDone 3 [] else g.ahDone 0 ((List.range 4).flatMap fun i => g.fev.ffqBytes (4 * n + i)))
    else if n < 1 ∨ 4 < n ∨ 262144 < a + n then g.ahDone 3 []
    else g.ahDone 0 ((List.range n).flatMap fun i => g.fev.slotBytes (a + i)))

/-- AHNAH_BOOT_RECORD_READ (R355, R412): 256 B of the record chosen. -/
def execAhnahBootRecordRead (tag : Nat) (args : List Nat) (data : List Byte) (s : State) : Host.Outcome State Fault Refusal :=
  .next (s.ahTask 0x04 tag args data false false false fun g =>
    let o := argOf args 3
    if 3 < argOf args 0 ∨ o % 256 ≠ 0 ∨ 4096 ≤ o then g.ahDone 3 []
    else
      match pickRecord g.fev.bootRecords (argOf args 0) (argOf args 1 + 2 ^ 32 * argOf args 2) with
      | none => g.ahDone Status.notRetained.ahResult []
      | some r => g.ahDone 0 (slice (fit 4096 r.2) o 256))

/-- A share as the task's arguments spell it. -/
def ahShare (args : List Nat) : Share :=
  let a := argOf args 1
  let b := argOf args 3
  { weight := natBits a 10 0, lcmask := natBits a 23 16, lcdef := natBits a 26 24, iopslim := argOf args 2, bwlim := natBits b 19 0
    rclbkt := natBits b 23 23 == 1, burst := natBits b 31 24 }

/-- AHNAH_SET_INSTANCE_SHARE (R157, R412): staged, with an FSN of its own. -/
def execAhnahSetInstanceShare (tag : Nat) (args : List Nat) (data : List Byte) (s : State) : Host.Outcome State Fault Refusal :=
  .next (s.ahTask 0x05 tag args data false true false fun g =>
    let g : State := { g with qce := { g.qce with fsn := nextFsn g.qce.fsn } }
    if 2047 < argOf args 0 ∨ !(ahShare args).valid then g.ahDone 3 []
    else ({ g with tas := g.tas.stage (argOf args 0) (ahShare args) }).ahDone 0 [])

/-- A task that runs as a Set Features of a namespace: it takes a context of the shared pool and an FSN (R410, R412). Without a free context it
waits, and the GO comes when there is one. -/
def State.ahFeature (s : State) (code : Nat) (q : Sqe) (go : State → Nat → Ctx → State) : State :=
  match s.takeSide 0xFFFF q with
  | none => s.ahDone 4 []
  | some (g, c) =>
    match g.qce.ctx? c with
    | none => g
    | some x =>
      let y : Ctx := { x with sqid := 1 }
      (go ((g.setCtx c y).ahWaits code) c y).settle

/-- The entry of a Set Features that a task stands for. -/
def featureSqe (fid nsid cdw11 cdw12 cdw13 : Nat) : Sqe := { opc := 0x09, cid := 0, nsid := nsid, cdw10 := fid, cdw11 := cdw11, cdw12 := cdw12, cdw13 := cdw13 }

/-- AHNAH_SET_NAMESPACE_SIZE: as Set Features 0xD5 (R187). -/
def execAhnahSetNamespaceSize (tag : Nat) (args : List Nat) (data : List Byte) (s : State) : Host.Outcome State Fault Refusal :=
  .next (if s.cameleerServes && s.mgc.ahWr && (!s.fetches || s.qce.shFree == 0) then s
    else s.ahTask 0x06 tag args data false true false fun g =>
      g.ahFeature 0x06 (featureSqe 0xD5 (argOf args 0) 0 (argOf args 1) (argOf args 2)) State.setSize)

/-- AHNAH_SET_MEDIA_MODE: as Set Features 0xD6 (R255). -/
def execAhnahSetMediaMode (tag : Nat) (args : List Nat) (data : List Byte) (s : State) : Host.Outcome State Fault Refusal :=
  .next (if s.cameleerServes && s.mgc.ahWr && (!s.fetches || s.qce.shFree == 0) then s
    else s.ahTask 0x07 tag args data false true false fun g =>
      g.ahFeature 0x07 (featureSqe 0xD6 (argOf args 0) (argOf args 1 % 2) 0 0) State.setMode)

/-- AHNAH_PORT_CONFIG_WRITE (R413): the block is kept for the next start. -/
def execAhnahPortConfigWrite (tag : Nat) (args : List Nat) (data : List Byte) (s : State) : Host.Outcome State Fault Refusal :=
  .next (s.ahTask 0x08 tag args data false true false fun g =>
    let b := fit 256 data
    if 3 < argOf args 0 ∨ !portBlockOk b then g.ahDone 3 []
    else ({ g with mgc := { g.mgc with cal := { g.mgc.cal with ports := Tab.set g.mgc.cal.ports (argOf args 0) b } } }).ahDone 0 [])

/-- AHNAH_IMAGE_WRITE (R97, R410): a piece of 256 B of the sideband's download. -/
def execAhnahImageWrite (tag : Nat) (args : List Nat) (data : List Byte) (s : State) : Host.Outcome State Fault Refusal :=
  .next (s.ahTask 0x09 tag args data false true true fun g =>
    let o := argOf args 0
    if o % 256 ≠ 0 ∨ 41943040 < o + 256 then g.ahDone 3 []
    else
      match g.mgc.takePiece g.clock.now .sideband o (fit 256 data) with
      | .ok m => ({ g with mgc := m }).ahDone 0 []
      | .error st => g.ahDone st.ahResult [])

/-- What a commit in the recovery state leaves: on success a device reset is due, and the safe-state entries that led here no longer count
(R412, R446). -/
def State.recoveryCommit (s : State) (ok : Bool) : State :=
  if ok then { s with mgc := { s.mgc with resetDue := true }, fev := { s.fev with safeEntries := [] } } else s

/-- AHNAH_IMAGE_COMMIT (R402, R403, R412). -/
def execAhnahImageCommit (tag : Nat) (args : List Nat) (data : List Byte) (s : State) : Host.Outcome State Fault Refusal :=
  .next (s.ahTask 0x0A tag args data false true true fun g =>
    let action := argOf args 1
    if 3 < action ∨ g.inRecovery ∧ action ≠ 1 then g.ahDone 3 []
    else
      let r := ({ g with qce := { g.qce with fsn := nextFsn g.qce.fsn } } : State).commit .ahnah .sideband (argOf args 0) action
      if r.2.2 then r.1.ahWaits 0x0A
      else
        let st : Status := if r.2.1 = .ok then .success else stat r.2.1.status.1 r.2.1.status.2
        (if g.inRecovery then r.1.recoveryCommit st.isOk else r.1).ahDone st.ahResult [])

/-- AHNAH_CLEAN_SHUTDOWN (R482): the task ends when the device is quiesced. -/
def execAhnahCleanShutdown (tag : Nat) (args : List Nat) (data : List Byte) (s : State) : Host.Outcome State Fault Refusal :=
  .next (s.ahTask 0x0B tag args data false true false fun g =>
    if 1 < argOf args 0 then g.ahDone 3 []
    else
      let h := (g.ahWaits 0x0B).startShutdown (argOf args 0 == 1)
      if h.mgc.quiesced then h.ahDone 0 [] else h)

end Sys2Proof.Machine
end

