-- ==== Sys2Proof/Machine/RegisterWrite.lean ====
section
/-! DEFINITION. REGISTER_WRITE: a write to any address of CSR space (R12, R485 to R491), with the effects that a register's fields trigger. -/

namespace Sys2Proof.Machine

/-- What a write triggers beside the fields it sets: the same effects as the commands of those registers. `old` is the state before the write. -/
def State.csrEffect (old : State) (r : Requester) (reg : Reg) (v : W32) (g : State) : State :=
  match reg with
  | .hfuLgcfg => g.lanesChanged (old.reg .hfuLgcfg)
  | .tasShcmd => g.shareCmd v
  | .ptxOasiscfg => g.oasisChanged old.fl.ptx.protMax
  | .ptxCkptstat => if v.bits 30 30 = 1 then g.forceCkpt else g
  | .mssVbclr1 => g.clearGo v
  | .mssRsctl => g.scrubGo v
  | .mssTrnctl n => g.trainCtl n v
  | .secBrctl => g.brFin v
  | .secSealctl => g.sealGo v
  | .secSeallock => g.sealLock (old.sec.regs.bit .secSeallock 0) v
  | .mgcRstctl => g.rstCtl v
  | .ptmHuestat => g.testGo v
  | .fevFfqstat => g.ffqClear v
  | .fevDevwdg => g.kick v
  | .fevEvwrhdr => g.firmwareRecord r v
  | _ => g

/-- The block whose device page holds an address (R483). -/
def devicePage (addr : Nat) : Option Block :=
  if addr < 0x40000000 then none
  else ([.hfu, .qce, .tas, .ptx, .mbe, .dip, .mss, .sec, .mgc, .ptm, .fev] : List Block)[((addr - 0x40000000) / 0x10000)]?

/-- A requester may not write the page of an address; unit pages belong to MBE and MSS (R483, R487). -/
def pageRefused (r : Requester) (addr : Nat) : Bool :=
  match devicePage addr with
  | some b => !r.mayWrite b
  | none => false

/-- A write of 4 or 8 bytes into the Seal buffer window; none while the engine is busy (R368). -/
def Sec.writeBuffer (c : Sec) (o n v : Nat) : Sec :=
  if c.run.isSome then c else { c with buffer := c.buffer.take o ++ leBytes n v ++ c.buffer.drop (o + n) }

/-! ## The Ahnah registers (R12, R411, R413) -/

/-- The task of R412 that has a code; an unknown code ends with 0x0001. -/
def State.ahOutcome (s : State) (code tag : Nat) (args : List Nat) (data : List Byte) : Host.Outcome State Fault Refusal :=
  match code with
  | 0x01 => execAhnahHealthSummary tag args data s
  | 0x02 => execAhnahRegisterRead tag args data s
  | 0x03 => execAhnahEventRecordRead tag args data s
  | 0x04 => execAhnahBootRecordRead tag args data s
  | 0x05 => execAhnahSetInstanceShare tag args data s
  | 0x06 => execAhnahSetNamespaceSize tag args data s
  | 0x07 => execAhnahSetMediaMode tag args data s
  | 0x08 => execAhnahPortConfigWrite tag args data s
  | 0x09 => execAhnahImageWrite tag args data s
  | 0x0A => execAhnahImageCommit tag args data s
  | 0x0B => execAhnahCleanShutdown tag args data s
  | _ => .next (if s.ahTakes then ({ s with mgc := s.mgc.ahStart code tag args data }).ahDone 1 [] else s)

/-- The state after the task of a code. -/
def State.ahGo (s : State) (code tag : Nat) (args : List Nat) (data : List Byte) : State :=
  match s.ahOutcome code tag args data with
  | .next t => t
  | _ => s

/-- A write of 32 bits to an Ahnah register by its index: CTL sets TASK and TAG, clears DONE and starts the task; arguments and data are taken while no task
runs. -/
def State.ahWrite (s : State) (i v : Nat) : State :=
  let a := s.mgc.ah
  if !(s.sideband && s.mgc.regs.bit .mgcSbicfg 15 && (!s.dumped || s.fev.safe)) then s
  else if i = 0 then
    let b : Ahnah := { a with task := natBits v 23 16, tag := natBits v 7 0, done := a.done && natBits v 29 29 == 0 }
    let g : State := { s with mgc := { s.mgc with ah := b } }
    if natBits v 31 31 = 1 then g.ahGo b.task b.tag b.args b.data else g
  else if a.busy.isSome then s
  else if 2 ≤ i ∧ i < 6 then { s with mgc := { s.mgc with ah := { a with args := a.args.set (i - 2) (v % 2 ^ 32) } } }
  else if 0x40 ≤ i ∧ i < 0x80 then
    { s with mgc := { s.mgc with ah := { a with data := a.data.take (4 * (i - 64)) ++ leBytes 4 v ++ a.data.drop (4 * (i - 64) + 4) } } }
  else s

/-- REGISTER_WRITE (R485 to R488): `width` in bits. For the sideband, `addr` is a register index at AHADDR (R411). -/
def execRegisterWrite (r : Requester) (addr width v : Nat) (s : State) : Host.Outcome State Fault Refusal :=
  .next (
    if r = .sideband then (if width = 32 then s.ahWrite addr v else s)
    else if !s.serves r || decide (addr < 0x40000000 ∨ 0x50000000 ≤ addr) || !([8, 16, 32, 64].contains width) then s
    else if addr % (width / 8) ≠ 0 then s.csrErr 2 r addr
    else if width < 32 then s.csrErr 1 r addr
    else if pageRefused r addr then s.csrErr 3 r addr
    else if 0x40071000 ≤ addr ∧ addr < 0x40072000 then { s with sec := s.sec.writeBuffer (addr - 0x40071000) (width / 8) v }
    else
      match regAt? addr with
      | some reg => s.csrWrite r reg (BitVec.ofNat 32 v) fun g => s.csrEffect r reg (BitVec.ofNat 32 v) g
      | none => s)

end Sys2Proof.Machine
end

