-- ==== Sys2Proof/Machine/Dispatch.lean ====
section
/-! DEFINITION. One arm per command: a direct call of its meaning. -/

namespace Sys2Proof.Machine

def exec (i : Instr) (s : State) : Host.Outcome State Fault Refusal :=
  match i with
  | .powerOnReset env => Sys2Proof.Machine.execPowerOnReset env s
  | .deviceReset env => Sys2Proof.Machine.execDeviceReset env s
  | .porstAssert => Sys2Proof.Machine.execPorstAssert s
  | .supplyUndervoltage rail => Sys2Proof.Machine.execSupplyUndervoltage rail s
  | .pfailAssert => Sys2Proof.Machine.execPfailAssert s
  | .dumpComplete => Sys2Proof.Machine.execDumpComplete s
  | .powerReturnAfterDump env => Sys2Proof.Machine.execPowerReturnAfterDump env s
  | .mgcRstctlShut r => Sys2Proof.Machine.execMgcRstctlShut r s
  | .mgcRstctlDevrst r => Sys2Proof.Machine.execMgcRstctlDevrst r s
  | .cleanShutdownComplete => Sys2Proof.Machine.execCleanShutdownComplete s
  | .refclkMainLoss => Sys2Proof.Machine.execRefclkMainLoss s
  | .corePllLockLoss clk => Sys2Proof.Machine.execCorePllLockLoss clk s
  | .nandPllLockLoss k => Sys2Proof.Machine.execNandPllLockLoss k s
  | .laneGroupClockLoss g => Sys2Proof.Machine.execLaneGroupClockLoss g s
  | .aonXtalLoss => Sys2Proof.Machine.execAonXtalLoss s
  | .channelWatchdogExpiry ch die => Sys2Proof.Machine.execChannelWatchdogExpiry ch die s
  | .schedulerHeartbeatTimeout k => Sys2Proof.Machine.execSchedulerHeartbeatTimeout k s
  | .cameleerWatchdogExpiry measured => Sys2Proof.Machine.execCameleerWatchdogExpiry measured s
  | .acHeartbeatMiss n => Sys2Proof.Machine.execAcHeartbeatMiss n s
  | .fevDevwdgWrite r v => Sys2Proof.Machine.execFevDevwdgWrite r v s
  | .unitRecoveryComplete ch => Sys2Proof.Machine.execUnitRecoveryComplete ch s
  | .clusterRecoveryComplete k => Sys2Proof.Machine.execClusterRecoveryComplete k s
  | .deviceRecoveryComplete => Sys2Proof.Machine.execDeviceRecoveryComplete s
  | .pciePerstDeassert g => Sys2Proof.Machine.execPciePerstDeassert g s
  | .pciePerstAssert g => Sys2Proof.Machine.execPciePerstAssert g s
  | .linkTrained port speed width best => Sys2Proof.Machine.execLinkTrained port speed width best s
  | .pcieHotReset port => Sys2Proof.Machine.execPcieHotReset port s
  | .pcieLinkDown port => Sys2Proof.Machine.execPcieLinkDown port s
  | .ethLinkDown port => Sys2Proof.Machine.execEthLinkDown port s
  | .hfuLgcfgWrite r v => Sys2Proof.Machine.execHfuLgcfgWrite r v s
  | .hfuLeasecfgWrite r v => Sys2Proof.Machine.execHfuLeasecfgWrite r v s
  | .functionLevelReset inst => Sys2Proof.Machine.execFunctionLevelReset inst s
  | .instanceResetComplete inst => Sys2Proof.Machine.execInstanceResetComplete inst s
  | .configRequest q => Sys2Proof.Machine.execConfigRequest q s
  | .numvfsWrite port n enable => Sys2Proof.Machine.execNumvfsWrite port n enable s
  | .barUnsupportedAccess inst offset => Sys2Proof.Machine.execBarUnsupportedAccess inst offset s
  | .sqTailDoorbell inst sqid v => Sys2Proof.Machine.execSqTailDoorbell inst sqid v s
  | .cqHeadDoorbell inst cqid v => Sys2Proof.Machine.execCqHeadDoorbell inst cqid v s
  | .ccEnSet inst cc aqa asq acq => Sys2Proof.Machine.execCcEnSet inst cc aqa asq acq s
  | .ccEnClear inst cc => Sys2Proof.Machine.execCcEnClear inst cc s
  | .ccShutdownNotify inst shn => Sys2Proof.Machine.execCcShutdownNotify inst shn s
  | .ccShutdownFlushDone inst => Sys2Proof.Machine.execCcShutdownFlushDone inst s
  | .ethFrameReceive port r => Sys2Proof.Machine.execEthFrameReceive port r s
  | .pfcPauseReceive port prio quanta => Sys2Proof.Machine.execPfcPauseReceive port prio quanta s
  | .ecnCeReceive conn => Sys2Proof.Machine.execEcnCeReceive conn s
  | .cnpReceive conn => Sys2Proof.Machine.execCnpReceive conn s
  | .cnpRateRecovery conn => Sys2Proof.Machine.execCnpRateRecovery conn s
  | .roceAckTimeout conn => Sys2Proof.Machine.execRoceAckTimeout conn s
  | .tcpRetransmitTimeout conn => Sys2Proof.Machine.execTcpRetransmitTimeout conn s
  | .transportConnectionFailure conn => Sys2Proof.Machine.execTransportConnectionFailure conn s
  | .fabricsConnect port q => Sys2Proof.Machine.execFabricsConnect port q s
  | .fabricsDisconnect inst => Sys2Proof.Machine.execFabricsDisconnect inst s
  | .fabricsPropertyGet inst offset => Sys2Proof.Machine.execFabricsPropertyGet inst offset s
  | .fabricsPropertySet inst offset v => Sys2Proof.Machine.execFabricsPropertySet inst offset v s
  | .keepAlive a => Sys2Proof.Machine.execKeepAlive a s
  | .keepAliveTimeout inst => Sys2Proof.Machine.execKeepAliveTimeout inst s
  | .pcieReceiverError port => Sys2Proof.Machine.execPcieReceiverError port s
  | .malformedTlp port => Sys2Proof.Machine.execMalformedTlp port s
  | .completionTimeout t => Sys2Proof.Machine.execCompletionTimeout t s
  | .hostReadFailure t why => Sys2Proof.Machine.execHostReadFailure t why s
  | .sqFetchIssue => Sys2Proof.Machine.execSqFetchIssue s
  | .read c => Sys2Proof.Machine.execRead c s
  | .write c => Sys2Proof.Machine.execWrite c s
  | .compare c => Sys2Proof.Machine.execCompare c s
  | .verify c => Sys2Proof.Machine.execVerify c s
  | .writeZeroes c => Sys2Proof.Machine.execWriteZeroes c s
  | .writeUncorrectable c => Sys2Proof.Machine.execWriteUncorrectable c s
  | .datasetManagement c ranges => Sys2Proof.Machine.execDatasetManagement c ranges s
  | .copy c srcs => Sys2Proof.Machine.execCopy c srcs s
  | .flush c => Sys2Proof.Machine.execFlush c s
  | .flushComplete ctx => Sys2Proof.Machine.execFlushComplete ctx s
  | .zoneAppend c => Sys2Proof.Machine.execZoneAppend c s
  | .zoneManagementSend c => Sys2Proof.Machine.execZoneManagementSend c s
  | .zoneManagementReceive c => Sys2Proof.Machine.execZoneManagementReceive c s
  | .reservationRegister c crkey nrkey => Sys2Proof.Machine.execReservationRegister c crkey nrkey s
  | .reservationAcquire c crkey prkey => Sys2Proof.Machine.execReservationAcquire c crkey prkey s
  | .reservationRelease c crkey => Sys2Proof.Machine.execReservationRelease c crkey s
  | .reservationReport c => Sys2Proof.Machine.execReservationReport c s
  | .purgeRange c => Sys2Proof.Machine.execPurgeRange c s
  | .parityCompute c d => Sys2Proof.Machine.execParityCompute c d s
  | .ioManagementSend c handles => Sys2Proof.Machine.execIoManagementSend c handles s
  | .ioManagementReceive c => Sys2Proof.Machine.execIoManagementReceive c s
  | .createIoSq a => Sys2Proof.Machine.execCreateIoSq a s
  | .createIoCq a => Sys2Proof.Machine.execCreateIoCq a s
  | .deleteIoSq a => Sys2Proof.Machine.execDeleteIoSq a s
  | .deleteIoCq a => Sys2Proof.Machine.execDeleteIoCq a s
  | .getLogPage a => Sys2Proof.Machine.execGetLogPage a s
  | .identify a => Sys2Proof.Machine.execIdentify a s
  | .abort a => Sys2Proof.Machine.execAbort a s
  | .setFeatures a d => Sys2Proof.Machine.execSetFeatures a d s
  | .namespaceShrinkComplete ctx => Sys2Proof.Machine.execNamespaceShrinkComplete ctx s
  | .getFeatures a => Sys2Proof.Machine.execGetFeatures a s
  | .asyncEventRequest a => Sys2Proof.Machine.execAsyncEventRequest a s
  | .namespaceManagement a req => Sys2Proof.Machine.execNamespaceManagement a req s
  | .namespaceAttachment a ctrls => Sys2Proof.Machine.execNamespaceAttachment a ctrls s
  | .firmwareImageDownload a data => Sys2Proof.Machine.execFirmwareImageDownload a data s
  | .firmwareCommit a => Sys2Proof.Machine.execFirmwareCommit a s
  | .deviceSelfTest a => Sys2Proof.Machine.execDeviceSelfTest a s
  | .deviceSelfTestComplete failed => Sys2Proof.Machine.execDeviceSelfTestComplete failed s
  | .directiveSend a => Sys2Proof.Machine.execDirectiveSend a s
  | .directiveReceive a => Sys2Proof.Machine.execDirectiveReceive a s
  | .virtualizationManagement a => Sys2Proof.Machine.execVirtualizationManagement a s
  | .nvmeMiSend a m => Sys2Proof.Machine.execNvmeMiSend a m s
  | .nvmeMiReceive a m => Sys2Proof.Machine.execNvmeMiReceive a m s
  | .formatNvm a => Sys2Proof.Machine.execFormatNvm a s
  | .securitySend a p => Sys2Proof.Machine.execSecuritySend a p s
  | .securityReceive a p => Sys2Proof.Machine.execSecurityReceive a p s
  | .sanitize a => Sys2Proof.Machine.execSanitize a s
  | .sanitizeComplete ok => Sys2Proof.Machine.execSanitizeComplete ok s
  | .getLbaStatus a => Sys2Proof.Machine.execGetLbaStatus a s
  | .ownershipLease a => Sys2Proof.Machine.execOwnershipLease a s
  | .leaseHoldoffEnd => Sys2Proof.Machine.execLeaseHoldoffEnd s
  | .bootRecordFetch a => Sys2Proof.Machine.execBootRecordFetch a s
  | .dieRetire a => Sys2Proof.Machine.execDieRetire a s
  | .rangeLockEntryGrant => Sys2Proof.Machine.execRangeLockEntryGrant s
  | .admitCommand => Sys2Proof.Machine.execAdmitCommand s
  | .translateComplete ctx => Sys2Proof.Machine.execTranslateComplete ctx s
  | .oasisReadComplete ctx => Sys2Proof.Machine.execOasisReadComplete ctx s
  | .writeDataArrival ctx blocks => Sys2Proof.Machine.execWriteDataArrival ctx blocks s
  | .oasisSpaceWaitRelease ctx => Sys2Proof.Machine.execOasisSpaceWaitRelease ctx s
  | .xtsEncryptDone ctx o => Sys2Proof.Machine.execXtsEncryptDone ctx o s
  | .xtsDecryptDone ctx o => Sys2Proof.Machine.execXtsDecryptDone ctx o s
  | .hostDataTransferDone ctx => Sys2Proof.Machine.execHostDataTransferDone ctx s
  | .fuaWriteComplete ctx => Sys2Proof.Machine.execFuaWriteComplete ctx s
  | .cqePost inst cqid => Sys2Proof.Machine.execCqePost inst cqid s
  | .interruptCoalesceTimeout inst vector => Sys2Proof.Machine.execInterruptCoalesceTimeout inst vector s
  | .stripeProgramIssue barchan pad => Sys2Proof.Machine.execStripeProgramIssue barchan pad s
  | .stripeHoldExpiry barchan => Sys2Proof.Machine.execStripeHoldExpiry barchan s
  | .dieWorkSelect die => Sys2Proof.Machine.execDieWorkSelect die s
  | .dieSuspended die => Sys2Proof.Machine.execDieSuspended die s
  | .dieReadDone die job => Sys2Proof.Machine.execDieReadDone die job s
  | .frameTransferDone ch => Sys2Proof.Machine.execFrameTransferDone ch s
  | .wordlineProgramStatus die pass => Sys2Proof.Machine.execWordlineProgramStatus die pass s
  | .jtimeExpiry => Sys2Proof.Machine.execJtimeExpiry s
  | .eraseStatus die pass => Sys2Proof.Machine.execEraseStatus die pass s
  | .dieResetComplete die ok => Sys2Proof.Machine.execDieResetComplete die ok s
  | .suspendHoldExpiry die => Sys2Proof.Machine.execSuspendHoldExpiry die s
  | .nestwaitExpiry die => Sys2Proof.Machine.execNestwaitExpiry die s
  | .intmaxExpiry die => Sys2Proof.Machine.execIntmaxExpiry die s
  | .typicalTimePassed die => Sys2Proof.Machine.execTypicalTimePassed die s
  | .dieStatePublish k => Sys2Proof.Machine.execDieStatePublish k s
  | .zqShortCalibration k => Sys2Proof.Machine.execZqShortCalibration k s
  | .eraseIssue band => Sys2Proof.Machine.execEraseIssue band s
  | .slcPoolRebalance => Sys2Proof.Machine.execSlcPoolRebalance s
  | .wadiBandExchange n => Sys2Proof.Machine.execWadiBandExchange n s
  | .reclaimVictimSelect => Sys2Proof.Machine.execReclaimVictimSelect s
  | .constrainedTimeout => Sys2Proof.Machine.execConstrainedTimeout s
  | .wpSpaceRecoveryTimeout => Sys2Proof.Machine.execWpSpaceRecoveryTimeout s
  | .ptxCkptstatForce r => Sys2Proof.Machine.execPtxCkptstatForce r s
  | .checkpointComplete => Sys2Proof.Machine.execCheckpointComplete s
  | .ptxOasiscfgWrite r v => Sys2Proof.Machine.execPtxOasiscfgWrite r v s
  | .hardDecodeDone job d => Sys2Proof.Machine.execHardDecodeDone job d s
  | .softDecodeDone job d => Sys2Proof.Machine.execSoftDecodeDone job d s
  | .reconstructionDone job ok => Sys2Proof.Machine.execReconstructionDone job ok s
  | .patrolRead die block frame => Sys2Proof.Machine.execPatrolRead die block frame s
  | .dieSuspectClear die => Sys2Proof.Machine.execDieSuspectClear die s
  | .rebuildWorkIssue die => Sys2Proof.Machine.execRebuildWorkIssue die s
  | .parityJobStart => Sys2Proof.Machine.execParityJobStart s
  | .parityJobTimeout ctx => Sys2Proof.Machine.execParityJobTimeout ctx s
  | .parityJobDone ctx inputs outputs => Sys2Proof.Machine.execParityJobDone ctx inputs outputs s
  | .tasEpochBoundary => Sys2Proof.Machine.execTasEpochBoundary s
  | .tasShcmdLoad r => Sys2Proof.Machine.execTasShcmdLoad r s
  | .tasShcmdStage r => Sys2Proof.Machine.execTasShcmdStage r s
  | .dramRead req addr len waymark errs => Sys2Proof.Machine.execDramRead req addr len waymark errs s
  | .dramWrite req addr bytes waymark errs => Sys2Proof.Machine.execDramWrite req addr bytes waymark errs s
  | .zeroFillDone granule => Sys2Proof.Machine.execZeroFillDone granule s
  | .mssVbclr1Go r v => Sys2Proof.Machine.execMssVbclr1Go r v s
  | .validBitClearDone => Sys2Proof.Machine.execValidBitClearDone s
  | .mssRsctlGo r v => Sys2Proof.Machine.execMssRsctlGo r v s
  | .rangeScrubDone covered stopped errs => Sys2Proof.Machine.execRangeScrubDone covered stopped errs s
  | .patrolScrubStep errs => Sys2Proof.Machine.execPatrolScrubStep errs s
  | .trainingWritePattern r ch v => Sys2Proof.Machine.execTrainingWritePattern r ch v s
  | .trainingReadCompare r ch v => Sys2Proof.Machine.execTrainingReadCompare r ch v s
  | .trainingWriteReadCompare r ch v => Sys2Proof.Machine.execTrainingWriteReadCompare r ch v s
  | .trainingHelperDone ch dq cb => Sys2Proof.Machine.execTrainingHelperDone ch dq cb s
  | .dqsOscillatorRead rank drift => Sys2Proof.Machine.execDqsOscillatorRead rank drift s
  | .retrainingPause rank waits atEnd => Sys2Proof.Machine.execRetrainingPause rank waits atEnd s
  | .refreshDue rank bank => Sys2Proof.Machine.execRefreshDue rank bank s
  | .mr4Read rank deg => Sys2Proof.Machine.execMr4Read rank deg s
  | .powerDownEntry rank => Sys2Proof.Machine.execPowerDownEntry rank s
  | .pageIdleClose bank => Sys2Proof.Machine.execPageIdleClose bank s
  | .rowTrackerWindowEnd rank => Sys2Proof.Machine.execRowTrackerWindowEnd rank s
  | .sramScrub w => Sys2Proof.Machine.execSramScrub w s
  | .secBrctlFin r => Sys2Proof.Machine.execSecBrctlFin r s
  | .bootRecordAppended => Sys2Proof.Machine.execBootRecordAppended s
  | .getVersion ep => Sys2Proof.Machine.execGetVersion ep s
  | .getCapabilities ep version maxSize => Sys2Proof.Machine.execGetCapabilities ep version maxSize s
  | .negotiateAlgorithms ep p384 sha384 => Sys2Proof.Machine.execNegotiateAlgorithms ep p384 sha384 s
  | .getDigests ep => Sys2Proof.Machine.execGetDigests ep s
  | .getCertificate ep slot offset len => Sys2Proof.Machine.execGetCertificate ep slot offset len s
  | .challenge ep slot => Sys2Proof.Machine.execChallenge ep slot s
  | .getMeasurements ep index signed => Sys2Proof.Machine.execGetMeasurements ep index signed s
  | .chunkGet ep handle seq => Sys2Proof.Machine.execChunkGet ep handle seq s
  | .chunkSend ep handle seq last part spelled => Sys2Proof.Machine.execChunkSend ep handle seq last part spelled s
  | .sealGcm r v => Sys2Proof.Machine.execSealGcm r v s
  | .sealKeygen r v => Sys2Proof.Machine.execSealKeygen r v s
  | .sealUnwrap r v => Sys2Proof.Machine.execSealUnwrap r v s
  | .sealInject r v => Sys2Proof.Machine.execSealInject r v s
  | .sealClear r v => Sys2Proof.Machine.execSealClear r v s
  | .sealDone => Sys2Proof.Machine.execSealDone s
  | .secSeallockKclr r => Sys2Proof.Machine.execSecSeallockKclr r s
  | .secSeallockKlock r => Sys2Proof.Machine.execSecSeallockKlock r s
  | .keySlotChangeApply slot => Sys2Proof.Machine.execKeySlotChangeApply slot s
  | .supplyGlitchAlarm => Sys2Proof.Machine.execSupplyGlitchAlarm s
  | .clockAlarm => Sys2Proof.Machine.execClockAlarm s
  | .roundCheckAlarm => Sys2Proof.Machine.execRoundCheckAlarm s
  | .debugUnlock => Sys2Proof.Machine.execDebugUnlock s
  | .storeServiceRead en fr offset len => Sys2Proof.Machine.execStoreServiceRead en fr offset len s
  | .storeServiceProgram en fr offset data => Sys2Proof.Machine.execStoreServiceProgram en fr offset data s
  | .storeServiceErase en fr offset len => Sys2Proof.Machine.execStoreServiceErase en fr offset len s
  | .storeServicePoll en fr => Sys2Proof.Machine.execStoreServicePoll en fr s
  | .fscReadRequest port offset len => Sys2Proof.Machine.execFscReadRequest port offset len s
  | .fscProgramDone port ok => Sys2Proof.Machine.execFscProgramDone port ok s
  | .fscEraseDone port ok => Sys2Proof.Machine.execFscEraseDone port ok s
  | .fscSuspendHoldExpiry => Sys2Proof.Machine.execFscSuspendHoldExpiry s
  | .activationPrepareDone digestOk => Sys2Proof.Machine.execActivationPrepareDone digestOk s
  | .ahnahHealthSummary tag args data => Sys2Proof.Machine.execAhnahHealthSummary tag args data s
  | .ahnahRegisterRead tag args data => Sys2Proof.Machine.execAhnahRegisterRead tag args data s
  | .ahnahEventRecordRead tag args data => Sys2Proof.Machine.execAhnahEventRecordRead tag args data s
  | .ahnahBootRecordRead tag args data => Sys2Proof.Machine.execAhnahBootRecordRead tag args data s
  | .ahnahSetInstanceShare tag args data => Sys2Proof.Machine.execAhnahSetInstanceShare tag args data s
  | .ahnahSetNamespaceSize tag args data => Sys2Proof.Machine.execAhnahSetNamespaceSize tag args data s
  | .ahnahSetMediaMode tag args data => Sys2Proof.Machine.execAhnahSetMediaMode tag args data s
  | .ahnahPortConfigWrite tag args data => Sys2Proof.Machine.execAhnahPortConfigWrite tag args data s
  | .ahnahImageWrite tag args data => Sys2Proof.Machine.execAhnahImageWrite tag args data s
  | .ahnahImageCommit tag args data => Sys2Proof.Machine.execAhnahImageCommit tag args data s
  | .ahnahCleanShutdown tag args data => Sys2Proof.Machine.execAhnahCleanShutdown tag args data s
  | .mctpControlMessage m => Sys2Proof.Machine.execMctpControlMessage m s
  | .readNvmeMiDataStructure dtyp => Sys2Proof.Machine.execReadNvmeMiDataStructure dtyp s
  | .subsystemHealthStatusPoll clear => Sys2Proof.Machine.execSubsystemHealthStatusPoll clear s
  | .controllerHealthStatusPoll start count clear => Sys2Proof.Machine.execControllerHealthStatusPoll start count clear s
  | .configurationSet id value => Sys2Proof.Machine.execConfigurationSet id value s
  | .configurationGet id => Sys2Proof.Machine.execConfigurationGet id s
  | .vpdRead offset len => Sys2Proof.Machine.execVpdRead offset len s
  | .vpdWrite offset data => Sys2Proof.Machine.execVpdWrite offset data s
  | .basicManagementRead offset len => Sys2Proof.Machine.execBasicManagementRead offset len s
  | .sidebandDownloadTimeout => Sys2Proof.Machine.execSidebandDownloadTimeout s
  | .hueSample mV => Sys2Proof.Machine.execHueSample mV s
  | .hueRetestTimer => Sys2Proof.Machine.execHueRetestTimer s
  | .capTestStart => Sys2Proof.Machine.execCapTestStart s
  | .ptmHuestatTestgo r => Sys2Proof.Machine.execPtmHuestatTestgo r s
  | .capTestComplete v1 vs v2 => Sys2Proof.Machine.execCapTestComplete v1 vs v2 s
  | .ptmHuecfgWrite r v => Sys2Proof.Machine.execPtmHuecfgWrite r v s
  | .sensorSample readings => Sys2Proof.Machine.execSensorSample readings s
  | .nandTemperatureRead k readings => Sys2Proof.Machine.execNandTemperatureRead k readings s
  | .throttleLevelUpdate => Sys2Proof.Machine.execThrottleLevelUpdate s
  | .thermalShutdown => Sys2Proof.Machine.execThermalShutdown s
  | .thermtripAssert => Sys2Proof.Machine.execThermtripAssert s
  | .faultReport f => Sys2Proof.Machine.execFaultReport f s
  | .fevEvwrhdrGo r v => Sys2Proof.Machine.execFevEvwrhdrGo r v s
  | .fevFfqstatClr r => Sys2Proof.Machine.execFevFfqstatClr r s
  | .safeholdExpiry env => Sys2Proof.Machine.execSafeholdExpiry env s
  | .registerWrite r addr width v => Sys2Proof.Machine.execRegisterWrite r addr width v s
  | .aonXtalRatioCheckPass => Sys2Proof.Machine.execAonXtalRatioCheckPass s
  | .acRecoveryComplete n => Sys2Proof.Machine.execAcRecoveryComplete n s
  | .hueTestPeriodExpiry => Sys2Proof.Machine.execHueTestPeriodExpiry s
  | .serdesRailRecovery => Sys2Proof.Machine.execSerdesRailRecovery s
  | .msixVectorUnmask inst w => Sys2Proof.Machine.execMsixVectorUnmask inst w s

end Sys2Proof.Machine
end

