-- ==== Sys2Proof/WellFormed.lean ====
section
/-! DEFINITION. Which commands the outside can send: operands within the widths and counts the spec gives them. A step answers on
every command; these checks say what a sender that follows the spec keeps to. -/

namespace Sys2Proof

open Machine

/-- A submission queue entry whose fields have their widths. -/
def sqeOk (q : Sqe) : Bool :=
  decide (q.opc < 256 ∧ q.cid < 65536 ∧ q.nsid < 2 ^ 32 ∧ q.psdt < 4 ∧ q.dptr0 < 2 ^ 64 ∧ q.dptr1 < 2 ^ 64 ∧ q.cdw2 < 2 ^ 32
    ∧ q.cdw3 < 2 ^ 32 ∧ q.cdw10 < 2 ^ 32 ∧ q.cdw11 < 2 ^ 32 ∧ q.cdw12 < 2 ^ 32 ∧ q.cdw13 < 2 ^ 32 ∧ q.cdw14 < 2 ^ 32
    ∧ q.cdw15 < 2 ^ 32 ∧ q.fuse < 64 ∧ q.mptr < 2 ^ 64)

/-- An instance number (R40). -/
def instOk (i : Nat) : Bool := decide (i < 2048)

/-- A command of an I/O queue: queue identifiers 1 to 256 (R73). -/
def ioOk (c : IoCmd) : Bool := instOk c.inst && decide (1 ≤ c.sqid ∧ c.sqid ≤ 256) && sqeOk c.q

/-- An admin command; 0xFFFF stands for no instance over the sideband (R410). -/
def adminOk (a : AdminCmd) : Bool := (instOk a.inst || (a.side && a.inst == 0xFFFF)) && sqeOk a.q

/-- The discovery controller of a port, which is no instance (R50), as an admin command names it: 2,048 plus the port. -/
def discoveryOk (a : AdminCmd) : Bool := !a.side && decide (2048 ≤ a.inst ∧ a.inst < 2052) && sqeOk a.q

/-- A requester of a register write: an application core is one of eight. -/
def coreOk (r : Requester) : Bool :=
  match r with
  | .core n => decide (n < 8)
  | .sideband => false
  | _ => true

/-- Dies, channels, clusters or application cores, lane groups, host ports, DRAM ranks. -/
def dieOk (d : Nat) : Bool := decide (d < 2048)
def chanOk (c : Nat) : Bool := decide (c < 64)
def eightOk (k : Nat) : Bool := decide (k < 8)
def groupOk (g : Nat) : Bool := decide (g < 2)
def portOk (n : Nat) : Bool := decide (n < 4)
def rankOk (n : Nat) : Bool := decide (n < 24)

/-- An array of the Ahnah registers: four arguments at most of 32 bits, 256 bytes of data at most (R411). -/
def ahOk (args : List Nat) (data : List Byte) : Bool := decide (args.length ≤ 4 ∧ data.length ≤ 256) && args.all fun v => decide (v < 2 ^ 32)

/-- The check of a command. -/
def Instr.ok : Instr → Bool
  | .read c | .write c | .compare c | .verify c | .writeZeroes c | .writeUncorrectable c | .flush c | .zoneAppend c
  | .zoneManagementSend c | .zoneManagementReceive c | .reservationReport c | .purgeRange c | .ioManagementReceive c => ioOk c
  | .datasetManagement c ranges => ioOk c && decide (ranges.length ≤ 256)
  | .copy c srcs => ioOk c && decide (srcs.length ≤ 256)
  | .reservationRegister c k n => ioOk c && decide (k < 2 ^ 64 ∧ n < 2 ^ 64)
  | .reservationAcquire c k p => ioOk c && decide (k < 2 ^ 64 ∧ p < 2 ^ 64)
  | .reservationRelease c k => ioOk c && decide (k < 2 ^ 64)
  | .parityCompute c _ => ioOk c
  | .ioManagementSend c _ => ioOk c
  | .keepAlive a | .createIoSq a | .createIoCq a | .deleteIoSq a | .deleteIoCq a | .identify a | .abort a
  | .getFeatures a | .asyncEventRequest a | .firmwareCommit a | .deviceSelfTest a | .directiveSend a | .directiveReceive a
  | .virtualizationManagement a | .formatNvm a | .sanitize a | .getLbaStatus a | .ownershipLease a | .bootRecordFetch a
  | .dieRetire a => adminOk a
  | .getLogPage a => adminOk a || discoveryOk a
  | .setFeatures a _ | .namespaceManagement a _ | .namespaceAttachment a _ | .firmwareImageDownload a _ | .nvmeMiSend a _
  | .nvmeMiReceive a _ | .securitySend a _ | .securityReceive a _ => adminOk a
  | .dieWorkSelect d | .dieSuspended d | .suspendHoldExpiry d | .nestwaitExpiry d | .intmaxExpiry d | .typicalTimePassed d
  | .dieSuspectClear d | .rebuildWorkIssue d => dieOk d
  | .wordlineProgramStatus d _ | .eraseStatus d _ | .dieResetComplete d _ | .dieReadDone d _ => dieOk d
  | .patrolRead d b f => dieOk d && decide (b < 4096 ∧ f < 32768)
  | .channelWatchdogExpiry ch d => chanOk ch && dieOk d
  | .unitRecoveryComplete ch | .frameTransferDone ch => chanOk ch
  | .dieStatePublish k | .zqShortCalibration k | .nandPllLockLoss k | .schedulerHeartbeatTimeout k | .acHeartbeatMiss k | .clusterRecoveryComplete k
  | .acRecoveryComplete k => eightOk k
  | .nandTemperatureRead k _ => eightOk k
  | .pciePerstAssert g | .pciePerstDeassert g | .laneGroupClockLoss g => groupOk g
  | .hfuLgcfgWrite r _ | .hfuLeasecfgWrite r _ | .ptxOasiscfgWrite r _ | .ptmHuecfgWrite r _ | .mssVbclr1Go r _ | .mssRsctlGo r _
  | .sealGcm r _ | .sealKeygen r _ | .sealUnwrap r _ | .sealInject r _ | .sealClear r _ | .fevDevwdgWrite r _
  | .fevEvwrhdrGo r _ => coreOk r
  | .mgcRstctlShut r | .mgcRstctlDevrst r | .ptxCkptstatForce r | .tasShcmdLoad r | .tasShcmdStage r | .secBrctlFin r | .secSeallockKclr r
  | .secSeallockKlock r | .ptmHuestatTestgo r | .fevFfqstatClr r => coreOk r
  | .trainingWritePattern r ch _ | .trainingReadCompare r ch _ | .trainingWriteReadCompare r ch _ => coreOk r && decide (ch < 12)
  | .trainingHelperDone ch _ _ => decide (ch < 12)
  | .registerWrite r addr width v =>
    if r = .sideband then width == 32 && decide (addr < 128 ∧ v < 2 ^ 32)
    else coreOk r && [8, 16, 32, 64].contains width && decide (0x40000000 ≤ addr ∧ addr < 0x50000000 ∧ v < 2 ^ width)
  | .linkTrained p _ _ _ | .pcieHotReset p | .pcieLinkDown p | .ethLinkDown p | .pcieReceiverError p | .malformedTlp p => portOk p
  | .configRequest q => portOk q.port && decide (q.fn < 65536)
  | .numvfsWrite p n _ => portOk p && decide (n < 65536)
  | .ethFrameReceive p r => portOk p && decide (r.head.prio < 8 ∧ r.head.vlan < 4096)
  | .pfcPauseReceive p prio quanta => portOk p && decide (prio < 8 ∧ quanta < 65536)
  | .fabricsConnect p q => portOk p && decide (q.qid < 65536 ∧ q.sqsize < 65536 ∧ q.kato < 2 ^ 32 ∧ q.cntlid < 65536 ∧ q.hostId < 2 ^ 128)
  | .functionLevelReset i | .instanceResetComplete i | .ccShutdownFlushDone i | .keepAliveTimeout i => instOk i
  | .fabricsDisconnect i => instOk i || decide (2048 ≤ i ∧ i < 2052)
  | .barUnsupportedAccess i _ | .interruptCoalesceTimeout i _ | .fabricsPropertyGet i _ => instOk i
  | .fabricsPropertySet i o v => instOk i && decide (o < 2 ^ 32 ∧ v < 2 ^ 64)
  | .ccEnSet i cc aqa asq acq => instOk i && decide (cc < 2 ^ 32 ∧ aqa < 2 ^ 32 ∧ asq < 2 ^ 64 ∧ acq < 2 ^ 64)
  | .ccEnClear i cc => instOk i && decide (cc < 2 ^ 32)
  | .ccShutdownNotify i shn => instOk i && decide (shn < 4)
  | .sqTailDoorbell i q v | .cqHeadDoorbell i q v => instOk i && decide (q ≤ 256 ∧ v < 2 ^ 32)
  | .cqePost i q => instOk i && decide (q ≤ 256)
  | .msixVectorUnmask i w =>
    instOk i && match w with
      | .vector n _ => decide (n < 2048)
      | .intms v | .intmc v => decide (v < 2 ^ 32)
  | .completionTimeout t | .hostReadFailure t _ =>
    match t with
    | .fetch i q => instOk i && decide (q ≤ 256)
    | .data _ => true
  | .stripeProgramIssue b _ | .stripeHoldExpiry b => decide (b < 4096)
  | .refreshDue r b => rankOk r && decide (b < 4)
  | .mr4Read r _ => rankOk r
  | .powerDownEntry r | .rowTrackerWindowEnd r => rankOk r
  | .retrainingPause r _ _ => rankOk r
  | .dqsOscillatorRead r _ => rankOk r
  | .sensorSample rs => decide (rs.length = 24)
  | .dramRead req _ len _ _ => decide (req ≤ 18 ∧ 0 < len)
  | .dramWrite req _ bytes _ _ => decide (req ≤ 18) && !bytes.isEmpty
  | .keySlotChangeApply k => decide (k < 65536)
  | .corePllLockLoss clk => decide (clk < 4)
  | .ahnahHealthSummary _ args data | .ahnahRegisterRead _ args data | .ahnahEventRecordRead _ args data | .ahnahBootRecordRead _ args data
  | .ahnahSetInstanceShare _ args data | .ahnahSetNamespaceSize _ args data | .ahnahSetMediaMode _ args data | .ahnahPortConfigWrite _ args data
  | .ahnahImageWrite _ args data | .ahnahImageCommit _ args data | .ahnahCleanShutdown _ args data => ahOk args data
  | .storeServiceProgram _ _ _ data => decide (data.length < 2 ^ 32)
  | .basicManagementRead o n => decide (o + n ≤ 256)
  | .vpdRead o n => decide (o < 2 ^ 16 ∧ n < 2 ^ 16)
  | .vpdWrite o data => decide (o < 2 ^ 16 ∧ data.length < 2 ^ 16)
  | .configurationSet id v => decide (id < 256 ∧ v < 2 ^ 32)
  | .configurationGet id => decide (id < 256)
  | .powerOnReset _ | .deviceReset _ | .porstAssert | .supplyUndervoltage _ | .pfailAssert | .dumpComplete | .powerReturnAfterDump _ | .cleanShutdownComplete
  | .refclkMainLoss | .aonXtalLoss | .cameleerWatchdogExpiry _ | .deviceRecoveryComplete | .thermalShutdown | .ecnCeReceive _ | .cnpReceive _ | .cnpRateRecovery _ | .roceAckTimeout _
  | .tcpRetransmitTimeout _ | .transportConnectionFailure _ | .sqFetchIssue | .flushComplete _ | .namespaceShrinkComplete _ | .deviceSelfTestComplete _
  | .sanitizeComplete _ | .leaseHoldoffEnd | .rangeLockEntryGrant | .admitCommand | .translateComplete _ | .oasisReadComplete _ | .writeDataArrival _ _
  | .oasisSpaceWaitRelease _ | .xtsEncryptDone _ _ | .xtsDecryptDone _ _ | .hostDataTransferDone _ | .fuaWriteComplete _ | .jtimeExpiry | .eraseIssue _
  | .slcPoolRebalance | .wadiBandExchange _ | .reclaimVictimSelect | .constrainedTimeout | .wpSpaceRecoveryTimeout | .checkpointComplete | .hardDecodeDone _ _
  | .softDecodeDone _ _ | .reconstructionDone _ _ | .parityJobStart | .parityJobTimeout _ | .parityJobDone _ _ _ | .tasEpochBoundary | .zeroFillDone _
  | .validBitClearDone | .rangeScrubDone _ _ _ | .patrolScrubStep _ | .pageIdleClose _ | .sramScrub _ | .bootRecordAppended | .getVersion _ | .getCapabilities _ _ _
  | .negotiateAlgorithms _ _ _ | .getDigests _ | .getCertificate _ _ _ _ | .challenge _ _ | .getMeasurements _ _ _ | .chunkGet _ _ _ | .chunkSend _ _ _ _ _ _
  | .sealDone | .supplyGlitchAlarm | .clockAlarm | .roundCheckAlarm | .debugUnlock | .storeServiceRead _ _ _ _ | .storeServiceErase _ _ _ _ | .storeServicePoll _ _
  | .fscReadRequest _ _ _ | .fscProgramDone _ _ | .fscEraseDone _ _ | .fscSuspendHoldExpiry | .activationPrepareDone _ | .mctpControlMessage _
  | .readNvmeMiDataStructure _ | .subsystemHealthStatusPoll _ | .controllerHealthStatusPoll _ _ _ | .sidebandDownloadTimeout | .hueSample _ | .hueRetestTimer
  | .capTestStart | .capTestComplete _ _ _ | .throttleLevelUpdate | .thermtripAssert | .faultReport _ | .safeholdExpiry _ | .aonXtalRatioCheckPass
  | .hueTestPeriodExpiry | .serdesRailRecovery => true

end Sys2Proof
end

