-- ==== Sys2Proof/Safety.lean ====
section
/-! DEFINITION. What counts as a safe run, in the terms the statements use: the queue holds commands that a sender following the spec sends, the
DRAM byte memory has its canonical form, a step neither faults nor is refused, and what a command may find at rest when it comes. -/

namespace Sys2Proof.Safety

open Machine

/-- A step goes on. -/
def goesOn (s : State) : Prop := ∃ t, step s = .next t

/-- Every waiting command is one that a sender following the spec sends. -/
def wellSent (s : State) : Bool := s.pending.all Instr.ok

/-- The DRAM byte memory has its canonical form. -/
def memOk (s : State) : Prop := s.mss.mem.wf = true

/-- A context that waits for nothing the device could give it by itself: no lock, no commit point, no answer. -/
def atRest (x : Ctx) : Bool :=
  !(x.state == .lockwait || (x.state == .data || x.state == .ordwait || x.state == .fw) && x.encrypted && !x.recorded
      || x.state == .fw && x.arrived || x.rlWait || (x.side || x.detached) && x.state == .completing)

/-- No sanitize stands and every context is at rest: what a command changes is its own effect alone. The context table is in its form. -/
def calm (s : State) : Prop := s.sec.sanitize = none ∧ (∀ e ∈ s.qce.ctxs, atRest e.2 = true) ∧ Tab.rising s.qce.ctxs = true

/-- An event of the media side finds nothing else due in this state: the flash side has nothing left to follow up, the durability mode stands, no warning
changes, and no command goes on by itself. -/
def still (s : State) : Prop := calm s ∧ s.fl.ptx.wprot = false ∧ s.warnings = s.health.warning
def quiet (s : State) : Prop :=
  still s ∧ s.fl.follow s.clock.now s.hours = (s.fl, []) ∧ s.fl.judgeMode s.ptm.against s.stampMs = (s.fl, [])

/-- CSR space serves a requester, which may write the register's page, and no lock holds the register (R487, R488). -/
def served (s : State) (r : Requester) (reg : Reg) : Prop := s.serves r = true ∧ r.mayWrite reg.block = true ∧ s.locked reg = false

/-- No range-lock entry stands in a namespace, and the table has room (R113, R119). -/
def unlocked (s : State) (nsx : Nat) : Prop := s.qce.locks.length < 262144 ∧ ∀ e ∈ s.qce.locks, e.2.nsx ≠ nsx

/-- A command's turn on an I/O queue: fetch runs and holds a context for the queue, the opcode is the row's, and no sanitize forbids the command.
`g` is the device with the command taken into context `k`, whose content is `x` (R81 to R83, R88). -/
def taken (s g : State) (c : IoCmd) (kind : Kind) (opc k : Nat) (x : Ctx) : Prop :=
  s.take c.inst c.sqid kind c.q = some (g, k) ∧ c.sqid ≠ 0 ∧ g.qce.ctx? k = some x ∧ c.q.opc = opc ∧ s.sec.sanStatus ≠ 3 ∧ calm s

/-- The command names an attached namespace `n`, and reservation, lease and write protection permit it (R64). -/
def permitted (g : State) (c : IoCmd) (n : Ns) (claim : Claim) : Prop :=
  g.fl.attachedNs c.inst c.q.nsid = some n ∧ g.rightsStatus (c.q.nsid - 1) n c.inst claim.write claim.guarded claim.protectable = none

/-- A command's turn on an instance's admin queue: the same, with the caller in the command's scope and no handover in its first 7 steps (R93, R407). -/
def adminTaken (s g : State) (a : AdminCmd) (opc : Nat) (sc : AdminScope) (k : Nat) (x : Ctx) : Prop :=
  a.side = false ∧ s.take a.inst 0 .admin a.q = some (g, k) ∧ g.qce.ctx? k = some x ∧ a.q.opc = opc ∧ g.inScope x sc = true ∧ s.sec.sanStatus ≠ 3
    ∧ s.mgc.postHold ≤ s.clock.now + 5000 ∧ calm s

/-- Between `s` and `t` context `k` has become COMPLETING with a status and completion dword 0; the other contexts are as they were. -/
def completed (s t : State) (k : Nat) (st : Status) (dw0 : Nat) : Prop :=
  (∃ y, t.qce.ctx? k = some y ∧ y.state = .completing ∧ y.status = st ∧ y.dw0 = dw0) ∧ ∀ j, j ≠ k → t.qce.ctx? j = s.qce.ctx? j

/-- Between `s` and `t` the command of context `k`, taken as `x`, has ended with success, or it waits in DATA for a command ahead of it in its
ordered submission queue that has not reached its commit point (R88, R101). The other contexts are as they were. -/
def endsInTurn (s t : State) (k : Nat) (x : Ctx) : Prop :=
  (∃ y, t.qce.ctx? k = some y ∧ (x.ord = false ∨ s.qce.predsCommitted x = true → y.state = .completing ∧ y.status = .success)
    ∧ (x.ord = true → s.qce.predsCommitted x = false → y.state = .data)) ∧ ∀ j, j ≠ k → t.qce.ctx? j = s.qce.ctx? j

/-- Beside the queue engine, only the ports' receive allotments and what goes out can have changed. -/
def onlyQueues (s t : State) : Prop := t = { s with hfu := { s.hfu with ports := t.hfu.ports }, qce := t.qce, out := t.out }

/-- An admin command has ended with a status and has done nothing: its die reads and the capacity it reserved, of which it has none, are let go. -/
def turnedAway (s t : State) (k : Nat) (st : Status) : Prop :=
  completed s t k st 0 ∧ t.qce.cqs = s.qce.cqs
    ∧ t = { s with
        hfu := { s.hfu with ports := t.hfu.ports }, qce := t.qce, out := t.out
        fl := { s.fl with dip := t.fl.dip, mbe := t.fl.mbe, ptx := { s.fl.ptx with growths := Tab.erase s.fl.ptx.growths k } } }

/-- The device has entered the safe state on a U-class fault (R445): its cause stands, every recovery has ended, every instance shows a fatal status and the cores
stand. -/
def fellSafe (s t : State) (src code : Nat) : Prop :=
  t.fev.safe = true ∧ t.fev.csrc = src ∧ t.fev.ccode = code ∧ t.fev.active = [] ∧ t.fev.safeEntries = s.clock.aon :: s.fev.safeEntries
    ∧ (∀ i x, s.qce.inst? i = some x → t.qce.inst? i = some { x with cfs := true }) ∧ t.mgc.acRun = 0 ∧ t.mgc.act = none

/-- A GO of the Ahnah interface was taken and its task has ended with a result and an answer (R411, R412). -/
def ahEnded (s t : State) (code tag : Nat) (args : List Nat) (data : List Byte) (result : Nat) (answer : List Byte) : Prop :=
  t.mgc.ah = ((s.mgc.ahStart code (tag % 256) args data).ahEnd result answer).ah

/-- Commands that may change the bytes of DRAM: MSS's own requests, fills, clears and scrubs, the write of a register that starts one, and the starts and resets of the whole
device. -/
def touchesDram : Instr → Bool
  | .dramRead .. | .dramWrite .. | .zeroFillDone _ | .mssVbclr1Go .. | .rangeScrubDone .. | .patrolScrubStep _ | .registerWrite .. | .powerOnReset _ | .deviceReset _
  | .powerReturnAfterDump _ | .safeholdExpiry _ => true
  | _ => false

end Sys2Proof.Safety
end

