-- ==== Sys2Proof/Certificates/Slice0/Obligations.lean ====
section
/-! DEFINITION. Statements for the provers. Each says at which states and operands its commands answer a next state, and which: what is written as a
record update is all that changes. A state that a clause asks for at rest (`Safety.calm`, `Safety.quiet`) is one in which nothing else is due. -/

open Sys2Proof Sys2Proof.Machine

/-- A step runs the command at the front of the queue on the state with the queue's rest. -/
def Obligations.StepRunsFront : Prop :=
  ∀ (c : Instr) (s : State) (rest : List Instr), s.pending = c :: rest → step s = exec c { s with pending := rest }

/-- On an empty queue 100 ns pass and nothing else happens: the model's choice (log entry 1); device time and operating time never pause (R295, R463), and the lease clock stands still while a device recovery holds fetch (R69). -/
def Obligations.IdleStep : Prop :=
  ∀ s : State, s.pending = [] → ∃ t, step s = .next t ∧ t.clock.now = s.clock.now + 1 ∧ t.clock.aon = s.clock.aon + 1
    ∧ t.clock.lease = s.clock.lease + (if s.fetchPaused then 0 else 1) ∧ t.clock.pcyc = s.clock.pcyc
    ∧ t = { s with clock := { s.clock with now := t.clock.now, aon := t.clock.aon, lease := t.clock.lease } }

/-- What reset leaves (R84, R149, R186, R270, R295, R335, R419, R456): nothing waits, nothing listed in DRAM, no valid granule, and registers at their fields' reset values. -/
def Obligations.ResetLeaves : Prop :=
  State.reset.pending = [] ∧ State.reset.out = [] ∧ State.reset.mss.mem = [] ∧ Safety.memOk State.reset ∧ State.reset.mss.valid = [] ∧ State.reset.fev.safe = false
    ∧ State.reset.clock.now = 0 ∧ State.reset.qce.ctxs = [] ∧ State.reset.qce.insts = [] ∧ State.reset.qce.locks = [] ∧ State.reset.fl.ptx.slots = [] ∧ State.reset.sec.sanitize = none
    ∧ (State.reset.reg .qceCtxcfg).bits 23 16 = 0x80 ∧ (State.reset.reg .qceCtxcfg).bits 13 8 = 0x10 ∧ (State.reset.reg .qceCtxcfg).bits 7 4 = 8 ∧ (State.reset.reg .tasCfg).bits 11 8 = 4
    ∧ (State.reset.reg .tasRdwin).bits 19 0 = 0x8000 ∧ (State.reset.reg .ptxSteercfg).bits 31 31 = 1 ∧ (State.reset.reg .ptxSteercfg).bits 27 16 = 200
    ∧ (State.reset.reg .ptxSteercfg).bits 7 0 = 4 ∧ (State.reset.reg .dipCfg).bits 27 24 = 4 ∧ (State.reset.reg .mssScrubcfg).bits 31 31 = 1
    ∧ (State.reset.reg .ptmHuecfg).bits 23 16 = 0x50 ∧ (State.reset.reg .ptmHuecfg).bits 15 8 = 0x40 ∧ (State.reset.reg .fevCfg).bits 7 0 = 10

/-- Every step keeps the canonical form of the DRAM byte memory: whatever command is at the front of the queue, and in every state. -/
def Obligations.StepKeepsMemory : Prop :=
  ∀ s t : State, Safety.memOk s → step s = .next t → Safety.memOk t

/-- No command sends another, and few touch DRAM: a step takes the command at the front and leaves the rest of the queue as it is; only MSS's own requests, the register writes that start one, the starts and the resets change a byte of DRAM. -/
def Obligations.QueueAndDramKept : Prop :=
  (∀ s t : State, step s = .next t → t.pending = s.pending.tail)
  ∧ ∀ (c : Instr) (s t : State), Safety.touchesDram c = false → exec c s = .next t → t.mss.mem = s.mss.mem ∧ t.pending = s.pending

/-- R76: Set Features and Get Features of Number of Queues answer the allotment less 1 in both halves, whatever was asked for, and change nothing else. -/
def Obligations.NumberOfQueues : Prop :=
  ∀ (s g : State) (a : AdminCmd) (k : Nat) (x : Ctx) (i : Inst), s.qce.inst? a.inst = some i → 1 ≤ i.allot → i.allot ≤ 65536 → a.q.fid = 0x07 →
    (∀ d : FeatureData, Safety.adminTaken s g a 0x09 .every k x → a.q.sv = false →
      ∃ t, exec (.setFeatures a d) s = .next t ∧ Safety.completed s t k .success ((i.allot - 1) + 65536 * (i.allot - 1)) ∧ Safety.onlyQueues s t)
    ∧ (Safety.adminTaken s g a 0x0A .every k x → a.q.sel < 3 →
      ∃ t, exec (.getFeatures a) s = .next t ∧ Safety.completed s t k .success ((i.allot - 1) + 65536 * (i.allot - 1)) ∧ Safety.onlyQueues s t)

/-- R394: every entry into the service region latches whether it came from the store window; one that did gets STORE_SELF, with SELFEV set and nothing started; one at another address than 0x0807_0000 is an access fault. -/
def Obligations.StoreEntry : Prop :=
  ∀ (s : State) (fr : Nat) (c : Nat → Instr), ((∃ o n, c = fun en => .storeServiceRead en fr o n) ∨ (∃ o bs, c = fun en => .storeServiceProgram en fr o bs)
      ∨ (∃ o n, c = fun en => .storeServiceErase en fr o n) ∨ c = fun en => .storeServicePoll en fr) → s.storeUp = true →
    (∀ en, en ≠ 0x08070000 → exec (c en) s = .fault .entryFault)
    ∧ (0x10000000 ≤ fr → fr < 0x18000000 → ∃ t r, exec (c 0x08070000) s = .next t ∧ r.status = .self ∧ r.data = [] ∧ t.mgc.regs.bit .mgcSvcfrom 31 = true ∧ t.mgc.regs.bit .mgcSvcfrom 30 = true
      ∧ t = { s with mgc := { s.mgc with regs := t.mgc.regs }, out := .service r :: s.out })
    ∧ (fr < 0x10000000 ∨ 0x18000000 ≤ fr → ∃ t r, exec (c 0x08070000) s = .next t ∧ r.status ≠ .self ∧ t.mgc.regs.bit .mgcSvcfrom 31 = false ∧ t.out = .service r :: s.out)

/-- R391: a program into the sector being erased, a second program, and an erase while one runs or waits are refused with STORE_BUSY, and nothing starts. -/
def Obligations.StoreBusy : Prop :=
  ∀ (s : State) (fr o : Nat) (m : Mgc), s.storeUp = true → m = s.mgc.enterService fr → m.fromWindow = false →
    (∀ bs : List Byte, 16 ≤ bs.length → bs.length ≤ 256 → bs.length % 16 = 0 → o % 16 = 0 → o / 256 = (o + bs.length - 1) / 256 → o + bs.length ≤ storeSize → m.protects o bs.length = false →
      ((∃ e, s.mgc.erase = some e ∧ e.sectors.head? = some (o / 65536)) ∨ s.fev.erasingSector = some (o / 65536) ∨ s.mgc.prog.isSome = true ∨ s.fev.writing.isSome = true) →
      ∃ t, exec (.storeServiceProgram 0x08070000 fr o bs) s = .next t ∧ t = { s with mgc := m, out := .service ⟨.busy, o, []⟩ :: s.out })
    ∧ (∀ n : Nat, n ≠ 0 → n % 65536 = 0 → n ≤ 16 * 65536 → o % 65536 = 0 → o + n ≤ storeSize → m.protects o n = false → s.mgc.erase.isSome = true ∨ s.fev.erasing.isSome = true →
      ∃ t, exec (.storeServiceErase 0x08070000 fr o n) s = .next t ∧ t = { s with mgc := m, out := .service ⟨.busy, o, []⟩ :: s.out })

/-- R322: a write with a byte in a region that does not list its requester is discarded, as a D-class fault whose event of severity 2 names the requester; every requester may read every region. It also rests on choices of the model, log entry 18. -/
def Obligations.RegionWriters : Prop :=
  (∀ (s : State) (req addr a : Nat) (bytes : List Byte) (w : Bool) (e : LineErrs), s.dramUp = true → addr + bytes.length ≤ s.mss.cap → addr ≤ a → a < addr + bytes.length →
    (regionOf a).writer req = false →
    ∃ t b, exec (.dramWrite req addr bytes w e) s = .next t ∧ addr ≤ b ∧ b < addr + bytes.length ∧ (regionOf b).writer req = false
      ∧ t = { s with fev := s.fev.report ⟨0x07, 0x01, .d, 2, 12, req, b, 0, 0⟩ s.stamp })
  ∧ ∀ (s : State) (req addr len : Nat) (w : Bool), s.dramUp = true → addr + len ≤ s.mss.cap → s.mss.fillIn addr len = none → (∀ l ∈ linesOf addr len, l ∉ s.mss.poison) →
    ∃ t bs, exec (.dramRead req addr len w []) s = .next t ∧ t.out = .mem (.data req addr bs .ok) :: s.out ∧ bs.length = len

/-- DRAM_READ on good lines answers the bytes that DRAM holds, or the engines' tables where they lie there, marks them good and changes no byte; beyond the installed capacity the request is an access fault. It also rests on choices of the model, log entries 18, 97. -/
def Obligations.DramRead : Prop :=
  (∀ (s : State) (req addr len : Nat) (w : Bool),
    s.dramUp = true → addr + len ≤ s.mss.cap → s.mss.fillIn addr len = none → (∀ l ∈ linesOf addr len, l ∉ s.mss.poison) →
    ∃ t bs, exec (.dramRead req addr len w []) s = .next t
      ∧ t.out = .mem (.data req addr bs .ok) :: s.out ∧ bs.length = len ∧ (∀ i, i < len → bs[i]? = some (s.dramByte (addr + i) (Mem.get s.mss.mem (addr + i))))
      ∧ (∀ a, Mem.get t.mss.mem a = Mem.get s.mss.mem a)
      ∧ t.mss.valid = s.mss.valid ∧ t.mss.poison = s.mss.poison ∧ t.mss.fills = s.mss.fills
      ∧ t = { s with mss := t.mss, fev := t.fev, qce := t.qce, health := t.health, out := t.out })
  ∧ (∀ (s : State) (a : Nat) (b : Byte), (a < 80 * 1048576 ∨ 208 * 1048576 ≤ a ∧ a < 272 * 1048576 ∨ 304 * 1048576 ≤ a) → s.dramByte a b = b)
  ∧ ∀ (s : State) (req addr len : Nat) (w : Bool) (e : LineErrs), s.dramUp = true → s.mss.cap < addr + len →
    exec (.dramRead req addr len w e) s = .fault .accessFault

/-- DRAM_WRITE inside a valid granule whose lines are good stores exactly its bytes; the first write of a granule starts its zero-fill, and the bytes stand, with zeros round them, once ZERO_FILL_DONE comes; beyond the installed capacity the request is an access fault. It also rests on choices of the model, log entry 18. -/
def Obligations.DramWrite : Prop :=
  (∀ (s : State) (req addr : Nat) (bytes : List Byte) (w : Bool),
    s.dramUp = true → bytes ≠ [] → addr + bytes.length ≤ s.mss.cap → addr % 4096 + bytes.length ≤ 4096 → Safety.memOk s →
    (∀ a, addr ≤ a → a < addr + bytes.length → (regionOf a).writer req = true) →
    s.mss.fillIn addr bytes.length = none → (∀ l ∈ linesOf addr bytes.length, l ∉ s.mss.poison) → addr / 4096 ∈ s.mss.valid →
    ∃ t, exec (.dramWrite req addr bytes w []) s = .next t
      ∧ t.out = .mem (.written req addr true) :: s.out
      ∧ (∀ a, Mem.get t.mss.mem a = if addr ≤ a ∧ a < addr + bytes.length then bytes.getD (a - addr) 0 else Mem.get s.mss.mem a)
      ∧ t = { s with mss := t.mss, fev := t.fev, qce := t.qce, health := t.health, out := t.out })
  ∧ (∀ (s : State) (req addr : Nat) (bytes : List Byte) (w : Bool),
    s.dramUp = true → bytes ≠ [] → addr + bytes.length ≤ s.mss.cap → addr % 4096 + bytes.length ≤ 4096 →
    ¬ (addr % 4096 = 0 ∧ bytes.length = 4096) →
    (∀ a, addr ≤ a → a < addr + bytes.length → (regionOf a).writer req = true) →
    s.mss.fillIn addr bytes.length = none → addr / 4096 ∉ s.mss.valid →
    ∃ t, exec (.dramWrite req addr bytes w []) s = .next t
      ∧ t.out = .mem (.written req addr true) :: s.out
      ∧ (∀ a, Mem.get t.mss.mem a = Mem.get s.mss.mem a)
      ∧ Tab.get? t.mss.fills (addr / 4096) = some ⟨addr, bytes, []⟩ ∧ t.mss.valid = s.mss.valid
      ∧ t = { s with mss := t.mss, fev := t.fev, qce := t.qce, health := t.health, out := t.out })
  ∧ (∀ (s : State) (g : Nat) (f : Fill), s.dramUp = true → Safety.memOk s → Tab.get? s.mss.fills g = some f → f.waiting = [] →
    ∃ t, exec (.zeroFillDone g) s = .next t
      ∧ (∀ a, Mem.get t.mss.mem a = if f.addr ≤ a ∧ a < f.addr + f.bytes.length then f.bytes.getD (a - f.addr) 0 else Mem.get s.mss.mem a)
      ∧ g ∈ t.mss.valid ∧ Tab.get? t.mss.fills g = none
      ∧ t = { s with mss := t.mss, qce := t.qce, health := t.health })
  ∧ ∀ (s : State) (req addr : Nat) (bytes : List Byte) (w : Bool) (e : LineErrs), s.dramUp = true → s.mss.cap < addr + bytes.length →
    exec (.dramWrite req addr bytes w e) s = .fault .accessFault

/-- A valid-bit clear by GO makes its range read as zero, ends at VALID_BIT_CLEAR_DONE and touches no byte outside the range; a range that touches the valid bitmap or passes the installed capacity is refused with ERR. It also rests on choices of the model, log entry 19. -/
def Obligations.ValidBitClear : Prop :=
  (∀ (s : State) (r : Requester) (v : W32),
    s.serves r = true → r.mayWrite .mss = true → s.locked .mssVbclr1 = false → v.bits 31 31 = 1 → s.dramUp = true → s.mss.clearing = none →
    s.mss.fills = [] → 3072 ≤ s.mss.regs.fld .mssVbclr0 26 0 → v.bits 26 0 ≠ 0 → s.mss.regs.fld .mssVbclr0 26 0 + v.bits 26 0 ≤ s.mss.cap / 4096 →
    ∃ t, exec (.mssVbclr1Go r v) s = .next t
      ∧ (∀ a, Mem.get t.mss.mem a = if s.mss.regs.fld .mssVbclr0 26 0 ≤ a / 4096 ∧ a / 4096 < s.mss.regs.fld .mssVbclr0 26 0 + v.bits 26 0 then 0
          else Mem.get s.mss.mem a)
      ∧ t.mss.clearing = some ⟨s.mss.regs.fld .mssVbclr0 26 0, v.bits 26 0⟩
      ∧ (∀ g, g ∈ t.mss.valid ↔ g ∈ s.mss.valid ∧ ¬ (s.mss.regs.fld .mssVbclr0 26 0 ≤ g ∧ g < s.mss.regs.fld .mssVbclr0 26 0 + v.bits 26 0))
      ∧ t = { s with mss := t.mss, qce := t.qce, health := t.health })
  ∧ (∀ (s : State) (r : Requester) (v : W32),
    s.serves r = true → r.mayWrite .mss = true → s.locked .mssVbclr1 = false → v.bits 31 31 = 1 → s.dramUp = true → s.mss.clearing = none →
    (s.mss.regs.fld .mssVbclr0 26 0 < 3072 ∨ s.mss.cap / 4096 < s.mss.regs.fld .mssVbclr0 26 0 + v.bits 26 0) →
    ∃ t, exec (.mssVbclr1Go r v) s = .next t ∧ t.mss.mem = s.mss.mem ∧ t.mss.valid = s.mss.valid ∧ t.mss.clearing = none
      ∧ t.mss.regs.fld .mssVbclr1 29 29 = 1)
  ∧ ∀ (s : State) (c : RangeScrub), s.dramUp = true → s.mss.clearing = some c →
    ∃ t, exec .validBitClearDone s = .next t ∧ t = { s with mss := { s.mss with clearing := none } }

/-- A range scrub starts by GO with its summary cleared; when it ends over good lines its summary holds the granules covered and no error. A patrol step over a good line moves to the next line; past the last valid granule the lap ends, and every channel counts it. -/
def Obligations.Scrubbing : Prop :=
  (∀ (s : State) (r : Requester) (v : W32),
    s.serves r = true → r.mayWrite .mss = true → s.locked .mssRsctl = false → v.bits 31 31 = 1 → s.dramUp = true → s.mss.scrub = none →
    v.bits 26 0 ≠ 0 → s.mss.regs.fld .mssRsbase 26 0 + v.bits 26 0 ≤ s.mss.cap / 4096 →
    ∃ t, exec (.mssRsctlGo r v) s = .next t ∧ t.mss.scrub = some ⟨s.mss.regs.fld .mssRsbase 26 0, v.bits 26 0⟩
      ∧ t.mss.regs.get .mssRssum0 = 0 ∧ t.mss.regs.get .mssRssum1 = 0 ∧ t.mss.regs.get .mssRssum2 = 0 ∧ t.mss.regs.fld .mssRsctl 29 28 = 0
      ∧ t = { s with mss := { s.mss with regs := t.mss.regs, scrub := t.mss.scrub } })
  ∧ (∀ (s : State) (r : RangeScrub) (n : Nat), s.dramUp = true → s.mss.scrub = some r → r.count < 2 ^ 27 →
    (∀ l ∈ s.mss.validLines r.base r.count, l ∉ s.mss.poison) →
    ∃ t, exec (.rangeScrubDone n false []) s = .next t ∧ t.mss.scrub = none ∧ t.mss.regs.fld .mssRssum0 26 0 = r.count
      ∧ t.mss.regs.fld .mssRssum1 31 16 = 0 ∧ t.mss.regs.fld .mssRssum1 15 0 = 0 ∧ t.mss.regs.fld .mssRsctl 29 29 = 0
      ∧ t = { s with mss := { s.mss with regs := t.mss.regs, scrub := none }, qce := t.qce, health := t.health })
  ∧ (∀ (s : State) (g : Nat), s.dramUp = true → s.mss.regs.bit .mssScrubcfg 31 = true → s.mss.patrolPos / 64 ∈ s.mss.valid →
    s.mss.patrolPos ∉ s.mss.poison → g ∈ s.mss.valid → s.mss.patrolPos + 1 ≤ g * 64 + 63 →
    ∃ t, exec (.patrolScrubStep []) s = .next t ∧ t = { s with mss := { s.mss with patrolPos := s.mss.patrolPos + 1 }, qce := t.qce, health := t.health })
  ∧ ∀ (s : State) (ch : Nat), s.dramUp = true → s.mss.regs.bit .mssScrubcfg 31 = true → s.mss.valid = [] → ch < 12 →
    ∃ t, exec (.patrolScrubStep []) s = .next t ∧ t.mss.patrolPos = 0 ∧ t.mss.lapStart = s.clock.now
      ∧ t.mss.regs.fld (.mssScrubstat ch) 30 16 = min 32767 (s.mss.regs.fld (.mssScrubstat ch) 30 16 + 1) ∧ t.mss.mem = s.mss.mem

/-- A training helper starts with the fields of the write (OP by the command) and, when it ends, reports the lanes that miscompared. It also rests on choices of the model, log entries 20, 24. -/
def Obligations.TrainingHelpers : Prop :=
  (∀ (s : State) (r : Requester) (ch : Nat) (v : W32) (c : Instr) (op : Nat),
    (c = .trainingWritePattern r ch v ∧ op = 0 ∨ c = .trainingReadCompare r ch v ∧ op = 1 ∨ c = .trainingWriteReadCompare r ch v ∧ op = 2) →
    s.serves r = true → r.mayWrite .mss = true → s.locked (.mssTrnctl ch) = false → ch < 12 → v.bits 7 0 ≠ 0 → v.bits 23 21 ≤ 5 →
    s.fev.safe = false → s.dumped = false → Tab.get? s.mss.train ch = none → s.mss.regs.bit .mssDmstat 31 = false →
    ∃ t, exec c s = .next t ∧ Tab.get? t.mss.train ch = some ⟨op, v.bits 23 21, v.bits 20 20, v.bits 7 0⟩
      ∧ t.mss.regs.get (.mssTrnres ch) = 0
      ∧ t = { s with mss := { s.mss with regs := t.mss.regs, train := t.mss.train } })
  ∧ ∀ (s : State) (ch dq cb : Nat) (o : TrainOp), Tab.get? s.mss.train ch = some o → o.op ≠ 0 → dq < 2 ^ 32 → cb < 256 →
    ∃ t, exec (.trainingHelperDone ch dq cb) s = .next t ∧ Tab.get? t.mss.train ch = none
      ∧ t.mss.regs.fld (.mssTrnres ch) 31 0 = dq ∧ t.mss.regs.fld (.mssTrnctl ch) 15 8 = cb
      ∧ t = { s with mss := { s.mss with regs := t.mss.regs, train := t.mss.train } }

/-- What keeps DRAM fit between requests: drift and pauses, refresh, MR4, power-down, idle rows, the tracker window, and corrected words of SRAM. -/
def Obligations.DramUpkeep : Prop :=
  (∀ (s : State) (rk drift : Nat), s.dramUp = true → s.mss.regs.bit .mssDmcfg 15 = true →
    ∃ t, exec (.dqsOscillatorRead rk drift) s = .next t ∧ (Tab.getD t.mss.timing rk .fresh).drift = drift
      ∧ (125 < drift → (Tab.getD t.mss.timing rk .fresh).wanted.isSome = true)
      ∧ t = { s with mss := { s.mss with timing := t.mss.timing } })
  ∧ (∀ (s : State) (rk since : Nat) (waits : Bool), s.dramUp = true → (Tab.getD s.mss.timing rk .fresh).wanted = some since →
    (waits = true → since + 100 ≤ s.clock.now) → (Tab.getD s.mss.timing rk .fresh).lastPause + 10000 ≤ s.clock.now →
    ∃ t, exec (.retrainingPause rk waits false) s = .next t
      ∧ (Tab.getD t.mss.timing rk .fresh).drift = 0 ∧ (Tab.getD t.mss.timing rk .fresh).wanted = none
      ∧ (Tab.getD t.mss.timing rk .fresh).lastPause = s.clock.now
      ∧ t = { s with mss := { s.mss with timing := t.mss.timing }, qce := t.qce, health := t.health })
  ∧ (∀ (s : State) (rk bank : Nat), s.dramUp = true →
    ∃ t, exec (.refreshDue rk bank) s = .next t ∧ t.mss.refreshes = s.mss.refreshes + 1
      ∧ (∀ k b, (k, b) ∈ t.mss.banks → k / 32 = rk → k % 4 = bank → b.open' = none)
      ∧ (∀ k b, (k, b) ∈ s.mss.banks → ¬ (k / 32 = rk ∧ k % 4 = bank) → (k, b) ∈ t.mss.banks)
      ∧ t = { s with mss := { s.mss with refreshes := t.mss.refreshes, banks := t.mss.banks } })
  ∧ (∀ (s : State) (rk : Nat) (deg : Int), s.dramUp = true → rk / 2 < 12 → rk % 2 < s.mss.ranks → Tab.get? s.mss.trainTemp rk = none →
    ∃ t, exec (.mr4Read rk deg) s = .next t ∧ Tab.get? t.mss.mr4 rk = some deg ∧ Tab.get? t.mss.trainTemp rk = some deg
      ∧ deg ≤ Tab.getD t.ptm.dram (rk / 2) deg ∧ t.mss.mem = s.mss.mem
      ∧ t = { s with mss := t.mss, ptm := { s.ptm with dram := t.ptm.dram }, qce := t.qce, health := t.health })
  ∧ (∀ (s : State) (rk : Nat), s.dramUp = true → Tab.getD s.mss.rankIdle rk (s.mss.regs.fld .mssPagecfg 15 8) ≠ 0 → rk ∉ s.mss.powerDown →
    Tab.getD s.mss.rankIdle rk (s.mss.regs.fld .mssPagecfg 15 8) * 16 ≤ (s.clock.now - Tab.getD s.mss.lastRankUse rk 0) * 100 →
    ∃ t, exec (.powerDownEntry rk) s = .next t ∧ rk ∈ t.mss.powerDown
      ∧ t = { s with mss := { s.mss with powerDown := t.mss.powerDown } })
  ∧ (∀ (s : State) (k row : Nat) (b : Bank), s.dramUp = true → Tab.get? s.mss.banks k = some b → b.open' = some row →
    b.limit * 32 ≤ (s.clock.now - b.lastAccess) * 100 →
    ∃ t, exec (.pageIdleClose k) s = .next t ∧ Tab.get? t.mss.banks k = some { b with open' := none }
      ∧ t = { s with mss := { s.mss with banks := t.mss.banks } })
  ∧ (∀ (s : State) (rk : Nat), s.dramUp = true →
    ∃ t, exec (.rowTrackerWindowEnd rk) s = .next t
      ∧ (∀ k b, (k, b) ∈ t.mss.banks → k / 32 = rk → b.rows = [] ∧ b.throttled = [])
      ∧ t = { s with mss := { s.mss with banks := t.mss.banks } })
  ∧ ∀ (s : State) (n : Nat), s.up = true → s.dumped = false → s.porst = false → n < 6 →
    ∃ t, exec (.sramScrub (.corrected n)) s = .next t
      ∧ t.mss.regs.fld .mssSramstat (4 * n + 3) (4 * n) = min 15 (s.mss.regs.fld .mssSramstat (4 * n + 3) (4 * n) + 1)
      ∧ t = { s with mss := { s.mss with regs := t.mss.regs } }

/-- A Read, Compare or Verify that passes its checks and meets no lock waits for admission, with the fields that its kind uses in its context. It also rests on choices of the model, log entry 26. -/
def Obligations.ReadsFetched : Prop :=
  ∀ (s g : State) (c : IoCmd) (i : Instr) (kd : Kind) (opc k : Nat) (mv : Bool) (x : Ctx) (n : Ns),
    (i = .read c ∧ kd = .read ∧ opc = 0x02 ∧ mv = true ∨ i = .compare c ∧ kd = .compare ∧ opc = 0x05 ∧ mv = true
      ∨ i = .verify c ∧ kd = .verify ∧ opc = 0x0C ∧ mv = false) →
    Safety.taken s g c kd opc k x → Safety.permitted g c n .reads → firstFailing (blockChecks mv x (c.q.nsid - 1) n) = none →
    n.nsze ≤ 2 ^ 48 → Safety.unlocked s (c.q.nsid - 1) →
    ∃ t y, exec i s = .next t ∧ t.qce.ctx? k = some y
      ∧ y.state = .admitwait ∧ y.admitWaitAt = s.clock.now ∧ y.nsx = some (c.q.nsid - 1) ∧ y.rds = [⟨c.q.slba, c.q.nlb + 1⟩]
      ∧ n.keySlot (c.q.nsid - 1) c.q = some y.keyslot ∧ y.fsn = s.qce.fsn ∧ y.mods = []
      ∧ t.qce.fsn = g.qce.fsn ∧ t.qce.locks = s.qce.locks ∧ (∀ j, j ≠ k → t.qce.ctx? j = s.qce.ctx? j)
      ∧ t = { s with hfu := t.hfu, qce := t.qce, tas := t.tas, out := t.out }

/-- Writes that find their place in a conventional namespace: the range-lock entry of the span is taken and the command waits for admission. Also Dataset Management and Purge Range over their own ranges. It also rests on choices of the model, log entries 26, 41. -/
def Obligations.WritesFetched : Prop :=
  (∀ (s g : State) (c : IoCmd) (i : Instr) (kd : Kind) (opc k : Nat) (mv : Bool) (x : Ctx) (n : Ns),
    (i = .write c ∧ kd = .write ∧ opc = 0x01 ∧ mv = true ∨ i = .writeZeroes c ∧ kd = .zeroes ∧ opc = 0x08 ∧ mv = false
      ∨ i = .writeUncorrectable c ∧ kd = .uncorrectable ∧ opc = 0x04 ∧ mv = false) →
    Safety.taken s g c kd opc k x → Safety.permitted g c n .writes → n.zoned = false →
    firstFailing (blockChecks mv x (c.q.nsid - 1) n) = none → s.tas.wcost ≠ 0 → Safety.unlocked s (c.q.nsid - 1) →
    ∃ t y r, exec i s = .next t ∧ t.qce.ctx? k = some y
      ∧ y.state = .admitwait ∧ y.nsx = some (c.q.nsid - 1) ∧ y.mods = [⟨c.q.slba, c.q.nlb + 1⟩] ∧ y.rlidx = some r
      ∧ n.keySlot (c.q.nsid - 1) c.q = some y.keyslot ∧ y.fsn = s.qce.fsn
      ∧ t.qce.locks = Tab.set s.qce.locks r ⟨c.q.nsid - 1, c.q.slba, c.q.nlb + 1, s.qce.fsn, k⟩
      ∧ (∀ j, j ≠ k → t.qce.ctx? j = s.qce.ctx? j)
      ∧ t = { s with hfu := t.hfu, qce := t.qce, tas := t.tas, out := t.out, fl := { s.fl with ptx := { s.fl.ptx with fdpLog := t.fl.ptx.fdpLog } } })
  ∧ (∀ (s g : State) (c : IoCmd) (ranges : List Span) (sp : Span) (k : Nat) (x : Ctx) (n : Ns),
    Safety.taken s g c .dsm 0x09 k x → Safety.permitted g c n ⟨true, true, false⟩ → c.q.deallocates = true → hull ranges = some sp →
    (∀ r ∈ ranges, r.lo + r.len ≤ n.nsze) → Safety.unlocked s (c.q.nsid - 1) →
    ∃ t y r, exec (.datasetManagement c ranges) s = .next t ∧ t.qce.ctx? k = some y
      ∧ y.state = .admitwait ∧ y.nsx = some (c.q.nsid - 1) ∧ y.mods = ranges ∧ y.rlidx = some r
      ∧ t.qce.locks = Tab.set s.qce.locks r ⟨c.q.nsid - 1, sp.lo, sp.len, s.qce.fsn, k⟩
      ∧ (∀ j, j ≠ k → t.qce.ctx? j = s.qce.ctx? j)
      ∧ t = { s with hfu := t.hfu, qce := t.qce, tas := t.tas, out := t.out })
  ∧ (∀ (s g : State) (c : IoCmd) (k : Nat) (x : Ctx) (n : Ns),
    Safety.taken s g c .purge 0x81 k x → Safety.permitted g c n ⟨true, true, false⟩ → n.zoned = false →
    c.q.cdw13 = 0 → c.q.cdw14 = 0 → c.q.cdw15 = 0 → c.q.slba + (c.q.purgeNlb + 1) ≤ n.nsze → Safety.unlocked s (c.q.nsid - 1) →
    ∃ t y r, exec (.purgeRange c) s = .next t ∧ t.qce.ctx? k = some y
      ∧ y.state = .admitwait ∧ y.nsx = some (c.q.nsid - 1) ∧ y.mods = [⟨c.q.slba, c.q.purgeNlb + 1⟩] ∧ y.rlidx = some r
      ∧ t.qce.locks = Tab.set s.qce.locks r ⟨c.q.nsid - 1, c.q.slba, c.q.purgeNlb + 1, s.qce.fsn, k⟩
      ∧ (∀ j, j ≠ k → t.qce.ctx? j = s.qce.ctx? j)
      ∧ t = { s with hfu := t.hfu, qce := t.qce, tas := t.tas, out := t.out })
  ∧ (∀ (s g : State) (c : IoCmd) (srcs : List CopySrc) (k : Nat) (x : Ctx) (n : Ns),
    Safety.taken s g c .copy 0x19 k x → Safety.permitted g c n .writes → n.zoned = false → c.q.stc = false → srcs ≠ [] →
    (∀ r ∈ srcs, r.len ≠ 0 ∧ n.dataBytes r.len ≤ mdts ∧ r.slba < 2 ^ 48 ∧ g.sourceStatus c.inst c.q.nsid n r = none
      ∧ Safety.unlocked s ((if r.nsid = 0 then c.q.nsid else r.nsid) - 1)) →
    n.dataBytes (srcs.map (·.len)).sum ≤ mdts → c.q.slba + (srcs.map (·.len)).sum ≤ n.nsze → (n.keySlot (c.q.nsid - 1) c.q).isSome = true →
    s.tas.wcost ≠ 0 → Safety.unlocked s (c.q.nsid - 1) →
    ∃ t y r, exec (.copy c srcs) s = .next t ∧ t.qce.ctx? k = some y
      ∧ y.state = .admitwait ∧ y.nsx = some (c.q.nsid - 1) ∧ y.mods = [⟨c.q.slba, (srcs.map (·.len)).sum⟩]
      ∧ y.rds = srcs.map (fun r => r.span c.q.nsid) ∧ y.rlidx = some r
      ∧ t.qce.locks = Tab.set s.qce.locks r ⟨c.q.nsid - 1, c.q.slba, (srcs.map (·.len)).sum, s.qce.fsn, k⟩
      ∧ (∀ j, j ≠ k → t.qce.ctx? j = s.qce.ctx? j)
      ∧ t = { s with hfu := t.hfu, qce := t.qce, tas := t.tas, out := t.out, fl := { s.fl with ptx := { s.fl.ptx with fdpLog := t.fl.ptx.fdpLog } } })

/-- Reservations change at the fetch of their own command: a host registers, acquires, releases, and the report shows what stands. The command ends at once, or behind those ahead of it in an ordered submission queue. It also rests on choices of the model, log entries 26, 197. -/
def Obligations.Reservations : Prop :=
  (∀ (s g : State) (c : IoCmd) (crkey nrkey k : Nat) (x : Ctx) (n : Ns),
    Safety.taken s g c .resv 0x0D k x → s.fl.attachedNs c.inst c.q.nsid = some n → c.q.resvAction = 0 → c.q.cptpl < 2 →
    (s.resvOf (c.q.nsid - 1)).registered (g.hostOf c.inst) = false →
    ∃ t, exec (.reservationRegister c crkey nrkey) s = .next t ∧ Safety.endsInTurn s t k x
      ∧ t.resvOf (c.q.nsid - 1) = { s.resvOf (c.q.nsid - 1) with
          regs := (s.resvOf (c.q.nsid - 1)).regs ++ [⟨g.hostOf c.inst, nrkey, c.inst⟩], gen := ((s.resvOf (c.q.nsid - 1)).gen + 1) % 2 ^ 32 }
      ∧ (∀ j, j ≠ c.q.nsid - 1 → t.resvOf j = s.resvOf j)
      ∧ t = { s with hfu := { s.hfu with ports := t.hfu.ports, resv := t.hfu.resv }, qce := t.qce, tas := t.tas, out := t.out })
  ∧ (∀ (s g : State) (c : IoCmd) (crkey prkey k : Nat) (x : Ctx) (n : Ns),
    Safety.taken s g c .resv 0x11 k x → s.fl.attachedNs c.inst c.q.nsid = some n → c.q.resvAction = 0 →
    1 ≤ c.q.resvType → c.q.resvType ≤ 6 → (s.resvOf (c.q.nsid - 1)).keyOf (g.hostOf c.inst) = some crkey →
    (s.resvOf (c.q.nsid - 1)).rtype = 0 →
    ∃ t, exec (.reservationAcquire c crkey prkey) s = .next t ∧ Safety.endsInTurn s t k x
      ∧ t.resvOf (c.q.nsid - 1) = { s.resvOf (c.q.nsid - 1) with rtype := c.q.resvType, holder := some (g.hostOf c.inst) }
      ∧ (∀ j, j ≠ c.q.nsid - 1 → t.resvOf j = s.resvOf j)
      ∧ t = { s with hfu := { s.hfu with ports := t.hfu.ports, resv := t.hfu.resv }, qce := t.qce, tas := t.tas, out := t.out })
  ∧ (∀ (s g : State) (c : IoCmd) (crkey k : Nat) (x : Ctx) (n : Ns),
    Safety.taken s g c .resv 0x15 k x → s.fl.attachedNs c.inst c.q.nsid = some n → c.q.resvAction = 0 →
    (s.resvOf (c.q.nsid - 1)).keyOf (g.hostOf c.inst) = some crkey → (s.resvOf (c.q.nsid - 1)).holds (g.hostOf c.inst) = true →
    (s.resvOf (c.q.nsid - 1)).rtype = c.q.resvType → c.q.resvType ≤ 2 →
    ∃ t, exec (.reservationRelease c crkey) s = .next t ∧ Safety.endsInTurn s t k x
      ∧ t.resvOf (c.q.nsid - 1) = { s.resvOf (c.q.nsid - 1) with rtype := 0, holder := none }
      ∧ (∀ j, j ≠ c.q.nsid - 1 → t.resvOf j = s.resvOf j)
      ∧ t = { s with hfu := { s.hfu with ports := t.hfu.ports, resv := t.hfu.resv }, qce := t.qce, tas := t.tas, out := t.out })
  ∧ (∀ (s g : State) (c : IoCmd) (k : Nat) (x : Ctx) (n : Ns),
    Safety.taken s g c .resv 0x0E k x → s.fl.attachedNs c.inst c.q.nsid = some n →
    ∃ t, exec (.reservationReport c) s = .next t ∧ Safety.endsInTurn s t k x
      ∧ t.out = (if x.ord && !(s.qce.predsCommitted x) then g.out
          else .data k (fit ((c.q.cdw10 + 1) * 4) ((s.resvOf (c.q.nsid - 1)).report (natBits c.q.cdw11 0 0 == 1))) :: g.out)
      ∧ t = { s with hfu := { s.hfu with ports := t.hfu.ports }, qce := t.qce, tas := t.tas, out := t.out })

/-- A command that a reservation of another host forbids ends with Reservation Conflict, and changes nothing on the namespace. It also rests on choices of the model, log entries 26, 40. -/
def Obligations.ReservationConflict : Prop :=
  ∀ (s g : State) (c : IoCmd) (k : Nat) (x : Ctx) (n : Ns),
    Safety.taken s g c .write 0x01 k x → s.fl.attachedNs c.inst c.q.nsid = some n →
    firstFailing (blockChecks true x (c.q.nsid - 1) n) = none → x.ord = false →
    (s.resvOf (c.q.nsid - 1)).rtype = 1 → (s.resvOf (c.q.nsid - 1)).holder ≠ some (g.hostOf c.inst) →
    ∃ t y, exec (.write c) s = .next t ∧ t.qce.ctx? k = some y ∧ y.state = .completing ∧ y.status = .conflict
      ∧ t.hfu.resv = s.hfu.resv ∧ (∀ j, j ≠ k → t.qce.ctx? j = s.qce.ctx? j)
      ∧ t = { s with hfu := t.hfu, qce := t.qce, out := t.out, fl := { s.fl with dip := t.fl.dip, mbe := t.fl.mbe, ptx := { s.fl.ptx with growths := Tab.erase s.fl.ptx.growths k } } }

/-- A command on blocks ends with the status of the first of its checks that fails; an unattached namespace comes before them. It also rests on choices of the model, log entry 26. -/
def Obligations.FirstFailingCheck : Prop :=
  ∀ (s g : State) (c : IoCmd) (i : Instr) (kd : Kind) (opc k : Nat) (mv : Bool) (x : Ctx),
    (i = .read c ∧ kd = .read ∧ opc = 0x02 ∧ mv = true ∨ i = .compare c ∧ kd = .compare ∧ opc = 0x05 ∧ mv = true
      ∨ i = .verify c ∧ kd = .verify ∧ opc = 0x0C ∧ mv = false ∨ i = .write c ∧ kd = .write ∧ opc = 0x01 ∧ mv = true
      ∨ i = .writeZeroes c ∧ kd = .zeroes ∧ opc = 0x08 ∧ mv = false ∨ i = .writeUncorrectable c ∧ kd = .uncorrectable ∧ opc = 0x04 ∧ mv = false) →
    Safety.taken s g c kd opc k x → x.ord = false →
    (s.fl.attachedNs c.inst c.q.nsid = none →
      ∃ t y, exec i s = .next t ∧ t.qce.ctx? k = some y ∧ y.state = .completing ∧ y.status = .invalidNs
        ∧ (∀ j, j ≠ k → t.qce.ctx? j = s.qce.ctx? j)
        ∧ t = { s with hfu := t.hfu, qce := t.qce, out := t.out, fl := { s.fl with dip := t.fl.dip, mbe := t.fl.mbe, ptx := { s.fl.ptx with growths := Tab.erase s.fl.ptx.growths k } } })
    ∧ ∀ n st, s.fl.attachedNs c.inst c.q.nsid = some n → firstFailing (blockChecks mv x (c.q.nsid - 1) n) = some st →
      ∃ t y, exec i s = .next t ∧ t.qce.ctx? k = some y ∧ y.state = .completing ∧ y.status = st
        ∧ (∀ j, j ≠ k → t.qce.ctx? j = s.qce.ctx? j)
        ∧ t = { s with hfu := t.hfu, qce := t.qce, out := t.out, fl := { s.fl with dip := t.fl.dip, mbe := t.fl.mbe, ptx := { s.fl.ptx with growths := Tab.erase s.fl.ptx.growths k } } }

/-- A Flush names its namespaces and covers every change up to its fetch; it goes to DATA without work units, and completes at once in protected mode. It also rests on choices of the model, log entry 26. -/
def Obligations.Flushes : Prop :=
  (∀ (s g : State) (c : IoCmd) (k : Nat) (x : Ctx) (n : Ns),
    Safety.taken s g c .flush 0x00 k x → s.fl.attachedNs c.inst c.q.nsid = some n → c.q.nsid ≠ 0xFFFFFFFF →
    (s.resvOf (c.q.nsid - 1)).conflict (g.hostOf c.inst) true = false →
    ∃ t y, exec (.flush c) s = .next t ∧ t.qce.ctx? k = some y
      ∧ y.state = .data ∧ y.nss = [c.q.nsid - 1] ∧ y.wsn = s.fl.ptx.wsn ∧ y.exempt = g.qce.unposted x ∧ y.arrived = !s.fl.ptx.unp
      ∧ (∀ j, j ≠ k → t.qce.ctx? j = s.qce.ctx? j) ∧ t.qce.locks = s.qce.locks
      ∧ t = { s with hfu := t.hfu, qce := t.qce, tas := t.tas, out := t.out })
  ∧ ∀ (s : State) (k : Nat) (x : Ctx),
    s.runs = true → Safety.calm s → s.qce.ctx? k = some x → x.kind = .flush → x.state = .data → x.side = false → x.detached = false → x.ord = false →
    (x.arrived = true ∨ s.fl.ptx.unp = false ∨ s.fl.programmed x.covers = true) →
    ∃ t y, exec (.flushComplete k) s = .next t ∧ t.qce.ctx? k = some y ∧ y.state = .completing ∧ y.status = .success
      ∧ (∀ j, j ≠ k → t.qce.ctx? j = s.qce.ctx? j) ∧ t = { s with qce := t.qce }

/-- Zones: an append that its zone accepts is assigned the blocks at the write pointer, which moves on, and waits for admission; an open zone with room accepts it, and one that is full, read-only, offline or too short does not, with its own status; a report is as of its own fetch; an action changes the zones at its fetch and unmaps what it clears at its commit point. It also rests on choices of the model, log entries 26, 59, 197. -/
def Obligations.Zones : Prop :=
  (∀ (s g : State) (c : IoCmd) (k lba bar : Nat) (x : Ctx) (n m : Ns) (fz : Flash),
    Safety.taken s g c .append 0x7D k x → Safety.permitted g c n .writes → n.zoned = true → n.zsze ≠ 0 → c.q.slba % n.zsze = 0 →
    firstFailing (blockChecks true x (c.q.nsid - 1) n) = none →
    s.fl.zoneWrite s.clock.now s.hours (c.q.nsid - 1) n (c.q.slba / n.zsze) none (c.q.nlb + 1) s.qce.fsn = .ok (fz, lba, bar) →
    fz.ns? (c.q.nsid - 1) = some m → s.tas.wcost ≠ 0 → Safety.unlocked s (c.q.nsid - 1) →
    ∃ t y r, exec (.zoneAppend c) s = .next t ∧ t.qce.ctx? k = some y
      ∧ y.state = .admitwait ∧ y.mods = [⟨lba, c.q.nlb + 1⟩] ∧ y.zone = some (c.q.slba / n.zsze) ∧ y.barchan = bar ∧ y.rlidx = some r
      ∧ t.qce.locks = Tab.set s.qce.locks r ⟨c.q.nsid - 1, lba, c.q.nlb + 1, s.qce.fsn, k⟩
      ∧ (∀ j, j ≠ k → t.qce.ctx? j = s.qce.ctx? j)
      ∧ t = { s with hfu := t.hfu, qce := t.qce, tas := t.tas, out := t.out, fl := fz })
  ∧ (∀ (f : Flash) (now hours nsx z blocks fsn : Nat) (n : Ns) (w : Zone),
    f.ns? nsx = some n → n.zone z = w → w.st.isOpen = true → w.wp + blocks < (z + 1) * n.zsze →
    ∃ fz m, f.zoneWrite now hours nsx n z none blocks fsn = .ok (fz, w.wp, w.barchan.getD 32)
      ∧ fz.ns? nsx = some m ∧ m.zone z = { w with wp := w.wp + blocks, fsn := fsn } ∧ (∀ q, q ≠ z → m.zone q = n.zone q)
      ∧ (∀ q, q ≠ nsx → fz.ns? q = f.ns? q) ∧ fz = { f with ptx := { f.ptx with nss := fz.ptx.nss } })
  ∧ (∀ (f : Flash) (now hours nsx z blocks fsn : Nat) (slba : Option Nat) (n : Ns),
    ((n.zone z).st = .full → f.zoneWrite now hours nsx n z slba blocks fsn = .error ⟨1, 0xB9, Config.dnr 1 0xB9⟩)
    ∧ ((n.zone z).st = .readOnly → f.zoneWrite now hours nsx n z slba blocks fsn = .error ⟨1, 0xBA, Config.dnr 1 0xBA⟩)
    ∧ ((n.zone z).st = .offline → f.zoneWrite now hours nsx n z slba blocks fsn = .error ⟨1, 0xBB, Config.dnr 1 0xBB⟩)
    ∧ ((n.zone z).st ≠ .full → (n.zone z).st ≠ .readOnly → (n.zone z).st ≠ .offline →
      (∀ l, slba = some l → l ≠ (n.zone z).wp → f.zoneWrite now hours nsx n z slba blocks fsn = .error ⟨1, 0xBC, Config.dnr 1 0xBC⟩)
      ∧ ((slba = none ∨ slba = some (n.zone z).wp) → (z + 1) * n.zsze < (n.zone z).wp + blocks →
          f.zoneWrite now hours nsx n z slba blocks fsn = .error ⟨1, 0xB8, Config.dnr 1 0xB8⟩)))
  ∧ (∀ (s g : State) (c : IoCmd) (k : Nat) (x : Ctx) (n : Ns),
    Safety.taken s g c .zoneRecv 0x7A k x → Safety.permitted g c n .reads → n.zoned = true → c.q.zoneRecvAction = 0 → c.q.reportOption ≤ 7 →
    c.q.slba < n.nsze →
    ∃ t, exec (.zoneManagementReceive c) s = .next t ∧ Safety.endsInTurn s t k x
      ∧ t.out = (if x.ord && !(s.qce.predsCommitted x) then g.out
          else .data k (n.zoneReport (c.q.slba / n.zsze) c.q.reportOption ((c.q.cdw12 + 1) * 4) c.q.partial') :: g.out)
      ∧ t = { s with hfu := t.hfu, qce := t.qce, tas := t.tas, out := t.out })
  ∧ (∀ (s g : State) (c : IoCmd) (k : Nat) (x : Ctx) (n m : Ns) (a : ZoneAct) (fz : Flash),
    Safety.taken s g c .zoneSend 0x79 k x → Safety.permitted g c n ⟨true, true, false⟩ → n.zoned = true → x.ord = false → s.handover = false →
    zoneActOf c.q.zoneAction = some a → (c.q.selectAll = false → c.q.slba < n.nsze ∧ c.q.slba % n.zsze = 0) → n.zsze ≠ 0 → n.nsze ≠ 0 →
    (∀ z ∈ n.actZones a (if c.q.selectAll then none else some (c.q.slba / n.zsze)), z * n.zsze < 2 ^ 48) →
    s.fl.zoneActs s.clock.now s.hours (c.q.nsid - 1) a (n.actZones a (if c.q.selectAll then none else some (c.q.slba / n.zsze))) = (fz, none) →
    fz.ns? (c.q.nsid - 1) = some m → Safety.unlocked s (c.q.nsid - 1) → (∀ e ∈ s.qce.ctxs, e.2.kind.reads = false) →
    ∃ t y w, exec (.zoneManagementSend c) s = .next t ∧ t.qce.ctx? k = some y ∧ y.state = .completing ∧ y.status = .success
      ∧ t.fl = fz.recordedBy s.clock.now (c.q.nsid - 1) m w ∧ w.kind = .zoneSend
      ∧ w.rds = (if a.clears then (n.actZones a (if c.q.selectAll then none else some (c.q.slba / n.zsze))).map (fun z => ⟨z * n.zsze, n.zsze⟩) else [])
      ∧ (a.clears = false → t.fl.ptx.nss = fz.ptx.nss ∧ t.fl.ptx.map = fz.ptx.map ∧ t.fl.mbe = fz.mbe) ∧ (∀ l ∈ t.qce.locks, l.2.ctx ≠ k)
      ∧ (∀ j, j ≠ k → t.qce.ctx? j = s.qce.ctx? j)
      ∧ t = { s with hfu := t.hfu, qce := t.qce, tas := t.tas, out := t.out, fl := t.fl })
  ∧ ∀ (f : Flash) (now hours nsx z : Nat) (n : Ns), f.ns? nsx = some n →
    ((n.zone z).st = .implicitOpen → f.zoneActs now hours nsx .open' [z] = (f.setZone nsx z { n.zone z with st := .explicitOpen }, none))
    ∧ ((n.zone z).st = .empty → f.zoneActs now hours nsx .finish [z] = (f.setZone nsx z { n.zone z with st := .full, wp := (z + 1) * n.zsze }, none))
    ∧ ((n.zone z).st = .full →
        f.zoneActs now hours nsx .reset' [z] = (f.setZone nsx z { n.zone z with st := .empty, wp := z * n.zsze, barchan := none }, none))
    ∧ ((n.zone z).st = .readOnly → f.zoneActs now hours nsx .offline [z] = (f.setZone nsx z { n.zone z with st := .offline }, none))
    ∧ ∀ a : ZoneAct, ((n.zone z).st = .offline → f.zoneActs now hours nsx a [z] = (f, some ⟨1, 0xBB, Config.dnr 1 0xBB⟩))
      ∧ ((n.zone z).st = .readOnly → a ≠ .offline → f.zoneActs now hours nsx a [z] = (f, some ⟨1, 0xBA, Config.dnr 1 0xBA⟩))

/-- Placement handles: a Reclaim Unit Handle Update ends the unit of each named handle, a handle that fills no unit staying as it is, and the status command returns a descriptor for each; both end at once, or behind those ahead of them in an ordered submission queue. It also rests on choices of the model, log entries 26, 197. -/
def Obligations.PlacementHandles : Prop :=
  (∀ (s g : State) (c : IoCmd) (handles : List Nat) (k : Nat) (x : Ctx) (n : Ns),
    Safety.taken s g c .ioMgmt 0x1D k x → Safety.permitted g c n ⟨true, false, false⟩ → natBits c.q.cdw10 7 0 = 1 → s.fl.ptx.fdp = true →
    (∀ h ∈ handles, h < n.handles.length) →
    ∃ t, exec (.ioManagementSend c handles) s = .next t ∧ Safety.endsInTurn s t k x
      ∧ t.fl = (if x.ord && !(s.qce.predsCommitted x) then s.fl
          else (handles.map fun h => n.handles.getD h 0).foldl (fun f h => f.updateHandle s.clock.now s.hours h) s.fl)
      ∧ t = { s with hfu := t.hfu, qce := t.qce, tas := t.tas, out := t.out, fl := t.fl })
  ∧ (∀ (f : Flash) (now hours h : Nat),
    (Tab.get? f.ptx.filling (3072 + h) = none → f.updateHandle now hours h = f)
    ∧ (f.updateHandle now hours h).ptx.filling = (f.endUnit now hours (3072 + h)).1.ptx.filling
    ∧ ((f.endUnit now hours (3072 + h)).2 = false → f.updateHandle now hours h = (f.endUnit now hours (3072 + h)).1))
  ∧ ∀ (s g : State) (c : IoCmd) (k : Nat) (x : Ctx) (n : Ns),
    Safety.taken s g c .ioMgmt 0x12 k x → Safety.permitted g c n .reads → natBits c.q.cdw10 7 0 = 1 → s.fl.ptx.fdp = true →
    ∃ t, exec (.ioManagementReceive c) s = .next t ∧ Safety.endsInTurn s t k x
      ∧ t.out = (if x.ord && !(s.qce.predsCommitted x) then g.out else .data k (fit ((c.q.cdw11 + 1) * 4) (s.fl.handleStatus n)) :: g.out)
      ∧ t = { s with hfu := t.hfu, qce := t.qce, tas := t.tas, out := t.out }

/-- Parity Compute: the checked job waits in ADMITWAIT without an entry; the next in the rotation starts and its context is in DATA; a job not started in time is deferred; a running one writes its outputs, or with VERIFY names the first byte that differs. It also rests on choices of the model, log entry 26. -/
def Obligations.ParityCompute : Prop :=
  (∀ (s g : State) (c : IoCmd) (d : PcDesc) (k : Nat) (x : Ctx),
    Safety.taken s g c .parity 0x83 k x → x.fab = false → s.fl.dip.regs.bit .dipPccfg 31 = true → d.ok = true → d.aligned = true → c.q.dptr0 % 4096 = 0 →
    c.q.nsid = 0 → c.q.cdw10 = 0 → c.q.cdw11 = 0 → c.q.cdw12 = 0 → c.q.cdw13 = 0 → c.q.cdw14 = 0 → c.q.cdw15 = 0 → c.q.psdt = 0 →
    ∃ t y, exec (.parityCompute c d) s = .next t ∧ t.qce.ctx? k = some y ∧ y.state = .admitwait ∧ t.qce.locks = s.qce.locks
      ∧ Tab.get? t.fl.dip.pcJobs k = some ⟨k, c.inst, s.qce.fsn, d, s.clock.now, false⟩
      ∧ (∀ j, j ≠ k → t.qce.ctx? j = s.qce.ctx? j ∧ Tab.get? t.fl.dip.pcJobs j = Tab.get? s.fl.dip.pcJobs j)
      ∧ t = { s with hfu := t.hfu, qce := t.qce, tas := t.tas, out := t.out, fl := { s.fl with dip := { s.fl.dip with pcJobs := t.fl.dip.pcJobs } } })
  ∧ (∀ (s : State) (k : Nat) (j : PcJob) (x : Ctx),
    s.runs = true → s.fl.dip.pcNext = some (k, j) → s.qce.ctx? k = some x → x.open' = true → s.fl.engineFree = true → s.pcFits j = true →
    ∃ t, exec .parityJobStart s = .next t ∧ t.qce.ctx? k = some { x with state := .data } ∧ (∀ i, i ≠ k → t.qce.ctx? i = s.qce.ctx? i)
      ∧ Tab.get? t.fl.dip.pcJobs k = some { j with running := true } ∧ t.fl.dip.lastPc = j.inst
      ∧ t = { s with qce := { s.qce with ctxs := t.qce.ctxs }, fl := { s.fl with dip := { s.fl.dip with pcJobs := t.fl.dip.pcJobs, lastPc := j.inst } } })
  ∧ (∀ (s : State) (k : Nat) (j : PcJob) (x : Ctx),
    s.runs = true → Safety.calm s → Tab.get? s.fl.dip.pcJobs k = some j → j.running = false → s.qce.ctx? k = some x → x.open' = true →
    x.side = false → x.detached = false → x.zone = none → x.ord = false →
    j.fetchedAt + s.fl.dip.regs.fld .dipPccfg 15 0 * msT ≤ s.clock.now →
    ∃ t y, exec (.parityJobTimeout k) s = .next t ∧ t.qce.ctx? k = some y ∧ y.state = .completing ∧ y.status = ⟨7, 0x8C, false⟩
      ∧ (∀ i, i ≠ k → t.qce.ctx? i = s.qce.ctx? i) ∧ t.fl.ptx = { s.fl.ptx with growths := Tab.erase s.fl.ptx.growths k }
      ∧ t = { s with qce := t.qce, fl := t.fl })
  ∧ (∀ (s : State) (k : Nat) (j : PcJob) (x : Ctx) (inputs outputs : List (List Nat)),
    s.runs = true → Safety.calm s → Tab.get? s.fl.dip.pcJobs k = some j → j.running = true → s.qce.ctx? k = some x → x.open' = true →
    x.side = false → x.detached = false → j.desc.flags ≠ 1 → j.desc.overlap = false →
    ∃ t y, exec (.parityJobDone k inputs outputs) s = .next t ∧ t.qce.ctx? k = some y ∧ y.state = .completing ∧ y.status = .success
      ∧ t.out = .data k ((j.desc.outputs inputs).flatMap fun o => o.map fun b => BitVec.ofNat 8 b) :: s.out
      ∧ (∀ i, i ≠ k → t.qce.ctx? i = s.qce.ctx? i) ∧ t = { s with qce := t.qce, out := t.out })
  ∧ ∀ (s : State) (k o b : Nat) (j : PcJob) (x : Ctx) (inputs outputs : List (List Nat)),
    s.runs = true → Safety.calm s → Tab.get? s.fl.dip.pcJobs k = some j → j.running = true → s.qce.ctx? k = some x → x.open' = true →
    x.side = false → x.detached = false → x.zone = none → x.ord = false → j.desc.flags = 1 →
    firstDiff (j.desc.outputs inputs) outputs = some (b, o) →
    ∃ t y, exec (.parityJobDone k inputs outputs) s = .next t ∧ t.qce.ctx? k = some y ∧ y.state = .completing ∧ y.status = .compareFailure
      ∧ y.dw0 = b ∧ y.dw1 = o ∧ (∀ i, i ≠ k → t.qce.ctx? i = s.qce.ctx? i) ∧ t.fl.ptx = { s.fl.ptx with growths := Tab.erase s.fl.ptx.growths k }
      ∧ t = { s with qce := t.qce, fl := t.fl }

/-- The choice of a queue holds contexts for what one read may take; TAS lets the chosen command in, and a read goes to TRANSLATE under its waymark; a freed entry goes to the waiting command with the lowest FSN. It also rests on choices of the model, log entries 38, 39. -/
def Obligations.FetchAndAdmission : Prop :=
  (∀ (s : State) (inst qid : Nat) (d : Tab Int) (place : Nat) (credits : Tab Nat) (i : Inst) (q : Sq),
    s.fetches = true → s.qce.turn (fun i => ((Tab.get? s.tas.insts i).map (·.cur.weight)).getD 64) = some (inst, d) → s.qce.inst? inst = some i →
    s.qce.sqTurn inst i = some (qid, place, credits) → s.qce.sq? inst qid = some q →
    ∃ t r n, exec .sqFetchIssue s = .next t ∧ r = min n q.reserve
      ∧ (i.eth = false → n = min (q.readable i.burst) (s.qce.obtainable inst qid)
        ∧ t.qce.sq? inst qid = some { q with reads := q.reads ++ [n], reserve := q.reserve - r, heldRes := q.heldRes + r, heldSh := q.heldSh + (n - r) })
      ∧ (i.eth = true → n = min (min i.burst q.capsules.length) (s.qce.obtainable inst qid)
        ∧ t.qce.sq? inst qid = some { q with capsules := q.capsules.drop n, heldBytes := q.heldBytes ++ q.capsules.take n, reserve := q.reserve - r, heldRes := q.heldRes + r, heldSh := q.heldSh + (n - r) })
      ∧ Tab.getD t.qce.deficit inst 0 = Tab.getD d inst 0 - (fetchCost * n : Nat) ∧ Tab.getD t.qce.lastSq place 511 = qid
      ∧ t.qce.ctxs = s.qce.ctxs ∧ t.qce.insts = s.qce.insts ∧ t.qce.cqs = s.qce.cqs ∧ t.qce.locks = s.qce.locks
      ∧ (∀ k, k ≠ qKey inst qid → Tab.get? t.qce.sqs k = Tab.get? s.qce.sqs k) ∧ t = { s with qce := t.qce })
  ∧ (∀ (s : State) (k : Cand) (x : Ctx) (i : Instr),
    i = .admitCommand → s.runs = true → Safety.calm s → s.tas.pick s.inWindow s.oasisLoad s.fl.ptx.limit s.cands = some k → s.qce.ctx? k.ctx = some x →
    x.kind = .read ∨ x.kind = .compare ∨ x.kind = .verify → x.side = false → x.detached = false → x.rlWait = false →
    ∃ t y, exec i s = .next t ∧ t.qce.ctx? k.ctx = some y ∧ y.state = .translate ∧ y.admitted = true ∧ y.waymark = s.waymarkOf x
      ∧ y.wu = (s.cost x).1 ∧ y.rds = x.rds ∧ y.mods = x.mods ∧ (∀ j, j ≠ k.ctx → t.qce.ctx? j = s.qce.ctx? j)
      ∧ t = { s with qce := { s.qce with ctxs := t.qce.ctxs, shut := t.qce.shut }, tas := t.tas })
  ∧ ∀ (s : State) (c nsx lo len : Nat) (x : Ctx) (n : Ns),
    s.runs = true → s.sec.sanitize = none → s.qce.ctxs = [(c, x)] → x.rlWait = true → x.state = .fetched → x.kind = .write → x.side = false → x.detached = false →
    x.nsx = some nsx → x.mods = [⟨lo, len + 1⟩] → x.rds = [] → s.fl.ns? nsx = some n → s.tas.wcost ≠ 0 → Safety.unlocked s nsx →
    ∃ t y r, exec .rangeLockEntryGrant s = .next t ∧ t.qce.ctx? c = some y ∧ y.state = .admitwait ∧ y.rlWait = false ∧ y.rlidx = some r
      ∧ t.qce.locks = Tab.set s.qce.locks r ⟨nsx, lo, len + 1, x.fsn, c⟩
      ∧ t = { s with qce := { s.qce with ctxs := t.qce.ctxs, locks := t.qce.locks }, tas := t.tas }

/-- A read's way (R17, R18): translation finds its blocks in the Oasis, unmapped, lost, or asks the media for the frame; the data reaches a read lane; the lane decrypts and the checker passes it; the transfer hands its blocks to the host and ends it. -/
def Obligations.ReadPath : Prop :=
  (∀ (s : State) (k nsx : Nat) (x : Ctx) (n : Ns) (r : Translated),
    s.runs = true → Safety.still s → s.qce.ctx? k = some x → x.state = .translate → x.nsx = some nsx → s.fl.ns? nsx = some n → x.encrypted = false → x.rlWait = false →
    x.side = false → x.detached = false → r = s.translate n nsx (lbasOf x.rds) →
    (r.lost = false → r.media = [] →
      ∃ t, exec (.translateComplete k) s = .next t ∧ t.qce.ctx? k = some { x with state := .data, cells := r.cells, arrived := !r.oasis }
        ∧ (∀ j, j ≠ k → t.qce.ctx? j = s.qce.ctx? j)
        ∧ t = { s with qce := { s.qce with ctxs := t.qce.ctxs }, fl := { s.fl with ptx := { s.fl.ptx with cache := t.fl.ptx.cache } } })
    ∧ (r.lost = true → x.ord = false → x.zone = none →
      ∃ t y, exec (.translateComplete k) s = .next t ∧ t.qce.ctx? k = some y ∧ y.state = .completing ∧ y.status = .unrecovered true
        ∧ t.fl.ptx = { s.fl.ptx with cache := t.fl.ptx.cache, mediaErrors := s.fl.ptx.mediaErrors + 1, growths := Tab.erase s.fl.ptx.growths k }
        ∧ (∀ j, j ≠ k → t.qce.ctx? j = s.qce.ctx? j) ∧ t = { s with qce := t.qce, fl := t.fl })
    ∧ ∀ l loc, r.lost = false → r.media = [(l, loc)] → s.fl.lostUnit (loc / 2 ^ 27) (loc / 2 ^ 15 % 4096) = false →
      ∃ t y j, exec (.translateComplete k) s = .next t ∧ t.qce.ctx? k = some y ∧ y.state = .media ∧ y.frames = [(l, dieCluster (loc / 2 ^ 27))] ∧ y.cells = r.cells
        ∧ Tab.get? t.fl.dip.jobs s.fl.ptx.nextId = some j ∧ j.purpose = .host k l ∧ j.loc = loc ∧ j.waymark = some (x.waymark % 2 ^ 32) ∧ j.stage = .queued
        ∧ (t.fl.die j.die).host = (s.fl.die j.die).host ++ [s.fl.ptx.nextId]
        ∧ (∀ j, j ≠ k → t.qce.ctx? j = s.qce.ctx? j)
        ∧ t = { s with qce := { s.qce with ctxs := t.qce.ctxs }, fl := { s.fl with ptx := t.fl.ptx, dip := { s.fl.dip with jobs := t.fl.dip.jobs }, mbe := t.fl.mbe } })
  ∧ (∀ (s : State) (k : Nat) (x : Ctx), s.runs = true → Safety.calm s → s.qce.ctx? k = some x → x.kind.reads = true → x.state = .media ∨ x.state = .data →
    ∃ t, exec (.oasisReadComplete k) s = .next t ∧ t.qce.ctx? k = some { x with arrived := true } ∧ (∀ j, j ≠ k → t.qce.ctx? j = s.qce.ctx? j)
      ∧ t = { s with qce := { s.qce with ctxs := t.qce.ctxs } })
  ∧ (∀ (s : State) (k nsx lane : Nat) (x : Ctx) (n : Ns) (bs : List LBlock),
    s.runs = true → Safety.calm s → s.qce.ctx? k = some x → x.nsx = some nsx → s.fl.ns? nsx = some n → x.kind = .read → x.state = .data → x.arrived = true →
    x.encrypted = false → x.recorded = false → x.ord = false → x.side = false → x.detached = false →
    (s.decrypt x n = .ok bs → n.piStatus x.prchk x.lbat x.lbatm x.ilbrt bs = none →
      ∃ t, exec (.xtsDecryptDone k .ok) s = .next t
        ∧ t.qce.ctx? k = some { x with blocks := if x.pract && n.pit != 0 then bs.map fun b => { b with pi := ⟨0, 0, 0, 0⟩ } else bs, encrypted := true, recorded := true }
        ∧ (∀ j, j ≠ k → t.qce.ctx? j = s.qce.ctx? j) ∧ t = { s with qce := { s.qce with ctxs := t.qce.ctxs } })
    ∧ (s.decrypt x n = .error .keyNotLoaded → x.zone = none →
      ∃ t y, exec (.xtsDecryptDone k .ok) s = .next t ∧ t.qce.ctx? k = some y ∧ y.state = .completing ∧ y.status = .keyNotLoaded
        ∧ (∀ j, j ≠ k → t.qce.ctx? j = s.qce.ctx? j) ∧ t.fl.ptx = { s.fl.ptx with growths := Tab.erase s.fl.ptx.growths k } ∧ t = { s with qce := t.qce, fl := t.fl })
    ∧ ∀ c, c = ({ s.sec with regs := s.sec.regs.setFld .secXtsstat 30 30 1 } : Sec).fence false lane → c.allFenced false = false →
      exec (.xtsDecryptDone k (.mismatch lane)) s = .next { s with sec := c, fev := s.fev.report (c.fenceReport false lane) s.stamp })
  ∧ ∀ (s : State) (k : Nat) (x : Ctx), s.runs = true → Safety.calm s → s.qce.ctx? k = some x → x.kind = .read → x.state = .data → x.recorded = true →
    x.side = false → x.detached = false →
    ∃ t y, exec (.hostDataTransferDone k) s = .next t ∧ t.qce.ctx? k = some y ∧ y.state = .completing ∧ y.status = .success ∧ t.out = .blocks k x.blocks :: s.out
      ∧ (∀ j, j ≠ k → t.qce.ctx? j = s.qce.ctx? j) ∧ t = { s with qce := t.qce, out := t.out }

/-- A write's way (R19): its host data arrives and passes the checker; a held write goes on when there is room; the lane encrypts, the change is recorded and the command completes; a fenced lane is reported; a FUA write completes once it is durable. It also rests on choices of the model, log entry 39. -/
def Obligations.WritePath : Prop :=
  (∀ (s : State) (k nsx : Nat) (x : Ctx) (n : Ns) (bs : List LBlock),
    s.runs = true → Safety.calm s → s.qce.ctx? k = some x → x.nsx = some nsx → s.fl.ns? nsx = some n → bs.length = x.nlb + 1 →
    (x.kind = .write ∨ x.kind = .append → x.state = .data → x.arrived = false → x.spaceWait = false →
      (s.fl.room (s.cost x).2.2 = false → ∃ t, exec (.writeDataArrival k bs) s = .next t ∧ t.qce.ctx? k = some { x with spaceWait := true }
          ∧ (∀ j, j ≠ k → t.qce.ctx? j = s.qce.ctx? j) ∧ t = { s with qce := { s.qce with ctxs := t.qce.ctxs } })
      ∧ (∀ out, s.fl.room (s.cost x).2.2 = true → n.checkWrite x.pract x.prchk x.lbat x.lbatm (x.refFor n) (x.sqe.storageTag n.lbaf) bs = .ok out →
        ∃ t, exec (.writeDataArrival k bs) s = .next t ∧ t.qce.ctx? k = some { x with blocks := out, arrived := true, done := n.units x.mods }
          ∧ (∀ j, j ≠ k → t.qce.ctx? j = s.qce.ctx? j) ∧ t = { s with qce := { s.qce with ctxs := t.qce.ctxs } })
      ∧ ∀ st : Status, s.fl.room (s.cost x).2.2 = true → n.checkWrite x.pract x.prchk x.lbat x.lbatm (x.refFor n) (x.sqe.storageTag n.lbaf) bs = .error st → st.isOk = false → ¬ (st.sct = 2 ∧ st.sc = 0x81) →
          x.side = false → x.detached = false → x.zone = none → x.ord = false →
        ∃ t y, exec (.writeDataArrival k bs) s = .next t ∧ t.qce.ctx? k = some y ∧ y.state = .completing ∧ y.status = st
          ∧ (∀ j, j ≠ k → t.qce.ctx? j = s.qce.ctx? j) ∧ t.fl.ptx = { s.fl.ptx with growths := Tab.erase s.fl.ptx.growths k }
          ∧ t = { s with qce := t.qce, fl := t.fl })
    ∧ (x.kind = .compare → x.open' = true → x.given = none → x.state = .data →
      ∃ t, exec (.writeDataArrival k bs) s = .next t ∧ t.qce.ctx? k = some { x with given := some bs }
        ∧ (∀ j, j ≠ k → t.qce.ctx? j = s.qce.ctx? j) ∧ t = { s with qce := { s.qce with ctxs := t.qce.ctxs } }))
  ∧ (∀ (s : State) (k : Nat) (x : Ctx), s.runs = true → Safety.calm s → s.qce.ctx? k = some x → x.spaceWait = true → s.fl.room (s.cost x).2.2 = true →
    ∃ t, exec (.oasisSpaceWaitRelease k) s = .next t ∧ t.qce.ctx? k = some { x with spaceWait := false }
      ∧ (∀ j, j ≠ k → t.qce.ctx? j = s.qce.ctx? j) ∧ t = { s with qce := { s.qce with ctxs := t.qce.ctxs } })
  ∧ (∀ (s : State) (k nsx lane : Nat) (x : Ctx) (n : Ns) (bs : List LBlock),
    s.runs = true → Safety.calm s → s.qce.ctx? k = some x → x.nsx = some nsx → s.fl.ns? nsx = some n → x.state = .data →
    x.kind = .copy ∧ x.given = some bs ∧ s.fl.room (s.cost x).2.2 = true ∨ (x.kind = .write ∨ x.kind = .append) ∧ x.arrived = true ∧ x.blocks = bs →
    x.spaceWait = false →
    x.encrypted = false → x.recorded = false → x.ord = false → x.side = false → x.detached = false →
    (∀ key, Tab.get? s.sec.keys x.keyslot = some key → s.qce.readBefore x = false → s.fl.ptx.wprot = false → x.fua = false ∨ s.fl.ptx.unp = false →
      ∃ t y, exec (.xtsEncryptDone k .ok) s = .next t ∧ t.qce.ctx? k = some y ∧ y.state = .completing ∧ y.status = .success ∧ y.recorded = true
        ∧ y.wsn = s.fl.ptx.wsn + 1 ∧ y.cells = encryptBlocks key x.keyslot x.slba bs
        ∧ t.fl = s.fl.recordedBy s.clock.now nsx n { x with cells := y.cells, encrypted := true, oas := true }
        ∧ t.qce.locks = Tab.keep s.qce.locks (fun _ l => l.ctx != k) ∧ (∀ j, j ≠ k → t.qce.ctx? j = s.qce.ctx? j) ∧ t = { s with qce := t.qce, fl := t.fl })
    ∧ (Tab.get? s.sec.keys x.keyslot = none → x.zone = none →
      ∃ t y, exec (.xtsEncryptDone k .ok) s = .next t ∧ t.qce.ctx? k = some y ∧ y.state = .completing ∧ y.status = .keyNotLoaded
        ∧ (∀ j, j ≠ k → t.qce.ctx? j = s.qce.ctx? j) ∧ t.fl.ptx = { s.fl.ptx with growths := Tab.erase s.fl.ptx.growths k }
          ∧ t = { s with qce := t.qce, fl := t.fl })
    ∧ ∀ c, c = ({ s.sec with regs := s.sec.regs.setFld .secXtsstat 30 30 1 } : Sec).fence true lane → c.allFenced true = false →
      exec (.xtsEncryptDone k (.mismatch lane)) s = .next { s with sec := c, fev := s.fev.report (c.fenceReport true lane) s.stamp })
  ∧ ∀ (s : State) (k : Nat) (x : Ctx), s.runs = true → Safety.calm s → s.qce.ctx? k = some x → x.fua = true → x.recorded = true → x.state = .data →
    x.kind.modifies = true → s.fl.ptx.unp = false ∨ s.fl.programmed (fun nsx w => some nsx == x.nsx && w == x.wsn) = true → x.side = false → x.detached = false →
    ∃ t y, exec (.fuaWriteComplete k) s = .next t ∧ t.qce.ctx? k = some y ∧ y.state = .completing ∧ y.status = .success
      ∧ (∀ j, j ≠ k → t.qce.ctx? j = s.qce.ctx? j) ∧ t = { s with qce := t.qce }

/-- A completion entry goes into its queue with its interrupt, and its context is free (R83, R89 to R91); a vector held back by coalescing signals when its time has passed (R92); a masked vector's message waits, and is sent when the vector is unmasked. It also rests on choices of the model, log entry 26. -/
def Obligations.Completions : Prop :=
  (∀ (s : State) (inst cqid k : Nat) (x : Ctx) (i : Inst) (cq : Cq) (sq : Sq),
    s.runs = true → Safety.calm s → s.mgc.postHold ≤ s.clock.now → s.qce.nextToPost inst cqid = some (k, x) → s.qce.inst? inst = some i →
    s.qce.cq? inst cqid = some cq → s.qce.sq? inst x.sqid = some sq → x.inst = inst → x.side = false → x.detached = false → cq.hasRoom = true → i.state = .ready → x.adm = false →
    ∃ t, exec (.cqePost inst cqid) s = .next t ∧ t.qce.ctx? k = none ∧ t.qce.cq? inst cqid = some cq.push
      ∧ t.qce.sq? inst x.sqid = some { sq with reserve := min sq.reserveMax (sq.reserve + 1) }
      ∧ (i.eth = true ∨ cq.vector = none → t.out = .cqe inst cqid (x.entry sq cq) :: s.out)
      ∧ (∀ v w, i.eth = false → cq.vector = some v → Tab.get? i.vectors v = some w → w.cd = true →
        (i.sends = true → i.holdsBack w = false → t.out = .interrupt inst (i.message v) :: .cqe inst cqid (x.entry sq cq) :: s.out)
        ∧ (i.sends = false ∨ i.holdsBack w = true → t.out = .cqe inst cqid (x.entry sq cq) :: s.out))
      ∧ t.qce.locks = s.qce.locks ∧ t = { s with qce := t.qce, hist := t.hist, tas := t.tas, fl := t.fl, out := t.out })
  ∧ (∀ (s : State) (inst vector thr time : Nat) (i : Inst) (v : Vector'),
    s.runs = true → s.qce.inst? inst = some i → Tab.get? i.vectors vector = some v → i.coalesce v = some (thr, time) → 0 < v.unsignalled →
    v.firstAt + time ≤ s.clock.now →
    ∃ t, exec (.interruptCoalesceTimeout inst vector) s = .next t
      ∧ t.qce.inst? inst = some { i with vectors := Tab.set i.vectors vector { v with unsignalled := 0, pending := i.sends && i.holdsBack v || v.pending } }
      ∧ t.out = (if i.sends && !i.holdsBack v then .interrupt inst (i.message vector) :: s.out else s.out)
      ∧ t = { s with qce := { s.qce with insts := t.qce.insts }, out := t.out })
  ∧ ∀ (s : State) (inst : Nat) (i : Inst), s.runs = true → s.qce.inst? inst = some i → i.eth = false →
    (∀ (n : Nat) (m : Bool), n ≤ i.allot → ∃ t j v, exec (.msixVectorUnmask inst (.vector n m)) s = .next t ∧ t.qce.inst? inst = some j ∧ j.irq = i.irq
      ∧ Tab.get? j.vectors n = some v ∧ v.masked = m ∧ (j.sends = true → v.pending = true → j.holdsBack v = true)
      ∧ (i.irq.msix = true → i.irq.fmask = false → m = false → (Tab.getD i.vectors n Vector'.fresh).pending = true → .interrupt inst n ∈ t.out)
      ∧ t = { s with qce := { s.qce with insts := t.qce.insts }, out := t.out })
    ∧ (∀ v : Nat, i.irq.msi = true → i.irq.msix = false → ∃ t j, exec (.msixVectorUnmask inst (.intms v)) s = .next t ∧ t.qce.inst? inst = some j
      ∧ j.irq = { i.irq with intm := i.irq.intm ||| v } ∧ t = { s with qce := { s.qce with insts := t.qce.insts }, out := t.out })
    ∧ (∀ v : Nat, i.irq.msi = true → i.irq.msix = false → ∃ t j, exec (.msixVectorUnmask inst (.intmc v)) s = .next t ∧ t.qce.inst? inst = some j
      ∧ j.irq = { i.irq with intm := (i.irq.intm ||| v) ^^^ v } ∧ (∀ n w, Tab.get? j.vectors n = some w → j.sends = true → w.pending = true → j.holdsBack w = true)
      ∧ t = { s with qce := { s.qce with insts := t.qce.insts }, out := t.out })
    ∧ ∀ w : IntWrite, i.irq.msix = true → (∀ n m, w ≠ .vector n m) → ∃ t j, exec (.msixVectorUnmask inst w) s = .next t ∧ t.qce.inst? inst = some j ∧ j.irq = i.irq

/-- Queues and the ends of commands (R74, R93, R98, R105): Create and Delete within the limits, and outside them; an Abort of a command that can still be ended, and of one that is not there; a request for events waits; Keep Alive restarts the timer. It also rests on choices of the model, log entry 26. -/
def Obligations.QueueCommands : Prop :=
  (∀ (s g : State) (a : AdminCmd) (k : Nat) (x : Ctx) (i : Inst), Safety.adminTaken s g a 0x05 .pcie k x → s.qce.inst? a.inst = some i →
    (a.q.qid ≠ 0 → a.q.qid ≤ i.allot → s.qce.cq? a.inst a.q.qid = none → a.q.qsize ≠ 0 → a.q.pc = true → a.q.iv ≤ i.allot →
      ∃ t, exec (.createIoCq a) s = .next t ∧ Safety.completed s t k .success 0
        ∧ t.qce.cqs = Tab.set s.qce.cqs (qKey a.inst a.q.qid) ⟨a.q.qsize + 1, 0, 0, true, if a.q.ien then some a.q.iv else none⟩ ∧ Safety.onlyQueues s t)
    ∧ (a.q.qid = 0 ∨ i.allot < a.q.qid ∨ (s.qce.cq? a.inst a.q.qid).isSome = true →
      ∃ t, exec (.createIoCq a) s = .next t ∧ Safety.turnedAway s t k (stat 1 0x01)))
  ∧ (∀ (s g : State) (a : AdminCmd) (k : Nat) (x : Ctx) (i : Inst), Safety.adminTaken s g a 0x01 .pcie k x → s.qce.inst? a.inst = some i →
    a.q.qid ≠ 0 → a.q.qid ≤ i.allot → g.qce.sq? a.inst a.q.qid = none → a.q.qsize ≠ 0 → a.q.pc = true →
    (a.q.cqid ≠ 0 → (s.qce.cq? a.inst a.q.cqid).isSome = true →
      ∃ t, exec (.createIoSq a) s = .next t ∧ Safety.completed s t k .success 0
        ∧ t.qce.sq? a.inst a.q.qid = some (Sq.fresh (a.q.qsize + 1) a.q.cqid a.q.qprio s.qce.rsvio (s.lcdef a.inst) true)
        ∧ t.qce.cqs = s.qce.cqs ∧ Safety.onlyQueues s t)
    ∧ (a.q.cqid = 0 ∨ s.qce.cq? a.inst a.q.cqid = none →
      ∃ t, exec (.createIoSq a) s = .next t ∧ Safety.turnedAway s t k (stat 1 0x00)))
  ∧ (∀ (s g : State) (a : AdminCmd) (k : Nat) (x : Ctx), Safety.adminTaken s g a 0x04 .pcie k x → a.q.qid ≠ 0 → (s.qce.cq? a.inst a.q.qid).isSome = true →
    ((g.qce.sqs.any fun e => e.1 / 512 == a.inst && e.1 % 512 != 0 && e.2.cq == a.q.qid) = false →
      ∃ t, exec (.deleteIoCq a) s = .next t ∧ Safety.completed s t k .success 0 ∧ t.qce.cqs = Tab.erase s.qce.cqs (qKey a.inst a.q.qid) ∧ Safety.onlyQueues s t)
    ∧ ((g.qce.sqs.any fun e => e.1 / 512 == a.inst && e.1 % 512 != 0 && e.2.cq == a.q.qid) = true →
      ∃ t, exec (.deleteIoCq a) s = .next t ∧ Safety.turnedAway s t k (stat 1 0x0C)))
  ∧ (∀ (s g : State) (a : AdminCmd) (k : Nat) (x : Ctx) (q : Sq), Safety.adminTaken s g a 0x00 .pcie k x → a.q.qid ≠ 0 → g.qce.sq? a.inst a.q.qid = some q →
    g.qce.inSq a.inst a.q.qid = [] →
    ∃ t, exec (.deleteIoSq a) s = .next t ∧ Safety.completed s t k .success 0 ∧ t.qce.sq? a.inst a.q.qid = some { q.dropReads with deleting := true }
      ∧ t.qce.cqs = s.qce.cqs ∧ Safety.onlyQueues s t)
  ∧ (∀ (s g : State) (a : AdminCmd) (k : Nat) (x : Ctx), Safety.adminTaken s g a 0x08 .every k x → g.qce.abortsOut a.inst k < 32 →
    (g.qce.abortTarget a.inst a.q.abortSq a.q.abortCid = none →
      ∃ t, exec (.abort a) s = .next t ∧ Safety.completed s t k .success 1 ∧ t.qce.sqs = g.qce.sqs ∧ t.qce.cqs = s.qce.cqs ∧ Safety.onlyQueues s t)
    ∧ ∀ j y, g.qce.abortTarget a.inst a.q.abortSq a.q.abortCid = some (j, y) → s.qce.ctx? j = some y → y.state = .admitwait → y.ord = false → y.zone = none →
      y.side = false → y.detached = false →
      ∃ t u v, exec (.abort a) s = .next t ∧ t.qce.ctx? j = some u ∧ u.state = .completing ∧ u.status = stat 0 0x07 ∧ u.abrq = true
        ∧ t.qce.ctx? k = some v ∧ v.state = .completing ∧ v.status = .success ∧ v.dw0 = 0 ∧ v.after = [j]
        ∧ ∀ l, l ≠ j → l ≠ k → t.qce.ctx? l = s.qce.ctx? l)
  ∧ (∀ (s g : State) (a : AdminCmd) (k : Nat) (x : Ctx) (i : Inst), Safety.adminTaken s g a 0x0C .every k x → s.qce.inst? a.inst = some i →
    (i.aers.length < 16 → i.events = [] →
      ∃ t, exec (.asyncEventRequest a) s = .next t ∧ t.qce.ctx? k = some x ∧ t.qce.inst? a.inst = some { i with kaAt := s.clock.now, aers := i.aers ++ [k] }
        ∧ (∀ j, j ≠ k → t.qce.ctx? j = s.qce.ctx? j) ∧ Safety.onlyQueues s t)
    ∧ (16 ≤ i.aers.length → ∃ t, exec (.asyncEventRequest a) s = .next t ∧ Safety.turnedAway s t k (stat 1 0x05)))
  ∧ ∀ (s g : State) (a : AdminCmd) (k : Nat) (x : Ctx) (i : Inst), Safety.adminTaken s g a 0x18 .ethernet k x → s.qce.inst? a.inst = some i →
    ∃ t, exec (.keepAlive a) s = .next t ∧ Safety.completed s t k .success 0 ∧ t.qce.inst? a.inst = some { i with kaAt := s.clock.now }
      ∧ t.qce.cqs = s.qce.cqs ∧ Safety.onlyQueues s t

/-- Features (R96, R151, R156, R189, R499): unknown, not saveable, kept by the instance, the class of a queue, a staged share; what a Get answers; a shrink that finds its tail unmapped, and one that does not. It also rests on choices of the model, log entry 26. -/
def Obligations.FeatureCommands : Prop :=
  (∀ (s g : State) (a : AdminCmd) (d : FeatureData) (k : Nat) (x : Ctx) (i : Inst), Safety.adminTaken s g a 0x09 .every k x → s.qce.inst? a.inst = some i →
    (a.q.fid ∉ fids → ∃ t, exec (.setFeatures a d) s = .next t ∧ Safety.turnedAway s t k .invalidField)
    ∧ (a.q.fid ∈ fids → a.q.fid ≠ 0xD0 → a.q.sv = true → ∃ t, exec (.setFeatures a d) s = .next t ∧ Safety.turnedAway s t k (stat 1 0x0D))
    ∧ (a.q.fid = 0x01 ∨ a.q.fid = 0x08 ∨ a.q.fid = 0x0B → a.q.sv = false →
      ∃ t, exec (.setFeatures a d) s = .next t ∧ Safety.completed s t k .success 0 ∧ t.qce.cqs = s.qce.cqs
        ∧ t.qce.inst? a.inst = some { i with kaAt := s.clock.now, features := Tab.set i.features a.q.fid (a.q.cdw11 &&& instMask a.q.fid) } ∧ Safety.onlyQueues s t)
    ∧ (a.q.fid = 0xD3 → a.q.sv = false → ∀ j q t0, j = natBits a.q.cdw11 15 0 → j ≠ 0 → g.qce.sq? a.inst j = some q → Tab.get? s.tas.insts a.inst = some t0 →
      t0.cur.lcmask.testBit (natBits a.q.cdw11 18 16) = true →
      ∃ t, exec (.setFeatures a d) s = .next t ∧ Safety.completed s t k .success 0 ∧ t.qce.sq? a.inst j = some { q with lc := natBits a.q.cdw11 18 16 }
        ∧ t.qce.cqs = s.qce.cqs ∧ Safety.onlyQueues s t)
    ∧ (a.q.fid = 0xD4 → a.q.sv = false → i.pf = true → i.eth = false → g.ofPort x (natBits a.q.cdw11 10 0) = true → a.q.share.valid = true →
      ∃ t, exec (.setFeatures a d) s = .next t ∧ Safety.completed s t k .success 0 ∧ t.tas = s.tas.stage (natBits a.q.cdw11 10 0) a.q.share
        ∧ t = { s with hfu := t.hfu, qce := t.qce, out := t.out, tas := t.tas }))
  ∧ (∀ (s g : State) (a : AdminCmd) (k : Nat) (x : Ctx) (i : Inst), Safety.adminTaken s g a 0x0A .every k x → s.qce.inst? a.inst = some i →
    (a.q.fid ∈ fids → a.q.sel = 3 →
      ∃ t, exec (.getFeatures a) s = .next t ∧ Safety.completed s t k .success (featureCaps a.q.fid) ∧ Safety.onlyQueues s t)
    ∧ (a.q.fid = 0x08 ∨ a.q.fid = 0x0B → a.q.sel = 0 →
      ∃ t, exec (.getFeatures a) s = .next t ∧ Safety.completed s t k .success (i.feature a.q.fid 0) ∧ Safety.onlyQueues s t)
    ∧ (a.q.fid = 0xD4 → a.q.sel = 0 → natBits a.q.cdw11 10 0 = a.inst → ∀ t0, Tab.get? s.tas.insts a.inst = some t0 →
      ∃ t, exec (.getFeatures a) s = .next t ∧ Safety.completed s t k .success 0 ∧ t.out = .data k (t0.shareBytes a.inst) :: g.out ∧ Safety.onlyQueues s t))
  ∧ ∀ (s : State) (k nsx : Nat) (x : Ctx) (n : Ns), s.runs = true → Safety.calm s → s.qce.ctx? k = some x → x.kind = .admin → x.sqe.opc = 0x09 → x.state = .fw →
    x.mods ≠ [] → x.rlWait = false → x.side = false → x.detached = false → s.qce.readBefore x = false → x.nsx = some nsx → s.fl.ns? nsx = some n →
    s.handover = false → s.qce.sizeBefore nsx x = false → x.sqe.newSize < n.nsze → n.sizeOk x.sqe.newSize = true →
    (∀ l, s.fl.lowestUsed nsx n x.sqe.newSize = some l → x.ord = false → x.zone = none →
      ∃ t, exec (.namespaceShrinkComplete k) s = .next t ∧ Safety.completed s t k .shrinkBlocked (l % 2 ^ 32) ∧ t.fl.ptx = { s.fl.ptx with growths := Tab.erase s.fl.ptx.growths k }
        ∧ t = { s with qce := t.qce, fl := t.fl })
    ∧ (s.fl.lowestUsed nsx n x.sqe.newSize = none → x.dw0 = 0 → (∀ j ∈ n.attached, ∀ i, s.qce.inst? j = some i → i.aers = []) →
      ∃ t, exec (.namespaceShrinkComplete k) s = .next t ∧ Safety.completed s t k .success 0
        ∧ (t.fl.ns? nsx).map (·.nsze) = some x.sqe.newSize ∧ (∀ j, j ≠ nsx → t.fl.ns? j = s.fl.ns? j)
        ∧ t = { s with qce := t.qce, fl := { s.fl with ptx := { s.fl.ptx with nss := t.fl.ptx.nss, growths := Tab.erase s.fl.ptx.growths k } } })

/-- What admin commands report (R50, R93 to R95): a log page, a port's discovery log, an Identify structure, the status of blocks, the parameters of the directives, a management answer; each goes to the host and changes nothing else. It also rests on choices of the model, log entries 26, 50. -/
def Obligations.AdminReports : Prop :=
  (∀ (s g : State) (a : AdminCmd) (k : Nat) (x : Ctx) (i : Inst), Safety.adminTaken s g a 0x02 .every k x → s.qce.inst? a.inst = some i → a.inst < 2048 →
    (∀ p, g.logPage x = .ok p → a.q.logOffset % 4 = 0 → a.q.logOffset ≤ p.size → a.q.lid ≠ 0xC2 → a.q.lid ≠ 0xC3 → a.q.lid ≠ 0xC5 →
      (a.q.rae = true →
        ∃ t, exec (.getLogPage a) s = .next t ∧ Safety.completed s t k .success 0 ∧ t.out = .data k (p.read a.q.lid a.q.logOffset a.q.logBytes) :: g.out
          ∧ Safety.onlyQueues s t)
      ∧ (a.q.rae = false → i.aers = [] →
        ∃ t, exec (.getLogPage a) s = .next t ∧ Safety.completed s t k .success 0 ∧ t.out = .data k (p.read a.q.lid a.q.logOffset a.q.logBytes) :: g.out
          ∧ (a.q.lid = 0x04 → (t.qce.inst? a.inst).map (·.changedNs) = some []) ∧ Safety.onlyQueues s t))
    ∧ (g.logPage x = .error (stat 1 0x09) → ∃ t, exec (.getLogPage a) s = .next t ∧ Safety.turnedAway s t k (stat 1 0x09)))
  ∧ (∀ (s : State) (a : AdminCmd), 2048 ≤ a.inst → a.side = false → a.q.lid = 0x70 → (s.hfu.conns.any fun c => c.2.inst == a.inst) = true →
    ∃ es, exec (.getLogPage a) s = .next (s.emit (.discovery (a.inst - 2048) Config.subsysNqn es))
      ∧ ∀ n p, (n, p) ∈ s.hfu.ports → p.proto = .eth → ∀ e ∈ discEntries n ((s.portBlock n).getD []), e ∈ es)
  ∧ (∀ (s g : State) (a : AdminCmd) (k : Nat) (x : Ctx), Safety.adminTaken s g a 0x06 .every k x →
    (∀ bs, g.identify x = .ok bs →
      ∃ t, exec (.identify a) s = .next t ∧ Safety.completed s t k .success 0 ∧ t.out = .data k bs :: g.out ∧ Safety.onlyQueues s t)
    ∧ (a.q.cns = 0x13 →
      ∃ t, exec (.identify a) s = .next t ∧ Safety.completed s t k .success 0
        ∧ t.out = .data k (controllerList (g.controllersFrom a.q.cntid fun _ => true)) :: g.out ∧ Safety.onlyQueues s t)
    ∧ (a.q.cns = 0xFF → ∃ t, exec (.identify a) s = .next t ∧ Safety.turnedAway s t k .invalidField))
  ∧ (∀ (s g : State) (a : AdminCmd) (k : Nat) (x : Ctx) (n : Ns), Safety.adminTaken s g a 0x86 .every k x → s.fl.attachedNs a.inst a.q.nsid = some n →
    natBits a.q.cdw13 31 24 = 0x10 → s.sec.sanitize = none → a.q.slba < n.nsze →
    ∃ t bs, exec (.getLbaStatus a) s = .next t ∧ Safety.completed s t k .success 0 ∧ t.out = .data k bs :: g.out ∧ bs.length = 4 * (a.q.cdw12 % 2 ^ 32 + 1)
      ∧ t = { s with hfu := t.hfu, qce := t.qce, out := t.out, free := s.free + 1 })
  ∧ (∀ (s g : State) (a : AdminCmd) (k : Nat) (x : Ctx), Safety.adminTaken s g a 0x1A .every k x → (s.fl.attachedNs a.inst a.q.nsid).isSome = true →
    natBits a.q.cdw11 15 8 = 0 → natBits a.q.cdw11 7 0 = 1 →
    ∃ t, exec (.directiveReceive a) s = .next t ∧ Safety.completed s t k .success 0
      ∧ t.out = .data k (fit (4 * (a.q.cdw10 % 2 ^ 32 + 1)) (directiveParams s.fl.ptx.fdp)) :: g.out ∧ Safety.onlyQueues s t)
  ∧ (∀ (s g : State) (a : AdminCmd) (k : Nat) (x : Ctx), Safety.adminTaken s g a 0x19 .every k x → (s.fl.attachedNs a.inst a.q.nsid).isSome = true →
    natBits a.q.cdw11 15 8 = 0 → natBits a.q.cdw11 7 0 = 1 → natBits a.q.cdw12 15 8 = 0 →
    (natBits a.q.cdw12 0 0 = 1 → ∃ t, exec (.directiveSend a) s = .next t ∧ Safety.completed s t k .success 0 ∧ Safety.onlyQueues s t)
    ∧ (natBits a.q.cdw12 0 0 = 0 → ∃ t, exec (.directiveSend a) s = .next t ∧ Safety.turnedAway s t k .invalidField))
  ∧ (∀ (s g : State) (a : AdminCmd) (k o : Nat) (x : Ctx) (bs : List Byte), Safety.adminTaken s g a 0x1D .every k x →
    (o + bs.length ≤ 256 →
      ∃ t, exec (.nvmeMiSend a (.vpdWrite o bs)) s = .next t ∧ Safety.completed s t k .success 0 ∧ t.mgc.vpd = s.mgc.vpd.take o ++ bs ++ s.mgc.vpd.drop (o + bs.length)
        ∧ t = { s with hfu := t.hfu, qce := t.qce, out := t.out, mgc := { s.mgc with vpd := t.mgc.vpd } })
    ∧ (256 < o + bs.length →
      ∃ t, exec (.nvmeMiSend a (.vpdWrite o bs)) s = .next t ∧ Safety.completed s t k .success 4 ∧ Safety.onlyQueues s t))
  ∧ ∀ (s g : State) (a : AdminCmd) (k o n : Nat) (x : Ctx), Safety.adminTaken s g a 0x1E .every k x →
    (o + n ≤ 256 →
      ∃ t, exec (.nvmeMiReceive a (.vpdRead o n)) s = .next t ∧ Safety.completed s t k .success 0 ∧ t.out = .data k (slice s.mgc.vpd o n) :: g.out ∧ Safety.onlyQueues s t)
    ∧ ∃ t, exec (.nvmeMiReceive a (.configGet 3)) s = .next t ∧ Safety.completed s t k .success (2 ^ 8 * s.mgc.miMtu) ∧ t.out = .data k [] :: g.out ∧ Safety.onlyQueues s t

/-- Tests and virtual functions (R141, R143, R458): a self-test starts unless one runs and its end is logged; queue resources are assigned to an offline virtual function, and an online one becomes Disabled. It also rests on choices of the model, log entry 26. -/
def Obligations.TestsAndFunctions : Prop :=
  (∀ (s g : State) (a : AdminCmd) (k : Nat) (x : Ctx), Safety.adminTaken s g a 0x14 .every k x →
    natBits a.q.cdw10 3 0 = 1 ∨ natBits a.q.cdw10 3 0 = 2 →
    (s.mgc.dst = none →
      ∃ t, exec (.deviceSelfTest a) s = .next t ∧ Safety.completed s t k .success 0 ∧ t.mgc.dst = some ⟨natBits a.q.cdw10 3 0, a.inst⟩
        ∧ t = { s with hfu := t.hfu, qce := t.qce, out := t.out, mgc := { s.mgc with dst := t.mgc.dst } })
    ∧ (s.mgc.dst.isSome = true → ∃ t, exec (.deviceSelfTest a) s = .next t ∧ Safety.turnedAway s t k (stat 1 0x1D)))
  ∧ (∀ (s g : State) (a : AdminCmd) (k : Nat) (x : Ctx), Safety.adminTaken s g a 0x14 .every k x → natBits a.q.cdw10 3 0 = 0xF →
    ∃ t, exec (.deviceSelfTest a) s = .next t ∧ Safety.completed s t k .success 0 ∧ t.mgc.dst = none
      ∧ t = { s with hfu := t.hfu, qce := t.qce, out := t.out, mgc := { s.mgc with dst := none, dstResults := t.mgc.dstResults } })
  ∧ (∀ (s : State) (d : SelfTest) (failed : Option (Nat × Option Nat)), s.runs = true → s.mgc.dst = some d →
    ∃ t, exec (.deviceSelfTestComplete failed) s = .next t ∧ t.mgc.dst = none
      ∧ t.mgc.dstResults = (⟨d.kind, if failed.isSome then 7 else 0, (failed.map (·.1)).getD 0, s.hours / 3600, failed.bind (·.2)⟩ :: s.mgc.dstResults).take 20
      ∧ t = { s with mgc := { s.mgc with dst := none, dstResults := t.mgc.dstResults } })
  ∧ ∀ (s g : State) (a : AdminCmd) (k v n : Nat) (x : Ctx) (i : Inst), Safety.adminTaken s g a 0x1C .pf k x → s.qce.inst? a.inst = some i →
    v = natBits a.q.cdw10 31 16 → n = natBits a.q.cdw11 15 0 →
    (g.isVf i v = true → natBits a.q.cdw10 3 0 = 8 → natBits a.q.cdw10 10 8 = 0 → g.qce.vfOnline i.port v = false → n ≤ 257 →
      n ≤ g.qce.vqOf i.port v + g.vqFree i.port →
      ∃ t, exec (.virtualizationManagement a) s = .next t ∧ Safety.completed s t k .success n ∧ Tab.get? t.qce.vq v = some n
        ∧ (∀ y, g.qce.inst? v = some y → t.qce.inst? v = some { y with allot := n - 1 }) ∧ Safety.onlyQueues s t)
    ∧ (g.isVf i v = true → natBits a.q.cdw10 3 0 = 9 → 2 ≤ g.qce.vqOf i.port v → ∀ y, g.qce.inst? v = some y → y.state = .offline →
      ∃ t, exec (.virtualizationManagement a) s = .next t ∧ Safety.completed s t k .success 0 ∧ t.qce.inst? v = some { y with state := .disabled }
        ∧ Safety.onlyQueues s t)
    ∧ (g.isVf i v = false → natBits a.q.cdw10 3 0 = 7 ∨ natBits a.q.cdw10 3 0 = 8 ∨ natBits a.q.cdw10 3 0 = 9 →
      ∃ t, exec (.virtualizationManagement a) s = .next t ∧ Safety.turnedAway s t k (stat 1 0x1F))

/-- Namespaces (R165 to R167, R362, R376): Create, attach and detach; Delete and Format of a namespace that nothing else works on. It also rests on choices of the model, log entry 26. -/
def Obligations.NamespaceCommands : Prop :=
  (∀ (s g : State) (a : AdminCmd) (req : NsReq) (k : Nat) (x : Ctx), Safety.adminTaken s g a 0x0D .pf k x → natBits a.q.cdw10 3 0 = 0 →
    (a.q.csi = 0 ∨ a.q.csi = 2) → s.sec.noKeys = false →
    (s.fl.createStatus s.mapRegion { req with zoned := a.q.csi == 2 } = none →
      ∃ t, exec (.namespaceManagement a req) s = .next t
        ∧ Safety.completed s t k .success ((s.fl.create { req with zoned := a.q.csi == 2 }).2 + 1)
        ∧ t.fl = (s.fl.create { req with zoned := a.q.csi == 2 }).1 ∧ (t.fl.ns? (s.fl.create { req with zoned := a.q.csi == 2 }).2).isSome = true
        ∧ t = { s with hfu := t.hfu, qce := t.qce, out := t.out, fl := t.fl, sec := t.sec })
    ∧ ∀ st : Status, s.fl.createStatus s.mapRegion { req with zoned := a.q.csi == 2 } = some st → st.isOk = false → ¬ (st.sct = 2 ∧ st.sc = 0x81) →
      ∃ t, exec (.namespaceManagement a req) s = .next t ∧ Safety.turnedAway s t k st)
  ∧ (∀ (s g : State) (a : AdminCmd) (req : NsReq) (k nsx : Nat) (x : Ctx) (n : Ns), Safety.adminTaken s g a 0x0D .pf k x → natBits a.q.cdw10 3 0 = 1 →
    a.q.nsid = nsx + 1 → nsx < 8192 → s.fl.ns? nsx = some n → n.kpio = none → s.qce.ctxs = [] → s.qce.locks = [] → n.attached = [] →
    ∃ t, exec (.namespaceManagement a req) s = .next t ∧ Safety.completed s t k .success 0 ∧ t.fl.ns? nsx = none
      ∧ Tab.get? t.hfu.leases nsx = none ∧ Tab.get? t.hfu.resv nsx = none ∧ Tab.get? t.sec.blobs nsx = none ∧ t.qce.locks = [])
  ∧ (∀ (s g : State) (a : AdminCmd) (ctrls : List Nat) (k nsx : Nat) (x : Ctx) (n : Ns), Safety.adminTaken s g a 0x15 .pf k x → a.q.nsid = nsx + 1 →
    s.fl.ns? nsx = some n → g.listOk ctrls = true →
    (natBits a.q.cdw10 3 0 = 0 → n.attachStatus ctrls = none → (∀ j ∈ ctrls, ∀ i, g.qce.inst? j = some i → i.aers = []) →
      ∃ t, exec (.namespaceAttachment a ctrls) s = .next t ∧ Safety.completed s t k .success 0
        ∧ t.fl.ns? nsx = some { n with attached := n.attached ++ ctrls } ∧ (∀ j, j ≠ nsx → t.fl.ns? j = s.fl.ns? j)
        ∧ t = { s with hfu := t.hfu, qce := t.qce, out := t.out, fl := { s.fl with ptx := { s.fl.ptx with nss := t.fl.ptx.nss } } })
    ∧ (natBits a.q.cdw10 3 0 = 1 → ctrls.all n.attached.contains = true → (∀ j ∈ ctrls, ∀ i, g.qce.inst? j = some i → i.aers = []) →
      ∃ t, exec (.namespaceAttachment a ctrls) s = .next t ∧ Safety.completed s t k .success 0
        ∧ t.fl.ns? nsx = some { n with attached := n.attached.filter fun c => !ctrls.contains c }
        ∧ t = { s with hfu := t.hfu, qce := t.qce, out := t.out, fl := { s.fl with ptx := { s.fl.ptx with nss := t.fl.ptx.nss } } })
    ∧ (natBits a.q.cdw10 3 0 = 0 → ctrls.any n.attached.contains = true →
      ∃ t, exec (.namespaceAttachment a ctrls) s = .next t ∧ Safety.turnedAway s t k (stat 1 0x18)))
  ∧ ∀ (s g : State) (a : AdminCmd) (k nsx : Nat) (x : Ctx) (n : Ns) (f : Flash), Safety.adminTaken s g a 0x80 .pf k x → a.q.nsid = nsx + 1 → nsx < 8192 →
    s.fl.attachedNs a.inst a.q.nsid = some n → a.q.fmtOk = true → a.q.ses ≤ 2 → g.adminRights x nsx n = none → s.qce.ctxs = [] → s.qce.locks = [] →
    (∀ j ∈ n.attached, ∀ i, g.qce.inst? j = some i → i.aers = []) → (a.q.ses ≠ 0 → s.fl.hostKeyed = false ∧ s.sec.noKeys = false) →
    ∀ f0, s.fl.formatReserve s.mapRegion k a.q [nsx] = .ok f0 → f = (f0.release k).clearNs s.clock.now s.hours nsx n →
    ∃ t, exec (.formatNvm a) s = .next t ∧ Safety.completed s t k .success 0
      ∧ t.fl = { f with ptx := { f.ptx with nss := Tab.upd f.ptx.nss nsx fun m => m.formatted a.q } }
      ∧ (a.q.ses = 0 → t.sec = s.sec) ∧ t.qce.locks = []

/-- Sanitize (R375, R377): with nothing left to drain the action starts and the command completes, every namespace key is replaced, and at the end of the action its result stands in the log. It also rests on choices of the model, log entry 26. -/
def Obligations.SanitizeCommands : Prop :=
  (∀ (s g : State) (a : AdminCmd) (k : Nat) (x : Ctx) (act : SanAction), Safety.adminTaken s g a 0x84 .pf k x → sanActOf a.q.sanact = some act →
    act ≠ .exitFailure → a.q.ndas = false → (act == .overwrite && a.q.oipbp && a.q.passes == 1) = false → g.leasedByOther (g.callerHost x) = false →
    (act = .crypto → s.fl.hostKeyed = false) → s.qce.ctxs = [] → s.qce.locks = [] → s.fl.ptx.nss.length ≤ 262144 → s.sec.noKeys = false →
    ∃ t, exec (.sanitize a) s = .next t ∧ Safety.completed s t k .success 0 ∧ t.qce.locks = []
      ∧ t.sec.sanitize = some ⟨act, a.inst, a.q.ause, a.q.passes, a.q.cdw11, a.q.oipbp, true⟩ ∧ t.sec.sanStatus = 2 ∧ t.sec.sanProgress = 0
      ∧ t.fl = s.fl.discardAll s.clock.now s.hours)
  ∧ ∀ (s : State) (z : Sanitize) (ok : Bool), s.runs = true → s.sec.sanitize = some z → z.started = true → (∀ e ∈ s.qce.ctxs, Safety.atRest e.2 = true) →
    (∀ i, s.qce.inst? z.inst = some i → i.aers = []) →
    ∃ t, exec (.sanitizeComplete ok) s = .next t ∧ t.sec.sanitize = none ∧ t.sec.sanStatus = (if ok then 1 else 3) ∧ t.sec.sanProgress = 65535
      ∧ (z.action = .crypto → t.fl = s.fl) ∧ (z.action = .block → ok = true → t.fl = s.fl.eraseAll 1)
      ∧ (z.action = .overwrite → ok = true → t.fl = s.fl.eraseAll (z.passes + 1) ∧ t.sec.passesDone = z.passes)
      ∧ t = { s with qce := t.qce, fl := t.fl, sec := t.sec, health := t.health }

/-- Security commands (R355, R357, R363, R364): SPDM's answer waits for Security Receive; a host's key goes into the slot of its key tag; a block of pool slots is given; a retained boot record is handed out, and one that is not retained is named so. It also rests on choices of the model, log entries 23, 26. -/
def Obligations.SecurityCommands : Prop :=
  (∀ (s g : State) (a : AdminCmd) (k : Nat) (x : Ctx), Safety.adminTaken s g a 0x81 .every k x →
    (∀ q : SpdmReq, ∃ t, exec (.securitySend a (.spdm q)) s = .next t ∧ Safety.completed s t k .success 0
      ∧ (Tab.get? t.sec.endpoints (2 * a.inst + 1)).bind (·.waiting) = some (s.sec.spdmAt (newestRecord s.fev.bootRecords) (2 * a.inst + 1) q).2
      ∧ t = { s with hfu := { s.hfu with ports := t.hfu.ports }, qce := t.qce, out := t.out, sec := { s.sec with endpoints := t.sec.endpoints } })
    ∧ (∀ (nsid tag base nkt : Nat) (blob : List Byte) (n : Ns) (key : XKey), s.kpioOn = true → s.fl.attachedNs a.inst nsid = some n → n.kpio = some (base, nkt) →
      tag < nkt → s.sec.noKeys = false → blob.length = 204 → s.sec.injection blob (some (nsid, tag)) = some key →
      ∃ t, exec (.securitySend a (.inject nsid tag blob)) s = .next t ∧ Safety.completed s t k .success 0
        ∧ t.sec = s.sec.change (base + tag) (some key) s.qce.fsn (g.liveOn (base + tag) s.qce.fsn) false
        ∧ t = { s with hfu := { s.hfu with ports := t.hfu.ports }, qce := t.qce, out := t.out, sec := t.sec })
    ∧ (∀ (nsid nkt base : Nat) (n : Ns), s.kpioOn = true → s.fl.attachedNs a.inst nsid = some n → n.kpio = none → 1 ≤ nkt → nkt ≤ 1024 →
      (s.setKpio (nsid - 1) none).fl.ptx.freePool nkt = some base →
      ∃ t, exec (.securitySend a (.kpioEnable nsid nkt)) s = .next t ∧ Safety.completed s t k .success 0
        ∧ t.fl.ns? (nsid - 1) = some { n with kpio := some (base, nkt) } ∧ t.sec = s.sec)
    ∧ (s.kpioOn = false → ∀ (nsid nkt : Nat), ∃ t, exec (.securitySend a (.kpioEnable nsid nkt)) s = .next t ∧ Safety.turnedAway s t k .invalidField))
  ∧ (∀ (s g : State) (a : AdminCmd) (k : Nat) (x : Ctx), Safety.adminTaken s g a 0x82 .every k x →
    (∀ r, (Tab.get? s.sec.endpoints (2 * a.inst + 1)).bind (·.waiting) = some r →
      ∃ t, exec (.securityReceive a .spdm) s = .next t ∧ Safety.completed s t k .success 0 ∧ t.out = .spdm (2 * a.inst + 1) r :: g.out
        ∧ (Tab.get? t.sec.endpoints (2 * a.inst + 1)).bind (·.waiting) = none)
    ∧ ((Tab.get? s.sec.endpoints (2 * a.inst + 1)).bind (·.waiting) = none →
      ∃ t, exec (.securityReceive a .spdm) s = .next t ∧ Safety.turnedAway s t k .sequenceError))
  ∧ ∀ (s g : State) (a : AdminCmd) (k : Nat) (x : Ctx), Safety.adminTaken s g a 0xCA .every k x →
    (∀ (seq : Nat) (bs : List Byte), pickRecord s.fev.bootRecords (a.q.cdw10 % 4) (a.q.cdw11 + 2 ^ 32 * a.q.cdw12) = some (seq, bs) →
      ∃ t, exec (.bootRecordFetch a) s = .next t ∧ Safety.completed s t k .success (leNat (slice bs 6 2) + 65536 * leNat (slice bs 5 1))
        ∧ t.out = .data k (fit 4096 bs) :: g.out ∧ (t.qce.ctx? k).map (·.dw1) = some (seq % 2 ^ 32) ∧ Safety.onlyQueues s t)
    ∧ (pickRecord s.fev.bootRecords (a.q.cdw10 % 4) (a.q.cdw11 + 2 ^ 32 * a.q.cdw12) = none →
      ∃ t, exec (.bootRecordFetch a) s = .next t ∧ Safety.turnedAway s t k .notRetained)

/-- Firmware (R97, R401 to R405, R410): a piece joins the requester's one download; a commit does what its action says, and a hot activation keeps it waiting; the handover takes the new image's identity, and the boot record that follows ends the commit; the sideband's download ends after 60 s. It also rests on choices of the model, log entry 26. -/
def Obligations.FirmwareCommands : Prop :=
  (∀ (s g : State) (a : AdminCmd) (data : List Byte) (k : Nat) (x : Ctx), Safety.adminTaken s g a 0x11 .pfOrEth k x →
    (a.q.cdw10 + 1) * 4 % 4096 = 0 → a.q.cdw11 * 4 % 4096 = 0 → a.q.cdw11 * 4 + (a.q.cdw10 + 1) * 4 ≤ 41943040 →
    ((∀ d, s.mgc.download = some d → d.owner = .inst a.inst ∧ (d.pieces.any fun p => piecesMeet p (a.q.cdw11 * 4) (fit ((a.q.cdw10 + 1) * 4) data).length) = false) →
      ∃ t d, exec (.firmwareImageDownload a data) s = .next t ∧ Safety.completed s t k .success 0 ∧ t.mgc = { s.mgc with download := some d }
        ∧ d.owner = .inst a.inst ∧ d.lastAt = s.clock.now ∧ Tab.get? d.pieces (a.q.cdw11 * 4) = some (fit ((a.q.cdw10 + 1) * 4) data)
        ∧ t = { s with hfu := { s.hfu with ports := t.hfu.ports }, qce := t.qce, out := t.out, mgc := t.mgc })
    ∧ ∀ d, s.mgc.download = some d → d.owner ≠ .inst a.inst → ∃ t, exec (.firmwareImageDownload a data) s = .next t ∧ Safety.turnedAway s t k .sequenceError)
  ∧ (∀ (s g : State) (a : AdminCmd) (k act fs : Nat) (x : Ctx), Safety.adminTaken s g a 0x10 .pfOrEth k x → act = natBits a.q.cdw10 5 3 → fs = natBits a.q.cdw10 2 0 →
    act ≤ 3 → s.mgc.commitVerdict s.sec.sanitize.isSome (.inst a.inst) fs act s.sec.stage2Svn s.fl.dvers = .ok →
    ((act ≠ 3 ∨ s.mgc.commitSlot fs = s.mgc.run.slot) → ∃ t, exec (.firmwareCommit a) s = .next t ∧ Safety.completed s t k .success 0
      ∧ t.mgc = (s.mgc.commit s.clock.now (.ctx k) (.inst a.inst) fs act .ok).1
      ∧ t = { s with hfu := { s.hfu with ports := t.hfu.ports }, qce := t.qce, out := t.out, mgc := t.mgc })
    ∧ (act = 3 → s.mgc.commitSlot fs ≠ s.mgc.run.slot → ∃ t v, exec (.firmwareCommit a) s = .next t ∧ t.qce.ctx? k = g.qce.ctx? k
      ∧ t.mgc.act = some v ∧ v.phase = .prepare ∧ v.slot = s.mgc.commitSlot fs ∧ v.by' = .ctx k ∧ v.startedAt = s.clock.now ∧ t.mgc.run = s.mgc.run))
  ∧ (∀ (s : State) (d : Download), s.mgc.download = some d → d.owner = .sideband → s.up = true →
    ∃ t, exec .sidebandDownloadTimeout s = .next t ∧ t = { s.until' (d.lastAt + 60 * secT) with mgc := { s.mgc with download := none } })
  ∧ (∀ (s : State) (v : Activation), s.runs = true → s.mgc.act = some v → v.phase = .prepare → s.recoveringFw = false →
    (∃ t, exec (.activationPrepareDone true) s = .next t ∧ t.mgc.run = ⟨v.slot, v.header.svn, v.header.version, v.header.hsv⟩
      ∧ t.mgc.act = some { v with phase := .handover, startedAt := s.clock.now } ∧ t.mgc.postHold = s.clock.now + 20000 ∧ t.sec.endpoints = []
      ∧ t.sec.bootCause = 2 ∧ t.sec.meas = replaceMeas s.sec.meas (imageMeas v.slot (s.mgc.headerDigest v.slot) v.header)
      ∧ t = { s with sec := t.sec, mgc := t.mgc })
    ∧ (Safety.calm s → v.by' = .ahnah → ∃ t, exec (.activationPrepareDone false) s = .next t ∧ t.mgc.act = none ∧ t.mgc.run = s.mgc.run
      ∧ t.mgc.postHold = s.clock.now + 20000 ∧ t.sec = s.sec))
  ∧ ∀ (s : State), s.up = true → s.fev.safe = false → s.sec.building.isSome = true → s.mgc.postHold ≤ s.clock.now →
    (s.mgc.act = none → ∃ t, exec .bootRecordAppended s = .next t ∧ t.sec.building = none ∧ t.mgc.cal.minimg = (if s.sec.runFits s.fev = true then max s.mgc.cal.minimg s.mgc.run.svn else s.mgc.cal.minimg)
      ∧ t = { s with sec := t.sec, fev := t.fev, mgc := t.mgc, clock := t.clock })
    ∧ ∀ v : Activation, s.mgc.act = some v → v.phase ≠ .prepare → v.by' = .ahnah → Safety.calm s →
      ∃ t, exec .bootRecordAppended s = .next t ∧ t.sec.building = none ∧ t.mgc.act = none ∧ t.mgc.cal.next = v.slot ∧ t.mgc.cal.nextPending = false
        ∧ t.mgc.cal.minimg = (if s.sec.runFits s.fev = true then max s.mgc.cal.minimg s.mgc.run.svn else s.mgc.cal.minimg) ∧ t.qce = s.qce

/-- The ownership lease (R65 to R70) and die retirement (R285, R286): an action that the lease's rules permit changes it, at once where its generation stands and otherwise once its record is durable; one that they refuse is answered with what remains; the hold-off ends; a retirement that would lose data, or that the allowance does not carry, is refused unless it is forced. It also rests on choices of the model, log entry 27. -/
def Obligations.LeaseAndRetire : Prop :=
  (∀ (s g : State) (a : AdminCmd) (k nsx dur : Nat) (x : Ctx) (n : Ns) (l : Lease) (v : LeaseVerdict), Safety.adminTaken s g a 0xC8 .every k x → a.q.cdw10 % 16 ≤ 3 →
    a.q.nsid = nsx + 1 → nsx < 8192 → s.fl.attachedNs a.inst a.q.nsid = some n → (s.leaseOf nsx).guarded = true →
    dur = grantMs (s.hfu.regs.fld .hfuLeasecfg 15 0) (s.hfu.regs.fld .hfuLeasecfg 31 16) a.q.cdw11 →
    (g.callerHost x = 0 → a.q.cdw10 % 16 ≠ 0 → ∃ t, exec (.ownershipLease a) s = .next t ∧ Safety.turnedAway s t k .hostIdRequired
      ∧ (t.qce.ctx? k).map (·.dw1) = some ((s.leaseOf nsx).gen % 2 ^ 31 * 2))
    ∧ ((g.callerHost x ≠ 0 ∨ a.q.cdw10 % 16 = 0) → (s.leaseOf nsx).act s.hfu.holdoff.isSome s.clock.lease (g.callerHost x) (a.q.cdw10 % 16) dur = (l, v) →
      (v = .ok → l.gen = (s.leaseOf nsx).gen →
        ∃ t, exec (.ownershipLease a) s = .next t
          ∧ Safety.completed s t k .success (if a.q.cdw10 % 16 = 0 then (s.leaseOf nsx).remaining s.clock.lease else if a.q.cdw10 % 16 = 3 then 0 else dur)
          ∧ t.hfu.leases = Tab.set s.hfu.leases nsx l ∧ (t.qce.ctx? k).map (·.dw1) = some (l.gen % 2 ^ 31 * 2 + b2n (g.callerHost x != 0 && l.owner == some (g.callerHost x)))
          ∧ t = { s with hfu := t.hfu, qce := t.qce, out := t.out })
      ∧ (v = .held → ∃ t, exec (.ownershipLease a) s = .next t ∧ (t.qce.ctx? k).map (fun y => (y.state, y.status, y.dw0)) = some (.completing, .leaseHeld, (s.leaseOf nsx).remaining s.clock.lease)
          ∧ t.hfu.leases = s.hfu.leases)
      ∧ (v = .ok → l.gen ≠ (s.leaseOf nsx).gen →
        ∃ t, exec (.ownershipLease a) s = .next t ∧ t.hfu.leases = Tab.set s.hfu.leases nsx l ∧ t.fl.ptx = (s.fl.ptx.logLeases s.clock.now [(nsx, l.gen)]).1
          ∧ ∃ y, t.qce.ctx? k = some y ∧ y.status = .success ∧ y.wsn = s.fl.ptx.wsn + 1 ∧ y.dw0 = dur ∧ (t.fl.recDurable (s.fl.ptx.wsn + 1) = false → y.state = .fw))))
  ∧ (∀ (s : State) (t0 : Nat), s.runs = true → s.hfu.holdoff = some t0 → t0 ≤ (s.until' (s.clock.now + (t0 - s.clock.lease))).clock.lease →
    ∃ t, exec .leaseHoldoffEnd s = .next t ∧ t.hfu = { s.hfu with holdoff := none } ∧ t.clock.now = s.clock.now + (t0 - s.clock.lease)
      ∧ t = { s with hfu := t.hfu, clock := t.clock })
  ∧ ∀ (s g : State) (a : AdminCmd) (k d : Nat) (x : Ctx), Safety.adminTaken s g a 0xCC .pf k x → d = natBits a.q.cdw10 10 0 → s.fl.hw.hasDie d = true →
    (natBits a.q.cdw11 2 0 = 0 → ∃ t, exec (.dieRetire a) s = .next t ∧ Safety.completed s t k .success (s.fl.dieRec d).answer.1
      ∧ (t.qce.ctx? k).map (·.dw1) = some (s.fl.dieRec d).gbad ∧ Safety.onlyQueues s t)
    ∧ (natBits a.q.cdw11 2 0 = 1 → natBits a.q.cdw11 8 8 = 0 → (s.fl.dieRec d).health.leaving = false →
      (s.fl.retireLoses d = true → ∃ t, exec (.dieRetire a) s = .next t ∧ Safety.turnedAway s t k .wouldLose)
      ∧ (s.fl.retireLoses d = false → s.fl.allowanceLeft < (s.fl.hw.desc d).dieBytes → ∃ t, exec (.dieRetire a) s = .next t ∧ Safety.turnedAway s t k .allowanceGone))
    ∧ (∀ h : State, natBits a.q.cdw11 2 0 = 1 → g.retireByCommand d (natBits a.q.cdw11 8 8 == 1) = .ok h →
      exec (.dieRetire a) s = .next (h.finWith k .success (h.fl.dieRec d).answer.1 (h.fl.dieRec d).answer.2).settle)
    ∧ (natBits a.q.cdw11 2 0 = 2 → natBits a.q.cdw12 11 0 < (s.fl.hw.desc d).blks → (s.fl.blk (blkKey d (natBits a.q.cdw12 11 0))).st = .bad →
      ∃ t, exec (.dieRetire a) s = .next t ∧ Safety.completed s t k .success (s.fl.dieRec d).answer.1 ∧ Safety.onlyQueues s t)

/-- Resets of instances (R45, R143, R158 to R160): an idle ready instance is RESETTING at once and leaves it when its reset completes; a function-level reset also returns the function's own registers, and takes a physical function's virtual functions away. -/
def Obligations.InstanceResets : Prop :=
  (∀ (s : State) (i : Nat) (x : Inst), s.fev.safe = false → s.dumped = false → s.qce.inst? i = some x → x.eth = false → x.pf = false →
    (x.state = .ready → s.qce.ctxs = [] → s.mgc.postHold ≤ s.clock.now → s.sec.sanitize = none → ∃ t, exec (.functionLevelReset i) s = .next t
      ∧ t.qce.inst? i = some { x with vectors := [], irq := .fresh, aqa := 0, asq := 0, acq := 0, state := .resetting, resetTo := .disabled, resetAt := s.clock.now, aers := [], events := [], reported := [], shutdown := none }
      ∧ t.qce.sqs = s.qce.sqs ∧ t.qce.cqs = s.qce.cqs ∧ t.fl = s.fl ∧ t.mss = s.mss ∧ t.clock = s.clock
      ∧ t = { s with qce := { s.qce with insts := t.qce.insts }, hfu := { s.hfu with cfg := Tab.erase s.hfu.cfg i }, tas := t.tas, sec := s.sec.dropEndpoints i, mgc := { s.mgc with download := t.mgc.download } })
    ∧ (x.state = .disabled → ∃ t, exec (.functionLevelReset i) s = .next t ∧ t = { s with qce := { s.qce with insts := t.qce.insts }, hfu := { s.hfu with cfg := Tab.erase s.hfu.cfg i } }
      ∧ t.qce.inst? i = some { x with vectors := [], irq := .fresh, aqa := 0, asq := 0, acq := 0 })
    ∧ (x.state = .resetting → ∃ t, exec (.functionLevelReset i) s = .next t ∧ t = { s with qce := { s.qce with insts := t.qce.insts }, hfu := { s.hfu with cfg := Tab.erase s.hfu.cfg i } }
      ∧ t.qce.inst? i = some { x with vectors := [], irq := .fresh, aqa := 0, asq := 0, acq := 0, resetTo := x.resetTo.max .disabled }))
  ∧ (∀ (s : State) (i : Nat) (x : Inst), s.fev.safe = false → s.dumped = false → s.qce.inst? i = some x → x.eth = false → x.pf = true → x.state = .disabled →
    (∀ e ∈ s.qce.insts, e.2.port = x.port → e.2.pf = false → s.qce.inst? e.1 = some e.2 ∧ (e.2.state = .disabled ∨ e.2.state = .offline)) →
    ∃ t, exec (.functionLevelReset i) s = .next t ∧ (∀ e ∈ s.qce.insts, e.2.port = x.port → e.2.pf = false → t.qce.inst? e.1 = none)
      ∧ t.qce.inst? i = some { x with vectors := [], irq := .fresh, aqa := 0, asq := 0, acq := 0 } ∧ t.fl = s.fl)
  ∧ (∀ (s : State) (i : Nat), (s.fev.safe = true ∨ s.dumped = true) → ∃ t, exec (.functionLevelReset i) s = .next t ∧ t = s)
  ∧ (∀ (s : State) (i : Nat) (x : Inst), s.qce.inst? i = some x → x.state = .resetting → s.fev.active.contains .device = false → s.fev.safe = false → s.dumped = false →
    s.qce.ctxs = [] → s.sec.sanitize = none →
    (x.resetTo = .disabled → ∃ t, exec (.instanceResetComplete i) s = .next t ∧ t.qce.inst? i = some (x.cleared .disabled)
      ∧ (∀ j y, j ≠ i → s.qce.inst? j = some y → t.qce.inst? j = some y) ∧ (∀ q, 1 ≤ q → q ≤ 511 → t.qce.sq? i q = none ∧ t.qce.cq? i q = none)
      ∧ (x.eth = false → t.qce.sq? i 0 = none ∧ t.qce.cq? i 0 = none)
      ∧ t = { s with qce := { s.qce with insts := t.qce.insts, sqs := t.qce.sqs, cqs := t.qce.cqs }, hfu := { s.hfu with conns := t.hfu.conns } })
    ∧ (x.resetTo = .unused → ∃ t, exec (.instanceResetComplete i) s = .next t ∧ t.qce.inst? i = none ∧ Tab.get? t.tas.insts i = none))
  ∧ (∀ (s : State) (i : Nat) (x : Inst), s.qce.inst? i = some x → x.state = .resetting → s.fev.active.contains .device = true →
    ∃ t, exec (.instanceResetComplete i) s = .next t ∧ t = s)
  ∧ ∀ (s : State) (n k : Nat) (p : Port), Tab.get? s.hfu.ports n = some p → p.proto = .pcie → s.up = true → s.dumped = false → k < (s.hfu.range n).2 →
    (∃ t, exec (.numvfsWrite n k true) s = .next t ∧ t = (List.range k).foldl (fun (g : State) j => g.addVf n ((s.hfu.range n).1 + 1 + j)) s)
    ∧ (s.qce.inst? ((s.hfu.range n).1 + 1) = none → ∃ t y, exec (.numvfsWrite n 1 true) s = .next t ∧ (1 < (s.hfu.range n).2 → t.qce.inst? ((s.hfu.range n).1 + 1) = some y ∧ y.pf = false
      ∧ y.port = n ∧ y.allot = s.qce.vqOf n ((s.hfu.range n).1 + 1) - 1 ∧ y.state = (if 2 ≤ s.qce.vqOf n ((s.hfu.range n).1 + 1) then .disabled else .offline)))
    ∧ (∃ t, exec (.numvfsWrite n k false) s = .next t ∧ t = (Tab.keysWhere s.qce.insts fun _ i => i.port == n && !i.pf).foldl State.dropVf s)

/-- Enable, controller reset and shutdown by the host, and doorbells (R74, R78, R105, R107, R143): what each register write changes. It also rests on choices of the model, log entry 26. -/
def Obligations.ControllerRegisters : Prop :=
  (∀ (s : State) (i cc aqa asq acq : Nat) (x : Inst), s.qce.inst? i = some x → s.fev.safe = false → s.up = true → x.eth = false → x.state = .disabled → natBits cc 0 0 = 1 →
    (asqs aqa < 2 ∨ acqs aqa < 2 → ∃ t, exec (.ccEnSet i cc aqa asq acq) s = .next t ∧ t.qce.inst? i = some { x with cc := cc, aqa := aqa, asq := asq, acq := acq, cfs := true }
      ∧ t = { s with qce := { s.qce with insts := t.qce.insts } })
    ∧ (2 ≤ asqs aqa → 2 ≤ acqs aqa → ∃ t, exec (.ccEnSet i cc aqa asq acq) s = .next t
      ∧ t.qce.inst? i = some { x with state := .ready, cc := cc, aqa := aqa, asq := asq, acq := acq, rdy := s.mayReady, cfs := false, shst := 0, freezes := 0, frozen := [], kaAt := s.clock.now }
      ∧ (∃ q, t.qce.sq? i 0 = some q ∧ q.size = asqs aqa ∧ q.head = 0 ∧ q.tail = 0 ∧ q.reads = []) ∧ t.qce.cq? i 0 = some ⟨acqs aqa, 0, 0, true, some 0⟩
      ∧ (∀ j, j ≠ qKey i 0 → Tab.get? t.qce.sqs j = Tab.get? s.qce.sqs j ∧ Tab.get? t.qce.cqs j = Tab.get? s.qce.cqs j) ∧ t.mgc = { s.mgc with quiesced := false }
      ∧ t = { s with qce := t.qce, mgc := t.mgc }))
  ∧ (∀ (s : State) (i cc aqa asq acq : Nat) (x : Inst) (c : Instr), s.qce.inst? i = some x → s.fev.safe = true → (c = .ccEnSet i cc aqa asq acq ∨ c = .ccEnClear i cc) →
    ∃ t, exec c s = .next t ∧ t.qce.inst? i = some { x with cc := cc } ∧ t = { s with qce := { s.qce with insts := t.qce.insts } })
  ∧ (∀ (s : State) (i cc : Nat) (x : Inst), s.qce.inst? i = some x → s.fev.safe = false → natBits cc 0 0 = 0 →
    (x.state = .disabled → natBits x.cc 0 0 = 1 → ∃ t, exec (.ccEnClear i cc) s = .next t ∧ t.qce.inst? i = some { x with cc := 0, cfs := false } ∧ t = { s with qce := { s.qce with insts := t.qce.insts } })
    ∧ (x.state = .ready → s.dumped = false → s.qce.ctxs = [] → s.mgc.postHold ≤ s.clock.now → s.sec.sanitize = none → ∃ t, exec (.ccEnClear i cc) s = .next t
      ∧ t.qce.inst? i = some { x with state := .resetting, resetTo := .disabled, resetAt := s.clock.now, aers := [], events := [], reported := [], shutdown := none } ∧ t.fl = s.fl ∧ t.clock = s.clock))
  ∧ (∀ (s : State) (i shn : Nat) (x : Inst), s.qce.inst? i = some x → s.runs = true → shn = 1 ∨ shn = 2 → x.state = .ready → x.rdy = true → x.shst = 0 →
    ∃ t, exec (.ccShutdownNotify i shn) s = .next t ∧ t.qce.inst? i = some { x with cc := x.cc - natBits x.cc 15 14 * 2 ^ 14 + shn % 4 * 2 ^ 14, shst := 1, shutdown := some none }
      ∧ t = { s with qce := { s.qce with insts := t.qce.insts } })
  ∧ (∀ (s : State) (i : Nat) (x : Inst), s.qce.inst? i = some x → s.runs = true → x.state = .ready → x.shst = 1 → x.shutdown = some none →
    (s.liveCmds i x = true → ∃ t, exec (.ccShutdownFlushDone i) s = .next t ∧ t = s)
    ∧ (s.liveCmds i x = false → s.fl.ptx.unp = false → State.othersShut { s with qce := s.qce.updInst i fun i => { i with shst := 2 } } i = false →
      ∃ t w, exec (.ccShutdownFlushDone i) s = .next t ∧ t.qce.inst? i = some { x with shutdown := w, shst := 2 } ∧ t = { s with qce := { s.qce with insts := t.qce.insts } })
    ∧ (s.liveCmds i x = false → s.fl.ptx.unp = true → ∃ t w, exec (.ccShutdownFlushDone i) s = .next t ∧ t.qce.inst? i = some { x with shutdown := some (some (s.fl.ptx.wsn, w)) }
      ∧ t = { s with qce := { s.qce with insts := t.qce.insts } }))
  ∧ ∀ (s : State) (i j v : Nat), s.ringing i = true → j ≤ 256 →
    (s.qce.sq? i j = none → ∃ t, exec (.sqTailDoorbell i j v) s = .next t ∧ t = s.notify i (doorbellError 0))
    ∧ (s.qce.cq? i j = none → ∃ t, exec (.cqHeadDoorbell i j v) s = .next t ∧ t = s.notify i (doorbellError 0))
    ∧ (∀ q, s.qce.sq? i j = some q → (q.size ≤ v → ∃ t, exec (.sqTailDoorbell i j v) s = .next t ∧ t = s.notify i (doorbellError 1))
      ∧ (v < q.size → ∃ t, exec (.sqTailDoorbell i j v) s = .next t ∧ t.qce.sq? i j = some { q with tail := v } ∧ t = { s with qce := { s.qce with sqs := t.qce.sqs } }))
    ∧ ∀ q, s.qce.cq? i j = some q → ((q.size ≤ v ∨ q.mayFree v = false) → ∃ t, exec (.cqHeadDoorbell i j v) s = .next t ∧ t = s.notify i (doorbellError 1))
      ∧ (v < q.size → q.mayFree v = true → ∃ t, exec (.cqHeadDoorbell i j v) s = .next t ∧ t.qce.cq? i j = some { q with head := v } ∧ t = { s with qce := { s.qce with cqs := t.qce.cqs } })

/-- NVMe-oF transports (R46, R47, R49, R51, R52, R57): frames enter the receive allotment, pauses stop a priority, congestion halves and time restores a connection's rate, lost segments are sent again, and a connection that is lost ends its association. It also rests on choices of the model, log entries 26, 181. -/
def Obligations.Transports : Prop :=
  (∀ (s g : State) (n : Nat) (h : EthHead) (p : Port), Tab.get? s.hfu.ports n = some p → p.proto = .eth → p.state = .up → s.dumped = false → g = s.countFec n h.fec →
    (g.hfu.regs.fld (.hfuErrcnt n) 31 16 = min 65535 (s.hfu.regs.fld (.hfuErrcnt n) 31 16 + (p.fec + h.fec) / 65536)
      ∧ Tab.get? g.hfu.ports n = some { p with fec := (p.fec + h.fec) % 65536 } ∧ g = { s with hfu := { s.hfu with ports := g.hfu.ports, regs := g.hfu.regs } })
    ∧ (∀ b : Nat, s.accepts n h = true → h.prio = s.pfcPrio n → p.allot + b ≤ 4 * mib → ∃ t q, exec (.ethFrameReceive n ⟨h, .data b⟩) s = .next t ∧ Tab.get? t.hfu.ports n = some q
      ∧ q.allot = p.allot + b ∧ q.xoff = (if p.xoff then decide (2 * mib ≤ p.allot + b) else decide (3 * mib < p.allot + b))
      ∧ t.out = (if p.xoff = q.xoff then s.out else .flow n (if q.xoff then .xoff else .xon) :: s.out)
      ∧ t = { g with hfu := { g.hfu with ports := t.hfu.ports }, out := t.out })
    ∧ (∀ b : Nat, s.accepts n h = false ∨ h.prio = s.pfcPrio n ∧ 4 * mib < p.allot + b ∨ h.prio ≠ s.pfcPrio n ∧ h.full = true →
      exec (.ethFrameReceive n ⟨h, .data b⟩) s = .next g)
    ∧ (∀ b : Nat, ∃ t q, exec (.ethFrameReceive n ⟨h, .taken b⟩) s = .next t ∧ Tab.get? t.hfu.ports n = some q ∧ q.allot = p.allot - b
      ∧ q.xoff = (if p.xoff then decide (2 * mib ≤ p.allot - b) else decide (3 * mib < p.allot - b)) ∧ t = { g with hfu := { g.hfu with ports := t.hfu.ports }, out := t.out })
    ∧ (∀ c : Nat, exec (.ethFrameReceive n ⟨h, .icrc c⟩) s = .next g)
    ∧ (∀ (c b : Nat) (k : Conn), s.conn? c = some k → k.port = n → s.accepts n h = true → s.roomFor n h b = true →
      (b ≤ 8256 → ∃ t, exec (.ethFrameReceive n ⟨h, .capsule c b⟩) s = .next t ∧ t.conn? c = some { k with retries := 0 }
        ∧ (∀ q, s.qce.sq? k.inst k.qid = some q → t.qce.sq? k.inst k.qid = some { q with capsules := q.capsules ++ [if h.prio = s.pfcPrio n then b else 0] })
        ∧ t.qce.ctxs = s.qce.ctxs ∧ t.qce.insts = s.qce.insts ∧ t.fl = s.fl ∧ t.tas = s.tas)
      ∧ (8256 < b → exec (.ethFrameReceive n ⟨h, .capsule c b⟩) s = .next (g.connLost c)))
    ∧ (∃ t, exec (.ethFrameReceive n ⟨h, .bad⟩) s = .next t ∧ t.hfu.regs.fld (.hfuErrcnt n) 15 0 = min 65535 (s.hfu.regs.fld (.hfuErrcnt n) 15 0 + 1)
      ∧ t = { g with hfu := { g.hfu with regs := t.hfu.regs }, fev := t.fev, free := t.free })
    ∧ ∀ q : Nat, (∃ t, exec (.pfcPauseReceive n (s.pfcPrio n) q) s = .next t ∧ Tab.get? t.hfu.ports n = some { p with paused := if q = 0 then [] else [s.pfcPrio n] }
        ∧ t = { s with hfu := { s.hfu with ports := t.hfu.ports } })
      ∧ ∀ r, r ≠ s.pfcPrio n → ∃ t, exec (.pfcPauseReceive n r q) s = .next t ∧ t = s)
  ∧ (∀ (s : State) (c : Nat) (k : Conn), s.conn? c = some k →
    (k.rdma = true → (k.cnpSent = none ∨ (∃ a, k.cnpSent = some a ∧ a + 500 ≤ s.clock.now)) → ∃ t, exec (.ecnCeReceive c) s = .next t ∧ t.conn? c = some { k with cnpSent := some s.clock.now }
      ∧ t = { s with hfu := { s.hfu with conns := t.hfu.conns }, out := .cnp c :: s.out })
    ∧ (∀ a, k.rdma = true → k.cnpSent = some a → s.clock.now < a + 500 → ∃ t, exec (.ecnCeReceive c) s = .next t ∧ t.conn? c = some k ∧ t.out = s.out)
    ∧ (k.rdma = true → ∃ t, exec (.cnpReceive c) s = .next t ∧ t.conn? c = some { k with rate := max 1000 (k.rate / 2), cnpSeen := some s.clock.now }
      ∧ t = { s with hfu := { s.hfu with conns := t.hfu.conns } })
    ∧ (∀ a p, k.cnpSeen = some a → Tab.get? s.hfu.ports k.port = some p → ∃ t r, exec (.cnpRateRecovery c) s = .next t ∧ r = min (portRate p.lanes) (k.rate + portRate p.lanes / 10)
      ∧ t.clock.now = max s.clock.now (a + 500) ∧ t.conn? c = some { k with rate := r, cnpSeen := if r = portRate p.lanes then none else some t.clock.now }
      ∧ t = { s with hfu := { s.hfu with conns := t.hfu.conns }, clock := t.clock })
    ∧ (∀ (i : Instr) (limit : Nat), (i = .roceAckTimeout c ∧ k.rdma = true ∧ limit = 7 ∨ i = .tcpRetransmitTimeout c ∧ k.rdma = false ∧ limit = 8) →
      (s.pausedPort k.port = false → k.retries < limit → ∃ t, exec i s = .next t ∧ t.conn? c = some { k with retries := k.retries + 1 }
        ∧ t = { s with hfu := { s.hfu with conns := t.hfu.conns }, out := .resend c :: s.out })
      ∧ (s.pausedPort k.port = false → limit ≤ k.retries → exec i s = .next (s.connLost c)) ∧ (s.pausedPort k.port = true → exec i s = .next s))
    ∧ (∃ t, exec (.transportConnectionFailure c) s = .next t ∧ t = s.connLost c ∧ (k.inst < 2048 → t = s.endAssociation k.inst)
      ∧ (2048 ≤ k.inst → t = { s with hfu := { s.hfu with conns := Tab.erase s.hfu.conns c } })))

/-- Associations (R50, R51, R75, R142, R143): a Connect to an admin queue gives the lowest free instance of the port's range, one to an I/O queue of the association's host gives it a queue pair, a Disconnect and a keep-alive timeout end it; before device ready and without a valid port configuration nothing connects; a port's discovery controller takes no instance. That a keep-alive timeout of 0 is taken as none is the model's choice (log entry 182). It also rests on choices of the model, log entries 26, 182. -/
def Obligations.Associations : Prop :=
  (∀ (s : State) (n : Nat) (q : ConnectReq) (b : List Byte) (p : Port), s.runs = true → s.portBlock n = some b → Tab.get? s.hfu.ports n = some p → p.proto = .eth → p.state = .up →
    natBits (leNat (slice b 1 1)) (if q.rdma then 2 else 3) (if q.rdma then 2 else 3) = 1 → q.heard = true → s.hfu.conns.length < 18432 →
    (q.discovery = true → q.qid = 0 → ∃ t, exec (.fabricsConnect n q) s = .next t ∧ t.out = .connect n (2048 + n) 0 none :: s.out
      ∧ (∃ c k, t.conn? c = some k ∧ k.inst = 2048 + n ∧ k.port = n ∧ k.qid = 0) ∧ t = { s with hfu := { s.hfu with conns := t.hfu.conns }, out := t.out })
    ∧ (∀ j : Nat, q.discovery = false → q.qid = 0 → 1 ≤ q.sqsize → q.sqsize ≤ 4095 → (q.kato = 0 ∨ 1000 ≤ q.kato ∧ q.kato ≤ 3600000) →
      ((List.range (s.hfu.range n).2).find? fun j => (s.qce.inst? ((s.hfu.range n).1 + j)).isNone) = some j →
      ∃ t x, exec (.fabricsConnect n q) s = .next t ∧ s.qce.inst? ((s.hfu.range n).1 + j) = none ∧ t.qce.inst? ((s.hfu.range n).1 + j) = some x ∧ x.port = n ∧ x.eth = true ∧ x.pf = false
        ∧ x.state = .disabled ∧ x.hostId = q.hostId ∧ x.kato = q.kato ∧ x.allot = min (s.qce.qpdef n) (s.qce.pool n - s.qce.allotted n)
        ∧ (∃ y, t.qce.sq? ((s.hfu.range n).1 + j) 0 = some y ∧ y.size = q.sqsize + 1 ∧ y.head = 0 ∧ y.tail = 0) ∧ t.mgc.quiesced = false
        ∧ t.out = .connect n ((s.hfu.range n).1 + j) 0 none :: s.out ∧ t.fl = s.fl)
    ∧ (q.discovery = false → q.qid = 0 → 1 ≤ q.sqsize → q.sqsize ≤ 4095 → (q.kato = 0 ∨ 1000 ≤ q.kato ∧ q.kato ≤ 3600000) →
      ((List.range (s.hfu.range n).2).find? fun j => (s.qce.inst? ((s.hfu.range n).1 + j)).isNone) = none →
      ∃ t, exec (.fabricsConnect n q) s = .next t ∧ t = { s with out := .connect n 0 0 (some .connectHost) :: s.out })
    ∧ (∀ x : Inst, q.discovery = false → q.qid ≠ 0 → s.qce.inst? q.cntlid = some x → x.port = n → x.eth = true → x.state = .ready → x.rdy = true → q.qid ≤ x.allot → s.qce.sq? q.cntlid q.qid = none →
      1 ≤ q.sqsize → q.sqsize ≤ 4095 →
      (x.hostId = q.hostId → ∃ t, exec (.fabricsConnect n q) s = .next t ∧ (∃ y, t.qce.sq? q.cntlid q.qid = some y ∧ y.size = q.sqsize + 1 ∧ y.cq = q.qid)
        ∧ t.qce.cq? q.cntlid q.qid = some ⟨0, 0, 0, true, none⟩ ∧ t.out = .connect n q.cntlid q.qid none :: s.out
        ∧ t = { s with qce := t.qce, hfu := { s.hfu with conns := t.hfu.conns }, out := t.out })
      ∧ (x.hostId ≠ q.hostId → ∃ t, exec (.fabricsConnect n q) s = .next t ∧ t = { s with out := .connect n q.cntlid q.qid (some .connectHost) :: s.out })))
  ∧ (∀ (s : State) (n : Nat) (q : ConnectReq), (s.runs = false ∨ s.portBlock n = none ∨ q.heard = false ∨ 18432 ≤ s.hfu.conns.length) → ∃ t, exec (.fabricsConnect n q) s = .next t ∧ t = s)
  ∧ (∀ (s : State) (i : Nat) (x : Inst), s.qce.inst? i = some x → s.fev.safe = false → s.dumped = false → x.eth = true → i < 2048 →
    (x.state = .disabled → ∃ t, exec (.fabricsDisconnect i) s = .next t ∧ t.qce.inst? i = none ∧ (∀ e ∈ t.hfu.conns, e.2.inst ≠ i) ∧ Tab.get? t.tas.insts i = none ∧ t.fl = s.fl)
    ∧ (x.state = .ready → s.qce.ctxs = [] → s.mgc.postHold ≤ s.clock.now → s.sec.sanitize = none → ∃ t y, exec (.fabricsDisconnect i) s = .next t
      ∧ t.qce.inst? i = some y ∧ y.state = .resetting ∧ y.resetTo = .unused ∧ (∀ e ∈ t.hfu.conns, e.2.inst ≠ i) ∧ t.fl = s.fl)
    ∧ (x.kato ≠ 0 → s.mgc.postHold = 0 → ∃ t, exec (.keepAliveTimeout i) s = .next t
      ∧ t = (s.until' (ceilDiv (x.kaAt + x.kato * msT) (100 * msT) * (100 * msT))).endAssociation i)
    ∧ (x.kato = 0 → ∃ t, exec (.keepAliveTimeout i) s = .next t ∧ t = s))
  ∧ ∀ (s : State) (i : Nat), 2048 ≤ i → ∃ t, exec (.fabricsDisconnect i) s = .next t ∧ (∀ e ∈ t.hfu.conns, e.2.inst ≠ i)
    ∧ t = { s with hfu := { s.hfu with conns := t.hfu.conns } }

/-- Property Get and Property Set on an Ethernet instance (R496, with the values of R94 and R494): CAP, VS, CC and CSTS, and Invalid Field in Command at every other offset. It also rests on choices of the model, log entry 26. -/
def Obligations.FabricsProperties : Prop :=
  ∀ (s : State) (i o v : Nat) (x : Inst), s.qce.inst? i = some x → x.eth = true →
    (∃ t, exec (.fabricsPropertyGet i o) s = .next t ∧ t = { s with out := .property i (if o = 0 then x.cap else if o = 0x08 then 0x00020100 else if o = 0x14 then x.cc else if o = 0x1C then x.csts else 0) (if o = 0 ∨ o = 0x08 ∨ o = 0x14 ∨ o = 0x1C then none else some .invalidField) :: s.out })
    ∧ (o ≠ 0x14 → ∃ t, exec (.fabricsPropertySet i o v) s = .next t
      ∧ t = { s with out := .property i 0 (if o = 0 ∨ o = 0x08 ∨ o = 0x1C then none else some .invalidField) :: s.out })
    ∧ (o = 0x14 → ∃ t, exec (.fabricsPropertySet i o v) s = .next t ∧ t = (s.writeCc i x v).emit (.property i 0 none)
      ∧ (s.fev.safe = true → t.qce.inst? i = some { x with cc := v })
      ∧ (s.fev.safe = false → natBits v 0 0 = 1 → natBits x.cc 0 0 = 0 → x.state = .disabled → s.up = true → ∃ y, t.qce.inst? i = some y ∧ y.state = .ready ∧ y.cc = v ∧ y.rdy = s.mayReady)
      ∧ (s.fev.safe = false → natBits v 0 0 = natBits x.cc 0 0 → natBits v 15 14 ≠ 1 → natBits v 15 14 ≠ 2 → t.qce.inst? i = some { x with cc := v } ∧ t.fl = s.fl))

/-- An epoch boundary (R147, R151, R155, R277): for every instance the staged share applies, the buckets are refilled to their depth and the reclaim charges are posted; a queue whose class its instance's share no longer holds moves to the share's default; the Mirage bucket is refilled; no command and nothing of the flash side but that bucket changes. It also rests on choices of the model, log entry 200. -/
def Obligations.EpochBoundary : Prop :=
  ∀ s : State, s.runs = true → ∃ t, exec .tasEpochBoundary s = .next t ∧ t.clock.now = max s.clock.now (s.mgc.readyAt + s.tas.epoch * 1000) ∧ t.tas.epoch = s.tas.epoch + 1
    ∧ (∀ (i : Nat) (x : TasInst), Tab.get? s.tas.insts i = some x → ∃ y, Tab.get? t.tas.insts i = some y ∧ y.cur = x.staged.getD x.cur ∧ y.staged = none
      ∧ y.vtag = x.vtag + (x.rclwu : Rat) / y.cur.weight ∧ y.rclwu = 0 ∧ y.rclbytes = 0 ∧ y.charged = 0
      ∧ (x.staged = none → x.cur.iopslim ≠ 0 → y.cmdtok = min (x.cmdtok + ((x.cur.iopslim * 1024 : Nat) : Int)) ((x.cur.iopslim * 1024 * x.cur.burst : Nat) : Int))
      ∧ (x.staged = none → x.cur.bwlim ≠ 0 → x.cur.rclbkt = false → y.bytetok = min (x.bytetok + ((x.cur.bwlim * 100 : Nat) : Int)) ((x.cur.bwlim * 100 * x.cur.burst : Nat) : Int))
      ∧ (x.staged = none → x.cur.bwlim ≠ 0 → x.cur.rclbkt = true → y.bytetok = max (min (x.bytetok + ((x.cur.bwlim * 100 : Nat) : Int)) ((x.cur.bwlim * 100 * x.cur.burst : Nat) : Int)
          - (x.rclbytes : Int)) (-((x.cur.bwlim * 100 * x.cur.burst : Nat) : Int))))
    ∧ (∀ (k : Nat) (q : Sq), Tab.get? s.qce.sqs k = some q → ∃ r, Tab.get? t.qce.sqs k = some r
      ∧ (∀ y, Tab.get? t.tas.insts (k / 512) = some y → r = if y.cur.lcmask.testBit q.lc = true then q else { q with lc := y.cur.lcdef })
      ∧ (Tab.get? t.tas.insts (k / 512) = none → r = q))
    ∧ t.fl.dip.tokens = min (10 * (s.fl.dip.regs.fld .dipMircfg 7 0 * (s.fl.hw.dies.filter s.fl.inService).length * 4))
        (s.fl.dip.tokens + s.fl.dip.regs.fld .dipMircfg 7 0 * (s.fl.hw.dies.filter s.fl.inService).length * 4)
    ∧ t = { s with
        clock := t.clock
        tas := t.tas
        qce := { s.qce with sqs := t.qce.sqs, ctxs := t.qce.ctxs, shut := t.qce.shut }
        fl := { s.fl with dip := { s.fl.dip with tokens := t.fl.dip.tokens } }
        hist := t.hist }

/-- Register writes (R12, R28, R157, R419, R453, R456, R485 to R488, R526): a write that is served reaches its register and triggers its effect; one that is misaligned, narrow or made by a requester that may not write the page is refused, and MGC_CSRERR says why. -/
def Obligations.RegisterWrites : Prop :=
  (∀ (s : State) (r : Requester) (addr width v : Nat), s.serves r = true → 0x40000000 ≤ addr → addr < 0x50000000 → width ∈ [8, 16, 32, 64] →
    (∀ reason : Nat, (reason = 2 ∧ addr % (width / 8) ≠ 0 ∨ reason = 1 ∧ addr % (width / 8) = 0 ∧ width < 32
        ∨ reason = 3 ∧ addr % (width / 8) = 0 ∧ 32 ≤ width ∧ pageRefused r addr = true) →
      ∃ t, exec (.registerWrite r addr width v) s = .next t ∧ (t.reg .mgcCsrerr).bits 31 31 = 1 ∧ (t.reg .mgcCsrerr).bits 30 28 = reason
        ∧ (t.reg .mgcCsrerr).bits 21 0 = (addr - 0x40000000) / 8 % 2 ^ 22 ∧ (∀ q : Reg, q ≠ .mgcCsrerr → t.reg q = s.reg q)
        ∧ t = { s with mgc := t.mgc })
    ∧ ∀ reg : Reg, addr % (width / 8) = 0 → 32 ≤ width → pageRefused r addr = false → ¬ (0x40071000 ≤ addr ∧ addr < 0x40072000) → regAt? addr = some reg →
      Safety.served s r reg →
      ∃ t, exec (.registerWrite r addr width v) s = .next t ∧ t = s.csrEffect r reg (BitVec.ofNat 32 v) (s.storeReg reg (BitVec.ofNat 32 v)))
  ∧ (∀ (s : State) (r : Requester) (v : W32), Safety.served s r .hfuLeasecfg →
    ∃ t, exec (.hfuLeasecfgWrite r v) s = .next t
      ∧ t.hfu.regs.get .hfuLeasecfg = (if 100 ≤ v.bits 15 0 ∧ v.bits 15 0 ≤ v.bits 31 16 ∧ v.bits 31 16 ≤ 60000 then v else s.hfu.regs.get .hfuLeasecfg)
      ∧ t = { s with hfu := { s.hfu with regs := t.hfu.regs } })
  ∧ (∀ (s : State) (r : Requester) (v : W32), Safety.served s r .ptmHuecfg →
    ∃ t, exec (.ptmHuecfgWrite r v) s = .next t ∧ t = { s with ptm := { s.ptm with regs := t.ptm.regs } }
      ∧ (∀ q : Reg, q ≠ .ptmHuecfg → t.ptm.regs.get q = s.ptm.regs.get q)
      ∧ (t.ptm.regs.get .ptmHuecfg = s.ptm.regs.get .ptmHuecfg
        ∨ edegCovers (((t.ptm.regs.fld .ptmHuecfg 15 8 : Nat) : Rat) / 4) s.fl.ptx.protMax ∧ ((t.ptm.regs.fld .ptmHuecfg 15 8 : Nat) : Rat) / 4 + 2 ≤ ((t.ptm.regs.fld .ptmHuecfg 23 16 : Nat) : Rat) / 4))
  ∧ (∀ (s : State) (r : Requester), Safety.served s r .tasShcmd →
    (∃ t, exec (.tasShcmdLoad r) s = .next t ∧ t = { s with tas := t.tas } ∧ t.tas.insts = s.tas.insts ∧ t.tas.stagedUnused = s.tas.stagedUnused
      ∧ (∀ x, Tab.get? s.tas.insts s.tas.sel = some x → t.tas.regs = (x.staged.getD x.cur).toRegs (s.storeReg .tasShcmd 2).tas.regs)
      ∧ (Tab.get? s.tas.insts s.tas.sel = none → t.tas.regs = ((Tab.get? s.tas.stagedUnused s.tas.sel).getD .default').toRegs (s.storeReg .tasShcmd 2).tas.regs))
    ∧ ∃ t, exec (.tasShcmdStage r) s = .next t ∧ t = { s with tas := t.tas }
      ∧ t.tas.regs.bit .tasShsel 30 = !(Share.ofRegs (s.storeReg .tasShcmd 1).tas.regs).valid
      ∧ ∀ h : Share, h = Share.ofRegs (s.storeReg .tasShcmd 1).tas.regs →
        (h.valid = false → t.tas.insts = s.tas.insts ∧ t.tas.stagedUnused = s.tas.stagedUnused)
        ∧ (h.valid = true → Tab.has s.tas.insts s.tas.sel = true → t.tas.insts = Tab.upd s.tas.insts s.tas.sel (fun x => { x with staged := some h }) ∧ t.tas.stagedUnused = s.tas.stagedUnused)
        ∧ (h.valid = true → Tab.has s.tas.insts s.tas.sel = false → t.tas.insts = s.tas.insts ∧ t.tas.stagedUnused = Tab.set s.tas.stagedUnused s.tas.sel h))
  ∧ (∀ (s : State) (r : Requester) (v : W32), Safety.served s r .fevDevwdg →
    ∃ t, exec (.fevDevwdgWrite r v) s = .next t ∧ t.fev.kickedAt = (if v.bits 31 16 = 0xA5C3 then s.clock.now else s.fev.kickedAt)
      ∧ t.fev.badKick = (if v.bits 31 16 = 0xA5C3 then s.fev.badKick else satAdd 15 s.fev.badKick 1)
      ∧ (v.bits 31 16 = 0xA5C3 → t.fev.hbStarted = true) ∧ t = { s with fev := t.fev })
  ∧ (∀ (s : State) (r : Requester), Safety.served s r .fevFfqstat →
    ∃ t, exec (.fevFfqstatClr r) s = .next t ∧ t = { s with fev := { s.fev with regs := t.fev.regs, ffq := [], ffqOvfl := 0 } })
  ∧ (∀ (s : State) (addr v : Nat),
    (∀ width, width ≠ 32 → ∃ t, exec (.registerWrite .sideband addr width v) s = .next t ∧ t = s)
    ∧ (s.sideband = true → s.mgc.regs.bit .mgcSbicfg 15 = true → (s.dumped = false ∨ s.fev.safe = true) →
      (natBits v 31 31 = 0 → ∃ t, exec (.registerWrite .sideband 0 32 v) s = .next t
        ∧ t = { s with mgc := { s.mgc with ah := { s.mgc.ah with task := natBits v 23 16, tag := natBits v 7 0, done := s.mgc.ah.done && natBits v 29 29 == 0 } } })
      ∧ (s.mgc.ah.busy = none → 2 ≤ addr → addr < 6 → ∃ t, exec (.registerWrite .sideband addr 32 v) s = .next t
        ∧ t = { s with mgc := { s.mgc with ah := { s.mgc.ah with args := s.mgc.ah.args.set (addr - 2) (v % 2 ^ 32) } } })))
  ∧ ∀ (s : State) (r : Requester) (v : W32), Safety.served s r .fevEvwrhdr → v.bits 31 31 = 1 →
    (v.bits 25 24 = 3 → ∃ t, exec (.fevEvwrhdrGo r v) s = .next t ∧ t.fev.regs.fld .fevEvwrhdr 29 29 = 1 ∧ t = { s with fev := { s.fev with regs := t.fev.regs } })
    ∧ (v.bits 25 24 ≠ 3 → ∃ (t : State) (f : Fev), exec (.fevEvwrhdrGo r v) s = .next t ∧ t = { s with fev := t.fev }
      ∧ t.fev = f.append ⟨s.hours, s.clock.pcyc, 0, .event, v.bits 25 24, r.source, v.bits 7 0,
          .std (v.bits 23 20) (s.fev.payload 0) (s.fev.payload 1) (s.fev.payload 2) (s.fev.payload 3)⟩
      ∧ f = { s.fev with regs := f.regs } ∧ f.regs.fld .fevEvwrhdr 29 29 = 0)

/-- The Seal engine and the key slots (R353, R365, R368 to R370): an operation that GO starts runs until SEAL_DONE, and one whose operands it refuses sets ERR; a slot's change takes effect once no live command names the slot; KCLR and KLOCK; FIN signs the boot record. -/
def Obligations.SealEngine : Prop :=
  (∀ (s : State) (r : Requester) (v : W32) (u : Nat → State), Safety.served s r .secSealctl → s.sec.run = none →
    (∀ op, u op = s.storeReg .secSealctl ((v.setBits 24 22 op).setBits 31 31 1)) →
    (∃ t, exec (.sealGcm r v) s = .next t ∧ t = { u 0 with sec := (u 0).sec.sealGcm }
      ∧ (s.sec.kvalid = false → t.sec.run = none ∧ t.sec.regs.fld .secSealctl 29 29 = 1))
    ∧ (∃ t, exec (.sealKeygen r v) s = .next t ∧ t = { u 1 with sec := (u 1).sec.sealKeygen ((u 1).sec.regs.fld .secSealctl 15 0) s.qce.fsn ((u 1).liveOn ((u 1).sec.regs.fld .secSealctl 15 0) s.qce.fsn) }
      ∧ (nsSlots ≤ (u 1).sec.regs.fld .secSealctl 15 0 ∨ s.sec.noKeys = true → t.sec.run = none ∧ t.sec.keys = s.sec.keys ∧ t.sec.blobs = s.sec.blobs
          ∧ t.sec.regs.fld .secSealctl 29 29 = 1)
      ∧ ((u 1).sec.regs.fld .secSealctl 15 0 < nsSlots → s.sec.noKeys = false → t.sec.run.isSome = true))
    ∧ (∃ t, exec (.sealUnwrap r v) s = .next t ∧ t = { u 2 with sec := t.sec }
      ∧ ((u 2).sec.regs.fld .secSealctl 15 0 < nsSlots → s.sec.noKeys = false → ∃ bad out, t.sec.run = some (.key out bad) ∧ t.sec.blobs = s.sec.blobs
          ∧ (bad = true → t.sec.keys = s.sec.keys)))
    ∧ (∃ t, exec (.sealInject r v) s = .next t
      ∧ (nsSlots ≤ (u 3).sec.regs.fld .secSealctl 15 0 → (u 3).sec.regs.fld .secSealctl 15 0 < keySlots → s.sec.noKeys = false →
          ∃ bad out, t.sec.run = some (.key out bad) ∧ (bad = true → t.sec.keys = s.sec.keys)))
    ∧ (∃ t, exec (.sealClear r v) s = .next t ∧ t = { u 4 with sec := t.sec }
      ∧ ((u 4).sec.regs.fld .secSealctl 15 0 < nsSlots → ∃ out, t.sec.run = some (.key out false)) ∧ t.sec.blobs = s.sec.blobs))
  ∧ (∀ (s : State) (out : List Byte) (bad : Bool), s.sec.run = some (.key out bad) → (∀ c ∈ s.sec.changes, c.bySeal = false) →
    ∃ t, exec .sealDone s = .next t ∧ t.sec.run = none ∧ t.sec.buffer = out ∧ (bad = true → t.sec.regs.fld .secSealctl 28 28 = 1)
      ∧ t = { s with sec := { s.sec with run := none, buffer := out, regs := t.sec.regs } })
  ∧ (∀ (s : State) (out : List Byte) (tag : Option Nat) (bad : Bool) (st : GcmState), s.sec.run = some (.gcm out tag bad st) →
    ∃ t, exec .sealDone s = .next t ∧ t.sec.run = none ∧ t.sec.buffer = out ∧ t.sec.gcm = st ∧ (bad = true → t.sec.regs.fld .secSealctl 28 28 = 1)
      ∧ t = { s with sec := { s.sec with run := none, buffer := out, gcm := st, regs := t.sec.regs } })
  ∧ (∀ (s : State) (r : Requester), Safety.served s r .secSeallock →
    (∃ t, exec (.secSeallockKclr r) s = .next t ∧ t.sec.skey = (if s.sec.regs.bit .secSeallock 0 then s.sec.skey else [])
      ∧ t = { s with sec := { s.sec with regs := t.sec.regs, skey := t.sec.skey } })
    ∧ ∃ t, exec (.secSeallockKlock r) s = .next t ∧ t.sec.regs.bit .secSeallock 0 = true ∧ t = { s with sec := { s.sec with regs := t.sec.regs } })
  ∧ (∀ (s : State) (slot : Nat) (x : SlotChange), (s.sec.changes.find? fun x => x.slot == slot) = some x →
    (s.liveOn slot x.fsn = 0 → ∃ t, exec (.keySlotChangeApply slot) s = .next t ∧ t = ({ s with sec := s.sec.applyChange slot } : State).settle)
    ∧ (s.liveOn slot x.fsn ≠ 0 → ∃ t, exec (.keySlotChangeApply slot) s = .next t ∧ t = s))
  ∧ ∀ (s : State) (r : Requester), Safety.served s r .secBrctl →
    ∃ t, exec (.secBrctlFin r) s = .next t ∧ t = { s with sec := t.sec, mgc := { s.mgc with act := t.mgc.act } }
      ∧ t.sec = (s.storeReg .secBrctl 0x80000000).sec.finish s.fev.bootRecords s.stamp s.mgc.cal.serial

/-- SPDM (R357, R358): an endpoint answers each request by its stage, a large response goes out in chunks, and a large request comes in by them; where no endpoint is there, nothing changes. It also rests on choices of the model, log entry 23. -/
def Obligations.SpdmRequests : Prop :=
  ∀ (s : State) (ep : Nat) (e : SpdmEp), e = Tab.getD s.sec.endpoints ep .fresh →
    (s.runs = false ∨ s.fetchPaused = true ∨ s.spdmEndpoint ep = false → ∃ t, exec (.getVersion ep) s = .next t ∧ t = s)
    ∧ (s.runs = true → s.fetchPaused = false → s.spdmEndpoint ep = true →
      (∃ t, exec (.getVersion ep) s = .next t ∧ t = { s with
        sec := { s.sec with endpoints := Tab.set s.sec.endpoints ep { SpdmEp.fresh with stage := 1, handles := e.handles } }, out := .spdm ep (.version [0x12, 0x13]) :: s.out })
      ∧ (∀ v n : Nat, v = 0x12 ∨ v = 0x13 → 1 ≤ e.stage → ∃ t, exec (.getCapabilities ep v n) s = .next t ∧ t = { s with
        sec := { s.sec with endpoints := Tab.set s.sec.endpoints ep { e with stage := 2, version := v, maxSize := n } }, out := .spdm ep (.capabilities 15) :: s.out })
      ∧ (∀ a h : Bool, 2 ≤ e.stage → ∃ t, exec (.negotiateAlgorithms ep a h) s = .next t ∧ t = { s with
        sec := { s.sec with endpoints := Tab.set s.sec.endpoints ep { e with stage := if a && h then 3 else 2 } }, out := .spdm ep (.algorithms a h) :: s.out })
      ∧ (e.stage < 3 → ∃ t, exec (.getDigests ep) s = .next t ∧ t.out = .spdm ep e.early :: s.out)
      ∧ (3 ≤ e.stage →
        (∃ t, exec (.getDigests ep) s = .next t ∧ t = { s with
          sec := { s.sec with endpoints := Tab.set s.sec.endpoints ep e }, out := .spdm ep (.digests [Config.sha384 (s.sec.chainBytes 0), Config.sha384 (s.sec.chainBytes 1)]) :: s.out })
        ∧ (∀ slot off n : Nat, slot ≤ 1 → off < (s.sec.chainBytes slot).length → (((s.sec.chainBytes slot).drop off).take n).length ≤ e.maxSize →
          ∃ t, exec (.getCertificate ep slot off n) s = .next t ∧ t = { s with
            sec := { s.sec with endpoints := Tab.set s.sec.endpoints ep e }
            out := .spdm ep (.certificate slot (((s.sec.chainBytes slot).drop off).take n) ((s.sec.chainBytes slot).length - off - (((s.sec.chainBytes slot).drop off).take n).length)) :: s.out })
        ∧ (∀ slot : Nat, slot ≤ 1 → s.sec.privKeys = true → ∃ t, exec (.challenge ep slot) s = .next t ∧ t = { s with
          sec := { s.sec with endpoints := Tab.set s.sec.endpoints ep e }, out := .spdm ep (.challengeAuth slot (Config.signature s.sec.alias' (s.sec.chainBytes slot))) :: s.out })
        ∧ (∀ (i v : Nat) (signed : Bool), i ≠ 0 → i ≠ 0xFF → measValue (newestRecord s.fev.bootRecords) i = some v → (signed = true → s.sec.privKeys = true) →
          e.maxSize = 0 → ∃ t, exec (.getMeasurements ep i signed) s = .next t ∧ t = { s with
            sec := { s.sec with endpoints := Tab.set s.sec.endpoints ep e }
            out := .spdm ep (.measurements [(i, v)] (if signed then some (Config.signature s.sec.alias' (leBytes 1 i ++ leBytes 48 v)) else none)) :: s.out }))
      ∧ (∀ c : SpdmChunks, e.sending = some c → ∃ t, exec (.chunkGet ep c.handle c.nextSeq) s = .next t
          ∧ t.out = .spdm ep (.chunk c.handle c.nextSeq (c.data.take e.maxSize) (c.data.drop e.maxSize).isEmpty) :: s.out
          ∧ (Tab.getD t.sec.endpoints ep .fresh).sending = if (c.data.drop e.maxSize).isEmpty then none else some ⟨c.handle, c.nextSeq + 1, c.data.drop e.maxSize⟩)
      ∧ ∀ (handle : Nat) (part : List Byte) (q : SpdmReq), 2 ≤ e.stage → ∃ t, exec (.chunkSend ep handle 0 false part q) s = .next t
          ∧ t.out = .spdm ep (.chunkAck handle 0 []) :: s.out ∧ (Tab.getD t.sec.endpoints ep .fresh).receiving = some ⟨handle, 1, part⟩)

/-- Faults of the whole device (R26, R371 to R373, R432, R436, R440, R445, R463): the loss of a main clock, an alarm and a thermal shutdown enter the safe state; an alarm also erases every key; a debug unlock erases the keys without a fault; the loss of the always-on crystal is an event, and its check passing ends it. It also rests on choices of the model, log entry 205. -/
def Obligations.DeviceFaults : Prop :=
  (∀ s : State, s.up = true → s.fev.safe = false → s.dumped = false →
    (∃ t, exec .refclkMainLoss s = .next t ∧ Safety.fellSafe s t 0x0B 0x05)
    ∧ (∀ clk : Nat, clk < 4 → ∃ t, exec (.corePllLockLoss clk) s = .next t ∧ Safety.fellSafe s t 0x0B 0x06 ∧ t.sec = s.sec)
    ∧ (∀ (c : Instr) (n : Nat), (c = .supplyGlitchAlarm ∧ n = 0 ∨ c = .clockAlarm ∧ n = 1 ∨ c = .roundCheckAlarm ∧ n = 2) →
      ∃ t, exec c s = .next t ∧ Safety.fellSafe s t 0x08 0x05 ∧ t.sec = s.sec.alarm n ∧ t.sec.keys = [] ∧ t.sec.skey = [] ∧ t.sec.privKeys = false)
    ∧ (s.ptm.throttle ≠ .shutdown → 2 ≤ hotCount s.ptm.onDie → ∃ t, exec .thermalShutdown s = .next t ∧ Safety.fellSafe s t 0x0A 0x06 ∧ t.ptm.throttle = .shutdown ∧ t.ptm.shutAt = s.clock.now
      ∧ t.fev.safeThermal = true)
    ∧ (hotCount s.ptm.onDie < 2 → exec .thermalShutdown s = .next s)
    ∧ (∀ (src code ot ob a0 a1 a2 : Nat) (severe : Bool), reported src code = true →
      ((evClass src code severe).1 = .u → ∃ t, exec (.faultReport (.coded src code ot ob a0 a1 a2 severe)) s = .next t ∧ Safety.fellSafe s t src code)
      ∧ ((evClass src code severe).1 ≠ .u → ∃ t, exec (.faultReport (.coded src code ot ob a0 a1 a2 severe)) s = .next t
        ∧ t = { s with fev := s.fev.report (mkReport src code ot ob a0 a1 a2 severe) s.stamp })))
  ∧ (∀ s : State, s.up = true → s.sec.debugUnlocked = false → ∃ t, exec .debugUnlock s = .next t ∧ t.sec = { s.sec.alarm 3 with debugUnlocked := true }
      ∧ t.sec.keys = [] ∧ t.fev.safe = s.fev.safe ∧ t.qce = s.qce ∧ t.fl = s.fl)
  ∧ (∀ s : State, s.up = true → s.ptm.throttle = .shutdown → ∃ t, exec .thermtripAssert s = .next t ∧ t = { s with ptm := { s.ptm with thermtrip := true }, clock := t.clock }
      ∧ t.clock.now = (if s.ptm.hue = .off then s.clock.now else max s.clock.now (s.ptm.shutAt + 200 * msT)))
  ∧ ∀ s : State, s.up = true →
    (s.clock.xtalLost = false → ∃ t, exec .aonXtalLoss s = .next t ∧ t.clock = { s.clock with xtal := false, xtalLost := decide (s.clock.aonAt + 20000000 ≤ s.clock.aon) }
      ∧ t = { s with clock := t.clock, fev := t.fev } ∧ (s.clock.aon < s.clock.aonAt + 20000000 → t.fev = s.fev))
    ∧ ∃ t, exec .aonXtalRatioCheckPass s = .next t ∧ t = { s with clock := { s.clock with xtal := true, xtalLost := false } }

/-- Recoveries (R27 to R32, R455): a fault in a scope starts its recovery, is absorbed by one that runs, or is fatal to the device; a recovery that completes leaves its scope running again. It also rests on choices of the model, log entries 176, 177, 206. -/
def Obligations.Recoveries : Prop :=
  (∀ (s g : State) (c : Instr) (sc : Scope), s.watched = true →
    ((∃ n, n < 8 ∧ c = .acHeartbeatMiss n ∧ sc = .core n ∧ g = s)
      ∨ (∃ k, c = .nandPllLockLoss k ∧ sc = .cluster k ∧ (clusterChannels k).any s.fl.hw.hasChannel = true ∧ g = s)
      ∨ (∃ k, c = .schedulerHeartbeatTimeout k ∧ sc = .cluster k ∧ (clusterChannels k).any s.fl.hw.hasChannel = true ∧ s.fev.safe = false
          ∧ s.fev.active.contains (.cluster k) = false ∧ s.fev.active.contains .device = false ∧ g = s.until' (Tab.getD s.fev.schedFrom k 0 + 5 * msT))
      ∨ ∃ ch, c = .faultReport (.sequencer ch) ∧ sc = .channel ch ∧ s.fl.hw.hasChannel ch = true ∧ g = s) →
    (g.fev.judge sc g.hours = .recovers → ∃ t, exec c s = .next t ∧ t = State.recover { g with fev := g.fev.startRecovery sc g.stamp } sc)
    ∧ (g.fev.judge sc g.hours = .absorbed → ∃ t, exec c s = .next t ∧ t = { g with fev := t.fev })
    ∧ (∀ e, g.fev.judge sc g.hours = .escalate e → ∃ t, exec c s = .next t ∧ t = State.scopeFault 2 { g with fev := g.fev.escBit sc } e)
    ∧ (g.fev.judge sc g.hours = .fatal → g.fev.safe = false → ∃ t, exec c s = .next t ∧ Safety.fellSafe g t 0x0B 0x04))
  ∧ (∀ (s : State) (n : Nat), s.watched = true → n < 8 → s.fev.judge (.core n) s.hours = .recovers →
    ∃ t, exec (.acHeartbeatMiss n) s = .next t ∧ t.fev.active = .core n :: s.fev.active.filter (fun a => !(Scope.core n).contains a)
      ∧ t.mgc.acRun = s.mgc.acRun - s.mgc.acRun / 2 ^ n % 2 * 2 ^ n ∧ t = { s with fev := t.fev, mgc := { s.mgc with acRun := t.mgc.acRun } })
  ∧ (∀ (s g : State) (ch die due : Nat), s.watched = true → s.fl.hw.hasDie die = true → die / 32 = ch → s.fl.watchdogDue s.clock.now die = some due → g = s.until' due →
    ∃ t, exec (.channelWatchdogExpiry ch die) s = .next t
      ∧ t = State.faultIn (if s.fev.safe = true then g else g.media (g.fl.dieExpiry g.clock.now g.hours die)) (.channel ch))
  ∧ (∀ (s g : State) (m : Nat), s.kicking = true → s.fev.active.contains .device = false → g = s.until' (s.fev.kickedAt + 2500000) →
    ∃ t h, exec (.cameleerWatchdogExpiry m) s = .next t ∧ h = ({ g with fev := { g.fev with regs := g.fev.regs.setFld .fevDevwdg 3 3 1 } } : State)
      ∧ (s.watched = true → t = State.faultIn { h with mgc := { h.mgc with reload := some m } } .device) ∧ (s.watched = false → t = { h with fev := { h.fev with kickedAt := h.clock.now } }))
  ∧ (∀ (s : State) (n : Nat), s.runs = true → s.fev.active.contains (.core n) = true →
    ∃ t, exec (.acRecoveryComplete n) s = .next t ∧ t.fev = s.fev.endRecovery (.core n) ∧ t.mgc.acRun / 2 ^ n % 2 = 1
      ∧ t = { s with fev := t.fev, mgc := { s.mgc with acRun := t.mgc.acRun } })
  ∧ (∀ (s u : State) (ch : Nat), s.runs = true → s.fev.active.contains (.channel ch) = true → u = { s with fev := s.fev.endRecovery (.channel ch) } →
    Safety.quiet (u.withFl (u.fl.channelsBack [ch])) → ∃ t, exec (.unitRecoveryComplete ch) s = .next t ∧ t = u.withFl (u.fl.channelsBack [ch]))
  ∧ (∀ (s u : State) (k : Nat), s.runs = true → s.fev.active.contains (.cluster k) = true →
    u = { s with fev := { s.fev.endRecovery (.cluster k) with schedFrom := Tab.set (s.fev.endRecovery (.cluster k)).schedFrom k s.clock.now } } →
    Safety.quiet (u.withFl (u.fl.channelsBack (clusterChannels k))) →
    ∃ t, exec (.clusterRecoveryComplete k) s = .next t ∧ t = u.withFl (u.fl.channelsBack (clusterChannels k)))
  ∧ ∀ (s u : State), s.runs = true → s.fev.active.contains .device = true →
    (s.reloaded ≠ s.sec.imageDigest → ∃ t, exec .deviceRecoveryComplete s = .next t ∧ Safety.fellSafe s t 0x0B 0x08)
    ∧ (s.reloaded = s.sec.imageDigest →
      u = { s with fetchPaused := false, mgc := { s.mgc with acRun := 255, reload := none }, fev := { s.fev.endRecovery .device with kickedAt := s.clock.now, heldAt := none, schedFrom := (List.range 8).map fun k => (k, s.clock.now) } } →
      Safety.quiet (u.withFl (u.fl.channelsBack u.fl.hw.channels)) →
      ∃ t, exec .deviceRecoveryComplete s = .next t ∧ t = u.withFl (u.fl.channelsBack u.fl.hw.channels))

/-- Hold-up energy and temperature (R414 to R419, R428 to R433): a sample of V that is over its bounds a second time makes the HUE ABSENT, and one below VPF a second time is a power loss; capacitor tests are scheduled, start and are judged; sensors are read and the throttle's level follows. -/
def Obligations.PowerAndThermal : Prop :=
  (∀ (s u : State) (mV : Nat) (P : Ptm), s.up = true → s.ptm.hue.judged = true → u = s.until' (nextMultiple s.clock.now msT) →
    P = (u.ptm.sample u.clock.now mV u.fl.ptx.protMax).1 → Safety.quiet { u with ptm := P } →
    (s.ptm.board.vhmax < mV → s.ptm.board.vpf ≤ mV → 1 ≤ s.ptm.outCount → ∃ t, exec (.hueSample mV) s = .next t ∧ t = { u with ptm := P } ∧ t.ptm.hue = .absent ∧ t.ptm.v = mV)
    ∧ (mV < s.ptm.board.vpf → 1 ≤ s.ptm.pfCount → ∃ t, exec (.hueSample mV) s = .next t ∧ t.ptm.hue = .dumping ∧ t.ptm.dump.isSome = true
      ∧ t.fl.ptx.dump.isSome = true ∧ t.clock = u.clock ∧ t.mgc.acRun = 0))
  ∧ (∀ s : State, s.up = true → s.ptm.hue = .degraded → ∃ t, exec .hueRetestTimer s = .next t ∧ t.ptm.testWanted = true
      ∧ t.clock.now = max s.clock.now (s.ptm.degradedAt + 60 * secT) ∧ t.ptm.degradedAt = t.clock.now ∧ t = { s with ptm := { s.ptm with testWanted := true, degradedAt := t.ptm.degradedAt }, clock := t.clock })
  ∧ (∀ (s : State) (a : Nat), s.up = true → s.ptm.lastTest = some a → ∃ t, exec .hueTestPeriodExpiry s = .next t
      ∧ t.clock.now = max s.clock.now (a + s.ptm.regs.fld .ptmHuecfg 7 0 * 3600 * secT) ∧ t = { s with ptm := s.ptm.schedule, clock := t.clock })
  ∧ (∀ s : State, s.up = true → (s.ptm.testMayStart = true → ∃ t, exec .capTestStart s = .next t ∧ t = { s with ptm := { s.ptm with testWanted := false, testRun := some s.clock.now } })
      ∧ (s.ptm.testMayStart = false → ∃ t, exec .capTestStart s = .next t ∧ t = s))
  ∧ (∀ (s : State) (r : Requester), Safety.served s r .ptmHuestat → ∃ t, exec (.ptmHuestatTestgo r) s = .next t
      ∧ t = { s with ptm := { s.ptm with regs := t.ptm.regs, testWanted := s.ptm.testWanted || s.ptm.hue.judged } })
  ∧ (∀ (s u : State) (a v1 vs v2 : Nat) (P : Ptm), s.up = true → s.ptm.testRun = some a → u = s.until' (a + 12 * msT) →
      P = u.ptm.testDone u.clock.now u.stampMs u.fl.ptx.protMax v1 vs v2 → Safety.quiet { u with ptm := P } →
      ∃ t, exec (.capTestComplete v1 vs v2) s = .next t ∧ t = { u with ptm := P } ∧ t.ptm.testRun = none ∧ t.ptm.lastTest = some u.clock.now
        ∧ ∀ c esr, testResult s.ptm.board.rtest v1 vs v2 = some (c, esr) →
          (s.ptm.board.passes c esr = true → t.ptm.cap = some c ∧ t.ptm.esr = esr) ∧ (s.ptm.board.passes c esr = false → t.ptm.cap = s.ptm.cap ∧ t.ptm.testFail = true ∧ t.ptm.testFails = s.ptm.testFails + 1))
  ∧ (∀ (s g : State) (readings : List Int) (P : Ptm × List Report), s.up = true → s.dumped = false → g = s.until' (nextMultiple s.clock.now (10 * msT)) →
      P = g.ptm.sensorSample g.clock.now readings g.part.minTj (g.tas.rates g.clock.now).1 (g.tas.rates g.clock.now).2 →
      ∃ t, exec (.sensorSample readings) s = .next t ∧ t = (State.reports { g with ptm := P.1, health := g.health.sampled P.1.composite (g.ptm.throttle == .none && P.1.throttle == .active), qce := g.qce.temperature g.ptm.composite P.1.composite } P.2).warn)
  ∧ (∀ (s : State) (k : Nat) (readings : Tab Int) (P : Ptm × List Report), s.runs = true → k < 8 → P = s.ptm.nandRead s.clock.now k (Tab.keep readings fun c _ => s.fl.hw.hasChannel c) →
      ∃ t, exec (.nandTemperatureRead k readings) s = .next t ∧ t = ((({ s with ptm := P.1 } : State).nandBands k).reports P.2).warn)
  ∧ ∀ s : State, s.up = true → s.dumped = false → s.ptm.throttle = .active → ∃ t, exec .throttleLevelUpdate s = .next t
      ∧ t.clock.now = nextMultiple s.clock.now (100 * msT) ∧ t = { s with ptm := s.ptm.levelNow, clock := t.clock }

/-- What a die reports (R29, R237, R239, R243 to R249, R279): suspended, the end of a read and of its transfer, the status of a program and of an erase, the end of a reset; the hold's expiry and NESTWAIT; a day without an expiry. Nothing else on the media side changes where nothing else is due. -/
def Obligations.DieOperations : Prop :=
  (∀ (s : State) (d : Nat) (f : Flash), s.runs = true → s.dieRuns d = true → Safety.quiet (s.withFl f) →
    (∀ o : Op, (s.fl.die d).suspending = true → (s.fl.die d).op = some o →
      f = s.fl.setDie d { s.fl.die d with
          st := if o.kind.isErase then .es else .ps, op := some { o with ran := o.ranAt s.clock.now, suspends := o.suspends + 1 }, suspending := false
          holdEnd := s.clock.now + (if o.kind.isErase then s.fl.eholdT d else s.fl.pholdT d), holdOver := false } →
      ∃ t, exec (.dieSuspended d) s = .next t ∧ t = s.withFl f)
    ∧ (∀ (id at' : Nat) (j : Job), (s.fl.die d).reads = [(id, at')] → Tab.get? s.fl.dip.jobs id = some j → j.stage = .running →
      f = (s.fl.setDie d { s.fl.die d with
          st := (match (s.fl.die d).st with
            | .read => .idle
            | .psRead => .ps
            | .esRead => .es
            | x => x), reads := [] }).setJob id { j with stage := .transfer } →
      ∃ t, exec (.dieReadDone d id) s = .next t ∧ t = s.withFl f)
    ∧ ((s.fl.die d).st = .reset → f = s.fl.setDie d { s.fl.die d with st := .idle, resets := 0 } → ∃ t, exec (.dieResetComplete d true) s = .next t ∧ t = s.withFl f)
    ∧ ((s.fl.die d).st = .reset → (s.fl.die d).resets = 0 → f = s.fl.setDie d { s.fl.die d with resets := 1, resetAt := s.clock.now } → ∃ t, exec (.dieResetComplete d false) s = .next t ∧ t = s.withFl f)
    ∧ (∀ o : Op, (s.fl.die d).st = .erase → (s.fl.die d).op = some o → s.fl.maySuspend s.clock.now d = true → s.fl.mbe.regs.bit (.mbeSchedcfg (dieCluster d)) 28 = true →
      (s.fl.hw.desc d).flags.testBit 2 = true → (s.fl.die d).internal.any (s.fl.nestable s.clock.now d) = true →
      f = (if o.nests < (s.fl.hw.desc d).nestmax then s.fl.suspend s.clock.now d else s.fl) → ∃ t, exec (.nestwaitExpiry d) s = .next t ∧ t = s.withFl f))
  ∧ (∀ (s : State) (ch id : Nat) (j : Job) (rest : List (Nat × Job)), s.runs = true → s.fl.hw.hasChannel ch = true → Tab.getD s.fl.mbe.chSt ch 0 = 2 →
    s.fl.transferring ch = (id, j) :: rest → j.stage = .transfer → Safety.quiet (s.withFl (s.fl.setJob id { j with stage := .staged, readsLeft := 0 })) →
    ∃ t, exec (.frameTransferDone ch) s = .next t ∧ t = s.withFl (s.fl.setJob id { j with stage := .staged, readsLeft := 0 }))
  ∧ (∀ (s : State) (d : Nat), s.runs = true → (s.fl.die d).st = .reset → 1 ≤ (s.fl.die d).resets →
    ∃ t, exec (.dieResetComplete d false) s = .next t ∧ t = s.media (s.fl.dieOut s.clock.now s.hours d 3 false))
  ∧ (∀ (s g : State) (d : Nat) (f : Flash), s.runs = true → s.dieRuns d = true → g = s.until' (s.fl.die d).holdEnd →
    (s.fl.die d).st = .psRead ∨ (s.fl.die d).st = .esRead ∨ (s.fl.die d).st = .esProg → Safety.quiet (g.withFl f) →
    f = ({ s.fl.setDie d { s.fl.die d with holdOver := true } with
        mbe := { (s.fl.setDie d { s.fl.die d with holdOver := true }).mbe with
          regs := if (s.fl.die d).host = [] then s.fl.mbe.regs else s.fl.mbe.regs.setFld (.mbeSchedstat (dieCluster d)) 15 15 1 } } : Flash).decideAll
        g.clock.now d g.recovering →
    ∃ t, exec (.suspendHoldExpiry d) s = .next t ∧ t = g.withFl f)
  ∧ (∀ (s g : State) (d : Nat) (f : Flash), s.runs = true → (s.fl.dieRec d).health = .suspect → g = s.until' ((s.fl.dieRec d).suspectAt + dayT) →
    f = s.fl.setDieRec d { s.fl.dieRec d with health := .inService, expiries := [] } → Safety.quiet (g.withFl f) →
    ∃ t, exec (.dieSuspectClear d) s = .next t ∧ t = g.withFl f)
  ∧ (∀ (s : State) (d : Nat) (o : Op), s.runs = true → s.dieRuns d = true → (s.fl.die d).op = some o →
    (∀ (id : Nat) (w : Wordline) (b : Band) (key step : Nat) (r : Blk), (s.fl.die d).st = .prog → o.kind = .program id → Tab.get? s.fl.ptx.wls id = some w → Tab.get? s.fl.ptx.bands w.band = some b →
      b.set.find? (fun y => y.1 == d) = some (d, key) → r = s.fl.blk (blkKey d key) → step = (s.fl.hw.desc d).step b.slc →
      ∃ t, exec (.wordlineProgramStatus d true) s = .next t
        ∧ t = s.media (((s.fl.setDie d { s.fl.die d with st := .idle, op := none, suspending := false }).setBlk (blkKey d key)
            { r with done := w.wl * step + step, st := if (s.fl.hw.desc d).units b.slc ≤ w.wl * step + step then .full else r.st }).programPassed s.clock.now s.hours id d))
    ∧ ∀ (key : Nat) (band : Option Nat) (slc pass : Bool), (s.fl.die d).st = .erase → o.kind = .erase key band slc →
      ∃ t, exec (.eraseStatus d pass) s = .next t
        ∧ t = s.media ((s.fl.setDie d { s.fl.die d with st := .idle, op := none, suspending := false }).eraseStatus s.clock.now s.hours key band slc pass))
  ∧ ∀ (s : State) (d : Nat) (pass : Bool) (i : Instr), (i = .wordlineProgramStatus d pass ∨ i = .eraseStatus d pass) → s.runs = false → s.up = true →
    ∃ t, exec i s = .next t ∧ ((s.fl.die d).st = .prog ∨ (s.fl.die d).st = .erase → t = s.withFl (s.fl.setDie d { s.fl.die d with st := .idle, op := none, suspending := false }))
      ∧ ((s.fl.die d).st = .esProg → t = s.withFl (s.fl.setDie d { s.fl.die d with st := .es, nested := none }))

/-- What a scheduler decides (R236, R248, R301 to R305): a die that becomes free takes an operation that must go first, else the erase of a Wadi block, else its host reads, else the oldest internal operation, else its next erase that is due since the start; a suspended die reads within its hold, nests a program where it may and resumes after it; on a busy die the reads are decided, and in a scope that recovers they wait or become Mirage reads. It also rests on choices of the model, log entry 178. -/
def Obligations.DieScheduling : Prop :=
  (∀ (s : State) (d : Nat), s.runs = true → s.dieRuns d = true →
    ((s.fl.die d).st = .idle → (s.fl.die d).internal.any (s.fl.dueFirst s.clock.now d) = true →
      ∃ t, exec (.dieWorkSelect d) s = .next t ∧ t = s.media (s.fl.issueInternal s.clock.now s.hours d (s.fl.dueFirst s.clock.now d) false))
    ∧ ((s.fl.die d).st = .idle → (s.fl.die d).internal.any (s.fl.dueFirst s.clock.now d) = false → s.fl.wadiNext d = false → (s.fl.die d).host ≠ [] →
      ∃ t, exec (.dieWorkSelect d) s = .next t ∧ t = s.media (s.fl.readOn s.clock.now d s.recovering))
    ∧ ((s.fl.die d).st = .idle → (s.fl.die d).internal.any (s.fl.dueFirst s.clock.now d) = false →
      s.fl.wadiNext d = true ∨ (s.fl.die d).host = [] ∧ (s.fl.die d).internal = [] → ∀ key, s.fl.nextErase d = some key →
      ∃ t, exec (.dieWorkSelect d) s = .next t ∧ t = s.media (s.fl.issueOp s.clock.now s.hours d (.erase key none (s.fl.blk key).pool) false))
    ∧ ((s.fl.die d).st = .idle → (s.fl.die d).internal.any (s.fl.dueFirst s.clock.now d) = false → s.fl.wadiNext d = false → (s.fl.die d).host = [] →
      (s.fl.die d).internal ≠ [] →
      ∃ t, exec (.dieWorkSelect d) s = .next t ∧ t = s.media (s.fl.issueInternal s.clock.now s.hours d (fun _ => true) false))
    ∧ ((s.fl.die d).st = .ps ∨ (s.fl.die d).st = .es ∧ s.fl.mayNest s.clock.now d = false → (s.fl.die d).host = [] ∨ s.fl.holdPast s.clock.now d = true →
      ∃ t, exec (.dieWorkSelect d) s = .next t ∧ t = s.media (s.fl.resume s.clock.now d, []))
    ∧ ((s.fl.die d).st = .es → s.fl.mayNest s.clock.now d = true → (s.fl.die d).host = [] →
      ∃ t, exec (.dieWorkSelect d) s = .next t ∧ t = s.media (s.fl.issueInternal s.clock.now s.hours d (s.fl.nestable s.clock.now d) true))
    ∧ ((s.fl.die d).st = .ps ∨ (s.fl.die d).st = .es → (s.fl.die d).host ≠ [] → s.fl.holdPast s.clock.now d = false →
      ∃ t, exec (.dieWorkSelect d) s = .next t ∧ t = s.media (s.fl.readOn s.clock.now d s.recovering))
    ∧ ((s.fl.die d).st = .prog ∨ (s.fl.die d).st = .esProg →
      (∃ t, exec (.dieWorkSelect d) s = .next t ∧ t = s.media (s.fl.decideAll s.clock.now d s.recovering, []))
      ∧ ∃ t, exec (.typicalTimePassed d) s = .next t ∧ t = s.media (s.fl.decideAll s.clock.now d s.recovering, []))
    ∧ ((s.fl.die d).st = .reset ∨ (s.fl.die d).st = .out → Safety.quiet s →
      ((s.fl.die d).st = .reset ∨ (s.fl.die d).internal = [] → exec (.dieWorkSelect d) s = .next s) ∧ exec (.typicalTimePassed d) s = .next s))
  ∧ (∀ (s : State) (d : Nat), s.runs = true → s.fl.hw.hasDie d = true → s.recovering d = true →
      ∃ t, exec (.dieWorkSelect d) s = .next t ∧ t = s.media (s.fl.mirageWaiting s.clock.now d s.recovering, []))
  ∧ (∀ (s g : State) (d : Nat) (q : Queued) (rest : List Queued), s.runs = true → s.dieRuns d = true → (s.fl.die d).internal = q :: rest → (s.fl.die d).st = .idle →
    g = s.until' (q.since + s.fl.intmaxT d) →
    ∃ t, exec (.intmaxExpiry d) s = .next t ∧ t = g.media (s.fl.issueInternal g.clock.now g.hours d (s.fl.dueFirst g.clock.now d) false))
  ∧ (∀ (s : State) (k : Nat), s.runs = true →
    (∃ t, exec (.dieStatePublish k) s = .next t ∧ t = s.media (s.fl.publish s.clock.now k s.recovering, []))
    ∧ (Safety.quiet (s.withFl (s.fl.publish s.clock.now k s.recovering)) → (∀ e ∈ s.fl.mbe.dies, e.2.st.busy = true → e.2.host = []) →
      ∃ t, exec (.dieStatePublish k) s = .next t ∧ t = { s with fl := { s.fl with dip := { s.fl.dip with published := t.fl.dip.published } } }
        ∧ (∀ d, dieCluster d ≠ k → Tab.get? t.fl.dip.published d = Tab.get? s.fl.dip.published d))
    ∧ (Safety.quiet (s.withFl (s.fl.calibrate s.clock.now k)) →
      ∃ t, exec (.zqShortCalibration k) s = .next t ∧ t = s.withFl (s.fl.calibrate s.clock.now k) ∧ t.fl.ptx = s.fl.ptx ∧ t.fl.mbe.blks = s.fl.mbe.blks))

/-- Decoders and rebuild (R263, R266 to R270, R275, R278, R281, R282): what an accepted, a misplaced and a failed frame become, a frame that two sources rebuilt, the patrol's reads and the work of a rebuild. It also rests on choices of the model, log entry 36. -/
def Obligations.DecodersAndRebuild : Prop :=
  (∀ (s : State) (id : Nat) (j : Job), s.runs = true → Tab.get? s.fl.dip.jobs id = some j →
    (j.stage = .staged →
      (∃ t, exec (.hardDecodeDone id .accepted) s = .next t ∧ t = s.media (s.fl.deliver id j false))
      ∧ (∃ t, exec (.hardDecodeDone id .misplaced) s = .next t
        ∧ t = s.media (if s.fl.parityFrame j.loc then s.fl.deliver id j false else s.fl.misplaced s.clock.now s.hours id j))
      ∧ ∀ u : Nat, ∃ t, exec (.hardDecodeDone id (.failed u)) s = .next t ∧ t = s.media (s.fl.nextStep s.clock.now s.hours (s.tlerOf id) id (j.attempt u)))
    ∧ (j.stage = .soft2 ∨ j.stage = .soft3 → j.readsLeft = 0 →
      (∃ (t : State) (f : Flash), exec (.softDecodeDone id .accepted) s = .next t ∧ t = s.media (f.deliver id j false) ∧ f.dip.softdec = s.fl.dip.softdec + 1
        ∧ f.dieRec (j.loc / 2 ^ 27) = { s.fl.dieRec (j.loc / 2 ^ 27) with soft := (s.fl.dieRec (j.loc / 2 ^ 27)).soft + 1 })
      ∧ ∀ u : Nat, ∃ t, exec (.softDecodeDone id (.failed u)) s = .next t ∧ t = s.media (s.fl.nextStep s.clock.now s.hours (s.tlerOf id) id j))
    ∧ (j.stage ≠ .staged → Safety.quiet s → ∀ d : Decoded, exec (.hardDecodeDone id d) s = .next s)
    ∧ (j.wanted.all (fun r => Tab.get? j.helpers r == some true) = true →
      (j.stage = .mirage → ∃ (t : State) (f : Flash), exec (.reconstructionDone id true) s = .next t ∧ t = s.media (f.deliver id j true) ∧ f.dip.mirages = s.fl.dip.mirages + 1 ∧ f.ptx = s.fl.ptx)
      ∧ (j.stage = .localRec ∨ j.stage = .globalRec → ∃ (t : State) (f : Flash), exec (.reconstructionDone id true) s = .next t ∧ t = s.media (f.deliver id j false)
          ∧ f.dip.dunerec = s.fl.dip.dunerec + 1 ∧ f.ptx = s.fl.ptx)
      ∧ (j.stage = .globalRec → ∃ t, exec (.reconstructionDone id false) s = .next t ∧ t = s.media (s.fl.unrecoverable s.clock.now id j)))
    ∧ (∀ (r : Nat) (ok : Bool), r ∈ j.wanted → Tab.has j.helpers r = false → Safety.quiet s → exec (.reconstructionDone id ok) s = .next s))
  ∧ (∀ (s : State) (d blk frame k : Nat) (b : Band), s.runs = true → s.fl.bandOf d blk = some (k, b) →
    (frame / 16 < b.committed → (s.fl.blk (blkKey d blk)).st = .full → s.fl.dip.regs.fld .dipCfg 15 8 ≠ 0 →
      ∃ t, exec (.patrolRead d blk frame) s = .next t ∧ t = s.media (s.fl.startRead s.clock.now .patrol (locKey d blk frame) none 0 s.clock.now false))
    ∧ (b.committed ≤ frame / 16 ∨ (s.fl.blk (blkKey d blk)).st ≠ .full ∨ s.fl.dip.regs.fld .dipCfg 15 8 = 0 → Safety.quiet s → exec (.patrolRead d blk frame) s = .next s))
  ∧ ∀ (s : State) (d : Nat), s.runs = true →
    (s.recovering d = true → Safety.quiet s → exec (.rebuildWorkIssue d) s = .next s)
    ∧ (∀ p, s.recovering d = false → (s.fl.dieRec d).promoting = some p → ∃ t, exec (.rebuildWorkIssue d) s = .next t ∧ t = s.media (s.fl.spareDone s.clock.now d))
    ∧ (∀ (key k : Nat) (b : Band), s.recovering d = false → (s.fl.dieRec d).promoting = none → s.fl.rebuilding.contains d = true → s.fl.nextRebuild d = some (key, k, b) →
      s.fl.valid b * 100 < s.fl.dip.regs.fld .dipRebcfg 23 16 * b.userFrames →
      ∃ t, exec (.rebuildWorkIssue d) s = .next t ∧ t = s.media (s.fl.force k (refreshDest b.slc), []))
    ∧ ((s.fl.dieRec d).promoting = none → s.fl.rebuilding.contains d = false → Safety.quiet s → exec (.rebuildWorkIssue d) s = .next s)

/-- Space (R134, R186, R199 to R205, R215, R222, R224, R254, R257): a stripe is placed, held, and placed when its hold expires; the tail of the journal is programmed; bands are erased; blocks change pool; the capacity state's timed rows; checkpoints. It also rests on choices of the model, log entry 36. -/
def Obligations.SpaceEvents : Prop :=
  (∀ (s : State) (n : Nat), s.runs = true → n ≠ 16 → n ≠ 17 →
    (∀ pad, s.fl.stripeReady n = false → (pad && s.padOk n) = false → Safety.quiet s → exec (.stripeProgramIssue n pad) s = .next s)
    ∧ (∀ pad, (s.fl.stripeReady n || (pad && s.padOk n)) = true → s.fl.needMerge n ≠ [] →
      ∃ t, exec (.stripeProgramIssue n pad) s = .next t ∧ t = s.media (s.fl.mergeAll s.clock.now n))
    ∧ (∀ pad, (s.fl.stripeReady n || (pad && s.padOk n)) = true → s.fl.needMerge n = [] → s.holds n = false →
      ∃ t, exec (.stripeProgramIssue n pad) s = .next t ∧ t = s.media (s.fl.issueStripe s.clock.now n (pad && s.padOk n) (s.urgentFor n), []))
    ∧ (∀ pad, s.holds n = true → s.fl.needMerge n = [] → Safety.quiet s → exec (.stripeProgramIssue n pad) s = .next s)
    ∧ (∀ (a : Nat) (g : State), s.holds n = true → Tab.get? s.fl.ptx.readyAt n = some a → g = s.until' (a + s.fl.ptx.regs.fld .ptxSteercfg 27 16 * 10) →
      s.fl.needMerge n = [] → ∃ t, exec (.stripeHoldExpiry n) s = .next t ∧ t = g.media (s.fl.issueStripe g.clock.now n false (g.urgentFor n), []))
    ∧ (s.holds n = false → exec (.stripeHoldExpiry n) s = .next s))
  ∧ (∀ (s : State) (n : Nat) (pad : Bool), s.runs = true → n = 16 ∨ n = 17 →
    ∃ t, exec (.stripeProgramIssue n pad) s = .next t ∧ t = s.media (s.fl.placeCkpt s.clock.now n, []))
  ∧ (∀ (s g : State), s.runs = true → s.fl.ptx.tail ≠ [] → g = s.until' (s.fl.ptx.tailAt + s.fl.ptx.jtime) →
    ∃ t, exec .jtimeExpiry s = .next t ∧ t = g.media (s.fl.programJournal g.clock.now false, []))
  ∧ (∀ (s : State) (k : Nat) (b : Band), s.runs = true → Tab.get? s.fl.ptx.bands k = some b →
    (s.fl.mayErase k b = true → ∃ t, exec (.eraseIssue k) s = .next t ∧ t = s.media (s.fl.eraseBand s.clock.now k))
    ∧ (s.fl.mayErase k b = false → Safety.quiet s → exec (.eraseIssue k) s = .next s))
  ∧ (∀ s : State, s.runs = true →
    (s.fl.slcSpare = s.fl.slcTarget → Safety.quiet s → exec .slcPoolRebalance s = .next s)
    ∧ (∀ k, s.fl.slcTarget < s.fl.slcSpare → leastBy (fun k => (s.fl.blk k).ecnt) s.fl.slcFree = some k → Safety.quiet (s.withFl (s.fl.movePool s.clock.now k false)) →
      ∃ t, exec .slcPoolRebalance s = .next t ∧ t = s.withFl (s.fl.movePool s.clock.now k false))
    ∧ (∀ k, s.fl.slcSpare < s.fl.slcTarget → leastBy (fun k => (s.fl.blk k).ecnt) (s.fl.hw.dies.filterMap fun d =>
        if s.fl.inService d then leastBy (fun k => (s.fl.blk k).ecnt) (s.fl.freeOf d false) else none) = some k → Safety.quiet (s.withFl (s.fl.movePool s.clock.now k true)) →
      ∃ t, exec .slcPoolRebalance s = .next t ∧ t = s.withFl (s.fl.movePool s.clock.now k true))
    ∧ (∀ (n old new : Nat) (f h : Flash), s.fl.wadiAt n = some old → leastBy (fun k => (s.fl.blk k).ecnt) s.fl.slcFree = some new →
      s.fl.meanAll true + 64 < (s.fl.blk old).ecnt → (s.fl.blk new).ecnt < (s.fl.blk old).ecnt →
      f = (s.fl.setBlk old { s.fl.blk old with pool := true, slc := true }).setBlk new { s.fl.blk new with pool := true, slc := true } →
      h = { f with mbe := { f.mbe with wadiSwap := Tab.set f.mbe.wadiSwap n new } } →
      Safety.quiet (s.withFl { h with ptx := { h.ptx with wadiErased := h.wadiCount, wadiSwapAt := s.clock.now } }) →
      ∃ t, exec (.wadiBandExchange n) s = .next t ∧ t = s.withFl { h with ptx := { h.ptx with wadiErased := h.wadiCount, wadiSwapAt := s.clock.now } })
    ∧ (∃ t, exec .reclaimVictimSelect s = .next t ∧ t = s.media (s.fl.selectVictims s.clock.now s.hours)))
  ∧ (∀ (s : State) (i : Instr) (st d next : Nat), (i = .constrainedTimeout ∧ st = 3 ∧ d = 10000000 ∧ next = 4 ∨ i = .wpSpaceRecoveryTimeout ∧ st = 4 ∧ d = 600000000 ∧ next = 2) → s.runs = true →
    (∀ a, s.fl.ptx.cap = st → s.fl.ptx.capSince = some a → ∃ t, exec i s = .next t ∧ t = (s.until' (a + d)).media (s.fl.toCap next)) ∧ (s.fl.ptx.cap ≠ st → exec i s = .next s)
    ∧ (s.fl.ptx.capSince = none → exec i s = .next s))
  ∧ ∀ s : State, s.runs = true →
    (∀ c d : Ckpt, s.fl.ckptWritten = true → s.fl.ptx.ckptRun = some c →
      d = { c with map := s.fl.ckptMap, bands := s.fl.ptx.bandTable, gens := gensAfter s.fl.ptx.ckpt.gens (s.fl.ptx.loose ++ s.fl.ptx.journal) } →
      ∃ t, exec .checkpointComplete s = .next t ∧ t = s.media ({ s.fl with ptx := { s.fl.ptx with ckptRun := some d, ckptStage := 2 } },
        [.descriptor (d.offset + 32) ((d.bytes 0x00).drop 32), .descriptor d.offset ((d.bytes 0x00).take 16)]))
    ∧ (s.fl.ckptWritten = false → Safety.quiet s → exec .checkpointComplete s = .next s)
    ∧ ∀ (r : Requester) (g : State), (Safety.served s r .ptxCkptstat → g = s.storeReg .ptxCkptstat 0x40000000 →
        (∀ c : Ckpt, s.fl.ptx.ckptRun = some c → Safety.quiet g → ∃ t, exec (.ptxCkptstatForce r) s = .next t ∧ t = g)
        ∧ (s.fl.ptx.ckptRun = none → ∃ (t : State) (c : Ckpt) (f : Flash), exec (.ptxCkptstatForce r) s = .next t ∧ t = g.media (f, [.descriptor c.offset ((c.bytes 0xFF).take 32)])
          ∧ f.ptx.ckptRun = some c ∧ f.ptx.ckptStage = 0 ∧ c.seq = s.fl.ptx.ckptSeq + 1 ∧ f.ptx.ckptSeq = c.seq ∧ c.jpos = s.fl.ptx.jnext ∧ f.ptx.slots = s.fl.ptx.slots ∧ f.ptx.map = s.fl.ptx.map))
      ∧ ∀ v : W32, Safety.served s r .ptxOasiscfg → g = s.storeReg .ptxOasiscfg v → g.fl.ptx.protMax = s.fl.ptx.protMax →
        ∃ t, exec (.ptxOasiscfgWrite r v) s = .next t ∧ t = g.judgeMode ∧ g = { s with fl := { s.fl with ptx := { s.fl.ptx with regs := g.fl.ptx.regs } } }

/-- The firmware store (R389 to R394): a call of the store service at its one address is judged, started and answered, and an entry anywhere else is an access fault; the controller's reads are served, and its programs and erases change the store when they end. -/
def Obligations.FirmwareStore : Prop :=
  (∀ (s : State) (en fr o n : Nat) (bs : List Byte), s.storeUp = true → en ≠ 0x08070000 → exec (.storeServiceRead en fr o n) s = .fault .entryFault
    ∧ exec (.storeServiceProgram en fr o bs) s = .fault .entryFault ∧ exec (.storeServiceErase en fr o n) s = .fault .entryFault ∧ exec (.storeServicePoll en fr) s = .fault .entryFault)
  ∧ (∀ (s : State) (fr o n : Nat) (bs : List Byte) (m : Mgc), s.storeUp = true → m = s.mgc.enterService fr →
    (m.fromWindow = true → ∃ t, exec (.storeServiceRead 0x08070000 fr o n) s = .next t ∧ t = { s with mgc := m, out := .service ⟨.self, o, []⟩ :: s.out })
    ∧ (m.fromWindow = false →
      (1 ≤ n → n ≤ 1048576 → o + n ≤ storeSize → ∃ t, exec (.storeServiceRead 0x08070000 fr o n) s = .next t
        ∧ t = { s with mgc := m, out := .service ⟨.ok, o, s.mgc.readStore s.storeWords o n⟩ :: s.out })
      ∧ (16 ≤ bs.length → bs.length ≤ 256 → bs.length % 16 = 0 → o % 16 = 0 → o / 256 = (o + bs.length - 1) / 256 → o + bs.length ≤ storeSize →
        (m.protects o bs.length = true → ∃ t, exec (.storeServiceProgram 0x08070000 fr o bs) s = .next t ∧ t = { s with mgc := m, out := .service ⟨.protected', o, []⟩ :: s.out })
        ∧ (m.protects o bs.length = false → m.programBusy s.fev.writing.isSome s.fev.erasingSector o = false → m.firstBad s.storeWords o bs = none →
          ∃ t e, exec (.storeServiceProgram 0x08070000 fr o bs) s = .next t ∧ t.mgc.prog = some ⟨.service, o, bs, m.programAt s.clock.now, e⟩
            ∧ t = { s with mgc := { m with prog := t.mgc.prog, erase := t.mgc.erase }, out := .service ⟨.ok, o, []⟩ :: s.out }))
      ∧ (n ≠ 0 → n % sectorSize = 0 → n ≤ 16 * sectorSize → o % sectorSize = 0 → o + n ≤ storeSize → m.protects o n = false → s.mgc.erase = none → s.fev.erasing = none →
        ∃ t, exec (.storeServiceErase 0x08070000 fr o n) s = .next t ∧ t = { s with
          mgc := { m with erase := some ⟨.service, (List.range (n / sectorSize)).map (o / sectorSize + ·), s.clock.now, 0, false⟩ }
          out := .service ⟨.ok, o, []⟩ :: s.out })
      ∧ (s.mgc.prog = none → s.mgc.erase = none →
        ∃ t, exec (.storeServicePoll 0x08070000 fr) s = .next t ∧ t = { s with mgc := { m with svcFail := none }, out := t.out }
          ∧ t.out = .service (match s.mgc.svcFail with | some b => ⟨.fail, b, []⟩ | none => ⟨.ok, 0, []⟩) :: s.out)))
  ∧ (∀ (s : State) (port : FscPort) (o n : Nat), s.up = true → o + n ≤ storeSize →
    (s.nestedProgram = true → ∃ t, exec (.fscReadRequest port o n) s = .next t ∧ t = { s with mgc := { s.mgc with reads := s.mgc.reads ++ [⟨port, o, n⟩] } })
    ∧ (s.nestedProgram = false → ∃ t, exec (.fscReadRequest port o n) s = .next t ∧ t.out = .store port (s.mgc.readStore s.storeWords o n) :: s.out
      ∧ t.clock.now = max s.clock.now s.mgc.suspendAt ∧ t = { s with mgc := { s.mgc with prog := t.mgc.prog, erase := t.mgc.erase }, clock := t.clock, out := t.out }))
  ∧ (∀ (s : State) (p : FscProgram), s.up = true → s.mgc.prog = some p → p.port ≠ .fev → p.started ≤ s.clock.now → s.mgc.waiting = [] → s.mgc.reads = [] →
    ∃ t, exec (.fscProgramDone p.port true) s = .next t ∧ t = { s with fl := if p.port = .ptx then s.fl.ckptProgrammed true else s.fl, mgc := { s.mgc with
      prog := none
      nor := s.mgc.programWords s.storeWords p.offset p.bytes
      erase := t.mgc.erase
      regs := s.mgc.regs.setFld .mgcFscstat 26 24 0 } })
  ∧ (∀ (s : State) (n : Nat), s.up = true → s.fev.writing = some n → s.mgc.prog = none → s.mgc.waiting = [] → s.mgc.reads = [] →
      ∃ t, exec (.fscProgramDone .fev true) s = .next t ∧ t.fev = s.fev.programDone true
        ∧ t = { s with fev := t.fev, mgc := { s.mgc with regs := t.mgc.regs, erase := t.mgc.erase } })
  ∧ (∀ (s : State) (n : Nat), s.up = true → s.fev.erasing = some n → s.mgc.erase = none → ∃ t, exec (.fscEraseDone .fev true) s = .next t ∧ t.fev = s.fev.eraseDone true
      ∧ t = { s with fev := t.fev, mgc := { s.mgc with regs := t.mgc.regs } })
  ∧ (∀ (s : State) (e : FscErase) (sec : Nat), s.up = true → s.mgc.erase = some e → e.port ≠ .fev → e.sectors = [sec] → s.mgc.reads = [] →
    ∃ t, exec (.fscEraseDone e.port true) s = .next t ∧ t = { s with mgc := { s.mgc with
      erase := none
      nor := s.mgc.eraseSector sec
      factory := (s.mgc.unfactory sec).factory
      s2 := (s.mgc.unfactory sec).s2
      regs := s.mgc.regs.setFld .mgcFscstat 26 24 0 } })
  ∧ ∀ (s : State) (e : FscErase), s.up = true → s.mgc.erase = some e → ∃ t, exec .fscSuspendHoldExpiry s = .next t
      ∧ t = { s with mgc := { s.mgc with erase := some { e with holdOver := true, runSince := if s.mgc.prog.isNone then s.clock.now else e.runSince } } }

/-- NVMe-MI and MCTP over the sideband (R409): while the endpoint answers, each message is answered, and nothing but what it sets changes; otherwise nothing changes. It also rests on choices of the model, log entry 26. -/
def Obligations.SidebandMessages : Prop :=
  ∀ s : State, (s.mctpAnswers = false → ∀ (a b : Nat) (bo : Bool) (bs : List Byte) (m : MctpReq) (c : Instr),
      c ∈ [.readNvmeMiDataStructure a, .subsystemHealthStatusPoll bo, .controllerHealthStatusPoll a b bo, .configurationSet a b, .configurationGet a, .vpdRead a b,
        .vpdWrite a bs, .mctpControlMessage m, .basicManagementRead a b] → exec c s = .next s)
    ∧ (s.mctpAnswers = true → s.mgc.postHold ≤ s.clock.now + 5000 →
      (∀ dtyp : Nat, ∃ t, exec (.readNvmeMiDataStructure dtyp) s = .next t ∧ t = { s with out := .mi (s.miStructure dtyp).status (leBytes 3 0 ++ (s.miStructure dtyp).data) :: s.out }
        ∧ (4 < dtyp → (s.miStructure dtyp).status = 4))
      ∧ (∀ clear : Bool, ∃ t, exec (.subsystemHealthStatusPoll clear) s = .next t ∧ t = { s with free := s.free + 1, out := .mi 0 (leBytes 3 0 ++ s.miHealth.data) :: s.out })
      ∧ (∀ (start count : Nat) (clear : Bool), ∃ t, exec (.controllerHealthStatusPoll start count clear) s = .next t
        ∧ t = { s with out := .mi 0 (leBytes 3 (s.miControllers start count).resp ++ (s.miControllers start count).data) :: s.out })
      ∧ (∀ id v : Nat, ∃ t, exec (.configurationSet id v) s = .next t ∧ t = { s with mgc := { s.mgc with miFreq := t.mgc.miFreq, miMtu := t.mgc.miMtu, miAen := t.mgc.miAen }, out := t.out }
        ∧ t.mgc.miFreq = (if id = 1 ∧ 1 ≤ v ∧ v ≤ 3 then v else s.mgc.miFreq) ∧ t.mgc.miMtu = (if id = 3 ∧ 64 ≤ v ∧ v ≤ 256 then v else s.mgc.miMtu)
        ∧ t.mgc.miAen = (if id = 4 then v else s.mgc.miAen))
      ∧ (∀ id : Nat, ∃ t, exec (.configurationGet id) s = .next t
        ∧ t = { s with out := .mi (if 1 ≤ id ∧ id ≤ 4 then 0 else 4) (leBytes 3 (if id = 1 then s.mgc.miFreq else if id = 3 then s.mgc.miMtu else if id = 4 then s.mgc.miAen else 0)) :: s.out })
      ∧ (∀ o n : Nat, ∃ t, exec (.vpdRead o n) s = .next t
        ∧ t = { s with out := (if o + n ≤ 256 then .mi 0 (leBytes 3 0 ++ slice s.mgc.vpd o n) else .mi 4 (leBytes 3 0)) :: s.out })
      ∧ (∀ (o : Nat) (bs : List Byte), o + bs.length ≤ 256 → ∃ t, exec (.vpdWrite o bs) s = .next t
        ∧ t = { s with mgc := { s.mgc with vpd := s.mgc.vpd.take o ++ bs ++ s.mgc.vpd.drop (o + bs.length) }, out := .mi 0 (leBytes 3 0) :: s.out })
      ∧ (∀ e : Nat, 1 ≤ e → e ≤ 254 → ∃ t, exec (.mctpControlMessage (.setEid e)) s = .next t ∧ t.mgc.eid = e ∧ t = { s with mgc := { s.mgc with eid := e }, out := t.out })
      ∧ (∃ t, exec (.mctpControlMessage .getTypes) s = .next t ∧ t = { s with out := .mi 0 (leBytes 1 2 ++ leBytes 1 0x04 ++ leBytes 1 0x05) :: s.out }))
    ∧ (s.mctpAnswers = true → ∀ o n : Nat, s.mgc.regs.bit .mgcSbicfg 12 = true → ∃ t, exec (.basicManagementRead o n) s = .next t ∧ t = { s with out := .mi 0 (slice s.basicManagement o n) :: s.out })

/-- The Ahnah tasks (R411, R412): a GO is taken while the interface is free, a task that needs the Cameleer or the write permission is refused without it, and each task ends with its result, or holds the interface until it ends. -/
def Obligations.AhnahTasks : Prop :=
  (∀ (s : State) (tag : Nat) (args : List Nat) (data : List Byte) (c : Instr), s.ahTakes = false →
    c ∈ [.ahnahHealthSummary tag args data, .ahnahRegisterRead tag args data, .ahnahEventRecordRead tag args data, .ahnahBootRecordRead tag args data,
      .ahnahSetInstanceShare tag args data, .ahnahSetNamespaceSize tag args data, .ahnahSetMediaMode tag args data, .ahnahPortConfigWrite tag args data,
      .ahnahImageWrite tag args data, .ahnahImageCommit tag args data, .ahnahCleanShutdown tag args data] → exec c s = .next s)
  ∧ (∀ (s g : State) (tag : Nat) (args : List Nat) (data : List Byte), s.ahTakes = true →
    (∃ t, exec (.ahnahHealthSummary tag args data) s = .next t ∧ (∃ answer, Safety.ahEnded s t 0x01 tag args data 0 answer) ∧ t = { s with mgc := { s.mgc with ah := t.mgc.ah } })
    ∧ (g = { s with mgc := s.mgc.ahStart 0x02 (tag % 256) args data } → ∃ t, exec (.ahnahRegisterRead tag args data) s = .next t ∧ t = { s with mgc := { s.mgc with ah := t.mgc.ah } }
      ∧ (ahReadable (argOf args 0) = true → argOf args 0 % 4 = 0 → Safety.ahEnded s t 0x02 tag args data 0 (leBytes 4 (g.csrRead (0x40000000 + argOf args 0)).toNat))
      ∧ (ahReadable (argOf args 0) = true → argOf args 0 % 4 ≠ 0 → Safety.ahEnded s t 0x02 tag args data 3 [])
      ∧ (ahReadable (argOf args 0) = false → Safety.ahEnded s t 0x02 tag args data 2 [])))
  ∧ (∀ (s : State) (tag : Nat) (args : List Nat) (data : List Byte), s.ahTakes = true → s.cameleerServes = false → s.inRecovery = false →
    ∃ t, exec (.ahnahImageWrite tag args data) s = .next t ∧ Safety.ahEnded s t 0x09 tag args data 4 [] ∧ t = { s with mgc := { s.mgc with ah := t.mgc.ah } })
  ∧ (∀ (s : State) (tag : Nat) (args : List Nat) (data : List Byte), s.ahTakes = true → s.cameleerServes = true → s.mgc.ahWr = false →
    ∃ t, exec (.ahnahImageWrite tag args data) s = .next t ∧ Safety.ahEnded s t 0x09 tag args data 2 [] ∧ t = { s with mgc := { s.mgc with ah := t.mgc.ah } })
  ∧ (∀ (s : State) (tag : Nat) (args : List Nat) (data : List Byte), s.ahTakes = true → s.cameleerServes = true → s.mgc.postHold ≤ s.clock.now + 5000 →
    (∃ t, exec (.ahnahEventRecordRead tag args data) s = .next t ∧ t = { s with mgc := { s.mgc with ah := t.mgc.ah } }
      ∧ (argOf args 0 = 0xFFFFFFFF → Safety.ahEnded s t 0x03 tag args data 0 s.fev.logHeader)
      ∧ (argOf args 0 < 262144 → 1 ≤ argOf args 1 → argOf args 1 ≤ 4 → argOf args 0 + argOf args 1 ≤ 262144 →
        Safety.ahEnded s t 0x03 tag args data 0 ((List.range (argOf args 1)).flatMap fun i => s.fev.slotBytes (argOf args 0 + i))))
    ∧ (∃ t, exec (.ahnahBootRecordRead tag args data) s = .next t ∧ t = { s with mgc := { s.mgc with ah := t.mgc.ah } }
      ∧ (argOf args 0 ≤ 3 → argOf args 3 % 256 = 0 → argOf args 3 < 4096 →
        (∀ r, pickRecord s.fev.bootRecords (argOf args 0) (argOf args 1 + 2 ^ 32 * argOf args 2) = some r → Safety.ahEnded s t 0x04 tag args data 0 (slice (fit 4096 r.2) (argOf args 3) 256))
        ∧ (pickRecord s.fev.bootRecords (argOf args 0) (argOf args 1 + 2 ^ 32 * argOf args 2) = none → Safety.ahEnded s t 0x04 tag args data 0x8790 []))))
  ∧ ∀ (s : State) (tag : Nat) (args : List Nat) (data : List Byte), s.ahTakes = true → s.cameleerServes = true → s.mgc.ahWr = true → s.mgc.postHold ≤ s.clock.now + 5000 →
    (∃ t, exec (.ahnahSetInstanceShare tag args data) s = .next t ∧ t = { s with mgc := { s.mgc with ah := t.mgc.ah }, qce := { s.qce with fsn := nextFsn s.qce.fsn }, tas := t.tas }
      ∧ (argOf args 0 ≤ 2047 → (ahShare args).valid = true → Safety.ahEnded s t 0x05 tag args data 0 [] ∧ t.tas = s.tas.stage (argOf args 0) (ahShare args))
      ∧ (2047 < argOf args 0 ∨ (ahShare args).valid = false → Safety.ahEnded s t 0x05 tag args data 3 [] ∧ t.tas = s.tas))
    ∧ (∀ (g : State) (c : Nat) (x : Ctx), s.fetches = true → s.qce.shFree ≠ 0 →
      State.takeSide { s with mgc := s.mgc.ahStart 0x06 (tag % 256) args data } 0xFFFF (featureSqe 0xD5 (argOf args 0) 0 (argOf args 1) (argOf args 2)) = some (g, c) → g.qce.ctx? c = some x →
      ∃ t, exec (.ahnahSetNamespaceSize tag args data) s = .next t ∧ t = (State.setSize ((g.setCtx c { x with sqid := 1 }).ahWaits 0x06) c { x with sqid := 1 }).settle)
    ∧ (∀ (g : State) (c : Nat) (x : Ctx), s.fetches = true → s.qce.shFree ≠ 0 →
      State.takeSide { s with mgc := s.mgc.ahStart 0x07 (tag % 256) args data } 0xFFFF (featureSqe 0xD6 (argOf args 0) (argOf args 1 % 2) 0 0) = some (g, c) → g.qce.ctx? c = some x →
      ∃ t, exec (.ahnahSetMediaMode tag args data) s = .next t ∧ t = (State.setMode ((g.setCtx c { x with sqid := 1 }).ahWaits 0x07) c { x with sqid := 1 }).settle)
    ∧ (∃ t, exec (.ahnahPortConfigWrite tag args data) s = .next t ∧ t = { s with mgc := { s.mgc with ah := t.mgc.ah, cal := t.mgc.cal } }
      ∧ (argOf args 0 ≤ 3 → portBlockOk (fit 256 data) = true → Safety.ahEnded s t 0x08 tag args data 0 []
        ∧ t.mgc.cal = { s.mgc.cal with ports := Tab.set s.mgc.cal.ports (argOf args 0) (fit 256 data) })
      ∧ (3 < argOf args 0 ∨ portBlockOk (fit 256 data) = false → Safety.ahEnded s t 0x08 tag args data 3 [] ∧ t.mgc.cal = s.mgc.cal))
    ∧ (∀ m : Mgc, argOf args 0 % 256 = 0 → argOf args 0 + 256 ≤ 41943040 → s.mgc.takePiece s.clock.now .sideband (argOf args 0) (fit 256 data) = .ok m →
      ∃ t, exec (.ahnahImageWrite tag args data) s = .next t ∧ Safety.ahEnded s t 0x09 tag args data 0 [] ∧ t.mgc.download = m.download
        ∧ t = { s with mgc := { s.mgc with ah := t.mgc.ah, download := t.mgc.download } })
    ∧ (∀ (fs act : Nat), fs = argOf args 0 → act = argOf args 1 → act ≤ 2 → s.inRecovery = false →
      s.mgc.commitVerdict s.sec.sanitize.isSome .sideband fs act s.sec.stage2Svn s.fl.dvers = .ok →
      ∃ t, exec (.ahnahImageCommit tag args data) s = .next t ∧ Safety.ahEnded s t 0x0A tag args data 0 []
        ∧ t = { s with
          mgc := { (s.mgc.commit s.clock.now .ahnah .sideband fs act .ok).1.endSideDownload .sideband with ah := t.mgc.ah }
          qce := { s.qce with fsn := nextFsn s.qce.fsn } })
    ∧ (argOf args 0 ≤ 1 → ∃ t h, exec (.ahnahCleanShutdown tag args data) s = .next t
      ∧ h = State.startShutdown { s with mgc := { s.mgc.ahStart 0x0B (tag % 256) args data with ah := { (s.mgc.ahStart 0x0B (tag % 256) args data).ah with busy := some ⟨0x0B⟩ } } } (argOf args 0 == 1)
      ∧ (h.mgc.quiesced = false → t = h) ∧ (h.mgc.quiesced = true → t = h.ahDone 0 []))

/-- Power loss, resets and the ends of a dump and of the safe state (R421, R422, R427, R446, R478, R480, R512): what each leaves, and the start that follows it. A start that finds its boot ROM's checks failing halts there with every block at its reset values. -/
def Obligations.ResetsAndPowerLoss : Prop :=
  (∀ (s : State) (env : StartEnv), s.porst = true → s.ptm.hue ≠ .dumping → ∃ t, exec (.powerOnReset env) s = .next t ∧ t = s.start env true 0
    ∧ (env.romGood = false → t.mgc.boot = .romHalt ∧ t.clock.now = 0 ∧ t.clock.pcyc = s.clock.pcyc + 1 ∧ t.straps = env.straps % 256 ∧ t.porst = false ∧ t.qce.ctxs = []
      ∧ t.hfu.conns = [] ∧ t.sec.keys = [] ∧ t.mss.mem = [] ∧ t.mgc.acRun = 0 ∧ t.fl = { s.fl with ptx := { s.fl.ptx with growths := [] } } ∧ t.pending = s.pending ∧ t.out = s.out))
  ∧ (∀ (s : State) (env : StartEnv), s.mgc.resetDue = true → s.up = true → s.fev.safe = false → ∃ t, exec (.deviceReset env) s = .next t
    ∧ t = (s.until' (s.clock.now + msT)).start env false 1
    ∧ (env.romGood = false → t.mgc.boot = .romHalt ∧ t.clock.now = s.clock.now + msT ∧ t.clock.pcyc = s.clock.pcyc ∧ t.straps = s.straps ∧ t.qce.ctxs = []
      ∧ t.hfu.conns = [] ∧ t.sec.keys = [] ∧ t.mss.mem = [] ∧ t.mgc.acRun = 0 ∧ t.mgc.resetDue = false ∧ t.fl = { s.fl with ptx := { s.fl.ptx with growths := [] } }))
  ∧ (∀ (s : State) (env : StartEnv), s.ptm.hue = .off → s.porst = false → s.ptm.throttle ≠ .shutdown → s.up = true →
    ∃ t, exec (.powerReturnAfterDump env) s = .next t
      ∧ t = ({ s.until' (s.clock.now + 100 * msT) with ptm := { s.ptm with pfail := false } } : State).start env false 3)
  ∧ (∀ (s : State) (env : StartEnv), s.fev.safe = true → s.fev.safeDump = false → s.fev.safeThermal = false → s.dumped = false → s.porst = false →
    (s.fev.regs.fld .fevCfg 7 0 = 0 → ∃ t, exec (.safeholdExpiry env) s = .next t ∧ t = s)
    ∧ (s.fev.regs.fld .fevCfg 7 0 ≠ 0 → ∃ t g, exec (.safeholdExpiry env) s = .next t ∧ t = State.start g env false 2
      ∧ g = s.until' (s.clock.now + ((s.fev.safeEntries.headD 0 + s.fev.regs.fld .fevCfg 7 0 * secT) - s.clock.aon))))
  ∧ (∀ s : State, s.up = true → s.porst = false →
    (s.ptm.hue = .dumping → ∃ t, exec .porstAssert s = .next t ∧ t = { s with porst := true })
    ∧ (s.ptm.hue ≠ .dumping → (s.ptm.hue = .off ∨ s.mgc.quiesced = true ∨ s.mgc.boot ≠ .ready) →
      ∃ t, exec .porstAssert s = .next t ∧ t = { s with porst := true, mgc := { s.mgc with boot := .reset } })
    ∧ (s.ptm.hue.judged = true → s.mgc.quiesced = false → s.mgc.boot = .ready →
      ∃ t, exec .porstAssert s = .next t ∧ t.porst = true ∧ t.ptm.hue = .dumping ∧ t.ptm.dump.isSome = true ∧ t.fl.ptx.dump.isSome = true ∧ t.mgc.boot = .ready ∧ t.mgc.acRun = 0)
    ∧ (s.ptm.hue = .absent → s.mgc.quiesced = false → s.mgc.boot = .ready →
      ∃ t, exec .porstAssert s = .next t ∧ t.porst = true ∧ t.mgc.boot = .reset ∧ t.ptm.dumpRes = 3 ∧ t.fl.ptx.unsafeShut = s.fl.ptx.unsafeShut + 1
        ∧ t = { s with porst := true, mgc := t.mgc, ptm := { s.ptm with dumpRes := 3 }, fl := t.fl }))
  ∧ (∀ s : State, s.up = true →
    (s.ptm.hue.judged = true → ∃ t, exec .pfailAssert s = .next t ∧ t.ptm.pfail = true ∧ t.ptm.regs.bit .ptmHuestat 25 = true ∧ t.ptm.hue = .dumping
      ∧ t.ptm.dumpSeq = s.ptm.dumpSeq + 1 ∧ t.ptm.dump.isSome = true ∧ t.fl.ptx.dump.isSome = true ∧ t.mgc.acRun = 0 ∧ t.mgc.act = none
      ∧ (∀ n p, Tab.get? t.hfu.ports n = some p → p.state = .down))
    ∧ (s.ptm.hue = .absent → ∃ t, exec .pfailAssert s = .next t ∧ t.ptm.dumpRes = 3 ∧ t.ptm.hue = .absent ∧ t.mgc = s.mgc ∧ t.hfu = s.hfu))
  ∧ (∀ (s : State) (d : DumpInfo), s.ptm.hue = .dumping → s.ptm.dump = some d → ∃ t, exec .dumpComplete s = .next t ∧ t.ptm.hue = .off ∧ t.ptm.dumpRes = 1
      ∧ t.ptm.dumpTime = (s.clock.now - d.started) / 10 ∧ (∀ w, s.fl.ptx.dump = some w → t.ptm.dumpBytes = w.bytes ∧ t.fl.ptx.dump = some { w with trailer := true })
      ∧ t.mgc = { s.mgc with acRun := 0, boot := if s.porst then .reset else s.mgc.boot })
  ∧ ∀ s : State, s.up = true →
    (∃ t, exec (.supplyUndervoltage (.mains false)) s = .next t ∧ t.porst = true ∧ t.mgc.boot = .reset ∧ (s.ptm.hue = .dumping → t.ptm.dumpRes = 2))
    ∧ (∃ t, exec (.supplyUndervoltage (.mains true)) s = .next t ∧ t.porst = true ∧ t.mgc.boot = .reset ∧ t.fev.ffq = [] ∧ t.sec.alarms = [] ∧ t.clock.aonAt = s.clock.aon)
    ∧ (s.dumped = true → ∀ k, ∃ t, exec (.supplyUndervoltage (.nand k)) s = .next t ∧ t = s)
    ∧ (s.dumped = false → s.fev.safe = false → ∀ k, (clusterChannels k).any s.fl.hw.hasChannel = true →
      ∃ t src code, exec (.supplyUndervoltage (.nand k)) s = .next t ∧ Safety.fellSafe s t src code)
    ∧ (s.dumped = false → (∀ n p, Tab.get? s.hfu.ports n = some p → p.state = .down) → ∃ t, exec (.supplyUndervoltage .serdes) s = .next t ∧ t = { s with hfu := { s.hfu with railLow := true } })

/-- Clean shutdown (R472 to R475): SHUT and DEVRST start one, fetch stops and every ready instance shows a shutdown in progress; it waits for live commands, then takes its steps and ends quiesced. -/
def Obligations.CleanShutdown : Prop :=
  (∀ (s : State) (r : Requester) (v : W32) (dev : Bool) (c : Instr), Safety.served s r .mgcRstctl → s.runs = true → s.mgc.quiesced = false → s.mgc.shutdown = none →
    (c = .mgcRstctlShut r ∧ v = 0x80000000 ∧ dev = false ∨ c = .mgcRstctlDevrst r ∧ v = 0x40000000 ∧ dev = true) →
    ∃ t, exec c s = .next t ∧ t.mgc.shutdown = some ⟨s.clock.now, dev⟩ ∧ t.fetches = false
      ∧ (∀ i x, s.qce.inst? i = some x → t.qce.inst? i = some (if x.state = .ready ∧ x.shst = 0 then { x with shst := 1 } else x))
      ∧ t = { s with mgc := { s.mgc with shutdown := t.mgc.shutdown, regs := t.mgc.regs }, qce := { s.qce with insts := t.qce.insts } })
  ∧ (∀ (s : State) (r : Requester) (d : Shutdown) (c : Instr), Safety.served s r .mgcRstctl → s.runs = true → s.mgc.quiesced = false → s.mgc.shutdown = some d →
    (c = .mgcRstctlShut r → ∃ t, exec c s = .next t ∧ t.mgc.shutdown = some d)
    ∧ (c = .mgcRstctlDevrst r → ∃ t, exec c s = .next t ∧ t.mgc.shutdown = some { d with devrst := true }))
  ∧ (∀ (s : State) (r : Requester), Safety.served s r .mgcRstctl → s.runs = true → s.mgc.quiesced = true →
    ∃ t, exec (.mgcRstctlDevrst r) s = .next t ∧ t.mgc.resetDue = true ∧ t = { s with mgc := { s.mgc with resetDue := true, regs := t.mgc.regs } })
  ∧ ∀ (s : State) (d : Shutdown), s.runs = true → s.mgc.shutdown = some d →
    ((s.anyLive = true ∨ s.mgc.act.isSome = true ∨ s.recoveringFw = true) → ∃ t, exec .cleanShutdownComplete s = .next t ∧ t = s)
    ∧ (s.anyLive = false → s.mgc.act = none → s.recoveringFw = false →
      (∀ r, s.fl.shutdownStep s.clock.now s.hours = some r → ∃ t, exec .cleanShutdownComplete s = .next t ∧ t = s.media r)
      ∧ (s.fl.shutdownStep s.clock.now s.hours = none → ∃ t, exec .cleanShutdownComplete s = .next t ∧ t.mgc.quiesced = true ∧ t.mgc.shutdown = none
        ∧ t.mgc.resetDue = d.devrst ∧ t.mgc.regs.fld .mgcRstctl 23 0 = min 16777215 ((s.clock.now - d.startedAt) / 10000)
        ∧ (∀ i x, s.qce.inst? i = some x → t.qce.inst? i = some (if x.state = .ready then { x with shst := 2 } else x))
        ∧ t = { s with mgc := { s.mgc with shutdown := none, quiesced := true, resetDue := d.devrst, regs := t.mgc.regs, ah := t.mgc.ah }, qce := { s.qce with insts := t.qce.insts } }))

/-- Links (R37 to R42, R44, R54, R55, R476, R512): PERST, training, the losses of a port and of a lane group, the SerDes rail, and writes to HFU_LGCFG. -/
def Obligations.Links : Prop :=
  (∀ (s : State) (g : Nat), Tab.has s.hfu.perst g = false → ∃ t, exec (.pciePerstDeassert g) s = .next t ∧ t = { s with hfu := { s.hfu with perst := t.hfu.perst, ports := t.hfu.ports } }
    ∧ Tab.get? t.hfu.perst g = some s.clock.now
    ∧ ∀ n p, Tab.get? s.hfu.ports n = some p → Tab.get? t.hfu.ports n = some (if p.group = g ∧ p.proto = .pcie then
        { p with perstHigh := true, perstAt := s.clock.now, state := if s.hfu.railLow || !s.hfu.enabled g then p.state else .training } else p))
  ∧ (∀ (s h : State) (g : Nat) (mine : List Nat), mine = Tab.keysWhere s.hfu.ports (fun _ p => p.group == g && p.proto == .pcie) →
    h = { s with hfu := { s.hfu with perst := Tab.erase s.hfu.perst g, ports := Tab.mapVals s.hfu.ports fun n p => if mine.contains n then { p with perstHigh := false } else p } } →
    ∃ t, exec (.pciePerstAssert g) s = .next t ∧ t = mine.foldl (fun (u : State) n => u.portLoss n .down) h
      ∧ ((∀ n, h.linked n .pcie = false ∧ h.linked n .eth = false) → t = h))
  ∧ (∀ (s : State) (n speed width best : Nat) (p : Port), s.up = true → s.hfu.railLow = false → Tab.get? s.hfu.ports n = some p →
    (p.proto = .eth → p.state = .training → ∃ t, exec (.linkTrained n speed width best) s = .next t
      ∧ Tab.get? t.hfu.ports n = some { p with state := .up, speed := ethSpeed p.lanes, width := p.lanes } ∧ t = { s with hfu := { s.hfu with ports := t.hfu.ports } })
    ∧ (p.proto = .pcie → p.state ≠ .down → pcieTrains p.lanes speed width = true → p.lanes ≤ width → best ≤ speed → ∃ t, exec (.linkTrained n speed width best) s = .next t
      ∧ Tab.get? t.hfu.ports n = some { p with state := .up, speed := speed, width := width } ∧ t = { s with hfu := { s.hfu with ports := t.hfu.ports } })
    ∧ (p.proto = .pcie → p.state ≠ .down → pcieTrains p.lanes speed width = true → (width < p.lanes ∨ speed < best) → ∃ t, exec (.linkTrained n speed width best) s = .next t
      ∧ Tab.get? t.hfu.ports n = some { p with state := .up, speed := speed, width := width } ∧ t.hfu.regs.fld (.hfuLinkstat n) 14 14 = 1
      ∧ t.fev = s.fev.report (mkReport 0x01 0x02 4 n speed width 0) s.stamp ∧ t = { s with hfu := { s.hfu with ports := t.hfu.ports, regs := t.hfu.regs }, fev := t.fev })
    ∧ ((p.state = .down ∨ p.proto = .eth ∧ p.state = .up ∨ p.proto = .pcie ∧ pcieTrains p.lanes speed width = false) → exec (.linkTrained n speed width best) s = .next s))
  ∧ (∀ (s : State) (n : Nat) (p : Port) (c : Instr), s.up = true → Tab.get? s.hfu.ports n = some p → p.state ≠ .down →
    (p.proto = .pcie → (c = .pcieHotReset n ∨ c = .pcieLinkDown n) → ∃ t, exec c s = .next t ∧ t = (s.linkLoss n .training).portReset n
      ∧ ((s.fev.safe = true ∨ s.dumped = true) → t = s.linkLoss n .training))
    ∧ (p.proto = .eth → c = .ethLinkDown n → ∃ t, exec c s = .next t ∧ t = s.linkLoss n .training))
  ∧ (∀ (s t : State) (n : Nat) (p : Port) (next : LinkState), Tab.get? s.hfu.ports n = some p → t = s.linkLoss n next →
    Tab.get? t.hfu.ports n = some { p with state := next, speed := 0, width := 0, paused := [] }
      ∧ t.hfu.regs.fld (.hfuLinkstat n) 7 0 = min 255 (s.hfu.regs.fld (.hfuLinkstat n) 7 0 + 1) ∧ t.hfu.regs.fld (.hfuLinkstat n) 13 13 = 1
      ∧ t.fev = s.fev.report (mkReport 0x01 0x03 4 n (t.hfu.regs.fld (.hfuLinkstat n) 7 0) 0 0) s.stamp
      ∧ t = { s with hfu := { s.hfu with ports := t.hfu.ports, regs := t.hfu.regs }, fev := t.fev })
  ∧ (∀ (s : State) (g : Nat), s.up = true → g < 2 → ∃ t, exec (.laneGroupClockLoss g) s = .next t
    ∧ t = ((s.hfu.portsIn g).foldl (fun (t : State) n => t.portLoss n .training) s).report (mkReport 0x01 0x06 15 g 0 0 0))
  ∧ (∀ s : State, s.hfu.railLow = true → ∃ t, exec .serdesRailRecovery s = .next t ∧ t.hfu.railLow = false ∧ t = { s with hfu := { s.hfu with railLow := false, ports := t.hfu.ports } }
    ∧ ∀ n p, Tab.get? s.hfu.ports n = some p → Tab.get? t.hfu.ports n = some (if (p.proto = .eth ∨ p.perstHigh) ∧ s.hfu.enabled p.group then
        { p with state := .training } else p))
  ∧ ∀ (s : State) (r : Requester) (v : W32), Safety.served s r .hfuLgcfg → ∃ t, exec (.hfuLgcfgWrite r v) s = .next t
    ∧ t = (s.storeReg .hfuLgcfg v).lanesChanged (s.reg .hfuLgcfg)
    ∧ ((s.storeReg .hfuLgcfg v).reg .hfuLgcfg = s.reg .hfuLgcfg → t = s.storeReg .hfuLgcfg v)

/-- Errors at the link (R57): each is counted on its port and reported to the host; a fetch read that fails is retried once and the second failure fails the instance; a data read that fails ends its command. It also rests on choices of the model, log entry 180. -/
def Obligations.LinkErrors : Prop :=
  (∀ (s : State) (n : Nat) (p : Port), Tab.get? s.hfu.ports n = some p → p.proto = .pcie → p.state = .up →
    (∃ t, exec (.pcieReceiverError n) s = .next t ∧ t.hfu.regs.fld (.hfuErrcnt n) 31 16 = min 65535 (s.hfu.regs.fld (.hfuErrcnt n) 31 16 + 1)
      ∧ t.hfu.regs.fld (.hfuErrcnt n) 15 0 = s.hfu.regs.fld (.hfuErrcnt n) 15 0 ∧ t = { s with hfu := { s.hfu with regs := t.hfu.regs }, out := .aer n 0 :: s.out })
    ∧ (∃ t, exec (.malformedTlp n) s = .next t ∧ t.hfu.regs.fld (.hfuErrcnt n) 15 0 = min 65535 (s.hfu.regs.fld (.hfuErrcnt n) 15 0 + 1)
      ∧ t.hfu.regs.fld (.hfuErrcnt n) 31 16 = s.hfu.regs.fld (.hfuErrcnt n) 31 16
      ∧ (∃ code sev, t.fev = s.fev.firstFault ⟨0x01, code % 256, .d, sev % 4, 4, n, 0, 0, 0⟩ s.stamp)
      ∧ t = { s with hfu := { s.hfu with regs := t.hfu.regs }, fev := t.fev, free := t.free, out := .aer n 2 :: s.out })
    ∧ (∀ q : CfgReq, q.port = n → (s.hfu.range n).2 ≤ q.fn → ∃ t, exec (.configRequest q) s = .next t ∧ t = { s with out := .unsupported ((s.hfu.range n).1 + q.fn) :: s.out })
    ∧ (∀ q : CfgReq, q.port = n → q.fn < (s.hfu.range n).2 → s.clock.now < p.perstAt + 100 * msT →
      ∃ t, exec (.configRequest q) s = .next t ∧ t = { s with out := .config n q.fn none :: s.out })
    ∧ (∀ (q : CfgReq) (i : Inst), q.port = n → q.fn < (s.hfu.range n).2 → p.perstAt + 100 * msT ≤ s.clock.now → s.qce.inst? ((s.hfu.range n).1 + q.fn) = some i →
      (q.w = none → ∃ t, exec (.configRequest q) s = .next t
        ∧ t = { s with out := .config n q.fn (some (s.cfgRead n p ((s.hfu.range n).1 + q.fn) i q.reg)) :: s.out })
      ∧ ∀ v, q.w = some v → ∃ t, exec (.configRequest q) s = .next t ∧ t = (s.cfgWrite ((s.hfu.range n).1 + q.fn) i q.reg v).emit (.config n q.fn (some 0))
        ∧ t = { s with hfu := { s.hfu with cfg := t.hfu.cfg }, qce := { s.qce with insts := t.qce.insts }, out := t.out })
    ∧ (∀ (j : Nat) (i : Inst), n < 4 → p.group < 2 → (s.hfu.range n).1 < 65536 → (s.hfu.range n).2 < 65536 →
      s.cfgRead n p j i (.dvsec 8) = 1 + 65536 * n + 16777216 * (if p.lanes = 16 then 2 else p.group)
      ∧ s.cfgRead n p j i (.dvsec 12) = (s.hfu.range n).1 + 65536 * (s.hfu.range n).2
      ∧ s.cfgRead n p j i .rom = 0 ∧ s.cfgRead n p j i .msixTable = 0x2000 ∧ s.cfgRead n p j i .msixPba = 0x4000
      ∧ (i.pf = true → s.cfgRead n p j i .pageSizes = 0x1F))
    ∧ ∀ (i : Nat) (x : Inst) (o : Nat), s.qce.inst? i = some x → x.eth = false → x.port = n → barHolds (x.allot + 1) o = false →
      ∃ t, exec (.barUnsupportedAccess i o) s = .next t ∧ t.hfu.regs.fld (.hfuErrcnt n) 15 0 = min 65535 (s.hfu.regs.fld (.hfuErrcnt n) 15 0 + 1)
        ∧ (∃ code sev, t.fev = s.fev.firstFault ⟨0x01, code % 256, .d, sev % 4, 5, i, 0, 0, 0⟩ s.stamp)
        ∧ t = { s with hfu := { s.hfu with regs := t.hfu.regs }, fev := t.fev, free := t.free, out := .aer n 3 :: .unsupported i :: s.out })
  ∧ (∀ (s : State) (i sq : Nat) (x : Inst) (q : Sq) (c : Instr), s.runs = true → s.qce.inst? i = some x → s.qce.sq? i sq = some q → x.eth = false → q.reads ≠ [] → x.state = .ready →
    (c = .completionTimeout (.fetch i sq) ∨ c = .hostReadFailure (.fetch i sq) .poisoned) →
    (q.retried = false → ∃ t, exec c s = .next t ∧ t.qce.sq? i sq = some { q with retried := true } ∧ t.qce.inst? i = some x
      ∧ t = { s with hfu := { s.hfu with regs := t.hfu.regs }, qce := { s.qce with sqs := t.qce.sqs }, out := .aer x.port 1 :: s.out, fev := t.fev, free := t.free })
    ∧ (q.retried = true → ∃ t, exec c s = .next t ∧ t.qce.inst? i = some { x with state := .failed, cfs := true }
      ∧ t = { s with hfu := { s.hfu with regs := t.hfu.regs }, qce := { s.qce with insts := t.qce.insts }, out := .aer x.port 1 :: s.out, fev := t.fev }))
  ∧ ∀ (s : State) (k : Nat) (x : Ctx) (i : Inst) (why : ReadFault) (c : Instr), s.runs = true → Safety.calm s → s.qce.ctx? k = some x → s.qce.inst? x.inst = some i → i.eth = false →
    x.side = false → x.detached = false → x.recorded = false → x.oas = false → x.open' = true → x.zone = none → x.ord = false → (c = .completionTimeout (.data k) ∨ c = .hostReadFailure (.data k) why) →
    ∃ t, exec c s = .next t ∧ Safety.completed s t k .dataTransfer x.dw0 ∧ t.fl.ptx = { s.fl.ptx with growths := Tab.erase s.fl.ptx.growths k } ∧ t.hfu.regs.fld (.hfuErrcnt i.port) 15 0 = min 65535 (s.hfu.regs.fld (.hfuErrcnt i.port) 15 0 + 1)
end

