-- ==== Sys2Proof/Laws/KeepBase.lean ====
section
/-! SUPPORT. What the operations of Ops, Commands leave alone: the queue of commands, and the bytes of DRAM memory where they do not store there. -/

namespace Sys2Proof.Machine

/-! ## Choices and folds -/

theorem ite_pending (p : Prop) [Decidable p] (a b : State) : (if p then a else b).pending = if p then a.pending else b.pending :=
  apply_ite _ p a b

theorem ite_mem (p : Prop) [Decidable p] (a b : State) : (if p then a else b).mss.mem = if p then a.mss.mem else b.mss.mem :=
  apply_ite (fun s : State => s.mss.mem) p a b

@[simp] theorem foldl_pending {α : Type} (f : State → α → State) (h : ∀ s a, (f s a).pending = s.pending) (l : List α) (s : State) :
    (l.foldl f s).pending = s.pending := by
  induction l generalizing s with
  | nil => rfl
  | cons a l ih => simp [List.foldl_cons, ih, h]

@[simp] theorem foldl_mem {α : Type} (f : State → α → State) (h : ∀ s a, (f s a).mss.mem = s.mss.mem) (l : List α) (s : State) :
    (l.foldl f s).mss.mem = s.mss.mem := by
  induction l generalizing s with
  | nil => rfl
  | cons a l ih => simp [List.foldl_cons, ih, h]

@[simp] theorem foldr_pending {α : Type} (f : α → State → State) (h : ∀ s a, (f a s).pending = s.pending) (l : List α) (s : State) :
    (l.foldr f s).pending = s.pending := by
  induction l with
  | nil => rfl
  | cons a l ih => simp [List.foldr_cons, ih, h]

@[simp] theorem foldr_mem {α : Type} (f : α → State → State) (h : ∀ s a, (f a s).mss.mem = s.mss.mem) (l : List α) (s : State) :
    (l.foldr f s).mss.mem = s.mss.mem := by
  induction l with
  | nil => rfl
  | cons a l ih => simp [List.foldr_cons, ih, h]

/-! ## Outcomes -/

/-- A command leaves the queue and the bytes of DRAM memory alone. -/
def Keeps (s : State) (o : Host.Outcome State Fault Refusal) : Prop := ∀ t, o = .next t → t.pending = s.pending ∧ t.mss.mem = s.mss.mem

@[simp] theorem keeps_next (s t : State) : Keeps s (.next t) ↔ t.pending = s.pending ∧ t.mss.mem = s.mss.mem :=
  ⟨fun h => h t rfl, fun h _ e => by cases e; exact h⟩

@[simp] theorem keeps_fault (s : State) (f : Fault) : Keeps s (.fault f) := fun _ e => nomatch e

/-! ## Operations of the whole state -/

@[simp] theorem Mss.stopScrub_mem (m : Mss) : m.stopScrub.mem = m.mem := by unfold Mss.stopScrub; split <;> rfl

@[simp] theorem Mss.enterSafe_mem (m : Mss) : m.enterSafe.mem = m.mem := by simp [Mss.enterSafe]

@[simp] theorem State.emit_keeps (s : State) (o : Output) :
    (State.emit s o).pending = s.pending ∧ (State.emit s o).mss.mem = s.mss.mem := by
  constructor <;> simp [State.emit]

@[simp] theorem State.emits_keeps (s : State) (os : List Output) :
    (State.emits s os).pending = s.pending ∧ (State.emits s os).mss.mem = s.mss.mem := by
  constructor <;> simp [State.emits]

@[simp] theorem State.fresh_keeps (s : State) :
    (State.fresh s).2.pending = s.pending ∧ (State.fresh s).2.mss.mem = s.mss.mem := by
  constructor <;> simp [State.fresh]

@[simp] theorem State.until'_keeps (s : State) (t : Nat) :
    (State.until' s t).pending = s.pending ∧ (State.until' s t).mss.mem = s.mss.mem := by
  constructor <;> simp [State.until']

@[simp] theorem State.tick_keeps (s : State) :
    (State.tick s).pending = s.pending ∧ (State.tick s).mss.mem = s.mss.mem := by
  constructor <;> simp [State.tick]

@[simp] theorem State.whenRuns_keeps (s : State) (f : State → State) (h : (f s).pending = s.pending ∧ (f s).mss.mem = s.mss.mem) :
    (s.whenRuns f).pending = s.pending ∧ (s.whenRuns f).mss.mem = s.mss.mem := by
  unfold State.whenRuns; split <;> simp [h]

@[simp] theorem State.startDump_keeps (s : State) (cause : Nat) :
    (State.startDump s cause).pending = s.pending ∧ (State.startDump s cause).mss.mem = s.mss.mem := by
  constructor <;> simp [State.startDump]

@[simp] theorem State.enterSafe_keeps (s : State) (r : Report) :
    (State.enterSafe s r).pending = s.pending ∧ (State.enterSafe s r).mss.mem = s.mss.mem := by
  constructor <;> simp [State.enterSafe, ite_pending, ite_mem]

@[simp] theorem State.report_keeps (s : State) (r : Report) :
    (State.report s r).pending = s.pending ∧ (State.report s r).mss.mem = s.mss.mem := by
  constructor <;> (unfold State.report; split <;> simp)

@[simp] theorem State.reports_keeps (s : State) (rs : List Report) :
    (State.reports s rs).pending = s.pending ∧ (State.reports s rs).mss.mem = s.mss.mem := by
  constructor <;> simp [State.reports]

@[simp] theorem State.notify_keeps (s : State) (inst : Nat) (e : AsyncEvent) :
    (State.notify s inst e).pending = s.pending ∧ (State.notify s inst e).mss.mem = s.mss.mem := by
  constructor <;> simp [State.notify]

@[simp] theorem State.notifyAll_keeps (s : State) (e : AsyncEvent) :
    (State.notifyAll s e).pending = s.pending ∧ (State.notifyAll s e).mss.mem = s.mss.mem := by
  constructor <;> simp [State.notifyAll]

@[simp] theorem State.warn_keeps (s : State) :
    (State.warn s).pending = s.pending ∧ (State.warn s).mss.mem = s.mss.mem := by
  constructor <;> simp [State.warn]

@[simp] theorem State.setCtx_keeps (s : State) (c : Nat) (x : Ctx) :
    (State.setCtx s c x).pending = s.pending ∧ (State.setCtx s c x).mss.mem = s.mss.mem := by
  constructor <;> simp [State.setCtx]

@[simp] theorem State.updCtx_keeps (s : State) (c : Nat) (f : Ctx → Ctx) :
    (State.updCtx s c f).pending = s.pending ∧ (State.updCtx s c f).mss.mem = s.mss.mem := by
  constructor <;> simp [State.updCtx]

@[simp] theorem State.allotment_keeps (s : State) (port : Nat) (f : Nat → Nat) :
    (State.allotment s port f).pending = s.pending ∧ (State.allotment s port f).mss.mem = s.mss.mem := by
  constructor <;> (unfold State.allotment; repeat' (first | (simp; done) | dsimp only | split))

theorem State.take_keeps {s t : State} {inst sqid : Nat} {kind : Kind} {q : Sqe} {c : Nat} (h : s.take inst sqid kind q = some (t, c)) :
    t.pending = s.pending ∧ t.mss.mem = s.mss.mem := by
  unfold State.take at h
  split at h
  · split at h
    · simp only [Option.some.injEq, Prod.mk.injEq] at h
      rw [← h.1]
      simp
    · cases h
  · cases h

@[simp] theorem State.letIn_keeps (s : State) (c : Nat) (x : Ctx) :
    (State.letIn s c x).pending = s.pending ∧ (State.letIn s c x).mss.mem = s.mss.mem := by
  constructor <;> simp [State.letIn]

@[simp] theorem State.toAdmit_keeps (s : State) (c : Nat) :
    (State.toAdmit s c).pending = s.pending ∧ (State.toAdmit s c).mss.mem = s.mss.mem := by
  constructor <;> (unfold State.toAdmit; repeat' (first | (simp; done) | dsimp only | split))

@[simp] theorem State.route_keeps (s : State) (c : Nat) :
    (State.route s c).pending = s.pending ∧ (State.route s c).mss.mem = s.mss.mem := by
  constructor <;> (unfold State.route; repeat' (first | (simp; done) | dsimp only | split))

@[simp] theorem State.lockAndRoute_keeps (s : State) (c : Nat) :
    (State.lockAndRoute s c).pending = s.pending ∧ (State.lockAndRoute s c).mss.mem = s.mss.mem := by
  constructor <;> simp [State.lockAndRoute]

@[simp] theorem State.withdraw_keeps (s : State) (c : Nat) :
    (State.withdraw s c).pending = s.pending ∧ (State.withdraw s c).mss.mem = s.mss.mem := by
  constructor <;> (unfold State.withdraw; split <;> simp)

@[simp] theorem State.fin_keeps (s : State) (c : Nat) (st : Status) :
    (State.fin s c st).pending = s.pending ∧ (State.fin s c st).mss.mem = s.mss.mem := by
  constructor <;> (unfold State.fin; repeat' (first | (simp; done) | dsimp only | split))

@[simp] theorem State.finWith_keeps (s : State) (c : Nat) (st : Status) (dw0 dw1 : Nat) :
    (State.finWith s c st dw0 dw1).pending = s.pending ∧ (State.finWith s c st dw0 dw1).mss.mem = s.mss.mem := by
  constructor <;> simp [State.finWith]

@[simp] theorem State.committed_keeps (s : State) (c : Nat) (x : Ctx) (wsn : Nat) :
    (State.committed s c x wsn).pending = s.pending ∧ (State.committed s c x wsn).mss.mem = s.mss.mem := by
  constructor <;> simp [State.committed]

@[simp] theorem State.withFl_keeps (s : State) (f : Flash) :
    (State.withFl s f).pending = s.pending ∧ (State.withFl s f).mss.mem = s.mss.mem := by
  constructor <;> simp [State.withFl]

@[simp] theorem State.purgeDone_keeps (s : State) (c bands : Nat) (residue : Option Nat) :
    (State.purgeDone s c bands residue).pending = s.pending ∧ (State.purgeDone s c bands residue).mss.mem = s.mss.mem := by
  constructor <;> (unfold State.purgeDone; repeat' (first | (simp; done) | dsimp only | split))

@[simp] theorem State.record_keeps (s : State) (c : Nat) (x : Ctx) :
    (State.record s c x).pending = s.pending ∧ (State.record s c x).mss.mem = s.mss.mem := by
  constructor <;> (unfold State.record; repeat' (first | (simp; done) | dsimp only | split))

@[simp] theorem State.tryRecord_keeps (s : State) (c : Nat) (x : Ctx) :
    (State.tryRecord s c x).pending = s.pending ∧ (State.tryRecord s c x).mss.mem = s.mss.mem := by
  constructor <;> simp [State.tryRecord, ite_pending, ite_mem]

@[simp] theorem State.endIn_keeps (s : State) (c : Nat) (x : Ctx) (nsx : Nat) (hs : List Nat) (r : List Byte) :
    (State.endIn s c x nsx hs r).pending = s.pending ∧ (State.endIn s c x nsx hs r).mss.mem = s.mss.mem := by
  constructor <;> simp [State.endIn]

@[simp] theorem State.tryEnd_keeps (s : State) (c : Nat) (x : Ctx) :
    (State.tryEnd s c x).pending = s.pending ∧ (State.tryEnd s c x).mss.mem = s.mss.mem := by
  constructor <;> (unfold State.tryEnd; repeat' (first | (simp; done) | dsimp only | split))

@[simp] theorem State.tryDeliver_keeps (s : State) (c : Nat) (x : Ctx) :
    (State.tryDeliver s c x).pending = s.pending ∧ (State.tryDeliver s c x).mss.mem = s.mss.mem := by
  constructor <;> (unfold State.tryDeliver; repeat' (first | (simp; done) | dsimp only | split))

@[simp] theorem State.freeCtx_keeps (s : State) (c : Nat) (x : Ctx) :
    (State.freeCtx s c x).pending = s.pending ∧ (State.freeCtx s c x).mss.mem = s.mss.mem := by
  constructor <;> simp [State.freeCtx]

@[simp] theorem State.sideAnswer_keeps (s : State) (x : Ctx) :
    (State.sideAnswer s x).pending = s.pending ∧ (State.sideAnswer s x).mss.mem = s.mss.mem := by
  constructor <;> (unfold State.sideAnswer; split <;> simp)

@[simp] theorem State.answerSide_keeps (s : State) :
    (State.answerSide s).pending = s.pending ∧ (State.answerSide s).mss.mem = s.mss.mem := by
  constructor <;> simp [State.answerSide, ite_pending, ite_mem]

@[simp] theorem State.formatNs_keeps (s : State) (x : Ctx) (k : Nat) :
    (State.formatNs s x k).pending = s.pending ∧ (State.formatNs s x k).mss.mem = s.mss.mem := by
  constructor <;> (unfold State.formatNs; split <;> simp)

@[simp] theorem State.deleteNs_keeps (s : State) (fsn k : Nat) :
    (State.deleteNs s fsn k).pending = s.pending ∧ (State.deleteNs s fsn k).mss.mem = s.mss.mem := by
  constructor <;> (unfold State.deleteNs; split <;> simp)

@[simp] theorem State.grow_keeps (s : State) (c k : Nat) (n : Ns) (size : Nat) :
    (State.grow s c k n size).pending = s.pending ∧ (State.grow s c k n size).mss.mem = s.mss.mem := by
  by_cases h : (s.fl.release c).unvmcap + n.capacity n.nsze < n.capacity size ∨
      s.mapRegion + n.mapCost n.nsze < (s.fl.release c).usedMap + n.mapCost size
  · rw [State.grow, if_pos h]; simp
  · rw [State.grow, if_neg h]; simp

@[simp] theorem State.shrink_keeps (s : State) (c k : Nat) (n : Ns) (size : Nat) :
    (State.shrink s c k n size).pending = s.pending ∧ (State.shrink s c k n size).mss.mem = s.mss.mem := by
  constructor <;> (unfold State.shrink; split <;> simp)

@[simp] theorem State.sizeChange_keeps (s : State) (c : Nat) (x : Ctx) (k : Nat) :
    (State.sizeChange s c x k).pending = s.pending ∧ (State.sizeChange s c x k).mss.mem = s.mss.mem := by
  constructor <;> (unfold State.sizeChange; repeat' (first | (simp; done) | dsimp only | split))

@[simp] theorem State.actOnNs_keeps (s : State) (c : Nat) (x : Ctx) :
    (State.actOnNs s c x).pending = s.pending ∧ (State.actOnNs s c x).mss.mem = s.mss.mem := by
  constructor <;> (unfold State.actOnNs; repeat' (first | (simp; done) | dsimp only | split))

@[simp] theorem State.spoil_keeps (s : State) (c : Nat) (x : Ctx) :
    (State.spoil s c x).pending = s.pending ∧ (State.spoil s c x).mss.mem = s.mss.mem := by
  constructor <;> (unfold State.spoil; repeat' (first | (simp; done) | dsimp only | split))

@[simp] theorem State.sanitizeStart_keeps (s : State) :
    (State.sanitizeStart s).pending = s.pending ∧ (State.sanitizeStart s).mss.mem = s.mss.mem := by
  constructor <;> (unfold State.sanitizeStart; repeat' (first | (simp; done) | dsimp only | split))

@[simp] theorem State.settleCtx_keeps (s : State) (c : Nat) :
    (State.settleCtx s c).pending = s.pending ∧ (State.settleCtx s c).mss.mem = s.mss.mem := by
  constructor <;> (unfold State.settleCtx; repeat' (first | (simp; done) | dsimp only | split))

@[simp] theorem State.settlePass_keeps (n : Nat) (s : State) :
    (State.settlePass n s).pending = s.pending ∧ (State.settlePass n s).mss.mem = s.mss.mem := by
  induction n generalizing s with
  | zero => simp [State.settlePass]
  | succ n ih => simp [State.settlePass, ih]

@[simp] theorem State.settle_keeps (s : State) :
    (State.settle s).pending = s.pending ∧ (State.settle s).mss.mem = s.mss.mem := by
  constructor <;> (unfold State.settle; split <;> simp)

@[simp] theorem State.protectWrites_keeps (s : State) :
    (State.protectWrites s).pending = s.pending ∧ (State.protectWrites s).mss.mem = s.mss.mem := by
  constructor <;> (unfold State.protectWrites; split <;> simp)

@[simp] theorem State.granule_keeps (s : State) (c lba : Nat) (cells : Tab Cell) (mirage : Bool) :
    (State.granule s c lba cells mirage).pending = s.pending ∧ (State.granule s c lba cells mirage).mss.mem = s.mss.mem := by
  constructor <;> simp [State.granule]

@[simp] theorem State.note_keeps (s : State) (n : Note) :
    (State.note s n).pending = s.pending ∧ (State.note s n).mss.mem = s.mss.mem := by
  constructor <;> (unfold State.note; repeat' (first | (simp; done) | dsimp only | split))

@[simp] theorem State.told_keeps (s : State) (r : Flash × List Note) :
    (State.told s r).pending = s.pending ∧ (State.told s r).mss.mem = s.mss.mem := by
  constructor <;> simp [State.told]

@[simp] theorem State.judgeMode_keeps (s : State) :
    (State.judgeMode s).pending = s.pending ∧ (State.judgeMode s).mss.mem = s.mss.mem := by
  unfold State.judgeMode
  split
  · extract_lets r g
    have h : g.pending = s.pending ∧ g.mss.mem = s.mss.mem := State.told_keeps s r
    split <;> exact h
  · simp

end Sys2Proof.Machine
end

