-- ==== Sys2Proof/Laws/KeepAdmin.lean ====
section
/-! SUPPORT. What the operations of Admin leave alone: the queue of commands, and the bytes of DRAM memory where they do not store there. -/

namespace Sys2Proof.Machine

theorem State.takeSide_keeps {s t : State} {inst : Nat} {q : Sqe} {c : Nat} (h : s.takeSide inst q = some (t, c)) :
    t.pending = s.pending ∧ t.mss.mem = s.mss.mem := by
  unfold State.takeSide at h
  split at h
  · simp only [Option.some.injEq, Prod.mk.injEq] at h
    rw [← h.1]
    simp
  · cases h

@[simp] theorem State.adminNow_keeps (s : State) (a : AdminCmd) (opc : Nat) (sc : AdminScope) (side san : Bool) (go : State → Nat → Ctx → State)
    (h : ∀ g c x, (go g c x).pending = g.pending ∧ (go g c x).mss.mem = g.mss.mem) :
    (s.adminNow a opc sc side san go).pending = s.pending ∧ (s.adminNow a opc sc side san go).mss.mem = s.mss.mem := by
  unfold State.adminNow
  split
  · exact ⟨rfl, rfl⟩
  · next g c e =>
    have ht : g.pending = s.pending ∧ g.mss.mem = s.mss.mem := by
      split at e
      · exact State.takeSide_keeps e
      · exact State.take_keeps e
    split
    · exact ht
    · rw [← ht.1, ← ht.2]
      (repeat' split) <;> simp [h]

@[simp] theorem State.admin_keeps (s : State) (a : AdminCmd) (opc : Nat) (sc : AdminScope) (side san : Bool) (go : State → Nat → Ctx → State)
    (h : ∀ g c x, (go g c x).pending = g.pending ∧ (go g c x).mss.mem = g.mss.mem) :
    (s.admin a opc sc side san go).pending = s.pending ∧ (s.admin a opc sc side san go).mss.mem = s.mss.mem := by
  refine State.adminNow_keeps s a opc sc side san _ fun g c x => ?_
  have := h (g.until' (g.mgc.postHold - 5000)) c x
  simpa using this

@[simp] theorem State.finDurable_keeps (s : State) (c : Nat) (st : Status) (dw0 dw1 wsn : Nat) :
    (State.finDurable s c st dw0 dw1 wsn).pending = s.pending ∧ (State.finDurable s c st dw0 dw1 wsn).mss.mem = s.mss.mem := by
  constructor <;> simp [State.finDurable]

end Sys2Proof.Machine
end

