-- ==== Sys2Proof/Laws/KeepData.lean ====
section
/-! SUPPORT. What the operations of DataPath leave alone: the queue of commands, and the bytes of DRAM memory where they do not store there. -/

namespace Sys2Proof.Machine

@[simp] theorem execSqFetchIssue_keeps (s : State) :
    Keeps s (execSqFetchIssue s) := by
  unfold execSqFetchIssue; split <;> simp

@[simp] theorem execRangeLockEntryGrant_keeps (s : State) :
    Keeps s (execRangeLockEntryGrant s) := by
  unfold execRangeLockEntryGrant; rw [keeps_next]; apply State.whenRuns_keeps; intros; constructor <;> repeat' (first | (simp; done) | dsimp only | split)

@[simp] theorem execAdmitCommand_keeps (s : State) :
    Keeps s (execAdmitCommand s) := by
  unfold execAdmitCommand; rw [keeps_next]; apply State.whenRuns_keeps; intros; constructor <;> repeat' (first | (simp; done) | dsimp only | split)

@[simp] theorem execTranslateComplete_keeps (ctx : Nat) (s : State) :
    Keeps s (execTranslateComplete ctx s) := by
  unfold execTranslateComplete; rw [keeps_next]; apply State.whenRuns_keeps; intros; constructor <;> repeat' (first | (simp; done) | dsimp only | split)

@[simp] theorem execOasisReadComplete_keeps (ctx : Nat) (s : State) :
    Keeps s (execOasisReadComplete ctx s) := by
  simp [execOasisReadComplete]

@[simp] theorem State.laneMismatch_keeps (s : State) (write : Bool) (lane : Nat) :
    (State.laneMismatch s write lane).pending = s.pending ∧ (State.laneMismatch s write lane).mss.mem = s.mss.mem := by
  constructor <;> simp [State.laneMismatch]

@[simp] theorem State.checkRead_keeps (s : State) (c : Nat) (x : Ctx) (n : Ns) (bs : List LBlock) :
    (State.checkRead s c x n bs).pending = s.pending ∧ (State.checkRead s c x n bs).mss.mem = s.mss.mem := by
  constructor <;> (unfold State.checkRead; repeat' (first | (simp; done) | dsimp only | split))

@[simp] theorem execXtsDecryptDone_keeps (ctx : Nat) (o : LaneOutcome) (s : State) :
    Keeps s (execXtsDecryptDone ctx o s) := by
  unfold execXtsDecryptDone; rw [keeps_next]; apply State.whenRuns_keeps; intros; constructor <;> repeat' (first | (simp; done) | dsimp only | split)

@[simp] theorem execHostDataTransferDone_keeps (ctx : Nat) (s : State) :
    Keeps s (execHostDataTransferDone ctx s) := by
  unfold execHostDataTransferDone; rw [keeps_next]; apply State.whenRuns_keeps; intros; constructor <;> repeat' (first | (simp; done) | dsimp only | split)

@[simp] theorem State.arrive_keeps (s : State) (c : Nat) (x : Ctx) (n : Ns) (bs : List LBlock) :
    (State.arrive s c x n bs).pending = s.pending ∧ (State.arrive s c x n bs).mss.mem = s.mss.mem := by
  constructor <;> (unfold State.arrive; repeat' (first | (simp; done) | dsimp only | split))

@[simp] theorem execWriteDataArrival_keeps (ctx : Nat) (blocks : List LBlock) (s : State) :
    Keeps s (execWriteDataArrival ctx blocks s) := by
  unfold execWriteDataArrival; rw [keeps_next]; apply State.whenRuns_keeps; intros; constructor <;> repeat' (first | (simp; done) | dsimp only | split)

@[simp] theorem execOasisSpaceWaitRelease_keeps (ctx : Nat) (s : State) :
    Keeps s (execOasisSpaceWaitRelease ctx s) := by
  unfold execOasisSpaceWaitRelease; rw [keeps_next]; apply State.whenRuns_keeps; intros; constructor <;> repeat' (first | (simp; done) | dsimp only | split)

@[simp] theorem execXtsEncryptDone_keeps (ctx : Nat) (o : LaneOutcome) (s : State) :
    Keeps s (execXtsEncryptDone ctx o s) := by
  unfold execXtsEncryptDone; rw [keeps_next]; apply State.whenRuns_keeps; intros; constructor <;> repeat' (first | (simp; done) | dsimp only | split)

@[simp] theorem execFuaWriteComplete_keeps (ctx : Nat) (s : State) :
    Keeps s (execFuaWriteComplete ctx s) := by
  unfold execFuaWriteComplete; rw [keeps_next]; apply State.whenRuns_keeps; intros; constructor <;> repeat' (first | (simp; done) | dsimp only | split)

@[simp] theorem execFlushComplete_keeps (ctx : Nat) (s : State) :
    Keeps s (execFlushComplete ctx s) := by
  unfold execFlushComplete; rw [keeps_next]; apply State.whenRuns_keeps; intros; constructor <;> repeat' (first | (simp; done) | dsimp only | split)

@[simp] theorem State.countDone_keeps (s : State) (x : Ctx) :
    (State.countDone s x).pending = s.pending ∧ (State.countDone s x).mss.mem = s.mss.mem := by
  constructor <;> (unfold State.countDone; split <;> simp)

@[simp] theorem State.interrupt_keeps (s : State) (inst : Nat) (v : Option Nat) (b : Bool) :
    (State.interrupt s inst v b).pending = s.pending ∧ (State.interrupt s inst v b).mss.mem = s.mss.mem := by
  unfold State.interrupt; split <;> simp

@[simp] theorem State.post_keeps (s : State) (inst cqid c : Nat) (x : Ctx) (i : Inst) (sq : Sq) (cq : Cq) :
    (State.post s inst cqid c x i sq cq).pending = s.pending ∧ (State.post s inst cqid c x i sq cq).mss.mem = s.mss.mem := by
  constructor <;> (unfold State.post; repeat' (first | (simp; done) | dsimp only | split))

@[simp] theorem execCqePost_keeps (inst cqid : Nat) (s : State) :
    Keeps s (execCqePost inst cqid s) := by
  unfold execCqePost; rw [keeps_next]; apply State.whenRuns_keeps; intros; constructor <;> repeat' (first | (simp; done) | dsimp only | split)

@[simp] theorem execInterruptCoalesceTimeout_keeps (inst vector : Nat) (s : State) :
    Keeps s (execInterruptCoalesceTimeout inst vector s) := by
  unfold execInterruptCoalesceTimeout; rw [keeps_next]; apply State.whenRuns_keeps; intros; constructor <;> repeat' (first | (simp; done) | dsimp only | split)

@[simp] theorem execMsixVectorUnmask_keeps (inst : Nat) (w : IntWrite) (s : State) :
    Keeps s (execMsixVectorUnmask inst w s) := by
  unfold execMsixVectorUnmask; rw [keeps_next]; apply State.whenRuns_keeps; intros; constructor <;> repeat' (first | (simp; done) | dsimp only | split)

end Sys2Proof.Machine
end

