-- ==== Sys2Proof/Laws/KeepReg.lean ====
section
/-! SUPPORT. What the operations of Registers leave alone: the queue of commands, and the bytes of DRAM memory where they do not store there. -/

namespace Sys2Proof.Machine

@[simp] theorem Mss.writeDmcfg_mem (m : Mss) (v : W32) : (m.writeDmcfg v).mem = m.mem := by unfold Mss.writeDmcfg; (repeat' split) <;> rfl

@[simp] theorem Mss.writeStgcfg_mem (m : Mss) (n : Nat) (v : W32) : (m.writeStgcfg n v).mem = m.mem := by
  simp only [Mss.writeStgcfg]; split <;> rfl

@[simp] theorem State.setRegs_keeps (s : State) (b : Block) (rf : RegFile) :
    (State.setRegs s b rf).pending = s.pending ∧ (State.setRegs s b rf).mss.mem = s.mss.mem := by
  constructor <;> (unfold State.setRegs; split <;> simp)

@[simp] theorem State.setReg_keeps (s : State) (r : Reg) (w : W32) :
    (State.setReg s r w).pending = s.pending ∧ (State.setReg s r w).mss.mem = s.mss.mem := by
  constructor <;> simp [State.setReg]

@[simp] theorem State.csrErr_keeps (s : State) (reason : Nat) (r : Requester) (addr : Nat) :
    (State.csrErr s reason r addr).pending = s.pending ∧ (State.csrErr s reason r addr).mss.mem = s.mss.mem := by
  constructor <;> simp [State.csrErr]

@[simp] theorem State.writeQpool_keeps (s : State) (n : Nat) (v : W32) :
    (State.writeQpool s n v).pending = s.pending ∧ (State.writeQpool s n v).mss.mem = s.mss.mem := by
  constructor <;> simp [State.writeQpool, ite_pending, ite_mem]

@[simp] theorem State.storeReg_keeps (s : State) (r : Reg) (v : W32) :
    (State.storeReg s r v).pending = s.pending ∧ (State.storeReg s r v).mss.mem = s.mss.mem := by
  constructor <;> (unfold State.storeReg; repeat' (first | (simp; done) | dsimp only | split))

@[simp] theorem State.csrWrite_keeps (s : State) (r : Requester) (reg : Reg) (v : W32) (eff : State → State)
    (h : ∀ g, (eff g).pending = g.pending ∧ (eff g).mss.mem = g.mss.mem) :
    (s.csrWrite r reg v eff).pending = s.pending ∧ (s.csrWrite r reg v eff).mss.mem = s.mss.mem := by
  unfold State.csrWrite
  (repeat' split) <;> simp [h]

end Sys2Proof.Machine
end

