-- ==== Sys2Proof/Laws/KeepInst.lean ====
section
/-! SUPPORT. What the operations of Instances leave alone: the queue of commands, and the bytes of DRAM memory where they do not store there. -/

namespace Sys2Proof.Machine

@[simp] theorem State.addSq_keeps (s : State) (inst qid size cq prio : Nat) (flow : Bool) :
    (State.addSq s inst qid size cq prio flow).pending = s.pending ∧ (State.addSq s inst qid size cq prio flow).mss.mem = s.mss.mem := by
  constructor <;> simp [State.addSq]

@[simp] theorem State.addCq_keeps (s : State) (inst qid size : Nat) (vector : Option Nat) :
    (State.addCq s inst qid size vector).pending = s.pending ∧ (State.addCq s inst qid size vector).mss.mem = s.mss.mem := by
  constructor <;> simp [State.addCq]

@[simp] theorem State.addInst_keeps (s : State) (inst : Nat) (i : Inst) (share : Share) :
    (State.addInst s inst i share).pending = s.pending ∧ (State.addInst s inst i share).mss.mem = s.mss.mem := by
  constructor <;> simp [State.addInst]

@[simp] theorem State.removeInst_keeps (s : State) (inst : Nat) :
    (State.removeInst s inst).pending = s.pending ∧ (State.removeInst s inst).mss.mem = s.mss.mem := by
  constructor <;> simp [State.removeInst]

@[simp] theorem State.openPort_keeps (s : State) (n : Nat) (p : Port) :
    (State.openPort s n p).pending = s.pending ∧ (State.openPort s n p).mss.mem = s.mss.mem := by
  constructor <;> simp [State.openPort, ite_pending, ite_mem]

@[simp] theorem State.forget_keeps (s : State) (c : Nat) :
    (State.forget s c).pending = s.pending ∧ (State.forget s c).mss.mem = s.mss.mem := by
  constructor <;> simp [State.forget]

@[simp] theorem State.cancelCtx_keeps (s : State) (c : Nat) :
    (State.cancelCtx s c).pending = s.pending ∧ (State.cancelCtx s c).mss.mem = s.mss.mem := by
  constructor <;> simp [State.cancelCtx]

@[simp] theorem State.keepWrite_keeps (s : State) (c : Nat) :
    (State.keepWrite s c).pending = s.pending ∧ (State.keepWrite s c).mss.mem = s.mss.mem := by
  constructor <;> (unfold State.keepWrite; repeat' (first | (simp; done) | dsimp only | split))

@[simp] theorem State.teardown_keeps (s : State) (inst : Nat) :
    (State.teardown s inst).pending = s.pending ∧ (State.teardown s inst).mss.mem = s.mss.mem := by
  constructor <;> simp [State.teardown]

@[simp] theorem State.resetInst_keeps (s : State) (inst : Nat) (to' : ResetTo) :
    (State.resetInst s inst to').pending = s.pending ∧ (State.resetInst s inst to').mss.mem = s.mss.mem := by
  constructor <;> (unfold State.resetInst; repeat' (first | (simp; done) | dsimp only | split))

@[simp] theorem execInstanceResetComplete_keeps (inst : Nat) (s : State) :
    Keeps s (execInstanceResetComplete inst s) := by
  unfold execInstanceResetComplete; rw [keeps_next]; constructor <;> repeat' (first | (simp; done) | dsimp only | split)

@[simp] theorem State.endAssociation_keeps (s : State) (inst : Nat) :
    (State.endAssociation s inst).pending = s.pending ∧ (State.endAssociation s inst).mss.mem = s.mss.mem := by
  constructor <;> (unfold State.endAssociation; repeat' (first | (simp; done) | dsimp only | split))

@[simp] theorem State.functionReset_keeps (s : State) (inst : Nat) (to' : ResetTo) :
    (State.functionReset s inst to').pending = s.pending ∧ (State.functionReset s inst to').mss.mem = s.mss.mem := by
  constructor <;> simp [State.functionReset]

@[simp] theorem execFunctionLevelReset_keeps (inst : Nat) (s : State) : Keeps s (execFunctionLevelReset inst s) := by
  unfold execFunctionLevelReset
  rw [keeps_next]
  split
  · simp
  · split
    · simp
    · dsimp only
      split
      · constructor
        · rw [foldl_pending _ (by intros; split <;> simp)]; simp
        · rw [foldl_mem _ (by intros; split <;> simp)]; simp
      · simp

@[simp] theorem State.enable_keeps (s : State) (inst : Nat) (i : Inst) (cc aqa asq acq : Nat) :
    (State.enable s inst i cc aqa asq acq).pending = s.pending ∧ (State.enable s inst i cc aqa asq acq).mss.mem = s.mss.mem := by
  constructor <;> simp [State.enable, ite_pending, ite_mem]

@[simp] theorem State.storeCc_keeps (s : State) (inst cc : Nat) :
    (State.storeCc s inst cc).pending = s.pending ∧ (State.storeCc s inst cc).mss.mem = s.mss.mem := by
  constructor <;> simp [State.storeCc]

@[simp] theorem execCcEnSet_keeps (inst cc aqa asq acq : Nat) (s : State) :
    Keeps s (execCcEnSet inst cc aqa asq acq s) := by
  unfold execCcEnSet; rw [keeps_next]; constructor <;> repeat' (first | (simp; done) | dsimp only | split)

@[simp] theorem State.disable_keeps (s : State) (inst : Nat) (i : Inst) :
    (State.disable s inst i).pending = s.pending ∧ (State.disable s inst i).mss.mem = s.mss.mem := by
  constructor <;> (unfold State.disable; split <;> simp)

@[simp] theorem execCcEnClear_keeps (inst cc : Nat) (s : State) :
    Keeps s (execCcEnClear inst cc s) := by
  unfold execCcEnClear; rw [keeps_next]; constructor <;> repeat' (first | (simp; done) | dsimp only | split)

@[simp] theorem State.shutdownInst_keeps (s : State) (inst : Nat) (i : Inst) :
    (State.shutdownInst s inst i).pending = s.pending ∧ (State.shutdownInst s inst i).mss.mem = s.mss.mem := by
  constructor <;> (unfold State.shutdownInst; split <;> simp)

@[simp] theorem execCcShutdownNotify_keeps (inst shn : Nat) (s : State) :
    Keeps s (execCcShutdownNotify inst shn s) := by
  unfold execCcShutdownNotify; rw [keeps_next]; constructor <;> repeat' (first | (simp; done) | dsimp only | split)

@[simp] theorem State.startShutdown_keeps (s : State) (devrst : Bool) :
    (State.startShutdown s devrst).pending = s.pending ∧ (State.startShutdown s devrst).mss.mem = s.mss.mem := by
  constructor <;> (unfold State.startShutdown; repeat' (first | (simp; done) | dsimp only | split))

@[simp] theorem State.shutdownDone_keeps (s : State) (inst : Nat) :
    (State.shutdownDone s inst).pending = s.pending ∧ (State.shutdownDone s inst).mss.mem = s.mss.mem := by
  constructor <;> simp [State.shutdownDone, ite_pending, ite_mem]

@[simp] theorem execCcShutdownFlushDone_keeps (inst : Nat) (s : State) :
    Keeps s (execCcShutdownFlushDone inst s) := by
  unfold execCcShutdownFlushDone; rw [keeps_next]; apply State.whenRuns_keeps; intros; constructor <;> repeat' (first | (simp; done) | dsimp only | split)

@[simp] theorem execSqTailDoorbell_keeps (inst sqid v : Nat) (s : State) :
    Keeps s (execSqTailDoorbell inst sqid v s) := by
  unfold execSqTailDoorbell; rw [keeps_next]; constructor <;> repeat' (first | (simp; done) | dsimp only | split)

@[simp] theorem execCqHeadDoorbell_keeps (inst cqid v : Nat) (s : State) :
    Keeps s (execCqHeadDoorbell inst cqid v s) := by
  unfold execCqHeadDoorbell; rw [keeps_next]; constructor <;> repeat' (first | (simp; done) | dsimp only | split)

@[simp] theorem State.addVf_keeps (s : State) (port inst : Nat) :
    (State.addVf s port inst).pending = s.pending ∧ (State.addVf s port inst).mss.mem = s.mss.mem := by
  constructor <;> (unfold State.addVf; split <;> simp)

@[simp] theorem State.dropVf_keeps (s : State) (inst : Nat) :
    (State.dropVf s inst).pending = s.pending ∧ (State.dropVf s inst).mss.mem = s.mss.mem := by
  constructor <;> (unfold State.dropVf; split <;> simp)

@[simp] theorem execNumvfsWrite_keeps (port n : Nat) (enable : Bool) (s : State) :
    Keeps s (execNumvfsWrite port n enable s) := by
  unfold execNumvfsWrite; rw [keeps_next]; constructor <;> repeat' (first | (simp; done) | dsimp only | split)

end Sys2Proof.Machine
end

