-- ==== Sys2Proof/Laws/KeepQueues.lean ====
section
/-! SUPPORT. What the operations of Queues leave alone: the queue of commands, and the bytes of DRAM memory where they do not store there. -/

namespace Sys2Proof.Machine

@[simp] theorem execKeepAlive_keeps (a : AdminCmd) (s : State) :
    Keeps s (execKeepAlive a s) := by
  simp [execKeepAlive]

@[simp] theorem execCreateIoCq_keeps (a : AdminCmd) (s : State) :
    Keeps s (execCreateIoCq a s) := by
  simp [execCreateIoCq, ite_pending, ite_mem]

@[simp] theorem execCreateIoSq_keeps (a : AdminCmd) (s : State) :
    Keeps s (execCreateIoSq a s) := by
  simp [execCreateIoSq, ite_pending, ite_mem]

@[simp] theorem execDeleteIoCq_keeps (a : AdminCmd) (s : State) :
    Keeps s (execDeleteIoCq a s) := by
  simp [execDeleteIoCq, ite_pending, ite_mem]

@[simp] theorem State.endDeleted_keeps (s : State) (c : Nat) :
    (State.endDeleted s c).pending = s.pending ∧ (State.endDeleted s c).mss.mem = s.mss.mem := by
  constructor <;> simp [State.endDeleted]

@[simp] theorem execDeleteIoSq_keeps (a : AdminCmd) (s : State) :
    Keeps s (execDeleteIoSq a s) := by
  simp [execDeleteIoSq, ite_pending, ite_mem]

@[simp] theorem execAbort_keeps (a : AdminCmd) (s : State) :
    Keeps s (execAbort a s) := by
  unfold execAbort; rw [keeps_next]; apply State.admin_keeps; intros; constructor <;> repeat' (first | (simp; done) | dsimp only | split)

@[simp] theorem execAsyncEventRequest_keeps (a : AdminCmd) (s : State) :
    Keeps s (execAsyncEventRequest a s) := by
  simp [execAsyncEventRequest, ite_pending, ite_mem]

end Sys2Proof.Machine
end

