-- ==== Sys2Proof/Laws/KeepPorts.lean ====
section
/-! SUPPORT. What the operations of HostPorts leave alone: the queue of commands, and the bytes of DRAM memory where they do not store there. -/

namespace Sys2Proof.Machine

@[simp] theorem State.portReset_keeps (s : State) (n : Nat) : (s.portReset n).pending = s.pending ∧ (s.portReset n).mss.mem = s.mss.mem := by
  unfold State.portReset
  split
  · simp
  · constructor
    · exact foldl_pending _ (by intros; dsimp only; (repeat' split) <;> simp) _ _
    · exact foldl_mem _ (by intros; dsimp only; (repeat' split) <;> simp) _ _

@[simp] theorem State.linkLoss_keeps (s : State) (n : Nat) (next : LinkState) :
    (State.linkLoss s n next).pending = s.pending ∧ (State.linkLoss s n next).mss.mem = s.mss.mem := by
  constructor <;> simp [State.linkLoss]

@[simp] theorem State.portLoss_keeps (s : State) (n : Nat) (next : LinkState) :
    (State.portLoss s n next).pending = s.pending ∧ (State.portLoss s n next).mss.mem = s.mss.mem := by
  constructor <;> simp [State.portLoss, ite_pending, ite_mem]

@[simp] theorem execPciePerstDeassert_keeps (g : Nat) (s : State) :
    Keeps s (execPciePerstDeassert g s) := by
  unfold execPciePerstDeassert; split <;> simp

@[simp] theorem execPciePerstAssert_keeps (g : Nat) (s : State) :
    Keeps s (execPciePerstAssert g s) := by
  simp [execPciePerstAssert]

@[simp] theorem execLinkTrained_keeps (port speed width best : Nat) (s : State) :
    Keeps s (execLinkTrained port speed width best s) := by
  unfold execLinkTrained; split <;> simp

@[simp] theorem execPcieHotReset_keeps (port : Nat) (s : State) :
    Keeps s (execPcieHotReset port s) := by
  unfold execPcieHotReset; split <;> simp

@[simp] theorem execPcieLinkDown_keeps (port : Nat) (s : State) :
    Keeps s (execPcieLinkDown port s) := by
  unfold execPcieLinkDown; split <;> simp

@[simp] theorem execEthLinkDown_keeps (port : Nat) (s : State) :
    Keeps s (execEthLinkDown port s) := by
  unfold execEthLinkDown; split <;> simp

@[simp] theorem execLaneGroupClockLoss_keeps (g : Nat) (s : State) :
    Keeps s (execLaneGroupClockLoss g s) := by
  unfold execLaneGroupClockLoss; split <;> simp

@[simp] theorem execSerdesRailRecovery_keeps (s : State) :
    Keeps s (execSerdesRailRecovery s) := by
  unfold execSerdesRailRecovery; split <;> simp

@[simp] theorem State.settleLanes_keeps (s : State) (again : List Nat) :
    (State.settleLanes s again).pending = s.pending ∧ (State.settleLanes s again).mss.mem = s.mss.mem := by
  constructor <;> simp [State.settleLanes, ite_pending, ite_mem]

@[simp] theorem State.lanesChanged_keeps (s : State) (old : W32) :
    (State.lanesChanged s old).pending = s.pending ∧ (State.lanesChanged s old).mss.mem = s.mss.mem := by
  constructor <;> simp [State.lanesChanged, ite_pending, ite_mem]

@[simp] theorem execHfuLgcfgWrite_keeps (r : Requester) (v : W32) (s : State) :
    Keeps s (execHfuLgcfgWrite r v s) := by
  simp [execHfuLgcfgWrite]

@[simp] theorem execHfuLeasecfgWrite_keeps (r : Requester) (v : W32) (s : State) :
    Keeps s (execHfuLeasecfgWrite r v s) := by
  simp [execHfuLeasecfgWrite]

@[simp] theorem State.setIrq_keeps (s : State) (inst : Nat) (q : Irq) :
    (State.setIrq s inst q).pending = s.pending ∧ (State.setIrq s inst q).mss.mem = s.mss.mem := by
  constructor <;> (unfold State.setIrq; repeat' (first | (simp; done) | dsimp only | split))

@[simp] theorem State.cfgWrite_keeps (s : State) (inst : Nat) (i : Inst) (r : CfgReg) (v : Nat) :
    (State.cfgWrite s inst i r v).pending = s.pending ∧ (State.cfgWrite s inst i r v).mss.mem = s.mss.mem := by
  constructor <;> (unfold State.cfgWrite; repeat' (first | (simp; done) | dsimp only | split))

@[simp] theorem execConfigRequest_keeps (q : CfgReq) (s : State) :
    Keeps s (execConfigRequest q s) := by
  unfold execConfigRequest; rw [keeps_next]; constructor <;> repeat' (first | (simp; done) | dsimp only | split)

@[simp] theorem State.countCorr_keeps (s : State) (n : Nat) :
    (State.countCorr s n).pending = s.pending ∧ (State.countCorr s n).mss.mem = s.mss.mem := by
  constructor <;> simp [State.countCorr]

@[simp] theorem State.countUncorr_keeps (s : State) (n : Nat) :
    (State.countUncorr s n).pending = s.pending ∧ (State.countUncorr s n).mss.mem = s.mss.mem := by
  constructor <;> simp [State.countUncorr]

@[simp] theorem execPcieReceiverError_keeps (port : Nat) (s : State) :
    Keeps s (execPcieReceiverError port s) := by
  unfold execPcieReceiverError; split <;> simp

@[simp] theorem State.uncoded_keeps (s : State) (objType obj : Nat) :
    (State.uncoded s objType obj).pending = s.pending ∧ (State.uncoded s objType obj).mss.mem = s.mss.mem := by
  constructor <;> (unfold State.uncoded; simp)

@[simp] theorem execMalformedTlp_keeps (port : Nat) (s : State) :
    Keeps s (execMalformedTlp port s) := by
  unfold execMalformedTlp; split <;> simp

@[simp] theorem execBarUnsupportedAccess_keeps (inst offset : Nat) (s : State) :
    Keeps s (execBarUnsupportedAccess inst offset s) := by
  unfold execBarUnsupportedAccess; rw [keeps_next]; constructor <;> repeat' (first | (simp; done) | dsimp only | split)

@[simp] theorem State.fetchFailed_keeps (s : State) (inst sqid : Nat) :
    (State.fetchFailed s inst sqid).pending = s.pending ∧ (State.fetchFailed s inst sqid).mss.mem = s.mss.mem := by
  constructor <;> (unfold State.fetchFailed; repeat' (first | (simp; done) | dsimp only | split))

@[simp] theorem State.dataFailed_keeps (s : State) (c : Nat) :
    (State.dataFailed s c).pending = s.pending ∧ (State.dataFailed s c).mss.mem = s.mss.mem := by
  constructor <;> (unfold State.dataFailed; repeat' (first | (simp; done) | dsimp only | split))

@[simp] theorem execCompletionTimeout_keeps (t : HostRead) (s : State) :
    Keeps s (execCompletionTimeout t s) := by
  unfold execCompletionTimeout; split <;> simp

@[simp] theorem execHostReadFailure_keeps (t : HostRead) (why : ReadFault) (s : State) :
    Keeps s (execHostReadFailure t why s) := by
  unfold execHostReadFailure; split <;> simp

@[simp] theorem State.updConn_keeps (s : State) (c : Nat) (f : Conn → Conn) :
    (State.updConn s c f).pending = s.pending ∧ (State.updConn s c f).mss.mem = s.mss.mem := by
  constructor <;> simp [State.updConn]

@[simp] theorem State.dropAssociation_keeps (s : State) (inst : Nat) :
    (State.dropAssociation s inst).pending = s.pending ∧ (State.dropAssociation s inst).mss.mem = s.mss.mem := by
  constructor <;> (unfold State.dropAssociation; repeat' (first | (simp; done) | dsimp only | split))

@[simp] theorem State.connLost_keeps (s : State) (c : Nat) :
    (State.connLost s c).pending = s.pending ∧ (State.connLost s c).mss.mem = s.mss.mem := by
  constructor <;> (unfold State.connLost; repeat' (first | (simp; done) | dsimp only | split))

@[simp] theorem execTransportConnectionFailure_keeps (conn : Nat) (s : State) :
    Keeps s (execTransportConnectionFailure conn s) := by
  simp [execTransportConnectionFailure]

@[simp] theorem State.capsule_keeps (s : State) (port : Nat) (h : EthHead) (c n : Nat) :
    (State.capsule s port h c n).pending = s.pending ∧ (State.capsule s port h c n).mss.mem = s.mss.mem := by
  constructor <;> (unfold State.capsule; repeat' (first | (simp; done) | dsimp only | split))

@[simp] theorem State.dataDigest_keeps (s : State) (port c : Nat) :
    (State.dataDigest s port c).pending = s.pending ∧ (State.dataDigest s port c).mss.mem = s.mss.mem := by
  constructor <;> (unfold State.dataDigest; repeat' (first | (simp; done) | dsimp only | split))

@[simp] theorem State.headerDigest_keeps (s : State) (port c : Nat) :
    (State.headerDigest s port c).pending = s.pending ∧ (State.headerDigest s port c).mss.mem = s.mss.mem := by
  constructor <;> (unfold State.headerDigest; repeat' (first | (simp; done) | dsimp only | split))

@[simp] theorem State.frame_keeps (s : State) (port : Nat) (h : EthHead) (f : EthFrame) :
    (State.frame s port h f).pending = s.pending ∧ (State.frame s port h f).mss.mem = s.mss.mem := by
  constructor <;> (unfold State.frame; repeat' (first | (simp; done) | dsimp only | split))

@[simp] theorem State.countFec_keeps (s : State) (port words : Nat) :
    (State.countFec s port words).pending = s.pending ∧ (State.countFec s port words).mss.mem = s.mss.mem := by
  constructor <;> (unfold State.countFec; simp)

@[simp] theorem execEthFrameReceive_keeps (port : Nat) (r : EthRx) (s : State) :
    Keeps s (execEthFrameReceive port r s) := by
  unfold execEthFrameReceive; split <;> simp

@[simp] theorem execPfcPauseReceive_keeps (port prio quanta : Nat) (s : State) :
    Keeps s (execPfcPauseReceive port prio quanta s) := by
  unfold execPfcPauseReceive; split <;> simp

@[simp] theorem execEcnCeReceive_keeps (conn : Nat) (s : State) :
    Keeps s (execEcnCeReceive conn s) := by
  unfold execEcnCeReceive; rw [keeps_next]; constructor <;> repeat' (first | (simp; done) | dsimp only | split)

@[simp] theorem execCnpReceive_keeps (conn : Nat) (s : State) :
    Keeps s (execCnpReceive conn s) := by
  simp [execCnpReceive]

@[simp] theorem execCnpRateRecovery_keeps (conn : Nat) (s : State) :
    Keeps s (execCnpRateRecovery conn s) := by
  unfold execCnpRateRecovery; rw [keeps_next]; constructor <;> repeat' (first | (simp; done) | dsimp only | split)

@[simp] theorem State.resend_keeps (s : State) (c : Nat) (rdma : Bool) (limit : Nat) :
    (State.resend s c rdma limit).pending = s.pending ∧ (State.resend s c rdma limit).mss.mem = s.mss.mem := by
  constructor <;> (unfold State.resend; repeat' (first | (simp; done) | dsimp only | split))

@[simp] theorem execRoceAckTimeout_keeps (conn : Nat) (s : State) :
    Keeps s (execRoceAckTimeout conn s) := by
  simp [execRoceAckTimeout]

@[simp] theorem execTcpRetransmitTimeout_keeps (conn : Nat) (s : State) :
    Keeps s (execTcpRetransmitTimeout conn s) := by
  simp [execTcpRetransmitTimeout]

@[simp] theorem State.addConn_keeps (s : State) (k : Conn) :
    (State.addConn s k).pending = s.pending ∧ (State.addConn s k).mss.mem = s.mss.mem := by
  constructor <;> simp [State.addConn]

@[simp] theorem State.connectAdmin_keeps (s : State) (port : Nat) (q : ConnectReq) (b : List Byte) (rate : Nat) :
    (State.connectAdmin s port q b rate).pending = s.pending ∧ (State.connectAdmin s port q b rate).mss.mem = s.mss.mem := by
  constructor <;> (unfold State.connectAdmin; repeat' (first | (simp; done) | dsimp only | split))

@[simp] theorem State.connectIo_keeps (s : State) (port : Nat) (q : ConnectReq) (rate : Nat) :
    (State.connectIo s port q rate).pending = s.pending ∧ (State.connectIo s port q rate).mss.mem = s.mss.mem := by
  constructor <;> (unfold State.connectIo; repeat' (first | (simp; done) | dsimp only | split))

@[simp] theorem State.connectDiscovery_keeps (s : State) (port : Nat) (q : ConnectReq) (rate : Nat) :
    (State.connectDiscovery s port q rate).pending = s.pending ∧ (State.connectDiscovery s port q rate).mss.mem = s.mss.mem := by
  constructor <;> (unfold State.connectDiscovery; repeat' (first | (simp; done) | dsimp only | split))

@[simp] theorem execFabricsConnect_keeps (port : Nat) (q : ConnectReq) (s : State) :
    Keeps s (execFabricsConnect port q s) := by
  unfold execFabricsConnect; rw [keeps_next]; apply State.whenRuns_keeps; intros; constructor <;> repeat' (first | (simp; done) | dsimp only | split)

@[simp] theorem execFabricsDisconnect_keeps (inst : Nat) (s : State) :
    Keeps s (execFabricsDisconnect inst s) := by
  simp [execFabricsDisconnect]

@[simp] theorem execFabricsPropertyGet_keeps (inst offset : Nat) (s : State) :
    Keeps s (execFabricsPropertyGet inst offset s) := by
  unfold execFabricsPropertyGet; rw [keeps_next]; constructor <;> repeat' (first | (simp; done) | dsimp only | split)

@[simp] theorem State.writeCc_keeps (s : State) (inst : Nat) (i : Inst) (v : Nat) :
    (State.writeCc s inst i v).pending = s.pending ∧ (State.writeCc s inst i v).mss.mem = s.mss.mem := by
  constructor <;> simp [State.writeCc, ite_pending, ite_mem]

@[simp] theorem execFabricsPropertySet_keeps (inst offset v : Nat) (s : State) :
    Keeps s (execFabricsPropertySet inst offset v s) := by
  unfold execFabricsPropertySet; rw [keeps_next]; constructor <;> repeat' (first | (simp; done) | dsimp only | split)

@[simp] theorem execKeepAliveTimeout_keeps (inst : Nat) (s : State) :
    Keeps s (execKeepAliveTimeout inst s) := by
  unfold execKeepAliveTimeout; rw [keeps_next]; constructor <;> repeat' (first | (simp; done) | dsimp only | split)

end Sys2Proof.Machine
end

