-- ==== Sys2Proof/Laws/KeepMedia.lean ====
section
/-! SUPPORT. What the operations of MediaEvents leave alone: the queue of commands, and the bytes of DRAM memory where they do not store there. -/

namespace Sys2Proof.Machine

@[simp] theorem State.media_keeps (s : State) (r : Flash × List Note) :
    (State.media s r).pending = s.pending ∧ (State.media s r).mss.mem = s.mss.mem := by
  constructor <;> simp [State.media]

@[simp] theorem State.onMedia_keeps (s : State) (f : State → Flash × List Note) : Keeps s (s.onMedia f) := by
  unfold State.onMedia; rw [keeps_next]; apply State.whenRuns_keeps; simp

@[simp] theorem State.onDie_keeps (s : State) (d : Nat) (f : State → Flash × List Note) : Keeps s (s.onDie d f) := by simp [State.onDie]

@[simp] theorem execStripeProgramIssue_keeps (barchan : Nat) (pad : Bool) (s : State) :
    Keeps s (execStripeProgramIssue barchan pad s) := by
  simp [execStripeProgramIssue]

@[simp] theorem execStripeHoldExpiry_keeps (barchan : Nat) (s : State) :
    Keeps s (execStripeHoldExpiry barchan s) := by
  unfold execStripeHoldExpiry; rw [keeps_next]; apply State.whenRuns_keeps; intros; constructor <;> repeat' (first | (simp; done) | dsimp only | split)

@[simp] theorem execJtimeExpiry_keeps (s : State) :
    Keeps s (execJtimeExpiry s) := by
  simp [execJtimeExpiry, ite_pending, ite_mem]

@[simp] theorem execDieWorkSelect_keeps (die : Nat) (s : State) :
    Keeps s (execDieWorkSelect die s) := by
  simp [execDieWorkSelect]

@[simp] theorem execDieSuspended_keeps (die : Nat) (s : State) :
    Keeps s (execDieSuspended die s) := by
  simp [execDieSuspended]

@[simp] theorem execDieReadDone_keeps (die job : Nat) (s : State) :
    Keeps s (execDieReadDone die job s) := by
  simp [execDieReadDone]

@[simp] theorem execFrameTransferDone_keeps (ch : Nat) (s : State) :
    Keeps s (execFrameTransferDone ch s) := by
  simp [execFrameTransferDone]

@[simp] theorem execWordlineProgramStatus_keeps (die : Nat) (pass : Bool) (s : State) :
    Keeps s (execWordlineProgramStatus die pass s) := by
  simp [execWordlineProgramStatus, ite_pending, ite_mem]

@[simp] theorem execEraseStatus_keeps (die : Nat) (pass : Bool) (s : State) :
    Keeps s (execEraseStatus die pass s) := by
  simp [execEraseStatus, ite_pending, ite_mem]

@[simp] theorem execDieResetComplete_keeps (die : Nat) (ok : Bool) (s : State) :
    Keeps s (execDieResetComplete die ok s) := by
  simp [execDieResetComplete]

@[simp] theorem execSuspendHoldExpiry_keeps (die : Nat) (s : State) :
    Keeps s (execSuspendHoldExpiry die s) := by
  simp [execSuspendHoldExpiry, ite_pending, ite_mem]

@[simp] theorem execNestwaitExpiry_keeps (die : Nat) (s : State) :
    Keeps s (execNestwaitExpiry die s) := by
  simp [execNestwaitExpiry]

@[simp] theorem execIntmaxExpiry_keeps (die : Nat) (s : State) :
    Keeps s (execIntmaxExpiry die s) := by
  unfold execIntmaxExpiry; rw [keeps_next]; apply State.whenRuns_keeps; intros; constructor <;> repeat' (first | (simp; done) | dsimp only | split)

@[simp] theorem execTypicalTimePassed_keeps (die : Nat) (s : State) :
    Keeps s (execTypicalTimePassed die s) := by
  simp [execTypicalTimePassed]

@[simp] theorem execDieStatePublish_keeps (k : Nat) (s : State) :
    Keeps s (execDieStatePublish k s) := by
  simp [execDieStatePublish]

@[simp] theorem execZqShortCalibration_keeps (k : Nat) (s : State) :
    Keeps s (execZqShortCalibration k s) := by
  simp [execZqShortCalibration]

@[simp] theorem execHardDecodeDone_keeps (job : Nat) (d : Decoded) (s : State) :
    Keeps s (execHardDecodeDone job d s) := by
  simp [execHardDecodeDone]

@[simp] theorem execSoftDecodeDone_keeps (job : Nat) (d : Decoded) (s : State) :
    Keeps s (execSoftDecodeDone job d s) := by
  simp [execSoftDecodeDone]

@[simp] theorem execReconstructionDone_keeps (job : Nat) (ok : Bool) (s : State) :
    Keeps s (execReconstructionDone job ok s) := by
  simp [execReconstructionDone]

@[simp] theorem execPatrolRead_keeps (die block frame : Nat) (s : State) :
    Keeps s (execPatrolRead die block frame s) := by
  simp [execPatrolRead]

@[simp] theorem execEraseIssue_keeps (band : Nat) (s : State) :
    Keeps s (execEraseIssue band s) := by
  simp [execEraseIssue]

@[simp] theorem execSlcPoolRebalance_keeps (s : State) :
    Keeps s (execSlcPoolRebalance s) := by
  simp [execSlcPoolRebalance]

@[simp] theorem execWadiBandExchange_keeps (n : Nat) (s : State) :
    Keeps s (execWadiBandExchange n s) := by
  simp [execWadiBandExchange]

@[simp] theorem execReclaimVictimSelect_keeps (s : State) :
    Keeps s (execReclaimVictimSelect s) := by
  simp [execReclaimVictimSelect]

@[simp] theorem State.capTimeout_keeps (s : State) (st t next : Nat) :
    (State.capTimeout s st t next).pending = s.pending ∧ (State.capTimeout s st t next).mss.mem = s.mss.mem := by
  constructor <;> (unfold State.capTimeout; split <;> simp)

@[simp] theorem execConstrainedTimeout_keeps (s : State) :
    Keeps s (execConstrainedTimeout s) := by
  simp [execConstrainedTimeout]

@[simp] theorem execWpSpaceRecoveryTimeout_keeps (s : State) :
    Keeps s (execWpSpaceRecoveryTimeout s) := by
  simp [execWpSpaceRecoveryTimeout]

@[simp] theorem State.forceCkpt_keeps (s : State) :
    (State.forceCkpt s).pending = s.pending ∧ (State.forceCkpt s).mss.mem = s.mss.mem := by
  constructor <;> simp [State.forceCkpt]

@[simp] theorem execPtxCkptstatForce_keeps (r : Requester) (s : State) :
    Keeps s (execPtxCkptstatForce r s) := by
  simp [execPtxCkptstatForce]

@[simp] theorem execCheckpointComplete_keeps (s : State) :
    Keeps s (execCheckpointComplete s) := by
  simp [execCheckpointComplete]

@[simp] theorem State.oasisChanged_keeps (s : State) (old : Nat) :
    (State.oasisChanged s old).pending = s.pending ∧ (State.oasisChanged s old).mss.mem = s.mss.mem := by
  constructor <;> (unfold State.oasisChanged; split <;> simp)

@[simp] theorem execPtxOasiscfgWrite_keeps (r : Requester) (v : W32) (s : State) :
    Keeps s (execPtxOasiscfgWrite r v s) := by
  simp [execPtxOasiscfgWrite]

@[simp] theorem execDieSuspectClear_keeps (die : Nat) (s : State) :
    Keeps s (execDieSuspectClear die s) := by
  simp [execDieSuspectClear, ite_pending, ite_mem]

@[simp] theorem execRebuildWorkIssue_keeps (die : Nat) (s : State) :
    Keeps s (execRebuildWorkIssue die s) := by
  simp [execRebuildWorkIssue]

@[simp] theorem execParityJobStart_keeps (s : State) :
    Keeps s (execParityJobStart s) := by
  unfold execParityJobStart; rw [keeps_next]; apply State.whenRuns_keeps; intros; constructor <;> repeat' (first | (simp; done) | dsimp only | split)

@[simp] theorem execParityJobTimeout_keeps (ctx : Nat) (s : State) :
    Keeps s (execParityJobTimeout ctx s) := by
  unfold execParityJobTimeout; rw [keeps_next]; apply State.whenRuns_keeps; intros; constructor <;> repeat' (first | (simp; done) | dsimp only | split)

@[simp] theorem execParityJobDone_keeps (ctx : Nat) (inputs outputs : List (List Nat)) (s : State) :
    Keeps s (execParityJobDone ctx inputs outputs s) := by
  unfold execParityJobDone; rw [keeps_next]; apply State.whenRuns_keeps; intros; constructor <;> repeat' (first | (simp; done) | dsimp only | split)

end Sys2Proof.Machine
end

