-- ==== Sys2Proof/Laws/KeepRec.lean ====
section
/-! SUPPORT. What the operations of Recovery leave alone: the queue of commands, and the bytes of DRAM memory where they do not store there. -/

namespace Sys2Proof.Machine

@[simp] theorem State.deviceStop_keeps (s : State) : s.deviceStop.pending = s.pending ∧ s.deviceStop.mss.mem = s.mss.mem := ⟨rfl, by simp [State.deviceStop]⟩

@[simp] theorem State.recover_keeps (s : State) (sc : Scope) :
    (State.recover s sc).pending = s.pending ∧ (State.recover s sc).mss.mem = s.mss.mem := by
  constructor <;> (unfold State.recover; split <;> simp)

@[simp] theorem State.scopeFault_keeps (n : Nat) (s : State) (sc : Scope) :
    (State.scopeFault n s sc).pending = s.pending ∧ (State.scopeFault n s sc).mss.mem = s.mss.mem := by
  induction n generalizing s sc with
  | zero => simp [State.scopeFault]
  | succ n ih => unfold State.scopeFault; split <;> simp [ih]

@[simp] theorem State.faultIn_keeps (s : State) (sc : Scope) :
    (State.faultIn s sc).pending = s.pending ∧ (State.faultIn s sc).mss.mem = s.mss.mem := by
  constructor <;> (unfold State.faultIn; split <;> simp)

@[simp] theorem State.recovered_keeps (s : State) (sc : Scope) (f : State → State)
    (h : ∀ g, (f g).pending = g.pending ∧ (f g).mss.mem = g.mss.mem) :
    (s.recovered sc f).pending = s.pending ∧ (s.recovered sc f).mss.mem = s.mss.mem := by
  unfold State.recovered; split <;> simp [h]

theorem State.recovered_media_keeps (s : State) (sc : Scope) (r : State → Flash × List Note) :
    (s.recovered sc fun g => g.media (r g)).pending = s.pending ∧ (s.recovered sc fun g => g.media (r g)).mss.mem = s.mss.mem := by
  unfold State.recovered; split <;> simp

theorem State.recovered_then_keeps (s : State) (sc : Scope) (f : State → State) (r : State → Flash × List Note)
    (h : ∀ g, (f g).pending = g.pending ∧ (f g).mss.mem = g.mss.mem) :
    (s.recovered sc fun g => (f g).media (r (f g))).pending = s.pending ∧
      (s.recovered sc fun g => (f g).media (r (f g))).mss.mem = s.mss.mem := by
  unfold State.recovered; split <;> simp [h]

@[simp] theorem State.clockFault_keeps (s : State) (code arg : Nat) :
    (State.clockFault s code arg).pending = s.pending ∧ (State.clockFault s code arg).mss.mem = s.mss.mem := by
  constructor <;> (unfold State.clockFault; split <;> simp)

@[simp] theorem execRefclkMainLoss_keeps (s : State) :
    Keeps s (execRefclkMainLoss s) := by
  simp [execRefclkMainLoss]

@[simp] theorem execCorePllLockLoss_keeps (clk : Nat) (s : State) :
    Keeps s (execCorePllLockLoss clk s) := by
  unfold execCorePllLockLoss; split <;> simp

@[simp] theorem execNandPllLockLoss_keeps (k : Nat) (s : State) :
    Keeps s (execNandPllLockLoss k s) := by
  unfold execNandPllLockLoss; split <;> simp

@[simp] theorem execAonXtalLoss_keeps (s : State) :
    Keeps s (execAonXtalLoss s) := by
  simp [execAonXtalLoss, ite_pending, ite_mem]

@[simp] theorem execAonXtalRatioCheckPass_keeps (s : State) :
    Keeps s (execAonXtalRatioCheckPass s) := by
  unfold execAonXtalRatioCheckPass; split <;> simp

@[simp] theorem execChannelWatchdogExpiry_keeps (ch die : Nat) (s : State) :
    Keeps s (execChannelWatchdogExpiry ch die s) := by
  unfold execChannelWatchdogExpiry; rw [keeps_next]; constructor <;> repeat' (first | (simp; done) | dsimp only | split)

@[simp] theorem execSchedulerHeartbeatTimeout_keeps (k : Nat) (s : State) :
    Keeps s (execSchedulerHeartbeatTimeout k s) := by
  unfold execSchedulerHeartbeatTimeout; split <;> simp

@[simp] theorem execCameleerWatchdogExpiry_keeps (measured : Nat) (s : State) :
    Keeps s (execCameleerWatchdogExpiry measured s) := by
  simp [execCameleerWatchdogExpiry, ite_pending, ite_mem]

@[simp] theorem execAcHeartbeatMiss_keeps (n : Nat) (s : State) :
    Keeps s (execAcHeartbeatMiss n s) := by
  unfold execAcHeartbeatMiss; split <;> simp

@[simp] theorem State.kick_keeps (s : State) (v : W32) :
    (State.kick s v).pending = s.pending ∧ (State.kick s v).mss.mem = s.mss.mem := by
  constructor <;> (unfold State.kick; split <;> simp)

@[simp] theorem execFevDevwdgWrite_keeps (r : Requester) (v : W32) (s : State) :
    Keeps s (execFevDevwdgWrite r v s) := by
  simp [execFevDevwdgWrite]

@[simp] theorem execUnitRecoveryComplete_keeps (ch : Nat) (s : State) :
    Keeps s (execUnitRecoveryComplete ch s) := by
  unfold execUnitRecoveryComplete
  rw [keeps_next]
  exact State.recovered_media_keeps s _ fun g => (g.fl.channelsBack [ch], [])

@[simp] theorem execClusterRecoveryComplete_keeps (k : Nat) (s : State) :
    Keeps s (execClusterRecoveryComplete k s) := by
  unfold execClusterRecoveryComplete
  rw [keeps_next]
  exact State.recovered_then_keeps s _ (fun g => { g with fev := { g.fev with schedFrom := Tab.set g.fev.schedFrom k g.clock.now } })
    (fun g => (g.fl.channelsBack (clusterChannels k), [])) fun g => ⟨rfl, rfl⟩

@[simp] theorem execAcRecoveryComplete_keeps (n : Nat) (s : State) :
    Keeps s (execAcRecoveryComplete n s) := by
  simp [execAcRecoveryComplete]

@[simp] theorem State.deviceBack_keeps (s : State) : s.deviceBack.pending = s.pending ∧ s.deviceBack.mss.mem = s.mss.mem := ⟨rfl, rfl⟩

@[simp] theorem execDeviceRecoveryComplete_keeps (s : State) :
    Keeps s (execDeviceRecoveryComplete s) := by
  unfold execDeviceRecoveryComplete
  rw [keeps_next]
  split
  · exact State.report_keeps _ _
  · exact State.recovered_then_keeps s _ State.deviceBack (fun g => (g.fl.channelsBack g.fl.hw.channels, [])) State.deviceBack_keeps

@[simp] theorem execFaultReport_keeps (f : FaultIn) (s : State) :
    Keeps s (execFaultReport f s) := by
  unfold execFaultReport; rw [keeps_next]; constructor <;> repeat' (first | (simp; done) | dsimp only | split)

@[simp] theorem State.firmwareRecord_keeps (s : State) (r : Requester) (v : W32) :
    (State.firmwareRecord s r v).pending = s.pending ∧ (State.firmwareRecord s r v).mss.mem = s.mss.mem := by
  constructor <;> simp [State.firmwareRecord, ite_pending, ite_mem]

@[simp] theorem execFevEvwrhdrGo_keeps (r : Requester) (v : W32) (s : State) :
    Keeps s (execFevEvwrhdrGo r v s) := by
  simp [execFevEvwrhdrGo]

@[simp] theorem State.ffqClear_keeps (s : State) (v : W32) :
    (State.ffqClear s v).pending = s.pending ∧ (State.ffqClear s v).mss.mem = s.mss.mem := by
  constructor <;> (unfold State.ffqClear; split <;> simp)

@[simp] theorem execFevFfqstatClr_keeps (r : Requester) (s : State) :
    Keeps s (execFevFfqstatClr r s) := by
  simp [execFevFfqstatClr]

end Sys2Proof.Machine
end

