-- ==== Sys2Proof/Laws/Mem.lean ====
section
/-! SUPPORT. Byte memory: the canonical form and what keeps it, and what a read gives after a write. -/

namespace Sys2Proof.Machine

/-- The canonical form, one cell at a time. -/
theorem Mem.wf_cons (c : Host.Cell) (m : Mem) : Mem.wf (c :: m) = true ↔ c.2 ≠ 0 ∧ (∀ e ∈ m, c.1 < e.1) ∧ Mem.wf m = true := by
  induction m generalizing c with
  | nil => simp [Mem.wf]
  | cons d m ih =>
    obtain ⟨a, v⟩ := c
    obtain ⟨b, w⟩ := d
    simp only [Mem.wf, Bool.and_eq_true, bne_iff_ne, ne_eq, decide_eq_true_eq, List.mem_cons, forall_eq_or_imp]
    constructor
    · rintro ⟨⟨hv, hab⟩, hm⟩
      exact ⟨hv, ⟨hab, fun e he => Nat.lt_trans hab ((ih (b, w)).1 hm |>.2.1 e he)⟩, hm⟩
    · rintro ⟨hv, ⟨hab, _⟩, hm⟩
      exact ⟨⟨hv, hab⟩, hm⟩

/-- Every address of a memory after a write was one before, or is the written one. -/
theorem Mem.mem_set {m : Mem} {a : Nat} {x : Byte} {e : Host.Cell} (h : e ∈ Mem.set m a x) : e ∈ m ∨ e.1 = a := by
  induction m with
  | nil =>
    simp only [Mem.set] at h
    split at h <;> simp_all
  | cons c m ih =>
    obtain ⟨b, v⟩ := c
    simp only [Mem.set] at h
    split at h
    · split at h <;> simp_all
      rcases h with h | h <;> simp_all
    · split at h
      · split at h <;> simp_all
        rcases h with h | h <;> simp_all
      · rcases List.mem_cons.1 h with h | h
        · simp_all
        · rcases ih h with h | h <;> simp_all

/-- A write keeps the canonical form. -/
theorem Mem.set_wf (m : Mem) (a : Nat) (x : Byte) (h : m.wf = true) : (m.set a x).wf = true := by
  induction m with
  | nil =>
    unfold Mem.set
    split
    · rfl
    · next hx => simpa [Mem.wf] using hx
  | cons c m ih =>
    obtain ⟨b, v⟩ := c
    have hc := (Mem.wf_cons _ _).1 h
    simp only [Mem.set]
    split
    · next hba =>
      split
      · exact hc.2.2
      · next hx => exact (Mem.wf_cons _ _).2 ⟨hx, by simpa [← hba] using hc.2.1, hc.2.2⟩
    · split
      · next hlt =>
        split
        · exact h
        · next hx =>
          refine (Mem.wf_cons _ _).2 ⟨hx, fun e he => ?_, h⟩
          rcases List.mem_cons.1 he with rfl | he
          · exact hlt
          · exact Nat.lt_trans hlt (hc.2.1 e he)
      · next hne hlt =>
        refine (Mem.wf_cons _ _).2 ⟨hc.1, fun e he => ?_, ih hc.2.2⟩
        rcases Mem.mem_set he with he | he
        · exact hc.2.1 e he
        · rw [he]; show b < a; omega

/-- A store of bytes keeps the canonical form. -/
theorem Mem.setBytes_wf (m : Mem) (a : Nat) (bs : List Byte) (h : m.wf = true) : (m.setBytes a bs).wf = true := by
  induction bs generalizing m a with
  | nil => exact h
  | cons x bs ih => exact ih _ _ (Mem.set_wf m a x h)

theorem Mem.filter_wf (m : Mem) (p : Host.Cell → Bool) (h : m.wf = true) : Mem.wf (m.filter p) = true := by
  induction m with
  | nil => exact h
  | cons c m ih =>
    have hc := (Mem.wf_cons _ _).1 h
    rw [List.filter_cons]
    split
    · exact (Mem.wf_cons _ _).2 ⟨hc.1, fun e he => hc.2.1 e (List.mem_filter.1 he).1, ih hc.2.2⟩
    · exact ih hc.2.2

/-- A clear keeps the canonical form. -/
theorem Mem.clear_wf (m : Mem) (lo n : Nat) (h : m.wf = true) : (m.clear lo n).wf = true := Mem.filter_wf _ _ h

/-- An address below every listed one reads as 0. -/
theorem Mem.get_below (m : Mem) (a : Nat) (h : ∀ e ∈ m, a < e.1) : m.get a = 0 := by
  induction m with
  | nil => rfl
  | cons c m ih =>
    obtain ⟨b, v⟩ := c
    have hb : b ≠ a := fun e => by have := h (b, v) (by simp); simp_all
    simp only [Mem.get, if_neg hb]
    exact ih fun e he => h e (by simp [he])

/-- A read after a write: the value written at its address, the old byte everywhere else. -/
theorem Mem.get_set (m : Mem) (a b : Nat) (x : Byte) (h : m.wf = true) : (m.set a x).get b = if b = a then x else m.get b := by
  induction m with
  | nil =>
    unfold Mem.set
    split
    · next hx => simp [Mem.get, hx]
    · by_cases hb : b = a
      · simp [Mem.get, hb]
      · simp [Mem.get, hb, Ne.symm hb]
  | cons c m ih =>
    obtain ⟨d, v⟩ := c
    have hc := (Mem.wf_cons _ _).1 h
    simp only [Mem.set]
    split
    · next hda =>
      subst hda
      by_cases hb : b = d
      · subst hb
        split
        · next hx => rw [if_pos rfl, hx]; exact Mem.get_below m b hc.2.1
        · simp [Mem.get]
      · rw [if_neg hb]
        split <;> simp [Mem.get, Ne.symm hb]
    · next hda =>
      split
      · next hlt =>
        by_cases hb : b = a
        · subst hb
          split
          · next hx =>
            rw [if_pos rfl, hx]
            refine Mem.get_below _ _ fun e he => ?_
            rcases List.mem_cons.1 he with rfl | he
            · exact hlt
            · exact Nat.lt_trans hlt (hc.2.1 e he)
          · simp [Mem.get]
        · rw [if_neg hb]
          split <;> simp [Mem.get, Ne.symm hb]
      · by_cases hb : d = b
        · subst hb; simp [Mem.get, hda]
        · simp only [Mem.get, if_neg hb]; exact ih hc.2.2

/-- A read after a store of bytes. -/
theorem Mem.get_setBytes (m : Mem) (a b : Nat) (bs : List Byte) (h : m.wf = true) :
    (m.setBytes a bs).get b = if a ≤ b ∧ b < a + bs.length then bs.getD (b - a) 0 else m.get b := by
  induction bs generalizing m a with
  | nil => simp only [Mem.setBytes, List.length_nil]; rw [if_neg (by omega)]
  | cons x bs ih =>
    rw [Mem.setBytes, ih _ _ (Mem.set_wf m a x h), Mem.get_set m a b x h, List.length_cons]
    by_cases hb : b = a
    · subst hb; rw [if_neg (by omega), if_pos rfl, if_pos (by omega)]; simp
    · rw [if_neg hb]
      by_cases hr : a + 1 ≤ b ∧ b < a + 1 + bs.length
      · rw [if_pos hr, if_pos (by omega)]
        obtain ⟨k, rfl⟩ : ∃ k, b = a + 1 + k := ⟨b - (a + 1), by omega⟩
        simp [show a + 1 + k - (a + 1) = k by omega, show a + 1 + k - a = k + 1 by omega]
      · rw [if_neg hr, if_neg (by omega)]

/-- A read after a clear. -/
theorem Mem.get_clear (m : Mem) (lo n b : Nat) : (m.clear lo n).get b = if lo ≤ b ∧ b < lo + n then 0 else m.get b := by
  induction m with
  | nil => simp [Mem.clear, Mem.get]
  | cons c m ih =>
    obtain ⟨a, v⟩ := c
    unfold Mem.clear at ih ⊢
    rw [List.filter_cons]
    simp only [decide_eq_true_eq]
    split
    · next hk =>
      simp only [Mem.get, ih]
      by_cases hab : a = b
      · subst hab; rw [if_pos rfl, if_pos rfl, if_neg (by omega)]
      · rw [if_neg hab, if_neg hab]
    · next hk =>
      rw [ih]
      by_cases hab : a = b
      · subst hab; rw [if_pos (by omega), if_pos (by omega)]
      · simp [Mem.get, hab]

end Sys2Proof.Machine
end

