-- ==== Sys2Proof/Laws/KeepMemory.lean ====
section
/-! SUPPORT. What the operations of Memory leave alone: the queue of commands, and the bytes of DRAM memory where they do not store there. -/

namespace Sys2Proof.Machine

/-! ## What the operations of MSS do to the bytes -/

@[simp] theorem Mss.name_mem (m : Mss) (now line dev : Nat) : (m.name now line dev).1.mem = m.mem := by
  simp only [Mss.name]; split <;> rfl

@[simp] theorem Mss.access_mem (m : Mss) (now : Nat) (r : Option Nat) (req : Nat) (w : Bool) (a : Nat) : (m.access now r req w a).1.mem = m.mem := by
  simp only [Mss.access]; split <;> rfl

@[simp] theorem Mss.accesses_mem (m : Mss) (now : Nat) (r : Option Nat) (req : Nat) (w : Bool) (ls : List Nat) :
    (m.accesses now r req w ls).1.mem = m.mem := by
  induction ls generalizing m with
  | nil => rfl
  | cons l ls ih => simp only [Mss.accesses, ih]; split <;> simp

@[simp] theorem Mss.rsGo_mem (m : Mss) : m.rsGo.mem = m.mem := by
  unfold Mss.rsGo; extract_lets
  split
  · rfl
  · split <;> rfl
@[simp] theorem Mss.lapEnd_mem (m : Mss) (now : Nat) : (m.lapEnd now).mem = m.mem := by simp [Mss.lapEnd]
@[simp] theorem Mss.trainGo_mem (m : Mss) (n : Nat) : (m.trainGo n).mem = m.mem := by simp only [Mss.trainGo]; split <;> rfl
@[simp] theorem Mss.trainDone_mem (m : Mss) (n dq cb : Nat) : (m.trainDone n dq cb).mem = m.mem := by unfold Mss.trainDone; split <;> rfl
@[simp] theorem Mss.oscRead_mem (m : Mss) (now rk d : Nat) : (m.oscRead now rk d).mem = m.mem := by simp only [Mss.oscRead]; split <;> rfl
@[simp] theorem Mss.markStale_mem (m : Mss) (rk : Nat) : (m.markStale rk).1.mem = m.mem := by simp only [Mss.markStale]; split <;> rfl
@[simp] theorem Mss.pause_mem (m : Mss) (now rk : Nat) (w e : Bool) : (m.pause now rk w e).1.mem = m.mem := by
  unfold Mss.pause; extract_lets t m1
  have h : m1.mem = m.mem := by simp [m1]
  split
  · rfl
  · split
    · rfl
    · split
      · rw [Mss.markStale_mem, h]
      · exact h
@[simp] theorem Mss.refresh_mem (m : Mss) (rk b : Nat) : (m.refresh rk b).mem = m.mem := by simp [Mss.refresh]
@[simp] theorem Mss.mr4Read_mem (m : Mss) (rk : Nat) (deg : Int) : (m.mr4Read rk deg).1.mem = m.mem := by
  simp only [Mss.mr4Read]; (repeat' split) <;> simp
@[simp] theorem Mss.pdEntry_mem (m : Mss) (now rk : Nat) : (m.pdEntry now rk).mem = m.mem := by simp only [Mss.pdEntry]; split <;> rfl
@[simp] theorem Mss.pageClose_mem (m : Mss) (now k : Nat) : (m.pageClose now k).mem = m.mem := by
  unfold Mss.pageClose; split
  · rfl
  · extract_lets; split <;> rfl
@[simp] theorem Mss.windowEnd_mem (m : Mss) (rk : Nat) : (m.windowEnd rk).mem = m.mem := by simp [Mss.windowEnd]
@[simp] theorem Mss.sramCount_mem (m : Mss) (n : Nat) (u : Bool) : (m.sramCount n u).mem = m.mem := by simp [Mss.sramCount]
@[simp] theorem Mss.vbclrDone_mem (m : Mss) : m.vbclrDone.mem = m.mem := by simp [Mss.vbclrDone]

/-! ## Those that store keep the canonical form -/

theorem Mss.checkLine_wf (m : Mss) (now line : Nat) (e : List SymErr) (h : m.mem.wf = true) : (m.checkLine now line e).1.mem.wf = true := by
  simp only [Mss.checkLine]
  split
  · exact h
  · split
    · exact h
    · simpa using Mem.setBytes_wf _ _ _ h
    · exact h
    · exact h

theorem Mss.checkLines_wf (m : Mss) (now : Nat) (e : LineErrs) (ls : List Nat) (h : m.mem.wf = true) :
    (m.checkLines now e ls).1.mem.wf = true := by
  induction ls generalizing m with
  | nil => exact h
  | cons l ls ih =>
    unfold Mss.checkLines
    split
    · exact ih _ (Mss.checkLine_wf _ _ _ _ h)
    · exact ih _ h

theorem Mss.read_wf (m : Mss) (now : Nat) (r : Option Nat) (req : Nat) (w : Bool) (a n : Nat) (e : LineErrs) (h : m.mem.wf = true) :
    (m.read now r req w a n e).mss.mem.wf = true := by
  unfold Mss.read
  split
  · exact h
  · exact Mss.checkLines_wf _ _ _ _ (by simpa using h)

theorem foldl_wf {α : Type} (f : Mem → α → Mem) (hf : ∀ m a, m.wf = true → (f m a).wf = true) (l : List α) (m : Mem) (h : m.wf = true) :
    Mem.wf (l.foldl f m) = true := by
  induction l generalizing m with
  | nil => exact h
  | cons a l ih => exact ih _ (hf _ _ h)

theorem Mss.store_wf (m : Mss) (now req a : Nat) (bs : List Byte) (e : LineErrs) (h : m.mem.wf = true) :
    (m.store now req a bs e).mss.mem.wf = true := by
  unfold Mss.store
  refine foldl_wf _ (fun mm l hm => ?_) _ _ (Mss.checkLines_wf _ _ _ _ h)
  dsimp only
  split
  · exact hm
  · exact Mem.setBytes_wf _ _ _ hm

theorem Mss.write_wf (m : Mss) (now : Nat) (r : Option Nat) (req : Nat) (w : Bool) (a : Nat) (bs : List Byte) (e : LineErrs)
    (h : m.mem.wf = true) : (m.write now r req w a bs e).mss.mem.wf = true := by
  have h' : (m.accesses now r req w (linesOf a bs.length)).1.mem.wf = true := by simpa using h
  unfold Mss.write
  split
  · exact h
  · split
    · exact h
    · dsimp only
      split
      · exact Mss.store_wf _ now req a bs e h'
      · split
        · exact Mss.store_wf { (m.accesses now r req w (linesOf a bs.length)).1 with
            valid := insertNat (a / 4096) (m.accesses now r req w (linesOf a bs.length)).1.valid } now req a bs [] h'
        · exact h'

theorem Mss.serve_wf (m : Mss) (now : Nat) (r : Option Nat) (qs : List MemReq) (h : m.mem.wf = true) : (m.serve now r qs).mss.mem.wf = true := by
  induction qs generalizing m with
  | nil => exact h
  | cons q qs ih =>
    cases q with
    | read req a n => exact ih _ (Mss.read_wf _ _ _ _ _ _ _ _ h)
    | write req a bs => exact ih _ (Mss.write_wf _ _ _ _ _ _ _ _ h)

theorem Mss.fillDone_wf (m : Mss) (now : Nat) (r : Option Nat) (g : Nat) (h : m.mem.wf = true) : (m.fillDone now r g).mss.mem.wf = true := by
  unfold Mss.fillDone
  split
  · exact h
  · exact Mss.serve_wf _ _ _ _ (Mem.setBytes_wf _ _ _ h)

theorem Mss.fillsDone_wf (m : Mss) (now : Nat) (r : Option Nat) (gs : List Nat) (h : m.mem.wf = true) :
    (m.fillsDone now r gs).mss.mem.wf = true := by
  induction gs generalizing m with
  | nil => exact h
  | cons g gs ih => exact ih _ (Mss.fillDone_wf _ _ _ _ h)

theorem Mss.vbclr_wf (m : Mss) (now : Nat) (r : Option Nat) (h : m.mem.wf = true) : (m.vbclr now r).mss.mem.wf = true := by
  rw [Mss.vbclr]
  split
  · exact h
  · split
    · simpa using h
    · extract_lets rr
      have w : rr.mss.mem.wf = true := Mss.fillsDone_wf _ _ _ _ h
      exact Mem.clear_wf _ _ _ w

theorem Mss.rsEnd_wf (m : Mss) (now n : Nat) (st : Bool) (e : LineErrs) (h : m.mem.wf = true) : (m.rsEnd now n st e).1.mem.wf = true := by
  simp only [Mss.rsEnd]
  split
  · exact h
  · simpa using Mss.checkLines_wf _ _ _ _ h

theorem Mss.patrolStep_wf (m : Mss) (now : Nat) (e : LineErrs) (h : m.mem.wf = true) : (m.patrolStep now e).1.mem.wf = true := by
  rw [Mss.patrolStep]
  split
  · exact h
  · dsimp only
    split
    · simpa using h
    · next l _ =>
      have w := Mss.checkLine_wf m now l (Tab.getD e l []) h
      generalize m.checkLine now l (Tab.getD e l []) = r at w ⊢
      split
      · simpa using w
      · simpa using w

/-! ## The whole state -/

/-- A command leaves the queue alone, and the DRAM memory in its canonical form. -/
def KeepsForm (s : State) (o : Host.Outcome State Fault Refusal) : Prop :=
  ∀ t, o = .next t → t.pending = s.pending ∧ (s.mss.mem.wf = true → t.mss.mem.wf = true)

theorem keepsForm_next (s t : State) : KeepsForm s (.next t) ↔ t.pending = s.pending ∧ (s.mss.mem.wf = true → t.mss.mem.wf = true) :=
  ⟨fun h => h t rfl, fun h _ e => by cases e; exact h⟩

theorem keepsForm_fault (s : State) (f : Fault) : KeepsForm s (.fault f) := fun _ e => nomatch e

theorem Keeps.form {s : State} {o : Host.Outcome State Fault Refusal} (h : Keeps s o) : KeepsForm s o :=
  fun t e => ⟨(h t e).1, fun w => by rw [(h t e).2]; exact w⟩

@[simp] theorem State.lostLine_keeps (s : State) (line : Nat) :
    (State.lostLine s line).pending = s.pending ∧ (State.lostLine s line).mss.mem = s.mss.mem := by
  constructor <;> (unfold State.lostLine; repeat' (first | (simp; done) | dsimp only | split))

@[simp] theorem State.uncorrectable_keeps (s : State) (u : Uncorr) :
    (State.uncorrectable s u).pending = s.pending ∧ (State.uncorrectable s u).mss.mem = s.mss.mem := by
  constructor <;> (unfold State.uncorrectable; split <;> simp)

@[simp] theorem State.erasures_keeps (s : State) (rs : List Report) :
    (State.erasures s rs).pending = s.pending ∧ (State.erasures s rs).mss.mem = s.mss.mem := by
  constructor <;> (unfold State.erasures; split <;> simp)

@[simp] theorem State.memory_keeps (s : State) (m : Mss) (us : List Uncorr) (rs : List Report) :
    (s.memory m us rs).pending = s.pending ∧ (s.memory m us rs).mss.mem = m.mem := by
  constructor <;> simp [State.memory]

@[simp] theorem State.answered_keeps (s : State) (r : MemResult) :
    (s.answered r).pending = s.pending ∧ (s.answered r).mss.mem = r.mss.mem := by
  constructor <;> simp [State.answered]

theorem execDramRead_keepsForm (req addr len : Nat) (w : Bool) (e : LineErrs) (s : State) : KeepsForm s (execDramRead req addr len w e s) := by
  unfold execDramRead
  split
  · exact Keeps.form (by simp)
  · split
    · exact keepsForm_fault _ _
    · rw [keepsForm_next]
      exact ⟨by simp, fun h => by simpa using Mss.read_wf _ _ _ _ _ _ _ _ h⟩

theorem State.writeParts_keepsForm (s : State) (req : Nat) (w : Bool) (e : LineErrs) (ps : List (Nat × List Byte)) :
    (s.writeParts req w e ps).pending = s.pending ∧ (s.mss.mem.wf = true → (s.writeParts req w e ps).mss.mem.wf = true) := by
  unfold State.writeParts
  split
  · simp
  · refine ⟨foldl_pending _ (by simp) _ _, ?_⟩
    clear * -
    induction ps generalizing s with
    | nil => exact id
    | cons p ps ih => exact fun h => ih _ (by simpa using Mss.write_wf _ _ _ _ _ _ _ _ h)

theorem execDramWrite_keepsForm (req addr : Nat) (bs : List Byte) (w : Bool) (e : LineErrs) (s : State) :
    KeepsForm s (execDramWrite req addr bs w e s) := by
  unfold execDramWrite
  split
  · exact Keeps.form (by simp)
  · split
    · exact keepsForm_fault _ _
    · rw [keepsForm_next]; exact State.writeParts_keepsForm _ _ _ _ _

theorem execZeroFillDone_keepsForm (g : Nat) (s : State) : KeepsForm s (execZeroFillDone g s) := by
  unfold execZeroFillDone
  rw [keepsForm_next]
  split
  · exact ⟨by simp, fun h => by simpa using Mss.fillDone_wf _ _ _ _ h⟩
  · simp

theorem State.clearGo_keepsForm (s : State) (v : W32) :
    (s.clearGo v).pending = s.pending ∧ (s.mss.mem.wf = true → (s.clearGo v).mss.mem.wf = true) := by
  unfold State.clearGo
  split
  · exact ⟨by simp, fun h => by simpa using Mss.vbclr_wf _ _ _ h⟩
  · simp

theorem State.csrWrite_keepsForm (s : State) (r : Requester) (reg : Reg) (v : W32) (eff : State → State)
    (h : ∀ g, (eff g).pending = g.pending ∧ (g.mss.mem.wf = true → (eff g).mss.mem.wf = true)) :
    (s.csrWrite r reg v eff).pending = s.pending ∧ (s.mss.mem.wf = true → (s.csrWrite r reg v eff).mss.mem.wf = true) := by
  unfold State.csrWrite
  split
  · simp
  · split
    · simp
    · dsimp only
      refine ⟨(h _).1.trans ?_, fun w => (h _).2 ?_⟩
      · split <;> simp
      · split <;> simpa using w

theorem execMssVbclr1Go_keepsForm (r : Requester) (v : W32) (s : State) : KeepsForm s (execMssVbclr1Go r v s) :=
  (keepsForm_next _ _).2 (State.csrWrite_keepsForm _ _ _ _ _ fun g => State.clearGo_keepsForm g v)

@[simp] theorem execValidBitClearDone_keeps (s : State) :
    Keeps s (execValidBitClearDone s) := by
  unfold execValidBitClearDone; split <;> simp

@[simp] theorem State.scrubGo_keeps (s : State) (v : W32) :
    (State.scrubGo s v).pending = s.pending ∧ (State.scrubGo s v).mss.mem = s.mss.mem := by
  constructor <;> (unfold State.scrubGo; split <;> simp)

@[simp] theorem execMssRsctlGo_keeps (r : Requester) (v : W32) (s : State) :
    Keeps s (execMssRsctlGo r v s) := by
  simp [execMssRsctlGo]

theorem execRangeScrubDone_keepsForm (n : Nat) (st : Bool) (e : LineErrs) (s : State) : KeepsForm s (execRangeScrubDone n st e s) := by
  unfold execRangeScrubDone
  rw [keepsForm_next]
  split
  · exact ⟨by simp, fun h => by simpa using Mss.rsEnd_wf _ _ _ _ _ h⟩
  · simp

theorem execPatrolScrubStep_keepsForm (e : LineErrs) (s : State) : KeepsForm s (execPatrolScrubStep e s) := by
  unfold execPatrolScrubStep
  rw [keepsForm_next]
  split
  · exact ⟨by simp, fun h => by simpa using Mss.patrolStep_wf _ _ _ h⟩
  · simp

@[simp] theorem State.trainCtl_keeps (s : State) (ch : Nat) (v : W32) :
    (State.trainCtl s ch v).pending = s.pending ∧ (State.trainCtl s ch v).mss.mem = s.mss.mem := by
  constructor <;> (unfold State.trainCtl; split <;> simp)

@[simp] theorem State.helper_keeps (s : State) (r : Requester) (ch op : Nat) (v : W32) :
    (State.helper s r ch op v).pending = s.pending ∧ (State.helper s r ch op v).mss.mem = s.mss.mem := by
  constructor <;> (unfold State.helper; split <;> simp)

@[simp] theorem execTrainingWritePattern_keeps (r : Requester) (ch : Nat) (v : W32) (s : State) :
    Keeps s (execTrainingWritePattern r ch v s) := by
  simp [execTrainingWritePattern]

@[simp] theorem execTrainingReadCompare_keeps (r : Requester) (ch : Nat) (v : W32) (s : State) :
    Keeps s (execTrainingReadCompare r ch v s) := by
  simp [execTrainingReadCompare]

@[simp] theorem execTrainingWriteReadCompare_keeps (r : Requester) (ch : Nat) (v : W32) (s : State) :
    Keeps s (execTrainingWriteReadCompare r ch v s) := by
  simp [execTrainingWriteReadCompare]

@[simp] theorem execTrainingHelperDone_keeps (ch dq cb : Nat) (s : State) :
    Keeps s (execTrainingHelperDone ch dq cb s) := by
  simp [execTrainingHelperDone]

@[simp] theorem execDqsOscillatorRead_keeps (rank drift : Nat) (s : State) :
    Keeps s (execDqsOscillatorRead rank drift s) := by
  unfold execDqsOscillatorRead; split <;> simp

@[simp] theorem execRetrainingPause_keeps (rank : Nat) (waits atEnd : Bool) (s : State) :
    Keeps s (execRetrainingPause rank waits atEnd s) := by
  unfold execRetrainingPause; split <;> simp

@[simp] theorem execRefreshDue_keeps (rank bank : Nat) (s : State) :
    Keeps s (execRefreshDue rank bank s) := by
  unfold execRefreshDue; split <;> simp

@[simp] theorem execMr4Read_keeps (rank : Nat) (deg : Int) (s : State) :
    Keeps s (execMr4Read rank deg s) := by
  unfold execMr4Read; split <;> simp

@[simp] theorem execPowerDownEntry_keeps (rank : Nat) (s : State) :
    Keeps s (execPowerDownEntry rank s) := by
  unfold execPowerDownEntry; split <;> simp

@[simp] theorem execPageIdleClose_keeps (bank : Nat) (s : State) :
    Keeps s (execPageIdleClose bank s) := by
  unfold execPageIdleClose; split <;> simp

@[simp] theorem execRowTrackerWindowEnd_keeps (rank : Nat) (s : State) :
    Keeps s (execRowTrackerWindowEnd rank s) := by
  unfold execRowTrackerWindowEnd; split <;> simp

@[simp] theorem State.sramWord_keeps (s : State) (n : Nat) (severe : Bool) :
    (State.sramWord s n severe).pending = s.pending ∧ (State.sramWord s n severe).mss.mem = s.mss.mem := by
  constructor <;> simp [State.sramWord]

@[simp] theorem State.contextLost_keeps (s : State) (c : Nat) :
    (State.contextLost s c).pending = s.pending ∧ (State.contextLost s c).mss.mem = s.mss.mem := by
  constructor <;> (unfold State.contextLost; repeat' (first | (simp; done) | dsimp only | split))

@[simp] theorem State.sram_keeps (s : State) (w : SramWord) : (s.sram w).pending = s.pending ∧ (s.sram w).mss.mem = s.mss.mem := by
  cases w with
  | corrected n => simp [State.sram]
  | context c => simp [State.sram]
  | readFrame j => simp [State.sram]
  | oasisFrame => simp [State.sram]
  | programData id =>
    simp only [State.sram]
    have h := State.sramWord_keeps s 1 false
    refine ⟨(State.whenRuns_keeps _ _ ?_).1.trans h.1, (State.whenRuns_keeps _ _ ?_).2.trans h.2⟩ <;> split <;> simp
  | ethernet c n => simp only [State.sram]; split <;> simp
  | parity c =>
    simp only [State.sram]
    have h := State.sramWord_keeps s 1 false
    refine ⟨(State.whenRuns_keeps _ _ ?_).1.trans h.1, (State.whenRuns_keeps _ _ ?_).2.trans h.2⟩ <;> split <;> simp
  | mapCache => simp [State.sram]
  | keyStore k =>
    simp only [State.sram]; split <;> simp
  | coreMemory n => simp [State.sram]
  | cameleerMemory => simp [State.sram]
  | scheduler k => simp [State.sram]
  | pointers => simp [State.sram]

@[simp] theorem execSramScrub_keeps (w : SramWord) (s : State) :
    Keeps s (execSramScrub w s) := by
  unfold execSramScrub; split <;> simp

end Sys2Proof.Machine
end

