-- ==== Sys2Proof/Laws/KeepIo.lean ====
section
/-! SUPPORT. What the operations of IoCommands leave alone: the queue of commands, and the bytes of DRAM memory where they do not store there. -/

namespace Sys2Proof.Machine

@[simp] theorem State.io_keeps (s : State) (c : IoCmd) (k : Kind) (opc : Nat) (go : State → Nat → Ctx → State)
    (h : ∀ g ctx x, (go g ctx x).pending = g.pending ∧ (go g ctx x).mss.mem = g.mss.mem) :
    (s.io c k opc go).pending = s.pending ∧ (s.io c k opc go).mss.mem = s.mss.mem := by
  unfold State.io
  split
  · exact ⟨rfl, rfl⟩
  · next g ctx e =>
    have ht : g.pending = s.pending ∧ g.mss.mem = s.mss.mem := by
      split at e
      · cases e
      · exact State.take_keeps e
    split
    · exact ht
    · rw [← ht.1, ← ht.2]
      (repeat' split) <;> simp [h]

@[simp] theorem State.onNs_keeps (s : State) (c : IoCmd) (k : Kind) (opc : Nat) (claim : Claim)
    (checks : Ctx → Nat → Ns → List (Bool × Status)) (go : State → Nat → Ctx → Nat → Ns → State)
    (h : ∀ g ctx x nsx n, (go g ctx x nsx n).pending = g.pending ∧ (go g ctx x nsx n).mss.mem = g.mss.mem) :
    (s.onNs c k opc claim checks go).pending = s.pending ∧ (s.onNs c k opc claim checks go).mss.mem = s.mss.mem := by
  unfold State.onNs
  apply State.io_keeps
  intros
  (repeat' split) <;> simp [h]

@[simp] theorem State.readCmd_keeps (s : State) (c : IoCmd) (k : Kind) (opc : Nat) (moves : Bool) :
    (State.readCmd s c k opc moves).pending = s.pending ∧ (State.readCmd s c k opc moves).mss.mem = s.mss.mem := by
  constructor <;> simp [State.readCmd]

@[simp] theorem execRead_keeps (c : IoCmd) (s : State) :
    Keeps s (execRead c s) := by
  simp [execRead]

@[simp] theorem execCompare_keeps (c : IoCmd) (s : State) :
    Keeps s (execCompare c s) := by
  simp [execCompare]

@[simp] theorem execVerify_keeps (c : IoCmd) (s : State) :
    Keeps s (execVerify c s) := by
  simp [execVerify]

@[simp] theorem State.placeWrite_keeps (s : State) (ctx : Nat) (x : Ctx) (nsx : Nat) (n : Ns) (append : Bool) :
    (State.placeWrite s ctx x nsx n append).pending = s.pending ∧ (State.placeWrite s ctx x nsx n append).mss.mem = s.mss.mem := by
  constructor <;> (unfold State.placeWrite; repeat' (first | (simp; done) | dsimp only | split))

@[simp] theorem State.writeCmd_keeps (s : State) (c : IoCmd) (k : Kind) (opc : Nat) (moves : Bool) :
    (State.writeCmd s c k opc moves).pending = s.pending ∧ (State.writeCmd s c k opc moves).mss.mem = s.mss.mem := by
  constructor <;> simp [State.writeCmd]

@[simp] theorem execWrite_keeps (c : IoCmd) (s : State) :
    Keeps s (execWrite c s) := by
  simp [execWrite]

@[simp] theorem execWriteZeroes_keeps (c : IoCmd) (s : State) :
    Keeps s (execWriteZeroes c s) := by
  simp [execWriteZeroes]

@[simp] theorem execWriteUncorrectable_keeps (c : IoCmd) (s : State) :
    Keeps s (execWriteUncorrectable c s) := by
  simp [execWriteUncorrectable]

@[simp] theorem execZoneAppend_keeps (c : IoCmd) (s : State) :
    Keeps s (execZoneAppend c s) := by
  simp [execZoneAppend]

@[simp] theorem execDatasetManagement_keeps (c : IoCmd) (ranges : List Span) (s : State) :
    Keeps s (execDatasetManagement c ranges s) := by
  simp [execDatasetManagement]

@[simp] theorem execCopy_keeps (c : IoCmd) (srcs : List CopySrc) (s : State) :
    Keeps s (execCopy c srcs s) := by
  unfold execCopy; rw [keeps_next]; apply State.io_keeps; intros; constructor <;> repeat' (first | (simp; done) | dsimp only | split)

@[simp] theorem execFlush_keeps (c : IoCmd) (s : State) :
    Keeps s (execFlush c s) := by
  simp [execFlush, ite_pending, ite_mem]

@[simp] theorem execZoneManagementSend_keeps (c : IoCmd) (s : State) :
    Keeps s (execZoneManagementSend c s) := by
  unfold execZoneManagementSend; rw [keeps_next]; apply State.io_keeps; intros; constructor <;> repeat' (first | (simp; done) | dsimp only | split)

@[simp] theorem execZoneManagementReceive_keeps (c : IoCmd) (s : State) :
    Keeps s (execZoneManagementReceive c s) := by
  simp [execZoneManagementReceive]

@[simp] theorem execPurgeRange_keeps (c : IoCmd) (s : State) :
    Keeps s (execPurgeRange c s) := by
  simp [execPurgeRange]

@[simp] theorem execParityCompute_keeps (c : IoCmd) (d : PcDesc) (s : State) :
    Keeps s (execParityCompute c d s) := by
  simp [execParityCompute, ite_pending, ite_mem]

@[simp] theorem execIoManagementSend_keeps (c : IoCmd) (handles : List Nat) (s : State) :
    Keeps s (execIoManagementSend c handles s) := by
  simp [execIoManagementSend]

@[simp] theorem execIoManagementReceive_keeps (c : IoCmd) (s : State) :
    Keeps s (execIoManagementReceive c s) := by
  simp [execIoManagementReceive]

end Sys2Proof.Machine
end

