-- ==== Sys2Proof/Laws/KeepOwn.lean ====
section
/-! SUPPORT. What the operations of Ownership leave alone: the queue of commands, and the bytes of DRAM memory where they do not store there. -/

namespace Sys2Proof.Machine

@[simp] theorem State.resvNotes_keeps (s : State) (nsx type : Nat) (hosts : List Nat) :
    (State.resvNotes s nsx type hosts).pending = s.pending ∧ (State.resvNotes s nsx type hosts).mss.mem = s.mss.mem := by
  constructor <;> (unfold State.resvNotes; split <;> simp)

@[simp] theorem State.setResv_keeps (s : State) (nsx host : Nat) (old new : Resv) :
    (State.setResv s nsx host old new).pending = s.pending ∧ (State.setResv s nsx host old new).mss.mem = s.mss.mem := by
  constructor <;> (unfold State.setResv; split <;> simp)

@[simp] theorem State.resvCmd_keeps (s : State) (c : IoCmd) (opc : Nat) (go : State → Nat → Ctx → Nat → State)
    (h : ∀ g ctx x nsx, (go g ctx x nsx).pending = g.pending ∧ (go g ctx x nsx).mss.mem = g.mss.mem) :
    (s.resvCmd c opc go).pending = s.pending ∧ (s.resvCmd c opc go).mss.mem = s.mss.mem := by
  unfold State.resvCmd
  apply State.io_keeps
  intros
  split <;> simp [h]

@[simp] theorem State.resvEnd_keeps (s : State) (c : Nat) (x : Ctx) (nsx : Nat) (reply : List Byte) (r : ResvOutcome) :
    (State.resvEnd s c x nsx reply r).pending = s.pending ∧ (State.resvEnd s c x nsx reply r).mss.mem = s.mss.mem := by
  constructor <;> (unfold State.resvEnd; split <;> simp)

@[simp] theorem execReservationRegister_keeps (c : IoCmd) (crkey nrkey : Nat) (s : State) :
    Keeps s (execReservationRegister c crkey nrkey s) := by
  simp [execReservationRegister, ite_pending, ite_mem]

@[simp] theorem State.abortHosts_keeps (s : State) (nsx : Nat) (hosts : List Nat) :
    (State.abortHosts s nsx hosts).pending = s.pending ∧ (State.abortHosts s nsx hosts).mss.mem = s.mss.mem := by
  constructor <;> simp [State.abortHosts]

@[simp] theorem execReservationAcquire_keeps (c : IoCmd) (crkey prkey : Nat) (s : State) :
    Keeps s (execReservationAcquire c crkey prkey s) := by
  simp [execReservationAcquire, ite_pending, ite_mem]

@[simp] theorem execReservationRelease_keeps (c : IoCmd) (crkey : Nat) (s : State) :
    Keeps s (execReservationRelease c crkey s) := by
  simp [execReservationRelease, ite_pending, ite_mem]

@[simp] theorem execReservationReport_keeps (c : IoCmd) (s : State) :
    Keeps s (execReservationReport c s) := by
  simp [execReservationReport]

@[simp] theorem State.lease_keeps (s : State) (c : Nat) (x : Ctx) (host : Nat) (ks : List Nat) :
    (State.lease s c x host ks).pending = s.pending ∧ (State.lease s c x host ks).mss.mem = s.mss.mem := by
  unfold State.lease
  extract_lets act dur rs olds
  split
  · simp
  · split <;> constructor <;> simp +zetaDelta

@[simp] theorem execOwnershipLease_keeps (a : AdminCmd) (s : State) :
    Keeps s (execOwnershipLease a s) := by
  unfold execOwnershipLease
  rw [keeps_next]
  apply State.adminNow_keeps
  intro g c x
  split
  · simp
  · split
    · simp
    · dsimp only
      split <;> simp

@[simp] theorem execLeaseHoldoffEnd_keeps (s : State) :
    Keeps s (execLeaseHoldoffEnd s) := by
  unfold execLeaseHoldoffEnd; rw [keeps_next]; apply State.whenRuns_keeps; intros; constructor <;> repeat' (first | (simp; done) | dsimp only | split)

end Sys2Proof.Machine
end

