-- ==== Sys2Proof/Laws/KeepSec.lean ====
section
/-! SUPPORT. What the operations of Security leave alone: the queue of commands, and the bytes of DRAM memory where they do not store there. -/

namespace Sys2Proof.Machine

@[simp] theorem State.spdmServed_keeps (s : State) (ep : Nat) (f : State → State)
    (h : ∀ g, (f g).pending = g.pending ∧ (f g).mss.mem = g.mss.mem) : Keeps s (s.spdmServed ep f) := by
  unfold State.spdmServed
  rw [keeps_next]
  split <;> simp [h]

@[simp] theorem State.spdmAsk_keeps (s : State) (ep : Nat) (q : SpdmReq) :
    Keeps s (State.spdmAsk s ep q) := by
  simp [State.spdmAsk]

@[simp] theorem execGetVersion_keeps (ep : Nat) (s : State) :
    Keeps s (execGetVersion ep s) := by
  simp [execGetVersion]

@[simp] theorem execGetCapabilities_keeps (ep version maxSize : Nat) (s : State) :
    Keeps s (execGetCapabilities ep version maxSize s) := by
  simp [execGetCapabilities]

@[simp] theorem execNegotiateAlgorithms_keeps (ep : Nat) (p384 sha384 : Bool) (s : State) :
    Keeps s (execNegotiateAlgorithms ep p384 sha384 s) := by
  simp [execNegotiateAlgorithms]

@[simp] theorem execGetDigests_keeps (ep : Nat) (s : State) :
    Keeps s (execGetDigests ep s) := by
  simp [execGetDigests]

@[simp] theorem execGetCertificate_keeps (ep slot offset len : Nat) (s : State) :
    Keeps s (execGetCertificate ep slot offset len s) := by
  simp [execGetCertificate]

@[simp] theorem execChallenge_keeps (ep slot : Nat) (s : State) :
    Keeps s (execChallenge ep slot s) := by
  simp [execChallenge]

@[simp] theorem execGetMeasurements_keeps (ep index : Nat) (signed : Bool) (s : State) :
    Keeps s (execGetMeasurements ep index signed s) := by
  simp [execGetMeasurements]

@[simp] theorem execChunkGet_keeps (ep handle seq : Nat) (s : State) :
    Keeps s (execChunkGet ep handle seq s) := by
  simp [execChunkGet]

@[simp] theorem execChunkSend_keeps (ep handle seq : Nat) (last : Bool) (part : List Byte) (spelled : SpdmReq) (s : State) :
    Keeps s (execChunkSend ep handle seq last part spelled s) := by
  simp [execChunkSend]

@[simp] theorem State.brFin_keeps (s : State) (v : W32) :
    (State.brFin s v).pending = s.pending ∧ (State.brFin s v).mss.mem = s.mss.mem := by
  constructor <;> (unfold State.brFin; split <;> simp)

@[simp] theorem execSecBrctlFin_keeps (r : Requester) (s : State) :
    Keeps s (execSecBrctlFin r s) := by
  simp [execSecBrctlFin]

@[simp] theorem execBootRecordFetch_keeps (a : AdminCmd) (s : State) :
    Keeps s (execBootRecordFetch a s) := by
  unfold execBootRecordFetch; rw [keeps_next]; apply State.admin_keeps; intros; constructor <;> repeat' (first | (simp; done) | dsimp only | split)

@[simp] theorem State.sealGo_keeps (s : State) (v : W32) :
    (State.sealGo s v).pending = s.pending ∧ (State.sealGo s v).mss.mem = s.mss.mem := by
  constructor <;> (unfold State.sealGo; repeat' (first | (simp; done) | dsimp only | split))

@[simp] theorem State.sealOp_keeps (s : State) (r : Requester) (v : W32) (op : Nat) :
    (State.sealOp s r v op).pending = s.pending ∧ (State.sealOp s r v op).mss.mem = s.mss.mem := by
  constructor <;> simp [State.sealOp]

@[simp] theorem execSealGcm_keeps (r : Requester) (v : W32) (s : State) :
    Keeps s (execSealGcm r v s) := by
  simp [execSealGcm]

@[simp] theorem execSealKeygen_keeps (r : Requester) (v : W32) (s : State) :
    Keeps s (execSealKeygen r v s) := by
  simp [execSealKeygen]

@[simp] theorem execSealUnwrap_keeps (r : Requester) (v : W32) (s : State) :
    Keeps s (execSealUnwrap r v s) := by
  simp [execSealUnwrap]

@[simp] theorem execSealInject_keeps (r : Requester) (v : W32) (s : State) :
    Keeps s (execSealInject r v s) := by
  simp [execSealInject]

@[simp] theorem execSealClear_keeps (r : Requester) (v : W32) (s : State) :
    Keeps s (execSealClear r v s) := by
  simp [execSealClear]

@[simp] theorem execSealDone_keeps (s : State) :
    Keeps s (execSealDone s) := by
  simp [execSealDone]

@[simp] theorem State.sealLock_keeps (s : State) (locked : Bool) (v : W32) :
    (State.sealLock s locked v).pending = s.pending ∧ (State.sealLock s locked v).mss.mem = s.mss.mem := by
  constructor <;> (unfold State.sealLock; split <;> simp)

@[simp] theorem execSecSeallockKclr_keeps (r : Requester) (s : State) :
    Keeps s (execSecSeallockKclr r s) := by
  simp [execSecSeallockKclr]

@[simp] theorem execSecSeallockKlock_keeps (r : Requester) (s : State) :
    Keeps s (execSecSeallockKlock r s) := by
  simp [execSecSeallockKlock]

@[simp] theorem execKeySlotChangeApply_keeps (slot : Nat) (s : State) :
    Keeps s (execKeySlotChangeApply slot s) := by
  unfold execKeySlotChangeApply; rw [keeps_next]; constructor <;> repeat' (first | (simp; done) | dsimp only | split)

@[simp] theorem State.alarm_keeps (s : State) (n : Nat) :
    (State.alarm s n).pending = s.pending ∧ (State.alarm s n).mss.mem = s.mss.mem := by
  constructor <;> (unfold State.alarm; split <;> simp)

@[simp] theorem execSupplyGlitchAlarm_keeps (s : State) :
    Keeps s (execSupplyGlitchAlarm s) := by
  simp [execSupplyGlitchAlarm]

@[simp] theorem execClockAlarm_keeps (s : State) :
    Keeps s (execClockAlarm s) := by
  simp [execClockAlarm]

@[simp] theorem execRoundCheckAlarm_keeps (s : State) :
    Keeps s (execRoundCheckAlarm s) := by
  simp [execRoundCheckAlarm]

@[simp] theorem execDebugUnlock_keeps (s : State) :
    Keeps s (execDebugUnlock s) := by
  simp [execDebugUnlock, ite_pending, ite_mem]

@[simp] theorem State.clearBlock_keeps (s : State) (fsn : Nat) (k : Option (Nat × Nat)) :
    (State.clearBlock s fsn k).pending = s.pending ∧ (State.clearBlock s fsn k).mss.mem = s.mss.mem := by
  constructor <;> (unfold State.clearBlock; split <;> simp)

@[simp] theorem State.setKpio_keeps (s : State) (nsx : Nat) (k : Option (Nat × Nat)) :
    (State.setKpio s nsx k).pending = s.pending ∧ (State.setKpio s nsx k).mss.mem = s.mss.mem := by
  constructor <;> simp [State.setKpio]

@[simp] theorem State.kpioEnable_keeps (s : State) (c : Nat) (x : Ctx) (nsx nkt : Nat) (n : Ns) :
    (State.kpioEnable s c x nsx nkt n).pending = s.pending ∧ (State.kpioEnable s c x nsx nkt n).mss.mem = s.mss.mem := by
  constructor <;> (unfold State.kpioEnable; repeat' (first | (simp; done) | dsimp only | split))

@[simp] theorem State.injectKey_keeps (s : State) (c : Nat) (x : Ctx) (nsid tag : Nat) (blob : List Byte) (n : Ns) :
    (State.injectKey s c x nsid tag blob n).pending = s.pending ∧ (State.injectKey s c x nsid tag blob n).mss.mem = s.mss.mem := by
  constructor <;> (unfold State.injectKey; repeat' (first | (simp; done) | dsimp only | split))

@[simp] theorem execSecuritySend_keeps (a : AdminCmd) (p : SecPayload) (s : State) :
    Keeps s (execSecuritySend a p s) := by
  unfold execSecuritySend; rw [keeps_next]; apply State.admin_keeps; intros; constructor <;> repeat' (first | (simp; done) | dsimp only | split)

@[simp] theorem execSecurityReceive_keeps (a : AdminCmd) (p : SecQuery) (s : State) :
    Keeps s (execSecurityReceive a p s) := by
  unfold execSecurityReceive; rw [keeps_next]; apply State.admin_keeps; intros; constructor <;> repeat' (first | (simp; done) | dsimp only | split)

@[simp] theorem execFormatNvm_keeps (a : AdminCmd) (s : State) :
    Keeps s (execFormatNvm a s) := by
  unfold execFormatNvm; rw [keeps_next]; apply State.admin_keeps; intros; constructor <;> repeat' (first | (simp; done) | dsimp only | split)

@[simp] theorem State.sanitizeFetch_keeps (s : State) (c : Nat) (x : Ctx) (act : SanAction) :
    (State.sanitizeFetch s c x act).pending = s.pending ∧ (State.sanitizeFetch s c x act).mss.mem = s.mss.mem := by
  constructor <;> simp [State.sanitizeFetch]

@[simp] theorem execSanitize_keeps (a : AdminCmd) (s : State) :
    Keeps s (execSanitize a s) := by
  unfold execSanitize; rw [keeps_next]; apply State.admin_keeps; intros; constructor <;> repeat' (first | (simp; done) | dsimp only | split)

@[simp] theorem execSanitizeComplete_keeps (ok : Bool) (s : State) :
    Keeps s (execSanitizeComplete ok s) := by
  unfold execSanitizeComplete; rw [keeps_next]; apply State.whenRuns_keeps; intros; constructor <;> repeat' (first | (simp; done) | dsimp only | split)

end Sys2Proof.Machine
end

