-- ==== Sys2Proof/Laws/KeepTen.lean ====
section
/-! SUPPORT. What the operations of Tenants leave alone: the queue of commands, and the bytes of DRAM memory where they do not store there. -/

namespace Sys2Proof.Machine

@[simp] theorem State.epochBoundary_keeps (s : State) :
    (State.epochBoundary s).pending = s.pending ∧ (State.epochBoundary s).mss.mem = s.mss.mem := by
  constructor <;> simp [State.epochBoundary]

@[simp] theorem execTasEpochBoundary_keeps (s : State) :
    Keeps s (execTasEpochBoundary s) := by
  simp [execTasEpochBoundary]

@[simp] theorem State.shareCmd_keeps (s : State) (v : W32) :
    (State.shareCmd s v).pending = s.pending ∧ (State.shareCmd s v).mss.mem = s.mss.mem := by
  constructor <;> simp [State.shareCmd]

@[simp] theorem execTasShcmdLoad_keeps (r : Requester) (s : State) :
    Keeps s (execTasShcmdLoad r s) := by
  simp [execTasShcmdLoad]

@[simp] theorem execTasShcmdStage_keeps (r : Requester) (s : State) :
    Keeps s (execTasShcmdStage r s) := by
  simp [execTasShcmdStage]

end Sys2Proof.Machine
end

