-- ==== Sys2Proof/Laws/KeepFeat.lean ====
section
/-! SUPPORT. What the operations of Features leave alone: the queue of commands, and the bytes of DRAM memory where they do not store there. -/

namespace Sys2Proof.Machine

@[simp] theorem State.setKept_keeps (s : State) (c : Nat) (x : Ctx) (key v : Nat) :
    (State.setKept s c x key v).pending = s.pending ∧ (State.setKept s c x key v).mss.mem = s.mss.mem := by
  constructor <;> simp [State.setKept]

@[simp] theorem State.setVector_keeps (s : State) (c : Nat) (x : Ctx) (iv : Nat) (f : Vector' → Vector') :
    (State.setVector s c x iv f).pending = s.pending ∧ (State.setVector s c x iv f).mss.mem = s.mss.mem := by
  constructor <;> (unfold State.setVector; repeat' (first | (simp; done) | dsimp only | split))

@[simp] theorem State.setOnNs_keeps (s : State) (c : Nat) (x : Ctx) (f : State → Nat → State)
    (h : ∀ g k, (f g k).pending = g.pending ∧ (f g k).mss.mem = g.mss.mem) :
    (s.setOnNs c x f).pending = s.pending ∧ (s.setOnNs c x f).mss.mem = s.mss.mem := by
  unfold State.setOnNs
  split
  · simp
  · simp [h]

@[simp] theorem State.updNs_keeps (s : State) (k : Nat) (f : Ns → Ns) :
    (State.updNs s k f).pending = s.pending ∧ (State.updNs s k f).mss.mem = s.mss.mem := by
  constructor <;> simp [State.updNs]

@[simp] theorem State.setProtection_keeps (s : State) (c : Nat) (x : Ctx) :
    (State.setProtection s c x).pending = s.pending ∧ (State.setProtection s c x).mss.mem = s.mss.mem := by
  constructor <;> (unfold State.setProtection; repeat' (first | (simp; done) | dsimp only | split))

@[simp] theorem State.setGuards_keeps (s : State) (c : Nat) (x : Ctx) :
    (State.setGuards s c x).pending = s.pending ∧ (State.setGuards s c x).mss.mem = s.mss.mem := by
  constructor <;> simp [State.setGuards, ite_pending, ite_mem]

@[simp] theorem State.setOrdered_keeps (s : State) (c : Nat) (x : Ctx) :
    (State.setOrdered s c x).pending = s.pending ∧ (State.setOrdered s c x).mss.mem = s.mss.mem := by
  constructor <;> (unfold State.setOrdered; repeat' (first | (simp; done) | dsimp only | split))

@[simp] theorem State.setClass_keeps (s : State) (c : Nat) (x : Ctx) :
    (State.setClass s c x).pending = s.pending ∧ (State.setClass s c x).mss.mem = s.mss.mem := by
  constructor <;> simp [State.setClass, ite_pending, ite_mem]

@[simp] theorem State.setShare_keeps (s : State) (c : Nat) (x : Ctx) :
    (State.setShare s c x).pending = s.pending ∧ (State.setShare s c x).mss.mem = s.mss.mem := by
  constructor <;> simp [State.setShare, ite_pending, ite_mem]

@[simp] theorem State.setSize_keeps (s : State) (c : Nat) (x : Ctx) :
    (State.setSize s c x).pending = s.pending ∧ (State.setSize s c x).mss.mem = s.mss.mem := by
  constructor <;> (unfold State.setSize; repeat' (first | (simp; done) | dsimp only | split))

@[simp] theorem State.setMode_keeps (s : State) (c : Nat) (x : Ctx) :
    (State.setMode s c x).pending = s.pending ∧ (State.setMode s c x).mss.mem = s.mss.mem := by
  constructor <;> (unfold State.setMode; repeat' (first | (simp; done) | dsimp only | split))

@[simp] theorem State.setFdp_keeps (s : State) (c : Nat) (x : Ctx) :
    (State.setFdp s c x).pending = s.pending ∧ (State.setFdp s c x).mss.mem = s.mss.mem := by
  constructor <;> simp [State.setFdp, ite_pending, ite_mem]

@[simp] theorem State.setFdpEvents_keeps (s : State) (c : Nat) (x : Ctx) (d : FeatureData) :
    (State.setFdpEvents s c x d).pending = s.pending ∧ (State.setFdpEvents s c x d).mss.mem = s.mss.mem := by
  constructor <;> (unfold State.setFdpEvents; repeat' (first | (simp; done) | dsimp only | split))

@[simp] theorem State.setKato_keeps (s : State) (c : Nat) (x : Ctx) (i : Inst) :
    (State.setKato s c x i).pending = s.pending ∧ (State.setKato s c x i).mss.mem = s.mss.mem := by
  constructor <;> simp [State.setKato, ite_pending, ite_mem]

@[simp] theorem State.setStamp_keeps (s : State) (c : Nat) (x : Ctx) (v : Nat) :
    (State.setStamp s c x v).pending = s.pending ∧ (State.setStamp s c x v).mss.mem = s.mss.mem := by
  constructor <;> simp [State.setStamp]

@[simp] theorem State.setThreshold_keeps (s : State) (c : Nat) (x : Ctx) :
    (State.setThreshold s c x).pending = s.pending ∧ (State.setThreshold s c x).mss.mem = s.mss.mem := by
  constructor <;> simp [State.setThreshold, ite_pending, ite_mem]

@[simp] theorem State.setInstFeature_keeps (s : State) (c : Nat) (x : Ctx) (i : Inst) (d : FeatureData) :
    (State.setInstFeature s c x i d).pending = s.pending ∧ (State.setInstFeature s c x i d).mss.mem = s.mss.mem := by
  constructor <;> (unfold State.setInstFeature; repeat' (first | (simp; done) | dsimp only | split))

@[simp] theorem State.setDeviceFeature_keeps (s : State) (c : Nat) (x : Ctx) (d : FeatureData) :
    (State.setDeviceFeature s c x d).pending = s.pending ∧ (State.setDeviceFeature s c x d).mss.mem = s.mss.mem := by
  constructor <;> (unfold State.setDeviceFeature; split <;> simp)

@[simp] theorem execSetFeatures_keeps (a : AdminCmd) (d : FeatureData) (s : State) :
    Keeps s (execSetFeatures a d s) := by
  unfold execSetFeatures; rw [keeps_next]; apply State.admin_keeps; intros; constructor <;> repeat' (first | (simp; done) | dsimp only | split)

@[simp] theorem execNamespaceShrinkComplete_keeps (ctx : Nat) (s : State) :
    Keeps s (execNamespaceShrinkComplete ctx s) := by
  unfold execNamespaceShrinkComplete; rw [keeps_next]; apply State.whenRuns_keeps; intros; constructor <;> repeat' (first | (simp; done) | dsimp only | split)

@[simp] theorem execGetFeatures_keeps (a : AdminCmd) (s : State) :
    Keeps s (execGetFeatures a s) := by
  unfold execGetFeatures; rw [keeps_next]; apply State.admin_keeps; intros; constructor <;> repeat' (first | (simp; done) | dsimp only | split)

end Sys2Proof.Machine
end

