-- ==== Sys2Proof/Laws/KeepFw.lean ====
section
/-! SUPPORT. What the operations of Firmware leave alone: the queue of commands, and the bytes of DRAM memory where they do not store there. -/

namespace Sys2Proof.Machine

@[simp] theorem execFirmwareImageDownload_keeps (a : AdminCmd) (data : List Byte) (s : State) :
    Keeps s (execFirmwareImageDownload a data s) := by
  unfold execFirmwareImageDownload; rw [keeps_next]; apply State.admin_keeps; intros; constructor <;> repeat' (first | (simp; done) | dsimp only | split)

@[simp] theorem execSidebandDownloadTimeout_keeps (s : State) :
    Keeps s (execSidebandDownloadTimeout s) := by
  unfold execSidebandDownloadTimeout; rw [keeps_next]; constructor <;> repeat' (first | (simp; done) | dsimp only | split)

@[simp] theorem State.commit_keeps (s : State) (by' : CommitFrom) (owner : DlOwner) (fs action : Nat) :
    (State.commit s by' owner fs action).1.pending = s.pending ∧ (State.commit s by' owner fs action).1.mss.mem = s.mss.mem := by
  constructor <;> simp [State.commit]

@[simp] theorem execFirmwareCommit_keeps (a : AdminCmd) (s : State) :
    Keeps s (execFirmwareCommit a s) := by
  simp [execFirmwareCommit, ite_pending, ite_mem]

@[simp] theorem State.endCommit_keeps (s : State) (a : Activation) (st : Status) :
    (State.endCommit s a st).pending = s.pending ∧ (State.endCommit s a st).mss.mem = s.mss.mem := by
  constructor <;> (unfold State.endCommit; split <;> simp)

@[simp] theorem execActivationPrepareDone_keeps (digestOk : Bool) (s : State) :
    Keeps s (execActivationPrepareDone digestOk s) := by
  unfold execActivationPrepareDone; rw [keeps_next]; apply State.whenRuns_keeps; intros; constructor <;> repeat' (first | (simp; done) | dsimp only | split)

@[simp] theorem execBootRecordAppended_keeps (s : State) :
    Keeps s (execBootRecordAppended s) := by
  unfold execBootRecordAppended; rw [keeps_next]; constructor <;> repeat' (first | (simp; done) | dsimp only | split)

end Sys2Proof.Machine
end

