-- ==== Sys2Proof/Laws/KeepPages.lean ====
section
/-! SUPPORT. What the operations of Pages leave alone: the queue of commands, and the bytes of DRAM memory where they do not store there. -/

namespace Sys2Proof.Machine

@[simp] theorem State.clearCounters_keeps (s : State) (x : Ctx) :
    (State.clearCounters s x).pending = s.pending ∧ (State.clearCounters s x).mss.mem = s.mss.mem := by
  constructor <;> (unfold State.clearCounters; repeat' (first | (simp; done) | dsimp only | split))

@[simp] theorem State.discoveryPage_keeps (s : State) (a : AdminCmd) :
    (State.discoveryPage s a).pending = s.pending ∧ (State.discoveryPage s a).mss.mem = s.mss.mem := by
  constructor <;> (unfold State.discoveryPage; split <;> simp)

@[simp] theorem execGetLogPage_keeps (a : AdminCmd) (s : State) :
    Keeps s (execGetLogPage a s) := by
  unfold execGetLogPage
  rw [keeps_next]
  split
  · exact State.discoveryPage_keeps _ _
  · apply State.admin_keeps; intros; constructor <;> repeat' (first | (simp; done) | dsimp only | split)

end Sys2Proof.Machine
end

