-- ==== Sys2Proof/Laws/KeepIdent.lean ====
section
/-! SUPPORT. What the operations of Identify leave alone: the queue of commands, and the bytes of DRAM memory where they do not store there. -/

namespace Sys2Proof.Machine

@[simp] theorem execIdentify_keeps (a : AdminCmd) (s : State) :
    Keeps s (execIdentify a s) := by
  unfold execIdentify; rw [keeps_next]; apply State.admin_keeps; intros; constructor <;> repeat' (first | (simp; done) | dsimp only | split)

end Sys2Proof.Machine
end

