-- ==== Sys2Proof/Laws/KeepNs.lean ====
section
/-! SUPPORT. What the operations of NsAdmin leave alone: the queue of commands, and the bytes of DRAM memory where they do not store there. -/

namespace Sys2Proof.Machine

@[simp] theorem State.createNs_keeps (s : State) (c : Nat) (x : Ctx) (req : NsReq) :
    (State.createNs s c x req).pending = s.pending ∧ (State.createNs s c x req).mss.mem = s.mss.mem := by
  constructor <;> (unfold State.createNs; repeat' (first | (simp; done) | dsimp only | split))

@[simp] theorem State.deleteFetch_keeps (s : State) (c : Nat) (x : Ctx) :
    (State.deleteFetch s c x).pending = s.pending ∧ (State.deleteFetch s c x).mss.mem = s.mss.mem := by
  constructor <;> simp [State.deleteFetch, ite_pending, ite_mem]

@[simp] theorem execNamespaceManagement_keeps (a : AdminCmd) (req : NsReq) (s : State) :
    Keeps s (execNamespaceManagement a req s) := by
  unfold execNamespaceManagement; rw [keeps_next]; apply State.admin_keeps; intros; constructor <;> repeat' (first | (simp; done) | dsimp only | split)

@[simp] theorem execNamespaceAttachment_keeps (a : AdminCmd) (ctrls : List Nat) (s : State) :
    Keeps s (execNamespaceAttachment a ctrls s) := by
  unfold execNamespaceAttachment; rw [keeps_next]; apply State.admin_keeps; intros; constructor <;> repeat' (first | (simp; done) | dsimp only | split)

@[simp] theorem execDeviceSelfTest_keeps (a : AdminCmd) (s : State) :
    Keeps s (execDeviceSelfTest a s) := by
  simp [execDeviceSelfTest, ite_pending, ite_mem]

@[simp] theorem execDeviceSelfTestComplete_keeps (failed : Option (Nat × Option Nat)) (s : State) :
    Keeps s (execDeviceSelfTestComplete failed s) := by
  unfold execDeviceSelfTestComplete; split <;> simp

@[simp] theorem execDirectiveSend_keeps (a : AdminCmd) (s : State) :
    Keeps s (execDirectiveSend a s) := by
  simp [execDirectiveSend, ite_pending, ite_mem]

@[simp] theorem execDirectiveReceive_keeps (a : AdminCmd) (s : State) :
    Keeps s (execDirectiveReceive a s) := by
  simp [execDirectiveReceive, ite_pending, ite_mem]

@[simp] theorem State.assignVq_keeps (s : State) (c : Nat) (i : Inst) (k rt n : Nat) :
    (State.assignVq s c i k rt n).pending = s.pending ∧ (State.assignVq s c i k rt n).mss.mem = s.mss.mem := by
  constructor <;> simp [State.assignVq, ite_pending, ite_mem]

@[simp] theorem execVirtualizationManagement_keeps (a : AdminCmd) (s : State) :
    Keeps s (execVirtualizationManagement a s) := by
  unfold execVirtualizationManagement; rw [keeps_next]; apply State.admin_keeps; intros; constructor <;> repeat' (first | (simp; done) | dsimp only | split)

@[simp] theorem execGetLbaStatus_keeps (a : AdminCmd) (s : State) :
    Keeps s (execGetLbaStatus a s) := by
  unfold execGetLbaStatus; rw [keeps_next]; apply State.admin_keeps; intros; constructor <;> repeat' (first | (simp; done) | dsimp only | split)

theorem State.retireByCommand_keeps {s t : State} {d : Nat} {force : Bool} (h : s.retireByCommand d force = .ok t) :
    t.pending = s.pending ∧ t.mss.mem = s.mss.mem := by
  unfold State.retireByCommand at h
  dsimp only at h
  (repeat' split at h) <;> cases h <;> simp

theorem State.retireBlock_keeps {s t : State} {d block : Nat} {force : Bool} (h : s.retireBlock d block force = .ok t) :
    t.pending = s.pending ∧ t.mss.mem = s.mss.mem := by
  unfold State.retireBlock at h
  extract_lets f g1 g2 g3 at h
  split at h
  · cases h; simp
  · split at h
    · cases h
    · cases h; simp

@[simp] theorem execDieRetire_keeps (a : AdminCmd) (s : State) : Keeps s (execDieRetire a s) := by
  unfold execDieRetire
  rw [keeps_next]
  refine State.admin_keeps _ _ _ _ _ _ _ fun g c x => ?_
  dsimp only
  split
  · simp
  · split
    · simp
    · next h e =>
      have ht : h.pending = g.pending ∧ h.mss.mem = g.mss.mem := by
        split at e
        · exact State.retireByCommand_keeps e
        · split at e
          · exact State.retireBlock_keeps e
          · cases e; exact ⟨rfl, rfl⟩
      simp [ht]

end Sys2Proof.Machine
end

