-- ==== Sys2Proof/Laws/KeepPower.lean ====
section
/-! SUPPORT. What the operations of Power leave alone: the queue of commands, and the bytes of DRAM memory where they do not store there. -/

namespace Sys2Proof.Machine

@[simp] theorem State.powerLoss_keeps (s : State) :
    (State.powerLoss s).pending = s.pending ∧ (State.powerLoss s).mss.mem = s.mss.mem := by
  constructor <;> simp [State.powerLoss, ite_pending, ite_mem]

@[simp] theorem execPfailAssert_keeps (s : State) :
    Keeps s (execPfailAssert s) := by
  unfold execPfailAssert; split <;> simp

@[simp] theorem execDumpComplete_keeps (s : State) :
    Keeps s (execDumpComplete s) := by
  unfold execDumpComplete; split <;> simp

@[simp] theorem State.power_keeps (s : State) (p : Ptm) :
    (State.power s p).pending = s.pending ∧ (State.power s p).mss.mem = s.mss.mem := by
  constructor <;> simp [State.power]

@[simp] theorem execHueSample_keeps (mV : Nat) (s : State) :
    Keeps s (execHueSample mV s) := by
  simp [execHueSample, ite_pending, ite_mem]

@[simp] theorem execHueRetestTimer_keeps (s : State) :
    Keeps s (execHueRetestTimer s) := by
  unfold execHueRetestTimer; split <;> simp

@[simp] theorem execHueTestPeriodExpiry_keeps (s : State) :
    Keeps s (execHueTestPeriodExpiry s) := by
  unfold execHueTestPeriodExpiry; split <;> simp

@[simp] theorem execCapTestStart_keeps (s : State) :
    Keeps s (execCapTestStart s) := by
  unfold execCapTestStart; split <;> simp

@[simp] theorem State.testGo_keeps (s : State) (v : W32) :
    (State.testGo s v).pending = s.pending ∧ (State.testGo s v).mss.mem = s.mss.mem := by
  constructor <;> (unfold State.testGo; split <;> simp)

@[simp] theorem execPtmHuestatTestgo_keeps (r : Requester) (s : State) :
    Keeps s (execPtmHuestatTestgo r s) := by
  simp [execPtmHuestatTestgo]

@[simp] theorem execCapTestComplete_keeps (v1 vs v2 : Nat) (s : State) :
    Keeps s (execCapTestComplete v1 vs v2 s) := by
  unfold execCapTestComplete; split <;> simp

@[simp] theorem execPtmHuecfgWrite_keeps (r : Requester) (v : W32) (s : State) :
    Keeps s (execPtmHuecfgWrite r v s) := by
  simp [execPtmHuecfgWrite]

@[simp] theorem execSensorSample_keeps (readings : List Int) (s : State) :
    Keeps s (execSensorSample readings s) := by
  unfold execSensorSample; split <;> simp

@[simp] theorem State.nandBands_keeps (s : State) (k : Nat) :
    (State.nandBands s k).pending = s.pending ∧ (State.nandBands s k).mss.mem = s.mss.mem := by
  constructor <;> (unfold State.nandBands; repeat' (first | (simp; done) | dsimp only | split))

@[simp] theorem execNandTemperatureRead_keeps (k : Nat) (readings : Tab Int) (s : State) :
    Keeps s (execNandTemperatureRead k readings s) := by
  unfold execNandTemperatureRead; split <;> simp

@[simp] theorem execThrottleLevelUpdate_keeps (s : State) :
    Keeps s (execThrottleLevelUpdate s) := by
  unfold execThrottleLevelUpdate; split <;> simp

@[simp] theorem execThermalShutdown_keeps (s : State) :
    Keeps s (execThermalShutdown s) := by
  unfold execThermalShutdown; split <;> simp

@[simp] theorem execThermtripAssert_keeps (s : State) :
    Keeps s (execThermtripAssert s) := by
  simp [execThermtripAssert, ite_pending, ite_mem]

end Sys2Proof.Machine
end

