-- ==== Sys2Proof/Laws/KeepStore.lean ====
section
/-! SUPPORT. What the operations of Store leave alone: the queue of commands, and the bytes of DRAM memory where they do not store there. -/

namespace Sys2Proof.Machine

@[simp] theorem State.enterStore_keeps (s : State) (en fr : Nat) (go : State → State × SvcResult)
    (h : ∀ g, (go g).1.pending = g.pending ∧ (go g).1.mss.mem = g.mss.mem) : Keeps s (s.enterStore en fr go) := by
  unfold State.enterStore
  (repeat' split) <;> simp [h]

@[simp] theorem execStoreServiceRead_keeps (en fr offset len : Nat) (s : State) :
    Keeps s (execStoreServiceRead en fr offset len s) := by
  simp [execStoreServiceRead]

@[simp] theorem execStoreServiceProgram_keeps (en fr offset : Nat) (data : List Byte) (s : State) :
    Keeps s (execStoreServiceProgram en fr offset data s) := by
  simp [execStoreServiceProgram]

@[simp] theorem execStoreServiceErase_keeps (en fr offset len : Nat) (s : State) :
    Keeps s (execStoreServiceErase en fr offset len s) := by
  simp [execStoreServiceErase]

@[simp] theorem execStoreServicePoll_keeps (en fr : Nat) (s : State) :
    Keeps s (execStoreServicePoll en fr s) := by
  simp [execStoreServicePoll]

@[simp] theorem State.serveRead_keeps (s : State) (r : FscRead) :
    (State.serveRead s r).pending = s.pending ∧ (State.serveRead s r).mss.mem = s.mss.mem := by
  constructor <;> simp [State.serveRead]

@[simp] theorem State.serveReads_keeps (s : State) :
    (State.serveReads s).pending = s.pending ∧ (State.serveReads s).mss.mem = s.mss.mem := by
  constructor <;> simp [State.serveReads]

@[simp] theorem execFscReadRequest_keeps (port : FscPort) (offset len : Nat) (s : State) :
    Keeps s (execFscReadRequest port offset len s) := by
  simp [execFscReadRequest, ite_pending, ite_mem]

@[simp] theorem State.fevStore_keeps (s : State) (f : Fev) (ok : Bool) (offset : Nat) :
    (State.fevStore s f ok offset).pending = s.pending ∧ (State.fevStore s f ok offset).mss.mem = s.mss.mem := by
  constructor <;> (unfold State.fevStore; split <;> simp)

@[simp] theorem State.afterProgram_keeps (s : State) (fev : Bool) :
    (State.afterProgram s fev).pending = s.pending ∧ (State.afterProgram s fev).mss.mem = s.mss.mem := by
  constructor <;> simp [State.afterProgram]

@[simp] theorem execFscProgramDone_keeps (port : FscPort) (ok : Bool) (s : State) :
    Keeps s (execFscProgramDone port ok s) := by
  unfold execFscProgramDone; rw [keeps_next]; constructor <;> repeat' (first | (simp; done) | dsimp only | split)

@[simp] theorem execFscEraseDone_keeps (port : FscPort) (ok : Bool) (s : State) :
    Keeps s (execFscEraseDone port ok s) := by
  unfold execFscEraseDone; rw [keeps_next]; constructor <;> repeat' (first | (simp; done) | dsimp only | split)

@[simp] theorem execFscSuspendHoldExpiry_keeps (s : State) :
    Keeps s (execFscSuspendHoldExpiry s) := by
  unfold execFscSuspendHoldExpiry; split <;> simp

end Sys2Proof.Machine
end

