-- ==== Sys2Proof/Laws/KeepStart.lean ====
section
/-! SUPPORT. What the operations of Start leave alone: the queue of commands, and the bytes of DRAM memory where they do not store there. -/

namespace Sys2Proof.Machine

/-- A start from the cold entry leaves the queue alone, and no byte of DRAM is listed. -/
def Clears (s t : State) : Prop := t.pending = s.pending ∧ t.mss.mem = []

theorem Clears.form {s u t : State} (h : Clears u t) (e : u.pending = s.pending) : KeepsForm s (.next t) :=
  (keepsForm_next _ _).2 ⟨h.1.trans e, fun _ => by rw [h.2]; rfl⟩

@[simp] theorem State.openPorts_keeps (s : State) (perst : List Nat) :
    (State.openPorts s perst).pending = s.pending ∧ (State.openPorts s perst).mss.mem = s.mss.mem := by
  constructor <;> simp [State.openPorts]

theorem State.coldEntry_clears (s : State) (env : StartEnv) (powerOn : Bool) (lastCold : Nat) : Clears s (s.coldEntry env powerOn lastCold) := by
  unfold State.coldEntry
  constructor <;> simp [Mss.initial]

@[simp] theorem State.runSlot_keeps (s : State) (copy : Nat × Nat × Nat) (slot : Nat) (fell : Bool) :
    (State.runSlot s copy slot fell).pending = s.pending ∧ (State.runSlot s copy slot fell).mss.mem = s.mss.mem := by
  constructor <;> (unfold State.runSlot; split <;> simp)

@[simp] theorem State.trainDram_keeps (s : State) (env : StartEnv) :
    (State.trainDram s env).pending = s.pending ∧ (State.trainDram s env).mss.mem = s.mss.mem := by
  constructor <;> simp [State.trainDram, ite_pending, ite_mem]

@[simp] theorem State.holdOut_keeps (s : State) (d : Nat) :
    (State.holdOut s d).pending = s.pending ∧ (State.holdOut s d).mss.mem = s.mss.mem := by
  constructor <;> (unfold State.holdOut; split <;> simp)

@[simp] theorem State.restoreDump_keeps (s : State) :
    (State.restoreDump s).pending = s.pending ∧ (State.restoreDump s).mss.mem = s.mss.mem := by
  constructor <;> (unfold State.restoreDump; repeat' (first | (simp; done) | dsimp only | split))

@[simp] theorem State.bootRecord_keeps (s : State) :
    (State.bootRecord s).pending = s.pending ∧ (State.bootRecord s).mss.mem = s.mss.mem := by
  constructor <;> simp [State.bootRecord]

@[simp] theorem State.setLocks_keeps (s : State) :
    (State.setLocks s).pending = s.pending ∧ (State.setLocks s).mss.mem = s.mss.mem := by
  constructor <;> simp [State.setLocks]

@[simp] theorem State.checkPorts_keeps (s : State) :
    (State.checkPorts s).pending = s.pending ∧ (State.checkPorts s).mss.mem = s.mss.mem := by
  constructor <;> simp [State.checkPorts]

@[simp] theorem State.becomeReady_keeps (s : State) (clean : Bool) :
    (State.becomeReady s clean).pending = s.pending ∧ (State.becomeReady s clean).mss.mem = s.mss.mem := by
  constructor <;> simp [State.becomeReady]

@[simp] theorem State.findCkpt_keeps (s : State) :
    (State.findCkpt s).pending = s.pending ∧ (State.findCkpt s).mss.mem = s.mss.mem := by
  constructor <;> (unfold State.findCkpt; repeat' (first | (simp; done) | split))

@[simp] theorem State.warnExposed_keeps (s : State) :
    s.warnExposed.pending = s.pending ∧ s.warnExposed.mss.mem = s.mss.mem := ⟨rfl, rfl⟩

@[simp] theorem State.selfTest_keeps (s : State) (env : StartEnv) :
    (State.selfTest s env).pending = s.pending ∧ (State.selfTest s env).mss.mem = s.mss.mem := by
  constructor <;> simp [State.selfTest]

@[simp] theorem State.bringMedia_keeps (s : State) (env : StartEnv) (powerOn : Bool) :
    (State.bringMedia s env powerOn).pending = s.pending ∧ (State.bringMedia s env powerOn).mss.mem = s.mss.mem := by
  constructor <;> simp [State.bringMedia]

@[simp] theorem State.stopped_keeps (s : State) : s.stopped.pending = s.pending ∧ s.stopped.mss.mem = s.mss.mem := ⟨rfl, rfl⟩

@[simp] theorem State.loadAndReplay_keeps (s : State) (env : StartEnv) (powerOn clean : Bool) :
    (State.loadAndReplay s env powerOn clean).pending = s.pending ∧ (State.loadAndReplay s env powerOn clean).mss.mem = s.mss.mem := by
  constructor <;> simp [State.loadAndReplay, ite_pending, ite_mem]

theorem State.start_clears (s : State) (env : StartEnv) (powerOn : Bool) (lastCold : Nat) : Clears s (s.start env powerOn lastCold) := by
  have h := State.coldEntry_clears s env powerOn lastCold
  rw [State.start]
  generalize s.coldEntry env powerOn lastCold = g at h ⊢
  dsimp only
  split
  · exact ⟨h.1, h.2⟩
  · split
    · exact ⟨h.1, h.2⟩
    · split
      · exact ⟨h.1, h.2⟩
      · split <;> constructor <;> simp [h.1, h.2]

@[simp] theorem State.cutDump_keeps (s : State) :
    (State.cutDump s).pending = s.pending ∧ (State.cutDump s).mss.mem = s.mss.mem := by
  constructor <;> (unfold State.cutDump; split <;> simp)

@[simp] theorem State.hold_keeps (s : State) :
    (State.hold s).pending = s.pending ∧ (State.hold s).mss.mem = s.mss.mem := by
  constructor <;> simp [State.hold]

theorem execPowerOnReset_keepsForm (env : StartEnv) (s : State) : KeepsForm s (execPowerOnReset env s) := by
  unfold execPowerOnReset
  split
  · exact (State.start_clears _ _ _ _).form rfl
  · exact Keeps.form (by simp)

theorem execDeviceReset_keepsForm (env : StartEnv) (s : State) : KeepsForm s (execDeviceReset env s) := by
  unfold execDeviceReset
  split
  · exact (State.start_clears _ _ _ _).form (by simp)
  · exact Keeps.form (by simp)

@[simp] theorem execPorstAssert_keeps (s : State) :
    Keeps s (execPorstAssert s) := by
  simp [execPorstAssert, ite_pending, ite_mem]

@[simp] theorem State.aonLost_keeps (s : State) :
    (State.aonLost s).pending = s.pending ∧ (State.aonLost s).mss.mem = s.mss.mem := by
  constructor <;> simp [State.aonLost]

@[simp] theorem State.railFault_keeps (s : State) :
    (State.railFault s).pending = s.pending ∧ (State.railFault s).mss.mem = s.mss.mem := by
  constructor <;> (unfold State.railFault; split <;> simp)

@[simp] theorem execSupplyUndervoltage_keeps (rail : Rail) (s : State) :
    Keeps s (execSupplyUndervoltage rail s) := by
  unfold execSupplyUndervoltage; rw [keeps_next]; constructor <;> repeat' (first | (simp [ite_pending, ite_mem]; done) | dsimp only | split)

theorem execPowerReturnAfterDump_keepsForm (env : StartEnv) (s : State) : KeepsForm s (execPowerReturnAfterDump env s) := by
  unfold execPowerReturnAfterDump
  split
  · exact (State.start_clears _ _ _ _).form (by simp)
  · exact Keeps.form (by simp)

theorem execSafeholdExpiry_keepsForm (env : StartEnv) (s : State) : KeepsForm s (execSafeholdExpiry env s) := by
  unfold execSafeholdExpiry
  dsimp only
  split
  · exact (State.start_clears _ _ _ _).form (by simp)
  · exact Keeps.form (by simp)

@[simp] theorem State.rstCtl_keeps (s : State) (v : W32) :
    (State.rstCtl s v).pending = s.pending ∧ (State.rstCtl s v).mss.mem = s.mss.mem := by
  constructor <;> simp [State.rstCtl, ite_pending, ite_mem]

@[simp] theorem execMgcRstctlShut_keeps (r : Requester) (s : State) :
    Keeps s (execMgcRstctlShut r s) := by
  simp [execMgcRstctlShut]

@[simp] theorem execMgcRstctlDevrst_keeps (r : Requester) (s : State) :
    Keeps s (execMgcRstctlDevrst r s) := by
  simp [execMgcRstctlDevrst]

@[simp] theorem State.quiesce_keeps (s : State) (d : Shutdown) :
    (State.quiesce s d).pending = s.pending ∧ (State.quiesce s d).mss.mem = s.mss.mem := by
  constructor <;> simp [State.quiesce]

@[simp] theorem execCleanShutdownComplete_keeps (s : State) :
    Keeps s (execCleanShutdownComplete s) := by
  unfold execCleanShutdownComplete; rw [keeps_next]; apply State.whenRuns_keeps; intros; constructor <;> repeat' (first | (simp; done) | dsimp only | split)

end Sys2Proof.Machine
end

