-- ==== Sys2Proof/Laws/KeepSide.lean ====
section
/-! SUPPORT. What the operations of Sideband leave alone: the queue of commands, and the bytes of DRAM memory where they do not store there. -/

namespace Sys2Proof.Machine

@[simp] theorem State.miSet_keeps (s : State) (id v : Nat) :
    (State.miSet s id v).1.pending = s.pending ∧ (State.miSet s id v).1.mss.mem = s.mss.mem := by
  constructor <;> (unfold State.miSet; repeat' (first | (simp; done) | dsimp only | split))

@[simp] theorem State.mi_keeps (s : State) (m : MiReq) :
    (State.mi s m).1.pending = s.pending ∧ (State.mi s m).1.mss.mem = s.mss.mem := by
  constructor <;> (unfold State.mi; repeat' (first | (simp; done) | dsimp only | split))

@[simp] theorem State.afterHandover_keeps (s : State) :
    (State.afterHandover s).pending = s.pending ∧ (State.afterHandover s).mss.mem = s.mss.mem := by
  constructor <;> simp [State.afterHandover]

@[simp] theorem State.miSide_keeps (s : State) (m : MiReq) :
    (State.miSide s m).pending = s.pending ∧ (State.miSide s m).mss.mem = s.mss.mem := by
  constructor <;> (unfold State.miSide; split <;> simp)

@[simp] theorem execReadNvmeMiDataStructure_keeps (dtyp : Nat) (s : State) :
    Keeps s (execReadNvmeMiDataStructure dtyp s) := by
  simp [execReadNvmeMiDataStructure]

@[simp] theorem execSubsystemHealthStatusPoll_keeps (clear : Bool) (s : State) :
    Keeps s (execSubsystemHealthStatusPoll clear s) := by
  simp [execSubsystemHealthStatusPoll]

@[simp] theorem execControllerHealthStatusPoll_keeps (start count : Nat) (clear : Bool) (s : State) :
    Keeps s (execControllerHealthStatusPoll start count clear s) := by
  simp [execControllerHealthStatusPoll]

@[simp] theorem execConfigurationSet_keeps (id value : Nat) (s : State) :
    Keeps s (execConfigurationSet id value s) := by
  simp [execConfigurationSet]

@[simp] theorem execConfigurationGet_keeps (id : Nat) (s : State) :
    Keeps s (execConfigurationGet id s) := by
  simp [execConfigurationGet]

@[simp] theorem execVpdRead_keeps (offset len : Nat) (s : State) :
    Keeps s (execVpdRead offset len s) := by
  simp [execVpdRead]

@[simp] theorem execVpdWrite_keeps (offset : Nat) (data : List Byte) (s : State) :
    Keeps s (execVpdWrite offset data s) := by
  simp [execVpdWrite]

@[simp] theorem State.miInBand_keeps (s : State) (c : Nat) (m : MiReq) :
    (State.miInBand s c m).pending = s.pending ∧ (State.miInBand s c m).mss.mem = s.mss.mem := by
  constructor <;> (unfold State.miInBand; split <;> simp)

@[simp] theorem execNvmeMiSend_keeps (a : AdminCmd) (m : MiReq) (s : State) :
    Keeps s (execNvmeMiSend a m s) := by
  simp [execNvmeMiSend]

@[simp] theorem execNvmeMiReceive_keeps (a : AdminCmd) (m : MiReq) (s : State) :
    Keeps s (execNvmeMiReceive a m s) := by
  simp [execNvmeMiReceive]

@[simp] theorem State.mctp_keeps (s : State) (m : MctpReq) :
    (State.mctp s m).1.pending = s.pending ∧ (State.mctp s m).1.mss.mem = s.mss.mem := by
  constructor <;> (unfold State.mctp; repeat' (first | (simp; done) | dsimp only | split))

@[simp] theorem execMctpControlMessage_keeps (m : MctpReq) (s : State) :
    Keeps s (execMctpControlMessage m s) := by
  unfold execMctpControlMessage; split <;> simp

@[simp] theorem execBasicManagementRead_keeps (offset len : Nat) (s : State) :
    Keeps s (execBasicManagementRead offset len s) := by
  unfold execBasicManagementRead; split <;> simp

@[simp] theorem State.ahDone_keeps (s : State) (result : Nat) (data : List Byte) :
    (State.ahDone s result data).pending = s.pending ∧ (State.ahDone s result data).mss.mem = s.mss.mem := by
  constructor <;> simp [State.ahDone]

@[simp] theorem State.ahTask_keeps (s : State) (code tag : Nat) (args : List Nat) (data : List Byte) (hardware write recovery : Bool)
    (go : State → State) (h : ∀ g, (go g).pending = g.pending ∧ (go g).mss.mem = g.mss.mem) :
    (s.ahTask code tag args data hardware write recovery go).pending = s.pending
      ∧ (s.ahTask code tag args data hardware write recovery go).mss.mem = s.mss.mem := by
  unfold State.ahTask
  dsimp only
  (repeat' split) <;> simp [h]

@[simp] theorem State.ahWaits_keeps (s : State) (code : Nat) :
    (State.ahWaits s code).pending = s.pending ∧ (State.ahWaits s code).mss.mem = s.mss.mem := by
  constructor <;> simp [State.ahWaits]

@[simp] theorem execAhnahHealthSummary_keeps (tag : Nat) (args : List Nat) (data : List Byte) (s : State) :
    Keeps s (execAhnahHealthSummary tag args data s) := by
  simp [execAhnahHealthSummary]

@[simp] theorem execAhnahRegisterRead_keeps (tag : Nat) (args : List Nat) (data : List Byte) (s : State) :
    Keeps s (execAhnahRegisterRead tag args data s) := by
  simp [execAhnahRegisterRead, ite_pending, ite_mem]

@[simp] theorem execAhnahEventRecordRead_keeps (tag : Nat) (args : List Nat) (data : List Byte) (s : State) :
    Keeps s (execAhnahEventRecordRead tag args data s) := by
  simp [execAhnahEventRecordRead, ite_pending, ite_mem]

@[simp] theorem execAhnahBootRecordRead_keeps (tag : Nat) (args : List Nat) (data : List Byte) (s : State) :
    Keeps s (execAhnahBootRecordRead tag args data s) := by
  unfold execAhnahBootRecordRead; rw [keeps_next]; apply State.ahTask_keeps; intros; constructor <;> repeat' (first | (simp; done) | dsimp only | split)

@[simp] theorem execAhnahSetInstanceShare_keeps (tag : Nat) (args : List Nat) (data : List Byte) (s : State) :
    Keeps s (execAhnahSetInstanceShare tag args data s) := by
  unfold execAhnahSetInstanceShare; split <;> simp

@[simp] theorem State.ahFeature_keeps (s : State) (code : Nat) (q : Sqe) (go : State → Nat → Ctx → State)
    (h : ∀ g c x, (go g c x).pending = g.pending ∧ (go g c x).mss.mem = g.mss.mem) :
    (s.ahFeature code q go).pending = s.pending ∧ (s.ahFeature code q go).mss.mem = s.mss.mem := by
  unfold State.ahFeature
  split
  · simp
  · next g c e =>
    have ht := State.takeSide_keeps e
    split
    · exact ht
    · simp [h, ht]

@[simp] theorem execAhnahSetNamespaceSize_keeps (tag : Nat) (args : List Nat) (data : List Byte) (s : State) :
    Keeps s (execAhnahSetNamespaceSize tag args data s) := by
  unfold execAhnahSetNamespaceSize; split <;> simp

@[simp] theorem execAhnahSetMediaMode_keeps (tag : Nat) (args : List Nat) (data : List Byte) (s : State) :
    Keeps s (execAhnahSetMediaMode tag args data s) := by
  unfold execAhnahSetMediaMode; split <;> simp

@[simp] theorem execAhnahPortConfigWrite_keeps (tag : Nat) (args : List Nat) (data : List Byte) (s : State) :
    Keeps s (execAhnahPortConfigWrite tag args data s) := by
  simp [execAhnahPortConfigWrite, ite_pending, ite_mem]

@[simp] theorem execAhnahImageWrite_keeps (tag : Nat) (args : List Nat) (data : List Byte) (s : State) :
    Keeps s (execAhnahImageWrite tag args data s) := by
  unfold execAhnahImageWrite; rw [keeps_next]; apply State.ahTask_keeps; intros; constructor <;> repeat' (first | (simp; done) | dsimp only | split)

@[simp] theorem State.recoveryCommit_keeps (s : State) (ok : Bool) :
    (State.recoveryCommit s ok).pending = s.pending ∧ (State.recoveryCommit s ok).mss.mem = s.mss.mem := by
  constructor <;> (unfold State.recoveryCommit; split <;> simp)

@[simp] theorem execAhnahImageCommit_keeps (tag : Nat) (args : List Nat) (data : List Byte) (s : State) :
    Keeps s (execAhnahImageCommit tag args data s) := by
  simp [execAhnahImageCommit, ite_pending, ite_mem]

@[simp] theorem execAhnahCleanShutdown_keeps (tag : Nat) (args : List Nat) (data : List Byte) (s : State) :
    Keeps s (execAhnahCleanShutdown tag args data s) := by
  simp [execAhnahCleanShutdown, ite_pending, ite_mem]

end Sys2Proof.Machine
end

