-- ==== Sys2Proof/Laws/KeepRegs.lean ====
section
/-! SUPPORT. What the operations of RegisterWrite leave alone: the queue of commands, and the bytes of DRAM memory where they do not store there. -/

namespace Sys2Proof.Machine

theorem State.csrEffect_keepsForm (old : State) (r : Requester) (reg : Reg) (v : W32) (g : State) :
    (old.csrEffect r reg v g).pending = g.pending ∧ (g.mss.mem.wf = true → (old.csrEffect r reg v g).mss.mem.wf = true) := by
  unfold State.csrEffect
  split
  case h_5 => exact State.clearGo_keepsForm _ _
  all_goals first | (split <;> simp) | simp

theorem Keeps.taken {s : State} {o : Host.Outcome State Fault Refusal} (h : Keeps s o) :
    (match o with | .next t => t | _ => s).pending = s.pending ∧ (match o with | .next t => t | _ => s).mss.mem = s.mss.mem := by
  cases o with
  | next t => exact h t rfl
  | fault f => exact ⟨rfl, rfl⟩
  | refused r => exact ⟨rfl, rfl⟩

theorem State.ahOutcome_keeps (s : State) (code tag : Nat) (args : List Nat) (data : List Byte) : Keeps s (s.ahOutcome code tag args data) := by
  unfold State.ahOutcome
  split <;> first | (rw [keeps_next]; split <;> simp) | simp

@[simp] theorem State.ahGo_keeps (s : State) (code tag : Nat) (args : List Nat) (data : List Byte) :
    (State.ahGo s code tag args data).pending = s.pending ∧ (State.ahGo s code tag args data).mss.mem = s.mss.mem :=
  (State.ahOutcome_keeps s code tag args data).taken

@[simp] theorem State.ahWrite_keeps (s : State) (i v : Nat) :
    (State.ahWrite s i v).pending = s.pending ∧ (State.ahWrite s i v).mss.mem = s.mss.mem := by
  constructor <;> (unfold State.ahWrite; repeat' (first | (simp; done) | dsimp only | split))

theorem execRegisterWrite_keepsForm (r : Requester) (addr width v : Nat) (s : State) : KeepsForm s (execRegisterWrite r addr width v s) := by
  unfold execRegisterWrite
  rw [keepsForm_next]
  repeat' (first | (simp; done) | split)
  exact State.csrWrite_keepsForm _ _ _ _ _ fun g => State.csrEffect_keepsForm _ _ _ _ _

end Sys2Proof.Machine
end

