-- ==== Sys2Proof/Laws/State.lean ====
section
/-! SUPPORT. What each field of the state holds after each of its plain updates. -/

namespace Sys2Proof.Machine

/-! ## emit -/

@[simp] theorem State.emit_hfu (s : State) (o : Output) : (s.emit o).hfu = s.hfu := rfl
@[simp] theorem State.emit_qce (s : State) (o : Output) : (s.emit o).qce = s.qce := rfl
@[simp] theorem State.emit_tas (s : State) (o : Output) : (s.emit o).tas = s.tas := rfl
@[simp] theorem State.emit_fl (s : State) (o : Output) : (s.emit o).fl = s.fl := rfl
@[simp] theorem State.emit_mss (s : State) (o : Output) : (s.emit o).mss = s.mss := rfl
@[simp] theorem State.emit_sec (s : State) (o : Output) : (s.emit o).sec = s.sec := rfl
@[simp] theorem State.emit_mgc (s : State) (o : Output) : (s.emit o).mgc = s.mgc := rfl
@[simp] theorem State.emit_ptm (s : State) (o : Output) : (s.emit o).ptm = s.ptm := rfl
@[simp] theorem State.emit_fev (s : State) (o : Output) : (s.emit o).fev = s.fev := rfl
@[simp] theorem State.emit_clock (s : State) (o : Output) : (s.emit o).clock = s.clock := rfl
@[simp] theorem State.emit_part (s : State) (o : Output) : (s.emit o).part = s.part := rfl
@[simp] theorem State.emit_straps (s : State) (o : Output) : (s.emit o).straps = s.straps := rfl
@[simp] theorem State.emit_porst (s : State) (o : Output) : (s.emit o).porst = s.porst := rfl
@[simp] theorem State.emit_fetchPaused (s : State) (o : Output) : (s.emit o).fetchPaused = s.fetchPaused := rfl
@[simp] theorem State.emit_health (s : State) (o : Output) : (s.emit o).health = s.health := rfl
@[simp] theorem State.emit_hist (s : State) (o : Output) : (s.emit o).hist = s.hist := rfl
@[simp] theorem State.emit_free (s : State) (o : Output) : (s.emit o).free = s.free := rfl
@[simp] theorem State.emit_pending (s : State) (o : Output) : (s.emit o).pending = s.pending := rfl
@[simp] theorem State.emit_out (s : State) (o : Output) : (s.emit o).out = o :: s.out := rfl

/-! ## emits -/

@[simp] theorem State.emits_hfu (s : State) (os : List Output) : (s.emits os).hfu = s.hfu := rfl
@[simp] theorem State.emits_qce (s : State) (os : List Output) : (s.emits os).qce = s.qce := rfl
@[simp] theorem State.emits_tas (s : State) (os : List Output) : (s.emits os).tas = s.tas := rfl
@[simp] theorem State.emits_fl (s : State) (os : List Output) : (s.emits os).fl = s.fl := rfl
@[simp] theorem State.emits_mss (s : State) (os : List Output) : (s.emits os).mss = s.mss := rfl
@[simp] theorem State.emits_sec (s : State) (os : List Output) : (s.emits os).sec = s.sec := rfl
@[simp] theorem State.emits_mgc (s : State) (os : List Output) : (s.emits os).mgc = s.mgc := rfl
@[simp] theorem State.emits_ptm (s : State) (os : List Output) : (s.emits os).ptm = s.ptm := rfl
@[simp] theorem State.emits_fev (s : State) (os : List Output) : (s.emits os).fev = s.fev := rfl
@[simp] theorem State.emits_clock (s : State) (os : List Output) : (s.emits os).clock = s.clock := rfl
@[simp] theorem State.emits_part (s : State) (os : List Output) : (s.emits os).part = s.part := rfl
@[simp] theorem State.emits_straps (s : State) (os : List Output) : (s.emits os).straps = s.straps := rfl
@[simp] theorem State.emits_porst (s : State) (os : List Output) : (s.emits os).porst = s.porst := rfl
@[simp] theorem State.emits_fetchPaused (s : State) (os : List Output) : (s.emits os).fetchPaused = s.fetchPaused := rfl
@[simp] theorem State.emits_health (s : State) (os : List Output) : (s.emits os).health = s.health := rfl
@[simp] theorem State.emits_hist (s : State) (os : List Output) : (s.emits os).hist = s.hist := rfl
@[simp] theorem State.emits_free (s : State) (os : List Output) : (s.emits os).free = s.free := rfl
@[simp] theorem State.emits_pending (s : State) (os : List Output) : (s.emits os).pending = s.pending := rfl
@[simp] theorem State.emits_out (s : State) (os : List Output) : (s.emits os).out = os.reverse ++ s.out := rfl

/-! ## withFl -/

@[simp] theorem State.withFl_hfu (s : State) (f : Flash) : (s.withFl f).hfu = s.hfu := rfl
@[simp] theorem State.withFl_qce (s : State) (f : Flash) : (s.withFl f).qce = s.qce := rfl
@[simp] theorem State.withFl_tas (s : State) (f : Flash) : (s.withFl f).tas = s.tas := rfl
@[simp] theorem State.withFl_fl (s : State) (f : Flash) : (s.withFl f).fl = f := rfl
@[simp] theorem State.withFl_mss (s : State) (f : Flash) : (s.withFl f).mss = s.mss := rfl
@[simp] theorem State.withFl_sec (s : State) (f : Flash) : (s.withFl f).sec = s.sec := rfl
@[simp] theorem State.withFl_mgc (s : State) (f : Flash) : (s.withFl f).mgc = s.mgc := rfl
@[simp] theorem State.withFl_ptm (s : State) (f : Flash) : (s.withFl f).ptm = s.ptm := rfl
@[simp] theorem State.withFl_fev (s : State) (f : Flash) : (s.withFl f).fev = s.fev := rfl
@[simp] theorem State.withFl_clock (s : State) (f : Flash) : (s.withFl f).clock = s.clock := rfl
@[simp] theorem State.withFl_part (s : State) (f : Flash) : (s.withFl f).part = s.part := rfl
@[simp] theorem State.withFl_straps (s : State) (f : Flash) : (s.withFl f).straps = s.straps := rfl
@[simp] theorem State.withFl_porst (s : State) (f : Flash) : (s.withFl f).porst = s.porst := rfl
@[simp] theorem State.withFl_fetchPaused (s : State) (f : Flash) : (s.withFl f).fetchPaused = s.fetchPaused := rfl
@[simp] theorem State.withFl_health (s : State) (f : Flash) : (s.withFl f).health = s.health := rfl
@[simp] theorem State.withFl_hist (s : State) (f : Flash) : (s.withFl f).hist = s.hist := rfl
@[simp] theorem State.withFl_free (s : State) (f : Flash) : (s.withFl f).free = s.free := rfl
@[simp] theorem State.withFl_pending (s : State) (f : Flash) : (s.withFl f).pending = s.pending := rfl
@[simp] theorem State.withFl_out (s : State) (f : Flash) : (s.withFl f).out = s.out := rfl

/-! ## until' -/

@[simp] theorem State.until'_hfu (s : State) (t : Nat) : (s.until' t).hfu = s.hfu := rfl
@[simp] theorem State.until'_qce (s : State) (t : Nat) : (s.until' t).qce = s.qce := rfl
@[simp] theorem State.until'_tas (s : State) (t : Nat) : (s.until' t).tas = s.tas := rfl
@[simp] theorem State.until'_fl (s : State) (t : Nat) : (s.until' t).fl = s.fl := rfl
@[simp] theorem State.until'_mss (s : State) (t : Nat) : (s.until' t).mss = s.mss := rfl
@[simp] theorem State.until'_sec (s : State) (t : Nat) : (s.until' t).sec = s.sec := rfl
@[simp] theorem State.until'_mgc (s : State) (t : Nat) : (s.until' t).mgc = s.mgc := rfl
@[simp] theorem State.until'_ptm (s : State) (t : Nat) : (s.until' t).ptm = s.ptm := rfl
@[simp] theorem State.until'_fev (s : State) (t : Nat) : (s.until' t).fev = s.fev := rfl
@[simp] theorem State.until'_clock (s : State) (t : Nat) : (s.until' t).clock = s.clock.pass (t - s.clock.now) s.fetchPaused := rfl
@[simp] theorem State.until'_part (s : State) (t : Nat) : (s.until' t).part = s.part := rfl
@[simp] theorem State.until'_straps (s : State) (t : Nat) : (s.until' t).straps = s.straps := rfl
@[simp] theorem State.until'_porst (s : State) (t : Nat) : (s.until' t).porst = s.porst := rfl
@[simp] theorem State.until'_fetchPaused (s : State) (t : Nat) : (s.until' t).fetchPaused = s.fetchPaused := rfl
@[simp] theorem State.until'_health (s : State) (t : Nat) : (s.until' t).health = s.health := rfl
@[simp] theorem State.until'_hist (s : State) (t : Nat) : (s.until' t).hist = s.hist := rfl
@[simp] theorem State.until'_free (s : State) (t : Nat) : (s.until' t).free = s.free := rfl
@[simp] theorem State.until'_pending (s : State) (t : Nat) : (s.until' t).pending = s.pending := rfl
@[simp] theorem State.until'_out (s : State) (t : Nat) : (s.until' t).out = s.out := rfl

/-! ## tick -/

@[simp] theorem State.tick_hfu (s : State) : (s.tick).hfu = s.hfu := rfl
@[simp] theorem State.tick_qce (s : State) : (s.tick).qce = s.qce := rfl
@[simp] theorem State.tick_tas (s : State) : (s.tick).tas = s.tas := rfl
@[simp] theorem State.tick_fl (s : State) : (s.tick).fl = s.fl := rfl
@[simp] theorem State.tick_mss (s : State) : (s.tick).mss = s.mss := rfl
@[simp] theorem State.tick_sec (s : State) : (s.tick).sec = s.sec := rfl
@[simp] theorem State.tick_mgc (s : State) : (s.tick).mgc = s.mgc := rfl
@[simp] theorem State.tick_ptm (s : State) : (s.tick).ptm = s.ptm := rfl
@[simp] theorem State.tick_fev (s : State) : (s.tick).fev = s.fev := rfl
@[simp] theorem State.tick_clock (s : State) : (s.tick).clock = s.clock.pass 1 s.fetchPaused := rfl
@[simp] theorem State.tick_part (s : State) : (s.tick).part = s.part := rfl
@[simp] theorem State.tick_straps (s : State) : (s.tick).straps = s.straps := rfl
@[simp] theorem State.tick_porst (s : State) : (s.tick).porst = s.porst := rfl
@[simp] theorem State.tick_fetchPaused (s : State) : (s.tick).fetchPaused = s.fetchPaused := rfl
@[simp] theorem State.tick_health (s : State) : (s.tick).health = s.health := rfl
@[simp] theorem State.tick_hist (s : State) : (s.tick).hist = s.hist := rfl
@[simp] theorem State.tick_free (s : State) : (s.tick).free = s.free := rfl
@[simp] theorem State.tick_pending (s : State) : (s.tick).pending = s.pending := rfl
@[simp] theorem State.tick_out (s : State) : (s.tick).out = s.out := rfl

/-! ## setCtx -/

@[simp] theorem State.setCtx_hfu (s : State) (c : Nat) (x : Ctx) : (s.setCtx c x).hfu = s.hfu := rfl
@[simp] theorem State.setCtx_qce (s : State) (c : Nat) (x : Ctx) : (s.setCtx c x).qce = { s.qce with ctxs := Tab.set s.qce.ctxs c x } := rfl
@[simp] theorem State.setCtx_tas (s : State) (c : Nat) (x : Ctx) : (s.setCtx c x).tas = s.tas := rfl
@[simp] theorem State.setCtx_fl (s : State) (c : Nat) (x : Ctx) : (s.setCtx c x).fl = s.fl := rfl
@[simp] theorem State.setCtx_mss (s : State) (c : Nat) (x : Ctx) : (s.setCtx c x).mss = s.mss := rfl
@[simp] theorem State.setCtx_sec (s : State) (c : Nat) (x : Ctx) : (s.setCtx c x).sec = s.sec := rfl
@[simp] theorem State.setCtx_mgc (s : State) (c : Nat) (x : Ctx) : (s.setCtx c x).mgc = s.mgc := rfl
@[simp] theorem State.setCtx_ptm (s : State) (c : Nat) (x : Ctx) : (s.setCtx c x).ptm = s.ptm := rfl
@[simp] theorem State.setCtx_fev (s : State) (c : Nat) (x : Ctx) : (s.setCtx c x).fev = s.fev := rfl
@[simp] theorem State.setCtx_clock (s : State) (c : Nat) (x : Ctx) : (s.setCtx c x).clock = s.clock := rfl
@[simp] theorem State.setCtx_part (s : State) (c : Nat) (x : Ctx) : (s.setCtx c x).part = s.part := rfl
@[simp] theorem State.setCtx_straps (s : State) (c : Nat) (x : Ctx) : (s.setCtx c x).straps = s.straps := rfl
@[simp] theorem State.setCtx_porst (s : State) (c : Nat) (x : Ctx) : (s.setCtx c x).porst = s.porst := rfl
@[simp] theorem State.setCtx_fetchPaused (s : State) (c : Nat) (x : Ctx) : (s.setCtx c x).fetchPaused = s.fetchPaused := rfl
@[simp] theorem State.setCtx_health (s : State) (c : Nat) (x : Ctx) : (s.setCtx c x).health = s.health := rfl
@[simp] theorem State.setCtx_hist (s : State) (c : Nat) (x : Ctx) : (s.setCtx c x).hist = s.hist := rfl
@[simp] theorem State.setCtx_free (s : State) (c : Nat) (x : Ctx) : (s.setCtx c x).free = s.free := rfl
@[simp] theorem State.setCtx_pending (s : State) (c : Nat) (x : Ctx) : (s.setCtx c x).pending = s.pending := rfl
@[simp] theorem State.setCtx_out (s : State) (c : Nat) (x : Ctx) : (s.setCtx c x).out = s.out := rfl

/-! ## updCtx -/

@[simp] theorem State.updCtx_hfu (s : State) (c : Nat) (f : Ctx → Ctx) : (s.updCtx c f).hfu = s.hfu := rfl
@[simp] theorem State.updCtx_qce (s : State) (c : Nat) (f : Ctx → Ctx) : (s.updCtx c f).qce = s.qce.updCtx c f := rfl
@[simp] theorem State.updCtx_tas (s : State) (c : Nat) (f : Ctx → Ctx) : (s.updCtx c f).tas = s.tas := rfl
@[simp] theorem State.updCtx_fl (s : State) (c : Nat) (f : Ctx → Ctx) : (s.updCtx c f).fl = s.fl := rfl
@[simp] theorem State.updCtx_mss (s : State) (c : Nat) (f : Ctx → Ctx) : (s.updCtx c f).mss = s.mss := rfl
@[simp] theorem State.updCtx_sec (s : State) (c : Nat) (f : Ctx → Ctx) : (s.updCtx c f).sec = s.sec := rfl
@[simp] theorem State.updCtx_mgc (s : State) (c : Nat) (f : Ctx → Ctx) : (s.updCtx c f).mgc = s.mgc := rfl
@[simp] theorem State.updCtx_ptm (s : State) (c : Nat) (f : Ctx → Ctx) : (s.updCtx c f).ptm = s.ptm := rfl
@[simp] theorem State.updCtx_fev (s : State) (c : Nat) (f : Ctx → Ctx) : (s.updCtx c f).fev = s.fev := rfl
@[simp] theorem State.updCtx_clock (s : State) (c : Nat) (f : Ctx → Ctx) : (s.updCtx c f).clock = s.clock := rfl
@[simp] theorem State.updCtx_part (s : State) (c : Nat) (f : Ctx → Ctx) : (s.updCtx c f).part = s.part := rfl
@[simp] theorem State.updCtx_straps (s : State) (c : Nat) (f : Ctx → Ctx) : (s.updCtx c f).straps = s.straps := rfl
@[simp] theorem State.updCtx_porst (s : State) (c : Nat) (f : Ctx → Ctx) : (s.updCtx c f).porst = s.porst := rfl
@[simp] theorem State.updCtx_fetchPaused (s : State) (c : Nat) (f : Ctx → Ctx) : (s.updCtx c f).fetchPaused = s.fetchPaused := rfl
@[simp] theorem State.updCtx_health (s : State) (c : Nat) (f : Ctx → Ctx) : (s.updCtx c f).health = s.health := rfl
@[simp] theorem State.updCtx_hist (s : State) (c : Nat) (f : Ctx → Ctx) : (s.updCtx c f).hist = s.hist := rfl
@[simp] theorem State.updCtx_free (s : State) (c : Nat) (f : Ctx → Ctx) : (s.updCtx c f).free = s.free := rfl
@[simp] theorem State.updCtx_pending (s : State) (c : Nat) (f : Ctx → Ctx) : (s.updCtx c f).pending = s.pending := rfl
@[simp] theorem State.updCtx_out (s : State) (c : Nat) (f : Ctx → Ctx) : (s.updCtx c f).out = s.out := rfl

/-! ## notify -/

@[simp] theorem State.notify_hfu (s : State) (i : Nat) (e : AsyncEvent) : (s.notify i e).hfu = s.hfu := rfl
@[simp] theorem State.notify_qce (s : State) (i : Nat) (e : AsyncEvent) : (s.notify i e).qce = s.qce.raise i e := rfl
@[simp] theorem State.notify_tas (s : State) (i : Nat) (e : AsyncEvent) : (s.notify i e).tas = s.tas := rfl
@[simp] theorem State.notify_fl (s : State) (i : Nat) (e : AsyncEvent) : (s.notify i e).fl = s.fl := rfl
@[simp] theorem State.notify_mss (s : State) (i : Nat) (e : AsyncEvent) : (s.notify i e).mss = s.mss := rfl
@[simp] theorem State.notify_sec (s : State) (i : Nat) (e : AsyncEvent) : (s.notify i e).sec = s.sec := rfl
@[simp] theorem State.notify_mgc (s : State) (i : Nat) (e : AsyncEvent) : (s.notify i e).mgc = s.mgc := rfl
@[simp] theorem State.notify_ptm (s : State) (i : Nat) (e : AsyncEvent) : (s.notify i e).ptm = s.ptm := rfl
@[simp] theorem State.notify_fev (s : State) (i : Nat) (e : AsyncEvent) : (s.notify i e).fev = s.fev := rfl
@[simp] theorem State.notify_clock (s : State) (i : Nat) (e : AsyncEvent) : (s.notify i e).clock = s.clock := rfl
@[simp] theorem State.notify_part (s : State) (i : Nat) (e : AsyncEvent) : (s.notify i e).part = s.part := rfl
@[simp] theorem State.notify_straps (s : State) (i : Nat) (e : AsyncEvent) : (s.notify i e).straps = s.straps := rfl
@[simp] theorem State.notify_porst (s : State) (i : Nat) (e : AsyncEvent) : (s.notify i e).porst = s.porst := rfl
@[simp] theorem State.notify_fetchPaused (s : State) (i : Nat) (e : AsyncEvent) : (s.notify i e).fetchPaused = s.fetchPaused := rfl
@[simp] theorem State.notify_health (s : State) (i : Nat) (e : AsyncEvent) : (s.notify i e).health = s.health := rfl
@[simp] theorem State.notify_hist (s : State) (i : Nat) (e : AsyncEvent) : (s.notify i e).hist = s.hist := rfl
@[simp] theorem State.notify_free (s : State) (i : Nat) (e : AsyncEvent) : (s.notify i e).free = s.free := rfl
@[simp] theorem State.notify_pending (s : State) (i : Nat) (e : AsyncEvent) : (s.notify i e).pending = s.pending := rfl
@[simp] theorem State.notify_out (s : State) (i : Nat) (e : AsyncEvent) : (s.notify i e).out = s.out := rfl

/-! ## notifyAll -/

@[simp] theorem State.notifyAll_hfu (s : State) (e : AsyncEvent) : (s.notifyAll e).hfu = s.hfu := rfl
@[simp] theorem State.notifyAll_qce (s : State) (e : AsyncEvent) : (s.notifyAll e).qce = s.qce.raiseAll e := rfl
@[simp] theorem State.notifyAll_tas (s : State) (e : AsyncEvent) : (s.notifyAll e).tas = s.tas := rfl
@[simp] theorem State.notifyAll_fl (s : State) (e : AsyncEvent) : (s.notifyAll e).fl = s.fl := rfl
@[simp] theorem State.notifyAll_mss (s : State) (e : AsyncEvent) : (s.notifyAll e).mss = s.mss := rfl
@[simp] theorem State.notifyAll_sec (s : State) (e : AsyncEvent) : (s.notifyAll e).sec = s.sec := rfl
@[simp] theorem State.notifyAll_mgc (s : State) (e : AsyncEvent) : (s.notifyAll e).mgc = s.mgc := rfl
@[simp] theorem State.notifyAll_ptm (s : State) (e : AsyncEvent) : (s.notifyAll e).ptm = s.ptm := rfl
@[simp] theorem State.notifyAll_fev (s : State) (e : AsyncEvent) : (s.notifyAll e).fev = s.fev := rfl
@[simp] theorem State.notifyAll_clock (s : State) (e : AsyncEvent) : (s.notifyAll e).clock = s.clock := rfl
@[simp] theorem State.notifyAll_part (s : State) (e : AsyncEvent) : (s.notifyAll e).part = s.part := rfl
@[simp] theorem State.notifyAll_straps (s : State) (e : AsyncEvent) : (s.notifyAll e).straps = s.straps := rfl
@[simp] theorem State.notifyAll_porst (s : State) (e : AsyncEvent) : (s.notifyAll e).porst = s.porst := rfl
@[simp] theorem State.notifyAll_fetchPaused (s : State) (e : AsyncEvent) : (s.notifyAll e).fetchPaused = s.fetchPaused := rfl
@[simp] theorem State.notifyAll_health (s : State) (e : AsyncEvent) : (s.notifyAll e).health = s.health := rfl
@[simp] theorem State.notifyAll_hist (s : State) (e : AsyncEvent) : (s.notifyAll e).hist = s.hist := rfl
@[simp] theorem State.notifyAll_free (s : State) (e : AsyncEvent) : (s.notifyAll e).free = s.free := rfl
@[simp] theorem State.notifyAll_pending (s : State) (e : AsyncEvent) : (s.notifyAll e).pending = s.pending := rfl
@[simp] theorem State.notifyAll_out (s : State) (e : AsyncEvent) : (s.notifyAll e).out = s.out := rfl

end Sys2Proof.Machine
end

