-- ==== Sys2Proof/Laws/Tab.lean ====
section
/-! SUPPORT. Tables and register files: what a lookup gives after each update. -/

namespace Sys2Proof.Machine

/-! ## Tables -/

@[simp] theorem Tab.get?_nil {α : Type} (k : Nat) : Tab.get? ([] : Tab α) k = none := rfl

theorem Tab.get?_cons {α : Type} (j : Nat) (a : α) (t : Tab α) (k : Nat) :
    Tab.get? ((j, a) :: t) k = if j = k then some a else Tab.get? t k := rfl

/-- A lookup after a set. -/
theorem Tab.get?_set {α : Type} (t : Tab α) (k j : Nat) (a : α) : Tab.get? (Tab.set t k a) j = if j = k then some a else Tab.get? t j := by
  induction t with
  | nil => simp [Tab.set, Tab.get?, eq_comm]
  | cons e t ih =>
    obtain ⟨i, b⟩ := e
    simp only [Tab.set]
    split
    · next h =>
      subst h
      by_cases hj : j = i
      · simp [Tab.get?, hj]
      · simp [Tab.get?, hj, Ne.symm hj]
    · next h =>
      split
      · by_cases hj : j = k
        · simp [Tab.get?, hj]
        · simp [Tab.get?, hj, Ne.symm hj]
      · simp only [Tab.get?, ih]
        by_cases hij : i = j
        · subst hij; simp [h]
        · simp [hij]

@[simp] theorem Tab.get?_set_self {α : Type} (t : Tab α) (k : Nat) (a : α) : Tab.get? (Tab.set t k a) k = some a := by simp [Tab.get?_set]

theorem Tab.get?_set_ne {α : Type} (t : Tab α) {k j : Nat} (a : α) (h : j ≠ k) : Tab.get? (Tab.set t k a) j = Tab.get? t j := by
  simp [Tab.get?_set, h]

@[simp] theorem Tab.getD_set_self {α : Type} (t : Tab α) (k : Nat) (a d : α) : Tab.getD (Tab.set t k a) k d = a := by simp [Tab.getD]

/-- A lookup after an update. -/
theorem Tab.get?_upd {α : Type} (t : Tab α) (k j : Nat) (f : α → α) :
    Tab.get? (Tab.upd t k f) j = if j = k then (Tab.get? t j).map f else Tab.get? t j := by
  induction t with
  | nil => simp [Tab.upd]
  | cons e t ih =>
    obtain ⟨i, b⟩ := e
    unfold Tab.upd at ih ⊢
    simp only [List.map_cons]
    by_cases hik : i = k
    · subst hik
      simp only [if_true, Tab.get?_cons, ih]
      by_cases hij : i = j
      · subst hij; simp
      · simp [hij, Ne.symm hij]
    · simp only [if_neg hik, Tab.get?_cons, ih]
      by_cases hij : i = j
      · subst hij; simp [hik]
      · simp [hij]

/-- A lookup after an erase. -/
theorem Tab.get?_erase {α : Type} (t : Tab α) (k j : Nat) : Tab.get? (Tab.erase t k) j = if j = k then none else Tab.get? t j := by
  induction t with
  | nil => simp [Tab.erase]
  | cons e t ih =>
    obtain ⟨i, b⟩ := e
    unfold Tab.erase at ih ⊢
    rw [List.filter_cons]
    by_cases hik : i = k
    · subst hik
      simp only [bne_self_eq_false, Bool.false_eq_true, if_false, ih, Tab.get?_cons]
      by_cases hij : i = j
      · subst hij; simp
      · simp [hij, Ne.symm hij]
    · simp only [bne_iff_ne, ne_eq, hik, not_false_eq_true, if_true, Tab.get?_cons, ih]
      by_cases hij : i = j
      · subst hij; simp [hik]
      · simp [hij]

/-- A lookup in a table whose values are changed. -/
theorem Tab.get?_mapVals {α β : Type} (t : Tab α) (f : Nat → α → β) (k : Nat) : Tab.get? (Tab.mapVals t f) k = (Tab.get? t k).map (f k) := by
  induction t with
  | nil => rfl
  | cons e t ih =>
    obtain ⟨i, b⟩ := e
    unfold Tab.mapVals at ih ⊢
    simp only [List.map_cons, Tab.get?_cons, ih]
    by_cases hij : i = k
    · subst hij; simp
    · simp [hij]

/-! ## Register files -/

/-- A register after a set. -/
theorem RegFile.get_set (rf : RegFile) (r q : Reg) (w : W32) : (rf.set r w).get q = if q = r then w else rf.get q := by
  induction rf with
  | nil => simp only [RegFile.set, RegFile.get, eq_comm]
  | cons e rf ih =>
    obtain ⟨p, v⟩ := e
    simp only [RegFile.set]
    by_cases hp : p = r
    · subst hp
      by_cases hq : q = p
      · subst hq; simp [RegFile.get]
      · simp [RegFile.get, hq, Ne.symm hq]
    · simp only [if_neg hp, RegFile.get, ih]
      by_cases hq : p = q
      · subst hq; simp [hp]
      · simp [hq]

@[simp] theorem RegFile.get_set_self (rf : RegFile) (r : Reg) (w : W32) : (rf.set r w).get r = w := by simp [RegFile.get_set]

theorem RegFile.get_set_ne (rf : RegFile) {r q : Reg} (w : W32) (h : q ≠ r) : (rf.set r w).get q = rf.get q := by simp [RegFile.get_set, h]

/-- A register after another's field is set. -/
theorem RegFile.get_setFld_ne (rf : RegFile) {r q : Reg} (hi lo v : Nat) (h : q ≠ r) : (rf.setFld r hi lo v).get q = rf.get q := by
  simp [RegFile.setFld, RegFile.get_set, h]

end Sys2Proof.Machine
end

