-- ==== Sys2Proof/Laws/Settle.lean ====
section
/-! SUPPORT. A calm device: where every context is at rest, settling changes nothing, and a checked command goes straight to admission. -/

namespace Sys2Proof.Machine

open Safety

theorem Tab.mem_set {α : Type} {t : Tab α} {k : Nat} {a : α} {e : Nat × α} (h : e ∈ Tab.set t k a) : e = (k, a) ∨ e ∈ t := by
  induction t with
  | nil => simpa [Tab.set] using h
  | cons p t ih =>
    obtain ⟨j, b⟩ := p
    simp only [Tab.set] at h
    split at h
    · rcases List.mem_cons.1 h with h | h
      · exact .inl h
      · exact .inr (List.mem_cons_of_mem _ h)
    · split at h
      · rcases List.mem_cons.1 h with h | h
        · exact .inl h
        · exact .inr h
      · rcases List.mem_cons.1 h with h | h
        · exact .inr (h ▸ List.mem_cons_self)
        · exact (ih h).imp id (List.mem_cons_of_mem _)

theorem Tab.has_false {α : Type} {t : Tab α} {k : Nat} : Tab.has t k = false ↔ ∀ e ∈ t, e.1 ≠ k := by
  induction t with
  | nil => simp [Tab.has]
  | cons p t ih =>
    obtain ⟨j, v⟩ := p
    by_cases h : j = k
    · simp [Tab.has, Tab.get?, h]
    · simp only [Tab.has, Tab.get?, h, if_false, List.mem_cons, forall_eq_or_imp, ne_eq, not_false_eq_true, true_and]
      exact ih

theorem Tab.firstFree_some {α : Type} {t : Tab α} {n lo k : Nat} (h : Tab.firstFree t lo n = some k) : Tab.has t k = false := by
  induction n generalizing lo with
  | zero => cases h
  | succ n ih =>
    rw [Tab.firstFree] at h
    split at h
    · exact ih h
    · next q => cases h; simpa using q

theorem Tab.firstFree_none {α : Type} {t : Tab α} {n lo : Nat} (h : Tab.firstFree t lo n = none) :
    ∀ k, lo ≤ k → k < lo + n → k ∈ t.map Prod.fst := by
  induction n generalizing lo with
  | zero => intro k h1 h2; omega
  | succ n ih =>
    rw [Tab.firstFree] at h
    split at h
    · next q =>
      intro k h1 h2
      by_cases e : k = lo
      · subst e
        by_contra hk
        have : Tab.has t k = false := Tab.has_false.2 fun e he q => hk (q ▸ List.mem_map_of_mem he)
        rw [this] at q; cases q
      · exact ih h k (by omega) (by omega)
    · cases h

/-- A table always has a free key among the first `length + 1`. -/
theorem Tab.firstFree_fresh {α : Type} (t : Tab α) : ∀ e ∈ t, e.1 ≠ (Tab.firstFree t 0 (t.length + 1)).getD 0 := by
  cases h : Tab.firstFree t 0 (t.length + 1) with
  | some k => exact Tab.has_false.1 (Tab.firstFree_some h)
  | none =>
    have hall := Tab.firstFree_none h
    have hsub : List.range (t.length + 1) ⊆ t.map Prod.fst := fun k hk => hall k (Nat.zero_le _) (by simpa using hk)
    have := (List.subperm_of_subset List.nodup_range hsub).length_le
    simp at this

theorem Tab.rising_iff {α : Type} (t : Tab α) : Tab.rising t = true ↔ (t.map Prod.fst).Pairwise (· < ·) := by
  induction t with
  | nil => simp [Tab.rising]
  | cons p t ih =>
    obtain ⟨j, a⟩ := p
    cases t with
    | nil => simp [Tab.rising]
    | cons q t =>
      obtain ⟨k, b⟩ := q
      simp only [Tab.rising, Bool.and_eq_true, decide_eq_true_eq, ih, List.map_cons, List.pairwise_cons, List.mem_cons, forall_eq_or_imp]
      constructor
      · rintro ⟨h1, h2, h3⟩
        exact ⟨⟨h1, fun x hx => h1.trans (h2 x hx)⟩, h2, h3⟩
      · rintro ⟨⟨h1, -⟩, h2, h3⟩
        exact ⟨h1, h2, h3⟩

theorem Tab.set_keys {α : Type} {t : Tab α} {k x : Nat} {a : α} (h : x ∈ (Tab.set t k a).map Prod.fst) : x = k ∨ x ∈ t.map Prod.fst := by
  obtain ⟨e, he, rfl⟩ := List.mem_map.1 h
  exact (Tab.mem_set he).imp (fun q => by rw [q]) fun q => List.mem_map_of_mem q

theorem Tab.rising_set {α : Type} {t : Tab α} (h : Tab.rising t = true) (k : Nat) (a : α) : Tab.rising (Tab.set t k a) = true := by
  rw [Tab.rising_iff] at h ⊢
  induction t with
  | nil => simp [Tab.set]
  | cons p t ih =>
    obtain ⟨j, b⟩ := p
    simp only [List.map_cons, List.pairwise_cons] at h
    simp only [Tab.set]
    split
    · next q => subst q; simpa using h
    · split
      · next q =>
        simp only [List.map_cons, List.pairwise_cons, List.mem_cons, forall_eq_or_imp]
        exact ⟨⟨q, fun x hx => q.trans (h.1 x hx)⟩, h⟩
      · next q1 q2 =>
        simp only [List.map_cons, List.pairwise_cons]
        refine ⟨fun x hx => ?_, ih h.2⟩
        rcases Tab.set_keys hx with rfl | hx
        · omega
        · exact h.1 x hx

theorem Tab.rising_upd {α : Type} {t : Tab α} (h : Tab.rising t = true) (k : Nat) (f : α → α) : Tab.rising (Tab.upd t k f) = true := by
  rw [Tab.rising_iff] at h ⊢
  have : (Tab.upd t k f).map Prod.fst = t.map Prod.fst := by
    rw [Tab.upd, List.map_map]
    apply List.map_congr_left
    intro e _
    simp only [Function.comp]
    split <;> rfl
  rwa [this]

theorem Tab.get?_of_mem {α : Type} {t : Tab α} {e : Nat × α} (h : Tab.rising t = true) (he : e ∈ t) : Tab.get? t e.1 = some e.2 := by
  rw [Tab.rising_iff] at h
  induction t with
  | nil => cases he
  | cons p t ih =>
    obtain ⟨j, b⟩ := p
    simp only [List.map_cons, List.pairwise_cons] at h
    rcases List.mem_cons.1 he with rfl | he
    · simp [Tab.get?]
    · have : j < e.1 := h.1 _ (List.mem_map_of_mem he)
      rw [Tab.get?, if_neg (by omega)]
      exact ih h.2 he

theorem Tab.mem_of_get? {α : Type} {t : Tab α} {k : Nat} {a : α} (h : Tab.get? t k = some a) : (k, a) ∈ t := by
  induction t with
  | nil => cases h
  | cons p t ih =>
    obtain ⟨j, b⟩ := p
    rw [Tab.get?] at h
    split at h
    · next q => cases h; rw [q]; exact List.mem_cons_self
    · exact List.mem_cons_of_mem _ (ih h)

theorem Tab.upd_eq_set {α : Type} {t : Tab α} {k : Nat} {a : α} {f : α → α} (h : Tab.rising t = true) (ha : Tab.get? t k = some a) :
    Tab.upd t k f = Tab.set t k (f a) := by
  rw [Tab.rising_iff] at h
  induction t with
  | nil => cases ha
  | cons p t ih =>
    obtain ⟨j, b⟩ := p
    simp only [List.map_cons, List.pairwise_cons] at h
    by_cases q : j = k
    · subst q
      simp only [Tab.get?, if_true, Option.some.injEq] at ha
      subst ha
      have hu : Tab.upd t j f = t := by
        rw [Tab.upd]
        conv_rhs => rw [← List.map_id t]
        apply List.map_congr_left
        intro e he
        have : j < e.1 := h.1 _ (List.mem_map_of_mem he)
        simp; omega
      rw [Tab.upd, List.map_cons, ← Tab.upd, hu]
      simp [Tab.set]
    · rw [Tab.get?, if_neg q] at ha
      rw [Tab.upd, List.map_cons, ← Tab.upd, ih h.2 ha]
      have : j < k := by
        have : Tab.get? t k = some a := ha
        clear ih
        induction t with
        | nil => cases this
        | cons r t ih2 =>
          obtain ⟨m, v⟩ := r
          simp only [Tab.get?] at this
          have hm : j < m := h.1 m (by simp)
          split at this
          · omega
          · exact ih2 this ⟨fun x hx => h.1 x (by simp only [List.map_cons, List.mem_cons]; exact .inr hx), (List.pairwise_cons.1 h.2).2⟩ this
      simp only [q, if_false, Tab.set]
      rw [if_neg (by omega)]

theorem Qce.setDone_rising {q : Qce} {c : Nat} {st : Status} (h : Tab.rising q.ctxs = true) : Tab.rising (q.setDone c st).ctxs = true :=
 by
  simp only [Qce.setDone, Qce.dropLocks, Qce.updCtx]
  exact Tab.rising_upd (Tab.rising_upd h c _) c _

theorem Qce.stalled_calm {q : Qce} (h : ∀ e ∈ q.ctxs, atRest e.2 = true) : q.stalled = [] := by
  have : (q.ctxs.filter fun e => e.2.state == .lockwait || (e.2.state == .data || e.2.state == .ordwait || e.2.state == .fw) && e.2.encrypted && !e.2.recorded
      || e.2.state == .fw && e.2.arrived) = [] := by
    rw [List.filter_eq_nil_iff]
    intro e he hp
    have := h e he
    simp only [atRest, Bool.not_eq_true', Bool.or_eq_false_iff] at this
    simp [this.1.1] at hp
  rw [Qce.stalled, this]; rfl

theorem State.sanitizeStart_calm {s : State} (h : s.sec.sanitize = none) : s.sanitizeStart = s := by simp [State.sanitizeStart, h]

theorem State.answerSide_calm {s : State} (h : ∀ e ∈ s.qce.ctxs, atRest e.2 = true) : s.answerSide = s := by
  have : (s.qce.ctxs.filter fun e => (e.2.side || e.2.detached) && e.2.state == .completing) = [] := by
    rw [List.filter_eq_nil_iff]
    intro e he hp
    have := h e he
    simp only [atRest, Bool.not_eq_true', Bool.or_eq_false_iff] at this
    simp [this.2] at hp
  rw [State.answerSide, this]; rfl

theorem State.settle_calm {s : State} (h : calm s) : s.settle = s := by
  rw [State.settle, Qce.stalled_calm h.2.1]
  rw [State.sanitizeStart_calm h.1, State.answerSide_calm h.2.1]

theorem calm_rlWait {s : State} (h : calm s) : ∀ e ∈ s.qce.ctxs, e.2.rlWait = false := by
  intro e he
  have := h.2.1 e he
  simp only [atRest, Bool.not_eq_true', Bool.or_eq_false_iff] at this
  exact this.1.2

theorem calm_setCtx {s : State} {c : Nat} {x : Ctx} (h : calm s) (hx : atRest x = true) : calm (s.setCtx c x) :=
  ⟨h.1, fun e he => (Tab.mem_set he).elim (fun q => q ▸ hx) (h.2.1 e), Tab.rising_set h.2.2 _ _⟩

theorem calm_of {s t : State} (h : calm s) (h1 : t.sec.sanitize = s.sec.sanitize) (h2 : t.qce.ctxs = s.qce.ctxs) : calm t := by
  refine ⟨h1.trans h.1, ?_⟩; rw [h2]; exact h.2

theorem fsnBefore_self (a : Nat) : fsnBefore a a = false := by simp [fsnBefore]

theorem Qce.blocked_free {q : Qce} {x : Ctx} (hr : ∀ e ∈ q.ctxs, e.2.rlWait = false)
    (hl : ∀ e ∈ q.locks, fsnBefore e.2.fsn x.fsn = false ∨ ∀ p ∈ x.spans, p.1 ≠ e.2.nsx) : q.blocked x = false := by
  simp only [Qce.blocked, Bool.or_eq_false_iff, List.any_eq_false]
  constructor
  · intro e he
    rcases hl e he with h | h
    · simp [h]
    · intro hc
      obtain ⟨p, hp, hq⟩ := List.any_eq_true.1 (Bool.and_eq_true _ _ ▸ hc).2
      simp only [Bool.and_eq_true, beq_iff_eq] at hq
      exact h p hp hq.1.symm
  · intro e he
    simp [hr e he]

theorem State.allotment_frame (s : State) (port : Nat) (f : Nat → Nat) :
    s.allotment port f = { s with hfu := { s.hfu with ports := (s.allotment port f).hfu.ports }, out := (s.allotment port f).out } := by
  unfold State.allotment
  split
  · rfl
  · dsimp only
    split <;> rfl

/-- What taking a command does (R81 to R83): its context is new and everything but queues, ports and what goes out stands. -/
theorem State.take_spec {s g : State} {inst sqid c : Nat} {k : Kind} {q : Sqe} (h : s.take inst sqid k q = some (g, c)) :
    ∃ x, g.qce.ctxs = Tab.set s.qce.ctxs c x ∧ x.kind = k ∧ x.inst = inst ∧ x.sqid = sqid ∧ x.sqe = q ∧ x.fsn = s.qce.fsn
      ∧ x.state = (if sqid = 0 then .fw else .fetched) ∧ x.rlWait = false ∧ x.side = false ∧ x.detached = false ∧ x.mods = [] ∧ x.rds = []
      ∧ x.recorded = false ∧ x.arrived = false ∧ x.encrypted = false ∧ x.nss = [] ∧ x.zone = none ∧ x.nsx = none ∧ x.fetchedAt = s.clock.now
      ∧ x.adm = (sqid == 0)
      ∧ g.qce.locks = s.qce.locks ∧ (∀ e ∈ s.qce.ctxs, e.1 ≠ c) ∧ s.fetches = true
      ∧ g = { s with hfu := { s.hfu with ports := g.hfu.ports }, qce := g.qce, out := g.out } := by
  unfold State.take at h
  split at h
  · dsimp only at h
    split at h
    · next hh =>
      simp only [Option.some.injEq, Prod.mk.injEq] at h
      obtain ⟨rfl, rfl⟩ := h
      rw [State.allotment_frame]
      refine ⟨_, rfl, rfl, rfl, rfl, rfl, rfl, rfl, rfl, rfl, rfl, rfl, rfl, rfl, rfl, rfl, rfl, rfl, rfl, rfl, rfl, rfl, Tab.firstFree_fresh _, ?_, rfl⟩
      simp only [Bool.and_eq_true] at hh
      exact hh.1.1.1.1
    · cases h
  · cases h

/-- A context as it enters ADMITWAIT (R88, R144). -/
theorem State.toAdmit_waits {s : State} {c : Nat} {x : Ctx} (h : s.qce.ctx? c = some x) (hk : x.kind ≠ .admin) (hc : (s.cost x).1 ≠ 0) :
    ∃ y m l, y = { x with state := .admitwait, admitWaitAt := s.clock.now, shutMark := m, lockTime := l }
      ∧ s.toAdmit c = { s with qce := { s.qce with ctxs := Tab.set s.qce.ctxs c y }, tas := (s.toAdmit c).tas } := by
  unfold State.toAdmit
  rw [h]
  simp only [beq_iff_eq, hk, if_false]
  rw [if_neg hc]
  exact ⟨_, _, _, rfl, rfl⟩

theorem Tab.set_set {α : Type} (t : Tab α) (k : Nat) (a b : α) : Tab.set (Tab.set t k a) k b = Tab.set t k b := by
  induction t with
  | nil => simp [Tab.set]
  | cons p t ih =>
    obtain ⟨j, v⟩ := p
    simp only [Tab.set]
    by_cases h : j = k
    · simp [h, Tab.set]
    · by_cases h2 : k < j
      · simp [h, h2, Tab.set]
      · simp [h, h2, Tab.set, ih]

theorem Tab.upd_set {α : Type} {t : Tab α} {k : Nat} {a : α} {f : α → α} (h : ∀ e ∈ t, e.1 ≠ k) :
    Tab.upd (Tab.set t k a) k f = Tab.set t k (f a) := by
  induction t with
  | nil => simp [Tab.set, Tab.upd]
  | cons p t ih =>
    obtain ⟨j, v⟩ := p
    have hj : j ≠ k := h (j, v) List.mem_cons_self
    have ht : ∀ e ∈ t, e.1 ≠ k := fun e he => h e (List.mem_cons_of_mem _ he)
    have hu : Tab.upd t k f = t := by
      rw [Tab.upd]
      conv_rhs => rw [← List.map_id t]
      apply List.map_congr_left
      intro e he
      simp [ht e he]
    simp only [Tab.set, hj, if_false]
    split
    · rw [Tab.upd, List.map_cons, List.map_cons, ← Tab.upd, hu]; simp [hj]
    · rw [Tab.upd, List.map_cons, ← Tab.upd, ih ht]; simp [hj]

/-- What a command costs reads the flash side, TAS, and what its context names (R144, R148). -/
theorem State.cost_of {s t : State} {x y : Ctx} (h1 : t.fl = s.fl) (h2 : t.tas = s.tas) (h3 : x.nsx = y.nsx) (h4 : x.kind = y.kind)
    (h5 : x.mods = y.mods) (h6 : x.rds = y.rds) (h7 : x.sqe = y.sqe) : t.cost x = s.cost y := by
  simp only [State.cost, h1, h2, h3, h4, h5, h6, h7]

theorem State.cost_setCtx (s : State) (c : Nat) (y z : Ctx) : (s.setCtx c y).cost z = s.cost z :=
  State.cost_of rfl rfl rfl rfl rfl rfl rfl

theorem Ns.perGranule_pos (n : Ns) : 0 < n.perGranule := by
  unfold Ns.perGranule Ns.blockBytes; split <;> decide

theorem Ns.units_pos (n : Ns) (lo len : Nat) : n.units [⟨lo, len + 1⟩] ≠ 0 := by
  have h := Ns.perGranule_pos n
  have h2 : 1 ≤ (len + 1 + n.perGranule - 1) / n.perGranule := (Nat.one_le_div_iff h).2 (by omega)
  simp only [Ns.units, ceilDiv, List.map_cons, List.map_nil, List.sum_cons, List.sum_nil, Nat.add_zero]
  omega

/-- The work of a reading command: a unit for each granule (R144). -/
theorem State.cost_reads {s : State} {x : Ctx} {n : Ns} {nsx : Nat} (hx : x.nsx = some nsx) (hn : s.fl.ns? nsx = some n)
    (hk : x.kind = .read ∨ x.kind = .compare ∨ x.kind = .verify) : (s.cost x).1 = n.units x.rds := by
  rcases hk with h | h | h <;> simp [State.cost, hx, hn, h]

theorem Ctx.reads_one {x : Ctx} {nsx : Nat} {sp : Span} (hx : x.nsx = some nsx) (hr : x.rds = [sp]) (h : sp.lo < 281474976710656) :
    x.reads = [(nsx, sp)] := by
  simp [Ctx.reads, hx, hr, h]

theorem Flash.attached_ns {f : Flash} {i nsid : Nat} {n : Ns} (h : f.attachedNs i nsid = some n) : f.ns? (nsid - 1) = some n := by
  unfold Flash.attachedNs at h
  split at h
  · cases h
  · exact (Option.filter_eq_some_iff.1 h).1

/-- A checked command meets no lock: it waits for admission (R88, R115). `z` is its context as its row leaves it. -/
theorem State.route_waits {s : State} {c : Nat} {z : Ctx} (hs : calm s) (hk : z.kind ≠ .admin)
    (hw : z.rlWait = false) (hd : z.side = false ∧ z.detached = false)
    (hl : ∀ e ∈ s.qce.locks, fsnBefore e.2.fsn z.fsn = false ∨ ∀ p ∈ z.spans, p.1 ≠ e.2.nsx)
    (hc : (s.cost z).1 ≠ 0) :
    ∃ m l, (s.setCtx c z).route c =
        { s with
          qce := { s.qce with ctxs := Tab.set s.qce.ctxs c { z with state := .admitwait, admitWaitAt := s.clock.now, shutMark := m, lockTime := l } }
          tas := ((s.setCtx c z).route c).tas }
      ∧ calm ((s.setCtx c z).route c) := by
  have h1 : (s.setCtx c z).qce.ctx? c = some z := by simp [State.setCtx, Qce.ctx?]
  have hb : (s.setCtx c z).qce.blocked z = false := by
    apply Qce.blocked_free
    · intro e he
      refine (Tab.mem_set he).elim (fun q => q ▸ hw) fun he => ?_
      have := hs.2.1 e he
      simp only [Safety.atRest, Bool.not_eq_true', Bool.or_eq_false_iff] at this
      exact this.1.2
    · intro e he
      exact hl e he
  have hr : (s.setCtx c z).route c = (s.setCtx c z).toAdmit c := by
    rw [State.route, h1]
    dsimp only
    rw [hw, hb, if_neg (by simp), if_neg (by simp)]
  obtain ⟨y, m, l, rfl, hy⟩ := State.toAdmit_waits h1 hk (State.cost_setCtx s c z z ▸ hc)
  refine ⟨m, l, ?_, ?_⟩
  · rw [hr, hy]
    simp [State.setCtx, Tab.set_set]
  · rw [hr, hy]
    refine ⟨hs.1, fun e he => ?_, by simp only [State.setCtx, Tab.set_set]; exact Tab.rising_set hs.2.2 _ _⟩
    simp only [State.setCtx, Tab.set_set] at he
    refine (Tab.mem_set he).elim (fun q => q ▸ ?_) (hs.2.1 e)
    simp [atRest, hw, hd.1, hd.2]

/-- A checked modifying command on one span takes its entry (R113). -/
theorem State.lockAndRoute_eq {s : State} {c nsx : Nat} {z : Ctx} {sp : Span} (hsp : z.lockSpans = [(nsx, sp)]) (hn : s.qce.locks.length < 262144)
    (hw : ∀ e ∈ s.qce.ctxs, e.2.rlWait = false)
    (hup : ∀ f, Tab.upd (Tab.set s.qce.ctxs c z) c f = Tab.set s.qce.ctxs c (f z)) :
    ∃ r, (s.setCtx c z).lockAndRoute c
      = (({ s with qce := { s.qce with locks := Tab.set s.qce.locks r ⟨nsx, sp.lo, sp.len, z.fsn, c⟩ } } : State).setCtx c
          { z with rlidx := some r, rlWait := false }).route c ∧ (∀ e ∈ s.qce.locks, e.1 ≠ r) := by
  have h1 : (s.setCtx c z).qce.ctx? c = some z := by simp [State.setCtx, Qce.ctx?]
  have hfr := Tab.firstFree_fresh s.qce.locks
  generalize hr : (Tab.firstFree s.qce.locks 0 (s.qce.locks.length + 1)).getD 0 = r at hfr
  have ht : (s.setCtx c z).qce.takeLock c
      = ({ s with qce := { s.qce with locks := Tab.set s.qce.locks r ⟨nsx, sp.lo, sp.len, z.fsn, c⟩ } }.setCtx c
          { z with rlidx := some r, rlWait := false }).qce := by
    rw [Qce.takeLock, h1]
    dsimp only
    rw [hsp]
    have hlen : (s.setCtx c z).qce.locks.length + [(nsx, sp)].length ≤ 262144
        ∧ (!((s.setCtx c z).qce.ctxs.any fun e => e.2.rlWait && fsnBefore e.2.fsn z.fsn)) = true := by
      refine ⟨by have := hn; simpa [State.setCtx] using this, ?_⟩
      simp only [Bool.not_eq_true', List.any_eq_false, Bool.and_eq_true, not_and, Bool.not_eq_true]
      intro e he hew
      rcases Tab.mem_set he with rfl | he
      · exact fsnBefore_self _
      · rw [hw e he] at hew; cases hew
    rw [if_neg (by simp), if_pos hlen]
    simp only [Qce.putLocks, List.foldl_cons, List.foldl_nil, Qce.updCtx, State.setCtx, hup]
    simp only [hr]
  exact ⟨r, by rw [State.lockAndRoute, ht]; rfl, hfr⟩

/-- A checked modifying command on one span takes its entry and waits for admission (R88, R113). -/
theorem State.lockAndRoute_waits {s : State} {c nsx : Nat} {z : Ctx} {sp : Span} (hs : calm s) (hk : z.kind ≠ .admin)
    (hd : z.side = false ∧ z.detached = false) (hsp : z.lockSpans = [(nsx, sp)]) (hn : s.qce.locks.length < 262144)
    (hl : ∀ e ∈ s.qce.locks, ∀ p ∈ z.spans, p.1 ≠ e.2.nsx)
    (hup : ∀ f, Tab.upd (Tab.set s.qce.ctxs c z) c f = Tab.set s.qce.ctxs c (f z))
    (hc : (s.cost z).1 ≠ 0) :
    ∃ r m l, (s.setCtx c z).lockAndRoute c =
        { s with
          qce := { s.qce with
            ctxs := Tab.set s.qce.ctxs c
              { z with rlidx := some r, rlWait := false, state := .admitwait, admitWaitAt := s.clock.now, shutMark := m, lockTime := l }
            locks := Tab.set s.qce.locks r ⟨nsx, sp.lo, sp.len, z.fsn, c⟩ }
          tas := ((s.setCtx c z).lockAndRoute c).tas }
      ∧ calm ((s.setCtx c z).lockAndRoute c) := by
  obtain ⟨r, hlr, -⟩ := State.lockAndRoute_eq hsp hn (calm_rlWait hs) hup
  generalize hsl : Tab.set s.qce.locks r ⟨nsx, sp.lo, sp.len, z.fsn, c⟩ = locks at hlr
  have hcalm : calm ({ s with qce := { s.qce with locks := locks } } : State) := hs
  have hlocks : ∀ e ∈ ({ s with qce := { s.qce with locks := locks } } : State).qce.locks,
      fsnBefore e.2.fsn ({ z with rlidx := some r, rlWait := false } : Ctx).fsn = false ∨ ∀ p ∈ z.spans, p.1 ≠ e.2.nsx := by
    intro e he
    rw [← hsl] at he
    exact (Tab.mem_set he).elim (fun q => .inl (by rw [q]; exact fsnBefore_self _)) fun q => .inr (hl e q)
  obtain ⟨m, l, h2, h3⟩ := State.route_waits (c := c) (z := { z with rlidx := some r, rlWait := false }) hcalm hk rfl hd hlocks
    (fun q => hc ((congrArg Prod.fst (State.cost_of rfl rfl rfl rfl rfl rfl rfl)).trans q))
  rw [← hlr] at h2 h3
  refine ⟨r, m, l, ?_, h3⟩
  rw [hsl]
  exact h2

/-- What a taken command's context holds, and what the taking left alone (R81 to R83). -/
structure TakenFacts (s g : State) (c : IoCmd) (k : Kind) (ctx : Nat) (x : Ctx) : Prop where
  ctxs : g.qce.ctxs = Tab.set s.qce.ctxs ctx x
  here : g.qce.ctx? ctx = some x
  kind : x.kind = k
  inst : x.inst = c.inst
  sqid : x.sqid = c.sqid
  sqe : x.sqe = c.q
  fsn : x.fsn = s.qce.fsn
  state : x.state = .fetched
  rlWait : x.rlWait = false
  side : x.side = false
  detached : x.detached = false
  mods : x.mods = []
  rds : x.rds = []
  recorded : x.recorded = false
  arrived : x.arrived = false
  encrypted : x.encrypted = false
  nss : x.nss = []
  zone : x.zone = none
  locks : g.qce.locks = s.qce.locks
  fresh : ∀ e ∈ s.qce.ctxs, e.1 ≠ ctx
  runs : s.fetches = true
  sec : g.sec = s.sec
  fl : g.fl = s.fl
  frame : g = { s with hfu := { s.hfu with ports := g.hfu.ports }, qce := g.qce, out := g.out }
  hfu : g.hfu = { s.hfu with ports := g.hfu.ports }
  clock : g.clock = s.clock

theorem taken_facts {s g : State} {c : IoCmd} {k : Kind} {opc ctx : Nat} {x : Ctx} (h : taken s g c k opc ctx x) :
    TakenFacts s g c k ctx x := by
  obtain ⟨ht, h0, hx, -, -, -⟩ := h
  obtain ⟨y, h1, h2, h3, h4, h5, h6, h7, h8, h9, h10, h11, h12, h13, h14, h15, h16, h16z, -, -, -, h17, h20, h18, h19⟩ := State.take_spec ht
  have e : x = y := by
    have : g.qce.ctx? ctx = some y := by simp [Qce.ctx?, h1]
    rw [hx] at this; exact Option.some.inj this
  rw [if_neg h0] at h7
  subst e
  exact ⟨h1, hx, h2, h3, h4, h5, h6, h7, h8, h9, h10, h11, h12, h13, h14, h15, h16, h16z, h17, h20, h18, by rw [h19], by rw [h19], h19, by rw [h19], by rw [h19]⟩

/-- Taking a command leaves the device calm. -/
theorem TakenFacts.calm {s g : State} {c : IoCmd} {k : Kind} {ctx : Nat} {x : Ctx} (f : TakenFacts s g c k ctx x) (h : Safety.calm s) :
    Safety.calm g := by
  refine ⟨f.sec ▸ h.1, ?_, f.ctxs ▸ Tab.rising_set h.2.2 _ _⟩
  rw [f.ctxs]
  intro e he
  refine (Tab.mem_set he).elim (fun q => q ▸ ?_) (h.2.1 e)
  simp [atRest, f.state, f.rlWait, f.side, f.detached]

/-- A taken command is handled, and then whatever can go on does (R64, R88, R377). -/
theorem State.io_goes {s g : State} {c : IoCmd} {k : Kind} {opc ctx : Nat} {x : Ctx} {go : State → Nat → Ctx → State}
    (h : taken s g c k opc ctx x) : s.io c k opc go = (go g ctx x).settle := by
  have f := taken_facts h
  obtain ⟨ht, h0, hx, ho, hs, hc⟩ := h
  have hsan : g.sanitizeStatus = none := by
    simp [State.sanitizeStatus, f.sec, hc.1, hs]
  have hopc : x.sqe.opc = opc := by rw [f.sqe, ho]
  rw [State.io, if_neg h0, ht]
  dsimp only
  rw [hx]
  dsimp only
  rw [if_neg (by simpa using hopc), hsan]

/-- A taken command on a permitted namespace that passes its own checks is handled (R64). -/
theorem State.onNs_goes {s g : State} {c : IoCmd} {k : Kind} {opc ctx : Nat} {x : Ctx} {n : Ns} {claim : Claim}
    {checks : Ctx → Nat → Ns → List (Bool × Status)} {go : State → Nat → Ctx → Nat → Ns → State}
    (h : taken s g c k opc ctx x) (hp : permitted g c n claim) (hc : firstFailing (checks x (c.q.nsid - 1) n) = none) :
    s.onNs c k opc claim checks go = (go g ctx x (c.q.nsid - 1) n).settle := by
  rw [State.onNs, State.io_goes h, hp.1]
  dsimp only
  rw [hc]
  dsimp only
  rw [hp.2]

/-- The first failing check ends the command (R64, R88). -/
theorem State.onNs_fails {s g : State} {c : IoCmd} {k : Kind} {opc ctx : Nat} {x : Ctx} {n : Ns} {claim : Claim} {st : Status}
    {checks : Ctx → Nat → Ns → List (Bool × Status)} {go : State → Nat → Ctx → Nat → Ns → State}
    (h : taken s g c k opc ctx x) (hp : g.fl.attachedNs c.inst c.q.nsid = some n) (hc : firstFailing (checks x (c.q.nsid - 1) n) = some st) :
    s.onNs c k opc claim checks go = (g.fin ctx st).settle := by
  rw [State.onNs, State.io_goes h, hp]
  dsimp only
  rw [hc]

/-- Past the checks on blocks, the span lies in the namespace and the key tag is assigned (R64, R363). -/
theorem blockChecks_pass {mv : Bool} {x : Ctx} {nsx : Nat} {n : Ns} (h : firstFailing (blockChecks mv x nsx n) = none) :
    x.sqe.slba + x.sqe.nlb + 1 ≤ n.nsze ∧ ∃ k, n.keySlot nsx x.sqe = some k := by
  simp only [blockChecks, firstFailing] at h
  repeat' split at h
  all_goals try cases h
  next h0 _ h2 =>
    simp only [decide_eq_true_eq, Nat.not_lt] at h2
    refine ⟨by omega, ?_⟩
    cases hk : n.keySlot nsx x.sqe with
    | none => simp_all
    | some k => exact ⟨k, rfl⟩

/-- The fields that name blocks leave the rest of a taken context alone (R85). -/
theorem TakenFacts.fields {s g : State} {c : IoCmd} {kd : Kind} {k : Nat} {x : Ctx} (f : TakenFacts s g c kd k x) (nsx : Nat) (n : Ns) :
    (x.blockFields nsx n).kind = kd ∧ (x.blockFields nsx n).nsx = some nsx ∧ (x.blockFields nsx n).mods = [] ∧ (x.blockFields nsx n).rds = []
    ∧ (x.blockFields nsx n).fsn = s.qce.fsn ∧ (x.blockFields nsx n).rlWait = false ∧ (x.blockFields nsx n).side = false
    ∧ (x.blockFields nsx n).detached = false ∧ (x.blockFields nsx n).keyslot = (n.keySlot nsx c.q).getD 0
    ∧ (x.blockFields nsx n).slba = c.q.slba ∧ (x.blockFields nsx n).nlb = c.q.nlb
    ∧ (x.blockFields nsx n).sqe = c.q ∧ (x.blockFields nsx n).nss = [] := by
  have := f.sqe
  refine ⟨f.kind, rfl, f.mods, f.rds, f.fsn, f.rlWait, f.side, f.detached, ?_, ?_, ?_, this, f.nss⟩ <;> simp [Ctx.blockFields, this]

/-- The spans of a command whose context names one namespace: all in it. -/
theorem Ctx.spans_in {z : Ctx} {nsx : Nat} (hx : z.nsx = some nsx) (hk : z.kind ≠ .admin) (hr : ∀ r ∈ z.rds, r.lo < 281474976710656) :
    ∀ p ∈ z.spans, p.1 = nsx := by
  have hk' : (z.kind == Kind.admin) = false := by simpa using hk
  intro p hp
  simp only [Ctx.spans, Ctx.targets, Ctx.reads, hx, hk', List.mem_append, List.mem_map] at hp
  rcases hp with (⟨a, -, rfl⟩ | h) | ⟨a, ha, rfl⟩
  · rfl
  · cases h
  · have := hr a ha
    simp [this]

theorem Ctx.lockSpans_one {z : Ctx} {nsx : Nat} {sp : Span} (hx : z.nsx = some nsx) (hk : z.kind ≠ .admin) (h : hull z.mods = some sp) :
    z.lockSpans = [(nsx, sp)] := by
  have hk' : (z.kind == Kind.admin) = false := by simpa using hk
  simp [Ctx.lockSpans, hx, h, hk']

theorem hull_one (lo len : Nat) : hull [⟨lo, len + 1⟩] = some ⟨lo, len + 1⟩ := by simp [hull]

theorem Tab.get?_set_set {α : Type} {t : Tab α} {k : Nat} {a b : α} : ∀ j, j ≠ k → Tab.get? (Tab.set (Tab.set t k a) k b) j = Tab.get? t j := by
  intro j hj
  rw [Tab.set_set, Tab.get?_set, if_neg hj]

/-- A taken command that its row has given an entry's span: it holds the entry and waits for admission; `fl` is the flash side as its row leaves it. -/
theorem TakenFacts.waits_locked {s g : State} {c : IoCmd} {kd : Kind} {k nsx : Nat} {x z : Ctx} {sp : Span} {fl : Flash}
    (f : TakenFacts s g c kd k x) (hs : Safety.calm s) (z0 : z.kind ≠ .admin) (z2 : z.nsx = some nsx) (z3 : z.side = false ∧ z.detached = false)
    (z4 : hull z.mods = some sp) (z5 : z.fsn = s.qce.fsn) (z6 : ∀ p ∈ z.spans, Safety.unlocked s p.1)
    (hu : Safety.unlocked s nsx) (hc : ((g.withFl fl).cost z).1 ≠ 0) :
    ∃ t y r, (((g.withFl fl).setCtx k z).lockAndRoute k).settle = t ∧ t.qce.ctx? k = some y ∧ y.state = .admitwait ∧ y.nsx = some nsx
      ∧ y.mods = z.mods ∧ y.rds = z.rds ∧ y.keyslot = z.keyslot ∧ y.fsn = s.qce.fsn ∧ y.barchan = z.barchan ∧ y.zone = z.zone ∧ y.rlidx = some r
      ∧ t.qce.locks = Tab.set s.qce.locks r ⟨nsx, sp.lo, sp.len, s.qce.fsn, k⟩
      ∧ (∀ j, j ≠ k → t.qce.ctx? j = s.qce.ctx? j)
      ∧ t = { s with hfu := t.hfu, qce := t.qce, tas := t.tas, out := t.out, fl := fl } := by
  have hcalm := f.calm hs
  obtain ⟨h, hh⟩ : ∃ h, h = g.withFl fl := ⟨_, rfl⟩
  rw [← hh] at hc ⊢
  have e1 : h.qce = g.qce := by rw [hh]; rfl
  obtain ⟨r, m, l, h2, h3⟩ := State.lockAndRoute_waits (s := h) (c := k) (nsx := nsx) (z := z) (sp := sp)
    ⟨by rw [hh]; exact hcalm.1, by rw [e1]; exact hcalm.2⟩ z0 z3 (Ctx.lockSpans_one z2 z0 z4) (by rw [e1, f.locks]; exact hu.1)
    (fun e he p hp => by rw [e1, f.locks] at he; exact fun q => (z6 p hp).2 e he q.symm)
    (by intro f'; rw [e1, f.ctxs, Tab.set_set, Tab.set_set, Tab.upd_set f.fresh])
    hc
  rw [State.settle_calm h3, h2]
  refine ⟨_, _, r, rfl, Tab.get?_set_self _ _ _, ?_, z2, ?_, ?_, ?_, z5, ?_, ?_, ?_, ?_, ?_, ?_⟩
  · dsimp only
  · dsimp only
  · dsimp only
  · dsimp only
  · dsimp only
  · dsimp only
  · dsimp only
  · dsimp only; rw [e1, f.locks, z5]
  · intro j hj; rw [Qce.ctx?, Qce.ctx?]; dsimp only; rw [e1, f.ctxs]; exact Tab.get?_set_set j hj
  · dsimp only; rw [hh, f.frame]; rfl

/-- The work of the modifying commands: never nothing while a write counts (R144). -/
theorem State.cost_writes {s : State} {x : Ctx} {n : Ns} {nsx lo len : Nat} (hx : x.nsx = some nsx) (hn : s.fl.ns? nsx = some n)
    (hk : x.kind = .write ∨ x.kind = .append ∨ x.kind = .copy) (hm : x.mods = [⟨lo, len + 1⟩]) (hw : s.tas.wcost ≠ 0) : (s.cost x).1 ≠ 0 := by
  have := Ns.units_pos n lo len
  rcases hk with h | h | h <;> simp [State.cost, hx, hn, h, hm, this, hw]

theorem State.cost_flat {s : State} {x : Ctx} {n : Ns} {nsx : Nat} (hx : x.nsx = some nsx) (hn : s.fl.ns? nsx = some n)
    (hk : x.kind = .zeroes ∨ x.kind = .purge ∨ x.kind = .dsm ∨ x.kind = .uncorrectable) : (s.cost x).1 ≠ 0 := by
  rcases hk with h | h | h | h <;> simp [State.cost, hx, hn, h]

/-! ## The end of a command -/

theorem Tab.get?_upd_self {α : Type} {t : Tab α} {k : Nat} {f : α → α} {a : α} (h : Tab.get? t k = some a) : Tab.get? (Tab.upd t k f) k = some (f a) := by
  simp [Tab.get?_upd, h]

/-- COMPLETING with a status: the entry of the context, its locks dropped (R88, R114). -/
theorem Qce.setDone_ctx {q : Qce} {c : Nat} {x : Ctx} (st : Status) (h : q.ctx? c = some x) :
    (q.setDone c st).ctx? c = some { x with rlidx := none, rlWait := false, state := .completing, status := st, doneSeq := q.doneSeq + 1 } := by
  simp only [Qce.setDone, Qce.dropLocks, Qce.updCtx, Qce.ctx?]
  rw [Tab.get?_upd_self (Tab.get?_upd_self h)]

theorem Qce.setDone_other {q : Qce} {c j : Nat} (st : Status) (h : j ≠ c) : (q.setDone c st).ctx? j = q.ctx? j := by
  simp [Qce.setDone, Qce.dropLocks, Qce.updCtx, Qce.ctx?, Tab.get?_upd, h]

theorem Qce.setDone_frame (q : Qce) (c : Nat) (st : Status) :
    q.setDone c st = { q with ctxs := (q.setDone c st).ctxs, locks := (q.setDone c st).locks, doneSeq := q.doneSeq + 1 } := rfl

theorem Tab.mem_upd {α : Type} {t : Tab α} {k : Nat} {f : α → α} {e : Nat × α} (h : e ∈ Tab.upd t k f) :
    ∃ p ∈ t, p.1 = e.1 ∧ (e.2 = p.2 ∧ p.1 ≠ k ∨ e.2 = f p.2 ∧ p.1 = k) := by
  simp only [Tab.upd, List.mem_map] at h
  obtain ⟨p, hp, rfl⟩ := h
  refine ⟨p, hp, ?_⟩
  split
  · next q => exact ⟨rfl, .inr ⟨rfl, q⟩⟩
  · next q => exact ⟨rfl, .inl ⟨rfl, q⟩⟩

theorem Qce.setDone_mem {q : Qce} {c : Nat} {st : Status} {e : Nat × Ctx} (h : e ∈ (q.setDone c st).ctxs) :
    e ∈ q.ctxs ∨ ∃ p ∈ q.ctxs, p.1 = c ∧ e.2.side = p.2.side ∧ e.2.detached = p.2.detached ∧ e.2.state = .completing ∧ e.2.rlWait = false := by
  simp only [Qce.setDone, Qce.dropLocks, Qce.updCtx] at h
  obtain ⟨p, hp, h1, h2⟩ := Tab.mem_upd h
  obtain ⟨r, hr, h3, h4⟩ := Tab.mem_upd hp
  rcases h2 with ⟨h2, h5⟩ | ⟨h2, h5⟩
  · rcases h4 with ⟨h4, -⟩ | ⟨-, h6⟩
    · left
      have e1 : e = r := Prod.ext (h1.symm.trans h3.symm) (h2.trans h4)
      rw [e1]; exact hr
    · exact absurd (h3.symm.trans h6) h5
  · right
    refine ⟨r, hr, ?_⟩
    rcases h4 with ⟨-, h7⟩ | ⟨h4, h6⟩
    · exact absurd (h3.trans h5) h7
    · rw [h2]; dsimp only; rw [h4]; exact ⟨h3.trans h5, rfl, rfl, rfl, rfl⟩

/-- A command that ends well: nothing but its context and its locks changes (R88). -/
theorem State.fin_ok {s : State} {c : Nat} {x : Ctx} {st : Status} (h : s.qce.ctx? c = some x) (ho : x.open' = true) (hs : st.isOk = true) :
    s.fin c st = { s with qce := s.qce.setDone c st } := by
  have hne : ¬ (st.sct = 2 ∧ st.sc = 0x81) := by
    simp only [Status.isOk, Bool.and_eq_true, beq_iff_eq] at hs
    omega
  have hf : s.qce.finish s.clock.now c st = (s.qce.setDone c st, []) := by
    unfold Qce.finish
    rw [h]
    simp only [ho, hs, Bool.not_true, Bool.false_eq_true, if_false]
    have e1 : (s.qce.setDone c st).sq? x.inst x.sqid = s.qce.sq? x.inst x.sqid := rfl
    split <;> simp
  unfold State.fin
  rw [h]
  simp only [ho, Bool.not_true, Bool.false_eq_true, if_false]
  rw [hf]
  have e2 : (s.qce.setDone c st).inst? x.inst = s.qce.inst? x.inst := rfl
  simp only [e2, bne_self_eq_false, Bool.false_eq_true, if_false, hne, hs, if_true]

/-- A handled command that ends at its fetch: COMPLETING with its status, and nothing else goes on. -/
theorem TakenFacts.done {s g h : State} {c : IoCmd} {kd : Kind} {k : Nat} {x : Ctx} {st : Status} (f : TakenFacts s g c kd k x) (hs : Safety.calm s)
    (hq : h.qce = g.qce) (hsec : h.sec = g.sec) (hok : st.isOk = true) :
    ∃ t y, (h.fin k st).settle = t ∧ t.qce.ctx? k = some y ∧ y.state = .completing ∧ y.status = st ∧ y.sqe = c.q ∧ y.inst = c.inst ∧ y.sqid = c.sqid
      ∧ (∀ j, j ≠ k → t.qce.ctx? j = s.qce.ctx? j) ∧ t = { h with qce := t.qce } := by
  have hcalm := f.calm hs
  have hx : h.qce.ctx? k = some x := by rw [hq]; exact f.here
  have ho : x.open' = true := by simp [Ctx.open', f.state]
  rw [State.fin_ok hx ho hok]
  have hc2 : Safety.calm ({ h with qce := h.qce.setDone k st } : State) := by
    refine ⟨by dsimp only; rw [hsec]; exact hcalm.1, ?_, Qce.setDone_rising (by rw [hq]; exact hcalm.2.2)⟩
    intro e he
    rcases Qce.setDone_mem he with h1 | ⟨p, hp, h6, h2, h3, h4, h5⟩
    · rw [hq] at h1; exact hcalm.2.1 e h1
    · rw [hq, f.ctxs] at hp
      have hpx : p = (k, x) := (Tab.mem_set hp).resolve_right fun q => f.fresh p q h6
      rw [hpx] at h2 h3
      simp [Safety.atRest, h4, h5, h2, h3, f.side, f.detached]
  rw [State.settle_calm hc2]
  exact ⟨_, _, rfl, Qce.setDone_ctx st hx, rfl, rfl, f.sqe, f.inst, f.sqid, fun j hj => by
    dsimp only; rw [Qce.setDone_other st hj, hq, Qce.ctx?, f.ctxs, Tab.get?_set, if_neg hj]; rfl, rfl⟩

/-- A handled command outside an ordered queue that fails at its fetch: COMPLETING with its status; only what its die reads held is let go. -/
theorem TakenFacts.refused {s g : State} {c : IoCmd} {kd : Kind} {k : Nat} {x : Ctx} {st : Status} (f : TakenFacts s g c kd k x) (hs : Safety.calm s)
    (hord : x.ord = false) (hok : st.isOk = false) (hne : ¬ (st.sct = 2 ∧ st.sc = 0x81)) :
    ∃ t y, (g.fin k st).settle = t ∧ t.qce.ctx? k = some y ∧ y.state = .completing ∧ y.status = st ∧ y.sqe = c.q
      ∧ (∀ j, j ≠ k → t.qce.ctx? j = s.qce.ctx? j)
      ∧ t = { g with qce := t.qce, fl := { g.fl with dip := t.fl.dip, mbe := t.fl.mbe, ptx := { g.fl.ptx with growths := Tab.erase g.fl.ptx.growths k } } } := by
  have hcalm := f.calm hs
  have hx : g.qce.ctx? k = some x := f.here
  have ho : x.open' = true := by simp [Ctx.open', f.state]
  have hf : g.qce.finish g.clock.now k st = (g.qce.setDone k st, []) := by
    unfold Qce.finish
    rw [hx]
    simp only [ho, hord, Bool.not_true, Bool.false_eq_true, if_false, Bool.false_and]
    split <;> rfl
  have hfin : g.fin k st = ({ g with qce := g.qce.setDone k st } : State).withdraw k := by
    unfold State.fin
    rw [hx]
    simp only [ho, Bool.not_true, Bool.false_eq_true, if_false]
    rw [hf]
    have e2 : (g.qce.setDone k st).inst? x.inst = g.qce.inst? x.inst := rfl
    simp only [e2, bne_self_eq_false, Bool.false_eq_true, if_false, hne, hok, List.reverse_nil, List.nil_append, List.foldl_cons, List.foldl_nil]
  have hw : ∃ d m, ({ g with qce := g.qce.setDone k st } : State).withdraw k
      = { g with qce := g.qce.setDone k st, fl := { g.fl with dip := d, mbe := m, ptx := { g.fl.ptx with growths := Tab.erase g.fl.ptx.growths k } } } := by
    unfold State.withdraw
    dsimp only
    rw [Qce.setDone_ctx st hx]
    dsimp only
    rw [f.zone]
    dsimp only
    unfold Flash.cancelHost Flash.release
    dsimp only
    split
    · exact ⟨_, _, rfl⟩
    · exact ⟨_, _, rfl⟩
  obtain ⟨d, m, hw⟩ := hw
  rw [hfin, hw]
  have hc2 : Safety.calm ({ g with qce := g.qce.setDone k st, fl := { g.fl with dip := d, mbe := m, ptx := { g.fl.ptx with growths := Tab.erase g.fl.ptx.growths k } } } : State) := by
    refine ⟨hcalm.1, ?_, Qce.setDone_rising hcalm.2.2⟩
    intro e he
    rcases Qce.setDone_mem he with h1 | ⟨p, hp, h6, h2, h3, h4, h5⟩
    · exact hcalm.2.1 e h1
    · rw [f.ctxs] at hp
      have hpx : p = (k, x) := (Tab.mem_set hp).resolve_right fun q => f.fresh p q h6
      rw [hpx] at h2 h3
      simp [Safety.atRest, h4, h5, h2, h3, f.side, f.detached]
  rw [State.settle_calm hc2]
  exact ⟨_, _, rfl, Qce.setDone_ctx st hx, rfl, rfl, f.sqe, fun j hj => by
    dsimp only; rw [Qce.setDone_other st hj, Qce.ctx?, f.ctxs, Tab.get?_set, if_neg hj]; rfl, rfl⟩

theorem calm_setDone {s : State} {c : Nat} {x : Ctx} {st : Status} (hs : calm s) (h : s.qce.ctx? c = some x)
    (hd : x.side = false ∧ x.detached = false) : calm ({ s with qce := s.qce.setDone c st } : State) := by
  refine ⟨hs.1, ?_, Qce.setDone_rising hs.2.2⟩
  intro e he
  rcases Qce.setDone_mem he with h1 | ⟨p, hp, h6, h2, h3, h4, h5⟩
  · exact hs.2.1 e h1
  · have hpx : p.2 = x := by
      have := Tab.get?_of_mem hs.2.2 hp
      rw [h6] at this
      exact Option.some.inj (this.symm.trans h)
    rw [hpx] at h2 h3
    simp [atRest, h4, h5, h2, h3, hd.1, hd.2]

/-- A command that ends well in a calm device: its context is COMPLETING, and nothing else goes on. -/
theorem State.done_calm {s : State} {c : Nat} {x : Ctx} {st : Status} (hs : calm s) (h : s.qce.ctx? c = some x) (ho : x.open' = true)
    (hd : x.side = false ∧ x.detached = false) (hok : st.isOk = true) :
    (s.fin c st).settle = { s with qce := s.qce.setDone c st } := by
  rw [State.fin_ok h ho hok, State.settle_calm (calm_setDone hs h hd)]

/-- A context that settling looks at. -/
def Ctx.stalls (x : Ctx) : Bool :=
  x.state == .lockwait || (x.state == .data || x.state == .ordwait || x.state == .fw) && x.encrypted && !x.recorded || x.state == .fw && x.arrived

theorem atRest_stalls {x : Ctx} (h : atRest x = true) : x.stalls = false := by
  simp only [atRest, Bool.not_eq_true', Bool.or_eq_false_iff] at h
  simp only [Ctx.stalls, Bool.or_eq_false_iff]
  exact h.1.1

theorem Tab.filter_set {α : Type} {t : Tab α} {c : Nat} {x : α} {p : Nat × α → Bool} (h : ∀ e ∈ t, p e = false) (hx : p (c, x) = true) :
    (Tab.set t c x).filter p = [(c, x)] := by
  have hf : ∀ u : List (Nat × α), (∀ e ∈ u, p e = false) → u.filter p = [] := by
    intro u hu; rw [List.filter_eq_nil_iff]; intro e he; simp [hu e he]
  induction t with
  | nil => simp [Tab.set, hx]
  | cons e t ih =>
    obtain ⟨j, b⟩ := e
    have h1 := h (j, b) List.mem_cons_self
    have h2 : ∀ e ∈ t, p e = false := fun e he => h e (List.mem_cons_of_mem _ he)
    simp only [Tab.set]
    split
    · rw [List.filter_cons_of_pos hx, hf t h2]
    · split
      · rw [List.filter_cons_of_pos hx, List.filter_cons_of_neg (by simp [h1]), hf t h2]
      · rw [List.filter_cons_of_neg (by simp [h1]), ih h2]

/-- One context may go on: settling lets it. -/
theorem State.settle_one {s : State} {t : Tab Ctx} {c : Nat} {x : Ctx} (hc : s.qce.ctxs = Tab.set t c x) (ht : ∀ e ∈ t, atRest e.2 = true)
    (hx : x.stalls = true) (h2 : calm (s.settleCtx c)) : s.settle = s.settleCtx c := by
  have h1 : s.qce.stalled = [c] := by
    rw [Qce.stalled, hc]
    have := Tab.filter_set (p := fun e => e.2.stalls) (fun e he => atRest_stalls (ht e he)) hx (c := c)
    have e : ((Tab.set t c x).filter fun e => e.2.state == .lockwait
        || (e.2.state == .data || e.2.state == .ordwait || e.2.state == .fw) && e.2.encrypted && !e.2.recorded
        || e.2.state == .fw && e.2.arrived) = [(c, x)] := this
    rw [e]
    simp [insertBy]
  have hp : ∀ n, State.settlePass n (s.settleCtx c) = s.settleCtx c := by
    intro n
    induction n with
    | zero => rfl
    | succ n ih => rw [State.settlePass, Qce.stalled_calm h2.2.1]; simpa using ih
  rw [State.settle, h1]
  dsimp only [List.length_cons, List.length_nil]
  rw [State.settlePass, h1]
  dsimp only [List.foldl_cons, List.foldl_nil]
  rw [hp, State.sanitizeStart_calm h2.1, State.answerSide_calm h2.2.1]

theorem Qce.judgeShut_frame (q : Qce) (tas : Tas) (now inst : Nat) : q.judgeShut tas now inst = { q with shut := (q.judgeShut tas now inst).shut } := by
  unfold Qce.judgeShut
  dsimp only
  split <;> rfl

/-- What admission changes: the context, its instance's wait, and TAS (R147, R296). -/
theorem State.letIn_frame (s : State) (c : Nat) (x : Ctx) :
    ∃ w u ep wi co sh tas, s.letIn c x =
      { s with qce := { s.qce with ctxs := Tab.set s.qce.ctxs c (x.letIn s.clock.now w u ep wi co), shut := sh }, tas := tas } := by
  unfold State.letIn
  dsimp only
  rw [Qce.judgeShut_frame]
  exact ⟨_, _, _, _, _, _, _, rfl⟩

/-- A command of no work units is admitted at once (R144). -/
theorem State.route_in {s : State} {c : Nat} {z : Ctx} (hs : calm s) (hk : z.kind ≠ .admin) (hw : z.rlWait = false)
    (hl : ∀ e ∈ s.qce.locks, fsnBefore e.2.fsn z.fsn = false ∨ ∀ p ∈ z.spans, p.1 ≠ e.2.nsx) (hc : (s.cost z).1 = 0) :
    ∃ m l w u ep wi co sh tas, (s.setCtx c z).route c =
        { s with
          qce := { s.qce with
            ctxs := Tab.set s.qce.ctxs c
              (({ z with state := .admitwait, admitWaitAt := s.clock.now, shutMark := m, lockTime := l } : Ctx).letIn s.clock.now w u ep wi co)
            shut := sh }
          tas := tas } := by
  have h1 : (s.setCtx c z).qce.ctx? c = some z := by simp [State.setCtx, Qce.ctx?]
  have hb : (s.setCtx c z).qce.blocked z = false := by
    apply Qce.blocked_free
    · intro e he
      refine (Tab.mem_set he).elim (fun q => q ▸ hw) fun he => ?_
      have := hs.2.1 e he
      simp only [Safety.atRest, Bool.not_eq_true', Bool.or_eq_false_iff] at this
      exact this.1.2
    · intro e he
      exact hl e he
  have hr : (s.setCtx c z).route c = (s.setCtx c z).toAdmit c := by
    rw [State.route, h1]
    dsimp only
    rw [hw, hb, if_neg (by simp), if_neg (by simp)]
  have hc' : ((s.setCtx c z).cost z).1 = 0 := by rw [State.cost_setCtx]; exact hc
  have hk' : (z.kind == Kind.admin) = false := by simpa using hk
  have h2 : ∃ y m l u, y = { z with state := .admitwait, admitWaitAt := (s.setCtx c z).clock.now, shutMark := m, lockTime := l }
      ∧ (s.setCtx c z).toAdmit c = ({ s.setCtx c z with tas := u } : State).letIn c y := by
    unfold State.toAdmit
    rw [h1]
    dsimp only
    rw [hk', if_neg (by simp), if_pos hc']
    exact ⟨_, _, _, _, rfl, rfl⟩
  obtain ⟨y, m, l, v, rfl, h2⟩ := h2
  obtain ⟨w, u, ep, wi, co, sh, tas, h3⟩ := State.letIn_frame { s.setCtx c z with tas := v } c
    { z with state := .admitwait, admitWaitAt := (s.setCtx c z).clock.now, shutMark := m, lockTime := l }
  refine ⟨m, l, w, u, ep, wi, co, sh, tas, ?_⟩
  rw [hr, h2, h3]
  simp only [State.setCtx, Tab.set_set]

/-- A command outside an ordered queue that fails: its context is COMPLETING; only its die reads and its parity job are let go. -/
theorem State.fin_bad {s : State} {c : Nat} {x : Ctx} {st : Status} (h : s.qce.ctx? c = some x) (ho : x.open' = true)
    (hz : x.zone = none) (hord : x.ord = false) (hok : st.isOk = false) (hne : ¬ (st.sct = 2 ∧ st.sc = 0x81)) :
    ∃ d m, s.fin c st = { s with qce := s.qce.setDone c st, fl := { s.fl with dip := d, mbe := m, ptx := { s.fl.ptx with growths := Tab.erase s.fl.ptx.growths c } } } := by
  have hf : s.qce.finish s.clock.now c st = (s.qce.setDone c st, []) := by
    unfold Qce.finish
    rw [h]
    simp only [ho, hord, Bool.not_true, Bool.false_eq_true, if_false, Bool.false_and]
    split <;> rfl
  have hfin : s.fin c st = ({ s with qce := s.qce.setDone c st } : State).withdraw c := by
    unfold State.fin
    rw [h]
    simp only [ho, Bool.not_true, Bool.false_eq_true, if_false]
    rw [hf]
    have e2 : (s.qce.setDone c st).inst? x.inst = s.qce.inst? x.inst := rfl
    simp only [e2, bne_self_eq_false, Bool.false_eq_true, if_false, hne, hok, List.reverse_nil, List.nil_append, List.foldl_cons, List.foldl_nil]
  have hw : ∃ d m, ({ s with qce := s.qce.setDone c st } : State).withdraw c
      = { s with qce := s.qce.setDone c st, fl := { s.fl with dip := d, mbe := m, ptx := { s.fl.ptx with growths := Tab.erase s.fl.ptx.growths c } } } := by
    unfold State.withdraw
    dsimp only
    rw [Qce.setDone_ctx st h]
    dsimp only
    rw [hz]
    dsimp only
    unfold Flash.cancelHost Flash.release
    dsimp only
    split
    · exact ⟨_, _, rfl⟩
    · exact ⟨_, _, rfl⟩
  obtain ⟨d, m, hw⟩ := hw
  exact ⟨d, m, hfin.trans hw⟩

/-- The same in a calm device, where nothing else goes on. -/
theorem State.fail_calm {s : State} {c : Nat} {x : Ctx} {st : Status} (hs : calm s) (h : s.qce.ctx? c = some x) (ho : x.open' = true)
    (hd : x.side = false ∧ x.detached = false) (hz : x.zone = none) (hord : x.ord = false) (hok : st.isOk = false) (hne : ¬ (st.sct = 2 ∧ st.sc = 0x81)) :
    ∃ d m, (s.fin c st).settle = { s with qce := s.qce.setDone c st, fl := { s.fl with dip := d, mbe := m, ptx := { s.fl.ptx with growths := Tab.erase s.fl.ptx.growths c } } } := by
  obtain ⟨d, m, e⟩ := State.fin_bad h ho hz hord hok hne
  rw [e]
  have hc2 : Safety.calm ({ s with qce := s.qce.setDone c st, fl := { s.fl with dip := d, mbe := m, ptx := { s.fl.ptx with growths := Tab.erase s.fl.ptx.growths c } } } : State) := calm_setDone hs h hd
  rw [State.settle_calm hc2]
  exact ⟨d, m, rfl⟩

/-- The same of a read whose data is lost, which counts a media error (R457). -/
theorem State.lost_calm {s : State} {c : Nat} {x : Ctx} {st : Status} (hs : calm s) (h : s.qce.ctx? c = some x) (ho : x.open' = true)
    (hd : x.side = false ∧ x.detached = false) (hz : x.zone = none) (hord : x.ord = false) (hok : st.isOk = false) (hne : st.sct = 2 ∧ st.sc = 0x81) :
    ∃ d m, (s.fin c st).settle = { s with qce := s.qce.setDone c st, fl := { s.fl with dip := d, mbe := m, ptx := { s.fl.ptx with mediaErrors := s.fl.ptx.mediaErrors + 1, growths := Tab.erase s.fl.ptx.growths c } } } := by
  have hf : s.qce.finish s.clock.now c st = (s.qce.setDone c st, []) := by
    unfold Qce.finish
    rw [h]
    simp only [ho, hord, Bool.not_true, Bool.false_eq_true, if_false, Bool.false_and]
    split <;> rfl
  have hfin : s.fin c st = ({ s with qce := s.qce.setDone c st, fl := { s.fl with ptx := { s.fl.ptx with mediaErrors := s.fl.ptx.mediaErrors + 1 } } } : State).withdraw c := by
    unfold State.fin
    rw [h]
    simp only [ho, Bool.not_true, Bool.false_eq_true, if_false]
    rw [hf]
    have e2 : (s.qce.setDone c st).inst? x.inst = s.qce.inst? x.inst := rfl
    simp only [e2, bne_self_eq_false, Bool.false_eq_true, if_false, hne, and_self, if_true, hok, List.reverse_nil, List.nil_append, List.foldl_cons, List.foldl_nil]
  have hw : ∃ d m, ({ s with qce := s.qce.setDone c st, fl := { s.fl with ptx := { s.fl.ptx with mediaErrors := s.fl.ptx.mediaErrors + 1 } } } : State).withdraw c
      = { s with qce := s.qce.setDone c st, fl := { s.fl with dip := d, mbe := m, ptx := { s.fl.ptx with mediaErrors := s.fl.ptx.mediaErrors + 1, growths := Tab.erase s.fl.ptx.growths c } } } := by
    unfold State.withdraw
    dsimp only
    rw [Qce.setDone_ctx st h]
    dsimp only
    rw [hz]
    dsimp only
    unfold Flash.cancelHost Flash.release
    dsimp only
    split
    · exact ⟨_, _, rfl⟩
    · exact ⟨_, _, rfl⟩
  obtain ⟨d, m, hw⟩ := hw
  rw [hfin, hw]
  have hc2 : Safety.calm ({ s with qce := s.qce.setDone c st, fl := { s.fl with dip := d, mbe := m, ptx := { s.fl.ptx with mediaErrors := s.fl.ptx.mediaErrors + 1, growths := Tab.erase s.fl.ptx.growths c } } } : State) := calm_setDone hs h hd
  rw [State.settle_calm hc2]
  exact ⟨d, m, rfl⟩

theorem Tab.map_id' {α : Type} {t : Tab α} {f : Nat × α → α} (h : ∀ e ∈ t, f e = e.2) : (t.map fun e => (e.1, f e)) = t := by
  conv_rhs => rw [← List.map_id t]
  apply List.map_congr_left
  intro e he
  rw [h e he]; rfl

/-- The commit point of a command outside ordered queues (R99, R114). -/
theorem State.committed_one {s : State} {c wsn : Nat} {x y : Ctx} (hr : Tab.rising s.qce.ctxs = true) (hy : s.qce.ctx? c = some y) (hord : x.ord = false) :
    s.committed c x wsn = { s with
      qce := { s.qce with
        ctxs := Tab.set s.qce.ctxs c { y with rlidx := none, rlWait := false, recorded := true, wsn := wsn, state := if y.state = .ordwait then .data else y.state }
        locks := Tab.keep s.qce.locks fun _ l => l.ctx != c } } := by
  have h1 : (s.qce.dropLocks c).updCtx c (fun y => { y with recorded := true, wsn := wsn, state := if y.state = .ordwait then .data else y.state })
      = { s.qce with
        ctxs := Tab.set s.qce.ctxs c { y with rlidx := none, rlWait := false, recorded := true, wsn := wsn, state := if y.state = .ordwait then .data else y.state }
        locks := Tab.keep s.qce.locks fun _ l => l.ctx != c } := by
    simp only [Qce.dropLocks, Qce.updCtx]
    rw [Tab.upd_eq_set hr hy, Tab.upd_eq_set (Tab.rising_set hr _ _) (Tab.get?_set_self _ _ _), Tab.set_set]
  unfold State.committed
  simp only [h1, hord, Bool.and_false, Bool.false_and, Bool.false_eq_true, if_false, Prod.mk.eta, List.map_id_fun', id_eq]

/-- A setDone of the one context that changed. -/
theorem Qce.setDone_set {q : Qce} {t : Tab Ctx} {c : Nat} {y : Ctx} {st : Status} (hq : q.ctxs = Tab.set t c y) (hr : Tab.rising t = true) :
    (q.setDone c st).ctxs = Tab.set t c { y with rlidx := none, rlWait := false, state := .completing, status := st, doneSeq := q.doneSeq + 1 } := by
  simp only [Qce.setDone, Qce.dropLocks, Qce.updCtx, hq]
  rw [Tab.upd_eq_set (Tab.rising_set hr _ _) (Tab.get?_set_self _ _ _), Tab.set_set,
    Tab.upd_eq_set (Tab.rising_set hr _ _) (Tab.get?_set_self _ _ _), Tab.set_set]

theorem Qce.setDone_locks (q : Qce) (c : Nat) (st : Status) : (q.setDone c st).locks = Tab.keep q.locks fun _ l => l.ctx != c := by
  simp [Qce.setDone, Qce.dropLocks, Qce.updCtx]

theorem Tab.keep_keep {α : Type} (t : Tab α) (p : Nat → α → Bool) : Tab.keep (Tab.keep t p) p = Tab.keep t p := by
  simp [Tab.keep, List.filter_filter]

theorem Tab.keep_all {α : Type} {t : Tab α} {p : Nat → α → Bool} (h : ∀ e ∈ t, p e.1 e.2 = true) : Tab.keep t p = t :=
  List.filter_eq_self.2 h

theorem Tab.keep_set {α : Type} {t : Tab α} {k : Nat} {a : α} {p : Nat → α → Bool} (h : ∀ e ∈ t, p e.1 e.2 = true ∧ e.1 ≠ k) (ha : p k a = false) :
    Tab.keep (Tab.set t k a) p = t := by
  induction t with
  | nil => simp [Tab.set, Tab.keep, ha]
  | cons e t ih =>
    obtain ⟨j, b⟩ := e
    have h1 := h (j, b) List.mem_cons_self
    have h2 : ∀ e ∈ t, p e.1 e.2 = true ∧ e.1 ≠ k := fun e he => h e (List.mem_cons_of_mem _ he)
    simp only [Tab.set, h1.2, if_false]
    have h3 : Tab.keep t p = t := Tab.keep_all fun e he => (h2 e he).1
    have h4 := ih h2
    simp only [Tab.keep] at h3 h4 ⊢
    split
    · rw [List.filter_cons_of_neg (by simp [ha]), List.filter_cons_of_pos (by simpa using h1.1), h3]
    · rw [List.filter_cons_of_pos (by simpa using h1.1), h4]

/-- A change that is ready is recorded and its command completes (R88, R99, R114); `t` holds the other contexts. -/
theorem State.settle_record {u : State} {t : Tab Ctx} {c nsx : Nat} {x : Ctx} {n : Ns} (hsan : u.sec.sanitize = none)
    (hc : u.qce.ctxs = Tab.set t c x) (ht : ∀ e ∈ t, atRest e.2 = true) (hr : Tab.rising t = true)
    (hst : x.state = .data) (henc : x.encrypted = true) (hrec : x.recorded = false) (hord : x.ord = false) (hd : x.side = false ∧ x.detached = false)
    (hk : x.kind.reads = false ∨ x.kind = .copy) (hke : x.kind.ends = false) (hpu : x.kind ≠ .purge) (hz : x.kind ≠ .zoneSend ∨ u.handover = false) (hrb : u.qce.readBefore x = false)
    (hn : x.nsx = some nsx) (hns : u.fl.ns? nsx = some n) (hwp : (x.kind.protectable && u.fl.ptx.wprot) = false)
    (hfua : (x.fua && u.fl.ptx.unp && (x.kind == .write || x.kind == .append || x.kind == .zeroes || x.kind == .uncorrectable)) = false) :
    u.settle = { u with
      fl := u.fl.recordedBy u.clock.now nsx n x
      qce := { u.qce with
        ctxs := Tab.set t c { x with rlidx := none, rlWait := false, recorded := true, wsn := u.fl.ptx.wsn + 1, state := .completing, status := .success, doneSeq := u.qce.doneSeq + 1 }
        locks := Tab.keep u.qce.locks fun _ l => l.ctx != c, doneSeq := u.qce.doneSeq + 1 } } := by
  have hx : u.qce.ctx? c = some x := by rw [Qce.ctx?, hc]; exact Tab.get?_set_self _ _ _
  have hrr : Tab.rising u.qce.ctxs = true := by rw [hc]; exact Tab.rising_set hr _ _
  have hxe : ({ x with state := .data } : Ctx) = x := by rw [← hst]
  have hgo : u.settleCtx c = u.record c x := by
    rw [State.settleCtx, hx]
    dsimp only
    rw [hst]
    dsimp only
    have e1 : (x.encrypted && !x.recorded) = true := by rw [henc, hrec]; rfl
    have hread : (x.kind.reads && x.kind != .copy) = false := by rcases hk with h | h <;> simp [h]
    have hpz : ((x.kind == .purge || x.kind == .zoneSend) && u.handover) = false := by
      rcases hz with h | h <;> simp [hpu, h]
    rw [if_pos e1, hke, if_neg (by simp), hread, if_neg (by simp), hpz, if_neg (by simp), State.tryRecord, hrb, if_neg (by simp), if_neg (by rw [hord]; simp), hxe]
  have hrecd : u.record c x = { u with
      fl := u.fl.recordedBy u.clock.now nsx n x
      qce := { u.qce with
        ctxs := Tab.set t c { x with rlidx := none, rlWait := false, recorded := true, wsn := u.fl.ptx.wsn + 1, state := .completing, status := .success, doneSeq := u.qce.doneSeq + 1 }
        locks := Tab.keep u.qce.locks fun _ l => l.ctx != c, doneSeq := u.qce.doneSeq + 1 } } := by
    have hb : x.nsx.bind u.fl.ns? = some n := by rw [hn]; exact hns
    have hg : x.nsx.getD 0 = nsx := by rw [hn]; rfl
    rw [State.record, hb]
    dsimp only
    rw [hg]
    rw [hwp, if_neg (by simp)]
    have hpk : (x.kind == .purge) = false := by simpa using hpu
    generalize u.fl.recordedBy u.clock.now nsx n x = f
    have hcm := State.committed_one (s := u.withFl f) (c := c) (wsn := u.fl.ptx.wsn + 1) (x := x) (y := x) hrr hx hord
    rw [show (if x.state = .ordwait then CtxState.data else x.state) = x.state by rw [hst]; rfl] at hcm
    rw [hcm, hpk, if_neg (by simp)]
    have hfua' : ¬ ((x.fua && u.fl.ptx.unp && (x.kind == .write || x.kind == .append || x.kind == .zeroes || x.kind == .uncorrectable)) = true) := by
      rw [hfua]; simp
    rw [if_neg hfua']
    obtain ⟨y, hy⟩ : ∃ y, y = ({ x with rlidx := none, rlWait := false, recorded := true, wsn := u.fl.ptx.wsn + 1 } : Ctx) := ⟨_, rfl⟩
    have hyo : y.open' = true := by rw [hy]; simp [Ctx.open', hst]
    simp only [← hy]
    have hx2 : (({ u.withFl f with qce := { u.qce with ctxs := Tab.set u.qce.ctxs c y, locks := Tab.keep u.qce.locks fun _ l => l.ctx != c } } : State)).qce.ctx? c = some y :=
      Tab.get?_set_self _ _ _
    have h3 := State.fin_ok (st := .success) hx2 hyo rfl
    refine h3.trans ?_
    dsimp only
    rw [Qce.setDone_frame, Qce.setDone_set (q := { u.qce with ctxs := _, locks := _ }) (t := t) (y := y) (by dsimp only; rw [hc, Tab.set_set]) hr]
    dsimp only
    rw [show (({ u.qce with ctxs := Tab.set u.qce.ctxs c y, locks := Tab.keep u.qce.locks fun _ l => l.ctx != c } : Qce).setDone c .success).locks
      = Tab.keep u.qce.locks fun _ l => l.ctx != c by rw [Qce.setDone_locks]; dsimp only; exact Tab.keep_keep u.qce.locks fun _ l => l.ctx != c]
    rw [hy]
    rfl
  have hcalm : calm (u.settleCtx c) := by
    rw [hgo, hrecd]
    refine ⟨hsan, fun e he => (Tab.mem_set he).elim (fun q => ?_) (ht e), Tab.rising_set hr _ _⟩
    rw [q]
    simp [atRest, hd.1, hd.2]
  rw [State.settle_one hc ht (by simp [Ctx.stalls, hst, henc, hrec]) hcalm, hgo, hrecd]

theorem calm_atRest {s : State} {c : Nat} {x : Ctx} (hs : calm s) (h : s.qce.ctx? c = some x) : atRest x = true := hs.2.1 _ (Tab.mem_of_get? h)

theorem State.updCtx_calm {s : State} {c : Nat} {x : Ctx} (hs : calm s) (h : s.qce.ctx? c = some x) (f : Ctx → Ctx) : s.updCtx c f = s.setCtx c (f x) := by
  rw [State.updCtx, Qce.updCtx, Tab.upd_eq_set hs.2.2 h]; rfl

theorem State.until'_past {s : State} {t : Nat} (h : t ≤ s.clock.now) : s.until' t = s := by
  have : t - s.clock.now = 0 := by omega
  simp [State.until', Clock.pass, this]

/-- A running device does what the event does (R88). -/
theorem State.whenRuns_on {s : State} {f : State → State} (h : s.runs = true) : s.whenRuns f = f s := by rw [State.whenRuns, h, if_pos rfl]

theorem Qce.updCtx_ctx {q : Qce} {c : Nat} {x : Ctx} (h : q.ctx? c = some x) (f : Ctx → Ctx) : (q.updCtx c f).ctx? c = some (f x) := by
  rw [Qce.updCtx, Qce.ctx?]
  exact Tab.get?_upd_self h

theorem Qce.updCtx_other {q : Qce} {c j : Nat} (h : j ≠ c) (f : Ctx → Ctx) : (q.updCtx c f).ctx? j = q.ctx? j := by
  rw [Qce.updCtx, Qce.ctx?, Qce.ctx?, Tab.get?_upd, if_neg h]

/-- Nothing but the flash side changes where a note-free result leaves nothing else due. -/
theorem State.told_still {s : State} {f : Flash} (h : still (s.withFl f)) : s.told (f, []) = s.withFl f := by
  obtain ⟨h1, h2, h3⟩ := h
  rw [State.told]
  dsimp only [List.foldl_nil]
  rw [State.protectWrites, if_neg (by rw [h2]; simp), State.settle_calm h1, State.warn]
  have e : ((List.range 5).filter fun b => natBits (s.withFl f).warnings b b == 1 && natBits (s.withFl f).health.warning b b == 0) = [] := by
    rw [List.filter_eq_nil_iff]
    intro b _
    rw [h3]
    simp only [Bool.and_eq_true, beq_iff_eq]
    rintro ⟨q, r⟩
    rw [q] at r
    exact absurd r (by decide)
  dsimp only
  rw [e, h3]
  rfl

theorem State.withFl_withFl (s : State) (f g : Flash) : (s.withFl f).withFl g = s.withFl g := rfl
theorem State.withFl_hours (s : State) (f : Flash) : (s.withFl f).hours = s.hours := rfl
theorem State.withFl_stampMs (s : State) (f : Flash) : (s.withFl f).stampMs = s.stampMs := rfl
theorem State.withFl_runs (s : State) (f : Flash) : (s.withFl f).runs = s.runs := rfl

theorem State.media_quiet {s : State} {f : Flash} (h : quiet (s.withFl f)) (hr : s.runs = true) : s.media (f, []) = s.withFl f := by
  obtain ⟨h1, h2, h3⟩ := h
  rw [State.withFl_fl, State.withFl_clock, State.withFl_hours] at h2
  rw [State.withFl_fl, State.withFl_ptm, State.withFl_stampMs] at h3
  have e : thenDo (f, []) (fun g => g.follow s.clock.now s.hours) = (f, []) := by
    simp [thenDo, h2]
  have h5 : (s.withFl f).told (f, []) = s.withFl f := by
    have := State.told_still (s := s.withFl f) (f := f) (by rw [State.withFl_withFl]; exact h1)
    rwa [State.withFl_withFl] at this
  rw [State.media, e, State.told_still h1, State.judgeMode, State.withFl_runs, if_pos hr]
  dsimp only
  rw [State.withFl_fl, State.withFl_ptm, State.withFl_stampMs, h3, h5, State.withFl_fl, if_neg]
  cases f.ptx.unp <;> simp

/-- One context that settling looks at and that has to wait: nothing goes on. -/
theorem State.settle_held {s : State} {t : Tab Ctx} {c : Nat} {x : Ctx} (hc : s.qce.ctxs = Tab.set t c x) (ht : ∀ e ∈ t, atRest e.2 = true)
    (hx : x.stalls = true) (hsan : s.sec.sanitize = none) (hd : x.side = false ∧ x.detached = false) (h2 : s.settleCtx c = s) : s.settle = s := by
  have h1 : s.qce.stalled = [c] := by
    rw [Qce.stalled, hc]
    have := Tab.filter_set (p := fun e => e.2.stalls) (fun e he => atRest_stalls (ht e he)) hx (c := c)
    have e : ((Tab.set t c x).filter fun e => e.2.state == .lockwait
        || (e.2.state == .data || e.2.state == .ordwait || e.2.state == .fw) && e.2.encrypted && !e.2.recorded
        || e.2.state == .fw && e.2.arrived) = [(c, x)] := this
    rw [e]
    simp [insertBy]
  have hp : ∀ n, State.settlePass n s = s := by
    intro n
    induction n with
    | zero => rfl
    | succ n ih => rw [State.settlePass, h1]; dsimp only [List.foldl_cons, List.foldl_nil]; rw [h2]; exact ih
  have ha : s.answerSide = s := by
    have : (s.qce.ctxs.filter fun e => (e.2.side || e.2.detached) && e.2.state == .completing) = [] := by
      rw [List.filter_eq_nil_iff, hc]
      intro e he hp
      rcases Tab.mem_set he with q | he
      · rw [q] at hp; simp [hd.1, hd.2] at hp
      · have := ht e he
        simp only [atRest, Bool.not_eq_true', Bool.or_eq_false_iff] at this
        simp [this.2] at hp
    rw [State.answerSide, this]; rfl
  rw [State.settle, h1]
  dsimp only
  rw [hp, State.sanitizeStart_calm hsan, ha]

/-- The commands ahead of a context do not depend on what stands in its own place of the table. -/
theorem Qce.predsCommitted_own {q r : Qce} {k : Nat} {x y z : Ctx} (hq : q.ctxs = Tab.set r.ctxs k y) (hr : ∀ e ∈ r.ctxs, e.1 ≠ k)
    (hrr : Tab.rising r.ctxs = true) (hy : y.order = x.order) (hz : z.order = x.order ∧ z.inst = x.inst ∧ z.sqid = x.sqid) : q.predsCommitted z = r.predsCommitted x := by
  rw [Bool.eq_iff_iff]
  simp only [Qce.predsCommitted, hq, List.all_eq_true, hz.1, hz.2.1, hz.2.2]
  constructor
  · intro h e he
    apply h
    have : Tab.get? (Tab.set r.ctxs k y) e.1 = some e.2 := by
      rw [Tab.get?_set, if_neg (hr e he)]; exact Tab.get?_of_mem hrr he
    exact Tab.mem_of_get? this
  · intro h e he
    rcases Tab.mem_set he with q | he
    · rw [q]; simp [hy]
    · exact h e he

/-- A command without logical blocks that has passed its checks is admitted at once, and ends unless one ahead of it in an ordered SQ has not
reached its commit point (R88, R101, R144). -/
theorem TakenFacts.ends {s g h : State} {c : IoCmd} {kd : Kind} {k nsx : Nat} {x : Ctx} (f : TakenFacts s g c kd k x) (hs : Safety.calm s)
    (hk : kd.ends = true) (hq : h.qce = g.qce) (hsec : h.sec = g.sec) (handles : List Nat) (reply : List Byte) :
    ∃ t y, (h.endIn k x nsx handles reply).settle = t ∧ t.qce.ctx? k = some y ∧ (∀ j, j ≠ k → t.qce.ctx? j = s.qce.ctx? j)
      ∧ (x.ord = false ∨ s.qce.predsCommitted x = true → y.state = .completing ∧ y.status = .success
          ∧ t = { (if reply.isEmpty then h else h.emit (.data k reply)) with
              fl := handles.foldl (fun (a : Flash) b => a.updateHandle h.clock.now h.hours b) h.fl, qce := t.qce, tas := t.tas })
      ∧ (x.ord = true → s.qce.predsCommitted x = false → y.state = .data ∧ t = { h with qce := t.qce, tas := t.tas }) := by
  have hcalm := calm_of (t := h) (f.calm hs) (by rw [hsec]) (by rw [hq])
  have hkd : x.kind = kd := f.kind
  have hna : kd ≠ .admin := by rintro rfl; cases hk
  have hm : x.mods = [] := f.mods
  have hrd : x.rds = [] := f.rds
  obtain ⟨m, l, w, u, ep, wi, co, sh, tas, hr⟩ := State.route_in (s := h) (c := k)
    (z := { x with nsx := some nsx, encrypted := true, handles := handles, reply := reply }) hcalm (by dsimp only; rw [hkd]; exact hna) f.rlWait
    (by
      intro e _
      right
      have hk' : (x.kind == Kind.admin) = false := by rw [hkd]; simpa using hna
      intro p hp
      simp [Ctx.spans, Ctx.targets, Ctx.reads, hm, hrd, hk'] at hp)
    (by
      unfold State.cost
      dsimp only
      cases hb : (some nsx).bind h.fl.ns? with
      | none => rfl
      | some n =>
        dsimp only
        rw [hkd]
        cases kd <;> first | rfl | (cases hk))
  have hh : h.qce.ctxs = Tab.set s.qce.ctxs k x := by rw [hq]; exact f.ctxs
  obtain ⟨y, hy⟩ : ∃ y : Ctx, y = ({ x with nsx := some nsx, encrypted := true, handles := handles, reply := reply, state := .admitwait, admitWaitAt := h.clock.now, shutMark := m, lockTime := l } : Ctx).letIn h.clock.now w u ep wi co := ⟨_, rfl⟩
  have hyd : y.state = .data ∧ y.encrypted = true ∧ y.kind = kd ∧ y.recorded = false ∧ y.side = false ∧ y.detached = false ∧ y.ord = x.ord
      ∧ y.order = x.order ∧ y.inst = x.inst ∧ y.sqid = x.sqid ∧ y.reply = reply ∧ y.handles = handles := by
    rw [hy]
    unfold Ctx.letIn
    dsimp only
    rw [hkd]
    cases kd <;> first | (cases hk; done) | exact ⟨rfl, rfl, rfl, f.recorded, f.side, f.detached, rfl, rfl, rfl, rfl, rfl, rfl⟩
  obtain ⟨q, hq'⟩ : ∃ q : Qce, q = { h.qce with ctxs := Tab.set h.qce.ctxs k y, shut := sh } := ⟨_, rfl⟩
  obtain ⟨v, hv⟩ : ∃ v : State, v = { h with qce := q, tas := tas } := ⟨_, rfl⟩
  have hend : h.endIn k x nsx handles reply = v := by rw [State.endIn, hr, hv, hq', hy]
  have hvq : v.qce = q := by rw [hv]
  have hvc : v.qce.ctxs = Tab.set s.qce.ctxs k y := by rw [hvq, hq']; dsimp only; rw [hh, Tab.set_set]
  have hvx : v.qce.ctx? k = some y := by rw [Qce.ctx?, hvc]; exact Tab.get?_set_self _ _ _
  have hoth : ∀ j, j ≠ k → v.qce.ctx? j = s.qce.ctx? j := by
    intro j hj; rw [Qce.ctx?, hvc, Tab.get?_set, if_neg hj]; rfl
  have hpc : v.qce.predsCommitted y = s.qce.predsCommitted x :=
    Qce.predsCommitted_own hvc f.fresh hs.2.2 hyd.2.2.2.2.2.2.2.1 ⟨hyd.2.2.2.2.2.2.2.1, hyd.2.2.2.2.2.2.2.2.1, hyd.2.2.2.2.2.2.2.2.2.1⟩
  have hvsan : v.sec.sanitize = none := by rw [hv]; dsimp only; rw [hsec]; exact (f.calm hs).1
  have hst : y.stalls = true := by simp [Ctx.stalls, hyd.1, hyd.2.1, hyd.2.2.2.1]
  have hsc : v.settleCtx k = v.tryEnd k y := by
    rw [State.settleCtx, hvx]
    dsimp only
    rw [hyd.1]
    dsimp only
    rw [if_pos (by rw [hyd.2.1, hyd.2.2.2.1]; rfl), hyd.2.2.1, hk, if_pos rfl]
  rw [hend]
  by_cases hgo : x.ord = true ∧ s.qce.predsCommitted x = false
  · have hte : v.tryEnd k y = v := by
      rw [State.tryEnd, hyd.2.2.2.2.2.2.1, hpc, hgo.1, hgo.2, if_pos (by rfl)]
    have hset := State.settle_held hvc hs.2.1 hst hvsan ⟨hyd.2.2.2.2.1, hyd.2.2.2.2.2.1⟩ (by rw [hsc, hte])
    refine ⟨v, y, hset, hvx, hoth, fun hh => ?_, fun _ _ => ⟨hyd.1, by rw [hv]⟩⟩
    rcases hh with hh | hh
    · rw [hgo.1] at hh; cases hh
    · rw [hgo.2] at hh; cases hh
  · have hgo' : (x.ord && !(s.qce.predsCommitted x)) = false := by
      cases ho : x.ord
      · rfl
      · cases hp : s.qce.predsCommitted x
        · exact absurd ⟨ho, hp⟩ hgo
        · rfl
    obtain ⟨a, ha⟩ : ∃ a : State, a = (if reply.isEmpty then v else v.emit (.data k reply)) := ⟨_, rfl⟩
    obtain ⟨fl, hfl⟩ : ∃ fl : Flash, fl = handles.foldl (fun (a : Flash) b => a.updateHandle h.clock.now h.hours b) h.fl := ⟨_, rfl⟩
    have haq : a.qce = v.qce ∧ a.sec = v.sec ∧ a.clock = h.clock ∧ a.hours = h.hours ∧ a.fl = h.fl := by
      rw [ha, hv]; split <;> exact ⟨rfl, rfl, rfl, rfl, rfl⟩
    have hte : v.tryEnd k y = (a.withFl fl).fin k .success := by
      rw [State.tryEnd, hyd.2.2.2.2.2.2.1, hpc, hgo', if_neg (by simp), hyd.2.2.2.2.2.2.2.2.2.2.1, hyd.2.2.2.2.2.2.2.2.2.2.2]
      dsimp only
      rw [← ha, haq.2.2.1, haq.2.2.2.1, haq.2.2.2.2, ← hfl]
    have hax : (a.withFl fl).qce.ctx? k = some y := by
      show a.qce.ctx? k = some y
      rw [haq.1]; exact hvx
    have hfin := State.fin_ok (st := .success) hax (by simp [Ctx.open', hyd.1]) rfl
    have hc2 : Safety.calm (v.settleCtx k) := by
      rw [hsc, hte, hfin]
      have hqq : (a.withFl fl).qce = v.qce := haq.1
      refine ⟨by show a.sec.sanitize = none; rw [haq.2.1]; exact hvsan, ?_, Qce.setDone_rising (by rw [hqq, hvc]; exact Tab.rising_set hs.2.2 _ _)⟩
      intro e he
      rcases Qce.setDone_mem he with h1 | ⟨p, hp, h6, h2, h3, h4, h5⟩
      · rw [hqq, hvc] at h1
        rcases Tab.mem_set h1 with r | r
        · exfalso
          have hn : Tab.get? ((a.withFl fl).qce.setDone k .success).ctxs k = some y := by
            have hri : Tab.rising ((a.withFl fl).qce.setDone k .success).ctxs = true := Qce.setDone_rising (by rw [hqq, hvc]; exact Tab.rising_set hs.2.2 _ _)
            have := Tab.get?_of_mem hri he
            rw [r] at this
            exact this
          have hd := Qce.setDone_ctx .success hax
          rw [Qce.ctx?, hn] at hd
          have := congrArg Ctx.state (Option.some.inj hd)
          rw [hyd.1] at this
          cases this
        · exact hs.2.1 e r
      · rw [hqq, hvc] at hp
        have hpx : p = (k, y) := (Tab.mem_set hp).resolve_right fun q => f.fresh p q h6
        rw [hpx] at h2 h3
        simp [Safety.atRest, h4, h5, h2, h3, hyd.2.2.2.2.1, hyd.2.2.2.2.2.1]
    have hset := State.settle_one hvc hs.2.1 hst hc2
    rw [hset, hsc, hte, hfin]
    refine ⟨_, _, rfl, Qce.setDone_ctx .success hax, fun j hj => ?_, fun _ => ⟨rfl, rfl, ?_⟩, fun h1 h2 => absurd ⟨h1, h2⟩ hgo⟩
    · dsimp only
      rw [Qce.setDone_other .success hj]
      show a.qce.ctx? j = _
      rw [haq.1]; exact hoth j hj
    · dsimp only [State.withFl]
      rw [ha, hv, ← hfl]
      split <;> rfl

end Sys2Proof.Machine
end

