-- ==== Sys2Proof/Laws/Admin.lean ====
section
/-! SUPPORT. What every admin command shares (R93): it is taken, handled, and ends. -/

namespace Sys2Proof.Machine

open Safety

/-- What a taken admin command's context holds, and what the taking left alone. -/
structure AdminFacts (s g : State) (a : AdminCmd) (k : Nat) (x : Ctx) : Prop where
  ctxs : g.qce.ctxs = Tab.set s.qce.ctxs k x
  here : g.qce.ctx? k = some x
  kind : x.kind = .admin
  inst : x.inst = a.inst
  sqid : x.sqid = 0
  sqe : x.sqe = a.q
  fsn : x.fsn = s.qce.fsn
  state : x.state = .fw
  rlWait : x.rlWait = false
  side : x.side = false
  detached : x.detached = false
  ord : x.ord = false
  adm : x.adm = true
  arrived : x.arrived = false
  encrypted : x.encrypted = false
  recorded : x.recorded = false
  zone : x.zone = none
  nsx : x.nsx = none
  nss : x.nss = []
  dw0 : x.dw0 = 0
  dw1 : x.dw1 = 0
  fresh : ∀ e ∈ s.qce.ctxs, e.1 ≠ k
  runs : s.fetches = true
  locks : g.qce.locks = s.qce.locks
  cqs : g.qce.cqs = s.qce.cqs
  sqs : ∀ j, j ≠ qKey a.inst 0 → Tab.get? g.qce.sqs j = Tab.get? s.qce.sqs j
  insts : ∀ j, j ≠ a.inst → Tab.get? g.qce.insts j = Tab.get? s.qce.insts j
  me : ∃ i, s.qce.inst? a.inst = some i ∧ g.qce.inst? a.inst = some { i with kaAt := s.clock.now }
  frame : g = { s with hfu := { s.hfu with ports := g.hfu.ports }, qce := g.qce, out := g.out }
  calm : Safety.calm g

theorem admin_facts {s g : State} {a : AdminCmd} {opc k : Nat} {sc : AdminScope} {x : Ctx} (h : adminTaken s g a opc sc k x) :
    AdminFacts s g a k x := by
  obtain ⟨-, ht, hx, -, -, -, -, hc⟩ := h
  have h0 := ht
  unfold State.take at ht
  split at ht
  · next i sq hi hsq =>
    dsimp only at ht
    split at ht
    · next hh =>
      simp only [Option.some.injEq, Prod.mk.injEq] at ht
      obtain ⟨rfl, rfl⟩ := ht
      rw [State.allotment_frame] at hx ⊢
      obtain ⟨z, hz⟩ : ∃ z, z = ({ Ctx.blank with
          kind := .admin, inst := a.inst, sqid := 0, sqe := a.q, fsn := s.qce.fsn, lc := if (0 : Nat) = 0 then 0 else sq.lc, ord := sq.ordered && (0 : Nat) != 0
          adm := (0 : Nat) == 0, fab := i.eth, wr := a.q.opc % 2 == 1 && Kind.admin != .purge && Kind.admin != .zoneSend, order := sq.nextOrder, shared := sq.heldRes == 0
          fetchedAt := s.clock.now, state := if (0 : Nat) = 0 then .fw else .fetched } : Ctx) := ⟨_, rfl⟩
      have hxz : x = z := by
        have : some x = some z := by
          rw [← hx, hz]
          exact Tab.get?_set_self _ _ _
        exact Option.some.inj this
      subst hxz
      have hst : x.state = .fw := by rw [hz]; rfl
      have hsd : x.side = false := by rw [hz]; rfl
      have hdt : x.detached = false := by rw [hz]; rfl
      have hrl : x.rlWait = false := by rw [hz]; rfl
      have har : x.arrived = false := by rw [hz]; rfl
      have hen : x.encrypted = false := by rw [hz]; rfl
      refine
        { ctxs := by rw [hz]; rfl, here := hx, kind := by rw [hz], inst := by rw [hz], sqid := by rw [hz], sqe := by rw [hz], fsn := by rw [hz], state := hst
          rlWait := hrl, side := hsd, detached := hdt, ord := by rw [hz]; simp, adm := by rw [hz]; rfl, arrived := har, encrypted := hen
          recorded := by rw [hz]; rfl, zone := by rw [hz]; rfl, nsx := by rw [hz]; rfl, nss := by rw [hz]; rfl, dw0 := by rw [hz]; rfl, dw1 := by rw [hz]; rfl
          fresh := Tab.firstFree_fresh _, runs := ?_, locks := rfl, cqs := rfl, sqs := ?_, insts := ?_, me := ?_, frame := rfl, calm := ?_ }
      · simp only [Bool.and_eq_true] at hh
        exact hh.1.1.1.1
      · intro j hj
        dsimp only
        rw [Tab.get?_set, if_neg hj]
      · intro j hj
        dsimp only
        rw [Tab.get?_upd, if_neg hj]
      · refine ⟨i, hi, ?_⟩
        simp only [Qce.inst?]
        exact Tab.get?_upd_self (f := fun i : Inst => { i with kaAt := s.clock.now }) hi
      · refine ⟨hc.1, ?_, Tab.rising_set hc.2.2 _ _⟩
        intro e he
        refine (Tab.mem_set he).elim (fun q => ?_) (hc.2.1 e)
        rw [q]
        simp [atRest, Ctx.blank]
    · cases ht
  · cases ht

/-- A taken admin command is handled, and then whatever can go on does. -/
theorem State.adminNow_goes {s g : State} {a : AdminCmd} {opc k : Nat} {sc : AdminScope} {x : Ctx} {sd sn : Bool} {go : State → Nat → Ctx → State}
    (h : adminTaken s g a opc sc k x) : s.adminNow a opc sc sd sn go = (go g k x).settle := by
  have f := admin_facts h
  obtain ⟨hs, ht, hx, ho, hi, hss, hp, hc⟩ := h
  have hg : g.sanitizeStatus = none := by
    have e : g.sec = s.sec := by rw [f.frame]
    simp [State.sanitizeStatus, e, hc.1, hss]
  rw [State.adminNow, hs, if_neg (by simp), ht]
  dsimp only
  rw [hx]
  dsimp only
  rw [if_neg (by rw [f.sqe, ho, hi, f.side]; simp)]
  cases sn
  · rw [if_neg (by simp), hg]
  · rw [if_pos rfl]

/-- The same of a command that waits for the end of a handover (R407). -/
theorem State.admin_goes {s g : State} {a : AdminCmd} {opc k : Nat} {sc : AdminScope} {x : Ctx} {sd sn : Bool} {go : State → Nat → Ctx → State}
    (h : adminTaken s g a opc sc k x) : s.admin a opc sc sd sn go = (go g k x).settle := by
  have e : g.until' (g.mgc.postHold - 5000) = g := by
    have hp := h.2.2.2.2.2.2.1
    exact State.until'_past (by rw [(admin_facts h).frame]; dsimp only; omega)
  rw [State.admin, State.adminNow_goes h, e]

/-- No handover holds a command back when it has been taken so (R407). -/
theorem adminTaken_handover {s g : State} {a : AdminCmd} {opc k : Nat} {sc : AdminScope} {x : Ctx} (h : adminTaken s g a opc sc k x) : g.handover = false := by
  have hp := h.2.2.2.2.2.2.1
  rw [(admin_facts h).frame]
  exact decide_eq_false (by dsimp only; omega)

/-- A handled admin command that ends well: COMPLETING with its status and dwords; nothing else goes on. -/
theorem AdminFacts.done {s g h : State} {a : AdminCmd} {k : Nat} {x y : Ctx} {st : Status} (_f : AdminFacts s g a k x) (hctx : h.qce.ctxs = Tab.set s.qce.ctxs k y)
    (hy : y.state = .fw ∧ y.side = false ∧ y.detached = false ∧ y.rlWait = false ∧ y.encrypted = false ∧ y.arrived = false) (hsec : h.sec.sanitize = s.sec.sanitize) (hok : st.isOk = true) (hs : Safety.calm s) :
    (h.fin k st).settle = { h with qce := h.qce.setDone k st } ∧ completed s { h with qce := h.qce.setDone k st } k st y.dw0 := by
  have hx : h.qce.ctx? k = some y := by rw [Qce.ctx?, hctx]; exact Tab.get?_set_self _ _ _
  have hcalm : Safety.calm h := by
    refine ⟨hsec ▸ hs.1, ?_, hctx ▸ Tab.rising_set hs.2.2 _ _⟩
    rw [hctx]; intro e he
    refine (Tab.mem_set he).elim (fun q => ?_) (hs.2.1 e)
    rw [q]; simp [atRest, hy]
  refine ⟨State.done_calm hcalm hx (by simp [Ctx.open', hy.1]) ⟨hy.2.1, hy.2.2.1⟩ hok, ⟨_, Qce.setDone_ctx _ hx, rfl, rfl, rfl⟩, fun j hj => ?_⟩
  refine (Qce.setDone_other _ hj).trans ?_
  rw [Qce.ctx?, hctx, Tab.get?_set, if_neg hj]; rfl

/-- A handled admin command that fails: COMPLETING with its status; only what its die reads held is let go. -/
theorem AdminFacts.fails {s g h : State} {a : AdminCmd} {k : Nat} {x y : Ctx} {st : Status} (_f : AdminFacts s g a k x) (hctx : h.qce.ctxs = Tab.set s.qce.ctxs k y)
    (hy : y.state = .fw ∧ y.side = false ∧ y.detached = false ∧ y.rlWait = false ∧ y.encrypted = false ∧ y.arrived = false) (hz : y.zone = none) (hord : y.ord = false)
    (hsec : h.sec.sanitize = s.sec.sanitize) (hok : st.isOk = false) (hne : ¬ (st.sct = 2 ∧ st.sc = 0x81)) (hs : Safety.calm s) :
    ∃ d m, (h.fin k st).settle = { h with qce := h.qce.setDone k st, fl := { h.fl with dip := d, mbe := m, ptx := { h.fl.ptx with growths := Tab.erase h.fl.ptx.growths k } } }
      ∧ completed s { h with qce := h.qce.setDone k st, fl := { h.fl with dip := d, mbe := m, ptx := { h.fl.ptx with growths := Tab.erase h.fl.ptx.growths k } } } k st y.dw0 := by
  have hx : h.qce.ctx? k = some y := by rw [Qce.ctx?, hctx]; exact Tab.get?_set_self _ _ _
  have hcalm : Safety.calm h := by
    refine ⟨hsec ▸ hs.1, ?_, hctx ▸ Tab.rising_set hs.2.2 _ _⟩
    rw [hctx]; intro e he
    refine (Tab.mem_set he).elim (fun q => ?_) (hs.2.1 e)
    rw [q]; simp [atRest, hy]
  obtain ⟨d, m, e⟩ := State.fail_calm (st := st) hcalm hx (by simp [Ctx.open', hy.1]) ⟨hy.2.1, hy.2.2.1⟩ hz hord hok hne
  refine ⟨d, m, e, ⟨_, Qce.setDone_ctx _ hx, rfl, rfl, rfl⟩, fun j hj => ?_⟩
  refine (Qce.setDone_other _ hj).trans ?_
  rw [Qce.ctx?, hctx, Tab.get?_set, if_neg hj]; rfl

theorem AdminFacts.own {s g : State} {a : AdminCmd} {k : Nat} {x : Ctx} (f : AdminFacts s g a k x) :
    x.state = .fw ∧ x.side = false ∧ x.detached = false ∧ x.rlWait = false ∧ x.encrypted = false ∧ x.arrived = false :=
  ⟨f.state, f.side, f.detached, f.rlWait, f.encrypted, f.arrived⟩

/-- Setting the taken context leaves the others as they were. -/
theorem AdminFacts.setSelf {s g : State} {a : AdminCmd} {k : Nat} {x : Ctx} (f : AdminFacts s g a k x) (y : Ctx) :
    Tab.set g.qce.ctxs k y = Tab.set s.qce.ctxs k y := by rw [f.ctxs, Tab.set_set]

/-- An admin command that fails before it does anything. -/
theorem AdminFacts.away {s g : State} {a : AdminCmd} {k : Nat} {x : Ctx} {st : Status} (f : AdminFacts s g a k x) (hok : st.isOk = false)
    (hne : ¬ (st.sct = 2 ∧ st.sc = 0x81)) (hs : Safety.calm s) : ∃ t, (g.fin k st).settle = t ∧ turnedAway s t k st := by
  obtain ⟨d, m, e, h⟩ := f.fails (h := g) (y := x) f.ctxs f.own f.zone f.ord (by rw [f.frame]) hok hne hs
  refine ⟨_, e, by rw [f.dw0] at h; exact h, f.cqs, ?_⟩
  dsimp only
  have e2 := f.frame
  generalize g.hfu.ports = p at e2
  generalize g.out = o at e2
  generalize hq : g.qce = q at e2
  subst e2
  rfl

/-- The same, with completion dword 1 set. -/
theorem AdminFacts.awayWith {s g : State} {a : AdminCmd} {k : Nat} {x : Ctx} {st : Status} (f : AdminFacts s g a k x) (hok : st.isOk = false)
    (hne : ¬ (st.sct = 2 ∧ st.sc = 0x81)) (hs : Safety.calm s) (d1 : Nat) :
    ∃ t, (g.finWith k st 0 d1).settle = t ∧ turnedAway s t k st ∧ (t.qce.ctx? k).map (·.dw1) = some d1 := by
  rw [State.finWith]
  obtain ⟨u, hu⟩ : ∃ u, u = g.updCtx k fun y => { y with dw0 := 0, dw1 := d1 } := ⟨_, rfl⟩
  rw [← hu]
  have hctx : u.qce.ctxs = Tab.set s.qce.ctxs k { x with dw0 := 0, dw1 := d1 } := by
    rw [hu]
    simp only [State.updCtx, Qce.updCtx]
    rw [f.ctxs, Tab.upd_set f.fresh]
  have hx : u.qce.ctx? k = some { x with dw0 := 0, dw1 := d1 } := by rw [Qce.ctx?, hctx]; exact Tab.get?_set_self _ _ _
  obtain ⟨d, m, e, h⟩ := f.fails (h := u) hctx f.own f.zone f.ord (by rw [hu]; show g.sec.sanitize = _; rw [f.frame]) hok hne hs
  refine ⟨_, e, ⟨h, ?_, ?_⟩, ?_⟩
  · rw [hu]; exact f.cqs
  · dsimp only
    generalize hq : u.qce.setDone k st = q
    rw [hu, State.updCtx]
    dsimp only
    have e2 := f.frame
    generalize g.hfu.ports = p at e2
    generalize g.out = o at e2
    generalize g.qce = r at e2
    subst e2
    rfl
  · rw [Qce.setDone_ctx st hx]
    rfl

/-- A handled admin command that ends well, as a new queue engine. -/
theorem AdminFacts.ends {s g h : State} {a : AdminCmd} {k : Nat} {x : Ctx} {st : Status} (f : AdminFacts s g a k x) (hctx : h.qce.ctxs = g.qce.ctxs)
    (hsec : h.sec.sanitize = s.sec.sanitize) (hok : st.isOk = true) (hs : Safety.calm s) :
    ∃ q, (h.fin k st).settle = { h with qce := q } ∧ completed s { h with qce := q } k st 0 ∧ q.insts = h.qce.insts ∧ q.sqs = h.qce.sqs ∧ q.cqs = h.qce.cqs
      ∧ q.vq = h.qce.vq := by
  obtain ⟨e, c⟩ := f.done (h := h) (y := x) (st := st) (hctx.trans f.ctxs) f.own hsec hok hs
  rw [f.dw0] at c
  exact ⟨_, e, c, rfl, rfl, rfl, rfl⟩

/-- The same with completion dwords. -/
theorem AdminFacts.endsWith {s g h : State} {a : AdminCmd} {k : Nat} {x : Ctx} {st : Status} (f : AdminFacts s g a k x) (hctx : h.qce.ctxs = g.qce.ctxs)
    (hsec : h.sec.sanitize = s.sec.sanitize) (hok : st.isOk = true) (hs : Safety.calm s) (d0 d1 : Nat) :
    ∃ q, (h.finWith k st d0 d1).settle = { h with qce := q } ∧ completed s { h with qce := q } k st d0 ∧ q.insts = h.qce.insts ∧ q.sqs = h.qce.sqs
      ∧ q.cqs = h.qce.cqs ∧ q.vq = h.qce.vq ∧ (q.ctx? k).map (·.dw1) = some d1 := by
  have hcalm : Safety.calm h := calm_of f.calm (by rw [hsec, f.frame]) hctx
  have hx : h.qce.ctx? k = some x := by rw [Qce.ctx?, hctx]; exact f.here
  rw [State.finWith, State.updCtx_calm hcalm hx]
  obtain ⟨y, hy⟩ : ∃ y, y = ({ x with dw0 := d0, dw1 := d1 } : Ctx) := ⟨_, rfl⟩
  rw [← hy]
  obtain ⟨e, c⟩ := f.done (h := h.setCtx k y) (y := y) (st := st) (by show Tab.set h.qce.ctxs k y = _; rw [hctx]; exact f.setSelf y) (by rw [hy]; exact f.own) hsec hok hs
  rw [show y.dw0 = d0 by rw [hy]] at c
  have hd : (((h.setCtx k y).qce.setDone k st).ctx? k).map (·.dw1) = some d1 := by
    have hyx : (h.setCtx k y).qce.ctx? k = some y := Tab.get?_set_self _ _ _
    rw [Qce.setDone_ctx st hyx, hy]
    rfl
  exact ⟨_, e, c, rfl, rfl, rfl, rfl, hd⟩

/-- The frame of a command that changed nothing but the queue engine. -/
theorem AdminFacts.only {s g : State} {a : AdminCmd} {k : Nat} {x : Ctx} (f : AdminFacts s g a k x) (q : Qce) (o : List Output) :
    onlyQueues s { g with qce := q, out := o } := by
  rw [onlyQueues, f.frame]

/-- An event for instances without an outstanding request only waits. -/
theorem Qce.tellEvents_waits {q : Qce} {inst : Nat} {i : Inst} (h : q.inst? inst = some i) (ha : i.aers = []) (n : Nat) : q.tellEvents inst n = q := by
  cases n with
  | zero => rfl
  | succ n => rw [Qce.tellEvents, h]; dsimp only; rw [ha]

theorem Qce.raise_waits {q : Qce} {inst : Nat} {e : AsyncEvent} (h : ∀ i, q.inst? inst = some i → i.aers = []) :
    ∃ ins, q.raise inst e = { q with insts := ins } ∧ ∀ j, (Tab.get? ins j).map (·.aers) = (q.inst? j).map (·.aers) := by
  rw [Qce.raise]
  cases hi : q.inst? inst with
  | none => exact ⟨q.insts, rfl, fun j => rfl⟩
  | some i =>
    dsimp only
    split
    · have h1 : (q.updInst inst fun i => { i with events := i.events ++ [e] }).inst? inst = some { i with events := i.events ++ [e] } := Tab.get?_upd_self (f := fun i : Inst => { i with events := i.events ++ [e] }) hi
      rw [Qce.tellEvents_waits h1 (by exact h i hi)]
      refine ⟨_, rfl, fun j => ?_⟩
      rw [Tab.get?_upd]
      split
      · next hj => subst hj; rw [Qce.inst?]; cases Tab.get? q.insts j <;> rfl
      · rfl
    · exact ⟨q.insts, rfl, fun j => rfl⟩

/-- A changed namespace is noted for each instance; where none has an outstanding request nothing completes. -/
theorem Qce.nsChanged_waits {is : List Nat} {q : Qce} (nsid : Nat) (h : ∀ j ∈ is, ∀ i, q.inst? j = some i → i.aers = []) :
    ∃ ins, q.nsChanged nsid is = { q with insts := ins } ∧ ∀ j, (Tab.get? ins j).map (·.aers) = (q.inst? j).map (·.aers) := by
  induction is generalizing q with
  | nil => exact ⟨q.insts, rfl, fun j => rfl⟩
  | cons a is ih =>
    obtain ⟨p, hp⟩ : ∃ p, p = (q.updInst a fun x => { x with changedNs := if x.changedNs.contains nsid then x.changedNs else x.changedNs ++ [nsid] }) := ⟨_, rfl⟩
    have hpa : ∀ j, (p.inst? j).map (·.aers) = (q.inst? j).map (·.aers) := by
      intro j
      rw [hp]
      simp only [Qce.inst?, Qce.updInst]
      rw [Tab.get?_upd]
      split
      · next hj => subst hj; cases Tab.get? q.insts j <;> rfl
      · rfl
    have hw : ∀ (r : Qce), (∀ j, (r.inst? j).map (·.aers) = (q.inst? j).map (·.aers)) → ∀ j ∈ a :: is, ∀ i, r.inst? j = some i → i.aers = [] := by
      intro r hr j hj i hi
      have h2 := hr j
      rw [hi] at h2
      cases hq : q.inst? j with
      | none => rw [hq] at h2; simp at h2
      | some z =>
        rw [hq] at h2
        simp only [Option.map_some, Option.some.injEq] at h2
        rw [h2]; exact h j hj z hq
    obtain ⟨ins, h1, h2⟩ := Qce.raise_waits (q := p) (inst := a) (e := ⟨2, 0x00, 0x04⟩) (hw p hpa a List.mem_cons_self)
    have h3 : ∀ j, (({ p with insts := ins } : Qce).inst? j).map (·.aers) = (q.inst? j).map (·.aers) := fun j => (h2 j).trans (hpa j)
    obtain ⟨ins2, h4, h5⟩ := ih (q := { p with insts := ins }) (fun j hj => hw _ h3 j (List.mem_cons_of_mem _ hj))
    refine ⟨ins2, ?_, fun j => (h5 j).trans (h3 j)⟩
    have e : q.nsChanged nsid (a :: is) = (p.raise a ⟨2, 0x00, 0x04⟩).nsChanged nsid is := by rw [hp]; rfl
    rw [e, h1, h4, hp]
    rfl

theorem Tab.upd_single {α : Type} (k : Nat) (a : α) (f : α → α) : Tab.upd [(k, a)] k f = [(k, f a)] := by simp [Tab.upd]

/-- Every entry that an admin command takes is its own. -/
theorem Qce.putLocks_own {q : Qce} {fsn c : Nat} {ss : List (Nat × Span)} (h : ∀ e ∈ q.locks, e.2.fsn = fsn ∧ e.2.ctx = c) :
    ∃ l, q.putLocks fsn c ss = { q with locks := l } ∧ ∀ e ∈ l, e.2.fsn = fsn ∧ e.2.ctx = c := by
  induction ss generalizing q with
  | nil => exact ⟨q.locks, rfl, h⟩
  | cons a ss ih =>
    obtain ⟨r, hr⟩ : ∃ r, r = (Tab.firstFree q.locks 0 (q.locks.length + 1)).getD 0 := ⟨_, rfl⟩
    have e : q.putLocks fsn c (a :: ss) = ({ q with locks := Tab.set q.locks r ⟨a.1, a.2.lo, a.2.len, fsn, c⟩ } : Qce).putLocks fsn c ss := by rw [hr]; rfl
    obtain ⟨l, h1, h2⟩ := ih (q := { q with locks := Tab.set q.locks r ⟨a.1, a.2.lo, a.2.len, fsn, c⟩ }) (by
      intro e he
      refine (Tab.mem_set he).elim (fun w => ?_) (h e)
      rw [w]; exact ⟨rfl, rfl⟩)
    exact ⟨l, by rw [e, h1], h2⟩

/-- An admin command alone in the device takes the entries of its namespaces and is in FW with them. -/
theorem AdminFacts.locked {s g h : State} {a : AdminCmd} {k : Nat} {x : Ctx} {ks : List Nat} (f : AdminFacts s g a k x) (hctx : h.qce.ctxs = g.qce.ctxs)
    (hl : h.qce.locks = []) (h0 : s.qce.ctxs = []) (hk : ks.length ≤ 262144) :
    ∃ w l, (h.setCtx k { x with nss := ks, arrived := true }).lockAndRoute k = { h with qce := { h.qce with ctxs := [(k, w)], locks := l } }
      ∧ w = { x with nss := ks, arrived := true, rlidx := w.rlidx } ∧ ∀ e ∈ l, e.2.fsn = x.fsn ∧ e.2.ctx = k := by
  obtain ⟨z, hz⟩ : ∃ z, z = ({ x with nss := ks, arrived := true } : Ctx) := ⟨_, rfl⟩
  rw [← hz]
  have hzk : z.kind = .admin := by rw [hz]; exact f.kind
  have hzn : z.nsx = none := by rw [hz]; exact f.nsx
  have hzs : z.state = .fw := by rw [hz]; exact f.state
  have hzr : z.rlWait = false := by rw [hz]; exact f.rlWait
  have hzf : z.fsn = x.fsn := by rw [hz]
  have hzns : z.nss = ks := by rw [hz]
  have hset : h.setCtx k z = { h with qce := { h.qce with ctxs := [(k, z)] } } := by
    rw [State.setCtx, hctx, f.setSelf, h0]; rfl
  rw [hset]
  have hsp : z.lockSpans = ks.map fun k => (k, wholeNs) := by
    rw [Ctx.lockSpans, hzn, hzk, hzns]; simp
  have hg1 : (({ h with qce := { h.qce with ctxs := [(k, z)] } } : State)).qce.ctx? k = some z := by simp [Qce.ctx?, Tab.get?]
  have htake : ∃ w l, ({ h.qce with ctxs := [(k, z)] } : Qce).takeLock k = { h.qce with ctxs := [(k, w)], locks := l } ∧ w = { z with rlidx := w.rlidx }
      ∧ ∀ e ∈ l, e.2.fsn = x.fsn ∧ e.2.ctx = k := by
    rw [Qce.takeLock, show ({ h.qce with ctxs := [(k, z)] } : Qce).ctx? k = some z from hg1]
    dsimp only
    rw [hsp]
    split
    · exact ⟨z, h.qce.locks, rfl, rfl, by rw [hl]; simp⟩
    · rw [if_pos ⟨by rw [hl]; simpa using hk, by simp [fsnBefore_self]⟩]
      obtain ⟨l, h1, h2⟩ := Qce.putLocks_own (q := { h.qce with ctxs := [(k, z)] }) (fsn := z.fsn) (c := k) (ss := ks.map fun k => (k, wholeNs)) (by dsimp only; rw [hl]; simp)
      rw [h1]
      refine ⟨{ z with rlidx := some ((Tab.firstFree h.qce.locks 0 (h.qce.locks.length + 1)).getD 0) }, l, ?_, rfl, by rw [hzf] at h2; exact h2⟩
      simp only [Qce.updCtx, Tab.upd]
      simp [hzr]
  obtain ⟨w, l, h1, h2, h3⟩ := htake
  refine ⟨w, l, ?_, by rw [h2, hz], h3⟩
  rw [State.lockAndRoute]
  dsimp only
  rw [h1, State.route]
  have hw1 : (({ h with qce := { h.qce with ctxs := [(k, w)], locks := l } } : State)).qce.ctx? k = some w := by simp [Qce.ctx?, Tab.get?]
  have hwk : w.kind = .admin := by rw [h2]; exact hzk
  have hws : w.state = .fw := by rw [h2]; exact hzs
  have hwr : w.rlWait = false := by rw [h2]; exact hzr
  have hwf : w.fsn = x.fsn := by rw [h2]; exact hzf
  rw [hw1]
  dsimp only
  rw [hwr, if_neg (by simp)]
  have hb : ({ h.qce with ctxs := [(k, w)], locks := l } : Qce).blocked w = false := by
    rw [Qce.blocked]
    simp only [Bool.or_eq_false_iff, List.any_eq_false]
    refine ⟨fun e he => ?_, ?_⟩
    · have := (h3 e he).1
      simp [this, hwf, fsnBefore_self]
    · intro e he
      simp only [List.mem_singleton] at he
      subst he
      simp [fsnBefore_self]
  rw [hb, if_neg (by simp), State.toAdmit, hw1]
  dsimp only
  rw [if_pos (by rw [hwk]; rfl), State.updCtx, Qce.updCtx]
  have hu : ({ w with state := .fw, lockTime := if w.state = .lockwait then h.clock.now - w.lockAt else w.lockTime } : Ctx) = w := by
    rw [if_neg (by rw [hws]; simp), ← hws]
  rw [Tab.upd_single, hu]

/-- An admin command alone in the device, with its entries, acts and ends well: `h` is what it does. -/
theorem AdminFacts.acted {s g h u : State} {a : AdminCmd} {k : Nat} {x w : Ctx} {ks : List Nat} {l : Tab Lock} (f : AdminFacts s g a k x)
    (h0 : s.qce.ctxs = []) (hw : w = { x with nss := ks, arrived := true, rlidx := w.rlidx }) (hl : ∀ e ∈ l, e.2.fsn = x.fsn ∧ e.2.ctx = k)
    (hu : u.qce.ctxs = [(k, w)]) (hact : u.actOnNs k w = h.fin k .success) (hh : h.qce.ctxs = [(k, w)]) (hlk : h.qce.locks = l) (hsec : h.sec.sanitize = none)
    (hho : u.handover = false) :
    u.settle = { h with qce := h.qce.setDone k .success } ∧ completed s { h with qce := h.qce.setDone k .success } k .success 0
      ∧ (h.qce.setDone k .success).locks = [] := by
  have hx : h.qce.ctx? k = some w := by rw [Qce.ctx?, hh]; simp [Tab.get?]
  have hux : u.qce.ctx? k = some w := by rw [Qce.ctx?, hu]; simp [Tab.get?]
  have hst : w.state = .fw := by rw [hw]; exact f.state
  have hen : w.encrypted = false := by rw [hw]; exact f.encrypted
  have har : w.arrived = true := by rw [hw]
  have hsd : w.side = false ∧ w.detached = false := by rw [hw]; exact ⟨f.side, f.detached⟩
  have hgo : u.settleCtx k = u.actOnNs k w := by
    rw [State.settleCtx, hux]
    dsimp only
    rw [hst]
    dsimp only
    rw [hho, if_neg (by simp), hen, har, if_neg (by simp), if_pos rfl]
  have hfin : h.fin k .success = { h with qce := h.qce.setDone k .success } := State.fin_ok hx (by simp [Ctx.open', hst]) rfl
  have hctx : (h.qce.setDone k .success).ctxs = [(k, { w with rlidx := none, rlWait := false, state := .completing, status := .success, doneSeq := h.qce.doneSeq + 1 })] := by
    have := Qce.setDone_set (q := h.qce) (t := []) (c := k) (y := w) (st := .success) hh rfl
    rw [this]; rfl
  have hcalm : Safety.calm (u.settleCtx k) := by
    rw [hgo, hact, hfin]
    refine ⟨hsec, ?_, ?_⟩
    · intro e he
      rw [show (({ h with qce := h.qce.setDone k .success } : State)).qce.ctxs = _ from hctx] at he
      simp only [List.mem_singleton] at he
      subst he
      simp [atRest, hsd]
    · show Tab.rising (h.qce.setDone k .success).ctxs = true
      rw [hctx]; rfl
  have hs1 : u.settle = u.settleCtx k := State.settle_one (t := []) (x := w) hu (by simp) (by simp [Ctx.stalls, hst, har]) hcalm
  refine ⟨by rw [hs1, hgo, hact, hfin], ⟨⟨_, Qce.setDone_ctx .success hx, rfl, rfl, by rw [hw]; exact f.dw0⟩, ?_⟩, ?_⟩
  · intro j hj
    show Tab.get? (h.qce.setDone k .success).ctxs j = s.qce.ctx? j
    rw [hctx, Qce.ctx?, h0]
    simp [Tab.get?, Ne.symm hj]
  · rw [Qce.setDone_locks, hlk, Tab.keep, List.filter_eq_nil_iff]
    intro e he
    simp [(hl e he).2]

end Sys2Proof.Machine
end

