-- ==== Sys2Proof/Laws/Word.lean ====
section
/-! SUPPORT. Bit fields: what a field reads as after a field is set. -/

namespace Sys2Proof

theorem W32.bits_eq (w : W32) (hi lo : Nat) : w.bits hi lo = (w.extractLsb' lo (hi + 1 - lo)).toNat := by
  simp [W32.bits, natBits, BitVec.extractLsb'_toNat, Nat.shiftRight_eq_div_pow]

theorem getLsbD_maskOf (hi lo i : Nat) (h : hi < 32) : (maskOf hi lo).getLsbD i = (decide (lo ≤ i) && decide (i ≤ hi)) := by
  unfold maskOf
  rw [BitVec.getLsbD_ofNat, Nat.testBit_mul_two_pow, Nat.testBit_two_pow_sub_one]
  by_cases h1 : lo ≤ i <;> by_cases h2 : i ≤ hi <;> simp [h1, h2] <;> omega

/-- A bit of a value after a field is set. -/
theorem W32.getLsbD_setBits (w : W32) (hi lo v i : Nat) (h : hi < 32) :
    (w.setBits hi lo v).getLsbD i = if lo ≤ i ∧ i ≤ hi then v.testBit (i - lo) else w.getLsbD i := by
  unfold W32.setBits
  simp only [BitVec.getLsbD_or, BitVec.getLsbD_and, BitVec.getLsbD_not, getLsbD_maskOf _ _ _ h, BitVec.getLsbD_ofNat,
    Nat.testBit_mul_two_pow, Nat.testBit_mod_two_pow]
  by_cases h1 : lo ≤ i <;> by_cases h2 : i ≤ hi
  · have a : i < 32 := by omega
    have b : i - lo < hi + 1 - lo := by omega
    simp [h1, h2, a, b]
  · simp [h1, h2]
    exact fun hw => BitVec.lt_of_getLsbD hw
  · simp [h1, h2]
    exact fun hw => BitVec.lt_of_getLsbD hw
  · simp [h1, h2]
    exact fun hw => BitVec.lt_of_getLsbD hw

/-- A field after it is set. -/
theorem W32.bits_setBits_self (w : W32) (hi lo v : Nat) (h : hi < 32) : (w.setBits hi lo v).bits hi lo = v % 2 ^ (hi + 1 - lo) := by
  rw [W32.bits_eq]
  apply Nat.eq_of_testBit_eq
  intro i
  rw [← BitVec.getLsbD.eq_1, BitVec.getLsbD_extractLsb', Nat.testBit_mod_two_pow, W32.getLsbD_setBits _ _ _ _ _ h]
  by_cases hi' : i < hi + 1 - lo
  · have a : lo ≤ lo + i ∧ lo + i ≤ hi := by omega
    simp [hi', a]
  · simp [hi']

/-- A field after another one is set. -/
theorem W32.bits_setBits_ne (w : W32) (hi lo v a b : Nat) (h : hi < 32) (d : a < lo ∨ hi < b) : (w.setBits hi lo v).bits a b = w.bits a b := by
  rw [W32.bits_eq, W32.bits_eq]
  congr 1
  apply BitVec.eq_of_getLsbD_eq
  intro i hi'
  rw [BitVec.getLsbD_extractLsb', BitVec.getLsbD_extractLsb', W32.getLsbD_setBits _ _ _ _ _ h, if_neg (by omega)]

end Sys2Proof
end

