-- ==== Sys2Proof/Laws/Csr.lean ====
section
/-! SUPPORT. Writes to registers: what a write that is served does. -/

namespace Sys2Proof.Machine

/-- A write that is served and meets no lock is stored, with what it triggers. -/
theorem State.csrWrite_served (s : State) (r : Requester) (reg : Reg) (v : W32) (eff : State → State) (h : s.serves r = true)
    (hm : r.mayWrite reg.block = true) (hl : s.locked reg = false) : s.csrWrite r reg v eff = eff (s.storeReg reg v) := by
  simp [State.csrWrite, h, hm, hl]

/-- A write to a block's registers by a requester that the block does not admit is refused with REASON 3. -/
theorem State.csrWrite_refused (s : State) (r : Requester) (reg : Reg) (v : W32) (eff : State → State) (h : s.serves r = true)
    (hm : r.mayWrite reg.block = false) : s.csrWrite r reg v eff = s.csrErr 3 r reg.addr := by
  simp [State.csrWrite, h, hm]

theorem State.setReg_reg (s : State) (r q : Reg) (w : W32) : (s.setReg r w).reg q = if q = r then w else s.reg q := by
  unfold State.setReg State.reg
  by_cases hb : q.block = r.block
  · rw [hb]
    cases r.block <;> simp [State.setRegs, State.regs, RegFile.get_set]
  · have hq : q ≠ r := fun e => hb (by rw [e])
    rw [if_neg hq]
    revert hb
    generalize q.block = x
    generalize r.block = y
    cases x <;> cases y <;> simp [State.setRegs, State.regs]

theorem W32.bits_lt (w : W32) (hi lo : Nat) : w.bits hi lo < 2 ^ (hi + 1 - lo) := Nat.mod_lt _ (Nat.two_pow_pos _)

/-- A register after a field of one is set. -/
theorem RegFile.get_setFld (rf : RegFile) (r q : Reg) (hi lo v : Nat) : (rf.setFld r hi lo v).get q = if q = r then (rf.get r).setBits hi lo v else rf.get q := by
  rw [RegFile.setFld, RegFile.get_set]

/-- A field reads as it was set, cut to its width. -/
theorem RegFile.fld_setFld_self (rf : RegFile) (r : Reg) (hi lo v : Nat) (h : hi < 32) : (rf.setFld r hi lo v).fld r hi lo = v % 2 ^ (hi + 1 - lo) := by
  rw [RegFile.fld, RegFile.get_setFld, if_pos rfl, W32.bits_setBits_self _ _ _ _ h]

/-- Another field of the register stays. -/
theorem RegFile.fld_setFld_ne (rf : RegFile) (r : Reg) (hi lo v a b : Nat) (h : hi < 32) (d : a < lo ∨ hi < b) : (rf.setFld r hi lo v).fld r a b = rf.fld r a b := by
  rw [RegFile.fld, RegFile.get_setFld, if_pos rfl, W32.bits_setBits_ne _ _ _ _ _ _ h d]; rfl

/-- A counter field adds and saturates. -/
theorem RegFile.satFld_self (rf : RegFile) (r : Reg) (hi lo n : Nat) (h : hi < 32) : (rf.satFld r hi lo n).fld r hi lo = min (2 ^ (hi + 1 - lo) - 1) (rf.fld r hi lo + n) := by
  rw [RegFile.satFld, RegFile.fld_setFld_self _ _ _ _ _ h, satAdd]
  have : 0 < 2 ^ (hi + 1 - lo) := Nat.two_pow_pos _
  rw [Nat.mod_eq_of_lt (by omega)]

end Sys2Proof.Machine
end

