-- ==== Sys2Proof/Laws/Dram.lean ====
section
/-! SUPPORT. DRAM requests on good lines, and what a request may change beside MSS. -/

namespace Sys2Proof.Machine

/-! ## Good lines -/

theorem syndromes_nil (q : Nat) : syndromes [] q = (0, 0) := rfl

theorem decodeLine_nil (era : Option Nat) : decodeLine era [] = .good := by
  cases era <;> simp [decodeLine, syndromes_nil, decodeCw, List.range, List.range.loop]

theorem Mss.checkLine_clean (m : Mss) (now line : Nat) (h : line ∉ m.poison) : m.checkLine now line [] = (m, none, []) := by
  simp [Mss.checkLine, decodeLine_nil, h]

/-- Good lines pass their check and change nothing. -/
theorem Mss.checkLines_clean (m : Mss) (now : Nat) (ls : List Nat) (h : ∀ l ∈ ls, l ∉ m.poison) : m.checkLines now [] ls = (m, [], []) := by
  induction ls with
  | nil => rfl
  | cons l ls ih =>
    have hl : m.checkLine now l (Tab.getD [] l []) = (m, none, []) := Mss.checkLine_clean m now l (h l (by simp))
    have ih' := ih fun x hx => h x (by simp [hx])
    unfold Mss.checkLines
    split
    · rw [hl]; dsimp only; rw [ih']; rfl
    · exact ih'

/-! ## Stores -/

theorem mem_linesOf (a n l : Nat) : l ∈ linesOf a n ↔ n ≠ 0 ∧ a / 64 ≤ l ∧ l ≤ (a + n - 1) / 64 := by
  unfold linesOf
  split
  · simp_all
  · next h =>
    simp only [List.mem_map, List.mem_range]
    constructor
    · rintro ⟨i, hi, rfl⟩
      have : a / 64 ≤ (a + n - 1) / 64 := Nat.div_le_div_right (by omega)
      exact ⟨h, by omega, by omega⟩
    · rintro ⟨_, h1, h2⟩
      exact ⟨l - a / 64, by omega, by omega⟩

theorem slice_length (bs : List Byte) (i n : Nat) : (slice bs i n).length = n := by
  simp [slice, fit, zeros]; omega

theorem slice_getD (bs : List Byte) (i n k : Nat) (h : k < n) : (slice bs i n).getD k 0 = bs.getD (i + k) 0 := by
  simp only [slice, fit, zeros, List.getD, List.getElem?_take, if_pos h, List.getElem?_append, List.getElem?_drop, List.getElem?_replicate,
    List.length_drop]
  rw [List.length_take, List.length_drop]
  by_cases hk : k < bs.length - i
  · rw [if_pos (by omega)]
  · have : bs.length ≤ i + k := by omega
    rw [if_neg (by omega), List.getElem?_eq_none this]
    split <;> rfl

/-- A store line by line gives every byte of its range at its place, on the lines it goes through. -/
theorem storeLines_get (a : Nat) (bs : List Byte) (ls : List Nat) (hs : ∀ l ∈ ls, l ∈ linesOf a bs.length) (m : Mem) (hm : m.wf = true) (b : Nat) :
    Mem.wf (ls.foldl (fun (mm : Mem) l =>
        Mem.setBytes mm (max a (l * 64)) (slice bs (max a (l * 64) - a) (min (a + bs.length) (l * 64 + 64) - max a (l * 64)))) m) = true
    ∧ Mem.get (ls.foldl (fun (mm : Mem) l =>
        Mem.setBytes mm (max a (l * 64)) (slice bs (max a (l * 64) - a) (min (a + bs.length) (l * 64 + 64) - max a (l * 64)))) m) b
      = if b / 64 ∈ ls ∧ a ≤ b ∧ b < a + bs.length then bs.getD (b - a) 0 else m.get b := by
  induction ls generalizing m with
  | nil => simp [hm]
  | cons l ls ih =>
    rw [List.foldl_cons]
    have hw := Mem.setBytes_wf m (max a (l * 64)) (slice bs (max a (l * 64) - a) (min (a + bs.length) (l * 64 + 64) - max a (l * 64))) hm
    have hl := (mem_linesOf a bs.length l).1 (hs l (by simp))
    refine ⟨(ih (fun x hx => hs x (by simp [hx])) _ hw).1, ?_⟩
    rw [(ih (fun x hx => hs x (by simp [hx])) _ hw).2, Mem.get_setBytes _ _ _ _ hm, slice_length]
    by_cases h1 : b / 64 ∈ ls ∧ a ≤ b ∧ b < a + bs.length
    · rw [if_pos h1, if_pos (by simp [h1])]
    · rw [if_neg h1]
      by_cases h2 : max a (l * 64) ≤ b ∧ b < max a (l * 64) + (min (a + bs.length) (l * 64 + 64) - max a (l * 64))
      · have hb : b / 64 = l := by omega
        rw [if_pos h2, if_pos (by simp [hb]; omega), slice_getD _ _ _ _ (by omega)]
        congr 1; omega
      · rw [if_neg h2, if_neg]
        rintro ⟨h3, h4, h5⟩
        rcases List.mem_cons.1 h3 with h3 | h3
        · exact h2 (by omega)
        · exact h1 ⟨h3, h4, h5⟩

/-- A store on good lines puts exactly its bytes. -/
theorem Mss.store_clean (m : Mss) (now req a : Nat) (bs : List Byte) (hw : m.mem.wf = true) (h : ∀ l ∈ linesOf a bs.length, l ∉ m.poison) :
    (m.store now req a bs []).answers = [.written req a true] ∧ (m.store now req a bs []).uncorr = [] ∧ (m.store now req a bs []).reports = []
      ∧ ∀ b, Mem.get (m.store now req a bs []).mss.mem b = if a ≤ b ∧ b < a + bs.length then bs.getD (b - a) 0 else m.mem.get b := by
  have hc := Mss.checkLines_clean m now (partLines a bs.length) fun l hl => h l (List.mem_filter.1 hl).1
  have hd : ((partLines a bs.length).filter fun l => m.poison.contains l) = [] := by
    rw [List.filter_eq_nil_iff]
    intro l hl
    simpa using h l (List.mem_filter.1 hl).1
  have e : m.store now req a bs [] = ⟨{ m with
      mem := (linesOf a bs.length).foldl (fun (mm : Mem) l =>
        Mem.setBytes mm (max a (l * 64)) (slice bs (max a (l * 64) - a) (min (a + bs.length) (l * 64 + 64) - max a (l * 64)))) m.mem
      poison := m.poison.filter fun l => (partLines a bs.length).contains l || !(linesOf a bs.length).contains l },
      [.written req a true], [], []⟩ := by
    simp only [Mss.store, hc, hd, List.contains_nil, Bool.false_eq_true, if_false, List.isEmpty_nil]
  rw [e]
  refine ⟨rfl, rfl, rfl, fun b => ?_⟩
  have hg := (storeLines_get a bs (linesOf a bs.length) (fun l hl => hl) m.mem hw b).2
  rw [hg]
  by_cases hb : a ≤ b ∧ b < a + bs.length
  · rw [if_pos ⟨(mem_linesOf _ _ _).2 ⟨by omega, by omega, by omega⟩, hb⟩, if_pos hb]
  · rw [if_neg (fun x => hb x.2), if_neg hb]

/-! ## Rows -/

/-- An access changes rows and their bookkeeping only. -/
theorem Mss.access_frame (m : Mss) (now : Nat) (r : Option Nat) (req : Nat) (w : Bool) (a : Nat) :
    (m.access now r req w a).1.poison = m.poison ∧ (m.access now r req w a).1.valid = m.valid ∧ (m.access now r req w a).1.fills = m.fills
      ∧ (m.access now r req w a).1.erasure = m.erasure := by
  simp only [Mss.access]; split <;> simp

theorem Mss.accesses_frame (m : Mss) (now : Nat) (r : Option Nat) (req : Nat) (w : Bool) (ls : List Nat) :
    (m.accesses now r req w ls).1.poison = m.poison ∧ (m.accesses now r req w ls).1.valid = m.valid
      ∧ (m.accesses now r req w ls).1.fills = m.fills ∧ (m.accesses now r req w ls).1.erasure = m.erasure := by
  induction ls generalizing m with
  | nil => simp [Mss.accesses]
  | cons l ls ih =>
    simp only [Mss.accesses]
    split
    · have h := ih (m.access now r req w (l * 64)).1
      have g := Mss.access_frame m now r req w (l * 64)
      simp [h, g]
    · simp [ih]

/-- Whether a report is neither of class U nor an entry into device-erasure mode: it is recorded, and no more. -/
def Report.mild (r : Report) : Bool := r.cls != .u && !(r.src == 0x07 && r.code == 0x04)

theorem Mss.access_mild (m : Mss) (now : Nat) (r : Option Nat) (req : Nat) (w : Bool) (a : Nat) (p : Report)
    (h : p ∈ (m.access now r req w a).2) : p.mild = true := by
  have one : ∀ (c : Prop) [Decidable c] (x : Report), p ∈ (if c then [x] else []) → p = x := by
    intro c _ x hx
    split at hx <;> simp_all
  simp only [Mss.access] at h
  split at h
  · simp at h
  · rw [one _ _ h]; rfl

theorem Mss.accesses_mild (m : Mss) (now : Nat) (r : Option Nat) (req : Nat) (w : Bool) (ls : List Nat) (p : Report)
    (h : p ∈ (m.accesses now r req w ls).2) : p.mild = true := by
  induction ls generalizing m with
  | nil => simp [Mss.accesses] at h
  | cons l ls ih =>
    simp only [Mss.accesses, List.mem_append] at h
    rcases h with h | h
    · split at h
      · exact Mss.access_mild _ _ _ _ _ _ _ h
      · simp at h
    · exact ih _ h

/-! ## The whole state -/

/-- Mild reports are recorded by FEV and change nothing else. -/
theorem State.reports_mild (s : State) (rs : List Report) (h : ∀ r ∈ rs, r.mild = true) : s.reports rs = { s with fev := (s.reports rs).fev } := by
  unfold State.reports
  induction rs generalizing s with
  | nil => rfl
  | cons r rs ih =>
    have hr : s.report r = { s with fev := s.fev.report r s.stamp } := by
      have := h r (by simp)
      unfold State.report
      rw [if_neg]
      simp [Report.mild] at this
      simp [this.1]
    rw [List.foldl_cons, ih _ fun q hq => h q (by simp [hq]), hr]

theorem State.erasures_mild (s : State) (rs : List Report) (h : ∀ r ∈ rs, r.mild = true) : s.erasures rs = s := by
  unfold State.erasures
  rw [if_neg]
  rw [List.any_eq_true]
  rintro ⟨r, hr, e⟩
  have := h r hr
  simp only [Report.mild, Bool.and_eq_true, Bool.not_eq_true'] at this
  simp [this.2] at e

/-- A request that meets no bad line changes MSS, what is reported, and the warnings that hosts may be told of. -/
theorem State.memory_mild (s : State) (m : Mss) (rs : List Report) (h : ∀ r ∈ rs, r.mild = true) :
    ∃ f q w, s.memory m [] rs = { s with mss := m, fev := f, qce := q, health := w } := by
  unfold State.memory
  rw [State.erasures_mild _ _ h, State.reports_mild _ _ h]
  exact ⟨_, _, _, rfl⟩

end Sys2Proof.Machine
end

