-- ==== Sys2Proof/Laws/Faults.lean ====
section
/-! SUPPORT. Faults and recorded events: what a report does (R436 to R445). -/

namespace Sys2Proof.Machine

open Safety

/-- What of FEV says whether the device is in the safe state, why, and what recovers. -/
def Fev.core (f : Fev) : Bool × Bool × Nat × Nat × List Scope × List Nat := (f.safe, f.safeThermal, f.csrc, f.ccode, f.active, f.safeEntries)
/-- Choosing a sector, finding a slot, and appending a record move nothing of the safe state or of a recovery (R436, R448). -/
theorem Fev.chooseReady_core (f : Fev) (s : Nat) : Fev.core (f.chooseReady s) = Fev.core f := by
  unfold Fev.chooseReady; split
  · rfl
  · split <;> rfl

theorem Fev.findSlot_core (f : Fev) (s : Nat) : Fev.core (f.findSlot s).1 = Fev.core f := by
  unfold Fev.findSlot
  split
  · rfl
  · dsimp only
    split
    · split
      · dsimp only; split
        · rw [Fev.chooseReady_core]; rfl
        · rfl
      · rfl
    · split
      · rfl
      · split
        · split
          · dsimp only; split
            · rw [Fev.chooseReady_core]; exact Fev.chooseReady_core f s
            · exact Fev.chooseReady_core f s
          · exact Fev.chooseReady_core f s
        · split
          · exact Fev.chooseReady_core f s
          · exact Fev.chooseReady_core f s

theorem Fev.pump_core (n : Nat) : ∀ f : Fev, Fev.core (Fev.pump n f) = Fev.core f := by
  induction n with
  | zero => intro f; rfl
  | succ n ih =>
    intro f
    unfold Fev.pump
    split
    · rfl
    · split
      · rfl
      · next q rest _ =>
        have h := Fev.findSlot_core f q.ev.sev
        split
        · next g m hg =>
          rw [hg] at h
          dsimp only at h
          split
          · exact h
          · exact h
        · next g hg => rw [hg] at h; exact h
        · next g hg => rw [hg] at h; rw [ih]; exact h

theorem Fev.enqueue_core (f : Fev) (r : EvRec) : Fev.core (f.enqueue r) = Fev.core f := by
  unfold Fev.enqueue
  split
  · rfl
  · split
    · split
      · rfl
      · split <;> rfl
    · rfl

theorem Fev.append_core (f : Fev) (r : EvRec) : Fev.core (f.append r) = Fev.core f := by rw [Fev.append, Fev.pump_core, Fev.enqueue_core]
/-- A report leaves the safe state, its cause and the recoveries in progress as they are (R440). -/
theorem Fev.report_core (f : Fev) (r : Report) (t : Stamp) : Fev.core (f.report r t) = Fev.core f := by
  have h : Fev.core (f.firstFault r t) = Fev.core f := by
    unfold Fev.firstFault; split
    · split <;> rfl
    · rfl
  unfold Fev.report
  split
  · rfl
  · rw [Fev.append_core, h]
/-- A U-class report outside the safe state enters it (R445); the security and the throttle stay. -/
theorem State.report_unsafe {s : State} {r : Report} (hc : r.cls = .u) (h1 : s.fev.safe = false) (h2 : s.dumped = false) :
    Safety.fellSafe s (s.report r) r.src r.code ∧ (s.report r).sec = s.sec ∧ (s.report r).ptm.throttle = s.ptm.throttle ∧ (s.report r).ptm.shutAt = s.ptm.shutAt
      ∧ (s.report r).fev.safeThermal = (r.src == 0x0A && r.code == 0x06) := by
  have hcore : Fev.core (s.fev.enterSafe r s.ptm.hue.judged s.clock.aon s.stamp) = (true, (r.src == 0x0A && r.code == 0x06), r.src, r.code, [], s.clock.aon :: s.fev.safeEntries) := by
    unfold Fev.enterSafe
    dsimp only
    rw [Fev.append_core, Fev.report_core]
    rfl
  rw [State.report, if_pos ⟨hc, by rw [h1]; rfl, by rw [h2]; rfl⟩]
  obtain ⟨g, hg⟩ : ∃ g, g = ({ s with fev := s.fev.enterSafe r s.ptm.hue.judged s.clock.aon s.stamp, qce := { s.qce with insts := Tab.mapVals s.qce.insts fun _ i => { i with cfs := true } }, mss := s.mss.enterSafe, fl := s.fl.enterSafe, mgc := { s.mgc with act := none, acRun := 0, dst := none, ah := { s.mgc.ah with busy := none } }, fetchPaused := false } : State) := ⟨_, rfl⟩
  have hE : s.enterSafe r = if s.ptm.hue.judged then g.startDump (if g.fev.safeThermal = true then 2 else 1) else g := by
    rw [State.enterSafe, hg]
  rw [hE]
  have hgf : g.fev = s.fev.enterSafe r s.ptm.hue.judged s.clock.aon s.stamp := by rw [hg]
  have fell : ∀ t : State, Fev.core t.fev = Fev.core g.fev → t.qce = g.qce → t.mgc = g.mgc → Safety.fellSafe s t r.src r.code ∧ t.fev.safeThermal = (r.src == 0x0A && r.code == 0x06) := by
    intro t a b c
    rw [hgf, hcore] at a
    simp only [Fev.core, Prod.mk.injEq] at a
    refine ⟨⟨a.1, a.2.2.1, a.2.2.2.1, a.2.2.2.2.1, a.2.2.2.2.2, ?_, by rw [c, hg], by rw [c, hg]⟩, a.2.1⟩
    intro i x hx
    rw [Qce.inst?, b, hg]
    dsimp only
    rw [Tab.get?_mapVals]
    rw [Qce.inst?] at hx
    rw [hx]; rfl
  split
  · have hcr : Fev.core (g.startDump (if g.fev.safeThermal = true then 2 else 1)).fev = Fev.core g.fev := by
      unfold State.startDump
      dsimp only
      split
      · rfl
      · rw [Fev.report_core]
    obtain ⟨f1, f2⟩ := fell (g.startDump (if g.fev.safeThermal = true then 2 else 1)) hcr rfl rfl
    exact ⟨f1, by rw [hg]; rfl, by rw [hg]; rfl, by rw [hg]; rfl, f2⟩
  · obtain ⟨f1, f2⟩ := fell g rfl rfl rfl
    exact ⟨f1, by rw [hg], by rw [hg], by rw [hg], f2⟩

/-- A report that enters no safe state only reaches FEV. -/
theorem State.report_mild {s : State} {r : Report} (h : r.mild = true) : s.report r = { s with fev := s.fev.report r s.stamp } := by
  unfold State.report
  rw [if_neg]
  simp [Report.mild] at h
  simp [h.1]

/-- A write that is served, as the statements say it. -/
theorem served_write {s : State} {r : Requester} {reg : Reg} (h : Safety.served s r reg) (v : W32) (eff : State → State) :
    s.csrWrite r reg v eff = eff (s.storeReg reg v) := State.csrWrite_served s r reg v eff h.1 h.2.1 h.2.2

end Sys2Proof.Machine
end

