-- ==== Sys2Proof/Tests/Slice0.lean ====
section
/-! SUPPORT. Tests: one check of each kind refuses an ill-formed command; for every statement a state and operands that meet its hypotheses, clause
by clause; and what single steps do, with values taken from the spec. -/

namespace Sys2Proof.Tests

set_option Elab.async false

open Machine

/-! ## States -/

/-- Device ready, with one die attached, whose capacity state has settled. -/
def up : State :=
  { State.reset with
    mgc := { State.reset.mgc with boot := .ready }, porst := false
    fl := { State.reset.fl with
      hw := { clusters := [(0, ⟨1, 1, 1, 0, 9⟩)], descs := [(0, {})] }
      ptx := { State.reset.fl.ptx with cap := 3, capSince := some 0 }
      mbe := { State.reset.fl.mbe with chSt := [(0, 2)] } } }

/-- A namespace of 1,024 blocks of 4 KiB, attached to instance 0, conventional or zoned with zones of 256 blocks. -/
def space (zoned : Bool) : Ns :=
  { nsze := 1024, lbaf := 1, pit := 0, extended := false, piFirst := false, zoned := zoned, iu := 1, sflags := 0, zsze := if zoned then 256 else 0
    zactive := 4, zopen := 4, stream := none, handles := if zoned then [] else [0, 1], shared := true, attached := [0], slc := false, zones := [], nguid := 1
    eui := 1, dulbe := false, tler := 0, kpio := none }

/-- A function that is ready, with an admin queue and one I/O queue, a context held for each. -/
def sq : Sq := { Sq.fresh 64 0 0 8 4 true with heldSh := 1 }
def fn : Inst := { Inst.fresh 0 true false .ready 16 0 with rdy := true, hostId := 7, vectors := [(0, .fresh)] }

/-- That function, and namespaces 1, conventional, and 2, zoned. -/
def io : State :=
  { up with
    qce := { up.qce with insts := [(0, fn)], sqs := [(0, sq), (1, { sq with cq := 1 })], cqs := [(0, ⟨64, 0, 0, true, some 0⟩), (1, ⟨64, 0, 0, true, some 0⟩)] }
    tas := { up.tas with insts := [(0, TasInst.fresh .default' 0)] }
    fl := { up.fl with ptx := { up.fl.ptx with nss := [(0, space false), (1, space true)], fdp := true } } }

/-- A command of the I/O queue, and one of the admin queue. -/
def cmd (q : Sqe) : IoCmd := ⟨0, 1, q⟩
def adm (q : Sqe) : AdminCmd := ⟨0, false, q⟩

/-- The device with a command taken into its context, that context's number and its content. -/
def gOf (s : State) (c : IoCmd) (k : Kind) : State := ((s.take c.inst c.sqid k c.q).map (·.1)).getD s
def kOf (s : State) (c : IoCmd) (k : Kind) : Nat := ((s.take c.inst c.sqid k c.q).map (·.2)).getD 0
def xOf (s : State) (c : IoCmd) (k : Kind) : Ctx := ((gOf s c k).qce.ctx? (kOf s c k)).getD Ctx.blank

/-- A command that finds its context is taken, where no sanitize forbids it and nothing else is due. -/
theorem taken_of {s : State} {c : IoCmd} {kind : Kind} {opc : Nat}
    (h : ((s.take c.inst c.sqid kind c.q).isSome = true ∧ c.sqid ≠ 0 ∧ ((gOf s c kind).qce.ctx? (kOf s c kind)).isSome = true ∧ c.q.opc = opc ∧ s.sec.sanStatus ≠ 3)
      ∧ s.sec.sanitize = none ∧ (∀ e ∈ s.qce.ctxs, Safety.atRest e.2 = true) ∧ Tab.rising s.qce.ctxs = true) :
    Safety.taken s (gOf s c kind) c kind opc (kOf s c kind) (xOf s c kind) := by
  obtain ⟨⟨h1, h2, h3, h4, h5⟩, h6⟩ := h
  refine ⟨?_, h2, ?_, h4, h5, h6⟩
  · rw [gOf, kOf]
    obtain ⟨r, hr⟩ := Option.isSome_iff_exists.1 h1
    rw [hr]; rfl
  · rw [xOf]
    obtain ⟨r, hr⟩ := Option.isSome_iff_exists.1 h3
    rw [hr]; rfl

/-- An admin command taken into its context, in the same way. -/
def gOfA (s : State) (a : AdminCmd) : State := ((s.take a.inst 0 .admin a.q).map (·.1)).getD s
def kOfA (s : State) (a : AdminCmd) : Nat := ((s.take a.inst 0 .admin a.q).map (·.2)).getD 0
def xOfA (s : State) (a : AdminCmd) : Ctx := ((gOfA s a).qce.ctx? (kOfA s a)).getD Ctx.blank

theorem adminTaken_of {s : State} {a : AdminCmd} {opc : Nat} {sc : AdminScope}
    (h : (a.side = false ∧ (s.take a.inst 0 .admin a.q).isSome = true ∧ ((gOfA s a).qce.ctx? (kOfA s a)).isSome = true ∧ a.q.opc = opc
        ∧ (gOfA s a).inScope (xOfA s a) sc = true ∧ s.sec.sanStatus ≠ 3 ∧ s.mgc.postHold ≤ s.clock.now + 5000)
      ∧ s.sec.sanitize = none ∧ (∀ e ∈ s.qce.ctxs, Safety.atRest e.2 = true) ∧ Tab.rising s.qce.ctxs = true) :
    Safety.adminTaken s (gOfA s a) a opc sc (kOfA s a) (xOfA s a) := by
  obtain ⟨⟨h0, h1, h3, h4, h5, h6, h7⟩, h8⟩ := h
  refine ⟨h0, ?_, ?_, h4, h5, h6, h7, h8⟩
  · rw [gOfA, kOfA]
    obtain ⟨r, hr⟩ := Option.isSome_iff_exists.1 h1
    rw [hr]; rfl
  · rw [xOfA]
    obtain ⟨r, hr⟩ := Option.isSome_iff_exists.1 h3
    rw [hr]; rfl

/-- DRAM trained. -/
def dram : State := { up with mss := { up.mss with regs := up.mss.regs.set .mssDmstat 0x80000000 } }

/-! ## What the statements assume can be met -/

theorem witness_StepRunsFront : ({ up with pending := [.sqFetchIssue] } : State).pending = .sqFetchIssue :: [] := rfl
theorem witness_IdleStep : up.pending = [] := rfl
theorem witness_StepKeepsMemory : Safety.memOk up ∧ ∃ t, step up = .next t := ⟨rfl, _, rfl⟩
theorem witness_QueueAndDramKept : (∃ t, step up = .next t) ∧ Safety.touchesDram .sqFetchIssue = false ∧ ∃ t, exec .sqFetchIssue up = .next t :=
  ⟨⟨_, rfl⟩, rfl, _, rfl⟩

def nqs (get : Bool) : AdminCmd := adm { opc := if get then 0x0A else 0x09, cid := 1, cdw10 := 7, cdw11 := 0x00050005 }
theorem witness_NumberOfQueues : io.qce.inst? 0 = some fn ∧ 1 ≤ fn.allot ∧ fn.allot ≤ 65536 ∧ (nqs true).q.fid = 7 ∧ (nqs false).q.fid = 7 ∧ (nqs false).q.sv = false
    ∧ (nqs true).q.sel < 3 ∧ Safety.adminTaken io (gOfA io (nqs false)) (nqs false) 0x09 .every (kOfA io (nqs false)) (xOfA io (nqs false))
    ∧ Safety.adminTaken io (gOfA io (nqs true)) (nqs true) 0x0A .every (kOfA io (nqs true)) (xOfA io (nqs true)) :=
  ⟨by decide +kernel, by decide +kernel, by decide +kernel, by decide +kernel, by decide +kernel, by decide +kernel, by decide +kernel,
    adminTaken_of (by decide +kernel), adminTaken_of (by decide +kernel)⟩

theorem witness_StoreEntry : up.storeUp = true ∧ (0x08070001 ≠ 0x08070000) ∧ 0x10000000 ≤ 0x17FFFFFF ∧ 0x17FFFFFF < 0x18000000 ∧ 0x0FFFFFFF < 0x10000000 := by
  decide +kernel

/-- Sector 64 of the store is being erased. -/
def erasing : State := { up with mgc := { up.mgc with erase := some ⟨.service, [64], 0, 0, false⟩ } }
theorem witness_StoreBusy : erasing.storeUp = true ∧ (erasing.mgc.enterService 0).fromWindow = false ∧ 16 ≤ (zeros 256).length ∧ (zeros 256).length ≤ 256
    ∧ (zeros 256).length % 16 = 0 ∧ 0x400000 % 16 = 0 ∧ 0x400000 / 256 = (0x400000 + (zeros 256).length - 1) / 256 ∧ 0x400000 + (zeros 256).length ≤ storeSize
    ∧ (erasing.mgc.enterService 0).protects 0x400000 (zeros 256).length = false ∧ erasing.mgc.erase.isSome = true
    ∧ (erasing.mgc.erase.bind (·.sectors.head?)) = some (0x400000 / 65536) ∧ 0x400000 % 65536 = 0 ∧ 0x400000 + 65536 ≤ storeSize
    ∧ (erasing.mgc.enterService 0).protects 0x400000 65536 = false := by decide +kernel

theorem witness_RegionWriters : dram.dramUp = true ∧ 0 + [0, 0].length ≤ dram.mss.cap ∧ (regionOf 1).writer 9 = false ∧ 0 ≤ 1 ∧ 1 < 0 + [(0 : Byte), 0].length
    ∧ dram.mss.fillIn 64 128 = none ∧ (∀ l ∈ linesOf 64 128, l ∉ dram.mss.poison) := by decide +kernel

theorem witness_DramRead : dram.dramUp = true ∧ (dram.mss.cap - 64) + 64 ≤ dram.mss.cap ∧ dram.mss.fillIn (dram.mss.cap - 64) 64 = none
    ∧ (∀ l ∈ linesOf (dram.mss.cap - 64) 64, l ∉ dram.mss.poison) ∧ dram.mss.cap < (dram.mss.cap - 64) + 65 ∧ (80 * 1048576 - 1 < 80 * 1048576) := by decide +kernel

/-- A granule of the map region, valid or under zero-fill. -/
def granule : Nat := 16384 * 256
def valid : State := { dram with mss := { dram.mss with valid := [granule] } }
def filling : State := { dram with mss := { dram.mss with fills := [(granule, ⟨granule * 4096, [1, 2], []⟩)] } }
theorem witness_DramWrite : dram.dramUp = true ∧ ([1, 2] : List Byte) ≠ [] ∧ granule * 4096 + 4094 + 2 ≤ dram.mss.cap ∧ (granule * 4096 + 4094) % 4096 + 2 ≤ 4096
    ∧ Safety.memOk valid ∧ (∀ a, granule * 4096 + 4094 ≤ a → a < granule * 4096 + 4094 + 2 → (regionOf a).writer 3 = true)
    ∧ valid.mss.fillIn (granule * 4096 + 4094) 2 = none ∧ (∀ l ∈ linesOf (granule * 4096 + 4094) 2, l ∉ valid.mss.poison)
    ∧ (granule * 4096 + 4094) / 4096 ∈ valid.mss.valid ∧ (granule * 4096 + 4094) / 4096 ∉ dram.mss.valid
    ∧ filling.dramUp = true ∧ Safety.memOk filling ∧ Tab.get? filling.mss.fills granule = some ⟨granule * 4096, [1, 2], []⟩ ∧ dram.mss.cap < dram.mss.cap - 1 + 2 := by
  refine ⟨by decide +kernel, by decide, by decide +kernel, by decide +kernel, rfl, fun a h1 h2 => ?_, by decide +kernel, by decide +kernel, by decide +kernel,
    by decide +kernel, by decide +kernel, rfl, by decide +kernel, by decide +kernel⟩
  obtain rfl | rfl : a = granule * 4096 + 4094 ∨ a = granule * 4096 + 4095 := by omega
  · decide +kernel
  · decide +kernel

/-- MSS_VBCLR0 names the first granule above the regions, or one inside them. -/
def clearFrom (g : Nat) : State := { dram with mss := { dram.mss with regs := dram.mss.regs.setFld .mssVbclr0 26 0 g } }
theorem witness_ValidBitClear : (clearFrom 3072).serves .cameleer = true ∧ Requester.cameleer.mayWrite .mss = true ∧ (clearFrom 3072).locked .mssVbclr1 = false
    ∧ (0x80000001 : W32).bits 31 31 = 1 ∧ (clearFrom 3072).dramUp = true ∧ (clearFrom 3072).mss.clearing = none ∧ (clearFrom 3072).mss.fills = []
    ∧ 3072 ≤ (clearFrom 3072).mss.regs.fld .mssVbclr0 26 0 ∧ (0x80000001 : W32).bits 26 0 ≠ 0
    ∧ (clearFrom 3072).mss.regs.fld .mssVbclr0 26 0 + (0x80000001 : W32).bits 26 0 ≤ (clearFrom 3072).mss.cap / 4096
    ∧ (clearFrom 3071).mss.regs.fld .mssVbclr0 26 0 < 3072
    ∧ ({ (clearFrom 3072).mss with clearing := some ⟨3072, 1⟩ } : Mss).clearing = some ⟨3072, 1⟩ := by decide +kernel

def scrubbed : State := { valid with mss := { valid.mss with scrub := some ⟨granule, 1⟩, patrolPos := granule * 64 } }
theorem witness_Scrubbing : valid.serves .cameleer = true ∧ valid.locked .mssRsctl = false ∧ (0x80000001 : W32).bits 31 31 = 1 ∧ valid.mss.scrub = none
    ∧ (0x80000001 : W32).bits 26 0 ≠ 0 ∧ valid.mss.regs.fld .mssRsbase 26 0 + (0x80000001 : W32).bits 26 0 ≤ valid.mss.cap / 4096
    ∧ scrubbed.dramUp = true ∧ scrubbed.mss.scrub = some ⟨granule, 1⟩ ∧ 1 < 2 ^ 27 ∧ (∀ l ∈ scrubbed.mss.validLines granule 1, l ∉ scrubbed.mss.poison)
    ∧ scrubbed.mss.regs.bit .mssScrubcfg 31 = true ∧ scrubbed.mss.patrolPos / 64 ∈ scrubbed.mss.valid ∧ scrubbed.mss.patrolPos ∉ scrubbed.mss.poison
    ∧ granule ∈ scrubbed.mss.valid ∧ scrubbed.mss.patrolPos + 1 ≤ granule * 64 + 63 ∧ dram.mss.regs.bit .mssScrubcfg 31 = true ∧ dram.mss.valid = [] := by
  decide +kernel

theorem witness_TrainingHelpers : up.serves .cameleer = true ∧ Requester.cameleer.mayWrite .mss = true ∧ up.locked (.mssTrnctl 11) = false ∧ 11 < 12
    ∧ (0x80A00001 : W32).bits 7 0 ≠ 0 ∧ (0x80A00001 : W32).bits 23 21 ≤ 5 ∧ up.fev.safe = false ∧ up.dumped = false ∧ Tab.get? up.mss.train 11 = none
    ∧ up.mss.regs.bit .mssDmstat 31 = false
    ∧ Tab.get? ({ up.mss with train := [(11, ⟨1, 5, 0, 1⟩)] } : Mss).train 11 = some ⟨1, 5, 0, 1⟩ ∧ (1 : Nat) ≠ 0 ∧ 255 < 256 := by decide +kernel

/-- A rank whose retraining is wanted, and a bank with an open row, 2 ms on; MSS_PAGECFG asks for power-down. -/
def ranks : State :=
  { dram with
    clock := { dram.clock with now := 20000 }
    mss := { dram.mss with
      timing := [(0, { RankTiming.fresh with wanted := some 0 })], banks := [(5, { Bank.idle with open' := some 9 })]
      regs := (dram.mss.regs.setFld .mssPagecfg 15 8 1).setFld .mssDmcfg 15 15 1 } }
theorem witness_DramUpkeep : ranks.dramUp = true ∧ ranks.mss.regs.bit .mssDmcfg 15 = true ∧ (Tab.getD ranks.mss.timing 0 .fresh).wanted = some 0
    ∧ (true = true → 0 + 100 ≤ ranks.clock.now) ∧ (Tab.getD ranks.mss.timing 0 .fresh).lastPause + 10000 ≤ ranks.clock.now
    ∧ 22 / 2 < 12 ∧ 22 % 2 < ranks.mss.ranks ∧ Tab.get? ranks.mss.trainTemp 22 = none
    ∧ Tab.getD ranks.mss.rankIdle 0 (ranks.mss.regs.fld .mssPagecfg 15 8) ≠ 0 ∧ 0 ∉ ranks.mss.powerDown
    ∧ Tab.getD ranks.mss.rankIdle 0 (ranks.mss.regs.fld .mssPagecfg 15 8) * 16 ≤ (ranks.clock.now - Tab.getD ranks.mss.lastRankUse 0 0) * 100
    ∧ Tab.get? ranks.mss.banks 5 = some { Bank.idle with open' := some 9 } ∧ Bank.idle.limit * 32 ≤ (ranks.clock.now - 0) * 100
    ∧ ranks.up = true ∧ ranks.dumped = false ∧ ranks.porst = false ∧ 5 < 6 := by decide +kernel

/-- The last 16 blocks of a namespace. -/
def blk (opc nsid : Nat) : IoCmd := cmd { opc := opc, cid := 1, nsid := nsid, cdw10 := 1008, cdw12 := 15 }

/-- The device with its command taken, the context and its content, as the witnesses name them. -/
def takes (s : State) (c : IoCmd) (kind : Kind) (opc : Nat) : Prop := Safety.taken s (gOf s c kind) c kind opc (kOf s c kind) (xOf s c kind)

theorem witness_ReadsFetched :
    (takes io (blk 2 1) .read 2 ∧ Safety.permitted (gOf io (blk 2 1) .read) (blk 2 1) (space false) .reads
      ∧ firstFailing (blockChecks true (xOf io (blk 2 1) .read) 0 (space false)) = none)
    ∧ (takes io (blk 5 1) .compare 5 ∧ Safety.permitted (gOf io (blk 5 1) .compare) (blk 5 1) (space false) .reads
      ∧ firstFailing (blockChecks true (xOf io (blk 5 1) .compare) 0 (space false)) = none)
    ∧ (takes io (blk 12 1) .verify 12 ∧ Safety.permitted (gOf io (blk 12 1) .verify) (blk 12 1) (space false) .reads
      ∧ firstFailing (blockChecks false (xOf io (blk 12 1) .verify) 0 (space false)) = none)
    ∧ (space false).nsze ≤ 2 ^ 48 ∧ Safety.unlocked io 0 := by
  refine ⟨⟨taken_of (by decide +kernel), ?_⟩, ⟨taken_of (by decide +kernel), ?_⟩, ⟨taken_of (by decide +kernel), ?_⟩, ?_⟩ <;>
    · try unfold Safety.permitted
      try unfold Safety.unlocked
      decide +kernel

def trim : IoCmd := cmd { opc := 9, cid := 1, nsid := 1, cdw11 := 4 }
def source : CopySrc := ⟨0, 0, 16, 0, 0, 0⟩
theorem witness_WritesFetched :
    (takes io (blk 1 1) .write 1 ∧ Safety.permitted (gOf io (blk 1 1) .write) (blk 1 1) (space false) .writes
      ∧ firstFailing (blockChecks true (xOf io (blk 1 1) .write) 0 (space false)) = none ∧ io.tas.wcost ≠ 0)
    ∧ (takes io (blk 8 1) .zeroes 8 ∧ Safety.permitted (gOf io (blk 8 1) .zeroes) (blk 8 1) (space false) .writes
      ∧ firstFailing (blockChecks false (xOf io (blk 8 1) .zeroes) 0 (space false)) = none)
    ∧ (takes io (blk 4 1) .uncorrectable 4 ∧ Safety.permitted (gOf io (blk 4 1) .uncorrectable) (blk 4 1) (space false) .writes
      ∧ firstFailing (blockChecks false (xOf io (blk 4 1) .uncorrectable) 0 (space false)) = none)
    ∧ (takes io trim .dsm 9 ∧ Safety.permitted (gOf io trim .dsm) trim (space false) ⟨true, true, false⟩ ∧ trim.q.deallocates = true
      ∧ hull [⟨0, 8⟩, ⟨1016, 8⟩] = some ⟨0, 1024⟩ ∧ (∀ r ∈ [Span.mk 0 8, Span.mk 1016 8], r.lo + r.len ≤ (space false).nsze))
    ∧ (takes io (blk 0x81 1) .purge 0x81 ∧ Safety.permitted (gOf io (blk 0x81 1) .purge) (blk 0x81 1) (space false) ⟨true, true, false⟩
      ∧ (blk 0x81 1).q.slba + ((blk 0x81 1).q.purgeNlb + 1) ≤ (space false).nsze)
    ∧ (takes io (blk 0x19 1) .copy 0x19 ∧ Safety.permitted (gOf io (blk 0x19 1) .copy) (blk 0x19 1) (space false) .writes ∧ (blk 0x19 1).q.stc = false
      ∧ (∀ r ∈ [source], r.len ≠ 0 ∧ (space false).dataBytes r.len ≤ mdts ∧ r.slba < 2 ^ 48
          ∧ (gOf io (blk 0x19 1) .copy).sourceStatus 0 1 (space false) r = none ∧ Safety.unlocked io ((if r.nsid = 0 then 1 else r.nsid) - 1))
      ∧ (space false).dataBytes ([source].map (·.len)).sum ≤ mdts ∧ 1008 + ([source].map (·.len)).sum ≤ (space false).nsze
      ∧ ((space false).keySlot 0 (blk 0x19 1).q).isSome = true)
    ∧ Safety.unlocked io 0 := by
  refine ⟨⟨taken_of (by decide +kernel), ?_⟩, ⟨taken_of (by decide +kernel), ?_⟩, ⟨taken_of (by decide +kernel), ?_⟩, ⟨taken_of (by decide +kernel), ?_⟩,
    ⟨taken_of (by decide +kernel), ?_⟩, ⟨taken_of (by decide +kernel), ?_⟩, ?_⟩ <;>
    · try unfold Safety.permitted
      try unfold Safety.unlocked
      decide +kernel

/-- Host 7 registered on namespace 1 with key 5, and holding a Write Exclusive reservation or none. -/
def resv (rtype : Nat) (holder : Option Nat) : State := { io with hfu := { io.hfu with resv := [(0, ⟨1, rtype, holder, [⟨7, 5, 0⟩], false⟩)] } }
def rsv (opc t : Nat) : IoCmd := cmd { opc := opc, cid := 1, nsid := 1, cdw10 := 256 * t }
theorem witness_Reservations :
    (takes io (rsv 0x0D 0) .resv 0x0D ∧ io.fl.attachedNs 0 1 = some (space false) ∧ (rsv 0x0D 0).q.resvAction = 0 ∧ (rsv 0x0D 0).q.cptpl < 2
      ∧ (io.resvOf 0).registered ((gOf io (rsv 0x0D 0) .resv).hostOf 0) = false)
    ∧ (takes (resv 0 none) (rsv 0x11 6) .resv 0x11 ∧ (rsv 0x11 6).q.resvType ≤ 6 ∧ 1 ≤ (rsv 0x11 6).q.resvType
      ∧ ((resv 0 none).resvOf 0).keyOf ((gOf (resv 0 none) (rsv 0x11 6) .resv).hostOf 0) = some 5 ∧ ((resv 0 none).resvOf 0).rtype = 0)
    ∧ (takes (resv 2 (some 7)) (rsv 0x15 2) .resv 0x15 ∧ ((resv 2 (some 7)).resvOf 0).holds ((gOf (resv 2 (some 7)) (rsv 0x15 2) .resv).hostOf 0) = true
      ∧ ((resv 2 (some 7)).resvOf 0).keyOf ((gOf (resv 2 (some 7)) (rsv 0x15 2) .resv).hostOf 0) = some 5
      ∧ ((resv 2 (some 7)).resvOf 0).rtype = (rsv 0x15 2).q.resvType ∧ (rsv 0x15 2).q.resvType ≤ 2)
    ∧ takes io (rsv 0x0E 0) .resv 0x0E :=
  ⟨⟨taken_of (by decide +kernel), by decide +kernel⟩, ⟨taken_of (by decide +kernel), by decide +kernel⟩, ⟨taken_of (by decide +kernel), by decide +kernel⟩,
    taken_of (by decide +kernel)⟩

theorem witness_ReservationConflict : takes (resv 1 (some 8)) (blk 1 1) .write 1 ∧ (resv 1 (some 8)).fl.attachedNs 0 1 = some (space false)
    ∧ firstFailing (blockChecks true (xOf (resv 1 (some 8)) (blk 1 1) .write) 0 (space false)) = none ∧ (xOf (resv 1 (some 8)) (blk 1 1) .write).ord = false
    ∧ ((resv 1 (some 8)).resvOf 0).rtype = 1 ∧ ((resv 1 (some 8)).resvOf 0).holder ≠ some ((gOf (resv 1 (some 8)) (blk 1 1) .write).hostOf 0) :=
  ⟨taken_of (by decide +kernel), by decide +kernel⟩

/-- Past the end of the namespace by one block, and a namespace that is not attached. -/
def past (opc : Nat) : IoCmd := cmd { opc := opc, cid := 1, nsid := 1, cdw10 := 1009, cdw12 := 15 }
theorem witness_FirstFailingCheck :
    (takes io (past 2) .read 2 ∧ (xOf io (past 2) .read).ord = false ∧ (firstFailing (blockChecks true (xOf io (past 2) .read) 0 (space false))).isSome = true)
    ∧ (takes io (past 8) .zeroes 8 ∧ (firstFailing (blockChecks false (xOf io (past 8) .zeroes) 0 (space false))).isSome = true)
    ∧ io.fl.attachedNs 0 1 = some (space false) ∧ takes io (blk 1 3) .write 1 ∧ io.fl.attachedNs 0 3 = none :=
  ⟨⟨taken_of (by decide +kernel), by decide +kernel⟩, ⟨taken_of (by decide +kernel), by decide +kernel⟩, by decide +kernel, taken_of (by decide +kernel), by decide +kernel⟩

/-- The device with one context. -/
def holding (x : Ctx) : State := { io with qce := { io.qce with ctxs := [(5, x)] } }
def flushing : Ctx := { Ctx.blank with kind := .flush, state := .data, sqid := 1 }
theorem witness_Flushes :
    (takes io (blk 0 1) .flush 0 ∧ io.fl.attachedNs 0 1 = some (space false) ∧ 1 ≠ 0xFFFFFFFF ∧ (io.resvOf 0).conflict ((gOf io (blk 0 1) .flush).hostOf 0) true = false)
    ∧ ((holding flushing).runs = true ∧ Safety.calm (holding flushing) ∧ (holding flushing).qce.ctx? 5 = some flushing ∧ flushing.kind = .flush ∧ flushing.state = .data
      ∧ flushing.side = false ∧ flushing.detached = false ∧ flushing.ord = false ∧ (holding flushing).fl.programmed flushing.covers = true) := by
  refine ⟨⟨taken_of (by decide +kernel), by decide +kernel⟩, ?_⟩
  unfold Safety.calm; decide +kernel

/-- The result of a check that passes. -/
def got {ε α : Type} (d : α) : Except ε α → α
  | .ok a => a
  | .error _ => d
theorem ok_got {ε α : Type} {d : α} {e : Except ε α} (h : e.isOk = true) : e = .ok (got d e) := by
  cases e with
  | ok a => rfl
  | error e => cases h

def append : IoCmd := cmd { opc := 0x7D, cid := 1, nsid := 2, cdw10 := 256, cdw12 := 15 }
def zoneSend : IoCmd := cmd { opc := 0x79, cid := 1, nsid := 2, cdw10 := 256, cdw13 := 2 }
def zoneRecv : IoCmd := cmd { opc := 0x7A, cid := 1, nsid := 2, cdw10 := 1023, cdw12 := 15, cdw13 := 7 * 256 }
def written : Flash × Nat × Nat := got (io.fl, 0, 0) (io.fl.zoneWrite io.clock.now io.hours 1 (space true) 1 none 16 io.qce.fsn)
def finished : Flash × Option Status := io.fl.zoneActs io.clock.now io.hours 1 .finish [1]
theorem witness_Zones :
    (takes io append .append 0x7D ∧ io.fl.zoneWrite io.clock.now io.hours 1 (space true) 1 none 16 io.qce.fsn = .ok written
      ∧ Safety.permitted (gOf io append .append) append (space true) .writes ∧ (space true).zoned = true ∧ (space true).zsze ≠ 0 ∧ append.q.slba % (space true).zsze = 0
      ∧ append.q.slba / (space true).zsze = 1 ∧ append.q.nlb + 1 = 16 ∧ firstFailing (blockChecks true (xOf io append .append) 1 (space true)) = none
      ∧ (written.1.ns? 1).isSome = true ∧ io.tas.wcost ≠ 0 ∧ Safety.unlocked io 1)
    ∧ (∀ w : Zone, w = ⟨.implicitOpen, 256, some 1, 0⟩ → ({ space true with zones := [(1, w)] } : Ns).zone 1 = w ∧ w.st.isOpen = true ∧ w.wp + 255 < (1 + 1) * (space true).zsze)
    ∧ (takes io zoneRecv .zoneRecv 0x7A ∧ Safety.permitted (gOf io zoneRecv .zoneRecv) zoneRecv (space true) .reads ∧ zoneRecv.q.zoneRecvAction = 0
      ∧ zoneRecv.q.reportOption ≤ 7 ∧ zoneRecv.q.slba < (space true).nsze)
    ∧ (takes io zoneSend .zoneSend 0x79 ∧ Safety.permitted (gOf io zoneSend .zoneSend) zoneSend (space true) ⟨true, true, false⟩ ∧ (xOf io zoneSend .zoneSend).ord = false
      ∧ io.handover = false ∧ zoneActOf zoneSend.q.zoneAction = some .finish ∧ zoneSend.q.selectAll = false ∧ zoneSend.q.slba < (space true).nsze
      ∧ zoneSend.q.slba % (space true).zsze = 0 ∧ (space true).nsze ≠ 0 ∧ (space true).actZones .finish (some 1) = [1] ∧ 1 * (space true).zsze < 2 ^ 48
      ∧ finished.2 = none ∧ (finished.1.ns? 1).isSome = true ∧ (∀ e ∈ io.qce.ctxs, e.2.kind.reads = false))
    ∧ (∀ st, ({ space true with zones := [(1, ⟨st, 256, none, 0⟩)] } : Ns).zone 1 = ⟨st, 256, none, 0⟩) := by
  refine ⟨⟨taken_of (by decide +kernel), ok_got (by decide +kernel), ?_⟩, ?_, ⟨taken_of (by decide +kernel), ?_⟩, ⟨taken_of (by decide +kernel), ?_⟩, fun st => rfl⟩
  · unfold Safety.permitted Safety.unlocked; decide +kernel
  · intro w hw; subst hw; decide +kernel
  · unfold Safety.permitted; decide +kernel
  · unfold Safety.permitted; decide +kernel

def units (opc : Nat) : IoCmd := cmd { opc := opc, cid := 1, nsid := 1, cdw10 := 1, cdw11 := 15 }
theorem witness_PlacementHandles :
    (takes io (units 0x1D) .ioMgmt 0x1D ∧ Safety.permitted (gOf io (units 0x1D) .ioMgmt) (units 0x1D) (space false) ⟨true, false, false⟩ ∧ natBits (units 0x1D).q.cdw10 7 0 = 1
      ∧ io.fl.ptx.fdp = true ∧ (∀ h ∈ [0, 1], h < (space false).handles.length))
    ∧ takes io (units 0x12) .ioMgmt 0x12 ∧ Safety.permitted (gOf io (units 0x12) .ioMgmt) (units 0x12) (space false) .reads ∧ natBits (units 0x12).q.cdw10 7 0 = 1 := by
  refine ⟨⟨taken_of (by decide +kernel), ?_⟩, taken_of (by decide +kernel), ?_⟩ <;> · unfold Safety.permitted; decide +kernel

/-- Two buffers of 4 KiB into one by XOR, as a descriptor and as a job that waits or runs. -/
def pcDesc (flags : Nat) : PcDesc := ⟨1, 2, 1, flags, 1, true, true, false, [[1, 1]]⟩
def pcCmd : IoCmd := cmd { opc := 0x83, cid := 1, dptr0 := 0x1000 }
def pcIo : State := { io with fl := { io.fl with dip := { io.fl.dip with regs := io.fl.dip.regs.setFld .dipPccfg 31 31 1 } } }
def pcCtx : Ctx := { Ctx.blank with kind := .parity, state := .admitwait, sqid := 1 }
def pcHeld (flags : Nat) (running : Bool) : State :=
  { holding pcCtx with
    clock := { io.clock with now := 2 ^ 40 }
    fl := { pcIo.fl with dip := { pcIo.fl.dip with pcJobs := [(5, ⟨5, 0, 0, pcDesc flags, 0, running⟩)] } } }
theorem witness_ParityCompute :
    (takes pcIo pcCmd .parity 0x83 ∧ (xOf pcIo pcCmd .parity).fab = false ∧ pcIo.fl.dip.regs.bit .dipPccfg 31 = true ∧ (pcDesc 0).ok = true ∧ (pcDesc 0).aligned = true
      ∧ pcCmd.q.dptr0 % 4096 = 0 ∧ pcCmd.q.nsid = 0 ∧ pcCmd.q.psdt = 0)
    ∧ ((pcHeld 0 false).runs = true ∧ (pcHeld 0 false).fl.dip.pcNext = some (5, ⟨5, 0, 0, pcDesc 0, 0, false⟩) ∧ (pcHeld 0 false).qce.ctx? 5 = some pcCtx ∧ pcCtx.open' = true
      ∧ (pcHeld 0 false).fl.engineFree = true ∧ (pcHeld 0 false).pcFits ⟨5, 0, 0, pcDesc 0, 0, false⟩ = true ∧ Safety.calm (pcHeld 0 false)
      ∧ pcCtx.zone = none ∧ pcCtx.ord = false ∧ 0 + (pcHeld 0 false).fl.dip.regs.fld .dipPccfg 15 0 * msT ≤ (pcHeld 0 false).clock.now)
    ∧ ((pcHeld 0 true).runs = true ∧ Safety.calm (pcHeld 0 true) ∧ Tab.get? (pcHeld 0 true).fl.dip.pcJobs 5 = some ⟨5, 0, 0, pcDesc 0, 0, true⟩
      ∧ (pcDesc 0).flags ≠ 1 ∧ (pcDesc 0).overlap = false ∧ (pcDesc 1).flags = 1
      ∧ firstDiff ((pcDesc 1).outputs [[3], [5]]) [[7]] = some (0, 0)) := by
  refine ⟨⟨taken_of (by decide +kernel), by decide +kernel⟩, ?_, ?_⟩ <;> · unfold Safety.calm; decide +kernel

/-- A queue with an entry to fetch; a read that waits for admission; a write that waits for a range-lock entry. -/
def fetchable : State := { io with qce := { io.qce with sqs := [(0, sq), (1, { sq with cq := 1, tail := 1 })] } }
def waiting : Ctx := { Ctx.blank with kind := .read, state := .admitwait, sqid := 1, nsx := some 0, rds := [⟨0, 1⟩] }
def locked : Ctx := { Ctx.blank with kind := .write, state := .fetched, sqid := 1, nsx := some 0, mods := [⟨0, 1⟩], rlWait := true }
theorem witness_FetchAndAdmission :
    (fetchable.fetches = true ∧ (fetchable.qce.turn fun i => ((Tab.get? fetchable.tas.insts i).map (·.cur.weight)).getD 64).map (·.1) = some 0
      ∧ fetchable.qce.inst? 0 = some fn ∧ (fetchable.qce.sqTurn 0 fn).map (·.1) = some 1 ∧ fetchable.qce.sq? 0 1 = some { sq with cq := 1, tail := 1 })
    ∧ ((holding waiting).runs = true ∧ Safety.calm (holding waiting)
      ∧ ((holding waiting).tas.pick (holding waiting).inWindow (holding waiting).oasisLoad (holding waiting).fl.ptx.limit (holding waiting).cands).map (·.ctx) = some 5
      ∧ (holding waiting).qce.ctx? 5 = some waiting ∧ waiting.side = false ∧ waiting.detached = false ∧ waiting.rlWait = false)
    ∧ ((holding locked).runs = true ∧ (holding locked).sec.sanitize = none ∧ (holding locked).qce.ctxs = [(5, locked)] ∧ (holding locked).fl.ns? 0 = some (space false)
      ∧ (holding locked).tas.wcost ≠ 0 ∧ Safety.unlocked (holding locked) 0) := by
  refine ⟨by decide +kernel, ?_, ?_⟩
  · unfold Safety.calm; decide +kernel
  · unfold Safety.unlocked; decide +kernel


/-- A read of the first block, at a place of R88, and the map's entry for that block. -/
def reading (st : CtxState) : Ctx := { Ctx.blank with kind := .read, state := st, sqid := 1, nsx := some 0, rds := [⟨0, 1⟩], slba := 0, nlb := 0 }
def mapped (e : Tab MapEnt) (x : Ctx) : State := { holding x with fl := { io.fl with ptx := { io.fl.ptx with map := e } } }
def decrypted (cells : Tab Cell) : Ctx := { reading .data with arrived := true, cells := cells }
def keyless : Tab Cell := [(0, ⟨some (.gen 1), 9, 0, ⟨5, ⟨0, 0, 0, 0⟩⟩, false⟩)]
def laneFenced (s : State) (write : Bool) (lane : Nat) : Sec := ({ s.sec with regs := s.sec.regs.setFld .secXtsstat 30 30 1 } : Sec).fence write lane
def translated (e : Tab MapEnt) : Translated := (mapped e (reading .translate)).translate (space false) 0 (lbasOf (reading .translate).rds)
theorem witness_ReadPath :
    (∀ e ∈ [([] : Tab MapEnt), [(0, .mark 1)], [(0, .media 0 0 0)]], (mapped e (reading .translate)).runs = true ∧ Safety.still (mapped e (reading .translate))
      ∧ (mapped e (reading .translate)).qce.ctx? 5 = some (reading .translate) ∧ (mapped e (reading .translate)).fl.ns? 0 = some (space false))
    ∧ ((translated []).lost = false ∧ (translated []).media = [])
    ∧ ((translated [(0, .mark 1)]).lost = true ∧ (reading .translate).ord = false ∧ (reading .translate).zone = none)
    ∧ ((translated [(0, .media 0 0 0)]).lost = false ∧ (translated [(0, .media 0 0 0)]).media = [(0, 0)] ∧ (mapped [] (reading .translate)).fl.lostUnit 0 0 = false)
    ∧ ((holding (reading .data)).runs = true ∧ Safety.calm (holding (reading .data)) ∧ (reading .data).kind.reads = true)
    ∧ ((holding (decrypted [])).runs = true ∧ Safety.calm (holding (decrypted [])) ∧ (holding (decrypted [])).qce.ctx? 5 = some (decrypted [])
      ∧ ((holding (decrypted [])).decrypt (decrypted []) (space false)).isOk = true
      ∧ (space false).piStatus 0 0 0 0 (got [] ((holding (decrypted [])).decrypt (decrypted []) (space false))) = none)
    ∧ (Safety.calm (holding (decrypted keyless)) ∧ (holding (decrypted keyless)).sec.keys = [] ∧ ((holding (decrypted keyless)).decrypt (decrypted keyless) (space false)).isOk = false)
    ∧ (laneFenced (holding (decrypted [])) false 3).allFenced false = false
    ∧ ((holding { decrypted [] with recorded := true }).runs = true ∧ Safety.calm (holding { decrypted [] with recorded := true })) := by
  refine ⟨?_, by decide +kernel, by decide +kernel, by decide +kernel, ?_, ?_, ?_, by decide +kernel, ?_⟩ <;>
    · try unfold Safety.still
      unfold Safety.calm; decide +kernel

/-- A write of the first block, at a place of R88. -/
def writing (arrived : Bool) : Ctx :=
  { Ctx.blank with
    kind := .write, state := .data, sqid := 1, nsx := some 0, mods := [⟨0, 1⟩], nlb := 0, arrived := arrived, blocks := if arrived then [⟨5, ⟨0, 0, 0, 0⟩⟩] else [] }
def one : List LBlock := [⟨5, ⟨0, 0, 0, 0⟩⟩]
def narrow (x : Ctx) : State := { holding x with fl := { io.fl with ptx := { io.fl.ptx with regs := (io.fl.ptx.regs.setFld .ptxOasiscfg 13 8 0).setFld .ptxOasiscfg 4 0 0 } } }
/-- A namespace with protection information, a block that fails its check, and one that passes. -/
def guarded : Ns := { space false with lbaf := 3, pit := 1 }
def keyed (x : Ctx) : State := { holding x with sec := { io.sec with keys := [(0, .gen 1)] } }
theorem witness_WritePath :
    (Safety.calm (holding (writing false)) ∧ (holding (writing false)).runs = true ∧ one.length = (writing false).nlb + 1
      ∧ (holding (writing false)).fl.room ((holding (writing false)).cost (writing false)).2.2 = true
      ∧ ((space false).checkWrite false 0 0 0 0 0 one).isOk = true)
    ∧ (guarded.checkWrite false 1 0 0 7 0 one).isOk = false
    ∧ (narrow (writing false)).fl.room ((narrow (writing false)).cost (writing false)).2.2 = false
    ∧ (Safety.calm (holding { writing true with spaceWait := true }))
    ∧ (Safety.calm (keyed (writing true)) ∧ (keyed (writing true)).runs = true ∧ Tab.get? (keyed (writing true)).sec.keys (writing true).keyslot = some (.gen 1)
      ∧ (keyed (writing true)).qce.readBefore (writing true) = false ∧ (keyed (writing true)).fl.ptx.wprot = false ∧ (writing true).fua = false)
    ∧ Tab.get? (holding (writing true)).sec.keys (writing true).keyslot = none
    ∧ (laneFenced (holding (writing true)) true 11).allFenced true = false
    ∧ (Safety.calm (holding { writing true with fua := true, recorded := true, wsn := 1 })
      ∧ (holding { writing true with fua := true, recorded := true, wsn := 1 }).fl.programmed (fun nsx w => some nsx == some 0 && w == 1) = true) := by
  refine ⟨?_, by decide +kernel, by decide +kernel, ?_, ?_, by decide +kernel, by decide +kernel, ?_⟩ <;> · unfold Safety.calm; decide +kernel

/-- A command that has ended; a function whose vectors are enabled, or that uses one message. -/
def ended : Ctx := { Ctx.blank with kind := .write, state := .completing, sqid := 1 }
def vec : Vector' := { Vector'.fresh with unsignalled := 1, fine := some (3, 10) }
def msix : State := { io with qce := { io.qce with insts := [(0, { fn with irq := ⟨true, false, false, 0⟩, vectors := [(0, vec)] })] }, clock := { io.clock with now := 1000 } }
def msi : State := { io with qce := { io.qce with insts := [(0, { fn with irq := ⟨false, false, true, 0⟩ })] } }
theorem witness_Completions :
    ((holding ended).runs = true ∧ Safety.calm (holding ended) ∧ (holding ended).mgc.postHold ≤ (holding ended).clock.now
      ∧ (holding ended).qce.nextToPost 0 1 = some (5, ended) ∧ (holding ended).qce.cq? 0 1 = some ⟨64, 0, 0, true, some 0⟩
      ∧ ((holding ended).qce.sq? 0 1).isSome = true ∧ (⟨64, 0, 0, true, some 0⟩ : Cq).hasRoom = true ∧ fn.state = .ready)
    ∧ (msix.runs = true ∧ (((msix.qce.inst? 0).bind fun i => Tab.get? i.vectors 0) = some vec)
      ∧ ((msix.qce.inst? 0).bind fun i => i.coalesce vec) = some (4, 100) ∧ 0 < vec.unsignalled ∧ vec.firstAt + 100 ≤ msix.clock.now)
    ∧ (msi.runs = true ∧ ((msi.qce.inst? 0).map fun i => (i.eth, i.irq)) = some (false, ⟨false, false, true, 0⟩)
      ∧ ((msix.qce.inst? 0).map fun i => (i.eth, i.irq)) = some (false, ⟨true, false, false, 0⟩)) := by
  refine ⟨?_, by decide +kernel, by decide +kernel⟩
  unfold Safety.calm; decide +kernel

/-! ## Admin commands -/

/-- An admin command and its context, as the witnesses name them. -/
def adTakes (s : State) (a : AdminCmd) (opc : Nat) (sc : AdminScope) : Prop := Safety.adminTaken s (gOfA s a) a opc sc (kOfA s a) (xOfA s a)
def ad (opc c10 : Nat) (c11 : Nat := 0) (nsid : Nat := 0) (c12 : Nat := 0) (c13 : Nat := 0) : AdminCmd :=
  adm { opc := opc, cid := 1, nsid := nsid, cdw10 := c10, cdw11 := c11, cdw12 := c12, cdw13 := c13 }

def withFn (i : Inst) : State := { io with qce := { io.qce with insts := [(0, i)] } }
/-- An Ethernet instance, with a connection for each queue. -/
def ethIo : State := withFn { fn with eth := true }
def aers16 : Inst := { fn with aers := List.replicate 16 9 }

theorem witness_QueueCommands :
    (adTakes io (ad 5 0x003F0002 1) 5 .pcie ∧ io.qce.inst? 0 = some fn ∧ (ad 5 0x003F0002 1).q.qid ≤ fn.allot ∧ io.qce.cq? 0 (ad 5 0x003F0002 1).q.qid = none
      ∧ (ad 5 0x003F0002 1).q.qsize ≠ 0 ∧ (ad 5 0x003F0002 1).q.pc = true ∧ (ad 5 0x003F0002 1).q.iv ≤ fn.allot)
    ∧ (adTakes io (ad 5 0x003F0011 1) 5 .pcie ∧ fn.allot < (ad 5 0x003F0011 1).q.qid)
    ∧ (adTakes io (ad 1 0x003F0010 0x00010001) 1 .pcie ∧ (ad 1 0x003F0010 0x00010001).q.qid = fn.allot ∧ (gOfA io (ad 1 0x003F0010 0x00010001)).qce.sq? 0 16 = none
      ∧ (ad 1 0x003F0010 0x00010001).q.qsize ≠ 0 ∧ (ad 1 0x003F0010 0x00010001).q.pc = true ∧ (ad 1 0x003F0010 0x00010001).q.cqid = 1 ∧ (io.qce.cq? 0 1).isSome = true)
    ∧ (adTakes io (ad 1 0x003F0010 0x00020001) 1 .pcie ∧ io.qce.cq? 0 (ad 1 0x003F0010 0x00020001).q.cqid = none)
    ∧ (adTakes io (ad 4 1) 4 .pcie ∧ (io.qce.cq? 0 1).isSome = true
      ∧ ((gOfA io (ad 4 1)).qce.sqs.any fun e => e.1 / 512 == 0 && e.1 % 512 != 0 && e.2.cq == 1) = true)
    ∧ (adTakes { io with qce := { io.qce with sqs := [(0, sq)] } } (ad 4 1) 4 .pcie
      ∧ ((gOfA { io with qce := { io.qce with sqs := [(0, sq)] } } (ad 4 1)).qce.sqs.any fun e => e.1 / 512 == 0 && e.1 % 512 != 0 && e.2.cq == 1) = false)
    ∧ (adTakes io (ad 0 1) 0 .pcie ∧ ((gOfA io (ad 0 1)).qce.sq? 0 1).isSome = true ∧ (gOfA io (ad 0 1)).qce.inSq 0 1 = [])
    ∧ (adTakes io (ad 8 0x00050001) 8 .every ∧ (gOfA io (ad 8 0x00050001)).qce.abortsOut 0 (kOfA io (ad 8 0x00050001)) < 32
      ∧ (gOfA io (ad 8 0x00050001)).qce.abortTarget 0 1 5 = none)
    ∧ (adTakes (holding waiting) (ad 8 1) 8 .every ∧ (gOfA (holding waiting) (ad 8 1)).qce.abortTarget 0 1 0 = some (5, waiting)
      ∧ (holding waiting).qce.ctx? 5 = some waiting ∧ waiting.state = .admitwait)
    ∧ (adTakes io (ad 0x0C 0) 0x0C .every ∧ fn.aers.length < 16 ∧ fn.events = [])
    ∧ (adTakes (withFn aers16) (ad 0x0C 0) 0x0C .every ∧ 16 ≤ aers16.aers.length)
    ∧ adTakes ethIo (ad 0x18 0) 0x18 .ethernet :=
  ⟨⟨adminTaken_of (by decide +kernel), by decide +kernel⟩, ⟨adminTaken_of (by decide +kernel), by decide +kernel⟩, ⟨adminTaken_of (by decide +kernel), by decide +kernel⟩,
    ⟨adminTaken_of (by decide +kernel), by decide +kernel⟩, ⟨adminTaken_of (by decide +kernel), by decide +kernel⟩, ⟨adminTaken_of (by decide +kernel), by decide +kernel⟩,
    ⟨adminTaken_of (by decide +kernel), by decide +kernel⟩, ⟨adminTaken_of (by decide +kernel), by decide +kernel⟩, ⟨adminTaken_of (by decide +kernel), by decide +kernel⟩,
    ⟨adminTaken_of (by decide +kernel), by decide +kernel⟩, ⟨adminTaken_of (by decide +kernel), by decide +kernel⟩, adminTaken_of (by decide +kernel)⟩

/-- A port of 64 instances that is up. -/
def port (p : Proto) (st : LinkState) : Port := ⟨0, p, 8, st, 5, 8, true, 0, 0, false, [], zeros 6, 0⟩
def wired (p : Proto) (st : LinkState) : State :=
  { io with hfu := { io.hfu with regs := (io.hfu.regs.setFld (.hfuInstcfg 0) 27 16 64), ports := [(0, port p st)] } }

/-- The instance's own share in its boundary form: Set Features 0xD4 for instance 0. -/
def shareCmd : AdminCmd := adm { opc := 9, cid := 1, cdw10 := 0xD4, cdw12 := 0x00FF0001, cdw15 := 1 }
def shrinking : Ctx :=
  { Ctx.blank with
    kind := .admin, state := .fw, nsx := some 0, mods := [⟨512, 512⟩], sqe := { opc := 9, cid := 1, nsid := 1, cdw10 := 0xD5, cdw12 := 512 } }
theorem witness_FeatureCommands :
    (adTakes io (ad 9 0x03) 9 .every ∧ (ad 9 0x03).q.fid ∉ fids)
    ∧ (adTakes io (ad 9 0x80000001) 9 .every ∧ (ad 9 0x80000001).q.fid ∈ fids ∧ (ad 9 0x80000001).q.sv = true)
    ∧ (adTakes io (ad 9 0x08 0x0102) 9 .every ∧ (ad 9 0x08 0x0102).q.sv = false)
    ∧ (adTakes io (ad 9 0xD3 0x00020001) 9 .every ∧ natBits (ad 9 0xD3 0x00020001).q.cdw11 15 0 = 1 ∧ ((gOfA io (ad 9 0xD3 0x00020001)).qce.sq? 0 1).isSome = true
      ∧ ((Tab.get? io.tas.insts 0).map fun t => t.cur.lcmask.testBit 2) = some true)
    ∧ (adTakes (wired .pcie .up) shareCmd 9 .every ∧ fn.pf = true ∧ fn.eth = false ∧ (gOfA (wired .pcie .up) shareCmd).ofPort (xOfA (wired .pcie .up) shareCmd) 0 = true ∧ shareCmd.q.share.valid = true)
    ∧ (adTakes io (ad 10 0x308) 10 .every ∧ (ad 10 0x308).q.fid ∈ fids ∧ (ad 10 0x308).q.sel = 3)
    ∧ (adTakes io (ad 10 0x08) 10 .every ∧ (ad 10 0x08).q.sel = 0)
    ∧ (adTakes io (ad 10 0xD4) 10 .every ∧ natBits (ad 10 0xD4).q.cdw11 10 0 = 0 ∧ (Tab.get? io.tas.insts 0).isSome = true)
    ∧ ((holding shrinking).runs = true ∧ Safety.calm (holding shrinking) ∧ (holding shrinking).qce.ctx? 5 = some shrinking
      ∧ (holding shrinking).qce.readBefore shrinking = false ∧ (holding shrinking).fl.ns? 0 = some (space false) ∧ (holding shrinking).handover = false
      ∧ (holding shrinking).qce.sizeBefore 0 shrinking = false ∧ shrinking.sqe.newSize = 512 ∧ (space false).sizeOk 512 = true
      ∧ (holding shrinking).fl.lowestUsed 0 (space false) 512 = none ∧ fn.aers = [])
    ∧ (Safety.calm (mapped [(512, .mark 1)] shrinking) ∧ (mapped [(512, .mark 1)] shrinking).fl.lowestUsed 0 (space false) 512 = some 512) := by
  refine ⟨⟨adminTaken_of (by decide +kernel), by decide +kernel⟩, ⟨adminTaken_of (by decide +kernel), by decide +kernel⟩, ⟨adminTaken_of (by decide +kernel), by decide +kernel⟩,
    ⟨adminTaken_of (by decide +kernel), by decide +kernel⟩, ⟨adminTaken_of (by decide +kernel), by decide +kernel⟩, ⟨adminTaken_of (by decide +kernel), by decide +kernel⟩,
    ⟨adminTaken_of (by decide +kernel), by decide +kernel⟩, ⟨adminTaken_of (by decide +kernel), by decide +kernel⟩, ?_, ?_⟩ <;> · unfold Safety.calm; decide +kernel

def conn (inst : Nat) (rdma : Bool) : Conn := ⟨0, inst, 0, rdma, 100000, none, none, 0, 4096, false, false⟩
/-- A port's discovery controller is connected. -/
def discovered : State := { io with hfu := { io.hfu with conns := [(0, conn 2048 true)] } }
theorem witness_AdminReports :
    (adTakes io (ad 2 0x00038004) 2 .every ∧ ((gOfA io (ad 2 0x00038004)).logPage (xOfA io (ad 2 0x00038004))).isOk = true
      ∧ (ad 2 0x00038004).q.rae = true ∧ (ad 2 0x00038004).q.logOffset = 0 ∧ (ad 2 0x00038004).q.lid = 4)
    ∧ (adTakes io (ad 2 0x00030004) 2 .every ∧ ((gOfA io (ad 2 0x00030004)).logPage (xOfA io (ad 2 0x00030004))).isOk = true
      ∧ (ad 2 0x00030004).q.rae = false ∧ fn.aers = [])
    ∧ (adTakes io (ad 2 0x00030070) 2 .every ∧ ∃ e, (gOfA io (ad 2 0x00030070)).logPage (xOfA io (ad 2 0x00030070)) = .error e)
    ∧ (discovered.hfu.conns.any fun c => c.2.inst == 2048) = true
    ∧ (adTakes io (ad 6 2) 6 .every ∧ ((gOfA io (ad 6 2)).identify (xOfA io (ad 6 2))).isOk = true)
    ∧ (adTakes io (ad 6 0x13) 6 .every ∧ (ad 6 0x13).q.cns = 0x13) ∧ (adTakes io (ad 6 0xFF) 6 .every ∧ (ad 6 0xFF).q.cns = 0xFF)
    ∧ (adTakes io (ad 0x86 1023 0 1 0 0x10000000) 0x86 .every ∧ io.fl.attachedNs 0 1 = some (space false)
      ∧ natBits (ad 0x86 1023 0 1 0 0x10000000).q.cdw13 31 24 = 0x10 ∧ (ad 0x86 1023 0 1 0 0x10000000).q.slba < (space false).nsze)
    ∧ (adTakes io (ad 0x1A 0 1 1) 0x1A .every ∧ natBits (ad 0x1A 0 1 1).q.cdw11 15 8 = 0 ∧ natBits (ad 0x1A 0 1 1).q.cdw11 7 0 = 1)
    ∧ (adTakes io (ad 0x19 0 1 1 1) 0x19 .every ∧ natBits (ad 0x19 0 1 1 1).q.cdw12 0 0 = 1) ∧ (adTakes io (ad 0x19 0 1 1 0) 0x19 .every ∧ natBits (ad 0x19 0 1 1 0).q.cdw12 0 0 = 0)
    ∧ adTakes io (ad 0x1D 0) 0x1D .every ∧ 255 + [(0 : Byte)].length ≤ 256 ∧ 256 < 256 + [(0 : Byte)].length ∧ adTakes io (ad 0x1E 0) 0x1E .every ∧ 0 + 256 ≤ 256 :=
  ⟨⟨adminTaken_of (by decide +kernel), by decide +kernel⟩, ⟨adminTaken_of (by decide +kernel), by decide +kernel⟩, ⟨adminTaken_of (by decide +kernel), _, rfl⟩, by decide +kernel,
    ⟨adminTaken_of (by decide +kernel), by decide +kernel⟩, ⟨adminTaken_of (by decide +kernel), by decide +kernel⟩, ⟨adminTaken_of (by decide +kernel), by decide +kernel⟩,
    ⟨adminTaken_of (by decide +kernel), by decide +kernel⟩, ⟨adminTaken_of (by decide +kernel), by decide +kernel⟩, ⟨adminTaken_of (by decide +kernel), by decide +kernel⟩,
    ⟨adminTaken_of (by decide +kernel), by decide +kernel⟩, adminTaken_of (by decide +kernel), by decide +kernel, by decide +kernel, adminTaken_of (by decide +kernel), by decide +kernel⟩

/-- With keys, and a port whose 64 instances the VQ pool serves. -/
def base : State := { wired .pcie .up with sec := { io.sec with privKeys := true } }
def testing : State := { io with mgc := { io.mgc with dst := some ⟨1, 0⟩ } }
def pooled (vf : List (Nat × Inst)) (vq : Nat) : State :=
  { base with qce := { base.qce with insts := (0, fn) :: vf, regs := (base.qce.regs.setFld (.qceQpool 0) 30 16 512).setFld (.qceQpool 0) 8 0 64, vq := [(3, vq)] } }
def vfOff : Inst := { fn with pf := false, state := .offline }
def vmCmd (act n : Nat) (vf : Nat := 3) : AdminCmd := ad 0x1C (act + vf * 65536) n
theorem witness_TestsAndFunctions :
    (adTakes io (ad 0x14 1) 0x14 .every ∧ io.mgc.dst = none) ∧ (adTakes testing (ad 0x14 2) 0x14 .every ∧ testing.mgc.dst.isSome = true)
    ∧ adTakes testing (ad 0x14 15) 0x14 .every ∧ testing.runs = true
    ∧ (adTakes (pooled [] 0) (vmCmd 8 257) 0x1C .pf ∧ (gOfA (pooled [] 0) (vmCmd 8 257)).isVf fn 3 = true ∧ (gOfA (pooled [] 0) (vmCmd 8 257)).qce.vfOnline 0 3 = false
      ∧ 257 ≤ (gOfA (pooled [] 0) (vmCmd 8 257)).qce.vqOf 0 3 + (gOfA (pooled [] 0) (vmCmd 8 257)).vqFree 0
      ∧ natBits (vmCmd 8 257).q.cdw10 3 0 = 8 ∧ natBits (vmCmd 8 257).q.cdw10 10 8 = 0 ∧ natBits (vmCmd 8 257).q.cdw11 15 0 = 257)
    ∧ (adTakes (pooled [(3, vfOff)] 2) (vmCmd 9 0) 0x1C .pf ∧ (gOfA (pooled [(3, vfOff)] 2) (vmCmd 9 0)).isVf fn 3 = true
      ∧ 2 ≤ (gOfA (pooled [(3, vfOff)] 2) (vmCmd 9 0)).qce.vqOf 0 3 ∧ ((gOfA (pooled [(3, vfOff)] 2) (vmCmd 9 0)).qce.inst? 3).map (·.state) = some .offline)
    ∧ (adTakes base (vmCmd 8 0 64) 0x1C .pf ∧ (gOfA base (vmCmd 8 0 64)).isVf fn 64 = false) :=
  ⟨⟨adminTaken_of (by decide +kernel), by decide +kernel⟩, ⟨adminTaken_of (by decide +kernel), by decide +kernel⟩, adminTaken_of (by decide +kernel), by decide +kernel,
    ⟨adminTaken_of (by decide +kernel), by decide +kernel⟩, ⟨adminTaken_of (by decide +kernel), by decide +kernel⟩, ⟨adminTaken_of (by decide +kernel), by decide +kernel⟩⟩

/-- A Create of one indirection unit, conventional; one whose capacity differs from its size; a namespace attached to nobody. -/
def request (ncap : Nat) : NsReq := ⟨4, ncap, 1, 0, false, false, false, true, 0, 0, 0, 0, 0, []⟩
def alone : State := { base with fl := { base.fl with ptx := { base.fl.ptx with nss := [(0, { space false with attached := [] })] } } }
def formatted : Except Status Flash := base.fl.formatReserve base.mapRegion 5 (ad 0x80 0x201 0 1).q [0]
theorem witness_NamespaceCommands :
    (adTakes base (ad 0x0D 0) 0x0D .pf ∧ base.sec.noKeys = false ∧ (base.fl.createStatus base.mapRegion (request 4)).isSome = false
      ∧ (base.fl.createStatus base.mapRegion (request 8)).map (·.sct) = some 0 ∧ (base.fl.createStatus base.mapRegion (request 8)).map (·.sc) = some 2
      ∧ (base.fl.createStatus base.mapRegion (request 8)).map (·.isOk) = some false)
    ∧ (adTakes alone (ad 0x0D 1 0 1) 0x0D .pf ∧ (alone.fl.ns? 0).map (·.attached) = some [] ∧ (alone.fl.ns? 0).map (·.kpio) = some none ∧ alone.qce.ctxs = [] ∧ alone.qce.locks = [])
    ∧ (adTakes base (ad 0x15 0 0 1) 0x15 .pf ∧ (gOfA base (ad 0x15 0 0 1)).listOk [1] = true ∧ (space false).attachStatus [1] = none ∧ (gOfA base (ad 0x15 0 0 1)).qce.inst? 1 = none)
    ∧ (adTakes base (ad 0x15 1 0 1) 0x15 .pf ∧ (gOfA base (ad 0x15 1 0 1)).listOk [0] = true ∧ [0].all (space false).attached.contains = true ∧ fn.aers = [])
    ∧ (adTakes base (ad 0x80 0x201 0 1) 0x80 .pf ∧ base.fl.attachedNs 0 1 = some (space false) ∧ (ad 0x80 0x201 0 1).q.fmtOk = true ∧ (ad 0x80 0x201 0 1).q.ses = 1
      ∧ (gOfA base (ad 0x80 0x201 0 1)).adminRights (xOfA base (ad 0x80 0x201 0 1)) 0 (space false) = none ∧ base.qce.ctxs = [] ∧ base.qce.locks = []
      ∧ base.fl.hostKeyed = false ∧ base.sec.noKeys = false ∧ formatted.isOk = true) :=
  ⟨⟨adminTaken_of (by decide +kernel), by decide +kernel⟩, ⟨adminTaken_of (by decide +kernel), by decide +kernel⟩, ⟨adminTaken_of (by decide +kernel), by decide +kernel⟩,
    ⟨adminTaken_of (by decide +kernel), by decide +kernel⟩, ⟨adminTaken_of (by decide +kernel), by decide +kernel⟩⟩

def sanitizing : State := { base with sec := { base.sec with sanitize := some ⟨.block, 0, false, 1, 0, false, true⟩ } }
theorem witness_SanitizeCommands :
    (adTakes base (ad 0x84 4) 0x84 .pf ∧ sanActOf (ad 0x84 4).q.sanact = some .crypto ∧ SanAction.crypto ≠ .exitFailure ∧ (ad 0x84 4).q.ndas = false
      ∧ (gOfA base (ad 0x84 4)).leasedByOther ((gOfA base (ad 0x84 4)).callerHost (xOfA base (ad 0x84 4))) = false ∧ base.fl.hostKeyed = false
      ∧ base.qce.ctxs = [] ∧ base.qce.locks = [] ∧ base.fl.ptx.nss.length ≤ 262144 ∧ base.sec.noKeys = false)
    ∧ (sanitizing.runs = true ∧ sanitizing.sec.sanitize = some ⟨.block, 0, false, 1, 0, false, true⟩ ∧ sanitizing.qce.ctxs = [] ∧ (sanitizing.qce.inst? 0).map (·.aers) = some []) :=
  ⟨⟨adminTaken_of (by decide +kernel), by decide +kernel⟩, by decide +kernel⟩

/-- Key Per I/O on, with namespace 1 holding the first four pool slots or none; an SPDM answer waits; a boot record is kept. -/
def kpio (k : Option (Nat × Nat)) : State :=
  { base with
    sec := { base.sec with regs := base.sec.regs.setFld .secCfg 0 0 1, endpoints := [(1, ⟨0, 0, 0, none, none, 0, some (.version [1])⟩)] }
    fl := { base.fl with ptx := { base.fl.ptx with nss := [(0, { space false with kpio := k })] } }
    fev := { base.fev with log := [(0, ⟨7, ⟨0, 0, 0, .event, 1, 9, 0, .bootPart 0 1 [0, 0, 0, 0, 3]⟩, .valid⟩)] } }
def unoffered : State := { base with sec := { base.sec with regs := base.sec.regs.setFld .secCfg 0 0 0 } }
/-- What a sealed key opens to is `Config.openInjection`'s: the blob names namespace 1 and tag 2. -/
def sealedKey : List Byte := zeros 100 ++ [1, 0, 0, 0, 2, 0] ++ zeros 98
theorem witness_SecurityCommands :
    (adTakes (kpio none) (ad 0x81 0) 0x81 .every ∧ (kpio none).kpioOn = true ∧ (kpio none).fl.attachedNs 0 1 = some (space false)
      ∧ (((kpio none).setKpio 0 none).fl.ptx.freePool 1024).isSome = true)
    ∧ (adTakes (kpio (some (8192, 4))) (ad 0x81 0) 0x81 .every ∧ (kpio (some (8192, 4))).fl.attachedNs 0 1 = some { space false with kpio := some (8192, 4) } ∧ 2 < 4
      ∧ (kpio none).sec.noKeys = false ∧ sealedKey.length = 204
      ∧ (Config.openInjection base.sec.kik sealedKey = some (1, 2) → (kpio (some (8192, 4))).sec.injection sealedKey (some (1, 2)) = some (.injected 1 2)))
    ∧ (adTakes unoffered (ad 0x81 0) 0x81 .every ∧ unoffered.kpioOn = false)
    ∧ (adTakes (kpio none) (ad 0x82 0) 0x82 .every ∧ ((Tab.get? (kpio none).sec.endpoints 1).bind (·.waiting)).isSome = true)
    ∧ (adTakes base (ad 0x82 0) 0x82 .every ∧ ((Tab.get? base.sec.endpoints 1).bind (·.waiting)) = none)
    ∧ (adTakes (kpio none) (ad 0xCA 0) 0xCA .every ∧ (pickRecord (kpio none).fev.bootRecords 0 0).isSome = true)
    ∧ (adTakes base (ad 0xCA 0) 0xCA .every ∧ pickRecord base.fev.bootRecords 0 0 = none) := by
  refine ⟨⟨adminTaken_of (by decide +kernel), by decide +kernel⟩, ⟨adminTaken_of (by decide +kernel), by decide +kernel, by decide, by decide +kernel, by decide +kernel, ?_⟩,
    ⟨adminTaken_of (by decide +kernel), by decide +kernel⟩, ⟨adminTaken_of (by decide +kernel), by decide +kernel⟩, ⟨adminTaken_of (by decide +kernel), by decide +kernel⟩,
    ⟨adminTaken_of (by decide +kernel), by decide +kernel⟩, ⟨adminTaken_of (by decide +kernel), by decide +kernel⟩⟩
  intro h
  have e : (kpio (some (8192, 4))).sec.kik = base.sec.kik := rfl
  simp only [Sec.injection, e, h]
  decide +kernel

/-- Slot 2 runs and slot 1 holds the delivered image; a download stands open; an activation that Ahnah asked for is in a phase. -/
def running : State := { base with mgc := { base.mgc with run := ⟨2, 0, 0, 0⟩ } }
def download (o : DlOwner) : State := { running with mgc := { running.mgc with download := some ⟨o, [(0, [1])], 0⟩ } }
def activating (p : ActPhase) : State := { running with mgc := { running.mgc with act := some ⟨p, 1, vendorHeader, .ahnah, 0⟩ } }
def recording (s : State) : State := { s with sec := { s.sec with building := some ⟨1, 0, 0, 0, 0, 0, 0, [], []⟩ } }
theorem witness_FirmwareCommands :
    (adTakes running (ad 0x11 1023) 0x11 .pfOrEth ∧ ((ad 0x11 1023).q.cdw10 + 1) * 4 % 4096 = 0 ∧ running.mgc.download = none)
    ∧ (adTakes (download .sideband) (ad 0x11 1023) 0x11 .pfOrEth ∧ (download .sideband).mgc.download = some ⟨.sideband, [(0, [1])], 0⟩ ∧ DlOwner.sideband ≠ .inst 0)
    ∧ (adTakes running (ad 0x10 0x10) 0x10 .pfOrEth ∧ natBits (ad 0x10 0x10).q.cdw10 5 3 = 2
      ∧ running.mgc.commitVerdict false (.inst 0) 0 2 running.sec.stage2Svn running.fl.dvers = .ok)
    ∧ (adTakes running (ad 0x10 0x19) 0x10 .pfOrEth ∧ natBits (ad 0x10 0x19).q.cdw10 5 3 = 3 ∧ running.mgc.commitSlot 1 ≠ running.mgc.run.slot
      ∧ running.mgc.commitVerdict false (.inst 0) 1 3 running.sec.stage2Svn running.fl.dvers = .ok)
    ∧ (download .sideband).up = true
    ∧ ((activating .prepare).runs = true ∧ (activating .prepare).mgc.act.isSome = true ∧ (activating .prepare).recoveringFw = false ∧ Safety.calm (activating .prepare))
    ∧ ((recording running).up = true ∧ (recording running).fev.safe = false ∧ (recording running).sec.building.isSome = true
      ∧ (recording running).mgc.postHold ≤ (recording running).clock.now ∧ (recording running).mgc.act.isSome = false)
    ∧ (Safety.calm (recording (activating .record)) ∧ (recording (activating .record)).mgc.act.isSome = true) := by
  refine ⟨⟨adminTaken_of (by decide +kernel), by decide +kernel⟩, ⟨adminTaken_of (by decide +kernel), by decide +kernel⟩, ⟨adminTaken_of (by decide +kernel), by decide +kernel⟩,
    ⟨adminTaken_of (by decide +kernel), by decide +kernel⟩, by decide +kernel, ?_, by decide +kernel, ?_⟩ <;> · unfold Safety.calm; decide +kernel

/-- Namespace 1 is lease-guarded, with a lease of the host itself, of another one, or of none. -/
def leased (owner : Option Nat) (hostId : Nat) : State :=
  { withFn { fn with hostId := hostId } with hfu := { base.hfu with leases := [(0, ⟨true, owner, 0, 60000, 3, false⟩)] } }
def leaseCmd (act : Nat) : AdminCmd := ad 0xC8 act 60000 1
def holdingOff : State := { base with hfu := { base.hfu with holdoff := some 10 } }
def verdict (owner : Option Nat) (act : Nat) : Nat × LeaseVerdict :=
  let r := ((leased owner 7).leaseOf 0).act false 0 7 act 60000
  (r.1.gen, r.2)
def band (die : Nat) : Band := ⟨1, 0, false, .full, List.replicate 38 (die, 5), 2, 2, 2, 0, false, 0, [], 0, none, [], 0⟩
def banded (spent : Nat) (bands : Tab Band) : State := { base with fl := { base.fl with ptx := { base.fl.ptx with bands := bands, spent := spent } } }
def badBlock : State := { base with fl := { base.fl with mbe := { base.fl.mbe with blks := [(blkKey 0 9, ⟨.bad, false, 0, 0, 0, 0, 0, false, 0⟩)] } } }
theorem witness_LeaseAndRetire :
    (adTakes (leased none 0) (leaseCmd 1) 0xC8 .every ∧ (gOfA (leased none 0) (leaseCmd 1)).callerHost (xOfA (leased none 0) (leaseCmd 1)) = 0 ∧ ((leased none 0).leaseOf 0).guarded = true
      ∧ (leased none 0).fl.attachedNs 0 1 = some (space false))
    ∧ (adTakes (leased (some 7) 7) (leaseCmd 2) 0xC8 .every ∧ (gOfA (leased (some 7) 7) (leaseCmd 2)).callerHost (xOfA (leased (some 7) 7) (leaseCmd 2)) = 7 ∧ verdict (some 7) 2 = (3, .ok))
    ∧ (adTakes (leased (some 8) 7) (leaseCmd 1) 0xC8 .every ∧ verdict (some 8) 1 = (3, .held))
    ∧ (adTakes (leased none 7) (leaseCmd 1) 0xC8 .every ∧ verdict none 1 = (4, .ok))
    ∧ (holdingOff.runs = true ∧ 10 ≤ (holdingOff.until' (holdingOff.clock.now + (10 - holdingOff.clock.lease))).clock.lease)
    ∧ (adTakes base (ad 0xCC 0 0) 0xCC .pf ∧ base.fl.hw.hasDie 0 = true)
    ∧ (adTakes (banded 0 [(1, band 0)]) (ad 0xCC 0 1) 0xCC .pf ∧ ((banded 0 [(1, band 0)]).fl.dieRec 0).health.leaving = false ∧ (banded 0 [(1, band 0)]).fl.retireLoses 0 = true)
    ∧ (adTakes (banded (2 ^ 60) []) (ad 0xCC 0 1) 0xCC .pf ∧ (banded (2 ^ 60) []).fl.retireLoses 0 = false
      ∧ (banded (2 ^ 60) []).fl.allowanceLeft < ((banded (2 ^ 60) []).fl.hw.desc 0).dieBytes)
    ∧ (adTakes base (ad 0xCC 0 0x101) 0xCC .pf ∧ ((gOfA base (ad 0xCC 0 0x101)).retireByCommand 0 true).isOk = true)
    ∧ (adTakes badBlock (ad 0xCC 0 2 0 9) 0xCC .pf ∧ 9 < (badBlock.fl.hw.desc 0).blks ∧ (badBlock.fl.blk (blkKey 0 9)).st = .bad) :=
  ⟨⟨adminTaken_of (by decide +kernel), by decide +kernel⟩, ⟨adminTaken_of (by decide +kernel), by decide +kernel⟩, ⟨adminTaken_of (by decide +kernel), by decide +kernel⟩,
    ⟨adminTaken_of (by decide +kernel), by decide +kernel⟩, by decide +kernel, ⟨adminTaken_of (by decide +kernel), by decide +kernel⟩,
    ⟨adminTaken_of (by decide +kernel), by decide +kernel⟩, ⟨adminTaken_of (by decide +kernel), by decide +kernel⟩, ⟨adminTaken_of (by decide +kernel), by decide +kernel⟩,
    ⟨adminTaken_of (by decide +kernel), by decide +kernel⟩⟩

/-! ## Instances, ports and associations -/

/-- A virtual function beside the physical one, in a state; the physical function in one; a device recovery in progress; the safe state. -/
def vf (st : InstState) : Inst := { fn with pf := false, state := st }
def pair (pf' vf' : InstState) : State := { base with qce := { base.qce with insts := [(0, { fn with state := pf' }), (1, vf vf')] } }
def recovering' (s : State) : State := { s with fev := { s.fev with active := [.device] } }
def safe' (s : State) : State := { s with fev := { s.fev with safe := true } }
theorem witness_InstanceResets :
    ((pair .ready .ready).fev.safe = false ∧ (pair .ready .ready).dumped = false ∧ (pair .ready .ready).qce.inst? 1 = some (vf .ready) ∧ (vf .ready).eth = false ∧ (vf .ready).pf = false
      ∧ (pair .ready .ready).qce.ctxs = [] ∧ (pair .ready .ready).mgc.postHold ≤ (pair .ready .ready).clock.now ∧ (pair .ready .ready).sec.sanitize = none)
    ∧ ((pair .ready .disabled).qce.inst? 1 = some (vf .disabled) ∧ (pair .ready .resetting).qce.inst? 1 = some (vf .resetting))
    ∧ (((pair .disabled .offline).qce.inst? 0).map (fun x => (x.eth, x.pf, x.state)) = some (false, true, .disabled)
      ∧ (∀ e ∈ (pair .disabled .offline).qce.insts, e.2.port = 0 → e.2.pf = false → (pair .disabled .offline).qce.inst? e.1 = some e.2 ∧ (e.2.state = .disabled ∨ e.2.state = .offline)))
    ∧ (safe' up).fev.safe = true
    ∧ ((pair .ready .resetting).fev.active.contains .device = false ∧ ({ vf .resetting with resetTo := .disabled } : Inst).resetTo = .disabled
      ∧ ({ vf .resetting with resetTo := .unused } : Inst).resetTo = .unused)
    ∧ ((recovering' (pair .ready .resetting)).qce.inst? 1 = some (vf .resetting) ∧ (recovering' (pair .ready .resetting)).fev.active.contains .device = true)
    ∧ (Tab.get? base.hfu.ports 0 = some (port .pcie .up) ∧ (port .pcie .up).proto = .pcie ∧ base.up = true ∧ base.dumped = false ∧ 63 < (base.hfu.range 0).2
      ∧ base.qce.inst? ((base.hfu.range 0).1 + 1) = none) := by decide +kernel

/-- A disabled function; one whose shutdown notification stands, with a live command or none; the same in unprotected mode. -/
def off : State := withFn { fn with state := .disabled }
def shut : Inst := { fn with shst := 1, shutdown := some none }
def shutting (unp : Bool) (cs : Tab Ctx) : State :=
  { io with
    qce := { io.qce with insts := [(0, shut), (1, fn)], ctxs := cs }
    fl := { io.fl with ptx := { io.fl.ptx with unp := unp } } }
theorem witness_ControllerRegisters :
    ((off.qce.inst? 0).map (fun x => (x.eth, x.state)) = some (false, .disabled) ∧ off.fev.safe = false ∧ off.up = true ∧ natBits 0x00460001 0 0 = 1
      ∧ asqs 0x003F0000 < 2 ∧ 2 ≤ asqs 0x0001FFFF ∧ 2 ≤ acqs 0x0001FFFF)
    ∧ ((safe' io).qce.inst? 0 = some fn ∧ (safe' io).fev.safe = true)
    ∧ (io.qce.inst? 0 = some fn ∧ io.fev.safe = false ∧ natBits 0x00460000 0 0 = 0 ∧ fn.state = .ready ∧ io.dumped = false ∧ io.qce.ctxs = [] ∧ io.mgc.postHold ≤ io.clock.now
      ∧ io.sec.sanitize = none)
    ∧ ((withFn { fn with state := .disabled, cc := 1 }).qce.inst? 0 = some { fn with state := .disabled, cc := 1 } ∧ natBits 1 0 0 = 1)
    ∧ (io.runs = true ∧ fn.rdy = true ∧ fn.shst = 0)
    ∧ ((shutting true [(5, waiting)]).qce.inst? 0 = some shut ∧ (shutting true [(5, waiting)]).runs = true ∧ (shutting true [(5, waiting)]).liveCmds 0 shut = true)
    ∧ ((shutting true []).liveCmds 0 shut = false ∧ (shutting true []).fl.ptx.unp = true)
    ∧ ((shutting false []).liveCmds 0 shut = false ∧ (shutting false []).fl.ptx.unp = false
      ∧ State.othersShut { shutting false [] with qce := (shutting false []).qce.updInst 0 fun i => { i with shst := 2 } } 0 = false)
    ∧ (io.ringing 0 = true ∧ io.qce.sq? 0 256 = none ∧ io.qce.cq? 0 256 = none ∧ (io.qce.sq? 0 1).map (·.size) = some 64 ∧ (io.qce.cq? 0 1).map (·.size) = some 64
      ∧ (⟨64, 0, 5, true, some 0⟩ : Cq).mayFree 5 = true ∧ (⟨64, 0, 5, true, some 0⟩ : Cq).mayFree 6 = false) := by decide +kernel

/-- A port's block: RoCEv2 and NVMe/TCP over IPv4, priority 3, frames of 9,000 B, and its CRC-32C, which is counted 16 bytes at a time. -/
def block' : List Byte := [0xA5, 0x0D, 3, 0, 0, 0, 0x28, 0x23] ++ zeros 244 ++ leBytes 4 123045088

theorem crc_split (n : Nat) (c d : W32) (h : (zeros 16).foldl crcByte c = d) : (zeros (16 + n)).foldl crcByte c = (zeros n).foldl crcByte d := by
  rw [show zeros (16 + n) = zeros 16 ++ zeros n from List.replicate_add .., List.foldl_append, h]
theorem block_crc : crc32c (slice block' 0 252) = 123045088 := by
  have e : slice block' 0 252 = [0xA5, 0x0D, 3, 0, 0, 0, 0x28, 0x23] ++ zeros 244 := by decide +kernel
  have z : (zeros 244).foldl crcByte 1157088194#32 = 4171922207#32 := by
    rw [show zeros 244 = zeros (16 + 228) from rfl, crc_split 228 _ 1518288427#32 (by decide +kernel),
      show zeros 228 = zeros (16 + 212) from rfl, crc_split 212 _ 703435243#32 (by decide +kernel),
      show zeros 212 = zeros (16 + 196) from rfl, crc_split 196 _ 451381304#32 (by decide +kernel),
      show zeros 196 = zeros (16 + 180) from rfl, crc_split 180 _ 2423836008#32 (by decide +kernel),
      show zeros 180 = zeros (16 + 164) from rfl, crc_split 164 _ 2242165779#32 (by decide +kernel),
      show zeros 164 = zeros (16 + 148) from rfl, crc_split 148 _ 2883583163#32 (by decide +kernel),
      show zeros 148 = zeros (16 + 132) from rfl, crc_split 132 _ 3822196592#32 (by decide +kernel),
      show zeros 132 = zeros (16 + 116) from rfl, crc_split 116 _ 1534767862#32 (by decide +kernel),
      show zeros 116 = zeros (16 + 100) from rfl, crc_split 100 _ 3644638693#32 (by decide +kernel),
      show zeros 100 = zeros (16 + 84) from rfl, crc_split 84 _ 477514814#32 (by decide +kernel),
      show zeros 84 = zeros (16 + 68) from rfl, crc_split 68 _ 2952253686#32 (by decide +kernel),
      show zeros 68 = zeros (16 + 52) from rfl, crc_split 52 _ 2865058512#32 (by decide +kernel),
      show zeros 52 = zeros (16 + 36) from rfl, crc_split 36 _ 3918195307#32 (by decide +kernel),
      show zeros 36 = zeros (16 + 20) from rfl, crc_split 20 _ 1601724307#32 (by decide +kernel),
      show zeros 20 = zeros (16 + 4) from rfl, crc_split 4 _ 1212504163#32 (by decide +kernel)]
    decide +kernel
  rw [e, crc32c, List.foldl_append, show ([0xA5, 0x0D, 3, 0, 0, 0, 0x28, 0x23] : List Byte).foldl crcByte 0xFFFFFFFF#32 = 1157088194#32 from by decide +kernel, z]
  decide +kernel
theorem block_ok : portBlockOk block' = true := by
  unfold portBlockOk
  rw [block_crc]
  decide +kernel
def eth : State := { wired .eth .up with mgc := { io.mgc with ports := [(0, block')] } }
theorem block_at {s : State} (h : Tab.get? s.mgc.ports 0 = some block') : s.portBlock 0 = some block' := by
  rw [State.portBlock, h]
  simp [Option.filter, block_ok]
theorem prio_at {s : State} (h : Tab.get? s.mgc.ports 0 = some block') : s.pfcPrio 0 = 3 := by
  rw [State.pfcPrio, block_at h]
  decide +kernel
/-- Frames on the block's VLAN over IPv4, up to its largest. -/
theorem accepts_at {s : State} {e : EthHead} (h : Tab.get? s.mgc.ports 0 = some block') : s.accepts 0 e = (decide (e.len ≤ 9216 ∧ e.len ≤ leNat (slice block' 6 2)
    ∧ e.vlan = leNat (slice block' 4 2) % 4096) && natBits (leNat (slice block' 1 1)) (if e.v6 then 1 else 0) (if e.v6 then 1 else 0) == 1) := by
  simp only [State.accepts, block_at h]
theorem room_at {s : State} {e : EthHead} {n : Nat} (h : Tab.get? s.mgc.ports 0 = some block') :
    s.roomFor 0 e n = if e.prio = 3 then decide (((Tab.get? s.hfu.ports 0).map (·.allot)).getD 0 + n ≤ allotSize) else !e.full := by
  rw [State.roomFor, prio_at h]
def heard (c : Conn) : State := { eth with hfu := { eth.hfu with conns := [(1, c)] } }
def head (len : Nat) (full : Bool) : EthHead := ⟨len, 0, 3, false, full, 0⟩
def paused (c : Conn) : State := { heard c with hfu := { (heard c).hfu with ports := [(0, { port .eth .up with paused := [3] })] } }
theorem witness_Transports :
    (Tab.get? eth.hfu.ports 0 = some (port .eth .up) ∧ (port .eth .up).proto = .eth ∧ (port .eth .up).state = .up ∧ eth.dumped = false
      ∧ (port .eth .up).allot + 4 * mib ≤ 4 * mib ∧ 4 * mib < (port .eth .up).allot + (4 * mib + 1) ∧ (conn 0 true).port = 0)
    ∧ (eth.accepts 0 (head 9000 false) = true ∧ (head 9000 false).prio = eth.pfcPrio 0)
    ∧ (eth.accepts 0 (head 9001 false) = false ∧ ({ head 64 true with prio := 4 } : EthHead).prio ≠ eth.pfcPrio 0)
    ∧ ((heard (conn 0 true)).conn? 1 = some (conn 0 true) ∧ (heard (conn 0 true)).accepts 0 (head 9000 false) = true ∧ (heard (conn 0 true)).roomFor 0 (head 9000 false) 8256 = true
      ∧ (heard (conn 0 true)).roomFor 0 (head 9000 false) 8257 = true)
    ∧ ((conn 0 true).rdma = true ∧ (conn 0 true).cnpSent = none ∧ ({ conn 0 true with cnpSent := some 0 } : Conn).cnpSent = some 0 ∧ eth.clock.now < 0 + 500
      ∧ ({ conn 0 true with cnpSeen := some 0 } : Conn).cnpSeen = some 0
      ∧ (heard (conn 0 false)).pausedPort 0 = false ∧ (conn 0 false).rdma = false ∧ (conn 0 false).retries < 8 ∧ 8 ≤ ({ conn 0 false with retries := 8 } : Conn).retries
      ∧ (paused (conn 0 true)).pausedPort 0 = true) := by
  refine ⟨by decide +kernel, ⟨(accepts_at rfl).trans (by decide +kernel), ?_⟩, ⟨(accepts_at rfl).trans (by decide +kernel), ?_⟩,
    ⟨by decide +kernel, (accepts_at rfl).trans (by decide +kernel), (room_at rfl).trans (by decide +kernel), (room_at rfl).trans (by decide +kernel)⟩, by decide +kernel⟩ <;>
    · rw [prio_at rfl]
      decide +kernel

def request' (qid : Nat) (disc : Bool) (hostId : Nat := 7) : ConnectReq := ⟨qid, 4095, 1000, hostId, 0, true, false, 4420, disc, 4096, false, false⟩
def full' : State := { eth with qce := { eth.qce with insts := (List.range 64).map fun j => (j, fn) } }
def assoc (st : InstState) (kato : Nat) : Inst := { fn with eth := true, state := st, kato := kato }
def linked (st : InstState) (kato : Nat) : State := { eth with qce := { eth.qce with insts := [(0, assoc st kato)] } }
theorem witness_Associations :
    eth.portBlock 0 = some block'
    ∧ (eth.runs = true ∧ natBits (leNat (slice block' 1 1)) 2 2 = 1 ∧ (request' 0 true).heard = true ∧ eth.hfu.conns.length < 18432)
    ∧ ((request' 0 false).heard = true ∧ (request' 0 false).sqsize ≤ 4095
      ∧ ((List.range (eth.hfu.range 0).2).find? fun j => (eth.qce.inst? ((eth.hfu.range 0).1 + j)).isNone) = some 1)
    ∧ ((full'.runs = true) ∧ ((List.range (full'.hfu.range 0).2).find? fun j => (full'.qce.inst? ((full'.hfu.range 0).1 + j)).isNone) = none)
    ∧ ((linked .ready 0).qce.inst? (request' 2 false).cntlid = some (assoc .ready 0) ∧ (assoc .ready 0).eth = true ∧ (assoc .ready 0).rdy = true ∧ 2 ≤ (assoc .ready 0).allot
      ∧ (linked .ready 0).qce.sq? 0 2 = none ∧ (assoc .ready 0).hostId = (request' 2 false).hostId ∧ (assoc .ready 0).hostId ≠ (request' 2 false 8).hostId)
    ∧ io.portBlock 0 = none
    ∧ ((linked .disabled 0).qce.inst? 0 = some (assoc .disabled 0) ∧ (linked .disabled 0).fev.safe = false ∧ (linked .disabled 0).dumped = false)
    ∧ ((linked .ready 1000).qce.ctxs = [] ∧ (linked .ready 1000).mgc.postHold = 0 ∧ (linked .ready 1000).sec.sanitize = none ∧ (assoc .ready 1000).kato ≠ 0) :=
  ⟨block_at rfl, by decide +kernel, by decide +kernel, by decide +kernel, by decide +kernel, by decide +kernel, by decide +kernel, by decide +kernel⟩

theorem witness_FabricsProperties : (linked .ready 0).qce.inst? 0 = some (assoc .ready 0) ∧ (assoc .ready 0).eth = true := by decide +kernel
theorem witness_EpochBoundary : io.runs = true := by decide +kernel

/-! ## Registers, faults and recoveries -/

/-- Debug is unlocked; the sideband may write the Ahnah registers. -/
def unlockedUp : State := { up with sec := { up.sec with debugUnlocked := true } }
def ahnah : State := { up with mgc := { up.mgc with regs := up.mgc.regs.setFld .mgcSbicfg 15 15 1 } }
theorem witness_RegisterWrites :
    (up.serves .cameleer = true ∧ unlockedUp.serves .debug = true ∧ 0x40030001 % (32 / 8) ≠ 0 ∧ (0x40030000 % (16 / 8) = 0 ∧ 16 < 32)
      ∧ (0x40000000 % (64 / 8) = 0 ∧ 32 ≤ 64 ∧ pageRefused (.core 1) 0x40080000 = true) ∧ pageRefused .cameleer 0x40030100 = false ∧ regAt? 0x40030100 = some .ptxOasiscfg
      ∧ Safety.served up .cameleer .ptxOasiscfg)
    ∧ Safety.served up .cameleer .hfuLeasecfg ∧ Safety.served up .cameleer .ptmHuecfg ∧ Safety.served up .cameleer .tasShcmd ∧ Safety.served up .cameleer .fevDevwdg
    ∧ Safety.served up .cameleer .fevFfqstat ∧ Safety.served up .cameleer .fevEvwrhdr
    ∧ ((Share.ofRegs (up.storeReg .tasShcmd 1).tas.regs).valid = true)
    ∧ (ahnah.sideband = true ∧ ahnah.mgc.regs.bit .mgcSbicfg 15 = true ∧ ahnah.dumped = false ∧ natBits 0x7FFFFFFF 31 31 = 0 ∧ ahnah.mgc.ah.busy = none)
    ∧ ((0x83000000 : W32).bits 31 31 = 1 ∧ (0x83000000 : W32).bits 25 24 = 3 ∧ (0x81000000 : W32).bits 25 24 ≠ 3) := by
  unfold Safety.served; decide +kernel

/-- The Seal engine runs a key operation, or one of OP 0; a slot's change waits, with a live command that names the slot or none. -/
def sealing (r : SealRun) : State := { up with sec := { up.sec with run := some r } }
def changing (x : Ctx) : State := { holding x with sec := { up.sec with changes := [⟨0, some (.gen 1), 9, true⟩] } }
theorem witness_SealEngine :
    (Safety.served up .cameleer .secSealctl ∧ up.sec.run = none) ∧ ((sealing (.key [] false)).sec.run = some (.key [] false) ∧ (sealing (.key [] false)).sec.changes = [])
    ∧ (sealing (.gcm [] none false ⟨[], []⟩)).sec.run = some (.gcm [] none false ⟨[], []⟩) ∧ Safety.served up .cameleer .secSeallock ∧ Safety.served up .cameleer .secBrctl
    ∧ ((changing ended).sec.changes.find? fun x => x.slot == 0) = some ⟨0, some (.gen 1), 9, true⟩
    ∧ (changing ended).liveOn 0 9 = 0 ∧ (changing (reading .data)).liveOn 0 9 ≠ 0 := by
  unfold Safety.served; decide +kernel

/-- An SPDM endpoint at a stage; one that is sending a large answer. -/
def talking (e : SpdmEp) : State := { base with sec := { base.sec with endpoints := [(1, e)] }, fev := (kpio none).fev }
def agreed : SpdmEp := ⟨3, 0x13, 0, none, none, 0, none⟩
theorem witness_SpdmRequests :
    State.reset.runs = false ∧ (base.runs = true ∧ base.fetchPaused = false ∧ base.spdmEndpoint 1 = true ∧ base.spdmEndpoint 3 = false ∧ Tab.getD base.sec.endpoints 1 .fresh = .fresh)
    ∧ Tab.getD (talking ⟨1, 0, 0, none, none, 0, none⟩).sec.endpoints 1 .fresh = ⟨1, 0, 0, none, none, 0, none⟩
    ∧ (Tab.getD (talking { agreed with maxSize := 4096 }).sec.endpoints 1 .fresh = { agreed with maxSize := 4096 } ∧ 3 ≤ agreed.stage ∧ base.sec.privKeys = true)
    ∧ ({ agreed with sending := some ⟨0, 0, [1, 2]⟩ } : SpdmEp).sending = some ⟨0, 0, [1, 2]⟩ := by decide +kernel

def throttled (t : Throttle) : State := { up with ptm := { up.ptm with throttle := t } }
/-- Two sensors have been read, in quarters of a degree. -/
def heated (a b : Int) : State := { up with ptm := { up.ptm with sensors := [(0, ⟨a, true, none⟩), (9, ⟨b, false, none⟩)] } }
theorem witness_DeviceFaults :
    (up.up = true ∧ up.fev.safe = false ∧ up.dumped = false ∧ 3 < 4 ∧ up.ptm.throttle ≠ .shutdown
      ∧ (heated 480 480).up = true ∧ (heated 480 480).fev.safe = false ∧ (heated 480 480).dumped = false ∧ (heated 480 480).ptm.throttle ≠ .shutdown
      ∧ 2 ≤ hotCount (heated 480 480).ptm.onDie ∧ hotCount (heated 480 479).ptm.onDie < 2)
    ∧ (reported 8 3 = true ∧ (∃ src code sev, reported src code = true ∧ (evClass src code sev).1 = .u) ∧ (∃ src code sev, reported src code = true ∧ (evClass src code sev).1 ≠ .u))
    ∧ up.sec.debugUnlocked = false ∧ ((throttled .shutdown).up = true ∧ (throttled .shutdown).ptm.throttle = .shutdown) ∧ up.clock.xtalLost = false := by
  refine ⟨by decide +kernel, ⟨by decide +kernel, ⟨8, 5, true, by decide +kernel, by decide +kernel⟩, ⟨1, 1, false, by decide +kernel, by decide +kernel⟩⟩, by decide +kernel⟩

/-- A run of the device with a recovery in progress; one with three starts of a scope in the last minute. -/
def inRecovery (sc : Scope) : State := { io with fev := { io.fev with active := [sc] } }
def started (sc : Scope) : State := { io with fev := { io.fev with starts := [⟨sc, 0⟩, ⟨sc, 0⟩, ⟨sc, 0⟩] } }
/-- A die whose program has run since time 0. -/
def programming : State :=
  { io with fl := { io.fl with mbe := { io.fl.mbe with dies := [(0, { Die.idle with st := .prog, op := some ⟨.program 0, 0, 0, 0, 0, 0⟩ })] } } }
def back (sc : Scope) : State := { inRecovery sc with fev := (inRecovery sc).fev.endRecovery sc }
def backCluster : State :=
  { inRecovery (.cluster 0) with
    fev := { (inRecovery (.cluster 0)).fev.endRecovery (.cluster 0) with schedFrom := Tab.set ((inRecovery (.cluster 0)).fev.endRecovery (.cluster 0)).schedFrom 0 io.clock.now } }
def reloading (m : Nat) : State := { inRecovery .device with mgc := { (inRecovery .device).mgc with reload := some m } }
def backDevice : State :=
  { reloading 0 with
    fetchPaused := false, mgc := { (reloading 0).mgc with acRun := 255, reload := none }
    fev := { (inRecovery .device).fev.endRecovery .device with kickedAt := io.clock.now, heldAt := none, schedFrom := (List.range 8).map fun k => (k, io.clock.now) } }
theorem witness_Recoveries :
    (io.watched = true ∧ 7 < 8 ∧ (clusterChannels 0).any io.fl.hw.hasChannel = true ∧ io.fl.hw.hasChannel 0 = true ∧ io.fev.safe = false
      ∧ io.fev.active.contains (.cluster 0) = false ∧ io.fev.active.contains .device = false ∧ io.fev.judge (.core 7) io.hours = .recovers)
    ∧ (inRecovery (.channel 0)).fev.judge (.channel 0) io.hours = .absorbed
    ∧ ((started (.core 7)).fev.judge (.core 7) io.hours = .escalate .device ∧ (started .device).fev.judge .device io.hours = .fatal)
    ∧ (programming.watched = true ∧ programming.fl.hw.hasDie 0 = true ∧ 0 / 32 = 0 ∧ (programming.fl.watchdogDue programming.clock.now 0).isSome = true)
    ∧ io.kicking = true
    ∧ ((inRecovery (.core 7)).runs = true ∧ (inRecovery (.core 7)).fev.active.contains (.core 7) = true)
    ∧ ((inRecovery (.channel 0)).fev.active.contains (.channel 0) = true ∧ Safety.quiet ((back (.channel 0)).withFl ((back (.channel 0)).fl.channelsBack [0])))
    ∧ ((inRecovery (.cluster 0)).fev.active.contains (.cluster 0) = true ∧ Safety.quiet (backCluster.withFl (backCluster.fl.channelsBack (clusterChannels 0))))
    ∧ ((reloading 0).runs = true ∧ (reloading 0).fev.active.contains .device = true ∧ (reloading 0).reloaded = (reloading 0).sec.imageDigest
      ∧ (reloading 1).reloaded ≠ (reloading 1).sec.imageDigest ∧ Safety.quiet (backDevice.withFl (backDevice.fl.channelsBack backDevice.fl.hw.channels))) := by
  unfold Safety.quiet Safety.still Safety.calm
  decide +kernel

/-- The bank in a state, after one sample out of range and one below the power-fail threshold; a test that runs. -/
def bank (h : HueState) : State := { up with ptm := { up.ptm with hue := h, outCount := 1, pfCount := 1, testWanted := true, testRun := none, lastTest := some 0 } }
def tested : State := { bank .charging with ptm := { (bank .charging).ptm with testRun := some 0 } }
def sampled (mV : Nat) : State :=
  let u := (bank .charging).until' (nextMultiple (bank .charging).clock.now msT)
  { u with ptm := (u.ptm.sample u.clock.now mV u.fl.ptx.protMax).1 }
def testOver : State :=
  let u := tested.until' (0 + 12 * msT)
  { u with ptm := u.ptm.testDone u.clock.now u.stampMs u.fl.ptx.protMax 35000 34000 33000 }
theorem witness_PowerAndThermal :
    ((bank .charging).up = true ∧ (bank .charging).ptm.hue.judged = true ∧ (bank .charging).ptm.board.vhmax < 60000 ∧ (bank .charging).ptm.board.vpf ≤ 60000
      ∧ 1 ≤ (bank .charging).ptm.outCount ∧ 100 < (bank .charging).ptm.board.vpf ∧ 1 ≤ (bank .charging).ptm.pfCount)
    ∧ Safety.quiet (sampled 60000) ∧ Safety.quiet (sampled 100)
    ∧ (bank .degraded).ptm.hue = .degraded ∧ (bank .charging).ptm.lastTest = some 0 ∧ ((bank .charging).ptm.testMayStart = true ∧ tested.ptm.testMayStart = false)
    ∧ Safety.served up .cameleer .ptmHuestat ∧ (tested.ptm.testRun = some 0 ∧ tested.up = true ∧ Safety.quiet testOver)
    ∧ (up.up = true ∧ up.dumped = false) ∧ (up.runs = true ∧ 7 < 8) ∧ ((throttled .active).up = true ∧ (throttled .active).dumped = false ∧ (throttled .active).ptm.throttle = .active) := by
  unfold Safety.quiet Safety.still Safety.calm Safety.served
  decide +kernel

/-! ## Dies, decoders and the flash side -/

/-- Die 0 in a state, with frame reads. -/
def dieAt (x : Die) (jobs : Tab Job := []) : State :=
  { io with fl := { io.fl with mbe := { io.fl.mbe with dies := [(0, x)] }, dip := { io.fl.dip with jobs := jobs } } }
def progOp : Op := ⟨.program 3, 0, 0, 0, 0, 0⟩
def eraseOp : Op := ⟨.erase (blkKey 0 5) none false, 0, 0, 0, 0, 0⟩
def job (st : JobStage) : Job := ⟨.patrol, 0, 5, 0, none, 0, 0, st, 0, [], 0, 0, none, 0, false, false, false, false, [], [1]⟩
def inState (st : DieSt) (op : Option Op := none) : Die := { Die.idle with st := st, op := op }
/-- The urgent program of a wordline that the flash side holds. -/
def urgent : Queued := ⟨.op (.program 3), 0, true⟩
def wordline : Wordline := ⟨1, 0, [], [], true, 0, true⟩
def withWl (s : State) : State := { s with fl := { s.fl with ptx := { s.fl.ptx with wls := [(3, wordline)], bands := [(1, { band 0 with st := .opened, placed := 0, committed := 0 })] } } }
def nesting (nests : Nat) : State := withWl (dieAt { inState .erase (some { eraseOp with nests := nests, from' := 0 }) with internal := [urgent] })
def later (s : State) : State := { s with clock := { s.clock with now := 10000 } }
def suspect : State := { io with fl := { io.fl with dip := { io.fl.dip with dies := [(0, { DieRec.fresh with health := .suspect })] } } }
theorem witness_DieOperations :
    (let s := dieAt { inState .prog (some progOp) with suspending := true };
      s.runs = true ∧ s.dieRuns 0 = true ∧ (s.fl.die 0).suspending = true ∧ (s.fl.die 0).op = some progOp
        ∧ Safety.quiet (s.withFl (s.fl.setDie 0 { s.fl.die 0 with
            st := .ps, op := some { progOp with ran := progOp.ranAt s.clock.now, suspends := 1 }, suspending := false, holdEnd := s.clock.now + s.fl.pholdT 0, holdOver := false })))
    ∧ (let s := dieAt { inState .read with reads := [(8, 0)] } [(8, job .running)];
      s.dieRuns 0 = true ∧ (s.fl.die 0).reads = [(8, 0)] ∧ Tab.get? s.fl.dip.jobs 8 = some (job .running)
        ∧ Safety.quiet (s.withFl ((s.fl.setDie 0 { s.fl.die 0 with st := .idle, reads := [] }).setJob 8 { job .running with stage := .transfer })))
    ∧ (let s := dieAt (inState .reset);
      s.dieRuns 0 = true ∧ (s.fl.die 0).st = .reset ∧ (s.fl.die 0).resets = 0 ∧ Safety.quiet (s.withFl (s.fl.setDie 0 { s.fl.die 0 with st := .idle, resets := 0 }))
        ∧ Safety.quiet (s.withFl (s.fl.setDie 0 { s.fl.die 0 with resets := 1, resetAt := s.clock.now })))
    ∧ (∀ n ∈ [0, 4], let s := later (nesting n);
      s.dieRuns 0 = true ∧ (s.fl.die 0).st = .erase ∧ s.fl.maySuspend s.clock.now 0 = true ∧ s.fl.mbe.regs.bit (.mbeSchedcfg 0) 28 = true ∧ (s.fl.hw.desc 0).flags.testBit 2 = true
        ∧ (s.fl.die 0).internal.any (s.fl.nestable s.clock.now 0) = true ∧ Safety.quiet (s.withFl (if n < (s.fl.hw.desc 0).nestmax then s.fl.suspend s.clock.now 0 else s.fl)))
    ∧ (let s := dieAt Die.idle [(8, job .transfer)];
      s.fl.hw.hasChannel 0 = true ∧ Tab.getD s.fl.mbe.chSt 0 0 = 2 ∧ s.fl.transferring 0 = [(8, job .transfer)]
        ∧ Safety.quiet (s.withFl (s.fl.setJob 8 { job .transfer with stage := .staged, readsLeft := 0 })))
    ∧ (let s := dieAt { inState .reset with resets := 1 };
      s.runs = true ∧ (s.fl.die 0).st = .reset ∧ 1 ≤ (s.fl.die 0).resets)
    ∧ (let s := dieAt { inState .psRead (some progOp) with holdEnd := 50 };
      s.dieRuns 0 = true ∧ (s.fl.die 0).host = [] ∧ Safety.quiet ((s.until' 50).withFl (s.fl.setDie 0 { s.fl.die 0 with holdOver := true })))
    ∧ ((suspect.fl.dieRec 0).health = .suspect ∧ suspect.runs = true
      ∧ Safety.quiet ((suspect.until' ((suspect.fl.dieRec 0).suspectAt + dayT)).withFl (suspect.fl.setDieRec 0 { suspect.fl.dieRec 0 with health := .inService, expiries := [] })))
    ∧ (let s := withWl (dieAt (inState .prog (some progOp)));
      s.dieRuns 0 = true ∧ Tab.get? s.fl.ptx.wls 3 = some wordline ∧ ((Tab.get? s.fl.ptx.bands wordline.band).map fun b => b.set.find? (fun y => y.1 == 0)) = some (some (0, 5)))
    ∧ (let s := dieAt (inState .erase (some eraseOp));
      s.dieRuns 0 = true ∧ (s.fl.die 0).st = .erase ∧ eraseOp.kind = .erase (blkKey 0 5) none false)
    ∧ ((safe' up).runs = false ∧ (safe' up).up = true) := by
  unfold Safety.quiet Safety.still Safety.calm
  dsimp only
  refine ⟨?_, ?_, ?_, ?_, ?_, ?_, ?_, ?_, ?_, ?_, ?_⟩ <;> decide +kernel

/-- A die with a host read queued, or internal work. -/
def hostRead (st : DieSt) (op : Option Op := none) : State := dieAt { inState st op with host := [8] } [(8, job .queued)]
/-- A dump is held, so that no Wadi block waits for its erase. -/
def held (s : State) : State := { s with fl := { s.fl with ptx := { s.fl.ptx with dump := some ⟨[], [], 0, true, true, 0, 0, 0, 0, 0⟩ } } }
def work (st : DieSt) (op : Option Op := none) : State := withWl (dieAt { inState st op with internal := [urgent] })
def calibrating (since : Nat) : State := dieAt { Die.idle with internal := [⟨.calibrate, since, false⟩] }
theorem witness_DieScheduling :
    (io.runs = true ∧ io.dieRuns 0 = true ∧ (io.fl.die 0).st = .idle ∧ (io.fl.die 0).internal.any (io.fl.dueFirst io.clock.now 0) = false ∧ (io.fl.die 0).host = [])
    ∧ ((work .idle).dieRuns 0 = true ∧ ((work .idle).fl.die 0).internal.any ((work .idle).fl.dueFirst (work .idle).clock.now 0) = true)
    ∧ ((hostRead .idle).dieRuns 0 = true ∧ ((hostRead .idle).fl.die 0).internal.any ((hostRead .idle).fl.dueFirst 0 0) = false ∧ ((hostRead .idle).fl.die 0).host ≠ [] ∧ (held (hostRead .idle)).fl.wadiNext 0 = false ∧ (hostRead .idle).fl.wadiNext 0 = true
      ∧ ((hostRead .idle).fl.nextErase 0).isSome = true)
    ∧ (((dieAt (inState .ps (some progOp))).fl.die 0).host = [] ∧ (dieAt (inState .es (some eraseOp))).fl.mayNest 0 0 = false)
    ∧ ((withWl (dieAt { inState .es (some eraseOp) with internal := [urgent], holdEnd := 10 })).fl.mayNest 0 0 = true)
    ∧ ((dieAt { inState .ps (some progOp) with host := [8], holdEnd := 10 } [(8, job .queued)]).fl.holdPast 0 0 = false)
    ∧ ((dieAt (inState .prog (some progOp))).dieRuns 0 = true)
    ∧ (Safety.quiet (dieAt (inState .reset)) ∧ (dieAt (inState .reset)).dieRuns 0 = true ∧ ((dieAt (inState .out)).fl.die 0).internal = [])
    ∧ ((inRecovery (.channel 0)).runs = true ∧ (inRecovery (.channel 0)).fl.hw.hasDie 0 = true ∧ (inRecovery (.channel 0)).recovering 0 = true)
    ∧ ((calibrating 0).dieRuns 0 = true ∧ ((calibrating 0).fl.die 0).internal = [⟨.calibrate, 0, false⟩])
    ∧ Safety.quiet (io.withFl (io.fl.publish io.clock.now 0 io.recovering)) ∧ (∀ e ∈ io.fl.mbe.dies, e.2.st.busy = true → e.2.host = []) ∧ Safety.quiet (io.withFl (io.fl.calibrate io.clock.now 0)) := by
  unfold Safety.quiet Safety.still Safety.calm
  decide +kernel

/-- A job whose helpers are read, and one for which a helper is still to come; a committed band; a die being rebuilt. -/
def jobAt (st : JobStage) (readsLeft : Nat := 0) (helpers : Tab Bool := []) : State :=
  dieAt Die.idle [(8, { job st with readsLeft := readsLeft, helpers := helpers })]
def filled : Band := { band 0 with st := .opened }
def withBand (b : Band) : State := { io with fl := { io.fl with ptx := { io.fl.ptx with bands := [(1, b)] } } }
def withFull : State :=
  { withBand filled with fl := { (withBand filled).fl with mbe := { io.fl.mbe with blks := [(blkKey 0 5, ⟨.full, false, 2, 2, 0, 0, 0, false, 0⟩)] } } }
def rebuilding' (promoting : Option (Nat × Nat)) : State :=
  { withBand (band 0) with
    fl := { (withBand (band 0)).fl with dip := { io.fl.dip with dies := [(0, { DieRec.fresh with health := .retiring, todo := [5], total := 1, promoting := promoting })] } } }
theorem witness_DecodersAndRebuild :
    ((jobAt .staged).runs = true ∧ (Tab.get? (jobAt .staged).fl.dip.jobs 8).map (·.stage) = some .staged)
    ∧ ((Tab.get? (jobAt .soft2).fl.dip.jobs 8).map (fun j => (j.stage, j.readsLeft)) = some (.soft2, 0) ∧ Safety.quiet (jobAt .soft2) ∧ JobStage.soft2 ≠ .staged)
    ∧ ((Tab.get? (jobAt .mirage 0 [(1, true)]).fl.dip.jobs 8).map (fun j => (j.stage, j.wanted.all fun r => Tab.get? j.helpers r == some true)) = some (.mirage, true))
    ∧ ((Tab.get? (jobAt .globalRec 0 [(1, true)]).fl.dip.jobs 8).map (fun j => (j.stage, j.wanted.all fun r => Tab.get? j.helpers r == some true)) = some (.globalRec, true))
    ∧ ((Tab.get? (jobAt .localRec).fl.dip.jobs 8).map (fun j => Tab.has j.helpers 1) = some false ∧ 1 ∈ (job .localRec).wanted ∧ Safety.quiet (jobAt .localRec))
    ∧ ((withBand filled).fl.bandOf 0 5 = some (1, filled) ∧ (withFull.fl.bandOf 0 5 = some (1, filled) ∧ (withFull.fl.blk (blkKey 0 5)).st = .full ∧ withFull.fl.dip.regs.fld .dipCfg 15 8 ≠ 0 ∧ withFull.runs = true) ∧ 31 / 16 < filled.committed ∧ filled.committed ≤ 32 / 16 ∧ Safety.quiet (withBand filled))
    ∧ ((rebuilding' (some (5, 6))).runs = true ∧ ((rebuilding' (some (5, 6))).fl.dieRec 0).promoting = some (5, 6))
    ∧ (((rebuilding' none).fl.dieRec 0).promoting = none ∧ (rebuilding' none).fl.rebuilding.contains 0 = true ∧ (rebuilding' none).fl.nextRebuild 0 = some (5, 1, band 0)
      ∧ (rebuilding' none).fl.valid (band 0) * 100 < (rebuilding' none).fl.dip.regs.fld .dipRebcfg 23 16 * (band 0).userFrames)
    ∧ (io.fl.rebuilding.contains 0 = false ∧ (io.fl.dieRec 0).promoting = none ∧ Safety.quiet io) := by
  unfold Safety.quiet Safety.still Safety.calm
  refine ⟨?_, ?_, ?_, ?_, ?_, ?_, ?_, ?_, ?_⟩ <;> decide +kernel

/-- Namespace 3 has indirection units of 16 granules; a barchan holds 32 of them, a stripe, and another one more. -/
def slotOf (nsx iu barchan : Nat) (src : Option MapEnt) : OSlot := ⟨nsx, iu, [], src, 1, 0, 0, 0, barchan, iu, .waiting, false, false, false, [], false, []⟩
def twoStripes : Tab OSlot := ((List.range 32).map fun i => (i, slotOf 2 i 41 none)) ++ (List.range 33).map fun i => (100 + i, slotOf 2 (100 + i) 40 none)
def laden (busy : Bool) : State :=
  { io with
    fl := { io.fl with
      ptx := { io.fl.ptx with
        nss := [(0, space false), (1, space true), (2, { space false with iu := 16, nsze := 4096 })], slots := twoStripes, readyAt := [(40, 0), (41, 0)], filling := [(41, 1)]
        bands := [(1, { filled with placed := 1, committed := 1 })] }
      mbe := { io.fl.mbe with dies := if busy then [(0, { inState .reset with host := [1, 2, 3, 4] })] else [] } } }
def merging : State :=
  { io with fl := { io.fl with ptx := { io.fl.ptx with slots := [(0, slotOf 0 0 41 (some (.media 0 0 0)))], mustPad := [41] } } }
def tailed : State := { io with fl := { io.fl with ptx := { io.fl.ptx with tail := [⟨.checkpoint, 0, true, [], 0, none, none⟩] } } }
/-- SLC-pool blocks that are erased. -/
def pool (n : Nat) : State :=
  { io with fl := { io.fl with mbe := { io.fl.mbe with blks := (List.range n).map fun i => (blkKey 0 (100 + i), ⟨.erased, true, 0, 0, 0, 0, i, true, 0⟩) } } }
/-- One free block, not of the pool. -/
def spareless : State := { io with fl := { io.fl with mbe := { io.fl.mbe with blks := [(blkKey 0 100, ⟨.erased, false, 0, 0, 0, 0, 5, false, 0⟩)] } } }
def worn : State :=
  { pool 1 with fl := { (pool 1).fl with mbe := { (pool 1).fl.mbe with
    wadiSwap := [(0, blkKey 0 200)], blks := (pool 1).fl.mbe.blks ++ [(blkKey 0 200, ⟨.erased, true, 0, 0, 0, 0, 1000, true, 0⟩)] } } }
def exchanged : State :=
  let f := (worn.fl.setBlk (blkKey 0 200) { worn.fl.blk (blkKey 0 200) with pool := true, slc := true }).setBlk (blkKey 0 100) { worn.fl.blk (blkKey 0 100) with pool := true, slc := true }
  let h : Flash := { f with mbe := { f.mbe with wadiSwap := Tab.set f.mbe.wadiSwap 0 (blkKey 0 100) } }
  worn.withFl { h with ptx := { h.ptx with wadiErased := h.wadiCount, wadiSwapAt := worn.clock.now } }
def capped (st : Nat) (since : Option Nat) : State := { io with fl := { io.fl with ptx := { io.fl.ptx with cap := st, capSince := since } } }
def ckptOf (dir : Nat) : Ckpt := ⟨1, 0, 0, 0, false, [], [], [], [], List.replicate dir (.mark 0), []⟩
def ckptRuns (dir stage : Nat) : State := { io with fl := { io.fl with ptx := { io.fl.ptx with ckptRun := some (ckptOf dir), ckptStage := stage } } }
theorem witness_SpaceEvents :
    (io.runs = true ∧ 41 ≠ 16 ∧ 41 ≠ 17 ∧ io.fl.stripeReady 41 = false ∧ (true && io.padOk 41) = false ∧ Safety.quiet io)
    ∧ (merging.padOk 41 = true ∧ (merging.fl.needMerge 41).length ≠ 0)
    ∧ ((laden true).runs = true ∧ (laden true).holds 41 = true ∧ (laden true).fl.needMerge 41 = [] ∧ Tab.get? (laden true).fl.ptx.readyAt 41 = some 0)
    ∧ ((laden false).fl.stripeReady 41 = true ∧ (laden false).fl.needMerge 41 = [] ∧ (laden false).holds 41 = false)
    ∧ Safety.quiet (laden true)
    ∧ tailed.fl.ptx.tail ≠ []
    ∧ ((withBand { band 0 with st := .reclaimable }).fl.mayErase 1 { band 0 with st := .reclaimable } = true ∧ (withBand filled).fl.mayErase 1 filled = false ∧ Safety.quiet (withBand filled))
    ∧ ((pool 16).fl.slcSpare = (pool 16).fl.slcTarget ∧ Safety.quiet (pool 16))
    ∧ ((pool 17).fl.slcTarget < (pool 17).fl.slcSpare ∧ leastBy (fun k => ((pool 17).fl.blk k).ecnt) (pool 17).fl.slcFree = some (blkKey 0 100)
      ∧ Safety.quiet ((pool 17).withFl ((pool 17).fl.movePool (pool 17).clock.now (blkKey 0 100) false)))
    ∧ (spareless.fl.slcSpare < spareless.fl.slcTarget
      ∧ leastBy (fun k => (spareless.fl.blk k).ecnt) (spareless.fl.hw.dies.filterMap fun d =>
          if spareless.fl.inService d then leastBy (fun k => (spareless.fl.blk k).ecnt) (spareless.fl.freeOf d false) else none) = some (blkKey 0 100)
      ∧ Safety.quiet (spareless.withFl (spareless.fl.movePool spareless.clock.now (blkKey 0 100) true)))
    ∧ (worn.fl.wadiAt 0 = some (blkKey 0 200) ∧ leastBy (fun k => (worn.fl.blk k).ecnt) worn.fl.slcFree = some (blkKey 0 100) ∧ worn.fl.meanAll true + 64 < (worn.fl.blk (blkKey 0 200)).ecnt
      ∧ (worn.fl.blk (blkKey 0 100)).ecnt < (worn.fl.blk (blkKey 0 200)).ecnt ∧ Safety.quiet exchanged)
    ∧ ((capped 3 (some 0)).fl.ptx.cap = 3 ∧ (capped 4 (some 0)).fl.ptx.capSince = some 0 ∧ io.fl.ptx.cap ≠ 4 ∧ (capped 3 none).fl.ptx.capSince = none)
    ∧ ((ckptRuns 100 1).fl.ckptWritten = true ∧ (ckptRuns 0 0).fl.ckptWritten = false ∧ Safety.quiet (ckptRuns 0 0) ∧ io.fl.ptx.ckptRun = none
      ∧ Safety.served io .cameleer .ptxCkptstat ∧ Safety.served io .cameleer .ptxOasiscfg
      ∧ Safety.quiet ((ckptRuns 0 0).storeReg .ptxCkptstat 0x40000000)) := by
  unfold Safety.quiet Safety.still Safety.calm Safety.served
  refine ⟨?_, ?_, ?_, ?_, ?_, ?_, ?_, ?_, ?_, ?_, ?_, ?_, ?_⟩ <;> decide +kernel

/-! ## The store, the sideband and Ahnah -/

/-- The store service is entered from outside the window; the controller programs, erases and reads; FEV programs a record or erases a sector. -/
def entered (fr : Nat) : Mgc := up.mgc.enterService fr
def fsc (m : Mgc → Mgc) : State := { up with mgc := m up.mgc }
def slot2 : Nat := 0x2C00000
theorem witness_FirmwareStore :
    (up.storeUp = true ∧ 0 ≠ 0x08070000 ∧ (entered 0x10000000).fromWindow = true ∧ (entered 0x08070000).fromWindow = false)
    ∧ (1 ≤ 16 ∧ 16 ≤ 1048576 ∧ (storeSize - 16) + 16 ≤ storeSize)
    ∧ (16 ≤ (zeros 256).length ∧ (zeros 256).length ≤ 256 ∧ (zeros 256).length % 16 = 0 ∧ (storeSize - 256) % 16 = 0 ∧ (storeSize - 256) / 256 = (storeSize - 256 + (zeros 256).length - 1) / 256
      ∧ (storeSize - 256) + (zeros 256).length ≤ storeSize ∧ (entered 0).protects (storeSize - 256) (zeros 256).length = true)
    ∧ (slot2 % 16 = 0 ∧ slot2 / 256 = (slot2 + (zeros 256).length - 1) / 256 ∧ (entered 0).protects slot2 (zeros 256).length = false
      ∧ (entered 0).programBusy up.fev.writing.isSome up.fev.erasingSector slot2 = false ∧ (entered 0).firstBad up.storeWords slot2 (zeros 256) = none)
    ∧ (16 * sectorSize ≠ 0 ∧ 16 * sectorSize % sectorSize = 0 ∧ slot2 % sectorSize = 0 ∧ slot2 + 16 * sectorSize ≤ storeSize ∧ (entered 0).protects slot2 (16 * sectorSize) = false
      ∧ up.mgc.erase = none ∧ up.fev.erasing = none ∧ up.mgc.prog = none)
    ∧ ((fsc fun m => { m with prog := some ⟨.service, slot2, [1], 0, true⟩, erase := some ⟨.service, [64], 0, 0, false⟩ }).nestedProgram = true ∧ up.nestedProgram = false ∧ up.up = true)
    ∧ ((fsc fun m => { m with prog := some ⟨.service, slot2, [1], 0, false⟩ }).mgc.prog = some ⟨.service, slot2, [1], 0, false⟩ ∧ FscPort.service ≠ .fev ∧ 0 ≤ up.clock.now ∧ up.mgc.waiting = [] ∧ up.mgc.reads = [])
    ∧ (({ up with fev := { up.fev with writing := some 7 } } : State).fev.writing = some 7 ∧ up.mgc.prog = none ∧ up.mgc.erase = none ∧ ({ up with fev := { up.fev with erasing := some 7 } } : State).fev.erasing = some 7)
    ∧ (fsc fun m => { m with erase := some ⟨.service, [64], 0, 0, false⟩ }).mgc.erase = some ⟨.service, [64], 0, 0, false⟩ := by decide +kernel

theorem witness_SidebandMessages : up.mctpAnswers = true ∧ up.mgc.postHold ≤ up.clock.now + 5000 ∧ up.mgc.regs.bit .mgcSbicfg 12 = true ∧ State.reset.mctpAnswers = false ∧ 4 < 5 := by decide +kernel

/-- The interface is enabled, with writing tasks or without; its registers are busy, or the Cameleer does not serve them. -/
def ahOn (wr : Bool) : State := { base with mgc := { running.mgc with regs := (running.mgc.regs.setFld .mgcSbicfg 15 15 1).setFld .mgcSbicfg 14 14 (b2n wr) } }
def ahUnserved : State := safe' (ahOn true)
def setSize : Sqe := featureSqe 0xD5 (argOf [1, 2048, 0, 0] 0) 0 (argOf [1, 2048, 0, 0] 1) (argOf [1, 2048, 0, 0] 2)
def setMode : Sqe := featureSqe 0xD6 (argOf [1, 1, 0, 0] 0) (argOf [1, 1, 0, 0] 1 % 2) 0 0
def sideOf (code : Nat) (q : Sqe) : Option (State × Nat) := State.takeSide { ahOn true with mgc := (ahOn true).mgc.ahStart code 1 [1, 2048, 0, 0] [] } 0xFFFF q
theorem witness_AhnahTasks :
    State.reset.ahTakes = false
    ∧ ((ahOn true).ahTakes = true ∧ ahUnserved.ahTakes = true ∧ ahUnserved.cameleerServes = false ∧ ahUnserved.inRecovery = false)
    ∧ ((ahOn false).ahTakes = true ∧ (ahOn false).cameleerServes = true ∧ (ahOn false).mgc.ahWr = false ∧ (ahOn true).cameleerServes = true ∧ (ahOn true).mgc.ahWr = true
      ∧ (ahOn true).mgc.postHold ≤ (ahOn true).clock.now + 5000)
    ∧ ((ahOn true).fetches = true ∧ (ahOn true).qce.shFree ≠ 0 ∧ ((sideOf 0x06 setSize).bind fun r => r.1.qce.ctx? r.2).isSome = true ∧ ((sideOf 0x07 setMode).bind fun r => r.1.qce.ctx? r.2).isSome = true)
    ∧ (argOf [256] 0 % 256 = 0 ∧ argOf [256] 0 + 256 ≤ 41943040 ∧ ((ahOn true).mgc.takePiece 0 .sideband 256 (fit 256 [])).isOk = true)
    ∧ ((ahOn true).inRecovery = false ∧ (ahOn true).mgc.commitVerdict false .sideband 0 2 (ahOn true).sec.stage2Svn (ahOn true).fl.dvers = .ok)
    ∧ argOf [1] 0 ≤ 1 := by decide +kernel

/-! ## Resets, power loss, shutdown and links -/

/-- The bank in a state, device ready or not; the safe state, held or not; a dump that runs. -/
def hue (h : HueState) : State := { up with ptm := { up.ptm with hue := h } }
def safeHeld (hold : Nat) : State := { safe' up with fev := { (safe' up).fev with regs := up.fev.regs.setFld .fevCfg 7 0 hold } }
def dumping : State := { hue .dumping with ptm := { (hue .dumping).ptm with dump := some ⟨0, 1, 0, 0, 0, 0, 0⟩ } }
theorem witness_ResetsAndPowerLoss :
    (State.reset.porst = true ∧ State.reset.ptm.hue ≠ .dumping)
    ∧ (({ up with mgc := { up.mgc with resetDue := true } } : State).mgc.resetDue = true ∧ up.up = true ∧ up.fev.safe = false)
    ∧ ((hue .off).ptm.hue = .off ∧ (hue .off).porst = false ∧ (hue .off).ptm.throttle ≠ .shutdown ∧ (hue .off).up = true ∧ (hue .off).dumped = true)
    ∧ ((safeHeld 1).fev.safe = true ∧ (safeHeld 1).fev.safeDump = false ∧ (safeHeld 1).fev.safeThermal = false ∧ (safeHeld 1).dumped = false ∧ (safeHeld 1).porst = false
      ∧ (safeHeld 1).fev.regs.fld .fevCfg 7 0 ≠ 0 ∧ (safeHeld 0).fev.regs.fld .fevCfg 7 0 = 0)
    ∧ ((hue .dumping).ptm.hue = .dumping ∧ (hue .dumping).up = true ∧ (hue .dumping).porst = false)
    ∧ ((hue .healthy).ptm.hue.judged = true ∧ (hue .healthy).mgc.quiesced = false ∧ (hue .healthy).mgc.boot = .ready ∧ (hue .absent).ptm.hue = .absent)
    ∧ (dumping.ptm.hue = .dumping ∧ dumping.ptm.dump = some ⟨0, 1, 0, 0, 0, 0, 0⟩)
    ∧ (up.dumped = false ∧ (clusterChannels 0).any up.fl.hw.hasChannel = true ∧ up.hfu.ports = []) := by decide +kernel

def shutdown (c : Tab Ctx) : State :=
  { io with mgc := { io.mgc with shutdown := some ⟨0, false⟩ }, qce := { io.qce with ctxs := c } }
/-- The newest checkpoint is clean, or is not. -/
def cleaned (clean : Bool) : State :=
  { shutdown [] with fl := { io.fl with ptx := { io.fl.ptx with ckpt := { io.fl.ptx.ckpt with clean := clean } } } }
def quiesced' : State := { io with mgc := { io.mgc with quiesced := true } }
theorem witness_CleanShutdown :
    (Safety.served io .cameleer .mgcRstctl ∧ io.runs = true ∧ io.mgc.quiesced = false ∧ io.mgc.shutdown = none)
    ∧ (Safety.served (shutdown []) .cameleer .mgcRstctl ∧ (shutdown []).runs = true ∧ (shutdown []).mgc.quiesced = false ∧ (shutdown []).mgc.shutdown = some ⟨0, false⟩)
    ∧ (Safety.served quiesced' .cameleer .mgcRstctl ∧ quiesced'.runs = true ∧ quiesced'.mgc.quiesced = true)
    ∧ (shutdown [(5, waiting)]).anyLive = true
    ∧ ((shutdown []).anyLive = false ∧ (shutdown []).mgc.act.isSome = false ∧ (shutdown []).recoveringFw = false
      ∧ ((cleaned false).fl.shutdownStep (cleaned false).clock.now (cleaned false).hours).isSome = true ∧ (cleaned false).anyLive = false)
    ∧ ((cleaned true).fl.shutdownStep (cleaned true).clock.now (cleaned true).hours).isSome = false := by
  unfold Safety.served; decide +kernel

def portAt (p : Proto) (st : LinkState) : State := wired p st
theorem witness_Links :
    (Tab.has io.hfu.perst 0 = false)
    ∧ (Tab.keysWhere (portAt .pcie .up).hfu.ports (fun _ p => p.group == 0 && p.proto == .pcie) = [0])
    ∧ ((portAt .eth .training).up = true ∧ (portAt .eth .training).hfu.railLow = false ∧ Tab.get? (portAt .eth .training).hfu.ports 0 = some (port .eth .training)
      ∧ (port .eth .training).proto = .eth ∧ (port .eth .training).state = .training)
    ∧ ((port .pcie .training).proto = .pcie ∧ (port .pcie .training).state ≠ .down ∧ pcieTrains (port .pcie .training).lanes 6 8 = true ∧ (port .pcie .training).lanes ≤ 8
      ∧ pcieTrains (port .pcie .training).lanes 6 4 = true ∧ 4 < (port .pcie .training).lanes ∧ pcieTrains (port .pcie .training).lanes 6 3 = false)
    ∧ ((portAt .pcie .up).up = true ∧ (port .pcie .up).state ≠ .down ∧ (port .eth .up).proto = .eth)
    ∧ ({ io with hfu := { io.hfu with railLow := true } } : State).hfu.railLow = true
    ∧ Safety.served up .cameleer .hfuLgcfg := by
  unfold Safety.served; decide +kernel

/-- A queue with a fetch read outstanding, retried before or not; a command whose data is on its way. -/
def fetching (retried : Bool) : State :=
  { io with qce := { io.qce with sqs := [(0, sq), (1, { sq with cq := 1, reads := [1], retried := retried })] } }
def configured : State := { wired .pcie .up with clock := { io.clock with now := 100 * msT } }
theorem witness_LinkErrors :
    (Tab.get? base.hfu.ports 0 = some (port .pcie .up) ∧ (port .pcie .up).proto = .pcie ∧ (port .pcie .up).state = .up ∧ (base.hfu.range 0).2 ≤ 64 ∧ 63 < (base.hfu.range 0).2
      ∧ base.clock.now < (port .pcie .up).perstAt + 100 * msT)
    ∧ ((port .pcie .up).perstAt + 100 * msT ≤ configured.clock.now ∧ configured.qce.inst? ((configured.hfu.range 0).1 + 0) = some fn ∧ (port .pcie .up).group < 2
      ∧ (configured.hfu.range 0).1 < 65536 ∧ fn.pf = true ∧ barHolds (fn.allot + 1) 0x2008000 = false ∧ fn.port = 0)
    ∧ ((fetching false).runs = true ∧ ((fetching false).qce.sq? 0 1).map (fun q => (q.reads, q.retried)) = some ([1], false)
      ∧ ((fetching true).qce.sq? 0 1).map (fun q => (q.reads, q.retried)) = some ([1], true) ∧ fn.eth = false ∧ fn.state = .ready)
    ∧ ((holding (writing false)).runs = true ∧ Safety.calm (holding (writing false)) ∧ (holding (writing false)).qce.ctx? 5 = some (writing false)
      ∧ (writing false).side = false ∧ (writing false).detached = false ∧ (writing false).recorded = false ∧ (writing false).oas = false ∧ (writing false).open' = true
      ∧ (writing false).zone = none ∧ (writing false).ord = false) := by
  unfold Safety.calm; decide +kernel

/-! ## The check of a command refuses what is ill-formed -/

theorem test_wf_entry : ([.read (cmd { opc := 256, cid := 1 }), .flush ⟨2048, 1, { opc := 0, cid := 1 }⟩, .write ⟨0, 0, { opc := 1, cid := 1 }⟩, .compare ⟨0, 257, { opc := 5, cid := 1 }⟩,
    .datasetManagement (blk 9 1) (List.replicate 257 ⟨0, 1⟩), .copy (blk 0x19 1) (List.replicate 257 source), .reservationRegister (blk 13 1) (2 ^ 64) 0,
    .reservationAcquire (blk 17 1) 0 (2 ^ 64), .reservationRelease (blk 21 1) (2 ^ 64), .parityCompute ⟨0, 1, { opc := 0x83, cid := 65536 }⟩ (pcDesc 0),
    .ioManagementSend ⟨0, 0, { opc := 0x1D, cid := 1 }⟩ []] : List Instr).all (fun c => !c.ok) = true := by decide +kernel
theorem test_wf_admin : ([.identify ⟨2048, false, { opc := 6, cid := 1 }⟩, .abort ⟨0xFFFF, false, { opc := 8, cid := 1 }⟩, .getLogPage ⟨2052, false, { opc := 2, cid := 1 }⟩,
    .setFeatures (ad 9 (2 ^ 32)) .none'] : List Instr).all (fun c => !c.ok) = true := by decide +kernel
theorem test_wf_units : ([.dieWorkSelect 2048, .wordlineProgramStatus 2048 true, .patrolRead 0 4096 0, .channelWatchdogExpiry 64 0, .unitRecoveryComplete 64, .acHeartbeatMiss 8,
    .nandTemperatureRead 8 [], .pciePerstAssert 2, .trainingHelperDone 12 0 0, .trainingWritePattern .cameleer 12 0, .stripeProgramIssue 4096 false, .refreshDue 24 0, .refreshDue 0 4,
    .mr4Read 24 0, .powerDownEntry 24, .retrainingPause 24 false false, .dqsOscillatorRead 24 0, .keySlotChangeApply 65536, .corePllLockLoss 4] : List Instr).all
    (fun c => !c.ok) = true := by decide +kernel
theorem test_wf_registers : ([.sealGcm (.core 8) 0, .mgcRstctlShut .sideband, .registerWrite .cameleer 0x40000000 24 0, .registerWrite .cameleer 0x50000000 32 0,
    .registerWrite .sideband 128 32 0] : List Instr).all (fun c => !c.ok) = true := by decide +kernel
theorem test_wf_ports : ([.linkTrained 4 0 0 0, .configRequest ⟨0, 65536, .rom, none⟩, .numvfsWrite 0 65536 true, .ethFrameReceive 0 ⟨{ head 64 false with prio := 8 }, .bad⟩,
    .pfcPauseReceive 0 8 0, .fabricsConnect 0 { request' 0 false with qid := 65536 }, .functionLevelReset 2048, .fabricsDisconnect 2052, .barUnsupportedAccess 2048 0,
    .fabricsPropertySet 0 0 (2 ^ 64), .ccEnSet 0 (2 ^ 32) 0 0 0, .ccEnClear 0 (2 ^ 32), .ccShutdownNotify 0 4, .sqTailDoorbell 0 257 0, .cqePost 0 257,
    .msixVectorUnmask 0 (.vector 2048 true), .msixVectorUnmask 0 (.intms (2 ^ 32)), .completionTimeout (.fetch 2048 0)] : List Instr).all (fun c => !c.ok) = true := by decide +kernel
theorem test_wf_data : ([.sensorSample (List.replicate 23 0), .dramRead 0 0 0 false [], .dramRead 19 0 1 false [], .dramWrite 0 0 [] false [],
    .ahnahHealthSummary 0 [0, 0, 0, 0, 0] [], .ahnahPortConfigWrite 0 [2 ^ 32] [], .basicManagementRead 200 57, .vpdRead (2 ^ 16) 0,
    .vpdWrite (2 ^ 16) [], .configurationSet 256 0, .configurationGet 256] : List Instr).all (fun c => !c.ok) = true := by decide +kernel
theorem test_wf_accepts : ([.read (blk 2 1), .identify (ad 6 1), .getLogPage ⟨2051, false, { opc := 2, cid := 1 }⟩, .dieWorkSelect 2047, .sqFetchIssue] : List Instr).all Instr.ok = true := by
  decide +kernel

/-! ## Single steps, with values from the spec -/

/-- The state a command answers. -/
def after (c : Instr) (s : State) : State :=
  match exec c s with
  | .next t => t
  | _ => s

/-- R78: a tail value of the queue's size is ignored, with an event of type Error, information 0x01; the largest one below it is taken. -/
theorem test_doorbell_value : ((after (.sqTailDoorbell 0 1 64) io).qce.inst? 0).map (·.events) = some [⟨0, 1, 1⟩] ∧ ((after (.sqTailDoorbell 0 1 64) io).qce.sq? 0 1).map (·.tail) = some 0
    ∧ ((after (.sqTailDoorbell 0 1 63) io).qce.sq? 0 1).map (·.tail) = some 63 := by decide +kernel

/-- R144 and R145: with WCOST 4 at reset a write of 16 blocks of 4 KiB costs 64 WU and one of 512 costs 2,048; a Flush costs none. -/
theorem test_write_cost : io.tas.wcost = 4 ∧ (io.cost { writing false with mods := [⟨0, 16⟩], nlb := 15 }).1 = 64 ∧ (io.cost { writing false with mods := [⟨0, 512⟩], nlb := 511 }).1 = 2048
    ∧ (io.cost flushing).1 = 0 := by decide +kernel

/-- R319: address 3,072 is byte 256 of channel 0, and address 256 byte 0 of channel 1. -/
theorem test_dram_channel : dramChannel 3072 = 0 ∧ dramChannel 256 = 1 := by decide +kernel

/-- R488, MGC_CSRERR: a misaligned access is reason 2, a narrow write reason 1, an application core's write to another page reason 3, with the core's number plus 1. -/
theorem test_csr_refusals : ((after (.registerWrite .cameleer 0x40030002 32 1) up).reg .mgcCsrerr).bits 30 28 = 2 ∧ ((after (.registerWrite .cameleer 0x40030100 16 1) up).reg .mgcCsrerr).bits 30 28 = 1
    ∧ ((after (.registerWrite (.core 3) 0x40080000 32 1) up).reg .mgcCsrerr).bits 30 28 = 3 ∧ ((after (.registerWrite (.core 3) 0x40080000 32 1) up).reg .mgcCsrerr).bits 25 22 = 4
    ∧ ((after (.registerWrite (.core 3) 0x40080008 32 1) up).reg .mgcCsrerr).bits 21 0 = 0x80008 / 8 := by decide +kernel

/-- R66: another host's Claim of an expired or unowned lease raises the generation, the owner's Renew does not, and a Claim of a held one is refused. -/
theorem test_lease_actions : verdict none 1 = (4, .ok) ∧ verdict (some 7) 1 = (3, .ok) ∧ verdict (some 7) 2 = (3, .ok) ∧ verdict (some 8) 1 = (3, .held) ∧ verdict (some 8) 3 = (3, .notOwner) := by
  decide +kernel

/-- R96: on a PCIe instance Keep Alive Timer reads 0 and takes no other value; write cache cannot be turned off. -/
theorem test_pcie_features :
    (Tab.get? (after (.getFeatures (ad 10 0x0F)) io).qce.ctxs (kOfA io (ad 10 0x0F))).map (fun x => (x.status.sct, x.status.sc, x.dw0)) = some (0, 0, 0)
    ∧ (Tab.get? (after (.setFeatures (ad 9 0x0F 1000) .none') io).qce.ctxs (kOfA io (ad 9 0x0F 1000))).map (fun x => (x.status.sct, x.status.sc)) = some (0, 2)
    ∧ (Tab.get? (after (.setFeatures (ad 9 0x06 0) .none') io).qce.ctxs (kOfA io (ad 9 0x06 0))).map (fun x => (x.status.sct, x.status.sc)) = some (0, 2) := by decide +kernel

end Sys2Proof.Tests
end

section
/-! The Number of Queues feature (R76): what the command answers, and that the other engines stay as they were. -/

namespace Sys2Proof.Machine

open Safety

/-- R76: the allotment less 1 stands in both halves of the feature's value, NSQA below NCQA. -/
theorem Inst.numQueues_eq_halves {i : Inst} (hlo : 1 ≤ i.allot) (hhi : i.allot ≤ 65536) :
    i.numQueues = (i.allot - 1) + 65536 * (i.allot - 1) := by
  rw [Inst.numQueues]
  omega

/-- The fetch of an admin command touches only the Keep Alive moment of its instance, so the feature still answers the same. -/
theorem AdminFacts.inst_numQueues {s g : State} {a : AdminCmd} {k : Nat} {x : Ctx} {i : Inst} (f : AdminFacts s g a k x)
    (hi : s.qce.inst? a.inst = some i) : ∃ j, g.qce.inst? x.inst = some j ∧ j.numQueues = i.numQueues := by
  obtain ⟨i', hi', hg⟩ := f.me
  obtain rfl : i' = i := Option.some.inj (hi'.symm.trans hi)
  rw [f.inst]
  exact ⟨_, hg, rfl⟩

/-- An admin command that only answers, with success and a value in dword 0, leaves every engine but the queues and their ports' receive allotments as it was. -/
theorem finWith_completed_onlyQueues {s g : State} {a : AdminCmd} {opc k : Nat} {sc : AdminScope} {x : Ctx}
    (h : adminTaken s g a opc sc k x) (v : Nat) :
    completed s (g.finWith k .success v 0).settle k .success v ∧ onlyQueues s (g.finWith k .success v 0).settle := by
  have f := admin_facts h
  obtain ⟨-, -, -, -, -, -, -, hcalm⟩ := h
  have hsec : g.sec.sanitize = s.sec.sanitize := by rw [f.frame]
  obtain ⟨q, hq, hc, -⟩ := f.endsWith (st := .success) rfl hsec rfl hcalm v 0
  exact hq ▸ ⟨hc, f.only q g.out⟩

/-- Setting Number of Queues answers the value in force: neither CDW11 nor the data is read. -/
theorem State.setInstFeature_numQueues (g : State) (k : Nat) {x : Ctx} (i : Inst) (d : FeatureData) (hfid : x.sqe.fid = 0x07) :
    g.setInstFeature k x i d = g.finWith k .success i.numQueues 0 := by
  simp only [State.setInstFeature, hfid]

/-- The current, the default and the saved value of Number of Queues are one. -/
theorem State.getInstFeature_numQueues (g : State) {x : Ctx} (i : Inst) (dflt : Bool) (hfid : x.sqe.fid = 0x07) :
    g.getInstFeature x i dflt = .ok { dw0 := i.numQueues } := by
  simp only [State.getInstFeature, hfid]

/-- Number of Queues is a known feature (R96), and one that an instance keeps. -/
theorem numQueues_mem_fids : 0x07 ∈ fids ∧ 0x07 ∉ deviceFids := by decide

/-- Set Features of Number of Queues passes the checks and answers the instance's value. -/
theorem execSetFeatures_numQueues {s g : State} {a : AdminCmd} {k : Nat} {x : Ctx} {i : Inst} (d : FeatureData)
    (h : adminTaken s g a 0x09 .every k x) (hi : s.qce.inst? a.inst = some i) (hfid : a.q.fid = 0x07) (hsv : a.q.sv = false) :
    execSetFeatures a d s = .next (g.finWith k .success i.numQueues 0).settle := by
  have f := admin_facts h
  obtain ⟨j, hj, hval⟩ := f.inst_numQueues hi
  have hx : x.sqe.fid = 0x07 := f.sqe ▸ hfid
  have hxsv : x.sqe.sv = false := f.sqe ▸ hsv
  rw [execSetFeatures, State.admin_goes h]
  simp [hx, hxsv, numQueues_mem_fids, hj, State.setInstFeature_numQueues, hval]

/-- Get Features of Number of Queues passes the checks and answers the instance's value. -/
theorem execGetFeatures_numQueues {s g : State} {a : AdminCmd} {k : Nat} {x : Ctx} {i : Inst}
    (h : adminTaken s g a 0x0A .every k x) (hi : s.qce.inst? a.inst = some i) (hfid : a.q.fid = 0x07) (hsel : a.q.sel < 3) :
    execGetFeatures a s = .next (g.finWith k .success i.numQueues 0).settle := by
  have f := admin_facts h
  obtain ⟨j, hj, hval⟩ := f.inst_numQueues hi
  have hx : x.sqe.fid = 0x07 := f.sqe ▸ hfid
  have hnotCaps : x.sqe.sel ≠ 3 := f.sqe ▸ hsel.ne
  have hinRange : ¬ 3 < x.sqe.sel := f.sqe ▸ hsel.not_gt
  rw [execGetFeatures, State.admin_goes h]
  simp [hx, hnotCaps, hinRange, numQueues_mem_fids, hj, State.getInstFeature_numQueues, hval]

/-- Settles O6: both commands answer the feature's value of the instance, and such an answer leaves the other engines as they were. -/
theorem numberOfQueues : Obligations.NumberOfQueues := by
  intro s g a k x i hi hlo hhi hfid
  rw [← Inst.numQueues_eq_halves hlo hhi]
  constructor
  · intro d h hsv
    exact ⟨_, execSetFeatures_numQueues d h hi hfid hsv, finWith_completed_onlyQueues h _⟩
  · intro h hsel
    exact ⟨_, execGetFeatures_numQueues h hi hfid hsel, finWith_completed_onlyQueues h _⟩

end Sys2Proof.Machine
end

section
/-! Writers of the DRAM regions (R322): a write that a region refuses is reported and nothing of it is made; a read meets no such check. -/

namespace Sys2Proof.Machine

/-- The bounds of the regions (R321) are multiples of 4 KiB, so a granule lies in one region. -/
theorem regionOf_eq_of_granule_eq {a b : Nat} (h : a / 4096 = b / 4096) : regionOf a = regionOf b := by
  have hm : a / 1048576 = b / 1048576 := by omega
  simp only [regionOf, hm]

/-! ## The parts of a write -/

/-- A write of some bytes starts with the part up to its first granule's end. -/
theorem granuleParts_succ {bs : List Byte} (h : bs ≠ []) (fuel a : Nat) :
    granuleParts (fuel + 1) a bs =
      (a, bs.take (4096 - a % 4096)) :: granuleParts fuel (a + (4096 - a % 4096)) (bs.drop (4096 - a % 4096)) := by
  cases bs with
  | nil => contradiction
  | cons c cs => rfl

/-- Every part of a write starts at a byte of the write. -/
theorem granuleParts_start_inside {fuel a : Nat} {bs : List Byte} {p : Nat × List Byte} (h : p ∈ granuleParts fuel a bs) :
    a ≤ p.1 ∧ p.1 < a + bs.length := by
  induction fuel generalizing a bs with
  | zero => simp [granuleParts] at h
  | succ fuel ih =>
    obtain rfl | hne := eq_or_ne bs []
    · simp [granuleParts] at h
    have hlen := List.length_pos_iff.2 hne
    rw [granuleParts_succ hne, List.mem_cons] at h
    obtain rfl | hrest := h
    · exact ⟨le_rfl, Nat.lt_add_of_pos_right hlen⟩
    · have hin := ih hrest
      rw [List.length_drop] at hin
      omega

/-- Every byte of a write lies in the granule of one of its parts, as long as the fuel reaches that granule. -/
theorem granuleParts_covers {fuel a b : Nat} {bs : List Byte} (hlo : a ≤ b) (hhi : b < a + bs.length)
    (hfuel : b / 4096 < a / 4096 + fuel) : ∃ p ∈ granuleParts fuel a bs, p.1 / 4096 = b / 4096 := by
  induction fuel generalizing a bs with
  | zero => omega
  | succ fuel ih =>
    have hne : bs ≠ [] := List.length_pos_iff.1 (by omega)
    rw [granuleParts_succ hne]
    by_cases hfirst : a / 4096 = b / 4096
    · exact ⟨_, List.mem_cons_self, hfirst⟩
    · have hlater : a + (4096 - a % 4096) ≤ b := by omega
      obtain ⟨p, hp, hgran⟩ := ih (bs := bs.drop (4096 - a % 4096)) hlater (by rw [List.length_drop]; omega) (by omega)
      exact ⟨p, List.mem_cons_of_mem _ hp, hgran⟩

/-- The fuel of DRAM_WRITE reaches every granule of the write: a byte that its region refuses shows at the start of a part. -/
theorem refused_part_of_refused_byte {req addr a : Nat} {bytes : List Byte} (hlo : addr ≤ a) (hhi : a < addr + bytes.length)
    (hw : (regionOf a).writer req = false) :
    ∃ p ∈ granuleParts (bytes.length / 4096 + 2) addr bytes, (regionOf p.1).writer req = false := by
  obtain ⟨p, hp, hgran⟩ := granuleParts_covers (fuel := bytes.length / 4096 + 2) hlo hhi (by omega)
  exact ⟨p, hp, regionOf_eq_of_granule_eq hgran ▸ hw⟩

/-- With a part that its region refuses, a write does nothing but report one such part: event 0x01 of MSS, class D, severity 2. -/
theorem State.writeParts_refused (s : State) {req : Nat} (w : Bool) (e : LineErrs) {ps : List (Nat × List Byte)}
    (h : ∃ p ∈ ps, (regionOf p.1).writer req = false) :
    ∃ p ∈ ps, (regionOf p.1).writer req = false
      ∧ s.writeParts req w e ps = { s with fev := s.fev.report ⟨0x07, 0x01, .d, 2, 12, req, p.1, 0, 0⟩ s.stamp } := by
  obtain ⟨p, hp⟩ : ∃ p, ps.find? (fun p => !(regionOf p.1).writer req) = some p := by
    rw [← Option.isSome_iff_exists, List.find?_isSome]
    simpa using h
  have hw : (regionOf p.1).writer req = false := by simpa using List.find?_some hp
  refine ⟨p, List.mem_of_find?_eq_some hp, hw, ?_⟩
  rw [State.writeParts, hp]
  exact State.report_mild rfl

/-! ## Requests inside the installed capacity -/

/-- DRAM that serves takes a write inside its capacity granule by granule. -/
theorem exec_dramWrite_inside {s : State} (hup : s.dramUp = true) {addr : Nat} {bytes : List Byte}
    (hcap : addr + bytes.length ≤ s.mss.cap) (req : Nat) (w : Bool) (e : LineErrs) :
    exec (.dramWrite req addr bytes w e) s
      = .next (s.writeParts req w e (granuleParts (bytes.length / 4096 + 2) addr bytes)) := by
  change execDramWrite req addr bytes w e s = _
  simp [execDramWrite, hup, hcap.not_gt]

/-- DRAM that serves answers a read inside its capacity, whoever asks. -/
theorem exec_dramRead_inside {s : State} (hup : s.dramUp = true) {addr len : Nat} (hcap : addr + len ≤ s.mss.cap)
    (req : Nat) (w : Bool) (e : LineErrs) :
    exec (.dramRead req addr len w e) s
      = .next (s.answered (s.mss.read s.clock.now s.part.raaimt req w addr len e)) := by
  change execDramRead req addr len w e s = _
  simp [execDramRead, hup, hcap.not_gt]

/-- A read of good lines outside a zero-fill opens their rows and gives the stored bytes. -/
theorem Mss.read_clean {m : Mss} {a n : Nat} (hfill : m.fillIn a n = none) (hgood : ∀ l ∈ linesOf a n, l ∉ m.poison)
    (now : Nat) (raaimt : Option Nat) (req : Nat) (w : Bool) :
    m.read now raaimt req w a n []
      = ⟨(m.accesses now raaimt req w (linesOf a n)).1, [.data req a (Mem.getBytes m.mem a n) .ok], [],
          (m.accesses now raaimt req w (linesOf a n)).2⟩ := by
  obtain ⟨hpoison, -⟩ := Mss.accesses_frame m now raaimt req w (linesOf a n)
  have hcheck := Mss.checkLines_clean (m.accesses now raaimt req w (linesOf a n)).1 now (linesOf a n) (hpoison ▸ hgood)
  simp [Mss.read, hfill, hcheck]

/-- A request that meets no bad line puts its answers out, as the engines' tables let them be seen, and nothing else. -/
theorem State.answered_mild_out (s : State) {r : MemResult} (hgood : r.uncorr = []) (hmild : ∀ p ∈ r.reports, p.mild = true) :
    (s.answered r).out = (r.answers.map fun a => .mem (s.seen a)).reverse ++ s.out := by
  obtain ⟨f, q, h, hmem⟩ := State.memory_mild (s.emits (r.answers.map fun a => .mem (s.seen a))) r.mss r.reports hmild
  rw [State.answered, hgood, hmem]
  rfl

/-- What the engines' tables replace in a read keeps its length, and so the answer has as many bytes as were asked for. -/
theorem State.seen_data_getBytes (s : State) (req addr len : Nat) (m : Mem) (flag : ReadFlag) :
    ∃ bs, s.seen (.data req addr (Mem.getBytes m addr len) flag) = .data req addr bs flag ∧ bs.length = len :=
  ⟨_, rfl, by simp [Mem.getBytes]⟩

/-! ## The two halves of R322 -/

/-- R322: a write with a byte that its region refuses is discarded with its report. -/
theorem exec_dramWrite_refused {s : State} {req addr a : Nat} {bytes : List Byte} (w : Bool) (e : LineErrs)
    (hup : s.dramUp = true) (hcap : addr + bytes.length ≤ s.mss.cap) (hlo : addr ≤ a) (hhi : a < addr + bytes.length)
    (hw : (regionOf a).writer req = false) :
    ∃ t b, exec (.dramWrite req addr bytes w e) s = .next t ∧ addr ≤ b ∧ b < addr + bytes.length ∧ (regionOf b).writer req = false
      ∧ t = { s with fev := s.fev.report ⟨0x07, 0x01, .d, 2, 12, req, b, 0, 0⟩ s.stamp } := by
  obtain ⟨p, hp, hpw, hdone⟩ := s.writeParts_refused w e (refused_part_of_refused_byte hlo hhi hw)
  obtain ⟨hplo, hphi⟩ := granuleParts_start_inside hp
  exact ⟨_, p.1, exec_dramWrite_inside hup hcap req w e, hplo, hphi, hpw, hdone⟩

/-- R322: a read of good lines is answered in full to every requester. -/
theorem exec_dramRead_answers {s : State} {addr len : Nat} (req : Nat) (w : Bool) (hup : s.dramUp = true)
    (hcap : addr + len ≤ s.mss.cap) (hfill : s.mss.fillIn addr len = none) (hgood : ∀ l ∈ linesOf addr len, l ∉ s.mss.poison) :
    ∃ t bs, exec (.dramRead req addr len w []) s = .next t ∧ t.out = .mem (.data req addr bs .ok) :: s.out ∧ bs.length = len := by
  obtain ⟨bs, hbs, hlen⟩ := s.seen_data_getBytes req addr len s.mss.mem .ok
  refine ⟨_, bs, exec_dramRead_inside hup hcap req w [], ?_, hlen⟩
  rw [Mss.read_clean hfill hgood, State.answered_mild_out s rfl (Mss.accesses_mild _ _ _ _ _ _)]
  simp [hbs]

/-- Settles O9: a granule lies in one region, so a refused byte shows at the start of a part of the write; a read is not checked at all. -/
theorem regionWriters : Obligations.RegionWriters :=
  ⟨fun _ _ _ _ _ w e hup hcap hlo hhi hw => exec_dramWrite_refused w e hup hcap hlo hhi hw,
    fun _ req _ _ w hup hcap hfill hgood => exec_dramRead_answers req w hup hcap hfill hgood⟩

end Sys2Proof.Machine
end

section
/-! The store service (R391, R394): what an entry latches, and which calls are refused with STORE_SELF and with STORE_BUSY. -/

namespace Sys2Proof.Machine

/-! ## What an entry latches (R394) -/

/-- A bit reads as it was set. -/
theorem RegFile.bit_setFld_self (rf : RegFile) (r : Reg) {b : Nat} (v : Nat) (h : b < 32) :
    (rf.setFld r b b v).bit r b = (v % 2 == 1) := by
  rw [RegFile.bit, RegFile.fld_setFld_self _ _ _ _ _ h, Nat.add_sub_cancel_left, pow_one]

/-- A bit outside a field that is set stays. -/
theorem RegFile.bit_setFld_outside (rf : RegFile) (r : Reg) {hi lo b : Nat} (v : Nat) (h : hi < 32) (d : b < lo ∨ hi < b) :
    (rf.setFld r hi lo v).bit r b = rf.bit r b := by
  rw [RegFile.bit, RegFile.fld_setFld_ne _ _ _ _ _ _ _ h d, ← RegFile.bit]

/-- A bit of another register stays. -/
theorem RegFile.bit_setFld_of_ne (rf : RegFile) {r q : Reg} (hi lo v b : Nat) (h : q ≠ r) :
    (rf.setFld r hi lo v).bit q b = rf.bit q b := by
  rw [RegFile.bit, RegFile.fld, RegFile.get_setFld_ne _ _ _ _ h, ← RegFile.fld, ← RegFile.bit]

/-- INWIN tells whether the entry came from the store window; the fields latched beside it do not reach its bit. -/
theorem Mgc.fromWindow_enterService (m : Mgc) (fr : Nat) :
    (m.enterService fr).fromWindow = decide (0x10000000 ≤ fr ∧ fr < 0x18000000) := by
  simp only [Mgc.fromWindow, Mgc.enterService]
  rw [RegFile.bit_setFld_outside _ _ _ (by decide) (by decide), RegFile.bit_setFld_outside _ _ _ (by decide) (by decide),
    RegFile.bit_setFld_self _ _ _ (by decide)]
  cases decide (0x10000000 ≤ fr ∧ fr < 0x18000000) <;> rfl

/-- An entry from the store window sets SELFEV. -/
theorem Mgc.selfev_enterService {m : Mgc} {fr : Nat} (hlo : 0x10000000 ≤ fr) (hhi : fr < 0x18000000) :
    (m.enterService fr).regs.bit .mgcSvcfrom 30 = true := by
  simp [Mgc.enterService, hlo, hhi, RegFile.bit_setFld_self]

/-! ## The check of INWIN in each call (R394) -/

/-- What R394 asks of a call made in state `m` of MGC, answered with `r`: with INWIN set it leaves MGC alone and answers STORE_SELF without data;
with INWIN clear it answers something else and leaves INWIN so. -/
structure ChecksWindow (m : Mgc) (r : Mgc × SvcResult) : Prop where
  refuses : m.fromWindow = true → r.1 = m ∧ r.2.status = .self ∧ r.2.data = []
  admits : m.fromWindow = false → r.2.status ≠ .self ∧ r.1.fromWindow = false

theorem Mgc.svcRead_checksWindow (m : Mgc) (shown : Tab NorWord) (o n : Nat) : ChecksWindow m (m, m.svcRead shown o n) where
  refuses h := by simp [Mgc.svcRead, h]
  admits h := by
    refine ⟨?_, h⟩
    simp only [Mgc.svcRead, h, Bool.false_eq_true, if_false]
    split
    case isTrue outOfRange => exact nofun
    case isFalse inRange => exact nofun

/-- A program called from elsewhere may set a bit of MGC_FSCSTAT, but leaves MGC_SVCFROM. -/
theorem Mgc.svcProgram_checksWindow (m : Mgc) (now : Nat) (shown : Tab NorWord) (fp : Bool) (fe : Option Nat) (o : Nat) (bs : List Byte) :
    ChecksWindow m (m.svcProgram now shown fp fe o bs) where
  refuses h := by simp [Mgc.svcProgram, h]
  admits h := by
    simp only [Mgc.svcProgram, h, Bool.false_eq_true, if_false]
    split
    case isTrue outOfRange => exact ⟨nofun, h⟩
    split
    case isTrue prot => exact ⟨nofun, h⟩
    split
    case isTrue busy => exact ⟨nofun, h⟩
    split
    case h_1 notErased => exact ⟨nofun, (RegFile.bit_setFld_of_ne _ _ _ _ _ (by decide)).trans h⟩
    case h_2 starts => exact ⟨nofun, h⟩

theorem Mgc.svcErase_checksWindow (m : Mgc) (now : Nat) (fe : Bool) (o n : Nat) : ChecksWindow m (m.svcErase now fe o n) where
  refuses h := by simp [Mgc.svcErase, h]
  admits h := by
    simp only [Mgc.svcErase, h, Bool.false_eq_true, if_false]
    split
    case isTrue outOfRange => exact ⟨nofun, h⟩
    split
    case isTrue prot => exact ⟨nofun, h⟩
    split
    case isTrue busy => exact ⟨nofun, h⟩
    case isFalse starts => exact ⟨nofun, h⟩

theorem Mgc.svcPoll_checksWindow (m : Mgc) : ChecksWindow m m.svcPoll where
  refuses h := by simp [Mgc.svcPoll, h]
  admits h := by
    simp only [Mgc.svcPoll, h, Bool.false_eq_true, if_false]
    split_ifs with running
    case pos => exact ⟨nofun, h⟩
    split
    case h_1 failed => exact ⟨nofun, h⟩
    case h_2 done => exact ⟨nofun, h⟩

/-! ## A call as a whole -/

/-- A call of the service as what it does to MGC: no other engine is reached. -/
def State.svcCall (f : State → Mgc × SvcResult) (g : State) : State × SvcResult := ({ g with mgc := (f g).1 }, (f g).2)

theorem exec_storeServiceRead (en fr o n : Nat) (s : State) :
    exec (.storeServiceRead en fr o n) s = s.enterStore en fr (State.svcCall fun g => (g.mgc, g.mgc.svcRead g.storeWords o n)) := rfl

theorem exec_storeServiceProgram (en fr o : Nat) (bs : List Byte) (s : State) :
    exec (.storeServiceProgram en fr o bs) s = s.enterStore en fr (State.svcCall fun g =>
      g.mgc.svcProgram g.clock.now g.storeWords g.fev.writing.isSome g.fev.erasingSector o bs) := rfl

theorem exec_storeServiceErase (en fr o n : Nat) (s : State) :
    exec (.storeServiceErase en fr o n) s = s.enterStore en fr (State.svcCall fun g =>
      g.mgc.svcErase g.clock.now g.fev.erasing.isSome o n) := rfl

theorem exec_storeServicePoll (en fr : Nat) (s : State) :
    exec (.storeServicePoll en fr) s = s.enterStore en fr (State.svcCall fun g => g.mgc.svcPoll) := rfl

/-- An entry at another address than the service's one is an access fault. -/
theorem State.enterStore_wrong_address {s : State} (hup : s.storeUp = true) {en : Nat} (hen : en ≠ 0x08070000) (fr : Nat)
    (go : State → State × SvcResult) : s.enterStore en fr go = .fault .entryFault := by
  simp [State.enterStore, hup, hen]

/-- An entry at the service's address is latched; then the call runs and its result is given. -/
theorem State.enterStore_svcCall {s : State} (hup : s.storeUp = true) (fr : Nat) (f : State → Mgc × SvcResult) {m : Mgc} {r : SvcResult}
    (hf : f { s with mgc := s.mgc.enterService fr } = (m, r)) :
    s.enterStore 0x08070000 fr (State.svcCall f) = .next { s with mgc := m, out := .service r :: s.out } := by
  simp [State.enterStore, hup, State.svcCall, hf, State.emit]

/-- A command, by its entry address, is a call of the store service that checks INWIN. -/
def IsServiceCall (fr : Nat) (c : Nat → Instr) : Prop :=
  ∃ f, (∀ g : State, ChecksWindow g.mgc (f g)) ∧ ∀ (s : State) (en : Nat), exec (c en) s = s.enterStore en fr (State.svcCall f)

theorem isServiceCall_read (fr o n : Nat) : IsServiceCall fr fun en => .storeServiceRead en fr o n :=
  ⟨_, fun g => g.mgc.svcRead_checksWindow _ _ _, fun s en => exec_storeServiceRead en fr o n s⟩

theorem isServiceCall_program (fr o : Nat) (bs : List Byte) : IsServiceCall fr fun en => .storeServiceProgram en fr o bs :=
  ⟨_, fun g => g.mgc.svcProgram_checksWindow _ _ _ _ _ _, fun s en => exec_storeServiceProgram en fr o bs s⟩

theorem isServiceCall_erase (fr o n : Nat) : IsServiceCall fr fun en => .storeServiceErase en fr o n :=
  ⟨_, fun g => g.mgc.svcErase_checksWindow _ _ _ _, fun s en => exec_storeServiceErase en fr o n s⟩

theorem isServiceCall_poll (fr : Nat) : IsServiceCall fr fun en => .storeServicePoll en fr :=
  ⟨_, fun g => g.mgc.svcPoll_checksWindow, fun s en => exec_storeServicePoll en fr s⟩

/-- Settles O7: each of the four calls checks INWIN, which the entry has latched before the call runs. -/
theorem storeEntry : Obligations.StoreEntry := by
  intro s fr c hc hup
  have hcall : IsServiceCall fr c := by
    obtain ⟨o, n, rfl⟩ | ⟨o, bs, rfl⟩ | ⟨o, n, rfl⟩ | rfl := hc
    · exact isServiceCall_read fr o n
    · exact isServiceCall_program fr o bs
    · exact isServiceCall_erase fr o n
    · exact isServiceCall_poll fr
  obtain ⟨f, hf, hexec⟩ := hcall
  have hlatch := Mgc.fromWindow_enterService s.mgc fr
  obtain ⟨hrefuses, hadmits⟩ := hf { s with mgc := s.mgc.enterService fr }
  have hruns := (hexec s _).trans (State.enterStore_svcCall hup fr f rfl)
  refine ⟨fun en hen => ?_, fun hlo hhi => ?_, fun hout => ?_⟩
  · rw [hexec, State.enterStore_wrong_address hup hen]
  · have hwin : (s.mgc.enterService fr).fromWindow = true := by simp [hlatch, hlo, hhi]
    obtain ⟨hsame, hself, hdata⟩ := hrefuses hwin
    rw [hsame] at hruns
    exact ⟨_, _, hruns, hself, hdata, hwin, Mgc.selfev_enterService hlo hhi, rfl⟩
  · have hwin : (s.mgc.enterService fr).fromWindow = false := by
      rw [hlatch, decide_eq_false_iff_not]
      omega
    obtain ⟨hother, hkept⟩ := hadmits hwin
    exact ⟨_, _, hruns, hother, hkept, rfl⟩

/-! ## Refusals with STORE_BUSY (R391) -/

/-- What makes a program wait its turn: its sector being erased, by the service or by FEV, or a program of either. -/
theorem Mgc.programBusy_iff (m : Mgc) (fp : Bool) (fe : Option Nat) (o : Nat) :
    m.programBusy fp fe o = true ↔
      (∃ e, m.erase = some e ∧ e.sectors.head? = some (o / 65536)) ∨ fe = some (o / 65536) ∨ m.prog.isSome = true ∨ fp = true := by
  cases herase : m.erase <;> simp [Mgc.programBusy, herase, sectorSize] <;> tauto

/-- A well-formed program that is not protected is refused as busy, and nothing starts. -/
theorem Mgc.svcProgram_busy {m : Mgc} {fp : Bool} {fe : Option Nat} {o : Nat} {bs : List Byte} (hwin : m.fromWindow = false)
    (hrange : ¬ (bs.length < 16 ∨ 256 < bs.length ∨ bs.length % 16 ≠ 0 ∨ o % 16 ≠ 0 ∨ o / 256 ≠ (o + bs.length - 1) / 256
      ∨ storeSize < o + bs.length))
    (hprot : m.protects o bs.length = false) (hbusy : m.programBusy fp fe o = true) (now : Nat) (shown : Tab NorWord) :
    m.svcProgram now shown fp fe o bs = (m, ⟨.busy, o, []⟩) := by
  simp only [Mgc.svcProgram, hwin, hprot, hbusy, if_neg hrange, Bool.false_eq_true, if_false, if_true]

/-- A well-formed erase that is not protected is refused while one runs, and nothing starts. -/
theorem Mgc.svcErase_busy {m : Mgc} {fe : Bool} {o n : Nat} (hwin : m.fromWindow = false)
    (hrange : ¬ (n = 0 ∨ n % sectorSize ≠ 0 ∨ 16 * sectorSize < n ∨ o % sectorSize ≠ 0 ∨ storeSize < o + n))
    (hprot : m.protects o n = false) (hbusy : m.erase.isSome = true ∨ fe = true) (now : Nat) :
    m.svcErase now fe o n = (m, ⟨.busy, o, []⟩) := by
  have hrun : (m.erase.isSome || fe) = true := by simpa using hbusy
  simp only [Mgc.svcErase, hwin, hprot, hrun, if_neg hrange, Bool.false_eq_true, if_false, if_true]

/-- Settles O8: the checks before the busy check pass, and the refusal leaves the state as the entry latched it. -/
theorem storeBusy : Obligations.StoreBusy := by
  rintro s fr o m hup rfl hwin
  constructor
  · intro bs hmin hmax hlen hoff hpage hend hprot hcause
    have hbusy := (Mgc.programBusy_iff (s.mgc.enterService fr) _ _ _).2 hcause
    rw [exec_storeServiceProgram]
    exact ⟨_, State.enterStore_svcCall hup fr _ (Mgc.svcProgram_busy hwin (by omega) hprot hbusy _ _), rfl⟩
  · intro n hn hlen hmax hoff hend hprot hcause
    rw [exec_storeServiceErase]
    exact ⟨_, State.enterStore_svcCall hup fr _ (Mgc.svcErase_busy hwin (by simp only [sectorSize]; omega) hprot hcause _), rfl⟩

end Sys2Proof.Machine
end

section
/-! What every step keeps: the queue's rest, the canonical form of the DRAM byte memory, and the bytes of DRAM where a command does not touch them. -/

namespace Sys2Proof.Machine

/-- A command outside `touchesDram` leaves the queue and the bytes of DRAM alone. -/
theorem exec_keeps (c : Instr) (s : State) (h : Safety.touchesDram c = false) : Keeps s (exec c s) := by
  cases c <;> cases h <;> simp [exec]

/-- Every command leaves the queue alone and DRAM in its canonical form. -/
theorem exec_keepsForm (c : Instr) (s : State) : KeepsForm s (exec c s) := by
  cases h : Safety.touchesDram c
  case false => exact (exec_keeps c s h).form
  case true =>
    cases c <;> cases h
    case dramRead => exact execDramRead_keepsForm _ _ _ _ _ _
    case dramWrite => exact execDramWrite_keepsForm _ _ _ _ _ _
    case zeroFillDone => exact execZeroFillDone_keepsForm _ _
    case mssVbclr1Go => exact execMssVbclr1Go_keepsForm _ _ _
    case rangeScrubDone => exact execRangeScrubDone_keepsForm _ _ _ _
    case patrolScrubStep => exact execPatrolScrubStep_keepsForm _ _
    case registerWrite => exact execRegisterWrite_keepsForm _ _ _ _ _
    case powerOnReset => exact execPowerOnReset_keepsForm _ _
    case deviceReset => exact execDeviceReset_keepsForm _ _
    case powerReturnAfterDump => exact execPowerReturnAfterDump_keepsForm _ _
    case safeholdExpiry => exact execSafeholdExpiry_keepsForm _ _

/-- A step on an empty queue lets time pass. -/
theorem step_idle {s : State} (h : s.pending = []) : step s = .next s.tick := by rw [step, h]

/-- A step runs the command at the front of the queue. -/
theorem step_front {s : State} {c : Instr} {rest : List Instr} (h : s.pending = c :: rest) : step s = exec c { s with pending := rest } := by
  rw [step, h]

/-- A step takes the command at the front of the queue, leaves the rest, and keeps DRAM in its canonical form. -/
theorem step_keepsForm {s t : State} (h : step s = .next t) : t.pending = s.pending.tail ∧ (s.mss.mem.wf = true → t.mss.mem.wf = true) := by
  cases hp : s.pending with
  | nil =>
    rw [step_idle hp] at h
    cases h
    simp [hp]
  | cons c rest =>
    rw [step_front hp] at h
    exact exec_keepsForm c _ t h

/-- Settles O4: an idle step leaves DRAM alone, and every command keeps its canonical form. -/
theorem stepKeepsMemory : Obligations.StepKeepsMemory := fun _ _ hm hstep => (step_keepsForm hstep).2 hm

/-- Settles O5: the two frames of a command. -/
theorem queueAndDramKept : Obligations.QueueAndDramKept :=
  ⟨fun _ _ hstep => (step_keepsForm hstep).1, fun c s t hc hexec => (exec_keeps c s hc t hexec).symm⟩

/-- Settles O1. -/
theorem stepRunsFront : Obligations.StepRunsFront := fun _ _ _ hp => step_front hp

/-- Settles O2: an idle step moves the clocks by 100 ns; the lease clock stands while fetch pauses. -/
theorem idleStep : Obligations.IdleStep := fun _ hp => ⟨_, step_idle hp, rfl, rfl, rfl, rfl, rfl⟩

/-- Settles O3: each part of the state at reset, and each register's field, as its table gives it. -/
theorem resetLeaves : Obligations.ResetLeaves := by
  unfold Obligations.ResetLeaves Safety.memOk
  decide +kernel

end Sys2Proof.Machine
end

section
/-! How a register takes a write, field by field (R12), and what a served write leaves of the state. -/

namespace Sys2Proof

/-- A field outside the cleared one stays. -/
theorem W32.bits_clearBits_ne (w v : W32) {hi lo a b : Nat} (h : hi < 32) (d : a < lo ∨ hi < b) :
    (w &&& ~~~ (v &&& maskOf hi lo)).bits a b = w.bits a b := by
  rw [W32.bits_eq, W32.bits_eq]
  congr 1
  apply BitVec.eq_of_getLsbD_eq
  intro i hi'
  simp only [BitVec.getLsbD_extractLsb', BitVec.getLsbD_and, BitVec.getLsbD_not, getLsbD_maskOf _ _ _ h]
  rcases Nat.lt_or_ge (b + i) 32 with hlt | hge
  · have hout : (decide (lo ≤ b + i) && decide (b + i ≤ hi)) = false := by
      simp only [Bool.and_eq_false_iff, decide_eq_false_iff_not]; omega
    simp [hout, hlt]
  · simp [BitVec.getLsbD_of_ge _ _ hge]

/-- A field outside the set one stays. -/
theorem W32.bits_orBits_ne (w v : W32) {hi lo a b : Nat} (h : hi < 32) (d : a < lo ∨ hi < b) :
    (w ||| (v &&& maskOf hi lo)).bits a b = w.bits a b := by
  rw [W32.bits_eq, W32.bits_eq]
  congr 1
  apply BitVec.eq_of_getLsbD_eq
  intro i hi'
  simp only [BitVec.getLsbD_extractLsb', BitVec.getLsbD_and, BitVec.getLsbD_or, getLsbD_maskOf _ _ _ h]
  have hout : (decide (lo ≤ b + i) && decide (b + i ≤ hi)) = false := by
    simp only [Bool.and_eq_false_iff, decide_eq_false_iff_not]; omega
  simp [hout]

/-- A wide field is 0 where its two parts are. -/
theorem W32.bits_eq_zero_of_parts (w : W32) {hi mid lo : Nat} (hh : w.bits hi mid = 0) (hl : w.bits (mid - 1) lo = 0) (h1 : lo < mid) (h2 : mid ≤ hi) :
    w.bits hi lo = 0 := by
  simp only [W32.bits, natBits] at *
  have e1 : hi + 1 - lo = (mid - lo) + (hi + 1 - mid) := by omega
  have e2 : mid - 1 + 1 - lo = mid - lo := by omega
  have e3 : 2 ^ lo * 2 ^ (mid - lo) = 2 ^ mid := by rw [← pow_add]; congr 1; omega
  rw [e2] at hl
  rw [e1, pow_add, Nat.mod_mul, hl, Nat.div_div_eq_div_mul, e3, hh, Nat.mul_zero]

end Sys2Proof

namespace Sys2Proof.Machine

/-- The fields of a register lie inside it and do not overlap. -/
theorem Reg.fields_apart (r : Reg) :
    (∀ f ∈ r.fields, f.hi < 32) ∧ r.fields.Pairwise fun f g => f.hi < g.lo ∨ g.hi < f.lo := by
  cases r <;> simp [Reg.fields]

/-- Taking one field's write leaves every other field. -/
theorem bits_fieldWrite_outside (r : Reg) (locked : Bool) (w v : W32) {f : FieldSpec} {a b : Nat} (h : f.hi < 32) (d : a < f.lo ∨ f.hi < b) :
    (fieldWrite r locked w v f).bits a b = w.bits a b := by
  have hset : ∀ x, (w.setBits f.hi f.lo x).bits a b = w.bits a b := fun x => W32.bits_setBits_ne _ _ _ _ _ _ h d
  unfold fieldWrite
  dsimp only
  split
  case h_1 | h_2 => split <;> simp only [hset]
  case h_3 =>
    split
    · split <;> simp only [hset]
    · exact W32.bits_clearBits_ne w v h d
  case h_4 => exact W32.bits_orBits_ne w v h d
  case h_5 | h_6 => rfl

theorem bits_foldl_fieldWrite_outside (r : Reg) (locked : Bool) (v : W32) {a b : Nat} {fs : List FieldSpec}
    (h : ∀ f ∈ fs, f.hi < 32 ∧ (a < f.lo ∨ f.hi < b)) (w : W32) :
    (fs.foldl (fun w f => fieldWrite r locked w v f) w).bits a b = w.bits a b := by
  induction fs generalizing w with
  | nil => rfl
  | cons f fs ih =>
    rw [List.forall_mem_cons] at h
    rw [List.foldl_cons, ih h.2, bits_fieldWrite_outside r locked w v h.1.1 h.1.2]

/-- A field of a register after a write is what its own access code makes of it; `u` holds the field as it was. -/
theorem Reg.bits_write {r : Reg} {f : FieldSpec} (hf : f ∈ r.fields) (locked : Bool) (old v : W32) :
    ∃ u : W32, u.bits f.hi f.lo = old.bits f.hi f.lo
      ∧ (r.write locked old v).bits f.hi f.lo = (fieldWrite r locked u v f).bits f.hi f.lo := by
  obtain ⟨hwidth, hpair⟩ := r.fields_apart
  obtain ⟨xs, ys, hsplit⟩ := List.append_of_mem hf
  rw [hsplit, List.pairwise_append, List.pairwise_cons] at hpair
  obtain ⟨-, ⟨hys, -⟩, hxs⟩ := hpair
  refine ⟨xs.foldl (fun w f => fieldWrite r locked w v f) old, ?_, ?_⟩
  · refine bits_foldl_fieldWrite_outside r locked v (fun g hg => ⟨hwidth g ?_, ?_⟩) old
    · rw [hsplit]; exact List.mem_append_left _ hg
    · exact (hxs g hg f List.mem_cons_self).symm
  · rw [Reg.write, hsplit, List.foldl_append, List.foldl_cons]
    refine bits_foldl_fieldWrite_outside r locked v (fun g hg => ⟨hwidth g ?_, hys g hg⟩) _
    rw [hsplit]; exact List.mem_append_right _ (List.mem_cons_of_mem _ hg)

/-- A read-write field takes a value in its range. -/
theorem Reg.bits_write_rw {r : Reg} {f : FieldSpec} (hf : f ∈ r.fields) (hacc : f.acc = .rw) {v : W32} (ht : r.takes f.lo (v.bits f.hi f.lo) = true)
    (locked : Bool) (old : W32) : (r.write locked old v).bits f.hi f.lo = v.bits f.hi f.lo := by
  obtain ⟨u, -, hw⟩ := Reg.bits_write hf locked old v
  rw [hw, fieldWrite, hacc]
  simp only [ht, if_true]
  rw [W32.bits_setBits_self _ _ _ _ (r.fields_apart.1 f hf), Nat.mod_eq_of_lt (W32.bits_lt v _ _)]

/-- A read-only or write-only field stays. -/
theorem Reg.bits_write_kept {r : Reg} {f : FieldSpec} (hf : f ∈ r.fields) (hacc : f.acc = .ro ∨ f.acc = .wo) (locked : Bool) (old v : W32) :
    (r.write locked old v).bits f.hi f.lo = old.bits f.hi f.lo := by
  obtain ⟨u, hu, hw⟩ := Reg.bits_write hf locked old v
  rw [hw, ← hu, fieldWrite]
  rcases hacc with h | h <;> rw [h]

@[simp] theorem RegFile.fld_set_self (rf : RegFile) (r : Reg) (w : W32) (hi lo : Nat) : (rf.set r w).fld r hi lo = w.bits hi lo := by
  rw [RegFile.fld, RegFile.get_set_self]

theorem RegFile.fld_set_of_ne (rf : RegFile) {r q : Reg} (w : W32) (h : q ≠ r) (hi lo : Nat) : (rf.set r w).fld q hi lo = rf.fld q hi lo := by
  rw [RegFile.fld, RegFile.get_set_ne _ _ h, ← RegFile.fld]

theorem RegFile.bit_set_of_ne (rf : RegFile) {r q : Reg} (w : W32) (h : q ≠ r) (b : Nat) : (rf.set r w).bit q b = rf.bit q b := by
  rw [RegFile.bit, RegFile.fld_set_of_ne _ _ h, ← RegFile.bit]

theorem RegFile.fld_setFld_of_ne (rf : RegFile) {r q : Reg} (hi lo v a b : Nat) (h : q ≠ r) : (rf.setFld r hi lo v).fld q a b = rf.fld q a b := by
  rw [RegFile.fld, RegFile.get_setFld_ne _ _ _ _ h, ← RegFile.fld]

theorem RegFile.fld_satFld_of_ne (rf : RegFile) {r q : Reg} (hi lo n a b : Nat) (h : q ≠ r) : (rf.satFld r hi lo n).fld q a b = rf.fld q a b := by
  rw [RegFile.satFld, RegFile.fld_setFld_of_ne _ _ _ _ _ _ h]

theorem RegFile.fld_satFld_ne (rf : RegFile) (r : Reg) {hi lo a b : Nat} (n : Nat) (h : hi < 32) (d : a < lo ∨ hi < b) :
    (rf.satFld r hi lo n).fld r a b = rf.fld r a b := by
  rw [RegFile.satFld, RegFile.fld_setFld_ne _ _ _ _ _ _ _ h d]

end Sys2Proof.Machine
end

section
/-! DRAM: what requests, clears, scrubs and the upkeep between them change (R319 to R341). -/

namespace Sys2Proof.Machine

/-! ## Requests -/

/-- MSS's result without a bad line: MSS and FEV, the warnings that hosts may be told of, and the answers. -/
theorem State.answered_mild (s : State) {r : MemResult} (hgood : r.uncorr = []) (hmild : ∀ p ∈ r.reports, p.mild = true) :
    ∃ f q w, s.answered r = { s with mss := r.mss, fev := f, qce := q, health := w, out := (r.answers.map fun a => .mem (s.seen a)).reverse ++ s.out } := by
  obtain ⟨f, q, w, h⟩ := State.memory_mild (s.emits (r.answers.map fun a => .mem (s.seen a))) r.mss r.reports hmild
  exact ⟨f, q, w, by rw [State.answered, hgood, h]; rfl⟩

/-- MSS's result without bad line and report: nothing reaches FEV. -/
theorem State.memory_silent (s : State) (m : Mss) : ∃ q w, s.memory m [] [] = { s with mss := m, qce := q, health := w } :=
  ⟨_, _, rfl⟩

theorem State.answered_silent (s : State) {r : MemResult} (hgood : r.uncorr = []) (hrep : r.reports = []) :
    ∃ q w, s.answered r = { s with mss := r.mss, qce := q, health := w, out := (r.answers.map fun a => .mem (s.seen a)).reverse ++ s.out } := by
  obtain ⟨q, w, h⟩ := State.memory_silent (s.emits (r.answers.map fun a => .mem (s.seen a))) r.mss
  exact ⟨q, w, by rw [State.answered, hgood, hrep, h]; rfl⟩

/-- What a read shows: each stored byte, as the engines' tables let it be seen. -/
theorem State.seen_getBytes (s : State) (req addr len : Nat) (m : Mem) (flag : ReadFlag) :
    ∃ bs, s.seen (.data req addr (Mem.getBytes m addr len) flag) = .data req addr bs flag ∧ bs.length = len
      ∧ ∀ i, i < len → bs[i]? = some (s.dramByte (addr + i) (Mem.get m (addr + i))) := by
  refine ⟨_, rfl, by simp [Mem.getBytes], fun i hi => ?_⟩
  simp [Mem.getBytes, hi]

/-- Outside the archive, the block table and the redirect tables a byte is seen as it was stored. -/
theorem State.dramByte_plain (s : State) {a : Nat} (h : a < 80 * 1048576 ∨ 208 * 1048576 ≤ a ∧ a < 272 * 1048576 ∨ 304 * 1048576 ≤ a) (b : Byte) :
    s.dramByte a b = b := by
  have h1 : ¬ (80 ≤ a / 1048576 ∧ a / 1048576 < 144) := by omega
  have h2 : ¬ (144 ≤ a / 1048576 ∧ a / 1048576 < 208) := by omega
  have h3 : ¬ (272 ≤ a / 1048576 ∧ a / 1048576 < 304) := by omega
  simp [State.dramByte, h1, h2, h3]

theorem exec_dramRead_beyond {s : State} (hup : s.dramUp = true) {addr len : Nat} (hcap : s.mss.cap < addr + len) (req : Nat) (w : Bool) (e : LineErrs) :
    exec (.dramRead req addr len w e) s = .fault .accessFault := by
  change execDramRead req addr len w e s = _
  simp [execDramRead, hup, hcap]

theorem exec_dramWrite_beyond {s : State} (hup : s.dramUp = true) {addr : Nat} {bytes : List Byte} (hcap : s.mss.cap < addr + bytes.length) (req : Nat)
    (w : Bool) (e : LineErrs) : exec (.dramWrite req addr bytes w e) s = .fault .accessFault := by
  change execDramWrite req addr bytes w e s = _
  simp [execDramWrite, hup, hcap]

/-- Settles O10: on good lines a read only opens rows, and its answer is what it found. -/
theorem dramRead : Obligations.DramRead := by
  refine ⟨fun s req addr len w hup hcap hfill hgood => ?_, fun s a b h => s.dramByte_plain h b, fun s req addr len w e hup hcap =>
    exec_dramRead_beyond hup hcap req w e⟩
  obtain ⟨bs, hbs, hlen, hget⟩ := s.seen_getBytes req addr len s.mss.mem .ok
  obtain ⟨hpoison, hvalid, hfills, -⟩ := Mss.accesses_frame s.mss s.clock.now s.part.raaimt req w (linesOf addr len)
  have hmem := Mss.accesses_mem s.mss s.clock.now s.part.raaimt req w (linesOf addr len)
  have hread := Mss.read_clean hfill hgood s.clock.now s.part.raaimt req w
  obtain ⟨f, q, v, h⟩ := s.answered_mild (r := s.mss.read s.clock.now s.part.raaimt req w addr len []) (by rw [hread])
    (by rw [hread]; exact Mss.accesses_mild _ _ _ _ _ _)
  refine ⟨_, bs, (exec_dramRead_inside hup hcap req w []).trans (congrArg _ h), ?_, hlen, hget, ?_⟩
  · simp [hread, hbs]
  · rw [hread]
    exact ⟨fun a => by rw [hmem], hvalid, hpoison, hfills, rfl⟩

/-! ## Writes -/

/-- A write inside one granule is one part. -/
theorem granuleParts_one {addr : Nat} {bytes : List Byte} (hne : bytes ≠ []) (hin : addr % 4096 + bytes.length ≤ 4096) (fuel : Nat) :
    granuleParts (fuel + 2) addr bytes = [(addr, bytes)] := by
  have htake : bytes.length ≤ 4096 - addr % 4096 := by omega
  rw [granuleParts_succ hne, List.take_of_length_le htake, List.drop_eq_nil_of_le htake]
  rfl

theorem mem_insertNat {x y : Nat} {l : List Nat} : y ∈ insertNat x l ↔ y = x ∨ y ∈ l := by
  induction l with
  | nil => simp [insertNat]
  | cons z l ih =>
    rw [insertNat]
    split
    case isTrue h => simp [h]
    case isFalse h => split <;> simp [ih, or_left_comm]

/-- A permitted write inside one granule is the request of MSS. -/
theorem exec_dramWrite_one {s : State} {addr : Nat} {bytes : List Byte} {req : Nat} (hup : s.dramUp = true) (hne : bytes ≠ [])
    (hcap : addr + bytes.length ≤ s.mss.cap) (hin : addr % 4096 + bytes.length ≤ 4096) (hw : (regionOf addr).writer req = true) (w : Bool) (e : LineErrs) :
    exec (.dramWrite req addr bytes w e) s = .next (s.answered (s.mss.write s.clock.now s.part.raaimt req w addr bytes e)) := by
  rw [exec_dramWrite_inside hup hcap, granuleParts_one hne hin]
  simp [State.writeParts, hw]

/-- What MSS does with a write that every region admits and that no zero-fill holds back. -/
theorem Mss.write_admitted {m : Mss} {addr : Nat} {bytes : List Byte} {req : Nat} (hne : bytes ≠ [])
    (hw : ∀ a, addr ≤ a → a < addr + bytes.length → (regionOf a).writer req = true) (hfill : m.fillIn addr bytes.length = none)
    (now : Nat) (r : Option Nat) (w : Bool) (e : LineErrs) :
    let m1 := (m.accesses now r req w (linesOf addr bytes.length)).1
    let r1 := (m.accesses now r req w (linesOf addr bytes.length)).2
    m.write now r req w addr bytes e =
      if addr / 4096 ∈ m.valid then { m1.store now req addr bytes e with reports := r1 ++ (m1.store now req addr bytes e).reports }
      else if addr % 4096 = 0 ∧ bytes.length = 4096 then
        let m2 : Mss := { m1 with valid := insertNat (addr / 4096) m1.valid }
        { m2.store now req addr bytes [] with reports := r1 ++ (m2.store now req addr bytes []).reports }
      else ⟨{ m1 with fills := Tab.set m1.fills (addr / 4096) ⟨addr, bytes, []⟩ }, [.written req addr true], [], r1⟩ := by
  have hlen := List.length_pos_iff.2 hne
  obtain ⟨-, hvalid, -, -⟩ := Mss.accesses_frame m now r req w (linesOf addr bytes.length)
  rw [Mss.write, hw addr le_rfl (by omega), hw (addr + bytes.length - 1) (by omega) (by omega), hfill]
  simp only [hvalid, List.contains_iff_mem, Bool.not_true, Bool.or_self, Bool.false_eq_true, if_false]

/-- On good lines of a valid granule a write stores exactly its bytes. -/
theorem Mss.write_stores {m : Mss} {addr : Nat} {bytes : List Byte} {req : Nat} (hne : bytes ≠ [])
    (hw : ∀ a, addr ≤ a → a < addr + bytes.length → (regionOf a).writer req = true) (hfill : m.fillIn addr bytes.length = none) (hwf : m.mem.wf = true)
    (hgood : ∀ l ∈ linesOf addr bytes.length, l ∉ m.poison) (hvalid : addr / 4096 ∈ m.valid) (now : Nat) (r : Option Nat) (w : Bool) :
    (m.write now r req w addr bytes []).answers = [.written req addr true] ∧ (m.write now r req w addr bytes []).uncorr = []
      ∧ (∀ p ∈ (m.write now r req w addr bytes []).reports, p.mild = true)
      ∧ ∀ a, Mem.get (m.write now r req w addr bytes []).mss.mem a = if addr ≤ a ∧ a < addr + bytes.length then bytes.getD (a - addr) 0 else Mem.get m.mem a := by
  obtain ⟨hpoison, -, -, -⟩ := Mss.accesses_frame m now r req w (linesOf addr bytes.length)
  have hmem := Mss.accesses_mem m now r req w (linesOf addr bytes.length)
  obtain ⟨hans, hunc, hrep, hget⟩ := Mss.store_clean (m.accesses now r req w (linesOf addr bytes.length)).1 now req addr bytes (hmem ▸ hwf) (hpoison ▸ hgood)
  have hwrite := Mss.write_admitted hne hw hfill now r w []
  dsimp only at hwrite
  rw [if_pos hvalid] at hwrite
  rw [hwrite, hrep, List.append_nil, ← hmem]
  exact ⟨hans, hunc, Mss.accesses_mild _ _ _ _ _ _, hget⟩

/-- The first write of a part of a granule opens its zero-fill and stores nothing yet. -/
theorem Mss.write_opens_fill {m : Mss} {addr : Nat} {bytes : List Byte} {req : Nat} (hne : bytes ≠ []) (hpart : ¬ (addr % 4096 = 0 ∧ bytes.length = 4096))
    (hw : ∀ a, addr ≤ a → a < addr + bytes.length → (regionOf a).writer req = true) (hfill : m.fillIn addr bytes.length = none)
    (hinvalid : addr / 4096 ∉ m.valid) (now : Nat) (r : Option Nat) (w : Bool) :
    ∃ n rs, m.write now r req w addr bytes [] = ⟨n, [.written req addr true], [], rs⟩ ∧ (∀ p ∈ rs, p.mild = true) ∧ n.mem = m.mem ∧ n.valid = m.valid
      ∧ Tab.get? n.fills (addr / 4096) = some ⟨addr, bytes, []⟩ := by
  obtain ⟨-, hvalid, -, -⟩ := Mss.accesses_frame m now r req w (linesOf addr bytes.length)
  have hwrite := Mss.write_admitted hne hw hfill now r w []
  dsimp only at hwrite
  rw [if_neg hinvalid, if_neg hpart] at hwrite
  exact ⟨_, _, hwrite, Mss.accesses_mild _ _ _ _ _ _, Mss.accesses_mem _ _ _ _ _ _, hvalid, Tab.get?_set_self _ _ _⟩

/-- A zero-fill that nothing waits for ends: its write stands, its granule is valid. -/
theorem Mss.fillDone_alone {m : Mss} {g : Nat} {f : Fill} (hg : Tab.get? m.fills g = some f) (hwait : f.waiting = []) (now : Nat) (r : Option Nat) :
    m.fillDone now r g = ⟨{ m with fills := Tab.erase m.fills g, valid := insertNat g m.valid, mem := Mem.setBytes m.mem f.addr f.bytes }, [], [], []⟩ := by
  rw [Mss.fillDone, hg]
  dsimp only
  rw [hwait]
  rfl

theorem exec_zeroFillDone {s : State} (hup : s.dramUp = true) (g : Nat) :
    exec (.zeroFillDone g) s = .next (s.answered (s.mss.fillDone s.clock.now s.part.raaimt g)) := by
  change execZeroFillDone g s = _
  rw [execZeroFillDone, if_pos hup]

/-- Settles O11: a store on good lines of a valid granule, a write that opens a zero-fill, the fill's end, and the capacity. -/
theorem dramWrite : Obligations.DramWrite := by
  refine ⟨fun s req addr bytes w hup hne hcap hin hwf hw hfill hgood hvalid => ?_, fun s req addr bytes w hup hne hcap hin hpart hw hfill hinvalid => ?_,
    fun s g f hup hwf hg hwait => ?_, fun s req addr bytes w e hup hcap => exec_dramWrite_beyond hup hcap req w e⟩
  · obtain ⟨hans, hunc, hmild, hget⟩ := Mss.write_stores hne hw hfill hwf hgood hvalid s.clock.now s.part.raaimt w
    obtain ⟨f, q, v, h⟩ := s.answered_mild hunc hmild
    refine ⟨_, (exec_dramWrite_one hup hne hcap hin (hw addr le_rfl ?_) w []).trans (congrArg _ h), by simp [hans, State.seen], hget, rfl⟩
    exact Nat.lt_add_of_pos_right (List.length_pos_iff.2 hne)
  · obtain ⟨n, rs, hwrite, hmild, hmem, hvalid, hget⟩ := Mss.write_opens_fill hne hpart hw hfill hinvalid s.clock.now s.part.raaimt w
    obtain ⟨f, q, v, h⟩ := s.answered_mild (r := ⟨n, [.written req addr true], [], rs⟩) rfl hmild
    rw [← hwrite] at h
    refine ⟨_, (exec_dramWrite_one hup hne hcap hin (hw addr le_rfl ?_) w []).trans (congrArg _ h), ?_⟩
    · exact Nat.lt_add_of_pos_right (List.length_pos_iff.2 hne)
    · rw [hwrite]
      exact ⟨rfl, fun a => by rw [hmem], hget, hvalid, rfl⟩
  · obtain ⟨q, v, h⟩ := s.answered_silent (r := s.mss.fillDone s.clock.now s.part.raaimt g) (by rw [Mss.fillDone_alone hg hwait])
      (by rw [Mss.fillDone_alone hg hwait])
    refine ⟨_, (exec_zeroFillDone hup g).trans (congrArg _ h), ?_⟩
    rw [Mss.fillDone_alone hg hwait]
    exact ⟨fun a => Mem.get_setBytes _ _ _ _ hwf, mem_insertNat.2 (.inl rfl), by simp [Tab.get?_erase], rfl⟩

end Sys2Proof.Machine
end

section
/-! Valid-bit clears, scrubs, training helpers and DRAM's upkeep (R324 to R342). -/

namespace Sys2Proof.Machine

/-! ## A register of MSS is written -/

/-- A plain register of MSS as it is after a served write. -/
def State.mssSet (s : State) (reg : Reg) (w : W32) : State := { s with mss := { s.mss with regs := s.mss.regs.set reg w } }

theorem State.dramUp_mssSet {s : State} {reg : Reg} (w : W32) (h : reg ≠ .mssDmstat) : (s.mssSet reg w).dramUp = s.dramUp := by
  have hbit := RegFile.bit_set_of_ne s.mss.regs w (Ne.symm h) 31
  simp only [State.dramUp, State.up, State.dumped, State.mssSet, hbit]

/-! ## Valid-bit clears (R333) -/

theorem exec_mssVbclr1Go {s : State} {r : Requester} {v : W32} (hs : s.serves r = true) (hm : r.mayWrite .mss = true) (hl : s.locked .mssVbclr1 = false)
    (hgo : v.bits 31 31 = 1) (hup : s.dramUp = true) :
    ∃ w : W32, w.bits 26 0 = v.bits 26 0
      ∧ exec (.mssVbclr1Go r v) s = .next ((s.mssSet .mssVbclr1 w).answered ((s.mssSet .mssVbclr1 w).mss.vbclr s.clock.now s.part.raaimt)) := by
  refine ⟨Reg.mssVbclr1.write (s.locked .mssVbclr1) (s.mss.regs.get .mssVbclr1) v,
    Reg.bits_write_rw (f := ⟨"COUNT", 26, 0, .rw, 0⟩) (by simp [Reg.fields]) rfl rfl _ _, ?_⟩
  change Host.Outcome.next (s.csrWrite r .mssVbclr1 v fun g => g.clearGo v) = _
  rw [s.csrWrite_served r .mssVbclr1 v _ hs hm hl]
  change Host.Outcome.next (State.clearGo (s.mssSet .mssVbclr1 _) v) = _
  rw [State.clearGo, if_pos ⟨hgo, by rw [State.dramUp_mssSet _ (by decide), hup]⟩]
  rfl

/-- A range inside the capacity and outside the bitmap is cleared at once where no zero-fill runs. -/
theorem Mss.vbclr_clears {m : Mss} {base count : Nat} (hb : m.regs.fld .mssVbclr0 26 0 = base) (hc : m.regs.fld .mssVbclr1 26 0 = count)
    (hidle : m.clearing = none) (hfills : m.fills = []) (hlo : 3072 ≤ base) (hne : count ≠ 0) (hhi : base + count ≤ m.cap / 4096) (now : Nat) (r : Option Nat) :
    m.vbclr now r = ⟨{ m.clearValid base count with clearing := some ⟨base, count⟩, regs := m.regs.setFld .mssVbclr1 29 29 0 }, [], [], []⟩ := by
  rw [Mss.vbclr]
  simp [hb, hc, hidle, hfills, hlo.not_gt, hne, hhi.not_gt, Tab.keysWhere, Mss.fillsDone]

theorem Mss.vbclr_refuses {m : Mss} (hidle : m.clearing = none)
    (hbad : m.regs.fld .mssVbclr0 26 0 < 3072 ∨ m.cap / 4096 < m.regs.fld .mssVbclr0 26 0 + m.regs.fld .mssVbclr1 26 0) (now : Nat) (r : Option Nat) :
    m.vbclr now r = ⟨{ m with regs := m.regs.setFld .mssVbclr1 29 29 1 }, [], [], []⟩ := by
  have hcond : m.regs.fld .mssVbclr0 26 0 < 3072 ∨ m.cap / 4096 < m.regs.fld .mssVbclr0 26 0 + m.regs.fld .mssVbclr1 26 0 ∨ m.regs.fld .mssVbclr1 26 0 = 0 := by tauto
  simp only [Mss.vbclr, hidle, Option.isSome_none, Bool.false_eq_true, if_false, if_pos hcond]

/-- The capacity does not depend on the registers of the clear. -/
theorem State.cap_mssSet (s : State) {reg : Reg} (w : W32) (h : reg ≠ .mssDmcfg) : (s.mssSet reg w).mss.cap = s.mss.cap := by
  have hfld := RegFile.fld_set_of_ne s.mss.regs w (Ne.symm h)
  simp only [Mss.cap, Mss.capGib, Mss.ranks, State.mssSet, hfld]

/-- Settles O12: GO clears the range, or is refused; VALID_BIT_CLEAR_DONE ends it. -/
theorem validBitClear : Obligations.ValidBitClear := by
  refine ⟨fun s r v hs hm hl hgo hup hidle hfills hlo hne hhi => ?_, fun s r v hs hm hl hgo hup hidle hbad => ?_, fun s c hup hc => ?_⟩
  · obtain ⟨w, hw, hexec⟩ := exec_mssVbclr1Go hs hm hl hgo hup
    have hdone := Mss.vbclr_clears (m := (s.mssSet .mssVbclr1 w).mss) (RegFile.fld_set_of_ne s.mss.regs w (by decide) 26 0)
      ((RegFile.fld_set_self _ _ _ _ _).trans hw) hidle hfills hlo hne (by rwa [State.cap_mssSet _ _ (by decide)]) s.clock.now s.part.raaimt
    obtain ⟨q, h, hans⟩ := (s.mssSet .mssVbclr1 w).answered_silent (r := (s.mssSet .mssVbclr1 w).mss.vbclr s.clock.now s.part.raaimt)
      (by rw [hdone]) (by rw [hdone])
    refine ⟨_, hexec.trans (congrArg _ hans), ?_⟩
    rw [hdone]
    refine ⟨fun a => (Mem.get_clear _ _ _ _).trans ?_, rfl, fun g => ?_, rfl⟩
    · exact if_congr (by omega) rfl rfl
    · simp only [Mss.clearValid, List.mem_filter, decide_eq_true_eq]
      exact and_congr_right fun _ => by omega
  · obtain ⟨w, hw, hexec⟩ := exec_mssVbclr1Go hs hm hl hgo hup
    have hb : (s.mssSet .mssVbclr1 w).mss.regs.fld .mssVbclr0 26 0 = s.mss.regs.fld .mssVbclr0 26 0 := RegFile.fld_set_of_ne s.mss.regs w (by decide) 26 0
    have hc : (s.mssSet .mssVbclr1 w).mss.regs.fld .mssVbclr1 26 0 = v.bits 26 0 := (RegFile.fld_set_self _ _ _ _ _).trans hw
    have hdone := Mss.vbclr_refuses (m := (s.mssSet .mssVbclr1 w).mss) hidle
      (by rwa [hb, hc, State.cap_mssSet _ _ (by decide)]) s.clock.now s.part.raaimt
    obtain ⟨q, h, hans⟩ := (s.mssSet .mssVbclr1 w).answered_silent (r := (s.mssSet .mssVbclr1 w).mss.vbclr s.clock.now s.part.raaimt)
      (by rw [hdone]) (by rw [hdone])
    refine ⟨_, hexec.trans (congrArg _ hans), ?_⟩
    rw [hdone]
    exact ⟨rfl, rfl, hidle, RegFile.fld_setFld_self _ _ _ _ _ (by decide)⟩
  · refine ⟨_, (show exec .validBitClearDone s = .next { s with mss := s.mss.vbclrDone } from ?_), rfl⟩
    change execValidBitClearDone s = _
    rw [execValidBitClearDone, if_pos hup]

/-! ## Scrubs (R334, R335) -/

theorem exec_mssRsctlGo {s : State} {r : Requester} {v : W32} (hs : s.serves r = true) (hm : r.mayWrite .mss = true) (hl : s.locked .mssRsctl = false)
    (hgo : v.bits 31 31 = 1) (hup : s.dramUp = true) :
    ∃ w : W32, w.bits 26 0 = v.bits 26 0 ∧ exec (.mssRsctlGo r v) s = .next { s with mss := (s.mssSet .mssRsctl w).mss.rsGo } := by
  refine ⟨Reg.mssRsctl.write (s.locked .mssRsctl) (s.mss.regs.get .mssRsctl) v,
    Reg.bits_write_rw (f := ⟨"COUNT", 26, 0, .rw, 0⟩) (by simp [Reg.fields]) rfl rfl _ _, ?_⟩
  change Host.Outcome.next (s.csrWrite r .mssRsctl v fun g => g.scrubGo v) = _
  rw [s.csrWrite_served r .mssRsctl v _ hs hm hl]
  change Host.Outcome.next (State.scrubGo (s.mssSet .mssRsctl _) v) = _
  rw [State.scrubGo, if_pos ⟨hgo, by rw [State.dramUp_mssSet _ (by decide), hup]⟩]
  rfl

/-- A scrub that its range admits starts, with its summary and its status bits cleared. -/
theorem Mss.rsGo_starts {m : Mss} {base count : Nat} (hb : m.regs.fld .mssRsbase 26 0 = base) (hc : m.regs.fld .mssRsctl 26 0 = count)
    (hidle : m.scrub = none) (hne : count ≠ 0) (hhi : base + count ≤ m.cap / 4096) :
    ∃ rf : RegFile, m.rsGo = { m with regs := rf, scrub := some ⟨base, count⟩ } ∧ rf.get .mssRssum0 = 0 ∧ rf.get .mssRssum1 = 0 ∧ rf.get .mssRssum2 = 0
      ∧ rf.fld .mssRsctl 29 28 = 0 := by
  have hnot : ¬ (m.cap / 4096 < base + count ∨ count = 0) := by omega
  refine ⟨_, by simp only [Mss.rsGo, hidle, hb, hc, Option.isSome_none, Bool.false_eq_true, if_false, if_neg hnot]; rfl, ?_, ?_, ?_, ?_⟩
  · simp [RegFile.get_setFld, RegFile.get_set]
  · simp [RegFile.get_setFld, RegFile.get_set]
  · simp [RegFile.get_setFld]
  · refine W32.bits_eq_zero_of_parts _ (mid := 29) ?_ ?_ (by decide) (by decide)
    · exact RegFile.fld_setFld_self _ _ _ _ _ (by decide)
    · exact (RegFile.fld_setFld_ne _ .mssRsctl 29 29 0 28 28 (by decide) (by decide)).trans (RegFile.fld_setFld_self _ _ _ _ _ (by decide))

/-- A whole scrub over good lines ends with the granules covered and no error. -/
theorem Mss.rsEnd_clean {m : Mss} {r : RangeScrub} (hr : m.scrub = some r) (hcount : r.count < 2 ^ 27)
    (hgood : ∀ l ∈ m.validLines r.base r.count, l ∉ m.poison) (now n : Nat) :
    ∃ rf : RegFile, m.rsEnd now n false [] = ({ m with regs := rf, scrub := none }, [], []) ∧ rf.fld .mssRssum0 26 0 = r.count
      ∧ rf.fld .mssRssum1 31 16 = 0 ∧ rf.fld .mssRssum1 15 0 = 0 ∧ rf.fld .mssRsctl 29 29 = 0 := by
  have hcheck := Mss.checkLines_clean m now (m.validLines r.base r.count) hgood
  have hdec : ∀ era l, decodeLine era (Tab.getD ([] : LineErrs) l []) = .good := fun era _ => decodeLine_nil era
  refine ⟨_, by simp only [Mss.rsEnd, hr, hcheck, Bool.false_eq_true, if_false]; rfl, ?_, ?_, ?_, ?_⟩
  · rw [RegFile.fld_setFld_of_ne _ _ _ _ _ _ (by decide), RegFile.fld_setFld_of_ne _ _ _ _ _ _ (by decide),
      RegFile.fld_setFld_of_ne _ _ _ _ _ _ (by decide), RegFile.fld_setFld_self _ _ _ _ _ (by decide)]
    exact Nat.mod_eq_of_lt hcount
  · rw [RegFile.fld_setFld_of_ne _ _ _ _ _ _ (by decide), RegFile.fld_setFld_ne _ _ _ _ _ _ _ (by decide) (by decide),
      RegFile.fld_setFld_self _ _ _ _ _ (by decide)]
    simp [hdec]
  · rw [RegFile.fld_setFld_of_ne _ _ _ _ _ _ (by decide), RegFile.fld_setFld_self _ _ _ _ _ (by decide)]
    rfl
  · exact RegFile.fld_setFld_self _ _ _ _ _ (by decide)

theorem exec_rangeScrubDone {s : State} (hup : s.dramUp = true) (n : Nat) (st : Bool) (e : LineErrs) :
    exec (.rangeScrubDone n st e) s = .next (s.memory (s.mss.rsEnd s.clock.now n st e).1 (s.mss.rsEnd s.clock.now n st e).2.1 (s.mss.rsEnd s.clock.now n st e).2.2) := by
  change execRangeScrubDone n st e s = _
  rw [execRangeScrubDone, if_pos hup]

theorem exec_patrolScrubStep {s : State} (hup : s.dramUp = true) (e : LineErrs) :
    exec (.patrolScrubStep e) s = .next (s.memory (s.mss.patrolStep s.clock.now e).1 (s.mss.patrolStep s.clock.now e).2.1 (s.mss.patrolStep s.clock.now e).2.2) := by
  change execPatrolScrubStep e s = _
  rw [execPatrolScrubStep, if_pos hup]

/-- DRAM that serves is not in self-refresh. -/
theorem State.selfRefresh_of_dramUp {s : State} (h : s.dramUp = true) : s.mss.selfRefresh = false := by
  simp only [State.dramUp, Bool.and_eq_true, Bool.not_eq_true'] at h
  exact h.1.2

/-- A patrol step over a good line of a valid granule, with more lines to come. -/
theorem Mss.patrolStep_clean {m : Mss} {g : Nat} (hen : m.regs.bit .mssScrubcfg 31 = true) (hsr : m.selfRefresh = false) (hhere : m.patrolPos / 64 ∈ m.valid)
    (hgood : m.patrolPos ∉ m.poison) (hg : g ∈ m.valid) (hmore : m.patrolPos + 1 ≤ g * 64 + 63) (now : Nat) :
    m.patrolStep now [] = ({ m with patrolPos := m.patrolPos + 1 }, [], []) := by
  have hcheck : m.checkLine now m.patrolPos (Tab.getD [] m.patrolPos []) = (m, none, []) := Mss.checkLine_clean m now _ hgood
  have hall : (m.valid.all fun v => decide (v * 64 + 63 < m.patrolPos + 1)) = false := by
    rw [List.all_eq_false]
    exact ⟨g, hg, by rw [decide_eq_true_eq]; omega⟩
  have hnext : (if m.valid.contains (m.patrolPos / 64) then some m.patrolPos else (m.valid.find? fun v => decide (m.patrolPos / 64 < v)).map (· * 64))
      = some m.patrolPos := by simp [hhere]
  simp only [Mss.patrolStep, hen, hsr, hnext, hcheck, hall, Bool.not_true, Bool.or_self, Bool.false_eq_true, if_false, Option.toList_none]

/-- Nothing valid is left: the lap ends. -/
theorem Mss.patrolStep_lap {m : Mss} (hen : m.regs.bit .mssScrubcfg 31 = true) (hsr : m.selfRefresh = false) (hnone : m.valid = []) (now : Nat) (e : LineErrs) :
    m.patrolStep now e = (m.lapEnd now, [], []) := by
  simp [Mss.patrolStep, hen, hsr, hnone]

/-- What the end of a lap writes to one channel's register: the lap's minutes, one more lap, and whether it was late. -/
def lapChannel (minutes : Nat) (late : Bool) (rf : RegFile) (n : Nat) : RegFile :=
  let rf := (rf.setFld (.mssScrubstat n) 15 0 minutes).satFld (.mssScrubstat n) 30 16 1
  if late then rf.setFld (.mssScrubstat n) 31 31 1 else rf

theorem Mss.lapEnd_eq (m : Mss) (now : Nat) :
    ∃ minutes late, m.lapEnd now = { m with regs := (List.range 12).foldl (lapChannel minutes late) m.regs, patrolPos := 0, lapStart := now } :=
  ⟨_, _, rfl⟩

/-- LAPS of a channel after one lap's end is written for a channel. -/
theorem laps_lapChannel (minutes : Nat) (late : Bool) (rf : RegFile) (n ch : Nat) :
    (lapChannel minutes late rf n).fld (.mssScrubstat ch) 30 16
      = if ch = n then min 32767 (rf.fld (.mssScrubstat ch) 30 16 + 1) else rf.fld (.mssScrubstat ch) 30 16 := by
  have hlate : (lapChannel minutes late rf n).fld (.mssScrubstat ch) 30 16
      = ((rf.setFld (.mssScrubstat n) 15 0 minutes).satFld (.mssScrubstat n) 30 16 1).fld (.mssScrubstat ch) 30 16 := by
    unfold lapChannel
    split
    · by_cases h : ch = n
      · subst h; exact RegFile.fld_setFld_ne _ _ _ _ _ _ _ (by decide) (by decide)
      · exact RegFile.fld_setFld_of_ne _ _ _ _ _ _ (by simpa using h)
    · rfl
  rw [hlate]
  by_cases h : ch = n
  · subst h
    rw [if_pos rfl, RegFile.satFld_self _ _ _ _ _ (by decide), RegFile.fld_setFld_ne _ _ _ _ _ _ _ (by decide) (by decide)]
    rfl
  · have hne : Reg.mssScrubstat ch ≠ .mssScrubstat n := by simpa using h
    rw [if_neg h, RegFile.fld_satFld_of_ne _ _ _ _ _ _ hne, RegFile.fld_setFld_of_ne _ _ _ _ _ _ hne]

/-- Every channel in the list counts the lap once. -/
theorem laps_foldl_lapChannel (minutes : Nat) (late : Bool) {ns : List Nat} (hns : ns.Nodup) (rf : RegFile) (ch : Nat) :
    (ns.foldl (lapChannel minutes late) rf).fld (.mssScrubstat ch) 30 16
      = if ch ∈ ns then min 32767 (rf.fld (.mssScrubstat ch) 30 16 + 1) else rf.fld (.mssScrubstat ch) 30 16 := by
  induction ns generalizing rf with
  | nil => rfl
  | cons n ns ih =>
    rw [List.nodup_cons] at hns
    rw [List.foldl_cons, ih hns.2, laps_lapChannel]
    by_cases h : ch = n
    · subst h; simp [hns.1]
    · simp [h]

/-- Settles O13: the start and the end of a range scrub, a patrol step, and the end of a lap. -/
theorem scrubbing : Obligations.Scrubbing := by
  refine ⟨fun s r v hs hm hl hgo hup hidle hne hhi => ?_, fun s r n hup hr hcount hgood => ?_, fun s g hup hen hhere hgood hg hmore => ?_,
    fun s ch hup hen hnone hch => ?_⟩
  · obtain ⟨w, hw, hexec⟩ := exec_mssRsctlGo hs hm hl hgo hup
    obtain ⟨rf, hgo', h0, h1, h2, h3⟩ := Mss.rsGo_starts (m := (s.mssSet .mssRsctl w).mss) (RegFile.fld_set_of_ne s.mss.regs w (by decide) 26 0)
      ((RegFile.fld_set_self _ _ _ _ _).trans hw) hidle hne (by rwa [State.cap_mssSet _ _ (by decide)])
    rw [hgo'] at hexec
    exact ⟨_, hexec, rfl, h0, h1, h2, h3, rfl⟩
  · obtain ⟨rf, hend, h0, h1, h2, h3⟩ := Mss.rsEnd_clean hr hcount hgood s.clock.now n
    obtain ⟨q, h, hmem⟩ := s.memory_silent { s.mss with regs := rf, scrub := none }
    have hexec := exec_rangeScrubDone hup n false []
    rw [hend, hmem] at hexec
    exact ⟨_, hexec, rfl, h0, h1, h2, h3, rfl⟩
  · obtain ⟨q, h, hmem⟩ := s.memory_silent { s.mss with patrolPos := s.mss.patrolPos + 1 }
    have hexec := exec_patrolScrubStep hup []
    rw [Mss.patrolStep_clean hen (State.selfRefresh_of_dramUp hup) hhere hgood hg hmore, hmem] at hexec
    exact ⟨_, hexec, rfl⟩
  · obtain ⟨minutes, late, hlap⟩ := s.mss.lapEnd_eq s.clock.now
    obtain ⟨q, h, hmem⟩ := s.memory_silent (s.mss.lapEnd s.clock.now)
    have hexec := exec_patrolScrubStep hup []
    rw [Mss.patrolStep_lap hen (State.selfRefresh_of_dramUp hup) hnone, hmem, hlap] at hexec
    refine ⟨_, hexec, rfl, rfl, ?_, rfl⟩
    dsimp only
    rw [laps_foldl_lapChannel _ _ List.nodup_range, if_pos (List.mem_range.2 hch)]

end Sys2Proof.Machine
end

section
/-! Training helpers (R324), and what keeps DRAM and SRAM fit between requests (R326, R336 to R342). -/

namespace Sys2Proof.Machine

/-! ## Training helpers -/

/-- A served GO with an OP starts the helper on an idle channel that is not READY. -/
theorem State.helper_starts {s : State} {r : Requester} {ch op : Nat} {v : W32} (hs : s.serves r = true) (hm : r.mayWrite .mss = true)
    (hl : s.locked (.mssTrnctl ch) = false) (hch : ch < 12) (hop : op ≤ 2) (hcount : v.bits 7 0 ≠ 0) (hpat : v.bits 23 21 ≤ 5) (hsafe : s.fev.safe = false)
    (hdump : s.dumped = false) (hidle : Tab.get? s.mss.train ch = none) (hready : s.mss.regs.bit .mssDmstat 31 = false) :
    ∃ rf : RegFile, s.helper r ch op v = { s with mss := { s.mss with regs := rf, train := Tab.set s.mss.train ch ⟨op, v.bits 23 21, v.bits 20 20, v.bits 7 0⟩ } }
      ∧ rf.get (.mssTrnres ch) = 0 := by
  obtain ⟨u, hu⟩ : ∃ u, u = (v.setBits 25 24 op).setBits 31 31 1 := ⟨_, rfl⟩
  obtain ⟨w, hw⟩ : ∃ w, w = Reg.write (.mssTrnctl ch) (s.locked (.mssTrnctl ch)) (s.mss.regs.get (.mssTrnctl ch)) u := ⟨_, rfl⟩
  have huv : ∀ hi lo, hi < 24 → u.bits hi lo = v.bits hi lo := fun hi lo h => by
    rw [hu, W32.bits_setBits_ne _ _ _ _ _ _ (by decide) (by omega), W32.bits_setBits_ne _ _ _ _ _ _ (by decide) (by omega)]
  have hgo : u.bits 31 31 = 1 := by
    rw [hu, W32.bits_setBits_self _ _ _ _ (by decide)]
    rfl
  have huop : u.bits 25 24 = op := by
    rw [hu, W32.bits_setBits_ne _ _ _ _ _ _ (by decide) (by decide), W32.bits_setBits_self _ _ _ _ (by decide)]
    exact Nat.mod_eq_of_lt (by omega)
  have hwop : w.bits 25 24 = op := by
    rw [hw, Reg.bits_write_rw (f := ⟨"OP", 25, 24, .rw, 0⟩) (by simp [Reg.fields]) rfl rfl, huop]
  have hwpat : w.bits 23 21 = v.bits 23 21 := by
    rw [hw, Reg.bits_write_rw (f := ⟨"PAT", 23, 21, .rw, 0⟩) (by simp [Reg.fields]) rfl rfl, huv _ _ (by decide)]
  have hwrank : w.bits 20 20 = v.bits 20 20 := by
    rw [hw, Reg.bits_write_rw (f := ⟨"RANK", 20, 20, .rw, 0⟩) (by simp [Reg.fields]) rfl rfl, huv _ _ (by decide)]
  have hwcount : w.bits 7 0 = v.bits 7 0 := by
    rw [hw, Reg.bits_write_rw (f := ⟨"COUNT", 7, 0, .rw, 1⟩) (by simp [Reg.fields]) rfl (by simpa [Reg.takes, huv 7 0 (by decide)] using hcount), huv _ _ (by decide)]
  have hstart : (s.mssSet (.mssTrnctl ch) w).mss.trainGo ch
      = { s.mss with
          regs := (s.mss.regs.set (.mssTrnctl ch) w).set (.mssTrnres ch) 0
          train := Tab.set s.mss.train ch ⟨op, v.bits 23 21, v.bits 20 20, v.bits 7 0⟩ } := by
    have hhas : Tab.has s.mss.train ch = false := by rw [Tab.has, hidle]; rfl
    have hbit : (s.mss.regs.set (.mssTrnctl ch) w).bit .mssDmstat 31 = false := (RegFile.bit_set_of_ne _ _ (by simp) _).trans hready
    have hcond : (Tab.has s.mss.train ch || (s.mss.regs.set (.mssTrnctl ch) w).bit .mssDmstat 31 || op == 3 || decide (5 < v.bits 23 21)) = false := by
      rw [hhas, hbit]
      simp only [Bool.false_or, Bool.or_eq_false_iff, beq_eq_false_iff_ne, decide_eq_false_iff_not]
      omega
    simp only [Mss.trainGo, State.mssSet, RegFile.get_set_self, hwop, hwpat, hwrank, hwcount, hcond, Bool.false_eq_true, if_false]
  refine ⟨_, ?_, RegFile.get_set_self (s.mss.regs.set (.mssTrnctl ch) w) _ _⟩
  have hmake : s.csrWrite r (.mssTrnctl ch) u (fun g => g.trainCtl ch u) = (s.mssSet (.mssTrnctl ch) w).trainCtl ch u := by
    rw [s.csrWrite_served r (.mssTrnctl ch) u _ hs hm hl, hw]; rfl
  have hcan : u.bits 31 31 = 1 ∧ (!(s.mssSet (.mssTrnctl ch) w).fev.safe) = true ∧ (!(s.mssSet (.mssTrnctl ch) w).dumped) = true :=
    ⟨hgo, by change (!s.fev.safe) = true; rw [hsafe]; rfl, by change (!s.dumped) = true; rw [hdump]; rfl⟩
  rw [State.helper, if_pos hch]
  dsimp only
  rw [← hu, hmake, State.trainCtl, if_pos hcan, hstart]
  rfl

/-- Settles O14: the helper's start, whatever its OP, and its end. -/
theorem trainingHelpers : Obligations.TrainingHelpers := by
  refine ⟨fun s r ch v c op hc hs hm hl hch hcount hpat hsafe hdump hidle hready => ?_, fun s ch dq cb o ho hop hdq hcb => ?_⟩
  · have hexec : exec c s = .next (s.helper r ch op v) ∧ op ≤ 2 := by
      obtain ⟨rfl, rfl⟩ | ⟨rfl, rfl⟩ | ⟨rfl, rfl⟩ := hc <;> exact ⟨rfl, by decide⟩
    obtain ⟨rf, hstart, hres⟩ := State.helper_starts hs hm hl hch hexec.2 hcount hpat hsafe hdump hidle hready
    rw [hstart] at hexec
    exact ⟨_, hexec.1, Tab.get?_set_self _ _ _, hres, rfl⟩
  · have hdone : s.mss.trainDone ch dq cb
        = { s.mss with train := Tab.erase s.mss.train ch, regs := (s.mss.regs.setFld (.mssTrnres ch) 31 0 dq).setFld (.mssTrnctl ch) 15 8 cb } := by
      simp only [Mss.trainDone, ho, if_neg hop]
    refine ⟨{ s with mss := s.mss.trainDone ch dq cb }, rfl, ?_⟩
    rw [hdone]
    refine ⟨by simp [Tab.get?_erase], ?_, ?_, rfl⟩
    · rw [RegFile.fld_setFld_of_ne _ _ _ _ _ _ (by simp), RegFile.fld_setFld_self _ _ _ _ _ (by decide)]
      exact Nat.mod_eq_of_lt hdq
    · rw [RegFile.fld_setFld_self _ _ _ _ _ (by decide)]
      exact Nat.mod_eq_of_lt hcb

/-! ## Upkeep -/

/-- An oscillator read sets its rank's drift, and wants a pause where the drift is above one eighth of the range (R326). -/
theorem Mss.oscRead_eq {m : Mss} (hen : m.regs.bit .mssDmcfg 15 = true) (hsr : m.selfRefresh = false) (now rk drift : Nat) :
    m.oscRead now rk drift = { m with timing := Tab.set m.timing rk { Tab.getD m.timing rk .fresh with
      drift := drift, wanted := if 125 < drift then some ((Tab.getD m.timing rk .fresh).wanted.getD now) else (Tab.getD m.timing rk .fresh).wanted } } := by
  simp [Mss.oscRead, hen, hsr]

/-- A wanted pause that nothing holds back any longer happens (R326). -/
theorem Mss.pause_happens {m : Mss} {rk since now : Nat} {waits : Bool} (hwant : (Tab.getD m.timing rk .fresh).wanted = some since)
    (hwaits : waits = true → since + 100 ≤ now) (hgap : (Tab.getD m.timing rk .fresh).lastPause + 10000 ≤ now) :
    m.pause now rk waits false = ({ m with timing := Tab.set m.timing rk { Tab.getD m.timing rk .fresh with drift := 0, wanted := none, lastPause := now } }, []) := by
  have hheld : (waits && decide (now < since + 100)) = false := by
    cases waits with
    | false => rfl
    | true => simpa using hwaits rfl
  have hsoon : (decide ((Tab.getD m.timing rk .fresh).lastPause ≠ 0) && decide (now < (Tab.getD m.timing rk .fresh).lastPause + 10000)) = false := by
    simp [hgap]
  simp only [Mss.pause, hwant, hheld, hsoon, Bool.or_self, Bool.false_eq_true, if_false]

/-- The first MR4 reading of a rank is its training temperature (R326, R337). -/
theorem Mss.mr4Read_first {m : Mss} {rk : Nat} (h : Tab.get? m.trainTemp rk = none) (deg : Int) :
    m.mr4Read rk deg = ({ m with mr4 := Tab.set m.mr4 rk deg, trainTemp := Tab.set m.trainTemp rk deg }, []) := by
  simp only [Mss.mr4Read, h]

theorem le_foldl_max {α : Type} (f : α → Int) (l : List α) (x : Int) : x ≤ l.foldl (fun m e => max m (f e)) x := by
  induction l generalizing x with
  | nil => exact le_rfl
  | cons a l ih => exact (le_max_left _ _).trans (ih _)

/-- A rank idle for PDIDLE is put into power-down (R338). -/
theorem Mss.pdEntry_enters {m : Mss} {rk now : Nat} (hsr : m.selfRefresh = false) (hen : Tab.getD m.rankIdle rk (m.regs.fld .mssPagecfg 15 8) ≠ 0)
    (hout : rk ∉ m.powerDown) (hidle : Tab.getD m.rankIdle rk (m.regs.fld .mssPagecfg 15 8) * 16 ≤ (now - Tab.getD m.lastRankUse rk 0) * 100) :
    m.pdEntry now rk = { m with powerDown := insertNat rk m.powerDown } := by
  simp only [Mss.pdEntry, hsr, List.contains_iff_mem, hout, hidle.not_gt, hen, Bool.false_eq_true, or_self, if_false]

/-- A row idle for four times PAGEIDLE is closed, hot or not (R336). -/
theorem Mss.pageClose_closes {m : Mss} {k now : Nat} {b : Bank} (hb : Tab.get? m.banks k = some b) (hidle : b.limit * 32 ≤ (now - b.lastAccess) * 100) :
    m.pageClose now k = { m with banks := Tab.set m.banks k { b with open' := none } } := by
  simp only [Mss.pageClose, hb]
  have hwait : ∀ hot : Bool, b.limit * 8 * (if hot then 4 else 1) ≤ b.limit * 32 := fun hot => by cases hot <;> simp <;> omega
  rw [if_neg ((hwait _).trans hidle).not_gt]

/-- A refresh closes the rows of its bank in every bank group, and leaves every other bank (R337). -/
theorem Mss.refresh_banks (m : Mss) (rk bank : Nat) :
    (∀ k b, (k, b) ∈ (m.refresh rk bank).banks → k / 32 = rk → k % 4 = bank → b.open' = none)
      ∧ ∀ k b, (k, b) ∈ m.banks → ¬ (k / 32 = rk ∧ k % 4 = bank) → (k, b) ∈ (m.refresh rk bank).banks := by
  constructor
  · intro k b hmem hrk hbank
    obtain ⟨e, -, he⟩ := List.mem_map.1 hmem
    split at he
    case isTrue h => exact (congrArg (fun p => p.2.open') he).symm
    case isFalse h => subst he; exact absurd ⟨hrk, hbank⟩ h
  · intro k b hmem hother
    exact List.mem_map.2 ⟨(k, b), hmem, if_neg hother⟩

/-- The end of a tracker window clears the trackers of its rank (R340, R341). -/
theorem Mss.windowEnd_banks (m : Mss) (rk : Nat) : ∀ k b, (k, b) ∈ (m.windowEnd rk).banks → k / 32 = rk → b.rows = [] ∧ b.throttled = [] := by
  intro k b hmem hrk
  obtain ⟨e, -, he⟩ := List.mem_map.1 hmem
  split at he
  case isTrue h => cases he; exact ⟨rfl, rfl⟩
  case isFalse h => subst he; exact absurd hrk h

/-- Settles O15: each upkeep command is MSS's own operation on a DRAM that serves. -/
theorem dramUpkeep : Obligations.DramUpkeep := by
  refine ⟨fun s rk drift hup hen => ?_, fun s rk since waits hup hwant hwaits hgap => ?_, fun s rk bank hup => ?_, fun s rk deg hup hch hrank hfirst => ?_,
    fun s rk hup hen hout hidle => ?_, fun s k row b hup hb _ hidle => ?_, fun s rk hup => ?_, fun s n hup hdump hporst hn => ?_⟩
  · refine ⟨{ s with mss := s.mss.oscRead s.clock.now rk drift }, ?_, ?_⟩
    · change execDqsOscillatorRead rk drift s = _
      rw [execDqsOscillatorRead, if_pos hup]
    · rw [Mss.oscRead_eq hen (State.selfRefresh_of_dramUp hup)]
      exact ⟨by simp, fun h => by simp [h], rfl⟩
  · obtain ⟨q, h, hmem⟩ := s.memory_silent
      { s.mss with timing := Tab.set s.mss.timing rk { Tab.getD s.mss.timing rk .fresh with drift := 0, wanted := none, lastPause := s.clock.now } }
    refine ⟨_, (show exec (.retrainingPause rk waits false) s = .next _ from ?_).trans (congrArg _ hmem), ?_⟩
    · change execRetrainingPause rk waits false s = _
      rw [execRetrainingPause, if_pos hup, Mss.pause_happens hwant hwaits hgap]
    · simp
  · refine ⟨{ s with mss := s.mss.refresh rk bank }, ?_, rfl, (s.mss.refresh_banks rk bank).1, (s.mss.refresh_banks rk bank).2, rfl⟩
    change execRefreshDue rk bank s = _
    rw [execRefreshDue, if_pos hup]
  · have hcond : (s.dramUp && decide (rk / 2 < 12) && decide (rk % 2 < s.mss.ranks)) = true := by simp [hup, hch, hrank]
    obtain ⟨hot, hhot⟩ : ∃ hot, hot = (((s.mss.mr4Read rk deg).1.mr4.filter fun e => e.1 / 2 == rk / 2).foldl (fun m e => max m e.2) deg) := ⟨_, rfl⟩
    obtain ⟨q, h, hmem⟩ := ({ s with ptm := { s.ptm with dram := Tab.set s.ptm.dram (rk / 2) hot } } : State).memory_silent
      { s.mss with mr4 := Tab.set s.mss.mr4 rk deg, trainTemp := Tab.set s.mss.trainTemp rk deg }
    refine ⟨_, (show exec (.mr4Read rk deg) s = .next _ from ?_).trans (congrArg _ hmem), ?_⟩
    · change execMr4Read rk deg s = _
      rw [execMr4Read, if_pos hcond]
      dsimp only
      rw [← hhot, Mss.mr4Read_first hfirst]
    · refine ⟨Tab.get?_set_self _ _ _, Tab.get?_set_self _ _ _, ?_, rfl, rfl⟩
      rw [Tab.getD_set_self, hhot]
      exact le_foldl_max _ _ _
  · refine ⟨{ s with mss := s.mss.pdEntry s.clock.now rk }, ?_, ?_⟩
    · change execPowerDownEntry rk s = _
      rw [execPowerDownEntry, if_pos hup]
    · rw [Mss.pdEntry_enters (State.selfRefresh_of_dramUp hup) hen hout hidle]
      exact ⟨mem_insertNat.2 (.inl rfl), rfl⟩
  · refine ⟨{ s with mss := s.mss.pageClose s.clock.now k }, ?_, ?_⟩
    · change execPageIdleClose k s = _
      rw [execPageIdleClose, if_pos hup]
    · rw [Mss.pageClose_closes hb hidle]
      exact ⟨Tab.get?_set_self _ _ _, rfl⟩
  · refine ⟨{ s with mss := s.mss.windowEnd rk }, ?_, s.mss.windowEnd_banks rk, rfl⟩
    change execRowTrackerWindowEnd rk s = _
    rw [execRowTrackerWindowEnd, if_pos hup]
  · have hcond : (s.up && !s.dumped && !s.porst) = true := by simp [hup, hdump, hporst]
    refine ⟨{ s with mss := s.mss.sramCount n false }, ?_, ?_, rfl⟩
    · change execSramScrub (.corrected n) s = _
      rw [execSramScrub, if_pos hcond]
      rfl
    · have hwidth : 4 * n + 3 + 1 - 4 * n = 4 := by omega
      have hsat := RegFile.satFld_self s.mss.regs .mssSramstat (4 * n + 3) (4 * n) 1 (by omega)
      rw [hwidth] at hsat
      exact hsat

end Sys2Proof.Machine
end

section
/-! The I/O commands on logical blocks as they are fetched: into admission, with the entry of a modifying command (R64, R88, R113). -/

namespace Sys2Proof.Machine

open Safety

/-- A reading command that passes its checks and meets no lock waits for admission. -/
theorem State.readCmd_waits {s g : State} {c : IoCmd} {kd : Kind} {opc k : Nat} {mv : Bool} {x : Ctx} {n : Ns}
    (hkd : kd = .read ∨ kd = .compare ∨ kd = .verify) (ht : taken s g c kd opc k x) (hp : permitted g c n .reads)
    (hc : firstFailing (blockChecks mv x (c.q.nsid - 1) n) = none) (hsize : n.nsze ≤ 2 ^ 48) (hu : unlocked s (c.q.nsid - 1)) :
    ∃ y t, s.readCmd c kd opc mv = { g with qce := { g.qce with ctxs := Tab.set s.qce.ctxs k y }, tas := t }
      ∧ y.state = .admitwait ∧ y.admitWaitAt = s.clock.now ∧ y.nsx = some (c.q.nsid - 1) ∧ y.rds = [⟨c.q.slba, c.q.nlb + 1⟩]
      ∧ n.keySlot (c.q.nsid - 1) c.q = some y.keyslot ∧ y.fsn = s.qce.fsn ∧ y.mods = [] := by
  have f := taken_facts ht
  have hns : g.fl.ns? (c.q.nsid - 1) = some n := Flash.attached_ns hp.1
  obtain ⟨hspan, key, hkey⟩ := blockChecks_pass hc
  rw [f.sqe] at hspan hkey
  obtain ⟨zk, zn, zm, -, zf, zw, zs, zd, zkey, zslba, znlb, -, -⟩ := f.fields (c.q.nsid - 1) n
  rw [State.readCmd, State.onNs_goes ht hp hc]
  dsimp only
  generalize x.blockFields (c.q.nsid - 1) n = b at *
  have hrds : [b.span] = [⟨c.q.slba, c.q.nlb + 1⟩] := by rw [Ctx.span, zslba, znlb]
  obtain ⟨z, hz⟩ : ∃ z, z = ({ b with rds := [b.span] } : Ctx) := ⟨_, rfl⟩
  have hna : z.kind ≠ .admin := by
    rw [hz]; rcases hkd with h | h | h <;> simp [zk, h]
  have hin : ∀ p ∈ z.spans, p.1 = c.q.nsid - 1 := by
    refine Ctx.spans_in (by rw [hz]; exact zn) hna fun r hr => ?_
    rw [hz, hrds, List.mem_singleton] at hr
    subst hr
    dsimp only
    omega
  have hcost : (g.cost z).1 ≠ 0 := by
    rw [State.cost_reads (by rw [hz]; exact zn) hns (by rw [hz]; simpa [zk] using hkd), hz, hrds]
    exact Ns.units_pos _ _ _
  obtain ⟨m, l, hroute, hrcalm⟩ := State.route_waits (c := k) (z := z) (f.calm ht.2.2.2.2.2) hna (by rw [hz]; exact zw) (by rw [hz]; exact ⟨zs, zd⟩)
    (fun e he => .inr fun p hp' => by rw [hin p hp']; rw [f.locks] at he; exact fun q => hu.2 e he q.symm) hcost
  rw [← hz, State.settle_calm hrcalm, hroute, f.ctxs, Tab.set_set]
  refine ⟨_, _, rfl, rfl, f.clock ▸ rfl, ?_⟩
  rw [hz]
  exact ⟨zn, hrds, by rw [zkey, hkey]; rfl, zf, zm⟩

/-- Settles O16: the three reading commands are one, and its context is the only one that changes. -/
theorem readsFetched : Obligations.ReadsFetched := by
  intro s g c i kd opc k mv x n hi ht hp hc hsize hu
  have hexec : exec i s = .next (s.readCmd c kd opc mv) ∧ (kd = .read ∨ kd = .compare ∨ kd = .verify) := by
    obtain ⟨rfl, rfl, rfl, rfl⟩ | ⟨rfl, rfl, rfl, rfl⟩ | ⟨rfl, rfl, rfl, rfl⟩ := hi
    · exact ⟨rfl, .inl rfl⟩
    · exact ⟨rfl, .inr (.inl rfl)⟩
    · exact ⟨rfl, .inr (.inr rfl)⟩
  have f := taken_facts ht
  obtain ⟨y, tas, hcmd, hst, hat, hnsx, hrds, hkey, hfsn, hmods⟩ := State.readCmd_waits hexec.2 ht hp hc hsize hu
  refine ⟨_, y, hexec.1, ?_⟩
  rw [hcmd]
  exact ⟨Tab.get?_set_self _ _ _, hst, hat, hnsx, hrds, hkey, hfsn, hmods, rfl, f.locks, fun j hj => Tab.get?_set_ne _ _ hj, by rw [f.frame]⟩

/-! ## Modifying commands -/

/-- A placement event, where there is one, adds to FDP's log alone. -/
theorem Ptx.fdpEvent_log (p : Ptx) (b : Bool) (now type handle : Nat) :
    ∃ l, (if b then p.fdpEvent now type handle else p) = { p with fdpLog := l } := by
  cases b with
  | false => exact ⟨p.fdpLog, rfl⟩
  | true =>
    rw [if_pos rfl]
    unfold Ptx.fdpEvent
    split <;> exact ⟨_, rfl⟩

/-- The flash side with some entries of FDP's log. -/
def Flash.withFdpLog (f : Flash) (l : List (Nat × Nat × Nat)) : Flash := { f with ptx := { f.ptx with fdpLog := l } }

/-- In a conventional namespace a write takes its span, with the barchan that its directive gives (R171, R184). -/
theorem State.placeWrite_conventional {g : State} {k nsx : Nat} {b : Ctx} {n : Ns} (hz : n.zoned = false) (append : Bool) :
    ∃ l bar, g.placeWrite k b nsx n append = ((g.withFl (g.fl.withFdpLog l)).setCtx k { b with barchan := bar, mods := [b.span] }).lockAndRoute k := by
  unfold State.placeWrite
  rw [hz, if_neg Bool.false_ne_true]
  dsimp only
  generalize g.fl.barchanFor n _ = bar
  obtain ⟨l, hl⟩ := g.fl.ptx.fdpEvent_log bar.2 g.clock.now 0x03 (n.handles.headD 0)
  rw [hl]
  exact ⟨l, bar.1, rfl⟩

/-- A write command on its own span in a conventional namespace. -/
theorem State.writeCmd_waits {s g : State} {c : IoCmd} {kd : Kind} {opc k : Nat} {mv : Bool} {x : Ctx} {n : Ns}
    (hkd : kd = .write ∨ kd = .zeroes ∨ kd = .uncorrectable) (ht : taken s g c kd opc k x) (hp : permitted g c n .writes) (hzoned : n.zoned = false)
    (hc : firstFailing (blockChecks mv x (c.q.nsid - 1) n) = none) (hw : s.tas.wcost ≠ 0) (hu : unlocked s (c.q.nsid - 1)) :
    ∃ t y r, s.writeCmd c kd opc mv = t ∧ t.qce.ctx? k = some y
      ∧ y.state = .admitwait ∧ y.nsx = some (c.q.nsid - 1) ∧ y.mods = [⟨c.q.slba, c.q.nlb + 1⟩] ∧ y.rlidx = some r
      ∧ n.keySlot (c.q.nsid - 1) c.q = some y.keyslot ∧ y.fsn = s.qce.fsn
      ∧ t.qce.locks = Tab.set s.qce.locks r ⟨c.q.nsid - 1, c.q.slba, c.q.nlb + 1, s.qce.fsn, k⟩
      ∧ (∀ j, j ≠ k → t.qce.ctx? j = s.qce.ctx? j)
      ∧ ∃ l, t = { s with hfu := t.hfu, qce := t.qce, tas := t.tas, out := t.out, fl := s.fl.withFdpLog l } := by
  have f := taken_facts ht
  have hns : g.fl.ns? (c.q.nsid - 1) = some n := Flash.attached_ns hp.1
  obtain ⟨-, key, hkey⟩ := blockChecks_pass hc
  rw [f.sqe] at hkey
  obtain ⟨zk, zn, -, zr, zf, -, zs, zd, zkey, zslba, znlb, -, -⟩ := f.fields (c.q.nsid - 1) n
  rw [State.writeCmd, State.onNs_goes ht hp hc]
  generalize x.blockFields (c.q.nsid - 1) n = b at *
  obtain ⟨l, bar, hplace⟩ := State.placeWrite_conventional (g := g) (k := k) (nsx := c.q.nsid - 1) (b := b) hzoned false
  obtain ⟨z, hz⟩ : ∃ z, z = ({ b with barchan := bar, mods := [b.span] } : Ctx) := ⟨_, rfl⟩
  have hmods : z.mods = [⟨c.q.slba, c.q.nlb + 1⟩] := by rw [hz, Ctx.span, zslba, znlb]
  have hzn : z.nsx = some (c.q.nsid - 1) := by rw [hz]; exact zn
  have hzk : z.kind = kd := by rw [hz]; exact zk
  have hna : z.kind ≠ .admin := by rw [hzk]; rcases hkd with h | h | h <;> simp [h]
  have hin : ∀ p ∈ z.spans, p.1 = c.q.nsid - 1 := Ctx.spans_in hzn hna (by rw [hz]; simp [zr])
  have hcost : ((g.withFl (g.fl.withFdpLog l)).cost z).1 ≠ 0 := by
    rcases hkd with h | h | h
    · exact State.cost_writes hzn hns (.inl (hzk.trans h)) hmods (by rw [f.frame]; exact hw)
    · exact State.cost_flat hzn hns (.inl (hzk.trans h))
    · exact State.cost_flat hzn hns (.inr (.inr (.inr (hzk.trans h))))
  obtain ⟨t, y, r, h1, h2, h3, h4, h5, -, h7, h8, -, -, h11, h12, h13, h14⟩ := f.waits_locked ht.2.2.2.2.2 hna hzn (by rw [hz]; exact ⟨zs, zd⟩)
    (sp := ⟨c.q.slba, c.q.nlb + 1⟩) (by rw [hmods]; exact hull_one _ _) (by rw [hz]; exact zf) (fun p hp' => hin p hp' ▸ hu) hu hcost
  rw [hplace, ← hz]
  refine ⟨t, y, r, h1, h2, h3, h4, h5.trans hmods, h11, ?_, h8, h12, h13, l, ?_⟩
  · rw [h7, hz, hkey]; dsimp only; rw [zkey, hkey]; rfl
  · rw [f.fl] at h14
    exact h14

/-- Dataset Management with Deallocate over ranges inside the namespace (R217). -/
theorem exec_datasetManagement_waits {s g : State} {c : IoCmd} {ranges : List Span} {sp : Span} {k : Nat} {x : Ctx} {n : Ns}
    (ht : taken s g c .dsm 0x09 k x) (hp : permitted g c n ⟨true, true, false⟩) (hde : c.q.deallocates = true) (hh : hull ranges = some sp)
    (hin : ∀ r ∈ ranges, r.lo + r.len ≤ n.nsze) (hu : unlocked s (c.q.nsid - 1)) :
    ∃ t y r, exec (.datasetManagement c ranges) s = .next t ∧ t.qce.ctx? k = some y
      ∧ y.state = .admitwait ∧ y.nsx = some (c.q.nsid - 1) ∧ y.mods = ranges ∧ y.rlidx = some r
      ∧ t.qce.locks = Tab.set s.qce.locks r ⟨c.q.nsid - 1, sp.lo, sp.len, s.qce.fsn, k⟩
      ∧ (∀ j, j ≠ k → t.qce.ctx? j = s.qce.ctx? j)
      ∧ t = { s with hfu := t.hfu, qce := t.qce, tas := t.tas, out := t.out } := by
  have f := taken_facts ht
  obtain ⟨z, hz⟩ : ∃ z, z = ({ x with nsx := some (c.q.nsid - 1), keyslot := n.firstSlot (c.q.nsid - 1), mods := ranges } : Ctx) := ⟨_, rfl⟩
  have hchecks : firstFailing [((ranges.any fun r => decide (n.nsze < r.lo + r.len)), Status.lbaRange)] = none := by
    have hany : (ranges.any fun r => decide (n.nsze < r.lo + r.len)) = false := by
      simpa only [List.any_eq_false, decide_eq_true_eq, not_lt] using hin
    simp [firstFailing, hany]
  have hgo : exec (.datasetManagement c ranges) s = .next (((g.withFl g.fl).setCtx k z).lockAndRoute k).settle := by
    have hde' : x.sqe.deallocates = true := f.sqe ▸ hde
    change execDatasetManagement c ranges s = _
    rw [execDatasetManagement, hde, State.onNs_goes ht hp hchecks, hde', if_pos rfl, hz]
    rfl
  have hzk : z.kind = .dsm := by rw [hz]; exact f.kind
  have hna : z.kind ≠ .admin := by simp [hzk]
  have hzn : z.nsx = some (c.q.nsid - 1) := by rw [hz]
  have hsp : ∀ p ∈ z.spans, p.1 = c.q.nsid - 1 := Ctx.spans_in hzn hna (by rw [hz]; simp [f.rds])
  obtain ⟨t, y, r, h1, h2, h3, h4, h5, -, -, -, -, -, h11, h12, h13, h14⟩ := f.waits_locked ht.2.2.2.2.2 hna hzn (by rw [hz]; exact ⟨f.side, f.detached⟩)
    (sp := sp) (by rw [hz]; exact hh) (by rw [hz]; exact f.fsn) (fun p hp' => hsp p hp' ▸ hu) hu
    (fl := g.fl) (State.cost_flat hzn (Flash.attached_ns hp.1) (.inr (.inr (.inl hzk))))
  refine ⟨t, y, r, hgo.trans (congrArg _ h1), h2, h3, h4, by rw [h5, hz], h11, h12, h13, ?_⟩
  rw [f.fl] at h14
  exact h14

/-- Purge Range in a conventional namespace (R218). -/
theorem exec_purgeRange_waits {s g : State} {c : IoCmd} {k : Nat} {x : Ctx} {n : Ns} (ht : taken s g c .purge 0x81 k x)
    (hp : permitted g c n ⟨true, true, false⟩) (hzoned : n.zoned = false) (h13 : c.q.cdw13 = 0) (h14 : c.q.cdw14 = 0) (h15 : c.q.cdw15 = 0)
    (hin : c.q.slba + (c.q.purgeNlb + 1) ≤ n.nsze) (hu : unlocked s (c.q.nsid - 1)) :
    ∃ t y r, exec (.purgeRange c) s = .next t ∧ t.qce.ctx? k = some y
      ∧ y.state = .admitwait ∧ y.nsx = some (c.q.nsid - 1) ∧ y.mods = [⟨c.q.slba, c.q.purgeNlb + 1⟩] ∧ y.rlidx = some r
      ∧ t.qce.locks = Tab.set s.qce.locks r ⟨c.q.nsid - 1, c.q.slba, c.q.purgeNlb + 1, s.qce.fsn, k⟩
      ∧ (∀ j, j ≠ k → t.qce.ctx? j = s.qce.ctx? j)
      ∧ t = { s with hfu := t.hfu, qce := t.qce, tas := t.tas, out := t.out } := by
  have f := taken_facts ht
  have hslba : x.sqe.slba = c.q.slba := by rw [f.sqe]
  obtain ⟨z, hz⟩ : ∃ z, z = ({ x with nsx := some (c.q.nsid - 1), keyslot := n.firstSlot (c.q.nsid - 1), slba := c.q.slba, mods := [⟨c.q.slba, c.q.purgeNlb + 1⟩] } : Ctx) := ⟨_, rfl⟩
  have hgo : exec (.purgeRange c) s = .next (((g.withFl g.fl).setCtx k z).lockAndRoute k).settle := by
    change execPurgeRange c s = _
    simp only [execPurgeRange]
    rw [State.onNs_goes ht hp (by simp [firstFailing, h13, h14, h15, hslba, hin.not_gt, hzoned]), hzoned, hslba, hz]
    rfl
  have hzk : z.kind = .purge := by rw [hz]; exact f.kind
  have hna : z.kind ≠ .admin := by simp [hzk]
  have hzn : z.nsx = some (c.q.nsid - 1) := by rw [hz]
  have hsp : ∀ p ∈ z.spans, p.1 = c.q.nsid - 1 := Ctx.spans_in hzn hna (by rw [hz]; simp [f.rds])
  obtain ⟨t, y, r, h1, h2, h3, h4, h5, -, -, -, -, -, h11, h12, h13, h14⟩ := f.waits_locked ht.2.2.2.2.2 hna hzn (by rw [hz]; exact ⟨f.side, f.detached⟩)
    (sp := ⟨c.q.slba, c.q.purgeNlb + 1⟩) (by rw [hz]; exact hull_one _ _) (by rw [hz]; exact f.fsn) (fun p hp' => hsp p hp' ▸ hu) hu
    (fl := g.fl) (State.cost_flat hzn (Flash.attached_ns hp.1) (.inr (.inl hzk)))
  refine ⟨t, y, r, hgo.trans (congrArg _ h1), h2, h3, h4, by rw [h5, hz], h11, h12, h13, ?_⟩
  rw [f.fl] at h14
  exact h14

/-- Where a source range of a Copy lies: its own namespace, or the destination's (R145). -/
theorem Ctx.reads_copySrc {z : Ctx} {nsid : Nat} {srcs : List CopySrc} (hzn : z.nsx = some (nsid - 1)) (hr : z.rds = srcs.map fun r => r.span nsid)
    (hs : ∀ r ∈ srcs, r.slba < 2 ^ 48) : ∀ p ∈ z.reads, ∃ r ∈ srcs, p.1 = (if r.nsid = 0 then nsid else r.nsid) - 1 := by
  intro p hp
  simp only [Ctx.reads, hzn, hr, List.map_map, List.mem_map, Function.comp] at hp
  obtain ⟨r, hmem, rfl⟩ := hp
  have hlt := hs r hmem
  refine ⟨r, hmem, ?_⟩
  unfold CopySrc.span
  by_cases hown : r.nsid = 0 ∨ r.nsid = nsid
  · rw [if_pos hown, if_pos hlt]
    dsimp only
    split <;> omega
  · rw [if_neg hown, if_neg (by dsimp only; omega), if_neg (fun h => hown (.inl h))]
    dsimp only
    omega

/-- Copy with good sources, into a conventional namespace (R145). -/
theorem exec_copy_waits {s g : State} {c : IoCmd} {srcs : List CopySrc} {k : Nat} {x : Ctx} {n : Ns} (ht : taken s g c .copy 0x19 k x)
    (hp : permitted g c n .writes) (hzoned : n.zoned = false) (hstc : c.q.stc = false) (hne : srcs ≠ [])
    (hsrc : ∀ r ∈ srcs, r.len ≠ 0 ∧ n.dataBytes r.len ≤ mdts ∧ r.slba < 2 ^ 48 ∧ g.sourceStatus c.inst c.q.nsid n r = none
      ∧ unlocked s ((if r.nsid = 0 then c.q.nsid else r.nsid) - 1))
    (hlen : n.dataBytes (srcs.map (·.len)).sum ≤ mdts) (hin : c.q.slba + (srcs.map (·.len)).sum ≤ n.nsze) (hkey : (n.keySlot (c.q.nsid - 1) c.q).isSome = true)
    (hw : s.tas.wcost ≠ 0) (hu : unlocked s (c.q.nsid - 1)) :
    ∃ t y r, exec (.copy c srcs) s = .next t ∧ t.qce.ctx? k = some y
      ∧ y.state = .admitwait ∧ y.nsx = some (c.q.nsid - 1) ∧ y.mods = [⟨c.q.slba, (srcs.map (·.len)).sum⟩]
      ∧ y.rds = srcs.map (fun r => r.span c.q.nsid) ∧ y.rlidx = some r
      ∧ t.qce.locks = Tab.set s.qce.locks r ⟨c.q.nsid - 1, c.q.slba, (srcs.map (·.len)).sum, s.qce.fsn, k⟩
      ∧ (∀ j, j ≠ k → t.qce.ctx? j = s.qce.ctx? j)
      ∧ ∃ l, t = { s with hfu := t.hfu, qce := t.qce, tas := t.tas, out := t.out, fl := s.fl.withFdpLog l } := by
  have f := taken_facts ht
  obtain ⟨total, htotal⟩ : ∃ m, (srcs.map (·.len)).sum = m + 1 := by
    obtain ⟨r, rest, rfl⟩ := List.exists_cons_of_ne_nil hne
    have := (hsrc r List.mem_cons_self).1
    exact ⟨r.len - 1 + (rest.map (·.len)).sum, by simp only [List.map_cons, List.sum_cons]; omega⟩
  rw [htotal] at hlen hin
  have hfind : srcs.findSome? (g.sourceStatus c.inst c.q.nsid n) = none :=
    List.findSome?_eq_none_iff.2 fun r hr => (hsrc r hr).2.2.2.1
  have hchecks : firstFailing
      [ (x.sqe.stc || srcs.isEmpty || srcs.any (fun r => r.len == 0), Status.invalidField), ((n.keySlot (c.q.nsid - 1) x.sqe).isNone, .invalidField),
        (decide (mdts < n.dataBytes (total + 1)) || srcs.any (fun r => decide (mdts < n.dataBytes r.len)), ⟨1, 0x83, Config.dnr 1 0x83⟩),
        (decide (n.nsze < x.sqe.slba + (total + 1)), .lbaRange) ] = none := by
    have hzero : (srcs.any fun r => r.len == 0) = false := by
      simpa only [List.any_eq_false, beq_iff_eq] using fun r hr => (hsrc r hr).1
    have hbig : (srcs.any fun r => decide (mdts < n.dataBytes r.len)) = false := by
      simpa only [List.any_eq_false, decide_eq_true_eq, not_lt] using fun r hr => (hsrc r hr).2.1
    rw [f.sqe]
    simp [firstFailing, hstc, hne, hzero, hbig, hlen.not_gt, hin.not_gt, Option.isSome_iff_ne_none.1 hkey]
  obtain ⟨zk, zn, -, -, zf, -, zs, zd, -, zslba, -, -, -⟩ := f.fields (c.q.nsid - 1) n
  have hgo : ∃ y : Ctx, y = { x.blockFields (c.q.nsid - 1) n with
        nlb := total + 1 - 1, rds := srcs.map fun r => r.span c.q.nsid, srcTags := srcs.map fun r => (r.ref, r.app, r.appMask) }
      ∧ exec (.copy c srcs) s = .next (g.placeWrite k y (c.q.nsid - 1) n false).settle := by
    refine ⟨_, rfl, ?_⟩
    change execCopy c srcs s = _
    simp only [execCopy, htotal]
    rw [State.onNs_goes ht hp hchecks]
    simp only [hfind]
  obtain ⟨b, hb, hexec⟩ := hgo
  obtain ⟨l, bar, hplace⟩ := State.placeWrite_conventional (g := g) (k := k) (nsx := c.q.nsid - 1) (b := b) hzoned false
  obtain ⟨z, hz⟩ : ∃ z, z = ({ b with barchan := bar, mods := [b.span] } : Ctx) := ⟨_, rfl⟩
  have hmods : z.mods = [⟨c.q.slba, total + 1⟩] := by rw [hz, Ctx.span, hb]; simp [zslba]
  have hzn : z.nsx = some (c.q.nsid - 1) := by rw [hz, hb]; exact zn
  have hzk : z.kind = .copy := by rw [hz, hb]; exact zk
  have hzr : z.rds = srcs.map fun r => r.span c.q.nsid := by rw [hz, hb]
  have hna : z.kind ≠ .admin := by simp [hzk]
  have hsp : ∀ p ∈ z.spans, unlocked s p.1 := by
    intro p hp'
    rw [Ctx.spans, List.mem_append] at hp'
    rcases hp' with h | h
    · simp only [Ctx.targets, hzn, hmods, hzk, List.map_cons, List.map_nil] at h
      have hp1 : p = (c.q.nsid - 1, ⟨c.q.slba, total + 1⟩) := by simpa using h
      exact hp1 ▸ hu
    · obtain ⟨r, hr, hp1⟩ := Ctx.reads_copySrc hzn hzr (fun r hr => (hsrc r hr).2.2.1) p h
      exact hp1 ▸ (hsrc r hr).2.2.2.2
  obtain ⟨t, y, r, h1, h2, h3, h4, h5, h6, -, -, -, -, h11, h12, h13, h14⟩ := f.waits_locked ht.2.2.2.2.2 hna hzn
    (by rw [hz, hb]; exact ⟨zs, zd⟩) (sp := ⟨c.q.slba, total + 1⟩) (by rw [hmods]; exact hull_one _ _) (by rw [hz, hb]; exact zf) hsp hu
    (fl := g.fl.withFdpLog l) (State.cost_writes hzn (Flash.attached_ns hp.1) (.inr (.inr hzk)) hmods (by rw [f.frame]; exact hw))
  rw [hplace, ← hz, h1] at hexec
  refine ⟨t, y, r, hexec, h2, h3, h4, by rw [h5, hmods, htotal], h6.trans hzr, h11, by rw [h12, htotal], h13, l, ?_⟩
  rw [f.fl] at h14
  exact h14

/-- Settles O17: every modifying command takes the entry of its span and waits. -/
theorem writesFetched : Obligations.WritesFetched := by
  refine ⟨fun s g c i kd opc k mv x n hi ht hp hz hc hw hu => ?_, fun s g c ranges sp k x n ht hp hde hh hin hu =>
    exec_datasetManagement_waits ht hp hde hh hin hu, fun s g c k x n ht hp hz h13 h14 h15 hin hu => exec_purgeRange_waits ht hp hz h13 h14 h15 hin hu,
    fun s g c srcs k x n ht hp hz hstc hne hsrc hlen hin hkey hw hu => ?_⟩
  · have hexec : exec i s = .next (s.writeCmd c kd opc mv) ∧ (kd = .write ∨ kd = .zeroes ∨ kd = .uncorrectable) := by
      obtain ⟨rfl, rfl, rfl, rfl⟩ | ⟨rfl, rfl, rfl, rfl⟩ | ⟨rfl, rfl, rfl, rfl⟩ := hi
      · exact ⟨rfl, .inl rfl⟩
      · exact ⟨rfl, .inr (.inl rfl)⟩
      · exact ⟨rfl, .inr (.inr rfl)⟩
    obtain ⟨t, y, r, h1, h2, h3, h4, h5, h6, h7, h8, h9, h10, l, h11⟩ := State.writeCmd_waits hexec.2 ht hp hz hc hw hu
    refine ⟨t, y, r, h1 ▸ hexec.1, h2, h3, h4, h5, h6, h7, h8, h9, h10, ?_⟩
    rw [h11]
    rfl
  · obtain ⟨t, y, r, h1, h2, h3, h4, h5, h6, h7, h8, h9, l, h10⟩ := exec_copy_waits ht hp hz hstc hne hsrc hlen hin hkey hw hu
    refine ⟨t, y, r, h1, h2, h3, h4, h5, h6, h7, h8, h9, ?_⟩
    rw [h10]
    rfl

end Sys2Proof.Machine
end

section
/-! Commands that end in their turn: reservations (R58, R59), and commands that a check turns away (R64). -/

namespace Sys2Proof.Machine

open Safety

/-! ## The end in turn -/

/-- A command without logical blocks that `h` sends to its end: it ends in its turn, and then its reply goes out and its handles' units end. -/
theorem TakenFacts.endsIn {s g h : State} {c : IoCmd} {kd : Kind} {k nsx : Nat} {x : Ctx} (f : TakenFacts s g c kd k x) (hs : Safety.calm s)
    (hk : kd.ends = true) (hq : h.qce = g.qce) (hsec : h.sec = g.sec) (handles : List Nat) (reply : List Byte) :
    endsInTurn s (h.endIn k x nsx handles reply).settle k x
      ∧ (h.endIn k x nsx handles reply).settle
        = { (if (x.ord && !(s.qce.predsCommitted x)) || reply.isEmpty then h else h.emit (.data k reply)) with
            fl := if x.ord && !(s.qce.predsCommitted x) then h.fl
                  else handles.foldl (fun (a : Flash) b => a.updateHandle h.clock.now h.hours b) h.fl
            qce := (h.endIn k x nsx handles reply).settle.qce, tas := (h.endIn k x nsx handles reply).settle.tas } := by
  obtain ⟨t, y, ht, hy, hoth, hdone, hwait⟩ := f.ends (nsx := nsx) hs hk hq hsec handles reply
  rw [ht]
  refine ⟨⟨⟨y, hy, fun h => ⟨(hdone h).1, (hdone h).2.1⟩, fun h1 h2 => (hwait h1 h2).1⟩, hoth⟩, ?_⟩
  cases hord : x.ord
  case false => exact (hdone (.inl hord)).2.2
  case true =>
    cases hpre : s.qce.predsCommitted x
    case true => exact (hdone (.inr hpre)).2.2
    case false => exact (hwait hord hpre).2

/-- A reply of some bytes is not empty. -/
theorem fit_ne_nil {n : Nat} (hn : n ≠ 0) (bs : List Byte) : (fit n bs).isEmpty = false := by
  have hlen : (fit n bs).length = n := by simp [fit, zeros]; omega
  rw [List.isEmpty_eq_false_iff_exists_mem]
  exact List.exists_mem_of_length_pos (by omega)

/-! ## Reservations -/

/-- A reservation command on an attached namespace is handled. -/
theorem State.resvCmd_goes {s g : State} {c : IoCmd} {opc k : Nat} {x : Ctx} {n : Ns} {go : State → Nat → Ctx → Nat → State}
    (ht : taken s g c .resv opc k x) (hn : s.fl.attachedNs c.inst c.q.nsid = some n) : s.resvCmd c opc go = (go g k x (c.q.nsid - 1)).settle := by
  rw [State.resvCmd, State.io_goes ht, (taken_facts ht).fl, hn]

/-- The fetch of a command leaves the reservations. -/
theorem TakenFacts.resvOf {s g : State} {c : IoCmd} {kd : Kind} {k : Nat} {x : Ctx} (f : TakenFacts s g c kd k x) (nsx : Nat) : g.resvOf nsx = s.resvOf nsx := by
  rw [State.resvOf, f.hfu]; rfl

/-- Setting one namespace's reservation. -/
theorem State.resvOf_set (s : State) (nsx j : Nat) (r : Resv) :
    ({ s with hfu := { s.hfu with resv := Tab.set s.hfu.resv nsx r } } : State).resvOf j = if j = nsx then r else s.resvOf j := by
  simp only [State.resvOf, Tab.getD, Tab.get?_set]
  split <;> rfl

/-- A reservation that stays a reservation, or that was none of registrants, tells no host. -/
theorem State.setResv_silent (s : State) {nsx host : Nat} {old new : Resv} (h : new.rtype ≠ 0 ∨ old.rtype < 3) :
    s.setResv nsx host old new = { s with hfu := { s.hfu with resv := Tab.set s.hfu.resv nsx new } } := by
  have hno : ¬ (3 ≤ old.rtype ∧ new.rtype = 0 ∧ (!new.regs.isEmpty) = true) := by
    rintro ⟨h1, h2, -⟩
    exact h.elim (fun h => h h2) (fun h => by omega)
  rw [State.setResv, if_neg hno]

theorem State.resvNotes_nobody (s : State) (nsx type : Nat) : s.resvNotes nsx type [] = s := by
  unfold State.resvNotes
  split
  case h_1 => rfl
  case h_2 n _ =>
    have hnone : (n.attached.filter fun i => ((s.qce.inst? i).map fun x => ([] : List Nat).contains x.hostId).getD false) = [] := by
      rw [List.filter_eq_nil_iff]
      intro i _
      cases s.qce.inst? i <;> simp
    rw [hnone]
    rfl

/-- A reservation command that leaves its namespace's reservation at `r` and ends in its turn, with what it changed. -/
theorem TakenFacts.resvSet_endsIn {s g : State} {c : IoCmd} {k nsx : Nat} {x : Ctx} (f : TakenFacts s g c .resv k x) (hs : Safety.calm s) (r : Resv) :
    ∃ t, ((({ g with hfu := { g.hfu with resv := Tab.set g.hfu.resv nsx r } } : State).resvEnd k x nsx [] .ok).settle = t)
      ∧ endsInTurn s t k x ∧ t.resvOf nsx = r ∧ (∀ j, j ≠ nsx → t.resvOf j = s.resvOf j)
      ∧ t = { s with hfu := { s.hfu with ports := t.hfu.ports, resv := t.hfu.resv }, qce := t.qce, tas := t.tas, out := t.out } := by
  obtain ⟨h, hh⟩ : ∃ h, h = ({ g with hfu := { g.hfu with resv := Tab.set g.hfu.resv nsx r } } : State) := ⟨_, rfl⟩
  have hresv : ∀ j, h.resvOf j = if j = nsx then r else s.resvOf j := fun j => by rw [hh, State.resvOf_set, f.resvOf]
  obtain ⟨hturn, hframe⟩ := f.endsIn (nsx := nsx) (h := h) hs rfl (by rw [hh]) (by rw [hh]) [] []
  rw [← hh, State.resvEnd, if_pos rfl]
  rw [List.foldl_nil, ite_self, List.isEmpty_nil, Bool.or_true, if_pos rfl] at hframe
  generalize (h.endIn k x nsx [] []).settle = t at hturn hframe
  have hhfu : t.hfu = h.hfu := by rw [hframe]
  have hof : ∀ j, t.resvOf j = h.resvOf j := fun j => by rw [State.resvOf, hhfu]; rfl
  refine ⟨t, rfl, hturn, by rw [hof, hresv, if_pos rfl], fun j hj => by rw [hof, hresv, if_neg hj], ?_⟩
  rw [hframe, hh, f.frame]

theorem Resv.keyOf_unregistered {r : Resv} {host : Nat} (h : r.registered host = false) : r.keyOf host = none := by
  have hnone : r.regs.find? (fun x => x.host == host) = none := by
    rw [List.find?_eq_none]
    simpa [Resv.registered] using h
  rw [Resv.keyOf, hnone]
  rfl

/-- Settles O18: each command's outcome on the reservation, and the common end. -/
theorem reservations : Obligations.Reservations := by
  refine ⟨fun s g c crkey nrkey k x n ht hn hact hptpl hunreg => ?_, fun s g c crkey prkey k x n ht hn hact hlo hhi hkey hfree => ?_,
    fun s g c crkey k x n ht hn hact hkey hholds htype hle => ?_, fun s g c k x n ht hn => ?_⟩
  all_goals
    have f := taken_facts ht
    have hcalm : calm s := ht.2.2.2.2.2
  · have hout : ((s.resvOf (c.q.nsid - 1)).register (g.hostOf c.inst) c.inst 0 crkey nrkey c.q.iekey)
        = ({ s.resvOf (c.q.nsid - 1) with regs := (s.resvOf (c.q.nsid - 1)).regs ++ [⟨g.hostOf c.inst, nrkey, c.inst⟩], gen := ((s.resvOf (c.q.nsid - 1)).gen + 1) % 2 ^ 32 }, .ok) := by
      simp only [Resv.register, Resv.keyOf_unregistered hunreg]
    have hkept : ∀ r : Resv, r.withPtpl c.q.cptpl = r := fun r => by
      rw [Resv.withPtpl, if_neg (by omega), if_neg (by omega)]
    obtain ⟨t, htt, hturn, hown, hoth, hframe⟩ := f.resvSet_endsIn (nsx := c.q.nsid - 1) hcalm
      { s.resvOf (c.q.nsid - 1) with regs := (s.resvOf (c.q.nsid - 1)).regs ++ [⟨g.hostOf c.inst, nrkey, c.inst⟩], gen := ((s.resvOf (c.q.nsid - 1)).gen + 1) % 2 ^ 32 }
    refine ⟨t, ?_, hturn, hown, hoth, hframe⟩
    rw [← htt]
    change execReservationRegister c crkey nrkey s = _
    rw [execReservationRegister, State.resvCmd_goes ht hn]
    simp only [f.sqe, f.resvOf, hact, hout, if_true, hkept]
    rw [State.setResv_silent _ (by dsimp only; omega)]
  · have hne : c.q.resvType ≠ 0 := by omega
    have hout : (s.resvOf (c.q.nsid - 1)).acquire (g.hostOf c.inst) 0 c.q.resvType crkey prkey c.q.iekey
        = ({ s.resvOf (c.q.nsid - 1) with rtype := c.q.resvType, holder := some (g.hostOf c.inst) }, .ok, []) := by
      simp [Resv.acquire, hkey, hne, hhi.not_gt, hfree]
    obtain ⟨t, htt, hturn, hown, hoth, hframe⟩ := f.resvSet_endsIn (nsx := c.q.nsid - 1) hcalm
      { s.resvOf (c.q.nsid - 1) with rtype := c.q.resvType, holder := some (g.hostOf c.inst) }
    refine ⟨t, ?_, hturn, hown, hoth, hframe⟩
    rw [← htt]
    change execReservationAcquire c crkey prkey s = _
    rw [execReservationAcquire, State.resvCmd_goes ht hn]
    simp only [f.sqe, f.resvOf, hact, hout, if_true, State.resvNotes_nobody, OfNat.zero_ne_ofNat, false_and, if_false]
    rw [State.setResv_silent _ (.inl hne)]
  · have hout : (s.resvOf (c.q.nsid - 1)).release (g.hostOf c.inst) 0 c.q.resvType crkey c.q.iekey
        = ({ s.resvOf (c.q.nsid - 1) with rtype := 0, holder := none }, .ok) := by
      simp [Resv.release, hkey, hholds, htype]
    obtain ⟨t, htt, hturn, hown, hoth, hframe⟩ := f.resvSet_endsIn (nsx := c.q.nsid - 1) hcalm { s.resvOf (c.q.nsid - 1) with rtype := 0, holder := none }
    refine ⟨t, ?_, hturn, hown, hoth, hframe⟩
    rw [← htt]
    change execReservationRelease c crkey s = _
    rw [execReservationRelease, State.resvCmd_goes ht hn]
    simp only [f.sqe, f.resvOf, hact, hout, if_true, and_false, if_false, zero_ne_one]
    rw [State.setResv_silent _ (.inr (by omega))]
  · obtain ⟨hturn, hframe⟩ := f.endsIn (nsx := c.q.nsid - 1) (h := g) hcalm rfl rfl rfl []
      (fit ((c.q.cdw10 + 1) * 4) ((s.resvOf (c.q.nsid - 1)).report (natBits c.q.cdw11 0 0 == 1)))
    rw [fit_ne_nil (by omega), Bool.or_false, List.foldl_nil, ite_self] at hframe
    refine ⟨_, ?_, hturn, ?_, ?_⟩
    · change execReservationReport c s = _
      rw [execReservationReport, State.resvCmd_goes ht hn]
      simp only [f.sqe, f.resvOf, State.resvEnd, if_true]
    · rw [hframe]
      split <;> rfl
    · rw [hframe, f.frame]
      split <;> rfl

/-! ## Commands that a check turns away -/

/-- A command that fails at its fetch ends with its status, and nothing of the media side but its own reads and parity job is let go. -/
theorem TakenFacts.failed {s g : State} {c : IoCmd} {kd : Kind} {k : Nat} {x : Ctx} {st : Status} (f : TakenFacts s g c kd k x) (hs : Safety.calm s)
    (hord : x.ord = false) (hok : st.isOk = false) (hne : ¬ (st.sct = 2 ∧ st.sc = 0x81)) :
    ∃ t y, (g.fin k st).settle = t ∧ t.qce.ctx? k = some y ∧ y.state = .completing ∧ y.status = st ∧ t.hfu.resv = s.hfu.resv
      ∧ (∀ j, j ≠ k → t.qce.ctx? j = s.qce.ctx? j)
      ∧ t = { s with hfu := t.hfu, qce := t.qce, out := t.out, fl := { s.fl with dip := t.fl.dip, mbe := t.fl.mbe, ptx := { s.fl.ptx with growths := Tab.erase s.fl.ptx.growths k } } } := by
  obtain ⟨d, m, h⟩ := State.fail_calm (f.calm hs) f.here (by simp [Ctx.open', f.state]) ⟨f.side, f.detached⟩ f.zone hord hok hne
  refine ⟨_, _, h, Qce.setDone_ctx st f.here, rfl, rfl, by dsimp only; rw [f.hfu], fun j hj => ?_, ?_⟩
  · exact (Qce.setDone_other st hj).trans (by simp only [Qce.ctx?, f.ctxs]; exact Tab.get?_set_ne _ _ hj)
  · dsimp only
    rw [f.fl, f.frame]

/-- An exclusive-write reservation forbids another host's write (R59, R64). -/
theorem State.rightsStatus_conflict {g : State} {nsx inst : Nat} (n : Ns) (guarded protectable : Bool)
    (ht : (g.resvOf nsx).rtype = 1) (hh : (g.resvOf nsx).holder ≠ some (g.hostOf inst)) :
    g.rightsStatus nsx n inst true guarded protectable = some .conflict := by
  have hcon : (g.resvOf nsx).conflict (g.hostOf inst) true = true := by
    simp [Resv.conflict, Resv.holds, allRegs, ht, hh]
  simp [State.rightsStatus, hcon]

/-- A command that reservation, lease or write protection forbids ends with that status (R64). -/
theorem State.onNs_forbidden {s g : State} {c : IoCmd} {k : Kind} {opc ctx : Nat} {x : Ctx} {n : Ns} {claim : Claim} {st : Status}
    {checks : Ctx → Nat → Ns → List (Bool × Status)} {go : State → Nat → Ctx → Nat → Ns → State}
    (h : taken s g c k opc ctx x) (hn : g.fl.attachedNs c.inst c.q.nsid = some n) (hc : firstFailing (checks x (c.q.nsid - 1) n) = none)
    (hst : g.rightsStatus (c.q.nsid - 1) n c.inst claim.write claim.guarded claim.protectable = some st) :
    s.onNs c k opc claim checks go = (g.fin ctx st).settle := by
  rw [State.onNs, State.io_goes h, hn]
  dsimp only
  rw [hc]
  dsimp only
  rw [hst]

/-- A command on a namespace that its instance does not see ends with Invalid Namespace (R64). -/
theorem State.onNs_unattached {s g : State} {c : IoCmd} {k : Kind} {opc ctx : Nat} {x : Ctx} {claim : Claim}
    {checks : Ctx → Nat → Ns → List (Bool × Status)} {go : State → Nat → Ctx → Nat → Ns → State}
    (h : taken s g c k opc ctx x) (hn : g.fl.attachedNs c.inst c.q.nsid = none) :
    s.onNs c k opc claim checks go = (g.fin ctx .invalidNs).settle := by
  rw [State.onNs, State.io_goes h, hn]

/-- Settles O19: past the checks on its blocks, the write meets the reservation. -/
theorem reservationConflict : Obligations.ReservationConflict := by
  intro s g c k x n ht hn hc hord htype hholder
  have f := taken_facts ht
  have hrights := State.rightsStatus_conflict (g := g) (inst := c.inst) n true true ((f.resvOf _).symm ▸ htype) ((f.resvOf _).symm ▸ hholder)
  obtain ⟨t, y, h, hy, hstate, hstatus, hresv, hoth, hframe⟩ := f.failed (st := .conflict) ht.2.2.2.2.2 hord rfl (by decide)
  refine ⟨t, y, ?_, hy, hstate, hstatus, hresv, hoth, hframe⟩
  rw [← h]
  change execWrite c s = _
  rw [execWrite, State.writeCmd, State.onNs_forbidden ht (f.fl ▸ hn) hc hrights]

/-- The checks of a command on blocks answer no success, and no lost data. -/
theorem blockChecks_status {mv : Bool} {x : Ctx} {nsx : Nat} {n : Ns} {st : Status} (h : firstFailing (blockChecks mv x nsx n) = some st) :
    st = .invalidField ∨ st = .lbaRange := by
  simp only [blockChecks, firstFailing] at h
  repeat' split at h
  all_goals cases h
  all_goals simp

/-- A reading or writing command whose namespace is unattached, or whose check fails, ends with that status. -/
theorem exec_blocks_fails {s g : State} {c : IoCmd} {i : Instr} {kd : Kind} {opc k : Nat} {mv : Bool} {x : Ctx}
    (hi : exec i s = .next (s.readCmd c kd opc mv) ∨ exec i s = .next (s.writeCmd c kd opc mv)) (ht : taken s g c kd opc k x) :
    (g.fl.attachedNs c.inst c.q.nsid = none → exec i s = .next (g.fin k .invalidNs).settle)
    ∧ ∀ n st, g.fl.attachedNs c.inst c.q.nsid = some n → firstFailing (blockChecks mv x (c.q.nsid - 1) n) = some st →
      exec i s = .next (g.fin k st).settle := by
  constructor
  · intro hn
    obtain hi | hi := hi
    · rw [hi, State.readCmd, State.onNs_unattached ht hn]
    · rw [hi, State.writeCmd, State.onNs_unattached ht hn]
  · intro n st hn hst
    obtain hi | hi := hi
    · rw [hi, State.readCmd, State.onNs_fails ht hn hst]
    · rw [hi, State.writeCmd, State.onNs_fails ht hn hst]

/-- Settles O20: the check that fails gives the status. -/
theorem firstFailingCheck : Obligations.FirstFailingCheck := by
  intro s g c i kd opc k mv x hi ht hord
  have f := taken_facts ht
  have hcalm : calm s := ht.2.2.2.2.2
  have hexec : exec i s = .next (s.readCmd c kd opc mv) ∨ exec i s = .next (s.writeCmd c kd opc mv) := by
    obtain ⟨rfl, rfl, rfl, rfl⟩ | ⟨rfl, rfl, rfl, rfl⟩ | ⟨rfl, rfl, rfl, rfl⟩ | ⟨rfl, rfl, rfl, rfl⟩ | ⟨rfl, rfl, rfl, rfl⟩ | ⟨rfl, rfl, rfl, rfl⟩ := hi
    · exact .inl rfl
    · exact .inl rfl
    · exact .inl rfl
    · exact .inr rfl
    · exact .inr rfl
    · exact .inr rfl
  obtain ⟨hnone, hsome⟩ := exec_blocks_fails hexec ht
  constructor
  · intro hn
    obtain ⟨t, y, h, hy, hstate, hstatus, -, hoth, hframe⟩ := f.failed (st := .invalidNs) hcalm hord rfl (by decide)
    exact ⟨t, y, (hnone (f.fl ▸ hn)).trans (congrArg _ h), hy, hstate, hstatus, hoth, hframe⟩
  · intro n st hn hst
    have hbad : st.isOk = false ∧ ¬ (st.sct = 2 ∧ st.sc = 0x81) := by
      obtain rfl | rfl := blockChecks_status hst
      · exact ⟨rfl, by decide⟩
      · exact ⟨rfl, by decide⟩
    obtain ⟨t, y, h, hy, hstate, hstatus, -, hoth, hframe⟩ := f.failed hcalm hord hbad.1 hbad.2
    exact ⟨t, y, (hsome n st (f.fl ▸ hn) hst).trans (congrArg _ h), hy, hstate, hstatus, hoth, hframe⟩

end Sys2Proof.Machine
end

section
/-! Flush: what it covers, and its end (R105). -/

namespace Sys2Proof.Machine

open Safety

/-- A Flush takes no work units (R105, R144). -/
theorem State.cost_flush (s : State) {x : Ctx} (h : x.kind = .flush) : (s.cost x).1 = 0 := by
  unfold State.cost
  rw [h]
  split <;> rfl

/-- Admission sends a Flush to DATA. -/
theorem Ctx.letIn_flush {x : Ctx} (h : x.kind = .flush) (now w u ep : Nat) (within covered : Bool) :
    x.letIn now w u ep within covered = { x with
      admitted := true, waymark := w, wu := u, admitTime := now - x.admitWaitAt, admitEpoch := ep, inShare := within, covered := covered, state := .data } := by
  unfold Ctx.letIn
  rw [h]

/-- A Flush of one attached namespace that no reservation forbids is set up for it and goes to the locks (R105). -/
theorem exec_flush_goes {s g : State} {c : IoCmd} {k : Nat} {x : Ctx} {n : Ns} (ht : taken s g c .flush 0x00 k x)
    (hn : s.fl.attachedNs c.inst c.q.nsid = some n) (hid : c.q.nsid ≠ 0xFFFFFFFF) (hr : (s.resvOf (c.q.nsid - 1)).conflict (g.hostOf c.inst) true = false) :
    exec (.flush c) s = .next ((g.setCtx k { x with
      nsx := some (c.q.nsid - 1), nss := [c.q.nsid - 1], wsn := s.fl.ptx.wsn, exempt := g.qce.unposted x, arrived := !s.fl.ptx.unp }).route k).settle := by
  have f := taken_facts ht
  change execFlush c s = _
  rw [execFlush, State.io_goes ht, f.fl, hn]
  simp [hid, f.resvOf, hr]

/-- A Flush is admitted to DATA at its fetch, past every range lock. -/
theorem exec_flush_admits {s g : State} {c : IoCmd} {k : Nat} {x : Ctx} {n : Ns} (ht : taken s g c .flush 0x00 k x)
    (hn : s.fl.attachedNs c.inst c.q.nsid = some n) (hid : c.q.nsid ≠ 0xFFFFFFFF) (hr : (s.resvOf (c.q.nsid - 1)).conflict (g.hostOf c.inst) true = false) :
    ∃ t y, exec (.flush c) s = .next t ∧ t.qce.ctx? k = some y
      ∧ y.state = .data ∧ y.nss = [c.q.nsid - 1] ∧ y.wsn = s.fl.ptx.wsn ∧ y.exempt = g.qce.unposted x ∧ y.arrived = !s.fl.ptx.unp
      ∧ (∀ j, j ≠ k → t.qce.ctx? j = s.qce.ctx? j) ∧ t.qce.locks = s.qce.locks
      ∧ t = { s with hfu := t.hfu, qce := t.qce, tas := t.tas, out := t.out } := by
  have f := taken_facts ht
  obtain ⟨z, hz⟩ : ∃ z, z = ({ x with
      nsx := some (c.q.nsid - 1), nss := [c.q.nsid - 1], wsn := s.fl.ptx.wsn, exempt := g.qce.unposted x, arrived := !s.fl.ptx.unp } : Ctx) := ⟨_, rfl⟩
  have hzk : z.kind = .flush := by rw [hz]; exact f.kind
  have hspans : z.spans = [] := by
    simp [Ctx.spans, Ctx.targets, Ctx.reads, hz, f.kind, f.mods, f.rds]
  obtain ⟨m, l, w, u, ep, wi, co, sh, tas, h⟩ := State.route_in (c := k) (z := z) (f.calm ht.2.2.2.2.2) (by simp [hzk]) (by rw [hz]; exact f.rlWait)
    (fun e _ => .inr (by simp [hspans])) (g.cost_flush hzk)
  have hexec := exec_flush_goes ht hn hid hr
  rw [← hz, h] at hexec
  rw [Ctx.letIn_flush (x := { z with state := .admitwait, admitWaitAt := g.clock.now, shutMark := m, lockTime := l }) hzk] at hexec
  generalize hy : ({ z with
      state := .data, admitWaitAt := g.clock.now, shutMark := m, lockTime := l, admitted := true, waymark := w, wu := u, admitTime := g.clock.now - g.clock.now
      admitEpoch := ep, inShare := wi, covered := co } : Ctx) = y at hexec
  have hrest : atRest y = true := by
    rw [← hy, hz]
    simp [atRest, f.encrypted, f.rlWait, f.side, f.detached]
  replace hexec := hexec.trans (congrArg _ (State.settle_calm (calm_of (calm_setCtx (c := k) (f.calm ht.2.2.2.2.2) hrest) rfl rfl)))
  refine ⟨_, y, hexec, Tab.get?_set_self _ _ _, by rw [← hy], by rw [← hy, hz], by rw [← hy, hz], by rw [← hy, hz], by rw [← hy, hz], fun j hj => ?_, f.locks, ?_⟩
  · simp only [Qce.ctx?]
    rw [Tab.get?_set_ne _ _ hj, f.ctxs, Tab.get?_set_ne _ _ hj]
  · dsimp only
    rw [f.frame]

/-- Settles O21: at its fetch a Flush goes to DATA; in protected mode, or once what it covers is programmed, it ends. -/
theorem flushes : Obligations.Flushes := by
  refine ⟨fun s g c k x n ht hn hid hr => exec_flush_admits ht hn hid hr, fun s k x hruns hcalm hx hkind hstate hside hdet hord hdone => ?_⟩
  have hfin := State.done_calm (st := .success) hcalm hx (by simp [Ctx.open', hstate]) ⟨hside, hdet⟩ rfl
  have hcov : (x.arrived || !s.fl.ptx.unp || s.fl.programmed x.covers) = true := by
    simpa [or_assoc] using hdone
  refine ⟨{ s with qce := s.qce.setDone k .success }, _, ?_, Qce.setDone_ctx .success hx, rfl, rfl, fun j hj => Qce.setDone_other _ hj, rfl⟩
  change execFlushComplete k s = _
  rw [execFlushComplete, State.whenRuns_on hruns, hx]
  dsimp only
  rw [hkind, hstate, hord, hcov, hfin]
  rfl

end Sys2Proof.Machine
end

section
/-! Zones: what a write does to its zone, what an action does, and the zone commands (R174 to R178). -/

namespace Sys2Proof.Machine

open Safety

/-! ## One zone -/

theorem Flash.ns?_setZone (f : Flash) (nsx z j : Nat) (w : Zone) :
    (f.setZone nsx z w).ns? j = if j = nsx then (f.ns? j).map (fun n => { n with zones := Tab.set n.zones z w }) else f.ns? j := by
  exact Tab.get?_upd f.ptx.nss nsx j fun n => { n with zones := Tab.set n.zones z w }

theorem Ns.zone_set (n : Ns) (z q : Nat) (w : Zone) : ({ n with zones := Tab.set n.zones z w } : Ns).zone q = if q = z then w else n.zone q := by
  simp only [Ns.zone, Tab.getD, Tab.get?_set]
  split <;> rfl

/-- Opening an open zone implicitly, or an explicitly open one explicitly, leaves the zone as it is (R175). -/
theorem Flash.openZone_open {f : Flash} {now hours nsx z : Nat} {n : Ns} (h : (n.zone z).st.isOpen = true) :
    f.openZone now hours nsx z n (if (n.zone z).st = .explicitOpen then .explicitOpen else .implicitOpen) = .ok (f.setZone nsx z (n.zone z)) := by
  unfold Flash.openZone
  dsimp only
  rw [if_pos h]
  by_cases hex : (n.zone z).st = .explicitOpen
  · simp [← hex]
  · simp [hex]

/-- A write that an open zone has room for moves the write pointer and changes nothing else (R175). -/
theorem Flash.zoneWrite_open {f : Flash} {nsx z blocks : Nat} {n : Ns} (now hours fsn : Nat) (hn : f.ns? nsx = some n)
    (hopen : (n.zone z).st.isOpen = true) (hroom : (n.zone z).wp + blocks < (z + 1) * n.zsze) :
    f.zoneWrite now hours nsx n z none blocks fsn
      = .ok ((f.setZone nsx z (n.zone z)).setZone nsx z { n.zone z with wp := (n.zone z).wp + blocks, fsn := fsn }, (n.zone z).wp, (n.zone z).barchan.getD 32) := by
  have hset : (f.setZone nsx z (n.zone z)).ns? nsx = some { n with zones := Tab.set n.zones z (n.zone z) } := by
    rw [Flash.ns?_setZone, if_pos rfl, hn]
    rfl
  have hzone : ({ n with zones := Tab.set n.zones z (n.zone z) } : Ns).zone z = n.zone z := by rw [Ns.zone_set, if_pos rfl]
  have hopened := Flash.openZone_open (f := f) (now := now) (hours := hours) (nsx := nsx) hopen
  generalize hst : (n.zone z).st = st at hopen hopened
  unfold Flash.zoneWrite
  dsimp only
  rw [hst]
  cases st
  all_goals try exact absurd hopen (by decide)
  all_goals
    simp only [reduceCtorEq, if_true, if_false] at hopened
    simp only [reduceCtorEq, if_true, Option.isSome_none, Bool.false_and, Bool.false_eq_true, if_false, hroom.le.not_gt, hroom.ne, hopened, hset, hzone, hst, Option.getD_some]

/-- What an open zone holds after a write that it has room for. -/
theorem Flash.zoneWrite_open_zones {f : Flash} {nsx z blocks : Nat} {n : Ns} {w : Zone} (now hours fsn : Nat) (hn : f.ns? nsx = some n) (hw : n.zone z = w)
    (hopen : w.st.isOpen = true) (hroom : w.wp + blocks < (z + 1) * n.zsze) :
    ∃ fz m, f.zoneWrite now hours nsx n z none blocks fsn = .ok (fz, w.wp, w.barchan.getD 32)
      ∧ fz.ns? nsx = some m ∧ m.zone z = { w with wp := w.wp + blocks, fsn := fsn } ∧ (∀ q, q ≠ z → m.zone q = n.zone q)
      ∧ (∀ q, q ≠ nsx → fz.ns? q = f.ns? q) ∧ fz = { f with ptx := { f.ptx with nss := fz.ptx.nss } } := by
  subst hw
  refine ⟨_, { n with zones := Tab.set (Tab.set n.zones z (n.zone z)) z { n.zone z with wp := (n.zone z).wp + blocks, fsn := fsn } },
    Flash.zoneWrite_open now hours fsn hn hopen hroom, ?_, ?_, fun q hq => ?_, fun q hq => ?_, rfl⟩
  · rw [Flash.ns?_setZone, if_pos rfl, Flash.ns?_setZone, if_pos rfl, hn]
    rfl
  · exact (Ns.zone_set { n with zones := Tab.set n.zones z (n.zone z) } z z _).trans (if_pos rfl)
  · refine (Ns.zone_set { n with zones := Tab.set n.zones z (n.zone z) } z q _).trans ?_
    rw [if_neg hq, Ns.zone_set, if_neg hq]
  · rw [Flash.ns?_setZone, if_neg hq, Flash.ns?_setZone, if_neg hq]

/-- Why a zone takes no write (R175, R176). -/
theorem Flash.zoneWrite_refused (f : Flash) (now hours nsx z blocks fsn : Nat) (slba : Option Nat) (n : Ns) :
    ((n.zone z).st = .full → f.zoneWrite now hours nsx n z slba blocks fsn = .error ⟨1, 0xB9, Config.dnr 1 0xB9⟩)
    ∧ ((n.zone z).st = .readOnly → f.zoneWrite now hours nsx n z slba blocks fsn = .error ⟨1, 0xBA, Config.dnr 1 0xBA⟩)
    ∧ ((n.zone z).st = .offline → f.zoneWrite now hours nsx n z slba blocks fsn = .error ⟨1, 0xBB, Config.dnr 1 0xBB⟩)
    ∧ ((n.zone z).st ≠ .full → (n.zone z).st ≠ .readOnly → (n.zone z).st ≠ .offline →
      (∀ l, slba = some l → l ≠ (n.zone z).wp → f.zoneWrite now hours nsx n z slba blocks fsn = .error ⟨1, 0xBC, Config.dnr 1 0xBC⟩)
      ∧ ((slba = none ∨ slba = some (n.zone z).wp) → (z + 1) * n.zsze < (n.zone z).wp + blocks →
          f.zoneWrite now hours nsx n z slba blocks fsn = .error ⟨1, 0xB8, Config.dnr 1 0xB8⟩)) := by
  unfold Flash.zoneWrite
  dsimp only
  generalize hst : (n.zone z).st = st
  refine ⟨?_, ?_, ?_, fun hfull hro hoff => ⟨?_, ?_⟩⟩
  · rintro rfl; rfl
  · rintro rfl; rfl
  · rintro rfl; rfl
  · rintro l rfl hl
    cases st
    all_goals try contradiction
    all_goals simp [hl]
  · intro hslba hlong
    have hplace : (slba.isSome && slba != some (n.zone z).wp) = false := by
      obtain rfl | rfl := hslba <;> simp
    cases st
    all_goals try contradiction
    all_goals rw [hplace, if_neg Bool.false_ne_true, if_pos hlong]

/-- An action on one zone is its outcome on that zone. -/
theorem Flash.zoneActs_one {f : Flash} {now hours nsx z : Nat} {n : Ns} {a : ZoneAct} (hn : f.ns? nsx = some n) :
    f.zoneActs now hours nsx a [z] = match f.zoneAct now hours nsx z n a with | .ok g => (g, none) | .error e => (f, some e) := by
  rw [Flash.zoneActs, hn]
  dsimp only
  split <;> simp_all [Flash.zoneActs]

/-- The single-zone actions (R174, R178). -/
theorem Flash.zoneActs_states {f : Flash} {now hours nsx z : Nat} {n : Ns} (hn : f.ns? nsx = some n) :
    ((n.zone z).st = .implicitOpen → f.zoneActs now hours nsx .open' [z] = (f.setZone nsx z { n.zone z with st := .explicitOpen }, none))
    ∧ ((n.zone z).st = .empty → f.zoneActs now hours nsx .finish [z] = (f.setZone nsx z { n.zone z with st := .full, wp := (z + 1) * n.zsze }, none))
    ∧ ((n.zone z).st = .full →
        f.zoneActs now hours nsx .reset' [z] = (f.setZone nsx z { n.zone z with st := .empty, wp := z * n.zsze, barchan := none }, none))
    ∧ ((n.zone z).st = .readOnly → f.zoneActs now hours nsx .offline [z] = (f.setZone nsx z { n.zone z with st := .offline }, none))
    ∧ ∀ a : ZoneAct, ((n.zone z).st = .offline → f.zoneActs now hours nsx a [z] = (f, some ⟨1, 0xBB, Config.dnr 1 0xBB⟩))
      ∧ ((n.zone z).st = .readOnly → a ≠ .offline → f.zoneActs now hours nsx a [z] = (f, some ⟨1, 0xBA, Config.dnr 1 0xBA⟩)) := by
  refine ⟨fun h => ?_, fun h => ?_, fun h => ?_, fun h => ?_, fun a => ⟨fun h => ?_, fun h ha => ?_⟩⟩
  · simp [Flash.zoneActs_one hn, Flash.zoneAct, h]
  · simp [Flash.zoneActs_one hn, Flash.zoneAct, h]
  · simp [Flash.zoneActs_one hn, Flash.zoneAct, h]
  · simp [Flash.zoneActs_one hn, Flash.zoneAct, h]
  · simp [Flash.zoneActs_one hn, Flash.zoneAct, h]
  · cases a
    case offline => exact absurd rfl ha
    all_goals simp [Flash.zoneActs_one hn, Flash.zoneAct, h]

/-! ## The zone commands -/

theorem firstFailing_good (st : Status) (checks : List (Bool × Status)) : firstFailing ((false, st) :: checks) = firstFailing checks := rfl

/-- Checks in a row pass when each part does. -/
theorem firstFailing_append {xs ys : List (Bool × Status)} (hx : firstFailing xs = none) (hy : firstFailing ys = none) : firstFailing (xs ++ ys) = none := by
  induction xs with
  | nil => exact hy
  | cons e xs ih =>
    obtain ⟨bad, st⟩ := e
    cases bad
    case false => exact ih hx
    case true => cases hx

/-- The fetch of a command moves no time. -/
theorem TakenFacts.hours {s g : State} {c : IoCmd} {kd : Kind} {k : Nat} {x : Ctx} (f : TakenFacts s g c kd k x) : g.hours = s.hours := by
  rw [f.frame]
  rfl

/-- An append that its zone accepts takes the entry of the blocks that it is assigned and waits (R175). -/
theorem exec_zoneAppend_waits {s g : State} {c : IoCmd} {k lba bar : Nat} {x : Ctx} {n m : Ns} {fz : Flash} (ht : taken s g c .append 0x7D k x)
    (hp : permitted g c n .writes) (hzoned : n.zoned = true) (halign : c.q.slba % n.zsze = 0)
    (hc : firstFailing (blockChecks true x (c.q.nsid - 1) n) = none)
    (hz : s.fl.zoneWrite s.clock.now s.hours (c.q.nsid - 1) n (c.q.slba / n.zsze) none (c.q.nlb + 1) s.qce.fsn = .ok (fz, lba, bar))
    (hm : fz.ns? (c.q.nsid - 1) = some m) (hw : s.tas.wcost ≠ 0) (hu : unlocked s (c.q.nsid - 1)) :
    ∃ t y r, exec (.zoneAppend c) s = .next t ∧ t.qce.ctx? k = some y
      ∧ y.state = .admitwait ∧ y.mods = [⟨lba, c.q.nlb + 1⟩] ∧ y.zone = some (c.q.slba / n.zsze) ∧ y.barchan = bar ∧ y.rlidx = some r
      ∧ t.qce.locks = Tab.set s.qce.locks r ⟨c.q.nsid - 1, lba, c.q.nlb + 1, s.qce.fsn, k⟩
      ∧ (∀ j, j ≠ k → t.qce.ctx? j = s.qce.ctx? j)
      ∧ t = { s with hfu := t.hfu, qce := t.qce, tas := t.tas, out := t.out, fl := fz } := by
  have f := taken_facts ht
  obtain ⟨bk, bn, -, br, bf, -, bs, bd, -, bslba, bnlb, -, -⟩ := f.fields (c.q.nsid - 1) n
  have hchecks : firstFailing ((!n.zoned, Status.invalidOpcode) :: blockChecks true x (c.q.nsid - 1) n
      ++ [(n.zsze != 0 && x.sqe.slba % n.zsze != 0, .invalidField)]) = none := by
    refine firstFailing_append ?_ ?_
    · rw [hzoned, Bool.not_true, firstFailing_good, hc]
    · simp [firstFailing, f.sqe, halign]
  have hgo : exec (.zoneAppend c) s = .next (g.placeWrite k (x.blockFields (c.q.nsid - 1) n) (c.q.nsid - 1) n true).settle := by
    change execZoneAppend c s = _
    rw [execZoneAppend, State.onNs_goes ht hp hchecks]
  generalize x.blockFields (c.q.nsid - 1) n = b at *
  obtain ⟨z, hzz⟩ : ∃ z, z = ({ b with slba := lba, zone := some (c.q.slba / n.zsze), barchan := bar, mods := [⟨lba, c.q.nlb + 1⟩] } : Ctx) := ⟨_, rfl⟩
  have hplace : g.placeWrite k b (c.q.nsid - 1) n true = ((g.withFl fz).setCtx k z).lockAndRoute k := by
    rw [hzz, State.placeWrite, hzoned, if_pos rfl, f.fl, f.clock, f.hours, bslba, bnlb, bf]
    dsimp only
    rw [if_pos rfl, hz]
  have hzk : z.kind = .append := by rw [hzz]; exact bk
  have hzn : z.nsx = some (c.q.nsid - 1) := by rw [hzz]; exact bn
  have hmods : z.mods = [⟨lba, c.q.nlb + 1⟩] := by rw [hzz]
  have hna : z.kind ≠ .admin := by simp [hzk]
  have hin : ∀ p ∈ z.spans, p.1 = c.q.nsid - 1 := Ctx.spans_in hzn hna (by rw [hzz]; simp [br])
  obtain ⟨t, y, r, h1, h2, h3, -, h5, -, -, -, h9, h10, h11, h12, h13, h14⟩ := f.waits_locked ht.2.2.2.2.2 hna hzn (by rw [hzz]; exact ⟨bs, bd⟩)
    (sp := ⟨lba, c.q.nlb + 1⟩) (by rw [hmods]; exact hull_one _ _) (by rw [hzz]; exact bf) (fun p hp' => hin p hp' ▸ hu) hu
    (State.cost_writes (s := g.withFl fz) hzn hm (.inr (.inl hzk)) hmods (by rw [f.frame]; exact hw))
  rw [hplace, h1] at hgo
  exact ⟨t, y, r, hgo, h2, h3, h5.trans hmods, by rw [h10, hzz], by rw [h9, hzz], h11, h12, h13, h14⟩

/-- A zone report is as of its fetch, and goes out in its turn (R177). -/
theorem exec_zoneManagementReceive_ends {s g : State} {c : IoCmd} {k : Nat} {x : Ctx} {n : Ns} (ht : taken s g c .zoneRecv 0x7A k x)
    (hp : permitted g c n .reads) (hzoned : n.zoned = true) (hact : c.q.zoneRecvAction = 0) (hopt : c.q.reportOption ≤ 7) (hin : c.q.slba < n.nsze) :
    ∃ t, exec (.zoneManagementReceive c) s = .next t ∧ endsInTurn s t k x
      ∧ t.out = (if x.ord && !(s.qce.predsCommitted x) then g.out
          else .data k (n.zoneReport (c.q.slba / n.zsze) c.q.reportOption ((c.q.cdw12 + 1) * 4) c.q.partial') :: g.out)
      ∧ t = { s with hfu := t.hfu, qce := t.qce, tas := t.tas, out := t.out } := by
  have f := taken_facts ht
  obtain ⟨hturn, hframe⟩ := f.endsIn (nsx := c.q.nsid - 1) (h := g) ht.2.2.2.2.2 rfl rfl rfl []
    (n.zoneReport (c.q.slba / n.zsze) c.q.reportOption ((c.q.cdw12 + 1) * 4) c.q.partial')
  rw [Ns.zoneReport, fit_ne_nil (by omega), Bool.or_false, List.foldl_nil, ite_self, ← Ns.zoneReport] at hframe
  refine ⟨_, ?_, hturn, ?_, ?_⟩
  · change execZoneManagementReceive c s = _
    rw [execZoneManagementReceive, State.onNs_goes ht hp (by simp [firstFailing, hzoned, f.sqe, hact, hopt.not_gt, hin.not_ge]), f.sqe]
  · rw [hframe]
    split <;> rfl
  · rw [hframe, f.frame]
    split <;> rfl

/-- Admission sends a zone action to DATA, where nothing has to arrive. -/
theorem Ctx.letIn_zoneSend {x : Ctx} (h : x.kind = .zoneSend) (now w u ep : Nat) (within covered : Bool) :
    x.letIn now w u ep within covered = { x with
      admitted := true, waymark := w, wu := u, admitTime := now - x.admitWaitAt, admitEpoch := ep, inShare := within, covered := covered, state := .data
      encrypted := true } := by
  unfold Ctx.letIn
  rw [h]

/-- A zone action takes no work units (R144). -/
theorem State.cost_zoneSend (s : State) {x : Ctx} (h : x.kind = .zoneSend) : (s.cost x).1 = 0 := by
  unfold State.cost
  rw [h]
  split <;> rfl

/-- What a zone action leaves when it is recorded: its zones as they are, and without a span to unmap nothing of the map or the media (R178). -/
theorem Flash.recordedBy_zoneSend {f : Flash} {now nsx : Nat} {n : Ns} {w : Ctx} (hk : w.kind = .zoneSend) (hr : w.rds = []) :
    (f.recordedBy now nsx n w).ptx.nss = f.ptx.nss ∧ (f.recordedBy now nsx n w).ptx.map = f.ptx.map ∧ (f.recordedBy now nsx n w).mbe = f.mbe := by
  unfold Flash.recordedBy Flash.recordCmd Flash.deallocAll
  rw [hk, hr]
  exact ⟨rfl, rfl, rfl⟩

/-- A zone action that every zone it names accepts is set up over the blocks it names, with what it unmaps (R178). -/
theorem exec_zoneManagementSend_goes {s g : State} {c : IoCmd} {k : Nat} {x : Ctx} {n : Ns} {a : ZoneAct} {fz : Flash} {zs : List Nat}
    (ht : taken s g c .zoneSend 0x79 k x) (hp : permitted g c n ⟨true, true, false⟩) (hzoned : n.zoned = true) (ha : zoneActOf c.q.zoneAction = some a)
    (hplace : c.q.selectAll = false → c.q.slba < n.nsze ∧ c.q.slba % n.zsze = 0)
    (hzs : zs = n.actZones a (if c.q.selectAll then none else some (c.q.slba / n.zsze)))
    (hz : s.fl.zoneActs s.clock.now s.hours (c.q.nsid - 1) a zs = (fz, none)) :
    exec (.zoneManagementSend c) s = .next (((g.withFl fz).setCtx k { x with
      nsx := some (c.q.nsid - 1), keyslot := n.firstSlot (c.q.nsid - 1), slba := if c.q.selectAll then 0 else c.q.slba
      mods := [if c.q.selectAll then ⟨0, n.nsze⟩ else ⟨c.q.slba, n.zsze⟩], rds := if a.clears then zs.map fun z => ⟨z * n.zsze, n.zsze⟩ else [] }).lockAndRoute k).settle := by
  have f := taken_facts ht
  have hchecks : firstFailing
      [ (!n.zoned, Status.invalidOpcode), ((zoneActOf x.sqe.zoneAction).isNone, .invalidField), (!x.sqe.selectAll && decide (n.nsze ≤ x.sqe.slba), .lbaRange),
        (!x.sqe.selectAll && n.zsze != 0 && x.sqe.slba % n.zsze != 0, .invalidField) ] = none := by
    rw [f.sqe, hzoned, ha]
    cases hsel : c.q.selectAll
    case true => simp [firstFailing]
    case false =>
      obtain ⟨hin, halign⟩ := hplace hsel
      simp [firstFailing, hin, halign]
  change execZoneManagementSend c s = _
  rw [execZoneManagementSend, State.onNs_goes ht hp hchecks]
  dsimp only
  rw [f.sqe, ha, f.fl, f.clock, f.hours]
  dsimp only
  rw [← hzs, hz]

/-- The context of a zone action as it is recorded: in DATA with its entry, ready at once. -/
structure Ctx.actsFrom (w z : Ctx) : Prop where
  state : w.state = .data
  encrypted : w.encrypted = true
  kind : w.kind = z.kind
  nsx : w.nsx = z.nsx
  rds : w.rds = z.rds
  recorded : w.recorded = z.recorded
  ord : w.ord = z.ord
  side : w.side = z.side
  detached : w.detached = z.detached

/-- A zone action outside an ordered queue passes locks and admission at its fetch. -/
theorem TakenFacts.zoneSend_in {s g : State} {c : IoCmd} {k nsx : Nat} {x z : Ctx} {sp : Span} {fl : Flash} (f : TakenFacts s g c .zoneSend k x)
    (hs : Safety.calm s) (zk : z.kind = .zoneSend) (zn : z.nsx = some nsx) (zm : hull z.mods = some sp) (zin : ∀ p ∈ z.spans, p.1 = nsx)
    (hu : unlocked s nsx) :
    ∃ w r sh tas, Ctx.actsFrom w z ∧ ((g.withFl fl).setCtx k z).lockAndRoute k
      = { g with
          fl := fl, qce := { g.qce with ctxs := Tab.set s.qce.ctxs k w, locks := Tab.set s.qce.locks r ⟨nsx, sp.lo, sp.len, z.fsn, k⟩, shut := sh }, tas := tas } := by
  have hcalm : Safety.calm (g.withFl fl) := f.calm hs
  have hna : z.kind ≠ .admin := by simp [zk]
  have hlocks : (g.withFl fl).qce.locks = s.qce.locks := f.locks
  have hctxs : (g.withFl fl).qce.ctxs = Tab.set s.qce.ctxs k x := f.ctxs
  obtain ⟨r, hr, -⟩ := State.lockAndRoute_eq (s := g.withFl fl) (c := k) (Ctx.lockSpans_one zn hna zm) (by rw [hlocks]; exact hu.1) (calm_rlWait hcalm)
    (fun f' => by rw [hctxs, Tab.set_set, Tab.set_set, Tab.upd_set f.fresh])
  rw [hlocks] at hr
  obtain ⟨y, hy⟩ : ∃ y, y = ({ z with rlidx := some r, rlWait := false } : Ctx) := ⟨_, rfl⟩
  obtain ⟨h, hh⟩ : ∃ h, h = ({ (g.withFl fl) with qce := { (g.withFl fl).qce with locks := Tab.set s.qce.locks r ⟨nsx, sp.lo, sp.len, z.fsn, k⟩ } } : State) := ⟨_, rfl⟩
  have yk : y.kind = .zoneSend := by rw [hy]; exact zk
  obtain ⟨m, l, w, u, ep, wi, co, sh, tas, hin⟩ := State.route_in (s := h) (c := k) (z := y) (by rw [hh]; exact hcalm) (by simp [yk]) (by rw [hy])
    (fun e he => by
      rw [hh] at he
      refine (Tab.mem_set he).elim (fun q => .inl ?_) (fun q => .inr fun p hp q' => ?_)
      · rw [q, hy]
        exact fsnBefore_self _
      · rw [hy] at hp
        exact hu.2 e q (q'.symm.trans (zin p hp)))
    (h.cost_zoneSend yk)
  obtain ⟨v, hv⟩ : ∃ v, v = ({ y with state := .admitwait, admitWaitAt := h.clock.now, shutMark := m, lockTime := l } : Ctx) := ⟨_, rfl⟩
  rw [← hv] at hin
  refine ⟨v.letIn h.clock.now w u ep wi co, r, sh, tas, ?_, ?_⟩
  · rw [Ctx.letIn_zoneSend (by rw [hv]; exact yk), hv, hy]
    exact ⟨rfl, rfl, rfl, rfl, rfl, rfl, rfl, rfl, rfl⟩
  · rw [hr, ← hy, ← hh, hin, hh]
    dsimp only
    rw [hctxs, Tab.set_set]
    rfl

/-- Tables without entries of an owner, once its entries are dropped. -/
theorem Tab.keep_locks {t : Tab Lock} {k : Nat} : ∀ l ∈ Tab.keep t (fun _ e => e.ctx != k), l.2.ctx ≠ k := by
  intro l hl
  simpa using (List.mem_filter.1 hl).2

/-- A zone action over some zones: their states change at its fetch, and what it clears is unmapped as it is recorded (R178). -/
theorem exec_zoneManagementSend_ends {s g : State} {c : IoCmd} {k : Nat} {x : Ctx} {n m : Ns} {a : ZoneAct} {fz : Flash} {zs : List Nat}
    (ht : taken s g c .zoneSend 0x79 k x) (hp : permitted g c n ⟨true, true, false⟩) (hzoned : n.zoned = true) (hord : x.ord = false) (hho : s.handover = false)
    (ha : zoneActOf c.q.zoneAction = some a) (hplace : c.q.selectAll = false → c.q.slba < n.nsze ∧ c.q.slba % n.zsze = 0) (hzsze : n.zsze ≠ 0) (hnsze : n.nsze ≠ 0)
    (hzs : zs = n.actZones a (if c.q.selectAll then none else some (c.q.slba / n.zsze))) (hlow : ∀ z ∈ zs, z * n.zsze < 2 ^ 48)
    (hz : s.fl.zoneActs s.clock.now s.hours (c.q.nsid - 1) a zs = (fz, none)) (hm : fz.ns? (c.q.nsid - 1) = some m)
    (hu : unlocked s (c.q.nsid - 1)) (hreads : ∀ e ∈ s.qce.ctxs, e.2.kind.reads = false) :
    ∃ t y w, exec (.zoneManagementSend c) s = .next t ∧ t.qce.ctx? k = some y ∧ y.state = .completing ∧ y.status = .success
      ∧ t.fl = fz.recordedBy s.clock.now (c.q.nsid - 1) m w ∧ w.kind = .zoneSend ∧ w.rds = (if a.clears then zs.map (fun z => ⟨z * n.zsze, n.zsze⟩) else [])
      ∧ (a.clears = false → t.fl.ptx.nss = fz.ptx.nss ∧ t.fl.ptx.map = fz.ptx.map ∧ t.fl.mbe = fz.mbe) ∧ (∀ l ∈ t.qce.locks, l.2.ctx ≠ k)
      ∧ (∀ j, j ≠ k → t.qce.ctx? j = s.qce.ctx? j)
      ∧ t = { s with hfu := t.hfu, qce := t.qce, tas := t.tas, out := t.out, fl := t.fl } := by
  have f := taken_facts ht
  have hcalm : Safety.calm s := ht.2.2.2.2.2
  have hexec := exec_zoneManagementSend_goes ht hp hzoned ha hplace hzs hz
  generalize hspan : (if c.q.selectAll then (⟨0, n.nsze⟩ : Span) else ⟨c.q.slba, n.zsze⟩) = sp at hexec
  generalize hrds : (if a.clears then zs.map fun z => (⟨z * n.zsze, n.zsze⟩ : Span) else []) = rds at hexec ⊢
  generalize hzdef : ({ x with
    nsx := some (c.q.nsid - 1), keyslot := n.firstSlot (c.q.nsid - 1), slba := if c.q.selectAll then 0 else c.q.slba, mods := [sp], rds := rds } : Ctx) = z at hexec
  have zk : z.kind = .zoneSend := by rw [← hzdef]; exact f.kind
  have zn : z.nsx = some (c.q.nsid - 1) := by rw [← hzdef]
  have hhull : hull z.mods = some sp := by
    obtain ⟨len, hlen⟩ : ∃ m, sp.len = m + 1 := Nat.exists_eq_succ_of_ne_zero (by rw [← hspan]; split <;> assumption)
    obtain ⟨lo, _⟩ := sp
    subst hlen
    rw [← hzdef]
    exact hull_one _ _
  have hin : ∀ p ∈ z.spans, p.1 = c.q.nsid - 1 := by
    refine Ctx.spans_in zn (by simp [zk]) fun r hr => ?_
    rw [← hzdef, ← hrds] at hr
    dsimp only at hr
    split at hr
    · obtain ⟨q, hq, rfl⟩ := List.mem_map.1 hr
      exact hlow q hq
    · cases hr
  obtain ⟨w, r, sh, tas, hw, hroute⟩ := f.zoneSend_in (fl := fz) hcalm zk zn hhull hin hu
  rw [hroute] at hexec
  have wk : w.kind = .zoneSend := hw.kind.trans zk
  have wr : w.rds = rds := hw.rds.trans (by rw [← hzdef])
  have hrec := State.settle_record (u := { g with
      fl := fz, qce := { g.qce with ctxs := Tab.set s.qce.ctxs k w, locks := Tab.set s.qce.locks r ⟨c.q.nsid - 1, sp.lo, sp.len, z.fsn, k⟩, shut := sh }, tas := tas })
    (t := s.qce.ctxs) (c := k) (x := w) (n := m) (by dsimp only; rw [f.sec]; exact hcalm.1) rfl hcalm.2.1 hcalm.2.2 hw.state hw.encrypted
    (hw.recorded.trans (by rw [← hzdef]; exact f.recorded)) (hw.ord.trans (by rw [← hzdef]; exact hord))
    ⟨hw.side.trans (by rw [← hzdef]; exact f.side), hw.detached.trans (by rw [← hzdef]; exact f.detached)⟩ (.inl (by rw [wk]; rfl)) (by rw [wk]; rfl)
    (by simp [wk]) (.inr (by rw [f.frame]; exact hho))
    (by
      rw [Qce.readBefore, List.any_eq_false]
      intro e he
      refine (Tab.mem_set he).elim (fun q => ?_) (fun q => ?_)
      · simp [q, wk, Kind.reads]
      · simp [hreads e q])
    (hw.nsx.trans zn) hm (by rw [wk]; rfl) (by rw [wk]; simp)
  refine ⟨_, _, w, hexec.trans (congrArg _ hrec), Tab.get?_set_self _ _ _, rfl, rfl, ?_, wk, wr, fun hclear => ?_, Tab.keep_locks, fun j hj => Tab.get?_set_ne _ _ hj, ?_⟩
  · dsimp only
    rw [f.clock]
  · exact Flash.recordedBy_zoneSend wk (by rw [wr, ← hrds, hclear]; rfl)
  · dsimp only
    rw [f.frame]

/-- Settles O22: the five rows, each by its lemma. -/
theorem zones : Obligations.Zones :=
  ⟨fun _ _ _ _ _ _ _ _ _ _ ht hp hzoned _ halign hc hz hm hw hu => exec_zoneAppend_waits ht hp hzoned halign hc hz hm hw hu,
    fun _ now hours _ _ _ fsn _ _ hn hw hopen hroom => Flash.zoneWrite_open_zones now hours fsn hn hw hopen hroom,
    fun f now hours nsx z blocks fsn slba n => f.zoneWrite_refused now hours nsx z blocks fsn slba n,
    fun _ _ _ _ _ _ ht hp hzoned hact hopt hin => exec_zoneManagementReceive_ends ht hp hzoned hact hopt hin,
    fun _ _ _ _ _ _ _ _ _ ht hp hzoned hord hho ha hplace hzsze hnsze hlow hz hm hu hreads =>
      exec_zoneManagementSend_ends ht hp hzoned hord hho ha hplace hzsze hnsze rfl hlow hz hm hu hreads,
    fun _ _ _ _ _ _ hn => Flash.zoneActs_states hn⟩

end Sys2Proof.Machine
end

section
/-! Placement handles (R182, R183), and Parity Compute (R289 to R294). -/

namespace Sys2Proof.Machine

open Safety

/-! ## Placement handles -/

/-- A Reclaim Unit Handle Update ends the units of its handles in its turn. -/
theorem exec_ioManagementSend_ends {s g : State} {c : IoCmd} {handles : List Nat} {k : Nat} {x : Ctx} {n : Ns} (ht : taken s g c .ioMgmt 0x1D k x)
    (hp : permitted g c n ⟨true, false, false⟩) (hop : natBits c.q.cdw10 7 0 = 1) (hfdp : s.fl.ptx.fdp = true) (hin : ∀ h ∈ handles, h < n.handles.length) :
    ∃ t, exec (.ioManagementSend c handles) s = .next t ∧ endsInTurn s t k x
      ∧ t.fl = (if x.ord && !(s.qce.predsCommitted x) then s.fl
          else (handles.map fun h => n.handles.getD h 0).foldl (fun f h => f.updateHandle s.clock.now s.hours h) s.fl)
      ∧ t = { s with hfu := t.hfu, qce := t.qce, tas := t.tas, out := t.out, fl := t.fl } := by
  have f := taken_facts ht
  have hany : (handles.any fun h => decide (n.handles.length ≤ h)) = false := by
    simpa only [List.any_eq_false, decide_eq_true_eq, not_le] using hin
  obtain ⟨hturn, hframe⟩ := f.endsIn (nsx := c.q.nsid - 1) (h := g) ht.2.2.2.2.2 rfl rfl rfl (handles.map fun h => n.handles.getD h 0) []
  rw [List.isEmpty_nil, Bool.or_true, if_pos rfl, f.clock, f.hours, f.fl] at hframe
  refine ⟨_, ?_, hturn, ?_, ?_⟩
  · change execIoManagementSend c handles s = _
    rw [execIoManagementSend, State.onNs_goes ht hp (by simp [firstFailing, f.sqe, hop, hfdp, hany])]
  · rw [hframe]
  · rw [hframe, f.frame]

/-- A handle that fills no unit stays as it is; otherwise its unit ends, and at most the event log tells of it. -/
theorem Flash.updateHandle_ends (f : Flash) (now hours h : Nat) :
    (Tab.get? f.ptx.filling (3072 + h) = none → f.updateHandle now hours h = f)
    ∧ (f.updateHandle now hours h).ptx.filling = (f.endUnit now hours (3072 + h)).1.ptx.filling
    ∧ ((f.endUnit now hours (3072 + h)).2 = false → f.updateHandle now hours h = (f.endUnit now hours (3072 + h)).1) := by
  refine ⟨fun hnone => ?_, ?_, fun hno => ?_⟩
  · rw [Flash.updateHandle, Flash.endUnit, hnone]
    rfl
  · rw [Flash.updateHandle]
    dsimp only
    split
    · obtain ⟨l, hl⟩ := (f.endUnit now hours (3072 + h)).1.ptx.fdpEvent_log true now 0x00 h
      rw [if_pos rfl] at hl
      rw [hl]
    · rfl
  · rw [Flash.updateHandle]
    dsimp only
    rw [hno, if_neg Bool.false_ne_true]

/-- A Reclaim Unit Handle Status goes out in its turn. -/
theorem exec_ioManagementReceive_ends {s g : State} {c : IoCmd} {k : Nat} {x : Ctx} {n : Ns} (ht : taken s g c .ioMgmt 0x12 k x)
    (hp : permitted g c n .reads) (hop : natBits c.q.cdw10 7 0 = 1) (hfdp : s.fl.ptx.fdp = true) :
    ∃ t, exec (.ioManagementReceive c) s = .next t ∧ endsInTurn s t k x
      ∧ t.out = (if x.ord && !(s.qce.predsCommitted x) then g.out else .data k (fit ((c.q.cdw11 + 1) * 4) (s.fl.handleStatus n)) :: g.out)
      ∧ t = { s with hfu := t.hfu, qce := t.qce, tas := t.tas, out := t.out } := by
  have f := taken_facts ht
  obtain ⟨hturn, hframe⟩ := f.endsIn (nsx := c.q.nsid - 1) (h := g) ht.2.2.2.2.2 rfl rfl rfl [] (fit ((c.q.cdw11 + 1) * 4) (s.fl.handleStatus n))
  rw [fit_ne_nil (by omega), Bool.or_false, List.foldl_nil, ite_self] at hframe
  refine ⟨_, ?_, hturn, ?_, ?_⟩
  · change execIoManagementReceive c s = _
    rw [execIoManagementReceive, State.onNs_goes ht hp (by simp [firstFailing, f.sqe, hop, hfdp]), f.sqe, f.fl]
  · rw [hframe]
    split <;> rfl
  · rw [hframe, f.frame]
    split <;> rfl

/-- Settles O23: the update, the ended unit and the status. -/
theorem placementHandles : Obligations.PlacementHandles :=
  ⟨fun _ _ _ _ _ _ _ ht hp hop hfdp hin => exec_ioManagementSend_ends ht hp hop hfdp hin, Flash.updateHandle_ends,
    fun _ _ _ _ _ _ ht hp hop hfdp => exec_ioManagementReceive_ends ht hp hop hfdp⟩

/-! ## Parity Compute -/

/-- A Parity Compute that passes its checks puts its job among the waiting ones and takes no range-lock entry. -/
theorem exec_parityCompute_waits {s g : State} {c : IoCmd} {d : PcDesc} {k : Nat} {x : Ctx} (ht : taken s g c .parity 0x83 k x) (hfab : x.fab = false)
    (hon : s.fl.dip.regs.bit .dipPccfg 31 = true) (hok : d.ok = true) (hal : d.aligned = true) (hptr : c.q.dptr0 % 4096 = 0)
    (hz : c.q.nsid + c.q.cdw10 + c.q.cdw11 + c.q.cdw12 + c.q.cdw13 + c.q.cdw14 + c.q.cdw15 = 0) (hpsdt : c.q.psdt = 0) :
    ∃ t y, exec (.parityCompute c d) s = .next t ∧ t.qce.ctx? k = some y ∧ y.state = .admitwait ∧ t.qce.locks = s.qce.locks
      ∧ Tab.get? t.fl.dip.pcJobs k = some ⟨k, c.inst, s.qce.fsn, d, s.clock.now, false⟩
      ∧ (∀ j, j ≠ k → t.qce.ctx? j = s.qce.ctx? j ∧ Tab.get? t.fl.dip.pcJobs j = Tab.get? s.fl.dip.pcJobs j)
      ∧ t = { s with hfu := t.hfu, qce := t.qce, tas := t.tas, out := t.out, fl := { s.fl with dip := { s.fl.dip with pcJobs := t.fl.dip.pcJobs } } } := by
  have f := taken_facts ht
  obtain ⟨y, hy⟩ : ∃ y, y = ({ x with state := .admitwait, admitWaitAt := s.clock.now } : Ctx) := ⟨_, rfl⟩
  obtain ⟨fl, hfl⟩ : ∃ fl, fl = ({ s.fl with dip := { s.fl.dip with pcJobs := Tab.set s.fl.dip.pcJobs k ⟨k, c.inst, s.qce.fsn, d, s.clock.now, false⟩ } } : Flash) := ⟨_, rfl⟩
  have hrest : atRest y = true := by
    rw [hy]
    simp [atRest, f.rlWait, f.side, f.detached]
  have hcalm : calm ({ (g.withFl fl).setCtx k y with tas := g.tas.admitting c.inst } : State) :=
    calm_of (calm_setCtx (s := g.withFl fl) (c := k) (calm_of (f.calm ht.2.2.2.2.2) rfl rfl) hrest) rfl rfl
  refine ⟨{ (g.withFl fl).setCtx k y with tas := g.tas.admitting c.inst }, y, ?_, Tab.get?_set_self _ _ _, by rw [hy], f.locks, ?_, fun j hj => ⟨?_, ?_⟩, ?_⟩
  · rw [← State.settle_calm hcalm]
    change execParityCompute c d s = _
    rw [execParityCompute, State.io_goes ht]
    dsimp only
    rw [hfl, hy, hfab, f.fl, hon, hz, hpsdt, hok, hal, hptr, f.fsn, f.clock]
    rfl
  · rw [hfl]
    exact Tab.get?_set_self _ _ _
  · simp only [State.setCtx, Qce.ctx?, State.withFl]
    rw [Tab.get?_set_ne _ _ hj, f.ctxs, Tab.get?_set_ne _ _ hj]
  · rw [hfl]
    exact Tab.get?_set_ne _ _ hj
  · rw [hfl, f.frame]
    rfl

/-- The next job starts when the engine is free and its staging fits (R292). -/
theorem exec_parityJobStart_starts {s : State} {k : Nat} {j : PcJob} {x : Ctx} (hruns : s.runs = true) (hnext : s.fl.dip.pcNext = some (k, j))
    (hx : s.qce.ctx? k = some x) (ho : x.open' = true) (hfree : s.fl.engineFree = true) (hfits : s.pcFits j = true) :
    ∃ t, exec .parityJobStart s = .next t ∧ t.qce.ctx? k = some { x with state := .data } ∧ (∀ i, i ≠ k → t.qce.ctx? i = s.qce.ctx? i)
      ∧ Tab.get? t.fl.dip.pcJobs k = some { j with running := true } ∧ t.fl.dip.lastPc = j.inst
      ∧ t = { s with qce := { s.qce with ctxs := t.qce.ctxs }, fl := { s.fl with dip := { s.fl.dip with pcJobs := t.fl.dip.pcJobs, lastPc := j.inst } } } := by
  refine ⟨{ s with
      fl := { s.fl with dip := { s.fl.dip with pcJobs := Tab.set s.fl.dip.pcJobs k { j with running := true }, lastPc := j.inst } }
      qce := s.qce.updCtx k fun y => { y with state := .data } }, ?_, Qce.updCtx_ctx hx _, fun i hi => Qce.updCtx_other hi _, Tab.get?_set_self _ _ _, rfl, rfl⟩
  change execParityJobStart s = _
  rw [execParityJobStart, State.whenRuns_on hruns, hnext]
  dsimp only
  rw [hx]
  dsimp only
  rw [hfree, hfits, ho]
  rfl

/-- A job that has not started in its time is deferred (R293). -/
theorem exec_parityJobTimeout_defers {s : State} {k : Nat} {j : PcJob} {x : Ctx} (hruns : s.runs = true) (hcalm : calm s)
    (hj : Tab.get? s.fl.dip.pcJobs k = some j) (hwait : j.running = false) (hx : s.qce.ctx? k = some x) (ho : x.open' = true) (hside : x.side = false)
    (hdet : x.detached = false) (hzone : x.zone = none) (hord : x.ord = false) (hdue : j.fetchedAt + s.fl.dip.regs.fld .dipPccfg 15 0 * msT ≤ s.clock.now) :
    ∃ t y, exec (.parityJobTimeout k) s = .next t ∧ t.qce.ctx? k = some y ∧ y.state = .completing ∧ y.status = ⟨7, 0x8C, false⟩
      ∧ (∀ i, i ≠ k → t.qce.ctx? i = s.qce.ctx? i) ∧ t.fl.ptx = { s.fl.ptx with growths := Tab.erase s.fl.ptx.growths k }
      ∧ t = { s with qce := t.qce, fl := t.fl } := by
  obtain ⟨d, m, hfin⟩ := State.fail_calm (st := ⟨7, 0x8C, false⟩) hcalm hx ho ⟨hside, hdet⟩ hzone hord rfl (by decide)
  have hexec : exec (.parityJobTimeout k) s = .next (s.fin k ⟨7, 0x8C, false⟩).settle := by
    change execParityJobTimeout k s = _
    rw [execParityJobTimeout, State.whenRuns_on hruns, hj]
    dsimp only
    rw [hwait, if_neg Bool.false_ne_true, State.until'_past hdue]
  exact ⟨_, _, hexec.trans (congrArg _ hfin), Qce.setDone_ctx _ hx, rfl, rfl, fun i hi => Qce.setDone_other _ hi, rfl, rfl⟩

/-- A running job hands out its outputs and completes (R291). -/
theorem exec_parityJobDone_writes {s : State} {k : Nat} {j : PcJob} {x : Ctx} (inputs outputs : List (List Nat)) (hruns : s.runs = true) (hcalm : calm s)
    (hj : Tab.get? s.fl.dip.pcJobs k = some j) (hrun : j.running = true) (hx : s.qce.ctx? k = some x) (ho : x.open' = true) (hside : x.side = false)
    (hdet : x.detached = false) (hflags : j.desc.flags ≠ 1) (hover : j.desc.overlap = false) :
    ∃ t y, exec (.parityJobDone k inputs outputs) s = .next t ∧ t.qce.ctx? k = some y ∧ y.state = .completing ∧ y.status = .success
      ∧ t.out = .data k ((j.desc.outputs inputs).flatMap fun o => o.map fun b => BitVec.ofNat 8 b) :: s.out
      ∧ (∀ i, i ≠ k → t.qce.ctx? i = s.qce.ctx? i) ∧ t = { s with qce := t.qce, out := t.out } := by
  obtain ⟨g, hg⟩ : ∃ g, g = s.emit (.data k ((j.desc.outputs inputs).flatMap fun o => o.map fun b => BitVec.ofNat 8 b)) := ⟨_, rfl⟩
  have hfin := State.done_calm (s := g) (c := k) (st := .success) (by rw [hg]; exact calm_of hcalm rfl rfl) (by rw [hg]; exact hx) ho ⟨hside, hdet⟩ rfl
  refine ⟨{ g with qce := g.qce.setDone k .success }, _, ?_, Qce.setDone_ctx .success (by rw [hg]; exact hx), rfl, rfl, by rw [hg]; rfl, fun i hi => ?_, by rw [hg]; rfl⟩
  · rw [← hfin]
    change execParityJobDone k inputs outputs s = _
    rw [execParityJobDone, State.whenRuns_on hruns, hj]
    dsimp only
    rw [hrun, if_pos rfl, if_neg hflags, hover, if_neg Bool.false_ne_true, ← hg]
  · rw [hg]
    exact Qce.setDone_other _ hi

/-- A verifying job that finds a difference ends with where the first one lies (R291). -/
theorem exec_parityJobDone_differs {s : State} {k o b : Nat} {j : PcJob} {x : Ctx} {inputs outputs : List (List Nat)} (hruns : s.runs = true) (hcalm : calm s)
    (hj : Tab.get? s.fl.dip.pcJobs k = some j) (hrun : j.running = true) (hx : s.qce.ctx? k = some x) (ho : x.open' = true) (hside : x.side = false)
    (hdet : x.detached = false) (hzone : x.zone = none) (hord : x.ord = false) (hflags : j.desc.flags = 1)
    (hdiff : firstDiff (j.desc.outputs inputs) outputs = some (b, o)) :
    ∃ t y, exec (.parityJobDone k inputs outputs) s = .next t ∧ t.qce.ctx? k = some y ∧ y.state = .completing ∧ y.status = .compareFailure
      ∧ y.dw0 = b ∧ y.dw1 = o ∧ (∀ i, i ≠ k → t.qce.ctx? i = s.qce.ctx? i) ∧ t.fl.ptx = { s.fl.ptx with growths := Tab.erase s.fl.ptx.growths k }
      ∧ t = { s with qce := t.qce, fl := t.fl } := by
  obtain ⟨z, hz⟩ : ∃ z, z = ({ x with dw0 := b, dw1 := o } : Ctx) := ⟨_, rfl⟩
  have hupd : s.updCtx k (fun x => { x with dw0 := b, dw1 := o }) = s.setCtx k z := by rw [State.updCtx_calm hcalm hx, hz]
  have hzx : (s.setCtx k z).qce.ctx? k = some z := Tab.get?_set_self _ _ _
  have hrest : atRest z = true := by
    rw [hz]
    exact (calm_atRest hcalm hx : atRest x = true)
  obtain ⟨d, m, hfin⟩ := State.fail_calm (st := .compareFailure) (calm_setCtx (c := k) hcalm hrest) hzx
    (by rw [hz]; exact ho) (by rw [hz]; exact ⟨hside, hdet⟩) (by rw [hz]; exact hzone) (by rw [hz]; exact hord) rfl (by decide)
  have hexec : exec (.parityJobDone k inputs outputs) s = .next ((s.setCtx k z).fin k .compareFailure).settle := by
    change execParityJobDone k inputs outputs s = _
    rw [execParityJobDone, State.whenRuns_on hruns, hj]
    dsimp only
    rw [hrun, if_pos rfl, if_pos hflags, hdiff]
    dsimp only
    rw [State.finWith, hupd]
  exact ⟨_, _, hexec.trans (congrArg _ hfin), Qce.setDone_ctx _ hzx, rfl, rfl, by rw [hz], by rw [hz],
    fun i hi => (Qce.setDone_other _ hi).trans (Tab.get?_set_ne _ _ hi), rfl, rfl⟩

/-- Settles O24: the job's wait, its start, its deferral and its two ends. -/
theorem parityCompute : Obligations.ParityCompute :=
  ⟨fun _ _ _ _ _ _ ht hfab hon hok hal hptr h0 h10 h11 h12 h13 h14 h15 hpsdt =>
      exec_parityCompute_waits ht hfab hon hok hal hptr (by omega) hpsdt,
    fun _ _ _ _ hruns hnext hx ho hfree hfits => exec_parityJobStart_starts hruns hnext hx ho hfree hfits,
    fun _ _ _ _ hruns hcalm hj hwait hx ho hside hdet hzone hord hdue => exec_parityJobTimeout_defers hruns hcalm hj hwait hx ho hside hdet hzone hord hdue,
    fun _ _ _ _ inputs outputs hruns hcalm hj hrun hx ho hside hdet hflags hover =>
      exec_parityJobDone_writes inputs outputs hruns hcalm hj hrun hx ho hside hdet hflags hover,
    fun _ _ _ _ _ _ _ _ hruns hcalm hj hrun hx ho hside hdet hzone hord hflags hdiff =>
      exec_parityJobDone_differs hruns hcalm hj hrun hx ho hside hdet hzone hord hflags hdiff⟩

end Sys2Proof.Machine
end

section
/-! The fetch of commands, their admission, and the grant of a freed range-lock entry (R73, R81, R119, R147). -/

namespace Sys2Proof.Machine

open Safety

/-! ## Fetch -/

theorem Qce.updSq_sq {q : Qce} {i qid : Nat} {s : Sq} (h : q.sq? i qid = some s) (f : Sq → Sq) : (q.updSq i qid f).sq? i qid = some (f s) :=
  Tab.get?_upd_self h

theorem Qce.updSq_other (q : Qce) (i qid : Nat) (f : Sq → Sq) {k : Nat} (h : k ≠ qKey i qid) : Tab.get? (q.updSq i qid f).sqs k = Tab.get? q.sqs k := by
  rw [Qce.updSq, Tab.get?_upd, if_neg h]

/-- Noting an exhausted pool touches a register only. -/
theorem Qce.noteEmpty_frame (q : Qce) : ∃ r, q.noteEmpty = { q with regs := r } := by
  unfold Qce.noteEmpty
  split
  · exact ⟨_, rfl⟩
  · exact ⟨q.regs, rfl⟩

/-- Contexts held for a queue come from its reserve first (R73). -/
theorem Qce.hold_eq {q : Qce} {inst qid : Nat} {s : Sq} (n : Nat) (h : q.sq? inst qid = some s) :
    ∃ r f, q.hold inst qid n = { q.updSq inst qid f with regs := r }
      ∧ f s = { s with reserve := s.reserve - min n s.reserve, heldRes := s.heldRes + min n s.reserve, heldSh := s.heldSh + (n - min n s.reserve) } := by
  rw [Qce.hold, h]
  obtain ⟨r, hr⟩ := Qce.noteEmpty_frame (q.updSq inst qid fun t => { t with
    reserve := t.reserve - min n s.reserve, heldRes := t.heldRes + min n s.reserve, heldSh := t.heldSh + (n - min n s.reserve) })
  exact ⟨r, _, hr, rfl⟩

/-- Holding contexts for a queue and noting what its read takes: the queue's new content; every other queue and table is left alone. -/
theorem Qce.hold_updSq {q : Qce} {inst qid : Nat} {sq : Sq} (n : Nat) (f : Sq → Sq) (h : q.sq? inst qid = some sq) :
    ((q.hold inst qid n).updSq inst qid f).sq? inst qid
        = some (f { sq with reserve := sq.reserve - min n sq.reserve, heldRes := sq.heldRes + min n sq.reserve, heldSh := sq.heldSh + (n - min n sq.reserve) })
      ∧ (∀ k, k ≠ qKey inst qid → Tab.get? ((q.hold inst qid n).updSq inst qid f).sqs k = Tab.get? q.sqs k)
      ∧ ((q.hold inst qid n).updSq inst qid f).ctxs = q.ctxs ∧ ((q.hold inst qid n).updSq inst qid f).insts = q.insts
      ∧ ((q.hold inst qid n).updSq inst qid f).cqs = q.cqs ∧ ((q.hold inst qid n).updSq inst qid f).locks = q.locks := by
  obtain ⟨r, held, hr, hheld⟩ := Qce.hold_eq n h
  have hown : (q.hold inst qid n).sq? inst qid = some (held sq) := hr ▸ Tab.get?_upd_self h
  have hoth : ∀ k, k ≠ qKey inst qid → Tab.get? (q.hold inst qid n).sqs k = Tab.get? q.sqs k := fun k hk => hr ▸ Qce.updSq_other q _ _ held hk
  refine ⟨hheld ▸ Qce.updSq_sq hown f, fun k hk => (Qce.updSq_other _ _ _ _ hk).trans (hoth k hk), ?_, ?_, ?_, ?_⟩
  all_goals rw [hr]; rfl

/-- The read that a choice of a queue issues takes entries of a PCIe queue, or capsules of an Ethernet one, and the deficit pays for it. -/
theorem exec_sqFetchIssue_holds {s : State} {inst qid place : Nat} {d : Tab Int} {credits : Tab Nat} {i : Inst} {q : Sq} (hf : s.fetches = true)
    (hturn : s.qce.turn (fun i => ((Tab.get? s.tas.insts i).map (·.cur.weight)).getD 64) = some (inst, d)) (hi : s.qce.inst? inst = some i)
    (hsq : s.qce.sqTurn inst i = some (qid, place, credits)) (hq : s.qce.sq? inst qid = some q) :
    ∃ t r n, exec .sqFetchIssue s = .next t ∧ r = min n q.reserve
      ∧ (i.eth = false → n = min (q.readable i.burst) (s.qce.obtainable inst qid)
        ∧ t.qce.sq? inst qid = some { q with reads := q.reads ++ [n], reserve := q.reserve - r, heldRes := q.heldRes + r, heldSh := q.heldSh + (n - r) })
      ∧ (i.eth = true → n = min (min i.burst q.capsules.length) (s.qce.obtainable inst qid)
        ∧ t.qce.sq? inst qid = some { q with capsules := q.capsules.drop n, heldBytes := q.heldBytes ++ q.capsules.take n, reserve := q.reserve - r, heldRes := q.heldRes + r, heldSh := q.heldSh + (n - r) })
      ∧ Tab.getD t.qce.deficit inst 0 = Tab.getD d inst 0 - (fetchCost * n : Nat) ∧ Tab.getD t.qce.lastSq place 511 = qid
      ∧ t.qce.ctxs = s.qce.ctxs ∧ t.qce.insts = s.qce.insts ∧ t.qce.cqs = s.qce.cqs ∧ t.qce.locks = s.qce.locks
      ∧ (∀ k, k ≠ qKey inst qid → Tab.get? t.qce.sqs k = Tab.get? s.qce.sqs k) ∧ t = { s with qce := t.qce } := by
  obtain ⟨n, hn⟩ : ∃ n, n = if i.eth then min (min i.burst q.capsules.length) (s.qce.obtainable inst qid)
      else min (q.readable i.burst) (s.qce.obtainable inst qid) := ⟨_, rfl⟩
  obtain ⟨takes, htakes⟩ : ∃ f : Sq → Sq, f = fun s =>
      if i.eth then { s with capsules := s.capsules.drop n, heldBytes := s.heldBytes ++ s.capsules.take n } else { s with reads := s.reads ++ [n] } := ⟨_, rfl⟩
  obtain ⟨hown, hoth, hctxs, hinsts, hcqs, hlocks⟩ := Qce.hold_updSq n takes hq
  have hexec : exec .sqFetchIssue s = .next { s with qce := { (s.qce.hold inst qid n).updSq inst qid takes with
      deficit := Tab.set d inst (Tab.getD d inst 0 - (fetchCost * n : Nat))
      lastInst := if Tab.getD d inst 0 - (fetchCost * n : Nat) < (fetchCost : Int) then inst + 1 else inst
      lastSq := Tab.set ((s.qce.hold inst qid n).updSq inst qid takes).lastSq place qid, credits := credits } } := by
    change execSqFetchIssue s = _
    rw [execSqFetchIssue, hf, if_pos rfl, Qce.issueFetch, hturn]
    dsimp only
    rw [hi]
    dsimp only
    rw [hsq]
    dsimp only
    rw [hq]
    dsimp only
    rw [← hn, ← htakes]
  refine ⟨_, _, n, hexec, rfl, fun he => ⟨?_, ?_⟩, fun he => ⟨?_, ?_⟩, Tab.getD_set_self _ _ _ _, Tab.getD_set_self _ _ _ _, hctxs, hinsts, hcqs, hlocks, hoth, rfl⟩
  · rw [hn, he, if_neg Bool.false_ne_true]
  · refine hown.trans ?_
    rw [htakes, he]
    rfl
  · rw [hn, he, if_pos rfl]
  · refine hown.trans ?_
    rw [htakes, he]
    rfl

/-! ## Admission -/

/-- Admission sends a reading command to translation. -/
theorem Ctx.letIn_reads {x : Ctx} (h : x.kind = .read ∨ x.kind = .compare ∨ x.kind = .verify) (now w u ep : Nat) (within covered : Bool) :
    x.letIn now w u ep within covered = { x with
      admitted := true, waymark := w, wu := u, admitTime := now - x.admitWaitAt, admitEpoch := ep, inShare := within, covered := covered
      state := .translate } := by
  unfold Ctx.letIn
  obtain h | h | h := h
  all_goals rw [h]

/-- The candidate that TAS picks is let in; a reading one waits for translation under its waymark. -/
theorem exec_admitCommand_translates {s : State} {k : Cand} {x : Ctx} (hruns : s.runs = true) (hcalm : calm s)
    (hpick : s.tas.pick s.inWindow s.oasisLoad s.fl.ptx.limit s.cands = some k) (hx : s.qce.ctx? k.ctx = some x)
    (hkind : x.kind = .read ∨ x.kind = .compare ∨ x.kind = .verify) (hside : x.side = false) (hdet : x.detached = false) (hw : x.rlWait = false) :
    ∃ t y, exec .admitCommand s = .next t ∧ t.qce.ctx? k.ctx = some y ∧ y.state = .translate ∧ y.admitted = true ∧ y.waymark = s.waymarkOf x
      ∧ y.wu = (s.cost x).1 ∧ y.rds = x.rds ∧ y.mods = x.mods ∧ (∀ j, j ≠ k.ctx → t.qce.ctx? j = s.qce.ctx? j)
      ∧ t = { s with qce := { s.qce with ctxs := t.qce.ctxs, shut := t.qce.shut }, tas := t.tas } := by
  have hlet : ∃ y sh tas ep wi co, s.letIn k.ctx x = { s with qce := { s.qce with ctxs := Tab.set s.qce.ctxs k.ctx y, shut := sh }, tas := tas }
      ∧ y = x.letIn s.clock.now (s.waymarkOf x) (s.cost x).1 ep wi co := by
    unfold State.letIn
    dsimp only
    rw [Qce.judgeShut_frame]
    exact ⟨_, _, _, _, _, _, rfl, rfl⟩
  obtain ⟨y, sh, tas, ep, wi, co, hlet, hy⟩ := hlet
  rw [Ctx.letIn_reads hkind] at hy
  have hrest : atRest y = true := by
    rw [hy]
    simp [atRest, hw, hside, hdet]
  have hexec : exec .admitCommand s = .next (s.letIn k.ctx x).settle := by
    change execAdmitCommand s = _
    rw [execAdmitCommand, State.whenRuns_on hruns, hpick]
    dsimp only
    rw [hx]
  rw [hlet] at hexec
  refine ⟨_, y, hexec.trans (congrArg _ (State.settle_calm (calm_of (calm_setCtx hcalm hrest) rfl rfl))), Tab.get?_set_self _ _ _, ?_, ?_, ?_, ?_, ?_, ?_,
    fun j hj => Tab.get?_set_ne _ _ hj, rfl⟩
  all_goals rw [hy]

/-! ## The grant of an entry -/

/-- A Write that waits alone for a range-lock entry takes a free one and goes on to admission (R119). -/
theorem exec_rangeLockEntryGrant_waits {s : State} {c nsx lo len : Nat} {x : Ctx} {n : Ns} (hruns : s.runs = true) (hsan : s.sec.sanitize = none)
    (hctxs : s.qce.ctxs = [(c, x)]) (hwait : x.rlWait = true) (hkind : x.kind = .write) (hside : x.side = false) (hdet : x.detached = false)
    (hx : x.nsx = some nsx) (hmods : x.mods = [⟨lo, len + 1⟩]) (hrds : x.rds = []) (hn : s.fl.ns? nsx = some n) (hw : s.tas.wcost ≠ 0) (hu : unlocked s nsx) :
    ∃ t y r, exec .rangeLockEntryGrant s = .next t ∧ t.qce.ctx? c = some y ∧ y.state = .admitwait ∧ y.rlWait = false ∧ y.rlidx = some r
      ∧ t.qce.locks = Tab.set s.qce.locks r ⟨nsx, lo, len + 1, x.fsn, c⟩
      ∧ t = { s with qce := { s.qce with ctxs := t.qce.ctxs, locks := t.qce.locks }, tas := t.tas } := by
  -- the device without the waiting context is calm: to grant is to take the entry for a context that arrives there
  obtain ⟨s0, hs0⟩ : ∃ s0, s0 = ({ s with qce := { s.qce with ctxs := [] } } : State) := ⟨_, rfl⟩
  have hback : s = s0.setCtx c x := by
    have hq : ({ s.qce with ctxs := [(c, x)] } : Qce) = s.qce := by rw [← hctxs]
    rw [hs0]
    exact (congrArg (fun q => ({ s with qce := q } : State)) hq).symm
  have hcalm : calm s0 := by
    rw [hs0]
    exact ⟨hsan, fun e he => absurd he List.not_mem_nil, rfl⟩
  have hna : x.kind ≠ .admin := by simp [hkind]
  have hin : ∀ p ∈ x.spans, p.1 = nsx := Ctx.spans_in hx hna (by simp [hrds])
  obtain ⟨r, m, l, hroute, hafter⟩ := State.lockAndRoute_waits (s := s0) (c := c) (nsx := nsx) (z := x) (sp := ⟨lo, len + 1⟩) hcalm hna ⟨hside, hdet⟩
    (Ctx.lockSpans_one hx hna (by rw [hmods]; exact hull_one _ _)) (by rw [hs0]; exact hu.1)
    (fun e he p hp => by rw [hs0] at he; exact fun q => hu.2 e he (q.symm.trans (hin p hp)))
    (fun f => by rw [hs0]; exact Tab.upd_single c x f) (State.cost_writes hx (by rw [hs0]; exact hn) (.inl hkind) hmods (by rw [hs0]; exact hw))
  rw [← hback] at hroute hafter
  have hexec : exec .rangeLockEntryGrant s = .next (s.lockAndRoute c).settle := by
    have hfirst : s.qce.firstWaiter = some c := by simp [Qce.firstWaiter, hctxs, hwait, firstFsn]
    change execRangeLockEntryGrant s = _
    rw [execRangeLockEntryGrant, State.whenRuns_on hruns, if_pos hu.1, hfirst]
  rw [State.settle_calm hafter, hroute] at hexec
  refine ⟨_, _, r, hexec, Tab.get?_set_self _ _ _, rfl, rfl, rfl, by rw [hs0], ?_⟩
  rw [hs0]

/-- Settles O25: the choice of a queue, the admission of a read and the grant of an entry. -/
theorem fetchAndAdmission : Obligations.FetchAndAdmission :=
  ⟨fun _ _ _ _ _ _ _ _ hf hturn hi hsq hq => exec_sqFetchIssue_holds hf hturn hi hsq hq,
    fun _ _ _ _ hi hruns hcalm hpick hx hkind hside hdet hw => hi ▸ exec_admitCommand_translates hruns hcalm hpick hx hkind hside hdet hw,
    fun _ _ _ _ _ _ _ hruns hsan hctxs hwait _ hkind hside hdet hx hmods hrds hn hw hu =>
      exec_rangeLockEntryGrant_waits hruns hsan hctxs hwait hkind hside hdet hx hmods hrds hn hw hu⟩

end Sys2Proof.Machine
end

section
/-! A read's way through translation, media, lane and transfer (R17, R18). -/

namespace Sys2Proof.Machine

open Safety

/-! ## What a translation leaves -/

/-- Looking map entries up moves the entry cache only. -/
theorem Ptx.touches_cache (p : Ptx) (nsx : Nat) (ius : List Nat) :
    ∃ c, ius.foldl (fun (p : Ptx) iu => p.touch nsx iu false) p = { p with cache := c } := by
  induction ius generalizing p with
  | nil => exact ⟨p.cache, rfl⟩
  | cons iu ius ih =>
    obtain ⟨c, hc⟩ := ih (p.touch nsx iu false)
    exact ⟨c, hc⟩

/-- The flash side with another content of its entry cache. -/
def Flash.withCache (f : Flash) (c : Tab (List (Nat × Bool))) : Flash := { f with ptx := { f.ptx with cache := c } }

/-- The context of a read whose blocks are at hand, or that asks the media for some (R17). -/
def Ctx.translated (x : Ctx) (r : Translated) : Ctx := { x with state := .data, cells := r.cells, arrived := !r.oasis }
def Ctx.toMedia (x : Ctx) (r : Translated) (covered : Bool) : Ctx :=
  { x with
    state := .media, cells := r.cells, arrived := !r.oasis, frames := r.media.map fun e => (e.1, dieCluster (e.2 / 2 ^ 27))
    cmask := ((clustersOf r.media).map fun k => 2 ^ k).sum, covered := x.covered && covered }

/-- What follows a translation: a lost block ends the command, blocks at hand go to DATA, and others wait for the media (R17). -/
theorem exec_translateComplete_goes {s : State} {k nsx : Nat} {x : Ctx} {n : Ns} {r : Translated} (hruns : s.runs = true) (hx : s.qce.ctx? k = some x)
    (hstate : x.state = .translate) (hnsx : x.nsx = some nsx) (hn : s.fl.ns? nsx = some n) (hr : r = s.translate n nsx (lbasOf x.rds)) :
    ∃ c, exec (.translateComplete k) s = .next (
      if r.lost then ((s.withFl (s.fl.withCache c)).fin k (.unrecovered true)).settle
      else if r.media.isEmpty then ((s.withFl (s.fl.withCache c)).setCtx k (x.translated r)).settle
      else ((s.withFl (s.fl.withCache c)).setCtx k (x.toMedia r (s.contract (clustersOf r.media)))).told
        ((s.fl.withCache c).readFrames s.clock.now k (x.toMedia r (s.contract (clustersOf r.media))) r.media)) := by
  obtain ⟨c, hc⟩ := Ptx.touches_cache s.fl.ptx nsx (distinct ((lbasOf x.rds).map fun l => l % 2 ^ 48 / n.perIu))
  have hbind : x.nsx.bind s.fl.ns? = some n := by rw [hnsx]; exact hn
  have hget : x.nsx.getD 0 = nsx := by rw [hnsx]; rfl
  refine ⟨c, ?_⟩
  change execTranslateComplete k s = _
  rw [execTranslateComplete, State.whenRuns_on hruns, hx]
  dsimp only
  rw [hstate, hbind]
  simp only [hget, hc, ← hr]
  rfl

/-- A read whose blocks are all at hand goes to DATA. -/
theorem exec_translateComplete_data {s : State} {k nsx : Nat} {x : Ctx} {n : Ns} {r : Translated} (hruns : s.runs = true) (hcalm : calm s)
    (hx : s.qce.ctx? k = some x) (hstate : x.state = .translate) (hnsx : x.nsx = some nsx) (hn : s.fl.ns? nsx = some n) (henc : x.encrypted = false)
    (hw : x.rlWait = false) (hside : x.side = false) (hdet : x.detached = false) (hr : r = s.translate n nsx (lbasOf x.rds)) (hlost : r.lost = false)
    (hmedia : r.media = []) :
    ∃ t, exec (.translateComplete k) s = .next t ∧ t.qce.ctx? k = some { x with state := .data, cells := r.cells, arrived := !r.oasis }
      ∧ (∀ j, j ≠ k → t.qce.ctx? j = s.qce.ctx? j)
      ∧ t = { s with qce := { s.qce with ctxs := t.qce.ctxs }, fl := { s.fl with ptx := { s.fl.ptx with cache := t.fl.ptx.cache } } } := by
  obtain ⟨c, hexec⟩ := exec_translateComplete_goes hruns hx hstate hnsx hn hr
  have hrest : atRest (x.translated r) = true := by simp [atRest, Ctx.translated, henc, hw, hside, hdet]
  have hcalm' : calm ((s.withFl (s.fl.withCache c)).setCtx k (x.translated r)) := calm_setCtx (s := s.withFl (s.fl.withCache c)) hcalm hrest
  rw [hlost, hmedia, if_neg Bool.false_ne_true, List.isEmpty_nil, if_pos rfl, State.settle_calm hcalm'] at hexec
  exact ⟨_, hexec, Tab.get?_set_self _ _ _, fun j hj => Tab.get?_set_ne _ _ hj, rfl⟩

/-- A read that meets a lost block ends with it, and counts a media error (R457). -/
theorem exec_translateComplete_lost {s : State} {k nsx : Nat} {x : Ctx} {n : Ns} {r : Translated} (hruns : s.runs = true) (hcalm : calm s)
    (hx : s.qce.ctx? k = some x) (hstate : x.state = .translate) (hnsx : x.nsx = some nsx) (hn : s.fl.ns? nsx = some n)
    (hside : x.side = false) (hdet : x.detached = false) (hr : r = s.translate n nsx (lbasOf x.rds)) (hlost : r.lost = true)
    (hord : x.ord = false) (hzone : x.zone = none) :
    ∃ t y, exec (.translateComplete k) s = .next t ∧ t.qce.ctx? k = some y ∧ y.state = .completing ∧ y.status = .unrecovered true
      ∧ t.fl.ptx = { s.fl.ptx with cache := t.fl.ptx.cache, mediaErrors := s.fl.ptx.mediaErrors + 1, growths := Tab.erase s.fl.ptx.growths k }
      ∧ (∀ j, j ≠ k → t.qce.ctx? j = s.qce.ctx? j) ∧ t = { s with qce := t.qce, fl := t.fl } := by
  obtain ⟨c, hexec⟩ := exec_translateComplete_goes hruns hx hstate hnsx hn hr
  obtain ⟨d, m, hfin⟩ := State.lost_calm (s := s.withFl (s.fl.withCache c)) (c := k) (st := .unrecovered true) hcalm hx (by simp [Ctx.open', hstate])
    ⟨hside, hdet⟩ hzone hord rfl ⟨rfl, rfl⟩
  rw [hlost, if_pos rfl, hfin] at hexec
  exact ⟨_, _, hexec, Qce.setDone_ctx _ hx, rfl, rfl, rfl, fun j hj => Qce.setDone_other _ hj, rfl⟩

/-! ## A read of one frame -/

/-- Reading one frame that its unit still holds: the bands stay, and a host read waits on the frame's die (R236). -/
theorem Flash.readFrames_one {f : Flash} {l loc : Nat} (now k : Nat) (y : Ctx) (h : f.lostUnit (loc / 2 ^ 27) (loc / 2 ^ 15 % 4096) = false) :
    ∃ j p m, f.readFrames now k y [(l, loc)]
        = ({ f with ptx := p, dip := { f.dip with jobs := Tab.set f.dip.jobs f.ptx.nextId j }, mbe := { f.mbe with dies := m } }, [])
      ∧ j.purpose = .host k l ∧ j.loc = loc ∧ j.waymark = some (y.waymark % 2 ^ 32) ∧ j.stage = .queued
      ∧ (Tab.getD m j.die Die.idle).host = (f.die j.die).host ++ [f.ptx.nextId]
      ∧ p = { f.ptx with holds := p.holds, nextId := p.nextId } := by
  obtain ⟨p, hp⟩ : ∃ p, p = ({ f.ptx with
      holds := (distinct ([(l, loc)].filterMap fun e => (f.bandOf (e.2 / 2 ^ 27) (e.2 / 2 ^ 15 % 4096)).map Prod.fst)).map (fun b => (k, b)) ++ f.ptx.holds
      nextId := f.ptx.nextId + 1 } : Ptx) := ⟨_, rfl⟩
  obtain ⟨j, hj⟩ : ∃ j, j = ({ f with ptx := p } : Flash).newJob (.host k l) loc (some (y.waymark % 2 ^ 32)) y.fsn y.fetchedAt y.lr := ⟨_, rfl⟩
  have hlost : ({ f with ptx := p } : Flash).lostUnit (loc / 2 ^ 27) (loc / 2 ^ 15 % 4096) = false := h
  have hread : f.readFrames now k y [(l, loc)] = (({ f with ptx := p } : Flash).queueRead now f.ptx.nextId j, []) := by
    rw [Flash.readFrames, forEach, List.foldl_cons, List.foldl_nil, thenDo]
    simp only [Flash.startRead, Flash.nextId, ← hp, ← hj, hlost, if_false, Bool.false_eq_true, List.nil_append]
  have hqueue : ({ f with ptx := p } : Flash).queueRead now f.ptx.nextId j
      = { f with
          ptx := p, dip := { f.dip with jobs := Tab.set f.dip.jobs f.ptx.nextId j }
          mbe := { f.mbe with dies := Tab.set f.mbe.dies j.die { f.die j.die with host := (f.die j.die).host ++ [f.ptx.nextId] } } } := by
    rw [Flash.queueRead, hj]
    rfl
  refine ⟨j, p, _, hread.trans (congrArg (·, []) hqueue), ?_, ?_, ?_, ?_, ?_, by rw [hp]⟩
  · rw [hj]; rfl
  · rw [hj]; rfl
  · rw [hj]; rfl
  · rw [hj]; rfl
  · rw [Tab.getD_set_self]

/-- A read of one frame from the media: its job waits on the frame's die. -/
theorem exec_translateComplete_media {s : State} {k nsx l loc : Nat} {x : Ctx} {n : Ns} {r : Translated} (hruns : s.runs = true) (hstill : still s)
    (hx : s.qce.ctx? k = some x) (hstate : x.state = .translate) (hnsx : x.nsx = some nsx) (hn : s.fl.ns? nsx = some n)
    (hw : x.rlWait = false) (hside : x.side = false) (hdet : x.detached = false) (hr : r = s.translate n nsx (lbasOf x.rds)) (hlost : r.lost = false)
    (hmedia : r.media = [(l, loc)]) (hunit : s.fl.lostUnit (loc / 2 ^ 27) (loc / 2 ^ 15 % 4096) = false) :
    ∃ t y j, exec (.translateComplete k) s = .next t ∧ t.qce.ctx? k = some y ∧ y.state = .media ∧ y.frames = [(l, dieCluster (loc / 2 ^ 27))] ∧ y.cells = r.cells
      ∧ Tab.get? t.fl.dip.jobs s.fl.ptx.nextId = some j ∧ j.purpose = .host k l ∧ j.loc = loc ∧ j.waymark = some (x.waymark % 2 ^ 32) ∧ j.stage = .queued
      ∧ (t.fl.die j.die).host = (s.fl.die j.die).host ++ [s.fl.ptx.nextId]
      ∧ (∀ j, j ≠ k → t.qce.ctx? j = s.qce.ctx? j)
      ∧ t = { s with qce := { s.qce with ctxs := t.qce.ctxs }, fl := { s.fl with ptx := t.fl.ptx, dip := { s.fl.dip with jobs := t.fl.dip.jobs }, mbe := t.fl.mbe } } := by
  obtain ⟨c, hexec⟩ := exec_translateComplete_goes hruns hx hstate hnsx hn hr
  obtain ⟨y, hy⟩ : ∃ y, y = x.toMedia r (s.contract (clustersOf r.media)) := ⟨_, rfl⟩
  obtain ⟨j, p, m, hread, hpur, hloc, hway, hstage, hhost, hp⟩ := Flash.readFrames_one (f := s.fl.withCache c) (l := l) s.clock.now k y hunit
  obtain ⟨hcalm, hwprot, hwarn⟩ := hstill
  have hrest : atRest y = true := by simp [atRest, hy, Ctx.toMedia, hw, hside, hdet]
  generalize hg : ({ s.fl.withCache c with
    ptx := p, dip := { (s.fl.withCache c).dip with jobs := Tab.set (s.fl.withCache c).dip.jobs (s.fl.withCache c).ptx.nextId j }
    mbe := { (s.fl.withCache c).mbe with dies := m } } : Flash) = g at hread
  have hstill' : still (((s.withFl (s.fl.withCache c)).setCtx k y).withFl g) := by
    refine ⟨calm_setCtx (s := s.withFl g) hcalm hrest, ?_, ?_⟩
    · rw [← hg, hp]; exact hwprot
    · rw [← hg, hp]; exact hwarn
  rw [← hy, hlost, if_neg Bool.false_ne_true, hmedia, List.isEmpty_cons, if_neg Bool.false_ne_true, hread, State.told_still hstill'] at hexec
  refine ⟨_, y, j, hexec, Tab.get?_set_self _ _ _, ?_, ?_, ?_, ?_, hpur, hloc, ?_, hstage, ?_, fun j hj => Tab.get?_set_ne _ _ hj, ?_⟩
  · rw [hy]; rfl
  · rw [hy, Ctx.toMedia, hmedia]; rfl
  · rw [hy]; rfl
  · rw [← hg]; exact Tab.get?_set_self _ _ _
  · rw [hway, hy]; rfl
  · rw [← hg]; exact hhost
  · rw [← hg]; rfl

/-! ## Lane and transfer -/

/-- In a calm device one context becomes ready for its lane's result: `settle` looks at it alone. -/
theorem State.settle_ready {s : State} {k : Nat} {y : Ctx} (hcalm : calm s) (hstall : y.stalls = true) (h : calm ((s.setCtx k y).settleCtx k)) :
    (s.setCtx k y).settle = (s.setCtx k y).settleCtx k :=
  State.settle_one (s := s.setCtx k y) rfl hcalm.2.1 hstall h

/-- The blocks of a Read in its turn are ready for the host. -/
theorem State.tryDeliver_read {s : State} {k : Nat} {x : Ctx} (hkind : x.kind = .read) (hord : x.ord = false) :
    s.tryDeliver k x = s.updCtx k fun y => { y with recorded := true } := by
  unfold State.tryDeliver
  rw [hord, hkind]
  rfl

/-- A Read whose blocks have passed the checker has them delivered. -/
theorem State.settle_delivers {s : State} {k : Nat} {y : Ctx} (hcalm : calm s) (hkind : y.kind = .read) (hstate : y.state = .data) (henc : y.encrypted = true)
    (hrec : y.recorded = false) (hord : y.ord = false) (hw : y.rlWait = false) (hside : y.side = false) (hdet : y.detached = false) :
    (s.setCtx k y).settle = s.setCtx k { y with recorded := true } := by
  have hy : (s.setCtx k y).qce.ctx? k = some y := Tab.get?_set_self _ _ _
  obtain ⟨w, hdone⟩ : ∃ w, w = ({ y with recorded := true } : Ctx) := ⟨_, rfl⟩
  rw [← hdone]
  have hgo : (s.setCtx k y).settleCtx k = s.setCtx k w := by
    have hupd : (s.setCtx k y).updCtx k (fun y => { y with recorded := true }) = s.setCtx k w := by
      rw [hdone]
      simp only [State.updCtx, Qce.updCtx, State.setCtx]
      rw [Tab.upd_eq_set (Tab.rising_set hcalm.2.2 _ _) hy, Tab.set_set]
    have hends : y.kind.ends = false := by rw [hkind]; rfl
    have hgo : (y.encrypted && !y.recorded) = true := by rw [henc, hrec]; rfl
    have hreads : (y.kind.reads && y.kind != .copy) = true := by rw [hkind]; rfl
    rw [State.settleCtx, hy]
    dsimp only
    rw [hstate]
    dsimp only
    rw [hgo, hends, hreads, State.tryDeliver_read hkind hord, hupd]
    rfl
  have hrest : atRest w = true := by simp [atRest, hdone, hstate, hw, hside, hdet]
  have hstall : y.stalls = true := by simp [Ctx.stalls, hstate, henc, hrec]
  rw [State.settle_ready hcalm hstall (hgo ▸ calm_setCtx hcalm hrest), hgo]

/-- The lane of a read in DATA whose data has come (R367). -/
theorem exec_xtsDecryptDone_goes {s : State} {k nsx : Nat} {x : Ctx} {n : Ns} (o : LaneOutcome) (hruns : s.runs = true) (hx : s.qce.ctx? k = some x)
    (hnsx : x.nsx = some nsx) (hn : s.fl.ns? nsx = some n) (hkind : x.kind = .read) (hstate : x.state = .data) (harr : x.arrived = true)
    (henc : x.encrypted = false) :
    exec (.xtsDecryptDone k o) s = .next (match o with
      | .mismatch lane => s.laneMismatch false lane
      | .ok => match s.decrypt x n with
        | .error st => (s.fin k st).settle
        | .ok bs => (s.checkRead k x n bs).settle) := by
  have hbind : x.nsx.bind s.fl.ns? = some n := by rw [hnsx]; exact hn
  have hgo : (x.kind.reads && x.state == .data && x.arrived && !x.encrypted && !(x.kind == .copy && x.given.isSome)) = true := by
    rw [hkind, hstate, harr, henc]
    rfl
  change execXtsDecryptDone k o s = _
  rw [execXtsDecryptDone, State.whenRuns_on hruns, hx]
  dsimp only
  rw [hbind]
  dsimp only
  rw [if_pos hgo] <;> rfl

/-- A lane that the checker of its rounds stops is fenced and reported; its frame is redone on another (R367). -/
theorem State.laneMismatch_fences {s : State} {write : Bool} {lane : Nat} {c : Sec}
    (hc : c = ({ s.sec with regs := s.sec.regs.setFld .secXtsstat 30 30 1 } : Sec).fence write lane) (hsome : c.allFenced write = false) :
    s.laneMismatch write lane = { s with sec := c, fev := s.fev.report (c.fenceReport write lane) s.stamp } := by
  have hmild : (c.fenceReport write lane).mild = true := by
    rw [Sec.fenceReport, hsome]
    rfl
  simp only [State.laneMismatch, Sec.laneFault, State.reports, List.foldl_cons, List.foldl_nil, ← hc]
  rw [State.report_mild hmild]
  rfl

/-- A command in DATA that fails ends with its status. -/
theorem State.data_fails {s : State} {k : Nat} {x : Ctx} {st : Status} (hcalm : calm s) (hx : s.qce.ctx? k = some x) (hstate : x.state = .data)
    (hside : x.side = false) (hdet : x.detached = false) (hzone : x.zone = none) (hord : x.ord = false) (hok : st.isOk = false)
    (hne : ¬ (st.sct = 2 ∧ st.sc = 0x81)) :
    ∃ t y, (s.fin k st).settle = t ∧ t.qce.ctx? k = some y ∧ y.state = .completing ∧ y.status = st
      ∧ (∀ j, j ≠ k → t.qce.ctx? j = s.qce.ctx? j) ∧ t.fl.ptx = { s.fl.ptx with growths := Tab.erase s.fl.ptx.growths k } ∧ t = { s with qce := t.qce, fl := t.fl } := by
  obtain ⟨d, m, h⟩ := State.fail_calm hcalm hx (by simp [Ctx.open', hstate]) ⟨hside, hdet⟩ hzone hord hok hne
  exact ⟨_, _, h, Qce.setDone_ctx _ hx, rfl, rfl, fun j hj => Qce.setDone_other _ hj, rfl, rfl⟩

/-- Decrypted blocks that pass the checker are the read's, ready for their transfer. -/
theorem exec_xtsDecryptDone_passes {s : State} {k nsx : Nat} {x : Ctx} {n : Ns} {bs : List LBlock} (hruns : s.runs = true) (hcalm : calm s)
    (hx : s.qce.ctx? k = some x) (hnsx : x.nsx = some nsx) (hn : s.fl.ns? nsx = some n) (hkind : x.kind = .read) (hstate : x.state = .data)
    (harr : x.arrived = true) (henc : x.encrypted = false) (hrec : x.recorded = false) (hord : x.ord = false) (hside : x.side = false) (hdet : x.detached = false)
    (hdec : s.decrypt x n = .ok bs) (hpi : n.piStatus x.prchk x.lbat x.lbatm x.ilbrt bs = none) :
    ∃ t, exec (.xtsDecryptDone k .ok) s = .next t
      ∧ t.qce.ctx? k = some { x with blocks := if x.pract && n.pit != 0 then bs.map fun b => { b with pi := ⟨0, 0, 0, 0⟩ } else bs, encrypted := true, recorded := true }
      ∧ (∀ j, j ≠ k → t.qce.ctx? j = s.qce.ctx? j) ∧ t = { s with qce := { s.qce with ctxs := t.qce.ctxs } } := by
  have hexec := exec_xtsDecryptDone_goes .ok hruns hx hnsx hn hkind hstate harr henc
  dsimp only at hexec
  rw [hdec] at hexec
  dsimp only at hexec
  generalize hout : (if x.pract && n.pit != 0 then bs.map fun b => ({ b with pi := ⟨0, 0, 0, 0⟩ } : LBlock) else bs) = out
  have hcheck : s.checkRead k x n bs = s.setCtx k { x with blocks := out, encrypted := true } := by
    have hcopy : (x.kind == .copy) = false := by rw [hkind]; rfl
    rw [State.checkRead, hcopy, if_neg Bool.false_ne_true, hpi]
    dsimp only
    rw [State.updCtx_calm hcalm hx, hout]
  have hw : x.rlWait = false := calm_rlWait hcalm _ (Tab.mem_of_get? hx)
  rw [hcheck, State.settle_delivers (y := { x with blocks := out, encrypted := true }) hcalm hkind hstate rfl hrec hord hw hside hdet] at hexec
  exact ⟨_, hexec, Tab.get?_set_self _ _ _, fun j hj => Tab.get?_set_ne _ _ hj, rfl⟩

/-- A read's last transfer hands its blocks to the host and completes it (R18). -/
theorem exec_hostDataTransferDone_ends {s : State} {k : Nat} {x : Ctx} (hruns : s.runs = true) (hcalm : calm s) (hx : s.qce.ctx? k = some x)
    (hkind : x.kind = .read) (hstate : x.state = .data) (hrec : x.recorded = true) (hside : x.side = false) (hdet : x.detached = false) :
    ∃ t y, exec (.hostDataTransferDone k) s = .next t ∧ t.qce.ctx? k = some y ∧ y.state = .completing ∧ y.status = .success ∧ t.out = .blocks k x.blocks :: s.out
      ∧ (∀ j, j ≠ k → t.qce.ctx? j = s.qce.ctx? j) ∧ t = { s with qce := t.qce, out := t.out } := by
  obtain ⟨g, hg⟩ : ∃ g, g = s.emit (.blocks k x.blocks) := ⟨_, rfl⟩
  obtain ⟨y, hy⟩ : ∃ y, y = ({ x with done := ((x.nsx.bind s.fl.ns?).map (·.units x.rds)).getD 0 } : Ctx) := ⟨_, rfl⟩
  have hcalmg : calm g := by rw [hg]; exact calm_of hcalm rfl rfl
  have hxg : g.qce.ctx? k = some x := by rw [hg]; exact hx
  have hrest : atRest y = true := by
    rw [hy]
    exact (calm_atRest hcalm hx : atRest x = true)
  have hyg : (g.setCtx k y).qce.ctx? k = some y := Tab.get?_set_self _ _ _
  have hfin := State.done_calm (s := g.setCtx k y) (c := k) (st := .success) (calm_setCtx hcalmg hrest) hyg (by rw [hy]; simp [Ctx.open', hstate])
    (by rw [hy]; exact ⟨hside, hdet⟩) rfl
  have hexec : exec (.hostDataTransferDone k) s = .next ((g.setCtx k y).fin k .success).settle := by
    change execHostDataTransferDone k s = _
    rw [execHostDataTransferDone, State.whenRuns_on hruns, hx]
    dsimp only
    rw [hkind, hstate, hrec, if_pos (by decide), ← hg, State.updCtx_calm hcalmg hxg, hy]
  rw [hfin] at hexec
  refine ⟨_, _, hexec, Qce.setDone_ctx _ hyg, rfl, rfl, ?_, fun j hj => ?_, ?_⟩
  · rw [hg]; rfl
  · refine (Qce.setDone_other _ hj).trans ((Tab.get?_set_ne _ _ hj).trans ?_)
    rw [hg]; rfl
  · rw [hg]; rfl

/-- Settles O26: translation, the data's arrival, the lane and the transfer. -/
theorem readPath : Obligations.ReadPath := by
  refine ⟨fun s k nsx x n r hruns hstill hx hstate hnsx hn henc hw hside hdet hr => ⟨fun hlost hmedia => ?_, fun hlost hord hzone => ?_, fun l loc hlost hmedia hunit => ?_⟩,
    fun s k x hruns hcalm hx hreads hstate => ?_,
    fun s k nsx lane x n bs hruns hcalm hx hnsx hn hkind hstate harr henc hrec hord hside hdet => ⟨fun hdec hpi => ?_, fun hdec hzone => ?_, fun c hc hsome => ?_⟩,
    fun s k x hruns hcalm hx hkind hstate hrec hside hdet => exec_hostDataTransferDone_ends hruns hcalm hx hkind hstate hrec hside hdet⟩
  · exact exec_translateComplete_data hruns hstill.1 hx hstate hnsx hn henc hw hside hdet hr hlost hmedia
  · exact exec_translateComplete_lost hruns hstill.1 hx hstate hnsx hn hside hdet hr hlost hord hzone
  · exact exec_translateComplete_media hruns hstill hx hstate hnsx hn hw hside hdet hr hlost hmedia hunit
  · have hgo : (x.kind.reads && (x.state == .media || x.state == .data)) = true := by
      rw [hreads]
      simpa using hstate
    refine ⟨s.setCtx k { x with arrived := true }, ?_, Tab.get?_set_self _ _ _, fun j hj => Tab.get?_set_ne _ _ hj, rfl⟩
    change execOasisReadComplete k s = _
    rw [execOasisReadComplete, State.whenRuns_on hruns, State.updCtx_calm hcalm hx, if_pos hgo]
  · exact exec_xtsDecryptDone_passes hruns hcalm hx hnsx hn hkind hstate harr henc hrec hord hside hdet hdec hpi
  · obtain ⟨t, y, h, hy, hst, hstatus, hoth, hfl, hframe⟩ := State.data_fails (st := .keyNotLoaded) hcalm hx hstate hside hdet hzone hord rfl (by decide)
    refine ⟨t, y, ?_, hy, hst, hstatus, hoth, hfl, hframe⟩
    rw [exec_xtsDecryptDone_goes .ok hruns hx hnsx hn hkind hstate harr henc, ← h]
    dsimp only
    rw [hdec]
  · rw [exec_xtsDecryptDone_goes (.mismatch lane) hruns hx hnsx hn hkind hstate harr henc]
    dsimp only
    rw [State.laneMismatch_fences hc hsome]

end Sys2Proof.Machine
end

section
/-! A write's way through data arrival, lane and commit (R19). -/

namespace Sys2Proof.Machine

open Safety

/-! ## Data arrival -/

/-- Data for a command reaches its namespace's checker. -/
theorem exec_writeDataArrival_goes {s : State} {k nsx : Nat} {x : Ctx} {n : Ns} (bs : List LBlock) (hruns : s.runs = true) (hx : s.qce.ctx? k = some x)
    (hnsx : x.nsx = some nsx) (hn : s.fl.ns? nsx = some n) : exec (.writeDataArrival k bs) s = .next (s.arrive k x n bs) := by
  have hbind : x.nsx.bind s.fl.ns? = some n := by rw [hnsx]; exact hn
  change execWriteDataArrival k bs s = _
  rw [execWriteDataArrival, State.whenRuns_on hruns, hx]
  dsimp only
  rw [hbind]

/-- Data that a Write or Zone Append waits for is held back, checked, or turned away (R19, R127). -/
theorem State.arrive_write {s : State} {k : Nat} {x : Ctx} {n : Ns} {bs : List LBlock} (hcalm : calm s) (hx : s.qce.ctx? k = some x)
    (hlen : bs.length = x.nlb + 1) (hkind : x.kind = .write ∨ x.kind = .append) (hstate : x.state = .data) (harr : x.arrived = false) (hsp : x.spaceWait = false) :
    s.arrive k x n bs =
      if s.fl.room (s.cost x).2.2 then
        match n.checkWrite x.pract x.prchk x.lbat x.lbatm (x.refFor n) (x.sqe.storageTag n.lbaf) bs with
        | .error st => (s.fin k st).settle
        | .ok out => s.setCtx k { x with blocks := out, arrived := true, done := n.units x.mods }
      else s.setCtx k { x with spaceWait := true } := by
  have hcompare : (x.kind == .compare) = false := by obtain h | h := hkind <;> rw [h] <;> rfl
  have hgo : ((x.kind == .write || x.kind == .append) && x.state == .data && !x.arrived && !x.spaceWait) = true := by
    obtain h | h := hkind <;> rw [h, hstate, harr, hsp] <;> rfl
  rw [State.arrive, if_neg (by omega), hcompare, if_neg Bool.false_ne_true, if_pos hgo]
  simp only [State.updCtx_calm hcalm hx]
  cases s.fl.room (s.cost x).2.2 <;> rfl

/-- Settling a calm device whose one context changed nothing that it waits for. -/
theorem State.settle_setCtx {s : State} {k : Nat} {y : Ctx} (hcalm : calm s) (h : atRest y = true) : (s.setCtx k y).settle = s.setCtx k y :=
  State.settle_calm (calm_setCtx hcalm h)

/-! ## The lane and the commit point -/

/-- The blocks that a lane encrypts: a Write's or a Zone Append's host data, or what a Copy has read. -/
def Ctx.toEncrypt (s : State) (x : Ctx) (bs : List LBlock) : Prop :=
  x.kind = .copy ∧ x.given = some bs ∧ s.fl.room (s.cost x).2.2 = true ∨ (x.kind = .write ∨ x.kind = .append) ∧ x.arrived = true ∧ x.blocks = bs

/-- The lane of a write in DATA whose blocks are there (R19, R367). -/
theorem exec_xtsEncryptDone_goes {s : State} {k : Nat} {x : Ctx} {bs : List LBlock} (o : LaneOutcome) (hruns : s.runs = true) (hcalm : calm s)
    (hx : s.qce.ctx? k = some x) (hstate : x.state = .data) (hbs : x.toEncrypt s bs) (hsp : x.spaceWait = false) (henc : x.encrypted = false) :
    exec (.xtsEncryptDone k o) s = .next (match o with
      | .mismatch lane => s.laneMismatch true lane
      | .ok => match Tab.get? s.sec.keys x.keyslot with
        | none => (s.fin k .keyNotLoaded).settle
        | some key => (s.setCtx k { x with cells := encryptBlocks key x.keyslot x.slba bs, encrypted := true, oas := true }).settle) := by
  have hgot : (if x.spaceWait then none else if x.kind == .copy then x.given else if (x.kind == .write || x.kind == .append) && x.arrived then some x.blocks else none)
      = some bs := by
    rw [hsp]
    obtain ⟨hkind, hgiven, -⟩ | ⟨hkind | hkind, harr, hblocks⟩ := hbs
    · simp [hkind, hgiven]
    · simp [hkind, harr, hblocks]
    · simp [hkind, harr, hblocks]
  have hready : (x.state == .data && !x.encrypted) = true := by rw [hstate, henc]; rfl
  have hroom : (x.kind == .copy && !(s.fl.room (s.cost x).2.2)) = false := by
    obtain ⟨-, -, hroom⟩ | ⟨hkind | hkind, -, -⟩ := hbs
    · rw [hroom, Bool.not_true, Bool.and_false]
    · rw [hkind]; rfl
    · rw [hkind]; rfl
  change execXtsEncryptDone k o s = _
  rw [execXtsEncryptDone, State.whenRuns_on hruns, hx]
  dsimp only
  rw [hgot, hready]
  dsimp only
  rw [hroom]
  simp only [State.updCtx_calm hcalm hx]
  cases o <;> rfl

/-- An earlier read that is not there before a context's change is not there after it. -/
theorem Qce.readBefore_setCtx {s : State} {k : Nat} {x y : Ctx} (h : s.qce.readBefore x = false) (hfsn : y.fsn = x.fsn) (htargets : y.targets = x.targets) :
    (s.setCtx k y).qce.readBefore y = false := by
  rw [Qce.readBefore, List.any_eq_false] at h ⊢
  intro e he
  rw [hfsn, htargets]
  refine (Tab.mem_set he).elim (fun q => ?_) (fun q => h e q)
  rw [q, hfsn, fsnBefore_self]
  simp

/-- A lane's encrypted blocks are recorded and the command completes (R19, R99). -/
theorem exec_xtsEncryptDone_records {s : State} {k nsx : Nat} {x : Ctx} {n : Ns} {bs : List LBlock} {key : XKey} (hruns : s.runs = true) (hcalm : calm s)
    (hx : s.qce.ctx? k = some x) (hnsx : x.nsx = some nsx) (hn : s.fl.ns? nsx = some n) (hstate : x.state = .data) (hbs : x.toEncrypt s bs)
    (hsp : x.spaceWait = false) (henc : x.encrypted = false) (hrec : x.recorded = false) (hord : x.ord = false) (hside : x.side = false) (hdet : x.detached = false)
    (hkey : Tab.get? s.sec.keys x.keyslot = some key) (hread : s.qce.readBefore x = false) (hwp : s.fl.ptx.wprot = false)
    (hfua : x.fua = false ∨ s.fl.ptx.unp = false) :
    ∃ t y, exec (.xtsEncryptDone k .ok) s = .next t ∧ t.qce.ctx? k = some y ∧ y.state = .completing ∧ y.status = .success ∧ y.recorded = true
      ∧ y.wsn = s.fl.ptx.wsn + 1 ∧ y.cells = encryptBlocks key x.keyslot x.slba bs
      ∧ t.fl = s.fl.recordedBy s.clock.now nsx n { x with cells := y.cells, encrypted := true, oas := true }
      ∧ t.qce.locks = Tab.keep s.qce.locks (fun _ l => l.ctx != k) ∧ (∀ j, j ≠ k → t.qce.ctx? j = s.qce.ctx? j) ∧ t = { s with qce := t.qce, fl := t.fl } := by
  have hexec := exec_xtsEncryptDone_goes .ok hruns hcalm hx hstate hbs hsp henc
  dsimp only at hexec
  rw [hkey] at hexec
  dsimp only at hexec
  have hkind : (x.kind.reads = false ∨ x.kind = .copy) ∧ x.kind.ends = false ∧ x.kind ≠ .purge ∧ x.kind ≠ .zoneSend := by
    obtain ⟨h, -, -⟩ | ⟨h | h, -, -⟩ := hbs
    all_goals simp [h, Kind.reads, Kind.ends]
  obtain ⟨hreads, hends, hpurge, hzone⟩ := hkind
  have hrecord := State.settle_record (u := s.setCtx k { x with cells := encryptBlocks key x.keyslot x.slba bs, encrypted := true, oas := true }) (t := s.qce.ctxs)
    (c := k) (x := { x with cells := encryptBlocks key x.keyslot x.slba bs, encrypted := true, oas := true }) (nsx := nsx) (n := n) hcalm.1 rfl hcalm.2.1 hcalm.2.2
    hstate rfl hrec hord ⟨hside, hdet⟩ hreads hends hpurge (.inl hzone) (Qce.readBefore_setCtx hread rfl rfl) hnsx hn
    (by rw [State.setCtx_fl, hwp, Bool.and_false]) (by obtain h | h := hfua <;> simp [h])
  rw [hrecord] at hexec
  exact ⟨_, _, hexec, Tab.get?_set_self _ _ _, rfl, rfl, rfl, rfl, rfl, rfl, rfl, fun j hj => Tab.get?_set_ne _ _ hj, rfl⟩

/-- A FUA write that is durable completes (R103). -/
theorem exec_fuaWriteComplete_ends {s : State} {k : Nat} {x : Ctx} (hruns : s.runs = true) (hcalm : calm s) (hx : s.qce.ctx? k = some x) (hfua : x.fua = true)
    (hrec : x.recorded = true) (hstate : x.state = .data) (hmod : x.kind.modifies = true)
    (hdur : s.fl.ptx.unp = false ∨ s.fl.programmed (fun nsx w => some nsx == x.nsx && w == x.wsn) = true) (hside : x.side = false) (hdet : x.detached = false) :
    ∃ t y, exec (.fuaWriteComplete k) s = .next t ∧ t.qce.ctx? k = some y ∧ y.state = .completing ∧ y.status = .success
      ∧ (∀ j, j ≠ k → t.qce.ctx? j = s.qce.ctx? j) ∧ t = { s with qce := t.qce } := by
  have hgo : (x.fua && x.recorded && x.state == .data && x.kind.modifies
      && (!s.fl.ptx.unp || s.fl.programmed fun nsx w => some nsx == x.nsx && w == x.wsn)) = true := by
    rw [hfua, hrec, hstate, hmod]
    obtain h | h := hdur <;> simp [h]
  have hexec : exec (.fuaWriteComplete k) s = .next (s.fin k .success).settle := by
    change execFuaWriteComplete k s = _
    rw [execFuaWriteComplete, State.whenRuns_on hruns, hx]
    dsimp only
    rw [if_pos hgo]
  rw [State.done_calm hcalm hx (by simp [Ctx.open', hstate]) ⟨hside, hdet⟩ rfl] at hexec
  exact ⟨_, _, hexec, Qce.setDone_ctx _ hx, rfl, rfl, fun j hj => Qce.setDone_other _ hj, rfl⟩

/-- One context's update in a calm device changes that context alone. -/
theorem State.setCtx_alone (s : State) (k : Nat) (y : Ctx) :
    (s.setCtx k y).qce.ctx? k = some y ∧ (∀ j, j ≠ k → (s.setCtx k y).qce.ctx? j = s.qce.ctx? j)
      ∧ s.setCtx k y = { s with qce := { s.qce with ctxs := (s.setCtx k y).qce.ctxs } } :=
  ⟨Tab.get?_set_self _ _ _, fun _ hj => Tab.get?_set_ne _ _ hj, rfl⟩

/-- Settles O27: the data's arrival, the release, the lane and the durable end. -/
theorem writePath : Obligations.WritePath := by
  refine ⟨fun s k nsx x n bs hruns hcalm hx hnsx hn hlen => ⟨fun hkind hstate harr hsp => ⟨fun hroom => ?_, fun out hroom hcheck => ?_,
      fun st hroom hcheck hok hne hside hdet hzone hord => ?_⟩, fun hkind hopen hgiven hstate => ?_⟩,
    fun s k x hruns hcalm hx hsp hroom => ?_,
    fun s k nsx lane x n bs hruns hcalm hx hnsx hn hstate hbs hsp henc hrec hord hside hdet => ⟨fun key hkey hread hwp hfua => ?_, fun hkey hzone => ?_, fun c hc hsome => ?_⟩,
    fun s k x hruns hcalm hx hfua hrec hstate hmod hdur hside hdet => exec_fuaWriteComplete_ends hruns hcalm hx hfua hrec hstate hmod hdur hside hdet⟩
  · have hexec := exec_writeDataArrival_goes bs hruns hx hnsx hn
    rw [State.arrive_write hcalm hx hlen hkind hstate harr hsp, hroom, if_neg Bool.false_ne_true] at hexec
    exact ⟨_, hexec, s.setCtx_alone k _⟩
  · have hexec := exec_writeDataArrival_goes bs hruns hx hnsx hn
    rw [State.arrive_write hcalm hx hlen hkind hstate harr hsp, hroom, if_pos rfl, hcheck] at hexec
    exact ⟨_, hexec, s.setCtx_alone k _⟩
  · obtain ⟨t, y, h, hy, hst, hstatus, hoth, hfl, hframe⟩ := State.data_fails hcalm hx hstate hside hdet hzone hord hok hne
    refine ⟨t, y, ?_, hy, hst, hstatus, hoth, hfl, hframe⟩
    rw [exec_writeDataArrival_goes bs hruns hx hnsx hn, State.arrive_write hcalm hx hlen hkind hstate harr hsp, hroom, if_pos rfl, hcheck, ← h]
  · have hexec := exec_writeDataArrival_goes bs hruns hx hnsx hn
    have hcompare : (x.kind == .compare) = true := by rw [hkind]; rfl
    have hfirst : (x.open' && x.given.isNone) = true := by rw [hopen, hgiven]; rfl
    rw [State.arrive, if_neg (by omega), hcompare, if_pos rfl, if_pos hfirst, State.updCtx_calm hcalm hx,
      State.settle_setCtx (y := { x with given := some bs }) hcalm (calm_atRest hcalm hx : atRest x = true)] at hexec
    exact ⟨_, hexec, s.setCtx_alone k _⟩
  · refine ⟨s.setCtx k { x with spaceWait := false }, ?_, s.setCtx_alone k _⟩
    change execOasisSpaceWaitRelease k s = _
    rw [execOasisSpaceWaitRelease, State.whenRuns_on hruns, hx]
    dsimp only
    rw [hsp, hroom, Bool.and_self, if_pos rfl, State.updCtx_calm hcalm hx]
  · exact exec_xtsEncryptDone_records hruns hcalm hx hnsx hn hstate hbs hsp henc hrec hord hside hdet hkey hread hwp hfua
  · obtain ⟨t, y, h, hy, hst, hstatus, hoth, hfl, hframe⟩ := State.data_fails (st := .keyNotLoaded) hcalm hx hstate hside hdet hzone hord rfl (by decide)
    refine ⟨t, y, ?_, hy, hst, hstatus, hoth, hfl, hframe⟩
    rw [exec_xtsEncryptDone_goes .ok hruns hcalm hx hstate hbs hsp henc, ← h]
    dsimp only
    rw [hkey]
  · rw [exec_xtsEncryptDone_goes (.mismatch lane) hruns hcalm hx hstate hbs hsp henc]
    dsimp only
    rw [State.laneMismatch_fences hc hsome]

end Sys2Proof.Machine
end

section
/-! Completion entries, interrupt coalescing and masks (R83, R89 to R92). -/

namespace Sys2Proof.Machine

open Safety

/-! ## Interrupts -/

/-- What a vector holds after it signals, and whether a message goes out (R91). -/
theorem Inst.signal_eq (i : Inst) (v : Vector') :
    i.signal v = ({ v with unsignalled := 0, pending := i.sends && i.holdsBack v || v.pending }, i.sends && !i.holdsBack v) := by
  unfold Inst.signal
  cases i.sends <;> cases i.holdsBack v <;> rfl

/-- A vector with coalescing disabled signals each entry at once (R92). -/
theorem Inst.posted_direct {i : Inst} {v : Nat} {w : Vector'} (now : Nat) (admin bad : Bool) (hw : Tab.get? i.vectors v = some w) (hcd : w.cd = true) :
    (i.posted now v admin bad).2 = (i.sends && !i.holdsBack w) := by
  have hnone : ∀ u : Vector', u.cd = true → i.coalesce u = none := fun u hu => by rw [Inst.coalesce, if_pos hu]
  have hget : Tab.getD i.vectors v Vector'.fresh = w := by rw [Tab.getD, hw]; rfl
  simp only [Inst.posted, hget]
  rw [hnone _ (by exact hcd), Inst.signal_eq]
  rfl

/-! ## The completion entry -/

theorem Tab.rising_erase {α : Type} {t : Tab α} (h : Tab.rising t = true) (k : Nat) : Tab.rising (Tab.erase t k) = true := by
  rw [Tab.rising_iff] at h ⊢
  exact h.sublist ((List.filter_sublist ..).map _)

theorem Tab.rising_mapVals {α β : Type} {t : Tab α} (h : Tab.rising t = true) (f : Nat → α → β) : Tab.rising (Tab.mapVals t f) = true := by
  rw [Tab.rising_iff] at h ⊢
  rwa [Tab.mapVals, List.map_map]

theorem Qce.noteEmpty_tables (q : Qce) : q.noteEmpty.ctxs = q.ctxs ∧ q.noteEmpty.cqs = q.cqs ∧ q.noteEmpty.sqs = q.sqs ∧ q.noteEmpty.locks = q.locks := by
  obtain ⟨r, hr⟩ := q.noteEmpty_frame
  rw [hr]
  exact ⟨rfl, rfl, rfl, rfl⟩

/-- What the post of an I/O command's entry leaves (R83, R89, R90). -/
structure State.posts (s t : State) (inst cqid k : Nat) (x : Ctx) (i : Inst) (sq : Sq) (cq : Cq) : Prop where
  ctxs : t.qce.ctxs = Tab.mapVals (Tab.erase s.qce.ctxs k) fun _ y => { y with after := y.after.filter (· ≠ k) }
  cqs : t.qce.cqs = Tab.upd s.qce.cqs (qKey inst cqid) Cq.push
  sqs : t.qce.sqs = Tab.upd s.qce.sqs (qKey x.inst x.sqid) fun s => { s with reserve := min s.reserveMax (s.reserve + 1) }
  locks : t.qce.locks = s.qce.locks
  out : t.out = ((s.emit (.cqe inst cqid (x.entry sq cq))).interrupt inst ((if i.eth then none else cq.vector).map i.message)
    (i.entered s.clock.now cqid (!x.status.isOk) (if i.eth then none else cq.vector)).2).out
  frame : t = { s with qce := t.qce, hist := t.hist, tas := t.tas, fl := t.fl, out := t.out }

/-- A message that goes out touches the output only. -/
theorem State.interrupt_frame (s : State) (inst : Nat) (v : Option Nat) (b : Bool) : s.interrupt inst v b = { s with out := (s.interrupt inst v b).out } := by
  unfold State.interrupt
  split <;> rfl

theorem State.interrupt_out_of (s : State) {q : Qce} (inst : Nat) (v : Option Nat) (b : Bool) :
    (({ s with qce := q } : State).interrupt inst v b).out = (s.interrupt inst v b).out := by
  unfold State.interrupt
  split <;> rfl

theorem State.post_posts {s : State} {inst cqid k : Nat} {x : Ctx} {i : Inst} {sq : Sq} {cq : Cq} (hadm : x.adm = false) (hside : x.side = false)
    (hdet : x.detached = false) : s.posts (s.post inst cqid k x i sq cq) inst cqid k x i sq cq := by
  have hdel : ∀ q : Qce, q.afterDelete x = q := fun q => by rw [Qce.afterDelete, hadm]; rfl
  unfold State.post
  dsimp only
  rw [hdel, State.interrupt_frame, State.interrupt_out_of]
  generalize hout : ((s.emit (.cqe inst cqid (x.entry sq cq))).interrupt inst ((if i.eth then none else cq.vector).map i.message)
    (i.entered s.clock.now cqid (!x.status.isOk) (if i.eth then none else cq.vector)).2).out = out
  rw [State.countDone, hadm, if_neg Bool.false_ne_true, State.freeCtx, hside, hdet, Bool.or_self, if_neg Bool.false_ne_true]
  dsimp only
  obtain ⟨hctxs, hcqs, hsqs, hlocks⟩ := Qce.noteEmpty_tables _
  exact ⟨hctxs, hcqs, hsqs, hlocks, hout.symm, rfl⟩

/-- A calm device stays calm when a context is freed. -/
theorem State.posts_calm {s t : State} {inst cqid k : Nat} {x : Ctx} {i : Inst} {sq : Sq} {cq : Cq} (h : s.posts t inst cqid k x i sq cq) (hcalm : calm s) :
    calm t := by
  refine ⟨by rw [h.frame]; exact hcalm.1, ?_, ?_⟩
  · rw [h.ctxs]
    intro e he
    obtain ⟨e', he', rfl⟩ := List.mem_map.1 he
    exact (hcalm.2.1 e' (List.mem_of_mem_filter he') : atRest e'.2 = true)
  · rw [h.ctxs]
    exact Tab.rising_mapVals (Tab.rising_erase hcalm.2.2 _) _

/-- The entry goes into its queue with its interrupt, and the context is free (R83, R89 to R91). -/
theorem exec_cqePost_posts {s : State} {inst cqid k : Nat} {x : Ctx} {i : Inst} {cq : Cq} {sq : Sq} (hruns : s.runs = true) (hcalm : calm s)
    (hhold : s.mgc.postHold ≤ s.clock.now) (hnext : s.qce.nextToPost inst cqid = some (k, x)) (hi : s.qce.inst? inst = some i)
    (hcq : s.qce.cq? inst cqid = some cq) (hsq : s.qce.sq? inst x.sqid = some sq) (hinst : x.inst = inst) (hside : x.side = false) (hdet : x.detached = false)
    (hroom : cq.hasRoom = true) (hready : i.state = .ready) (hadm : x.adm = false) :
    ∃ t, exec (.cqePost inst cqid) s = .next t ∧ t.qce.ctx? k = none ∧ t.qce.cq? inst cqid = some cq.push
      ∧ t.qce.sq? inst x.sqid = some { sq with reserve := min sq.reserveMax (sq.reserve + 1) }
      ∧ (i.eth = true ∨ cq.vector = none → t.out = .cqe inst cqid (x.entry sq cq) :: s.out)
      ∧ (∀ v w, i.eth = false → cq.vector = some v → Tab.get? i.vectors v = some w → w.cd = true →
        (i.sends = true → i.holdsBack w = false → t.out = .interrupt inst (i.message v) :: .cqe inst cqid (x.entry sq cq) :: s.out)
        ∧ (i.sends = false ∨ i.holdsBack w = true → t.out = .cqe inst cqid (x.entry sq cq) :: s.out))
      ∧ t.qce.locks = s.qce.locks ∧ t = { s with qce := t.qce, hist := t.hist, tas := t.tas, fl := t.fl, out := t.out } := by
  have h : s.posts (s.post inst cqid k x i sq cq) inst cqid k x i sq cq := State.post_posts hadm hside hdet
  have hexec : exec (.cqePost inst cqid) s = .next (s.post inst cqid k x i sq cq) := by
    rw [← State.settle_calm (State.posts_calm h hcalm)]
    change execCqePost inst cqid s = _
    rw [execCqePost, State.whenRuns_on hruns, if_neg (by omega), hnext, hi, hcq]
    dsimp only
    rw [hsq]
    dsimp only
    rw [hroom, hready]
    rfl
  generalize s.post inst cqid k x i sq cq = t at h hexec
  refine ⟨t, hexec, ?_, ?_, ?_, fun hnov => ?_, fun v w heth hv hw hcd => ?_, h.locks, h.frame⟩
  · rw [Qce.ctx?, h.ctxs, Tab.get?_mapVals, Tab.get?_erase, if_pos rfl]
    rfl
  · rw [Qce.cq?, h.cqs]
    exact Tab.get?_upd_self hcq
  · rw [Qce.sq?, h.sqs, hinst]
    exact Tab.get?_upd_self hsq
  · have hnone : (if i.eth then none else cq.vector) = none := by
      obtain he | hv := hnov
      · rw [he, if_pos rfl]
      · rw [hv, ite_self]
    rw [h.out, hnone]
    rfl
  · have hout : t.out = ((s.emit (.cqe inst cqid (x.entry sq cq))).interrupt inst (some (i.message v)) (i.sends && !i.holdsBack w)).out := by
      rw [h.out, heth, if_neg Bool.false_ne_true, hv, ← Inst.posted_direct s.clock.now (cqid == 0) (!x.status.isOk) hw hcd]
      rfl
    refine ⟨fun hs hh => ?_, fun hno => ?_⟩
    · rw [hout, hs, hh]
      rfl
    · rw [hout]
      obtain hs | hh := hno
      · rw [hs]; rfl
      · rw [hh, Bool.not_true, Bool.and_false]; rfl

/-- A vector held back by coalescing signals when its time has passed (R92). -/
theorem exec_interruptCoalesceTimeout_signals {s : State} {inst vector thr time : Nat} {i : Inst} {v : Vector'} (hruns : s.runs = true)
    (hi : s.qce.inst? inst = some i) (hv : Tab.get? i.vectors vector = some v) (hco : i.coalesce v = some (thr, time)) (hheld : 0 < v.unsignalled)
    (hdue : v.firstAt + time ≤ s.clock.now) :
    ∃ t, exec (.interruptCoalesceTimeout inst vector) s = .next t
      ∧ t.qce.inst? inst = some { i with vectors := Tab.set i.vectors vector { v with unsignalled := 0, pending := i.sends && i.holdsBack v || v.pending } }
      ∧ t.out = (if i.sends && !i.holdsBack v then .interrupt inst (i.message vector) :: s.out else s.out)
      ∧ t = { s with qce := { s.qce with insts := t.qce.insts }, out := t.out } := by
  have hget : Tab.getD i.vectors vector Vector'.fresh = v := by rw [Tab.getD, hv]; rfl
  obtain ⟨f, hf⟩ : ∃ f : Inst → Inst, f = fun i' => { i' with
    vectors := Tab.set i'.vectors vector { v with unsignalled := 0, pending := i.sends && i.holdsBack v || v.pending } } := ⟨_, rfl⟩
  have hinst : (s.qce.updInst inst f).inst? inst = some (f i) := Tab.get?_upd_self hi
  have hexec : exec (.interruptCoalesceTimeout inst vector) s = .next (if i.sends && !i.holdsBack v
      then ({ s with qce := s.qce.updInst inst f } : State).emit (.interrupt inst (i.message vector)) else { s with qce := s.qce.updInst inst f }) := by
    change execInterruptCoalesceTimeout inst vector s = _
    rw [execInterruptCoalesceTimeout, State.whenRuns_on hruns, hi]
    dsimp only
    rw [hget, hco]
    dsimp only
    rw [if_pos hheld, State.until'_past hdue, Inst.signal_eq, hf]
  refine ⟨_, hexec, ?_, ?_, ?_⟩
  · rw [apply_ite State.qce]
    rw [State.emit_qce, ite_self, hinst, hf]
  · split <;> rfl
  · split <;> rfl

/-! ## Masks -/

/-- The instance that a mask write to a PCIe instance leaves, and the messages it lets go (R91). -/
theorem exec_msixVectorUnmask_releases {s : State} {inst : Nat} {i : Inst} (w : IntWrite) (hruns : s.runs = true) (hi : s.qce.inst? inst = some i)
    (heth : i.eth = false) :
    ∃ t, exec (.msixVectorUnmask inst w) s = .next t ∧ t.qce.inst? inst = some (i.maskWrite w).release.1
      ∧ t.out = ((i.maskWrite w).release.2.map (Output.interrupt inst)).reverse ++ s.out ∧ t = { s with qce := { s.qce with insts := t.qce.insts }, out := t.out } := by
  have hexec : exec (.msixVectorUnmask inst w) s = .next (({ s with qce := s.qce.updInst inst fun _ => (i.maskWrite w).release.1 } : State).emits
      ((i.maskWrite w).release.2.map (Output.interrupt inst))) := by
    change execMsixVectorUnmask inst w s = _
    rw [execMsixVectorUnmask, State.whenRuns_on hruns, hi]
    dsimp only
    rw [heth, if_neg Bool.false_ne_true]
  exact ⟨_, hexec, Tab.get?_upd_self (f := fun _ => (i.maskWrite w).release.1) hi, rfl, rfl⟩

/-- After the release no vector that could send its message still holds one. -/
theorem Inst.release_pending {i : Inst} {n : Nat} {v : Vector'} (hv : Tab.get? i.release.1.vectors n = some v) (hsends : i.release.1.sends = true)
    (hpend : v.pending = true) : i.release.1.holdsBack v = true := by
  have hs : i.sends = true := hsends
  rw [Inst.release] at hv
  dsimp only at hv
  rw [Tab.get?_mapVals] at hv
  obtain ⟨w, -, rfl⟩ := Option.map_eq_some_iff.1 hv
  change i.holdsBack _ = true
  by_cases hgo : (i.sends && w.pending && !i.holdsBack w) = true
  · simp only [if_pos hgo, Bool.false_eq_true] at hpend
  · simp only [if_neg hgo] at hpend ⊢
    simpa [hs, hpend] using hgo

/-- A vector keeps its mask when messages are released. -/
theorem Inst.release_get {i : Inst} {n : Nat} {w : Vector'} (hw : Tab.get? i.vectors n = some w) :
    ∃ v, Tab.get? i.release.1.vectors n = some v ∧ v.masked = w.masked := by
  rw [Inst.release]
  dsimp only
  rw [Tab.get?_mapVals, hw]
  refine ⟨_, rfl, ?_⟩
  dsimp only
  split <;> rfl

theorem Tab.mem_keysWhere {α : Type} {t : Tab α} {p : Nat → α → Bool} {k : Nat} {a : α} (h : Tab.get? t k = some a) (hp : p k a = true) :
    k ∈ Tab.keysWhere t p :=
  List.mem_map.2 ⟨(k, a), List.mem_filter.2 ⟨Tab.mem_of_get? h, hp⟩, rfl⟩

/-- A vector whose mask bit is written has it, and sends what it held once nothing masks it (R91). -/
theorem exec_msixVectorUnmask_vector {s : State} {inst : Nat} {i : Inst} (n : Nat) (m : Bool) (hruns : s.runs = true) (hi : s.qce.inst? inst = some i)
    (heth : i.eth = false) (hn : n ≤ i.allot) :
    ∃ t j v, exec (.msixVectorUnmask inst (.vector n m)) s = .next t ∧ t.qce.inst? inst = some j ∧ j.irq = i.irq
      ∧ Tab.get? j.vectors n = some v ∧ v.masked = m ∧ (j.sends = true → v.pending = true → j.holdsBack v = true)
      ∧ (i.irq.msix = true → i.irq.fmask = false → m = false → (Tab.getD i.vectors n Vector'.fresh).pending = true → .interrupt inst n ∈ t.out)
      ∧ t = { s with qce := { s.qce with insts := t.qce.insts }, out := t.out } := by
  obtain ⟨t, hexec, hinst, hout, hframe⟩ := exec_msixVectorUnmask_releases (.vector n m) hruns hi heth
  have hmask : i.maskWrite (.vector n m) = { i with vectors := Tab.set i.vectors n { Tab.getD i.vectors n Vector'.fresh with masked := m } } := by
    rw [Inst.maskWrite, if_neg (by omega)]
  have hset : Tab.get? (i.maskWrite (.vector n m)).vectors n = some { Tab.getD i.vectors n Vector'.fresh with masked := m } := by
    rw [hmask]
    exact Tab.get?_set_self _ _ _
  obtain ⟨v, hv, hvm⟩ := Inst.release_get hset
  refine ⟨t, _, v, hexec, hinst, by rw [hmask]; rfl, hv, hvm, fun hs hp => Inst.release_pending hv hs hp, fun hmsix hf hm hpend => ?_, hframe⟩
  have hsend : (((i.maskWrite (.vector n m)).sends && (Tab.getD i.vectors n Vector'.fresh).pending
      && !(i.maskWrite (.vector n m)).holdsBack { Tab.getD i.vectors n Vector'.fresh with masked := m })) = true := by
    rw [hmask, hpend, hm]
    simp [Inst.sends, Inst.holdsBack, hmsix, hf]
  have hmsg : (i.maskWrite (.vector n m)).message n = n := by
    rw [hmask]
    simp [Inst.message, hmsix]
  rw [hout, List.mem_append, List.mem_reverse]
  refine .inl (List.mem_map.2 ⟨n, ?_, rfl⟩)
  rw [Inst.release, List.mem_dedup]
  exact List.mem_map.2 ⟨n, Tab.mem_keysWhere hset hsend, hmsg⟩

/-- Settles O28: the entry's post, the coalescing timer and the masks. -/
theorem completions : Obligations.Completions := by
  refine ⟨fun s inst cqid k x i cq sq hruns hcalm hhold hnext hi hcq hsq hinst hside hdet hroom hready hadm =>
      exec_cqePost_posts hruns hcalm hhold hnext hi hcq hsq hinst hside hdet hroom hready hadm,
    fun s inst vector thr time i v hruns hi hv hco hheld hdue => exec_interruptCoalesceTimeout_signals hruns hi hv hco hheld hdue,
    fun s inst i hruns hi heth => ⟨fun n m hn => exec_msixVectorUnmask_vector n m hruns hi heth hn, fun v hmsi hmsix => ?_, fun v hmsi hmsix => ?_, fun w hmsix hw => ?_⟩⟩
  · obtain ⟨t, hexec, hinst, -, hframe⟩ := exec_msixVectorUnmask_releases (.intms v) hruns hi heth
    refine ⟨t, _, hexec, hinst, ?_, hframe⟩
    simp [Inst.release, Inst.maskWrite, hmsi, hmsix]
  · obtain ⟨t, hexec, hinst, -, hframe⟩ := exec_msixVectorUnmask_releases (.intmc v) hruns hi heth
    refine ⟨t, _, hexec, hinst, ?_, fun n w hw hs hp => Inst.release_pending hw hs hp, hframe⟩
    simp [Inst.release, Inst.maskWrite, hmsi, hmsix]
  · obtain ⟨t, hexec, hinst, -, -⟩ := exec_msixVectorUnmask_releases w hruns hi heth
    refine ⟨t, _, hexec, hinst, ?_⟩
    cases w
    case vector n m => exact absurd rfl (hw n m)
    all_goals simp [Inst.release, Inst.maskWrite, hmsix]

end Sys2Proof.Machine
end

section
/-! The admin commands on queues, Abort, Asynchronous Event Request and Keep Alive (R74, R93, R98, R105). -/

namespace Sys2Proof.Machine

open Safety

/-- A taken command leaves QCE's registers. -/
theorem State.take_regs {s g : State} {inst sqid c : Nat} {k : Kind} {q : Sqe} (h : s.take inst sqid k q = some (g, c)) : g.qce.regs = s.qce.regs := by
  unfold State.take at h
  split at h
  · dsimp only at h
    split at h
    · simp only [Option.some.injEq, Prod.mk.injEq] at h
      obtain ⟨rfl, rfl⟩ := h
      rw [State.allotment_frame]
    · cases h
  · cases h

/-- The instance of a taken admin command, whose keep-alive time starts again. -/
theorem AdminFacts.caller {s g : State} {a : AdminCmd} {k : Nat} {x : Ctx} {i : Inst} (f : AdminFacts s g a k x) (hi : s.qce.inst? a.inst = some i) :
    g.qce.inst? x.inst = some { i with kaAt := s.clock.now } := by
  obtain ⟨j, hj, hg⟩ := f.me
  rw [f.inst, hg, Option.some.inj (hi.symm.trans hj)]

/-- An admin command that succeeds with a change of the queue engine ends there, and nothing else changes. -/
theorem AdminFacts.queued {s g : State} {a : AdminCmd} {k : Nat} {x y : Ctx} (f : AdminFacts s g a k x) (hs : Safety.calm s) {q : Qce}
    (hctx : q.ctxs = Tab.set s.qce.ctxs k y)
    (hy : y.state = .fw ∧ y.side = false ∧ y.detached = false ∧ y.rlWait = false ∧ y.encrypted = false ∧ y.arrived = false) :
    ∃ t, (({ g with qce := q } : State).fin k .success).settle = t ∧ completed s t k .success y.dw0 ∧ onlyQueues s t
      ∧ t.qce.cqs = q.cqs ∧ t.qce.sqs = q.sqs ∧ t.qce.insts = q.insts := by
  obtain ⟨hfin, hdone⟩ := f.done (h := { g with qce := q }) (st := .success) hctx hy (by dsimp only; rw [f.frame]) rfl hs
  exact ⟨_, hfin, hdone, f.only _ g.out, rfl, rfl, rfl⟩

/-- The same of a command whose own context keeps its content. -/
theorem AdminFacts.queued_own {s g : State} {a : AdminCmd} {k : Nat} {x : Ctx} (f : AdminFacts s g a k x) (hs : Safety.calm s) {q : Qce}
    (hctx : q.ctxs = g.qce.ctxs) :
    ∃ t, (({ g with qce := q } : State).fin k .success).settle = t ∧ completed s t k .success 0 ∧ onlyQueues s t
      ∧ t.qce.cqs = q.cqs ∧ t.qce.sqs = q.sqs ∧ t.qce.insts = q.insts := by
  obtain ⟨t, ht, hdone, hrest⟩ := f.queued hs (hctx.trans f.ctxs) f.own
  exact ⟨t, ht, f.dw0 ▸ hdone, hrest⟩

/-! ## Create and Delete -/

/-- Create I/O Completion Queue (R74, R93). -/
theorem exec_createIoCq_ends {s g : State} {a : AdminCmd} {k : Nat} {x : Ctx} {i : Inst} (ht : adminTaken s g a 0x05 .pcie k x)
    (hi : s.qce.inst? a.inst = some i) :
    (a.q.qid ≠ 0 → a.q.qid ≤ i.allot → s.qce.cq? a.inst a.q.qid = none → a.q.qsize ≠ 0 → a.q.pc = true → a.q.iv ≤ i.allot →
      ∃ t, exec (.createIoCq a) s = .next t ∧ completed s t k .success 0
        ∧ t.qce.cqs = Tab.set s.qce.cqs (qKey a.inst a.q.qid) ⟨a.q.qsize + 1, 0, 0, true, if a.q.ien then some a.q.iv else none⟩ ∧ onlyQueues s t)
    ∧ (a.q.qid = 0 ∨ i.allot < a.q.qid ∨ (s.qce.cq? a.inst a.q.qid).isSome = true →
      ∃ t, exec (.createIoCq a) s = .next t ∧ turnedAway s t k (stat 1 0x01)) := by
  have f := admin_facts ht
  have hcalm : calm s := ht.2.2.2.2.2.2.2
  have hcq : g.qce.cq? a.inst a.q.qid = s.qce.cq? a.inst a.q.qid := by rw [Qce.cq?, f.cqs]; rfl
  have hexec : exec (.createIoCq a) s = .next (
      if a.q.qid = 0 ∨ i.allot < a.q.qid ∨ (s.qce.cq? a.inst a.q.qid).isSome then g.fin k .badQueueId
      else if a.q.qsize = 0 then g.fin k .badQueueSize
      else if !a.q.pc then g.fin k .invalidField
      else if i.allot < a.q.iv then g.fin k .badVector
      else (g.addCq a.inst a.q.qid (a.q.qsize + 1) (if a.q.ien then some a.q.iv else none)).fin k .success).settle := by
    change execCreateIoCq a s = _
    rw [execCreateIoCq, State.admin_goes ht]
    dsimp only
    rw [f.caller hi, f.sqe, f.inst, hcq]
    rfl
  constructor
  · intro hid hallot hnone hsize hpc hiv
    obtain ⟨t, hfin, hdone, honly, hcqs, -⟩ := f.queued_own hcalm
      (q := { g.qce with cqs := Tab.set g.qce.cqs (qKey a.inst a.q.qid) ⟨a.q.qsize + 1, 0, 0, true, if a.q.ien then some a.q.iv else none⟩ }) rfl
    refine ⟨t, ?_, hdone, by rw [hcqs, f.cqs], honly⟩
    rw [hexec, if_neg (by simp [hid, hallot, hnone]), if_neg hsize, hpc, if_neg (by decide), if_neg (by omega), ← hfin]
    rfl
  · intro hbad
    obtain ⟨t, hfin, haway⟩ := f.away (st := .badQueueId) rfl (by decide) hcalm
    exact ⟨t, by rw [hexec, if_pos hbad, hfin], haway⟩

/-- A Create I/O Submission Queue whose own fields are good (R93): it depends on its completion queue. -/
theorem exec_createIoSq_ends {s g : State} {a : AdminCmd} {k : Nat} {x : Ctx} {i : Inst} (ht : adminTaken s g a 0x01 .pcie k x)
    (hi : s.qce.inst? a.inst = some i) (hid : a.q.qid ≠ 0) (hallot : a.q.qid ≤ i.allot) (hnew : g.qce.sq? a.inst a.q.qid = none) (hsize : a.q.qsize ≠ 0)
    (hpc : a.q.pc = true) :
    (a.q.cqid ≠ 0 → (s.qce.cq? a.inst a.q.cqid).isSome = true →
      ∃ t, exec (.createIoSq a) s = .next t ∧ completed s t k .success 0
        ∧ t.qce.sq? a.inst a.q.qid = some (Sq.fresh (a.q.qsize + 1) a.q.cqid a.q.qprio s.qce.rsvio (s.lcdef a.inst) true)
        ∧ t.qce.cqs = s.qce.cqs ∧ onlyQueues s t)
    ∧ (a.q.cqid = 0 ∨ s.qce.cq? a.inst a.q.cqid = none →
      ∃ t, exec (.createIoSq a) s = .next t ∧ turnedAway s t k (stat 1 0x00)) := by
  have f := admin_facts ht
  have hcalm : calm s := ht.2.2.2.2.2.2.2
  have hcq : g.qce.cq? a.inst a.q.cqid = s.qce.cq? a.inst a.q.cqid := by rw [Qce.cq?, f.cqs]; rfl
  have hexec : exec (.createIoSq a) s = .next (
      if a.q.cqid = 0 ∨ (s.qce.cq? a.inst a.q.cqid).isNone then g.fin k .badCq
      else (g.addSq a.inst a.q.qid (a.q.qsize + 1) a.q.cqid a.q.qprio true).fin k .success).settle := by
    change execCreateIoSq a s = _
    rw [execCreateIoSq, State.admin_goes ht]
    dsimp only
    rw [f.caller hi, f.sqe, f.inst, hcq, hnew, hpc, if_neg (by simp [hid, hallot]), if_neg hsize]
    rfl
  constructor
  · intro hcqid hsome
    have hrsv : g.qce.rsvio = s.qce.rsvio := by rw [Qce.rsvio, State.take_regs ht.2.1]; rfl
    have hlc : g.lcdef a.inst = s.lcdef a.inst := by rw [f.frame]; rfl
    obtain ⟨q, hq⟩ : ∃ q, q = ({ g.qce with
        sqs := Tab.set g.qce.sqs (qKey a.inst a.q.qid) (Sq.fresh (a.q.qsize + 1) a.q.cqid a.q.qprio s.qce.rsvio (s.lcdef a.inst) true) } : Qce) := ⟨_, rfl⟩
    have hadd : g.addSq a.inst a.q.qid (a.q.qsize + 1) a.q.cqid a.q.qprio true = { g with qce := q.noteEmpty } := by
      rw [State.addSq, if_neg hid, hrsv, hlc, hq]
    obtain ⟨hctxs, hcqs, hsqs, -⟩ := q.noteEmpty_tables
    obtain ⟨t, hfin, hdone, honly, htcqs, htsqs, -⟩ := f.queued_own hcalm (q := q.noteEmpty) (by rw [hctxs, hq])
    refine ⟨t, ?_, hdone, ?_, by rw [htcqs, hcqs, hq, f.cqs], honly⟩
    · rw [hexec, if_neg (by simp [hcqid, Option.isSome_iff_ne_none.1 hsome]), hadd, hfin]
    · rw [Qce.sq?, htsqs, hsqs, hq]
      exact Tab.get?_set_self _ _ _
  · intro hbad
    obtain ⟨t, hfin, haway⟩ := f.away (st := .badCq) rfl (by decide) hcalm
    exact ⟨t, by rw [hexec, if_pos (by simpa using hbad), hfin], haway⟩

/-- Delete I/O Completion Queue: not while a submission queue uses it (R93). -/
theorem exec_deleteIoCq_ends {s g : State} {a : AdminCmd} {k : Nat} {x : Ctx} (ht : adminTaken s g a 0x04 .pcie k x) (hid : a.q.qid ≠ 0)
    (hcq : (s.qce.cq? a.inst a.q.qid).isSome = true) :
    ((g.qce.sqs.any fun e => e.1 / 512 == a.inst && e.1 % 512 != 0 && e.2.cq == a.q.qid) = false →
      ∃ t, exec (.deleteIoCq a) s = .next t ∧ completed s t k .success 0 ∧ t.qce.cqs = Tab.erase s.qce.cqs (qKey a.inst a.q.qid) ∧ onlyQueues s t)
    ∧ ((g.qce.sqs.any fun e => e.1 / 512 == a.inst && e.1 % 512 != 0 && e.2.cq == a.q.qid) = true →
      ∃ t, exec (.deleteIoCq a) s = .next t ∧ turnedAway s t k (stat 1 0x0C)) := by
  have f := admin_facts ht
  have hcalm : calm s := ht.2.2.2.2.2.2.2
  have hsame : g.qce.cq? a.inst a.q.qid = s.qce.cq? a.inst a.q.qid := by rw [Qce.cq?, f.cqs]; rfl
  have hexec : exec (.deleteIoCq a) s = .next (
      if g.qce.sqs.any fun e => e.1 / 512 == a.inst && e.1 % 512 != 0 && e.2.cq == a.q.qid then g.fin k .badDeletion
      else ({ g with qce := { g.qce with cqs := Tab.erase g.qce.cqs (qKey a.inst a.q.qid) } } : State).fin k .success).settle := by
    change execDeleteIoCq a s = _
    rw [execDeleteIoCq, State.admin_goes ht]
    dsimp only
    rw [f.sqe, f.inst, hsame, if_neg (by simp [hid, Option.isSome_iff_ne_none.1 hcq])]
  constructor
  · intro hfree
    obtain ⟨t, hfin, hdone, honly, hcqs, -⟩ := f.queued_own hcalm (q := { g.qce with cqs := Tab.erase g.qce.cqs (qKey a.inst a.q.qid) }) rfl
    exact ⟨t, by rw [hexec, hfree, if_neg Bool.false_ne_true, hfin], hdone, by rw [hcqs, f.cqs], honly⟩
  · intro hused
    obtain ⟨t, hfin, haway⟩ := f.away (st := .badDeletion) rfl (by decide) hcalm
    exact ⟨t, by rw [hexec, hused, if_pos rfl, hfin], haway⟩

/-- Delete I/O Submission Queue of a queue without commands (R105). -/
theorem exec_deleteIoSq_ends {s g : State} {a : AdminCmd} {k : Nat} {x : Ctx} {q : Sq} (ht : adminTaken s g a 0x00 .pcie k x) (hid : a.q.qid ≠ 0)
    (hsq : g.qce.sq? a.inst a.q.qid = some q) (hlive : g.qce.inSq a.inst a.q.qid = []) :
    ∃ t, exec (.deleteIoSq a) s = .next t ∧ completed s t k .success 0 ∧ t.qce.sq? a.inst a.q.qid = some { q.dropReads with deleting := true }
      ∧ t.qce.cqs = s.qce.cqs ∧ onlyQueues s t := by
  have f := admin_facts ht
  obtain ⟨h, hh⟩ : ∃ h, h = g.qce.updSq a.inst a.q.qid (fun q => { q.dropReads with deleting := true }) := ⟨_, rfl⟩
  obtain ⟨y, hy⟩ : ∃ y, y = ({ x with after := [] } : Ctx) := ⟨_, rfl⟩
  have hctx : h.updCtx k (fun y => { y with after := [] }) = { h with ctxs := Tab.set s.qce.ctxs k y } := by
    rw [Qce.updCtx, hh, hy]
    dsimp only [Qce.updSq]
    rw [f.ctxs, Tab.upd_set f.fresh]
  obtain ⟨t, hfin, hdone, honly, hcqs, hsqs, -⟩ := f.queued ht.2.2.2.2.2.2.2 (q := { h with ctxs := Tab.set s.qce.ctxs k y }) (y := y) rfl (by rw [hy]; exact f.own)
  have hexec : exec (.deleteIoSq a) s = .next (({ g with qce := { h with ctxs := Tab.set s.qce.ctxs k y } } : State).fin k .success).settle := by
    rw [← hctx, hh]
    change execDeleteIoSq a s = _
    rw [execDeleteIoSq, State.admin_goes ht]
    dsimp only
    rw [f.sqe, f.inst, if_neg (by simp [hid, hsq]), hlive]
    rfl
  refine ⟨t, hexec.trans (congrArg _ hfin), ?_, ?_, ?_, honly⟩
  · rw [hy] at hdone
    exact f.dw0 ▸ hdone
  · rw [Qce.sq?, hsqs, hh]
    exact Tab.get?_upd_self (f := fun q : Sq => { q.dropReads with deleting := true }) hsq
  · rw [hcqs, hh]
    exact f.cqs

/-! ## Keep Alive and event requests -/

/-- Keep Alive (R99): the timer starts again with every command. -/
theorem exec_keepAlive_ends {s g : State} {a : AdminCmd} {k : Nat} {x : Ctx} {i : Inst} (ht : adminTaken s g a 0x18 .ethernet k x)
    (hi : s.qce.inst? a.inst = some i) :
    ∃ t, exec (.keepAlive a) s = .next t ∧ completed s t k .success 0 ∧ t.qce.inst? a.inst = some { i with kaAt := s.clock.now }
      ∧ t.qce.cqs = s.qce.cqs ∧ onlyQueues s t := by
  have f := admin_facts ht
  obtain ⟨t, hfin, hdone, honly, hcqs, -, hinsts⟩ := f.queued_own ht.2.2.2.2.2.2.2 (q := g.qce) rfl
  refine ⟨t, ?_, hdone, ?_, hcqs.trans f.cqs, honly⟩
  · rw [← hfin]
    change execKeepAlive a s = _
    rw [execKeepAlive, State.admin_goes ht]
  · rw [Qce.inst?, hinsts]
    exact f.inst ▸ f.caller hi

theorem Qce.tellEvents_none {q : Qce} {inst : Nat} {i : Inst} (h : q.inst? inst = some i) (he : i.events = []) (n : Nat) : q.tellEvents inst n = q := by
  cases n with
  | zero => rfl
  | succ n =>
    have hnone : i.nextEvent i.events = none := by rw [he]; rfl
    rw [Qce.tellEvents, h]
    dsimp only
    rw [hnone]
    split <;> simp_all

/-- Asynchronous Event Request: it waits for an event, while the instance holds fewer than 16 (R98). -/
theorem exec_asyncEventRequest_waits {s g : State} {a : AdminCmd} {k : Nat} {x : Ctx} {i : Inst} (ht : adminTaken s g a 0x0C .every k x)
    (hi : s.qce.inst? a.inst = some i) :
    (i.aers.length < 16 → i.events = [] →
      ∃ t, exec (.asyncEventRequest a) s = .next t ∧ t.qce.ctx? k = some x ∧ t.qce.inst? a.inst = some { i with kaAt := s.clock.now, aers := i.aers ++ [k] }
        ∧ (∀ j, j ≠ k → t.qce.ctx? j = s.qce.ctx? j) ∧ onlyQueues s t)
    ∧ (16 ≤ i.aers.length → ∃ t, exec (.asyncEventRequest a) s = .next t ∧ turnedAway s t k (stat 1 0x05)) := by
  have f := admin_facts ht
  have hme : g.qce.inst? a.inst = some { i with kaAt := s.clock.now } := f.inst ▸ f.caller hi
  have hexec : exec (.asyncEventRequest a) s = .next (if 16 ≤ i.aers.length then g.fin k (stat 1 0x05)
      else { g with qce := (g.qce.updInst a.inst fun i => { i with aers := i.aers ++ [k] }).tellEvents a.inst 16 }).settle := by
    change execAsyncEventRequest a s = _
    rw [execAsyncEventRequest, State.admin_goes ht]
    rw [f.caller hi, f.inst]
    rfl
  constructor
  · intro hroom hev
    have hinst : (g.qce.updInst a.inst fun i => { i with aers := i.aers ++ [k] }).inst? a.inst = some { i with kaAt := s.clock.now, aers := i.aers ++ [k] } :=
      Tab.get?_upd_self (f := fun i : Inst => { i with aers := i.aers ++ [k] }) hme
    rw [if_neg (by omega), Qce.tellEvents_none hinst (by exact hev)] at hexec
    refine ⟨_, hexec.trans (congrArg _ (State.settle_calm (calm_of f.calm rfl rfl))), f.here, hinst, fun j hj => ?_, f.only _ g.out⟩
    simp only [Qce.updInst, Qce.ctx?]
    rw [f.ctxs, Tab.get?_set_ne _ _ hj]
  · intro hfull
    obtain ⟨t, hfin, haway⟩ := f.away (st := stat 1 0x05) rfl (by decide) ht.2.2.2.2.2.2.2
    exact ⟨t, by rw [hexec, if_pos hfull, hfin], haway⟩

/-! ## Abort -/

/-- An Abort that finds nothing to end says so in its completion (R98). -/
theorem exec_abort_misses {s g : State} {a : AdminCmd} {k : Nat} {x : Ctx} (ht : adminTaken s g a 0x08 .every k x) (hout : g.qce.abortsOut a.inst k < 32)
    (hnone : g.qce.abortTarget a.inst a.q.abortSq a.q.abortCid = none) :
    ∃ t, exec (.abort a) s = .next t ∧ completed s t k .success 1 ∧ t.qce.sqs = g.qce.sqs ∧ t.qce.cqs = s.qce.cqs ∧ onlyQueues s t := by
  have f := admin_facts ht
  obtain ⟨y, hy⟩ : ∃ y, y = ({ x with dw0 := 1, dw1 := 0 } : Ctx) := ⟨_, rfl⟩
  have hupd : g.qce.updCtx k (fun x => { x with dw0 := 1, dw1 := 0 }) = { g.qce with ctxs := Tab.set s.qce.ctxs k y } := by
    rw [Qce.updCtx, f.ctxs, Tab.upd_set f.fresh, hy]
  obtain ⟨t, hfin, hdone, honly, hcqs, hsqs, -⟩ := f.queued ht.2.2.2.2.2.2.2 (q := { g.qce with ctxs := Tab.set s.qce.ctxs k y }) (y := y) rfl
    (by rw [hy]; exact f.own)
  refine ⟨t, ?_, by rw [hy] at hdone; exact hdone, hsqs, hcqs.trans f.cqs, honly⟩
  rw [← hfin, ← hupd]
  change execAbort a s = _
  rw [execAbort, State.admin_goes ht]
  dsimp only
  rw [f.sqe, f.inst, if_neg (by omega), hnone]
  rfl

/-- An Abort of a command that waits for admission ends both; its own completion comes after the other's (R98). -/
theorem exec_abort_ends {s g : State} {a : AdminCmd} {k j : Nat} {x y : Ctx} (ht : adminTaken s g a 0x08 .every k x) (hout : g.qce.abortsOut a.inst k < 32)
    (htarget : g.qce.abortTarget a.inst a.q.abortSq a.q.abortCid = some (j, y)) (hy : s.qce.ctx? j = some y) (hstate : y.state = .admitwait)
    (hord : y.ord = false) (hzone : y.zone = none) (hside : y.side = false) (hdet : y.detached = false) :
    ∃ t u v, exec (.abort a) s = .next t ∧ t.qce.ctx? j = some u ∧ u.state = .completing ∧ u.status = stat 0 0x07 ∧ u.abrq = true
      ∧ t.qce.ctx? k = some v ∧ v.state = .completing ∧ v.status = .success ∧ v.dw0 = 0 ∧ v.after = [j]
      ∧ ∀ l, l ≠ j → l ≠ k → t.qce.ctx? l = s.qce.ctx? l := by
  have f := admin_facts ht
  have hjk : j ≠ k := f.fresh _ (Tab.mem_of_get? hy)
  have hg : ∀ l, l ≠ k → g.qce.ctx? l = s.qce.ctx? l := fun l hl => by simp only [Qce.ctx?]; rw [f.ctxs, Tab.get?_set_ne _ _ hl]
  -- the other command first: it carries the abort request and ends with it
  obtain ⟨z, hz⟩ : ∃ z, z = ({ y with abrq := true } : Ctx) := ⟨_, rfl⟩
  have hgj : g.qce.ctx? j = some y := (hg j hjk).trans hy
  have hzj : (g.setCtx j z).qce.ctx? j = some z := Tab.get?_set_self _ _ _
  have hrestz : atRest z = true := by
    rw [hz]
    exact (calm_atRest f.calm hgj : atRest y = true)
  obtain ⟨d, m, hfail⟩ := State.fin_bad (st := .abortRequested) hzj (by rw [hz]; simp [Ctx.open', hstate]) (by rw [hz]; exact hzone) (by rw [hz]; exact hord) rfl
    (by decide)
  generalize hh : ({ g.setCtx j z with
    qce := (g.setCtx j z).qce.setDone j .abortRequested
    fl := { (g.setCtx j z).fl with dip := d, mbe := m, ptx := { (g.setCtx j z).fl.ptx with growths := Tab.erase (g.setCtx j z).fl.ptx.growths j } } } : State) = h at hfail
  have hhcalm : calm h := by
    rw [← hh]
    exact calm_setDone (calm_setCtx f.calm hrestz) hzj (by rw [hz]; exact ⟨hside, hdet⟩)
  have hhj : h.qce.ctx? j = some { z with rlidx := none, rlWait := false, state := .completing, status := .abortRequested, doneSeq := g.qce.doneSeq + 1 } := by
    rw [← hh]
    exact Qce.setDone_ctx .abortRequested hzj
  have hho : ∀ l, l ≠ j → h.qce.ctx? l = g.qce.ctx? l := fun l hl => by
    rw [← hh]
    exact (Qce.setDone_other _ hl).trans (Tab.get?_set_ne _ _ hl)
  -- then the Abort itself
  obtain ⟨q, hq⟩ : ∃ q, q = h.qce.updInst a.inst (fun i => { i with aers := i.aers.filter (· ≠ j) }) := ⟨_, rfl⟩
  obtain ⟨w, hw⟩ : ∃ w, w = ({ x with after := [j], dw0 := 0, dw1 := 0 } : Ctx) := ⟨_, rfl⟩
  have hqcalm : calm ({ h with qce := q } : State) := calm_of hhcalm rfl (by rw [hq]; rfl)
  have hqk : ({ h with qce := q } : State).qce.ctx? k = some x := by
    rw [hq]
    exact (hho k hjk.symm).trans f.here
  have hrestw : atRest w = true := by simp [atRest, hw, f.state, f.encrypted, f.arrived, f.rlWait, f.side, f.detached]
  have hwk : (({ h with qce := q } : State).setCtx k w).qce.ctx? k = some w := Tab.get?_set_self _ _ _
  have hfin := State.done_calm (st := .success) (calm_setCtx (c := k) hqcalm hrestw) hwk (by simp [Ctx.open', hw, f.state])
    (by rw [hw]; exact ⟨f.side, f.detached⟩) rfl
  have hexec : exec (.abort a) s = .next ((({ h with qce := q } : State).setCtx k w).fin k .success).settle := by
    have hupd : (({ h with qce := q } : State).updCtx k fun y => { y with after := [j] }).finWith k .success 0 0
        = (({ h with qce := q } : State).setCtx k w).fin k .success := by
      obtain ⟨v, hv⟩ : ∃ v, v = ({ x with after := [j] } : Ctx) := ⟨_, rfl⟩
      have hrestv : atRest v = true := by
        rw [hv]
        exact (calm_atRest f.calm f.here : atRest x = true)
      have hfirst : ({ h with qce := q } : State).updCtx k (fun y => { y with after := [j] }) = ({ h with qce := q } : State).setCtx k v := by
        rw [State.updCtx_calm hqcalm hqk, hv]
      have hsecond : (({ h with qce := q } : State).setCtx k v).updCtx k (fun x => { x with dw0 := 0, dw1 := 0 })
          = (({ h with qce := q } : State).setCtx k v).setCtx k w := by
        rw [State.updCtx_calm (calm_setCtx hqcalm hrestv) (Tab.get?_set_self _ _ _), hw, hv]
      rw [hfirst, State.finWith, hsecond]
      simp only [State.setCtx, Tab.set_set]
    rw [← hupd, hq, ← hfail]
    have habort : y.abortable = true := by rw [Ctx.abortable, hstate]
    change execAbort a s = _
    rw [execAbort, State.admin_goes ht]
    dsimp only
    rw [f.sqe, f.inst, if_neg (by omega), htarget]
    dsimp only
    rw [if_pos habort, State.updCtx_calm f.calm hgj, hz]
  rw [hfin] at hexec
  have hlast : ∀ l, l ≠ k → (({ h with qce := q } : State).setCtx k w).qce.ctx? l = h.qce.ctx? l := fun l hl => by
    rw [hq]
    exact Tab.get?_set_ne _ _ hl
  exact ⟨_, _, _, hexec, (Qce.setDone_other _ hjk).trans ((hlast j hjk).trans hhj), rfl, rfl, by rw [hz], Qce.setDone_ctx _ hwk, rfl, rfl, by rw [hw], by rw [hw],
    fun l hlj hlk => (Qce.setDone_other _ hlk).trans ((hlast l hlk).trans ((hho l hlj).trans (hg l hlk)))⟩

/-- Settles O29: each command by its lemma. -/
theorem queueCommands : Obligations.QueueCommands :=
  ⟨fun _ _ _ _ _ _ ht hi => exec_createIoCq_ends ht hi,
    fun _ _ _ _ _ _ ht hi hid hallot hnew hsize hpc => exec_createIoSq_ends ht hi hid hallot hnew hsize hpc,
    fun _ _ _ _ _ ht hid hcq => exec_deleteIoCq_ends ht hid hcq,
    fun _ _ _ _ _ _ ht hid hsq hlive => exec_deleteIoSq_ends ht hid hsq hlive,
    fun _ _ _ _ _ ht hout => ⟨fun hnone => exec_abort_misses ht hout hnone,
      fun _ _ htarget hy hstate hord hzone hside hdet => exec_abort_ends ht hout htarget hy hstate hord hzone hside hdet⟩,
    fun _ _ _ _ _ _ ht hi => exec_asyncEventRequest_waits ht hi,
    fun _ _ _ _ _ _ ht hi => exec_keepAlive_ends ht hi⟩

end Sys2Proof.Machine
end

section
/-! Features, and the end of a shrink (R96, R151, R156, R189, R499). -/

namespace Sys2Proof.Machine

open Safety

/-! ## Set Features -/

/-- A Set Features in its turn (R96). -/
theorem exec_setFeatures_goes {s g : State} {a : AdminCmd} {k : Nat} {x : Ctx} {i : Inst} (d : FeatureData) (ht : adminTaken s g a 0x09 .every k x)
    (hi : s.qce.inst? a.inst = some i) :
    exec (.setFeatures a d) s = .next (
      if a.q.fid ∉ fids then g.fin k .invalidField
      else if a.q.sv ∧ a.q.fid ≠ 0xD0 then g.fin k .notSaveable
      else if a.q.fid ∈ deviceFids then g.setDeviceFeature k x d
      else g.setInstFeature k x { i with kaAt := s.clock.now } d).settle := by
  have f := admin_facts ht
  change execSetFeatures a d s = _
  rw [execSetFeatures, State.admin_goes ht, f.caller hi, f.sqe]
  simp only [Bool.not_eq_true', List.contains_eq_mem, decide_eq_true_eq, decide_eq_false_iff_not]

theorem State.setInstFeature_kept (s : State) (k : Nat) {x : Ctx} (i : Inst) (d : FeatureData) (h : x.sqe.fid = 0x01 ∨ x.sqe.fid = 0x08 ∨ x.sqe.fid = 0x0B) :
    s.setInstFeature k x i d = s.setKept k x x.sqe.fid (x.sqe.cdw11 &&& instMask x.sqe.fid) := by
  unfold State.setInstFeature
  obtain h | h | h := h
  all_goals rw [h]; rfl

theorem State.setInstFeature_class (s : State) (k : Nat) {x : Ctx} (i : Inst) (d : FeatureData) (h : x.sqe.fid = 0xD3) :
    s.setInstFeature k x i d = s.setClass k x := by
  unfold State.setInstFeature
  rw [h]
  rfl

theorem State.setDeviceFeature_share (s : State) (k : Nat) {x : Ctx} (d : FeatureData) (h : x.sqe.fid = 0xD4) : s.setDeviceFeature k x d = s.setShare k x := by
  unfold State.setDeviceFeature
  rw [h]
  rfl

/-- A feature that the instance keeps. -/
theorem exec_setFeatures_keeps {s g : State} {a : AdminCmd} {d : FeatureData} {k : Nat} {x : Ctx} {i : Inst} (ht : adminTaken s g a 0x09 .every k x)
    (hi : s.qce.inst? a.inst = some i) (hfid : a.q.fid = 0x01 ∨ a.q.fid = 0x08 ∨ a.q.fid = 0x0B) (hsv : a.q.sv = false) :
    ∃ t, exec (.setFeatures a d) s = .next t ∧ completed s t k .success 0 ∧ t.qce.cqs = s.qce.cqs
      ∧ t.qce.inst? a.inst = some { i with kaAt := s.clock.now, features := Tab.set i.features a.q.fid (a.q.cdw11 &&& instMask a.q.fid) } ∧ onlyQueues s t := by
  have f := admin_facts ht
  obtain ⟨keep, hkeep⟩ : ∃ h : Inst → Inst, h = fun i => { i with features := Tab.set i.features a.q.fid (a.q.cdw11 &&& instMask a.q.fid) } := ⟨_, rfl⟩
  obtain ⟨t, hfin, hdone, honly, hcqs, -, hinsts⟩ := f.queued_own ht.2.2.2.2.2.2.2 (q := g.qce.updInst a.inst keep) rfl
  have hset : g.setInstFeature k x { i with kaAt := s.clock.now } d = ({ g with qce := g.qce.updInst a.inst keep } : State).fin k .success := by
    rw [g.setInstFeature_kept k _ d (f.sqe ▸ hfid), State.setKept, f.sqe, f.inst, hkeep]
  have hknown : a.q.fid ∈ fids ∧ a.q.fid ∉ deviceFids := by
    obtain h | h | h := hfid <;> rw [h] <;> decide
  refine ⟨t, ?_, hdone, hcqs.trans f.cqs, ?_, honly⟩
  · rw [exec_setFeatures_goes d ht hi, if_neg (not_not.2 hknown.1), if_neg (by simp [hsv]), if_neg hknown.2, hset, hfin]
  · rw [Qce.inst?, hinsts]
    refine (Tab.get?_upd_self (f := keep) (f.inst ▸ f.caller hi)).trans ?_
    rw [hkeep]

/-- The class of a queue (R151). -/
theorem exec_setFeatures_class {s g : State} {a : AdminCmd} {d : FeatureData} {k j : Nat} {x : Ctx} {i : Inst} {q : Sq} {t0 : TasInst}
    (ht : adminTaken s g a 0x09 .every k x) (hi : s.qce.inst? a.inst = some i) (hfid : a.q.fid = 0xD3) (hsv : a.q.sv = false)
    (hj : j = natBits a.q.cdw11 15 0) (hne : j ≠ 0) (hq : g.qce.sq? a.inst j = some q) (ht0 : Tab.get? s.tas.insts a.inst = some t0)
    (hmask : t0.cur.lcmask.testBit (natBits a.q.cdw11 18 16) = true) :
    ∃ t, exec (.setFeatures a d) s = .next t ∧ completed s t k .success 0 ∧ t.qce.sq? a.inst j = some { q with lc := natBits a.q.cdw11 18 16 }
      ∧ t.qce.cqs = s.qce.cqs ∧ onlyQueues s t := by
  have f := admin_facts ht
  obtain ⟨t, hfin, hdone, honly, hcqs, hsqs, -⟩ := f.queued_own ht.2.2.2.2.2.2.2
    (q := g.qce.updSq a.inst j fun q => { q with lc := natBits a.q.cdw11 18 16 }) rfl
  have htas : Tab.get? g.tas.insts a.inst = some t0 := by rw [f.frame]; exact ht0
  have hset : g.setInstFeature k x { i with kaAt := s.clock.now } d
      = ({ g with qce := g.qce.updSq a.inst j fun q => { q with lc := natBits a.q.cdw11 18 16 } } : State).fin k .success := by
    rw [g.setInstFeature_class k _ d (f.sqe ▸ hfid), State.setClass, f.sqe, f.inst, ← hj, hq, htas]
    simp [hmask, hne]
  refine ⟨t, ?_, hdone, ?_, hcqs.trans f.cqs, honly⟩
  · rw [exec_setFeatures_goes d ht hi, if_neg (by rw [hfid]; decide), if_neg (by simp [hsv]), if_neg (by rw [hfid]; decide), hset, hfin]
  · rw [Qce.sq?, hsqs]
    exact Tab.get?_upd_self (f := fun q : Sq => { q with lc := natBits a.q.cdw11 18 16 }) hq

/-- A staged share (R155, R156). -/
theorem exec_setFeatures_share {s g : State} {a : AdminCmd} {d : FeatureData} {k : Nat} {x : Ctx} {i : Inst} (ht : adminTaken s g a 0x09 .every k x)
    (hi : s.qce.inst? a.inst = some i) (hfid : a.q.fid = 0xD4) (hsv : a.q.sv = false) (hpf : i.pf = true) (heth : i.eth = false)
    (hport : g.ofPort x (natBits a.q.cdw11 10 0) = true) (hvalid : a.q.share.valid = true) :
    ∃ t, exec (.setFeatures a d) s = .next t ∧ completed s t k .success 0 ∧ t.tas = s.tas.stage (natBits a.q.cdw11 10 0) a.q.share
      ∧ t = { s with hfu := t.hfu, qce := t.qce, out := t.out, tas := t.tas } := by
  have f := admin_facts ht
  have htas : g.tas = s.tas := by rw [f.frame]
  have hset : g.setDeviceFeature k x d = ({ g with tas := s.tas.stage (natBits a.q.cdw11 10 0) a.q.share } : State).fin k .success := by
    have hasPf : g.asPf x = true := by rw [State.asPf, f.caller hi, f.side]; simp [hpf, heth]
    rw [g.setDeviceFeature_share k d (f.sqe ▸ hfid), State.setShare, f.sqe, hasPf, hport, hvalid, if_neg (by decide), htas]
  obtain ⟨q, hfin, hdone, -⟩ := f.ends (h := { g with tas := s.tas.stage (natBits a.q.cdw11 10 0) a.q.share }) (st := .success) rfl
    (by dsimp only; rw [f.frame]) rfl ht.2.2.2.2.2.2.2
  refine ⟨_, ?_, hdone, rfl, ?_⟩
  · rw [exec_setFeatures_goes d ht hi, if_neg (by rw [hfid]; decide), if_neg (by simp [hsv]), if_pos (by rw [hfid]; decide), hset, hfin]
  · dsimp only
    rw [f.frame]

/-! ## Get Features -/

/-- A Get of a feature's capabilities (R499). -/
theorem exec_getFeatures_caps {s g : State} {a : AdminCmd} {k : Nat} {x : Ctx} (ht : adminTaken s g a 0x0A .every k x) (hfid : a.q.fid ∈ fids)
    (hsel : a.q.sel = 3) :
    ∃ t, exec (.getFeatures a) s = .next t ∧ completed s t k .success (featureCaps a.q.fid) ∧ onlyQueues s t := by
  have f := admin_facts ht
  refine ⟨_, ?_, finWith_completed_onlyQueues ht (featureCaps a.q.fid)⟩
  change execGetFeatures a s = _
  rw [execGetFeatures, State.admin_goes ht]
  dsimp only
  rw [f.sqe, hsel, if_neg (by simp [hfid]), if_pos rfl]

/-- A Get of the current value of a feature that the instance keeps. -/
theorem exec_getFeatures_kept {s g : State} {a : AdminCmd} {k : Nat} {x : Ctx} {i : Inst} (ht : adminTaken s g a 0x0A .every k x)
    (hi : s.qce.inst? a.inst = some i) (hfid : a.q.fid = 0x08 ∨ a.q.fid = 0x0B) (hsel : a.q.sel = 0) :
    ∃ t, exec (.getFeatures a) s = .next t ∧ completed s t k .success (i.feature a.q.fid 0) ∧ onlyQueues s t := by
  have f := admin_facts ht
  refine ⟨_, ?_, finWith_completed_onlyQueues ht (i.feature a.q.fid 0)⟩
  have hvalue : g.getInstFeature x { i with kaAt := s.clock.now } (a.q.sel != 0) = .ok { dw0 := i.feature a.q.fid 0 } := by
    rw [State.getInstFeature, f.sqe, hsel]
    obtain h | h := hfid
    all_goals rw [h]; rfl
  have hown : deviceFids.contains a.q.fid = false ∧ fids.contains a.q.fid = true := by
    obtain h | h := hfid <;> rw [h] <;> decide
  change execGetFeatures a s = _
  rw [execGetFeatures, State.admin_goes ht]
  dsimp only
  rw [f.sqe, hown.1, hown.2, f.caller hi]
  dsimp only
  rw [hvalue, hsel]
  rfl

/-- A Get of the caller's own share (R156). -/
theorem exec_getFeatures_share {s g : State} {a : AdminCmd} {k : Nat} {x : Ctx} {t0 : TasInst} (ht : adminTaken s g a 0x0A .every k x)
    (hfid : a.q.fid = 0xD4) (hsel : a.q.sel = 0) (hown : natBits a.q.cdw11 10 0 = a.inst)
    (ht0 : Tab.get? s.tas.insts a.inst = some t0) :
    ∃ t, exec (.getFeatures a) s = .next t ∧ completed s t k .success 0 ∧ t.out = .data k (t0.shareBytes a.inst) :: g.out ∧ onlyQueues s t := by
  have f := admin_facts ht
  have htas : Tab.get? g.tas.insts a.inst = some t0 := by rw [f.frame]; exact ht0
  have hhave : (g.tas.instOf a.inst) = t0 := by rw [Tas.instOf, htas]
  obtain ⟨q, hfin, hdone, -⟩ := f.endsWith (h := g.emit (.data k (t0.shareBytes a.inst))) (st := .success) rfl (by rw [State.emit_sec, f.frame]) rfl
    ht.2.2.2.2.2.2.2 0 0
  have hvalue : g.getDeviceFeature x a.q.sel = .ok { dw0 := 0, data := some (t0.shareBytes a.inst) } := by
    have hshare : g.getDeviceFeature x a.q.sel = g.getShare x false := by
      unfold State.getDeviceFeature
      rw [f.sqe, hfid, hsel]
      rfl
    rw [hshare, State.getShare, f.sqe, f.inst, hown, if_neg (by simp), if_neg Bool.false_ne_true, hhave]
  refine ⟨_, ?_, hdone, rfl, f.only q _⟩
  rw [← hfin]
  change execGetFeatures a s = _
  rw [execGetFeatures, State.admin_goes ht]
  dsimp only
  rw [f.sqe, hvalue, if_neg (by rw [hfid, hsel]; decide), if_neg (by rw [hsel]; decide), if_pos (by rw [hfid]; decide)]

/-! ## The end of a shrink -/

/-- A shrink that has left the locks acts on its namespace (R189). -/
theorem exec_namespaceShrinkComplete_goes {s : State} {k nsx : Nat} {x : Ctx} {n : Ns} (hruns : s.runs = true) (hx : s.qce.ctx? k = some x)
    (hkind : x.kind = .admin) (hopc : x.sqe.opc = 0x09) (hstate : x.state = .fw) (hmods : x.mods ≠ []) (hw : x.rlWait = false)
    (hread : s.qce.readBefore x = false) (hnsx : x.nsx = some nsx) (hn : s.fl.ns? nsx = some n) (hho : s.handover = false)
    (hbefore : s.qce.sizeBefore nsx x = false) (hless : x.sqe.newSize < n.nsze) (hok : n.sizeOk x.sqe.newSize = true) :
    exec (.namespaceShrinkComplete k) s = .next ((s.withFl (s.fl.release k)).shrink k nsx n x.sqe.newSize).settle := by
  have hgo : (x.kind != .admin || x.sqe.opc != 0x09 || x.state != .fw || x.mods.isEmpty || x.rlWait || s.qce.readBefore x || s.handover) = false := by
    simp [hkind, hopc, hstate, hmods, hw, hread, hho]
  change execNamespaceShrinkComplete k s = _
  rw [execNamespaceShrinkComplete, State.whenRuns_on hruns, hx]
  dsimp only
  rw [hgo, if_neg Bool.false_ne_true, hnsx]
  dsimp only
  rw [hn]
  dsimp only
  rw [hbefore, if_neg Bool.false_ne_true, State.sizeChange, hn]
  dsimp only
  rw [hok, if_neg (by decide), if_neg hless.ne, if_pos hless]

theorem Tab.erase_erase {α : Type} (t : Tab α) (k : Nat) : Tab.erase (Tab.erase t k) k = Tab.erase t k := by
  simp [Tab.erase]

/-- A shrink whose tail is in use names the lowest block there. -/
theorem State.shrink_blocked {s : State} {k nsx size l : Nat} {x : Ctx} {n : Ns} (hcalm : calm s) (hx : s.qce.ctx? k = some x) (hstate : x.state = .fw)
    (hside : x.side = false) (hdet : x.detached = false) (hord : x.ord = false) (hzone : x.zone = none) (hl : s.fl.lowestUsed nsx n size = some l) :
    ∃ t, ((s.withFl (s.fl.release k)).shrink k nsx n size).settle = t ∧ completed s t k .shrinkBlocked (l % 2 ^ 32)
      ∧ t.fl.ptx = { s.fl.ptx with growths := Tab.erase s.fl.ptx.growths k } ∧ t = { s with qce := t.qce, fl := t.fl } := by
  obtain ⟨g, hg⟩ : ∃ g, g = s.withFl (s.fl.release k) := ⟨_, rfl⟩
  obtain ⟨z, hz⟩ : ∃ z, z = ({ x with dw0 := l % 2 ^ 32, dw1 := l / 2 ^ 32 } : Ctx) := ⟨_, rfl⟩
  have hgcalm : calm g := by rw [hg]; exact hcalm
  have hgx : g.qce.ctx? k = some x := by rw [hg]; exact hx
  have hrest : atRest z = true := by
    rw [hz]
    exact (calm_atRest hcalm hx : atRest x = true)
  have hzx : (g.setCtx k z).qce.ctx? k = some z := Tab.get?_set_self _ _ _
  obtain ⟨d, m, hfin⟩ := State.fail_calm (st := .shrinkBlocked) (calm_setCtx (c := k) hgcalm hrest) hzx (by rw [hz]; simp [Ctx.open', hstate])
    (by rw [hz]; exact ⟨hside, hdet⟩) (by rw [hz]; exact hzone) (by rw [hz]; exact hord) rfl (by decide)
  have hlow : g.fl.lowestUsed nsx n size = some l := by rw [hg]; exact hl
  have hshrink : g.shrink k nsx n size = (g.setCtx k z).fin k .shrinkBlocked := by
    rw [State.shrink, hlow]
    dsimp only
    rw [State.finWith, State.updCtx_calm hgcalm hgx, hz]
  rw [← hg, hshrink, hfin]
  refine ⟨_, rfl, ⟨⟨_, Qce.setDone_ctx _ hzx, rfl, rfl, by rw [hz]⟩, fun j hj => ?_⟩, ?_, ?_⟩
  · refine (Qce.setDone_other _ hj).trans ((Tab.get?_set_ne _ _ hj).trans ?_)
    rw [hg]
    rfl
  · rw [hg]
    dsimp only [State.setCtx_fl, State.withFl, Flash.release]
    rw [Tab.erase_erase]
  · rw [hg]
    rfl

/-- A shrink whose tail is free cuts the namespace, and its instances hear of it when they next ask. -/
theorem State.shrink_cuts {s : State} {k nsx size : Nat} {x : Ctx} {n : Ns} (hcalm : calm s) (hx : s.qce.ctx? k = some x) (hstate : x.state = .fw)
    (hside : x.side = false) (hdet : x.detached = false) (hn : s.fl.ns? nsx = some n) (hl : s.fl.lowestUsed nsx n size = none) (hdw : x.dw0 = 0)
    (hquiet : ∀ j ∈ n.attached, ∀ i, s.qce.inst? j = some i → i.aers = []) :
    ∃ t, ((s.withFl (s.fl.release k)).shrink k nsx n size).settle = t ∧ completed s t k .success 0
      ∧ (t.fl.ns? nsx).map (·.nsze) = some size ∧ (∀ j, j ≠ nsx → t.fl.ns? j = s.fl.ns? j)
      ∧ t = { s with qce := t.qce, fl := { s.fl with ptx := { s.fl.ptx with nss := t.fl.ptx.nss, growths := Tab.erase s.fl.ptx.growths k } } } := by
  obtain ⟨cut, hcut⟩ : ∃ f : Ns → Ns, f = fun m => { m with nsze := size, zones := Tab.keep m.zones fun z _ => !n.zoned || decide (z * n.zsze < size) } := ⟨_, rfl⟩
  obtain ⟨ins, hins, -⟩ := Qce.nsChanged_waits (nsx + 1) hquiet
  obtain ⟨g, hg⟩ : ∃ g, g = ({ s with
      fl := { s.fl.release k with ptx := { (s.fl.release k).ptx with nss := Tab.upd s.fl.ptx.nss nsx cut } }, qce := { s.qce with insts := ins } } : State) := ⟨_, rfl⟩
  have hlow : (s.withFl (s.fl.release k)).fl.lowestUsed nsx n size = none := hl
  have hshrink : (s.withFl (s.fl.release k)).shrink k nsx n size = g.fin k .success := by
    rw [State.shrink, hlow, hg, ← hins, hcut]
    rfl
  have hfin := State.done_calm (s := g) (c := k) (x := x) (st := .success) (by rw [hg]; exact calm_of hcalm rfl rfl) (by rw [hg]; exact hx)
    (by simp [Ctx.open', hstate]) ⟨hside, hdet⟩ rfl
  rw [hshrink, hfin, hg]
  refine ⟨_, rfl, ⟨⟨_, Qce.setDone_ctx _ hx, rfl, rfl, hdw⟩, fun j hj => Qce.setDone_other _ hj⟩, ?_, fun j hj => ?_, rfl⟩
  · have hget : Tab.get? (Tab.upd s.fl.ptx.nss nsx cut) nsx = some (cut n) := Tab.get?_upd_self hn
    change (Tab.get? (Tab.upd s.fl.ptx.nss nsx cut) nsx).map (·.nsze) = some size
    rw [hget, hcut]
    rfl
  · change Tab.get? (Tab.upd s.fl.ptx.nss nsx cut) j = Tab.get? s.fl.ptx.nss j
    rw [Tab.get?_upd, if_neg hj]

/-- Settles O30: what a Set keeps or refuses, what a Get answers, and both ends of a shrink. -/
theorem featureCommands : Obligations.FeatureCommands := by
  refine ⟨fun s g a d k x i ht hi => ⟨fun hfid => ?_, fun hfid hne hsv => ?_, fun hfid hsv => exec_setFeatures_keeps ht hi hfid hsv,
      fun hfid hsv j q t0 hj hne hq ht0 hmask => exec_setFeatures_class ht hi hfid hsv hj hne hq ht0 hmask,
      fun hfid hsv hpf heth hport hvalid => exec_setFeatures_share ht hi hfid hsv hpf heth hport hvalid⟩,
    fun s g a k x i ht hi => ⟨fun hfid hsel => exec_getFeatures_caps ht hfid hsel, fun hfid hsel => exec_getFeatures_kept ht hi hfid hsel,
      fun hfid hsel hown t0 ht0 => exec_getFeatures_share ht hfid hsel hown ht0⟩,
    fun s k nsx x n hruns hcalm hx hkind hopc hstate hmods hw hside hdet hread hnsx hn hho hbefore hless hok => ⟨fun l hl hord hzone => ?_, fun hl hdw hquiet => ?_⟩⟩
  · obtain ⟨t, hfin, haway⟩ := (admin_facts ht).away (st := .invalidField) rfl (by decide) ht.2.2.2.2.2.2.2
    exact ⟨t, by rw [exec_setFeatures_goes d ht hi, if_pos hfid, hfin], haway⟩
  · obtain ⟨t, hfin, haway⟩ := (admin_facts ht).away (st := .notSaveable) rfl (by decide) ht.2.2.2.2.2.2.2
    exact ⟨t, by rw [exec_setFeatures_goes d ht hi, if_neg (not_not.2 hfid), if_pos ⟨hsv, hne⟩, hfin], haway⟩
  · obtain ⟨t, h, hrest⟩ := State.shrink_blocked hcalm hx hstate hside hdet hord hzone hl
    exact ⟨t, (exec_namespaceShrinkComplete_goes hruns hx hkind hopc hstate hmods hw hread hnsx hn hho hbefore hless hok).trans (congrArg _ h), hrest⟩
  · obtain ⟨t, h, hrest⟩ := State.shrink_cuts hcalm hx hstate hside hdet hn hl hdw hquiet
    exact ⟨t, (exec_namespaceShrinkComplete_goes hruns hx hkind hopc hstate hmods hw hread hnsx hn hho hbefore hless hok).trans (congrArg _ h), hrest⟩

end Sys2Proof.Machine
end

section
/-! What admin commands report (R50, R93 to R95). -/

namespace Sys2Proof.Machine

open Safety

/-! ## Data to the host -/

theorem AdminFacts.fl_eq {s g : State} {a : AdminCmd} {k : Nat} {x : Ctx} (f : AdminFacts s g a k x) : g.fl = s.fl := by rw [f.frame]
theorem AdminFacts.mgc_eq {s g : State} {a : AdminCmd} {k : Nat} {x : Ctx} (f : AdminFacts s g a k x) : g.mgc = s.mgc := by rw [f.frame]
theorem AdminFacts.sec_eq {s g : State} {a : AdminCmd} {k : Nat} {x : Ctx} (f : AdminFacts s g a k x) : g.sec = s.sec := by rw [f.frame]

/-- An admin command that answers some bytes and succeeds. -/
theorem AdminFacts.answers {s g : State} {a : AdminCmd} {k : Nat} {x : Ctx} (f : AdminFacts s g a k x) (hs : Safety.calm s) (bs : List Byte) :
    ∃ t, ((g.emit (.data k bs)).fin k .success).settle = t ∧ completed s t k .success 0 ∧ t.out = .data k bs :: g.out ∧ onlyQueues s t := by
  obtain ⟨q, hfin, hdone, -⟩ := f.ends (h := g.emit (.data k bs)) (st := .success) rfl (by rw [State.emit_sec, f.frame]) rfl hs
  exact ⟨_, hfin, hdone, rfl, f.only q _⟩

/-- The same with a completion dword 0. -/
theorem AdminFacts.answersWith {s g : State} {a : AdminCmd} {k : Nat} {x : Ctx} (f : AdminFacts s g a k x) (hs : Safety.calm s) (bs : List Byte) (d0 : Nat) :
    ∃ t, ((g.emit (.data k bs)).finWith k .success d0 0).settle = t ∧ completed s t k .success d0 ∧ t.out = .data k bs :: g.out ∧ onlyQueues s t := by
  obtain ⟨q, hfin, hdone, -⟩ := f.endsWith (h := g.emit (.data k bs)) (st := .success) rfl (by rw [State.emit_sec, f.frame]) rfl hs d0 0
  exact ⟨_, hfin, hdone, rfl, f.only q _⟩

/-- The namespace that an admin command of an instance names. -/
theorem AdminFacts.callerNs {s g : State} {a : AdminCmd} {k : Nat} {x : Ctx} (f : AdminFacts s g a k x) (nsid : Nat) :
    g.callerNs x nsid = s.fl.attachedNs a.inst nsid := by
  rw [State.callerNs, f.side, f.inst, f.fl_eq]
  rfl

/-! ## Log pages -/

/-- A Get Log Page of a page that is there. -/
theorem exec_getLogPage_goes {s g : State} {a : AdminCmd} {k : Nat} {x : Ctx} {p : Page} (ht : adminTaken s g a 0x02 .every k x) (hinst : a.inst < 2048)
    (hp : g.logPage x = .ok p) (hal : a.q.logOffset % 4 = 0) (hin : a.q.logOffset ≤ p.size) (hc2 : a.q.lid ≠ 0xC2) (hc3 : a.q.lid ≠ 0xC3) (hc5 : a.q.lid ≠ 0xC5) :
    exec (.getLogPage a) s = .next ((if a.q.rae then g.emit (.data k (p.read a.q.lid a.q.logOffset a.q.logBytes))
      else { g.emit (.data k (p.read a.q.lid a.q.logOffset a.q.logBytes)) with qce := g.qce.pageTaken a.inst a.q.lid a.q.nsid }).fin k .success).settle := by
  have f := admin_facts ht
  have hclear : ∀ h : State, h.clearCounters x = h := fun h => by
    rw [State.clearCounters, f.sqe, if_neg hc2, if_neg hc3, ite_self]
  change execGetLogPage a s = _
  rw [execGetLogPage, if_neg (by omega), State.admin_goes ht, hp]
  dsimp only
  rw [f.sqe, f.inst, if_neg (by simp [hal, hin.not_gt, hc5]), hclear]
  rfl

/-- Taking a page changes instances only, while no event request waits. -/
theorem Qce.pageTaken_insts {q : Qce} {inst : Nat} {i : Inst} (lid nsid : Nat) (hi : q.inst? inst = some i) (ha : i.aers = []) :
    ∃ ins, q.pageTaken inst lid nsid = { q with insts := ins } ∧ (lid = 0x04 → (Tab.get? ins inst).map (·.changedNs) = some []) := by
  obtain ⟨take, htake⟩ : ∃ h : Inst → Inst, h = fun i =>
    { i with
      changedNs := if lid = 0x04 then [] else i.changedNs
      changedZones := if lid = 0xBF then i.changedZones.filter fun z => z.1 + 1 != nsid else i.changedZones
      resvLog := if lid = 0x80 then i.resvLog.drop 1 else i.resvLog } := ⟨_, rfl⟩
  obtain ⟨drop, hdrop⟩ : ∃ h : Inst → Inst, h = fun i => { i with reported := i.reported.filter fun r => r.page != lid } := ⟨_, rfl⟩
  have hget : ((q.updInst inst take).updInst inst drop).inst? inst = some (drop (take i)) := Tab.get?_upd_self (Tab.get?_upd_self hi)
  have haers : (drop (take i)).aers = [] := by rw [hdrop, htake]; exact ha
  refine ⟨((q.updInst inst take).updInst inst drop).insts, ?_, fun hlid => ?_⟩
  · rw [Qce.pageTaken, Qce.pageRead, ← htake, ← hdrop, Qce.tellEvents_waits hget haers]
    rfl
  · rw [Qce.inst?] at hget
    rw [hget, hdrop, htake]
    simp [hlid]

/-- Get Log Page (R94). -/
theorem exec_getLogPage_reports {s g : State} {a : AdminCmd} {k : Nat} {x : Ctx} {i : Inst} {p : Page} (ht : adminTaken s g a 0x02 .every k x)
    (hi : s.qce.inst? a.inst = some i) (hinst : a.inst < 2048) (hp : g.logPage x = .ok p) (hal : a.q.logOffset % 4 = 0) (hin : a.q.logOffset ≤ p.size)
    (hc2 : a.q.lid ≠ 0xC2) (hc3 : a.q.lid ≠ 0xC3) (hc5 : a.q.lid ≠ 0xC5) :
    (a.q.rae = true →
      ∃ t, exec (.getLogPage a) s = .next t ∧ completed s t k .success 0 ∧ t.out = .data k (p.read a.q.lid a.q.logOffset a.q.logBytes) :: g.out
        ∧ onlyQueues s t)
    ∧ (a.q.rae = false → i.aers = [] →
      ∃ t, exec (.getLogPage a) s = .next t ∧ completed s t k .success 0 ∧ t.out = .data k (p.read a.q.lid a.q.logOffset a.q.logBytes) :: g.out
        ∧ (a.q.lid = 0x04 → (t.qce.inst? a.inst).map (·.changedNs) = some []) ∧ onlyQueues s t) := by
  have f := admin_facts ht
  have hcalm : calm s := ht.2.2.2.2.2.2.2
  have hexec := exec_getLogPage_goes ht hinst hp hal hin hc2 hc3 hc5
  constructor
  · intro hrae
    obtain ⟨t, hfin, hrest⟩ := f.answers hcalm (p.read a.q.lid a.q.logOffset a.q.logBytes)
    rw [hrae, if_pos rfl, hfin] at hexec
    exact ⟨t, hexec, hrest⟩
  · intro hrae haers
    obtain ⟨ins, htaken, hchanged⟩ := Qce.pageTaken_insts (i := { i with kaAt := s.clock.now }) a.q.lid a.q.nsid (f.inst ▸ f.caller hi) haers
    obtain ⟨q, hfin, hdone, hinsts, -⟩ := f.ends (h := { g.emit (.data k (p.read a.q.lid a.q.logOffset a.q.logBytes)) with qce := { g.qce with insts := ins } })
      (st := .success) rfl (by dsimp only; rw [State.emit_sec, f.frame]) rfl hcalm
    rw [hrae, if_neg Bool.false_ne_true, htaken, hfin] at hexec
    refine ⟨_, hexec, hdone, rfl, fun hlid => ?_, f.only q _⟩
    rw [Qce.inst?, hinsts]
    exact hchanged hlid

/-- A port's discovery log goes to its discovery controller's host, with the entries of every Ethernet port (R50). -/
theorem exec_getLogPage_discovery {s : State} {a : AdminCmd} (hinst : 2048 ≤ a.inst) (hside : a.side = false) (hlid : a.q.lid = 0x70)
    (hconn : (s.hfu.conns.any fun c => c.2.inst == a.inst) = true) :
    ∃ es, exec (.getLogPage a) s = .next (s.emit (.discovery (a.inst - 2048) Config.subsysNqn es))
      ∧ ∀ n p, (n, p) ∈ s.hfu.ports → p.proto = .eth → ∀ e ∈ discEntries n ((s.portBlock n).getD []), e ∈ es := by
  have hexec : exec (.getLogPage a) s = .next (s.emit (.discovery (a.inst - 2048) Config.subsysNqn
      ((Tab.keysWhere s.hfu.ports fun _ p => p.proto = .eth).flatMap fun n => discEntries n ((s.portBlock n).getD [])))) := by
    change execGetLogPage a s = _
    rw [execGetLogPage, if_pos ⟨hinst, by simp [hside]⟩, State.discoveryPage, if_pos ⟨hlid, hconn⟩]
  exact ⟨_, hexec, fun n p hmem hproto e he =>
    List.mem_flatMap.2 ⟨n, List.mem_map.2 ⟨(n, p), List.mem_filter.2 ⟨hmem, by simpa using hproto⟩, rfl⟩, he⟩⟩

/-! ## Identify -/

/-- Identify answers its structure or its refusal (R95). -/
theorem exec_identify_goes {s g : State} {a : AdminCmd} {k : Nat} {x : Ctx} (ht : adminTaken s g a 0x06 .every k x) :
    exec (.identify a) s = .next (match g.identify x with
      | .ok bs => (g.emit (.data k bs)).fin k .success
      | .error st => g.fin k st).settle := by
  change execIdentify a s = _
  rw [execIdentify, State.admin_goes ht] <;> rfl

theorem State.identify_controllers (s : State) {x : Ctx} (h : x.sqe.cns = 0x13) :
    s.identify x = .ok (controllerList (s.controllersFrom x.sqe.cntid fun _ => true)) := by
  unfold State.identify
  rw [h]
  rfl

theorem State.identify_unknown (s : State) {x : Ctx} (h : x.sqe.cns = 0xFF) : s.identify x = .error .invalidField := by
  unfold State.identify
  rw [h]
  rfl

/-! ## Get LBA Status, directives and NVMe-MI -/

/-- Get LBA Status answers an open list of the length asked for (R93). -/
theorem exec_getLbaStatus_answers {s g : State} {a : AdminCmd} {k : Nat} {x : Ctx} {n : Ns} (ht : adminTaken s g a 0x86 .every k x)
    (hn : s.fl.attachedNs a.inst a.q.nsid = some n) (hatype : natBits a.q.cdw13 31 24 = 0x10) (hin : a.q.slba < n.nsze) :
    ∃ t bs, exec (.getLbaStatus a) s = .next t ∧ completed s t k .success 0 ∧ t.out = .data k bs :: g.out ∧ bs.length = 4 * (a.q.cdw12 % 2 ^ 32 + 1)
      ∧ t = { s with hfu := t.hfu, qce := t.qce, out := t.out, free := s.free + 1 } := by
  have f := admin_facts ht
  obtain ⟨bs, hbs⟩ : ∃ bs, bs = openBytes (0x10000 + Config.freeValue g.free) 0 (4 * (a.q.cdw12 % 2 ^ 32 + 1)) := ⟨_, rfl⟩
  obtain ⟨q, hfin, hdone, -⟩ := f.ends (h := ({ g with free := g.free + 1 } : State).emit (.data k bs)) (st := .success) rfl
    (by rw [State.emit_sec]; exact congrArg _ f.sec_eq) rfl ht.2.2.2.2.2.2.2
  refine ⟨_, bs, ?_, hdone, rfl, by rw [hbs]; simp [openBytes], ?_⟩
  · rw [← hfin, hbs]
    change execGetLbaStatus a s = _
    rw [execGetLbaStatus, State.admin_goes ht]
    dsimp only
    rw [f.sqe, f.callerNs, hn]
    dsimp only
    rw [hatype, if_neg (by decide), if_neg hin.not_ge]
    rfl
  · dsimp only [State.emit]
    rw [f.frame]

/-- Directive Receive answers the parameters of Identify (R93). -/
theorem exec_directiveReceive_answers {s g : State} {a : AdminCmd} {k : Nat} {x : Ctx} (ht : adminTaken s g a 0x1A .every k x)
    (hn : (s.fl.attachedNs a.inst a.q.nsid).isSome = true) (htype : natBits a.q.cdw11 15 8 = 0) (hop : natBits a.q.cdw11 7 0 = 1) :
    ∃ t, exec (.directiveReceive a) s = .next t ∧ completed s t k .success 0
      ∧ t.out = .data k (fit (4 * (a.q.cdw10 % 2 ^ 32 + 1)) (directiveParams s.fl.ptx.fdp)) :: g.out ∧ onlyQueues s t := by
  have f := admin_facts ht
  obtain ⟨t, hfin, hrest⟩ := f.answers ht.2.2.2.2.2.2.2 (fit (4 * (a.q.cdw10 % 2 ^ 32 + 1)) (directiveParams s.fl.ptx.fdp))
  have hsees : g.seesNs x = true := by rw [State.seesNs, f.sqe, f.callerNs, hn]
  refine ⟨t, ?_, hrest⟩
  rw [← hfin]
  change execDirectiveReceive a s = _
  rw [execDirectiveReceive, State.admin_goes ht]
  rw [hsees, f.sqe, f.fl_eq, if_neg (by decide), if_pos ⟨htype, hop⟩]

/-- Directive Send enables the Identify directive, which is always on, and disables it never (R93). -/
theorem exec_directiveSend_ends {s g : State} {a : AdminCmd} {k : Nat} {x : Ctx} (ht : adminTaken s g a 0x19 .every k x)
    (hn : (s.fl.attachedNs a.inst a.q.nsid).isSome = true) (htype : natBits a.q.cdw11 15 8 = 0) (hop : natBits a.q.cdw11 7 0 = 1)
    (htarget : natBits a.q.cdw12 15 8 = 0) :
    (natBits a.q.cdw12 0 0 = 1 → ∃ t, exec (.directiveSend a) s = .next t ∧ completed s t k .success 0 ∧ onlyQueues s t)
    ∧ (natBits a.q.cdw12 0 0 = 0 → ∃ t, exec (.directiveSend a) s = .next t ∧ turnedAway s t k .invalidField) := by
  have f := admin_facts ht
  have hcalm : calm s := ht.2.2.2.2.2.2.2
  have hsees : g.seesNs x = true := by rw [State.seesNs, f.sqe, f.callerNs, hn]
  have hexec : exec (.directiveSend a) s = .next (if natBits a.q.cdw12 0 0 = 1 then g.fin k .success else g.fin k .invalidField).settle := by
    change execDirectiveSend a s = _
    rw [execDirectiveSend, State.admin_goes ht]
    dsimp only
    rw [hsees, f.sqe, htype, hop, htarget]
    simp
  constructor
  · intro hon
    obtain ⟨t, hfin, hdone, honly, -⟩ := f.queued_own hcalm (q := g.qce) rfl
    exact ⟨t, by rw [hexec, if_pos hon]; exact congrArg _ hfin, hdone, honly⟩
  · intro hoff
    obtain ⟨t, hfin, haway⟩ := f.away (st := .invalidField) rfl (by decide) hcalm
    exact ⟨t, by rw [hexec, if_neg (by omega), hfin], haway⟩

/-- NVMe-MI Send of a VPD Write (R410). -/
theorem exec_nvmeMiSend_vpd {s g : State} {a : AdminCmd} {k o : Nat} {x : Ctx} {bs : List Byte} (ht : adminTaken s g a 0x1D .every k x) :
    (o + bs.length ≤ 256 →
      ∃ t, exec (.nvmeMiSend a (.vpdWrite o bs)) s = .next t ∧ completed s t k .success 0 ∧ t.mgc.vpd = s.mgc.vpd.take o ++ bs ++ s.mgc.vpd.drop (o + bs.length)
        ∧ t = { s with hfu := t.hfu, qce := t.qce, out := t.out, mgc := { s.mgc with vpd := t.mgc.vpd } })
    ∧ (256 < o + bs.length →
      ∃ t, exec (.nvmeMiSend a (.vpdWrite o bs)) s = .next t ∧ completed s t k .success 4 ∧ onlyQueues s t) := by
  have f := admin_facts ht
  have hcalm : calm s := ht.2.2.2.2.2.2.2
  have hexec : exec (.nvmeMiSend a (.vpdWrite o bs)) s = .next ((g.mi (.vpdWrite o bs)).1.finWith k .success
      ((g.mi (.vpdWrite o bs)).2.status + 2 ^ 8 * (g.mi (.vpdWrite o bs)).2.resp) 0).settle := by
    change execNvmeMiSend a (.vpdWrite o bs) s = _
    rw [execNvmeMiSend, State.admin_goes ht]
    rfl
  constructor
  · intro hin
    obtain ⟨q, hfin, hdone, -⟩ := f.endsWith (h := { g with mgc := g.mgc.writeVpd o bs }) (st := .success) rfl (congrArg _ f.sec_eq) rfl hcalm 0 0
    have hmi : g.mi (.vpdWrite o bs) = ({ g with mgc := g.mgc.writeVpd o bs }, { status := 0 }) := by rw [State.mi, if_pos hin]
    rw [hmi] at hexec
    refine ⟨_, hexec.trans (congrArg _ hfin), hdone, ?_, ?_⟩
    · dsimp only [Mgc.writeVpd]
      rw [f.mgc_eq]
    · dsimp only [Mgc.writeVpd]
      rw [f.frame]
  · intro hout
    have hmi : g.mi (.vpdWrite o bs) = (g, .invalidParameter) := by rw [State.mi, if_neg (by omega)]
    rw [hmi] at hexec
    exact ⟨_, hexec, finWith_completed_onlyQueues ht 4⟩

/-- NVMe-MI Receive answers the management response as its data (R410). -/
theorem exec_nvmeMiReceive_answers {s g : State} {a : AdminCmd} {k : Nat} {x : Ctx} {m : MiReq} {r : MiAnswer} (ht : adminTaken s g a 0x1E .every k x)
    (hsends : m.sends = false) (hmi : g.mi m = (g, r)) (hst : r.status = 0) :
    ∃ t, exec (.nvmeMiReceive a m) s = .next t ∧ completed s t k .success (2 ^ 8 * r.resp) ∧ t.out = .data k r.data :: g.out ∧ onlyQueues s t := by
  have f := admin_facts ht
  obtain ⟨t, hfin, hrest⟩ := f.answersWith ht.2.2.2.2.2.2.2 r.data (2 ^ 8 * r.resp)
  refine ⟨t, ?_, hrest⟩
  rw [← hfin]
  change execNvmeMiReceive a m s = _
  rw [execNvmeMiReceive, State.admin_goes ht, hsends, if_neg Bool.false_ne_true, State.miInBand, hmi]
  dsimp only
  rw [hsends, if_neg Bool.false_ne_true, hst, Nat.zero_add]

/-- Settles O31: each report by its lemma. -/
theorem adminReports : Obligations.AdminReports := by
  refine ⟨fun s g a k x i ht hi hinst => ⟨fun p hp hal hin hc2 hc3 hc5 => exec_getLogPage_reports ht hi hinst hp hal hin hc2 hc3 hc5, fun herr => ?_⟩,
    fun s a hinst hside hlid hconn => exec_getLogPage_discovery hinst hside hlid hconn,
    fun s g a k x ht => ⟨fun bs hbs => ?_, fun hcns => ?_, fun hcns => ?_⟩,
    fun s g a k x n ht hn hatype _ hin => exec_getLbaStatus_answers ht hn hatype hin,
    fun s g a k x ht hn htype hop => exec_directiveReceive_answers ht hn htype hop,
    fun s g a k x ht hn htype hop htarget => exec_directiveSend_ends ht hn htype hop htarget,
    fun s g a k o x bs ht => exec_nvmeMiSend_vpd ht,
    fun s g a k o n x ht => ⟨fun hin => ?_, ?_⟩⟩
  · obtain ⟨t, hfin, haway⟩ := (admin_facts ht).away (st := stat 1 0x09) rfl (by decide) ht.2.2.2.2.2.2.2
    refine ⟨t, ?_, haway⟩
    rw [← hfin]
    change execGetLogPage a s = _
    rw [execGetLogPage, if_neg (by omega), State.admin_goes ht, herr]
  · obtain ⟨t, hfin, hrest⟩ := (admin_facts ht).answers ht.2.2.2.2.2.2.2 bs
    exact ⟨t, by rw [exec_identify_goes ht, hbs]; exact congrArg _ hfin, hrest⟩
  · have f := admin_facts ht
    obtain ⟨t, hfin, hrest⟩ := f.answers ht.2.2.2.2.2.2.2 (controllerList (g.controllersFrom a.q.cntid fun _ => true))
    refine ⟨t, ?_, hrest⟩
    rw [exec_identify_goes ht, g.identify_controllers (f.sqe ▸ hcns), f.sqe]
    exact congrArg _ hfin
  · have f := admin_facts ht
    obtain ⟨t, hfin, haway⟩ := f.away (st := .invalidField) rfl (by decide) ht.2.2.2.2.2.2.2
    refine ⟨t, ?_, haway⟩
    rw [exec_identify_goes ht, g.identify_unknown (f.sqe ▸ hcns)]
    exact congrArg _ hfin
  · have f := admin_facts ht
    exact exec_nvmeMiReceive_answers (r := { status := 0, data := slice s.mgc.vpd o n }) ht rfl (by rw [State.mi, if_pos hin, f.mgc_eq]) rfl
  · have f := admin_facts ht
    exact exec_nvmeMiReceive_answers (r := { status := 0, resp := s.mgc.miMtu }) ht rfl (by rw [State.mi, State.miGet, f.mgc_eq]) rfl

end Sys2Proof.Machine
end

section
/-! Tests and virtual functions (R141, R143, R458). -/

namespace Sys2Proof.Machine

open Safety

/-! ## The device self-test -/

/-- A Device Self-test in its turn (R458). -/
theorem exec_deviceSelfTest_goes {s g : State} {a : AdminCmd} {k : Nat} {x : Ctx} (ht : adminTaken s g a 0x14 .every k x) :
    exec (.deviceSelfTest a) s = .next (
      if natBits a.q.cdw10 3 0 = 0xF then ({ g with mgc := s.mgc.endTest (g.hours / 3600) 1 0 none } : State).fin k .success
      else if natBits a.q.cdw10 3 0 ≠ 1 ∧ natBits a.q.cdw10 3 0 ≠ 2 then g.fin k .invalidField
      else if s.mgc.dst.isSome then g.fin k (stat 1 0x1D)
      else ({ g with mgc := { s.mgc with dst := some ⟨natBits a.q.cdw10 3 0, a.inst⟩ } } : State).fin k .success).settle := by
  have f := admin_facts ht
  change execDeviceSelfTest a s = _
  rw [execDeviceSelfTest, State.admin_goes ht, f.sqe, f.inst, f.mgc_eq]

/-- Ending the self-test leaves none, and changes only its results besides. -/
theorem Mgc.endTest_frame (m : Mgc) (hours code segment : Nat) (nsid : Option Nat) :
    m.endTest hours code segment nsid = { m with dst := none, dstResults := (m.endTest hours code segment nsid).dstResults } := by
  rw [Mgc.endTest]
  cases hd : m.dst with
  | none =>
    dsimp only
    rw [← hd]
  | some d => rfl

theorem Mgc.endTest_dst (m : Mgc) (hours code segment : Nat) (nsid : Option Nat) : (m.endTest hours code segment nsid).dst = none := by
  rw [Mgc.endTest_frame]

/-- An admin command that changes only the Management Complex besides the queues. -/
theorem AdminFacts.managed {s g : State} {a : AdminCmd} {k : Nat} {x : Ctx} (f : AdminFacts s g a k x) (hs : Safety.calm s) (m : Mgc) :
    ∃ q, (({ g with mgc := m } : State).fin k .success).settle = { g with mgc := m, qce := q } ∧ completed s { g with mgc := m, qce := q } k .success 0
      ∧ ({ g with mgc := m, qce := q } : State) = { s with hfu := g.hfu, qce := q, out := g.out, mgc := m } := by
  obtain ⟨q, hfin, hdone, -⟩ := f.ends (h := { g with mgc := m }) (st := .success) rfl (congrArg _ f.sec_eq) rfl hs
  exact ⟨q, hfin, hdone, by rw [f.frame]⟩

/-- A self-test starts unless one runs (R458). -/
theorem exec_deviceSelfTest_starts {s g : State} {a : AdminCmd} {k : Nat} {x : Ctx} (ht : adminTaken s g a 0x14 .every k x)
    (hcode : natBits a.q.cdw10 3 0 = 1 ∨ natBits a.q.cdw10 3 0 = 2) :
    (s.mgc.dst = none →
      ∃ t, exec (.deviceSelfTest a) s = .next t ∧ completed s t k .success 0 ∧ t.mgc.dst = some ⟨natBits a.q.cdw10 3 0, a.inst⟩
        ∧ t = { s with hfu := t.hfu, qce := t.qce, out := t.out, mgc := { s.mgc with dst := t.mgc.dst } })
    ∧ (s.mgc.dst.isSome = true → ∃ t, exec (.deviceSelfTest a) s = .next t ∧ turnedAway s t k (stat 1 0x1D)) := by
  have f := admin_facts ht
  have hcalm : calm s := ht.2.2.2.2.2.2.2
  have hexec := exec_deviceSelfTest_goes ht
  rw [if_neg (by omega), if_neg (by omega)] at hexec
  constructor
  · intro hnone
    obtain ⟨q, hfin, hdone, hframe⟩ := f.managed hcalm { s.mgc with dst := some ⟨natBits a.q.cdw10 3 0, a.inst⟩ }
    rw [hnone, if_neg (by simp), hfin] at hexec
    exact ⟨_, hexec, hdone, rfl, hframe⟩
  · intro hsome
    obtain ⟨t, hfin, haway⟩ := f.away (st := stat 1 0x1D) rfl (by decide) hcalm
    rw [hsome, if_pos rfl, hfin] at hexec
    exact ⟨t, hexec, haway⟩

/-- The abort of a self-test (R458). -/
theorem exec_deviceSelfTest_aborts {s g : State} {a : AdminCmd} {k : Nat} {x : Ctx} (ht : adminTaken s g a 0x14 .every k x)
    (hcode : natBits a.q.cdw10 3 0 = 0xF) :
    ∃ t, exec (.deviceSelfTest a) s = .next t ∧ completed s t k .success 0 ∧ t.mgc.dst = none
      ∧ t = { s with hfu := t.hfu, qce := t.qce, out := t.out, mgc := { s.mgc with dst := none, dstResults := t.mgc.dstResults } } := by
  obtain ⟨q, hfin, hdone, hframe⟩ := (admin_facts ht).managed ht.2.2.2.2.2.2.2 (s.mgc.endTest (g.hours / 3600) 1 0 none)
  have hexec := exec_deviceSelfTest_goes ht
  rw [if_pos hcode, hfin] at hexec
  refine ⟨_, hexec, hdone, Mgc.endTest_dst _ _ _ _ _, hframe.trans ?_⟩
  dsimp only
  rw [← Mgc.endTest_frame]

/-- The end of a self-test is logged (R458). -/
theorem exec_deviceSelfTestComplete_logs {s : State} {d : SelfTest} (failed : Option (Nat × Option Nat)) (hruns : s.runs = true) (hd : s.mgc.dst = some d) :
    ∃ t, exec (.deviceSelfTestComplete failed) s = .next t ∧ t.mgc.dst = none
      ∧ t.mgc.dstResults = (⟨d.kind, if failed.isSome then 7 else 0, (failed.map (·.1)).getD 0, s.hours / 3600, failed.bind (·.2)⟩ :: s.mgc.dstResults).take 20
      ∧ t = { s with mgc := { s.mgc with dst := none, dstResults := t.mgc.dstResults } } := by
  have hexec : exec (.deviceSelfTestComplete failed) s = .next { s with
      mgc := s.mgc.endTest (s.hours / 3600) (if failed.isSome then 7 else 0) ((failed.map (·.1)).getD 0) (failed.bind (·.2)) } := by
    change execDeviceSelfTestComplete failed s = _
    rw [execDeviceSelfTestComplete, State.whenRuns_on hruns]
    cases failed <;> rfl
  refine ⟨_, hexec, Mgc.endTest_dst _ _ _ _ _, ?_, ?_⟩
  · dsimp only
    rw [Mgc.endTest, hd]
  · dsimp only
    rw [← Mgc.endTest_frame]

/-! ## Virtualization Management -/

/-- Queue resources of an offline virtual function (R141). -/
theorem exec_virtualizationManagement_assigns {s g : State} {a : AdminCmd} {k v n : Nat} {x : Ctx} {i : Inst} (ht : adminTaken s g a 0x1C .pf k x)
    (hi : s.qce.inst? a.inst = some i) (hv : v = natBits a.q.cdw10 31 16) (hn : n = natBits a.q.cdw11 15 0) (hvf : g.isVf i v = true)
    (hact : natBits a.q.cdw10 3 0 = 8) (hrt : natBits a.q.cdw10 10 8 = 0) (hoff : g.qce.vfOnline i.port v = false) (hmax : n ≤ 257)
    (hfree : n ≤ g.qce.vqOf i.port v + g.vqFree i.port) :
    ∃ t, exec (.virtualizationManagement a) s = .next t ∧ completed s t k .success n ∧ Tab.get? t.qce.vq v = some n
      ∧ (∀ y, g.qce.inst? v = some y → t.qce.inst? v = some { y with allot := n - 1 }) ∧ onlyQueues s t := by
  have f := admin_facts ht
  obtain ⟨assign, hassign⟩ : ∃ h : Inst → Inst, h = fun y => { y with allot := n - 1 } := ⟨_, rfl⟩
  obtain ⟨u, hu⟩ : ∃ u : Qce, u = Qce.updInst { g.qce with vq := Tab.set g.qce.vq v n } v assign := ⟨_, rfl⟩
  obtain ⟨q, hfin, hdone, hinsts, -, -, hvq, -⟩ := f.endsWith (h := { g with qce := u }) (st := .success) (by rw [hu]; rfl) (congrArg _ f.sec_eq) rfl
    ht.2.2.2.2.2.2.2 n 0
  have hgo : g.assignVq k { i with kaAt := s.clock.now } v 0 n = ({ g with qce := u } : State).finWith k .success n 0 := by
    rw [State.assignVq, hu, hassign]
    dsimp only
    rw [hoff, if_neg Bool.false_ne_true, if_neg (by decide), if_neg (by decide), if_neg (by omega)]
  have hexec : exec (.virtualizationManagement a) s = .next (g.assignVq k { i with kaAt := s.clock.now } v 0 n).settle := by
    have hvf' : g.isVf { i with kaAt := s.clock.now } v = true := hvf
    change execVirtualizationManagement a s = _
    rw [execVirtualizationManagement, State.admin_goes ht]
    dsimp only
    rw [f.caller hi, f.sqe, hact, hrt, ← hv, ← hn]
    change Host.Outcome.next (State.settle (if g.isVf _ v then _ else _)) = _
    rw [hvf', if_pos rfl]
  rw [hgo, hfin] at hexec
  refine ⟨_, hexec, hdone, ?_, fun y hy => ?_, f.only q _⟩
  · rw [hvq, hu]
    exact Tab.get?_set_self _ _ _
  · rw [Qce.inst?, hinsts, hu]
    refine (Tab.get?_upd_self (f := assign) hy).trans ?_
    rw [hassign]

/-- An online virtual function becomes Disabled (R143). -/
theorem exec_virtualizationManagement_onlines {s g : State} {a : AdminCmd} {k v : Nat} {x : Ctx} {i y : Inst} (ht : adminTaken s g a 0x1C .pf k x)
    (hi : s.qce.inst? a.inst = some i) (hv : v = natBits a.q.cdw10 31 16) (hvf : g.isVf i v = true) (hact : natBits a.q.cdw10 3 0 = 9)
    (henough : 2 ≤ g.qce.vqOf i.port v) (hy : g.qce.inst? v = some y) (hoff : y.state = .offline) :
    ∃ t, exec (.virtualizationManagement a) s = .next t ∧ completed s t k .success 0 ∧ t.qce.inst? v = some { y with state := .disabled } ∧ onlyQueues s t := by
  have f := admin_facts ht
  obtain ⟨online, honline⟩ : ∃ h : Inst → Inst, h = fun y => { y with state := if y.state = InstState.offline then .disabled else y.state } := ⟨_, rfl⟩
  obtain ⟨t, hfin, hdone, honly, -, -, hinsts⟩ := f.queued_own ht.2.2.2.2.2.2.2 (q := g.qce.updInst v online) rfl
  have hexec : exec (.virtualizationManagement a) s = .next (({ g with qce := g.qce.updInst v online } : State).fin k .success).settle := by
    have hvf' : g.isVf { i with kaAt := s.clock.now } v = true := hvf
    change execVirtualizationManagement a s = _
    rw [execVirtualizationManagement, State.admin_goes ht]
    dsimp only
    rw [f.caller hi, f.sqe, hact, ← hv]
    change Host.Outcome.next (State.settle (if !g.isVf _ v then _ else if g.qce.vqOf i.port v < 2 then _ else _)) = _
    rw [hvf', if_neg (by decide), if_neg (by omega), honline]
  refine ⟨t, hexec.trans (congrArg _ hfin), hdone, ?_, honly⟩
  rw [Qce.inst?, hinsts]
  refine (Tab.get?_upd_self (f := online) hy).trans ?_
  rw [honline]
  dsimp only
  rw [hoff, if_pos rfl]

/-- What is no virtual function of the caller's port is refused (R141). -/
theorem exec_virtualizationManagement_refuses {s g : State} {a : AdminCmd} {k v : Nat} {x : Ctx} {i : Inst} (ht : adminTaken s g a 0x1C .pf k x)
    (hi : s.qce.inst? a.inst = some i) (hv : v = natBits a.q.cdw10 31 16) (hvf : g.isVf i v = false)
    (hact : natBits a.q.cdw10 3 0 = 7 ∨ natBits a.q.cdw10 3 0 = 8 ∨ natBits a.q.cdw10 3 0 = 9) :
    ∃ t, exec (.virtualizationManagement a) s = .next t ∧ turnedAway s t k (stat 1 0x1F) := by
  have f := admin_facts ht
  obtain ⟨t, hfin, haway⟩ := f.away (st := stat 1 0x1F) rfl (by decide) ht.2.2.2.2.2.2.2
  have hexec : exec (.virtualizationManagement a) s = .next (g.fin k (stat 1 0x1F)).settle := by
    have hvf' : g.isVf { i with kaAt := s.clock.now } v = false := hvf
    change execVirtualizationManagement a s = _
    rw [execVirtualizationManagement, State.admin_goes ht]
    dsimp only
    rw [f.caller hi, f.sqe, ← hv]
    obtain h | h | h := hact
    all_goals rw [h]; dsimp only; rw [hvf']; rfl
  exact ⟨t, hexec.trans (congrArg _ hfin), haway⟩

/-- Settles O32: the self-test's start, abort and end, and the three actions on a virtual function. -/
theorem testsAndFunctions : Obligations.TestsAndFunctions :=
  ⟨fun _ _ _ _ _ ht hcode => exec_deviceSelfTest_starts ht hcode, fun _ _ _ _ _ ht hcode => exec_deviceSelfTest_aborts ht hcode,
    fun _ _ failed hruns hd => exec_deviceSelfTestComplete_logs failed hruns hd,
    fun _ _ _ _ _ _ _ _ ht hi hv hn =>
      ⟨fun hvf hact hrt hoff hmax hfree => exec_virtualizationManagement_assigns ht hi hv hn hvf hact hrt hoff hmax hfree,
        fun hvf hact henough _ hy hoff => exec_virtualizationManagement_onlines ht hi hv hvf hact henough hy hoff,
        fun hvf hact => exec_virtualizationManagement_refuses ht hi hv hvf hact⟩⟩

end Sys2Proof.Machine
end

section
/-! Namespaces: Create, attach and detach, Delete and Format (R165 to R167, R362, R376). -/

namespace Sys2Proof.Machine

open Safety

/-! ## Create -/

theorem State.createNs_known (s : State) (c : Nat) {x : Ctx} (req : NsReq) (hcsi : x.sqe.csi = 0 ∨ x.sqe.csi = 2) :
    s.createNs c x req = match s.fl.createStatus s.mapRegion { req with zoned := x.sqe.csi == 2 } with
      | some st => s.fin c st
      | none =>
        if s.sec.noKeys then s.fin c .internalError
        else ({ s.withFl (s.fl.create { req with zoned := x.sqe.csi == 2 }).1 with
          sec := (s.sec.keygen (s.fl.create { req with zoned := x.sqe.csi == 2 }).2 x.fsn
            (s.liveOn (s.fl.create { req with zoned := x.sqe.csi == 2 }).2 x.fsn) false).1 }).finWith c .success
              ((s.fl.create { req with zoned := x.sqe.csi == 2 }).2 + 1) 0 := by
  have hknown : knownCsi x.sqe.csi = true := by
    obtain h | h := hcsi <;> rw [h] <;> rfl
  rw [State.createNs, hknown, if_neg (by decide)] <;> rfl

/-- The namespace that Create makes is there. -/
theorem Flash.create_ns (f : Flash) (q : NsReq) : ((f.create q).1.ns? (f.create q).2).isSome = true := by
  rw [Flash.create]
  dsimp only
  generalize (if (!q.zoned && decide (q.sflags % 2 = 1)) = true then f.ptx.freeBarchan else none) = stream
  cases stream <;> simp [Flash.ns?, Ptx.barAdd, Tab.get?_set_self]

/-- A key that changes, now or later, touches neither the blobs nor a sanitize. -/
theorem Sec.change_keeps (c : Sec) (slot : Nat) (k : Option XKey) (fsn live : Nat) (bySeal : Bool) :
    (c.change slot k fsn live bySeal).blobs = c.blobs ∧ (c.change slot k fsn live bySeal).sanitize = c.sanitize := by
  rw [Sec.change]
  split
  · exact ⟨rfl, rfl⟩
  · exact ⟨rfl, rfl⟩

theorem Sec.keygen_sanitize (c : Sec) (slot fsn live : Nat) (bySeal : Bool) : (c.keygen slot fsn live bySeal).1.sanitize = c.sanitize :=
  (Sec.change_keeps _ _ _ _ _ _).2

theorem Sec.dropKey_sanitize (c : Sec) (slot fsn live : Nat) : (c.dropKey slot fsn live).sanitize = c.sanitize := (Sec.change_keeps _ _ _ _ _ _).2

theorem Sec.dropKey_blob (c : Sec) (slot fsn live : Nat) : Tab.get? (c.dropKey slot fsn live).blobs slot = none := by
  rw [Sec.dropKey, (Sec.change_keeps _ _ _ _ _ _).1, Tab.get?_erase, if_pos rfl]

theorem AdminFacts.mapRegion_eq {s g : State} {a : AdminCmd} {k : Nat} {x : Ctx} (f : AdminFacts s g a k x) : g.mapRegion = s.mapRegion := by
  rw [State.mapRegion, f.frame]
  rfl

/-- Create (R166, R362). -/
theorem exec_namespaceManagement_creates {s g : State} {a : AdminCmd} {req : NsReq} {k : Nat} {x : Ctx} (ht : adminTaken s g a 0x0D .pf k x)
    (hsel : natBits a.q.cdw10 3 0 = 0) (hcsi : a.q.csi = 0 ∨ a.q.csi = 2) (hkeys : s.sec.noKeys = false) :
    (s.fl.createStatus s.mapRegion { req with zoned := a.q.csi == 2 } = none →
      ∃ t, exec (.namespaceManagement a req) s = .next t ∧ completed s t k .success ((s.fl.create { req with zoned := a.q.csi == 2 }).2 + 1)
        ∧ t.fl = (s.fl.create { req with zoned := a.q.csi == 2 }).1 ∧ (t.fl.ns? (s.fl.create { req with zoned := a.q.csi == 2 }).2).isSome = true
        ∧ t = { s with hfu := t.hfu, qce := t.qce, out := t.out, fl := t.fl, sec := t.sec })
    ∧ ∀ st : Status, s.fl.createStatus s.mapRegion { req with zoned := a.q.csi == 2 } = some st → st.isOk = false → ¬ (st.sct = 2 ∧ st.sc = 0x81) →
      ∃ t, exec (.namespaceManagement a req) s = .next t ∧ turnedAway s t k st := by
  have f := admin_facts ht
  have hcalm : calm s := ht.2.2.2.2.2.2.2
  have hexec : exec (.namespaceManagement a req) s = .next (g.createNs k x req).settle := by
    change execNamespaceManagement a req s = _
    rw [execNamespaceManagement, State.admin_goes ht, f.sqe, hsel]
    rfl
  rw [g.createNs_known k req (f.sqe ▸ hcsi), f.sqe, f.fl_eq, f.mapRegion_eq, f.sec_eq] at hexec
  constructor
  · intro hgood
    obtain ⟨q, hfin, hdone, -⟩ := f.endsWith (h := { g.withFl (s.fl.create { req with zoned := a.q.csi == 2 }).1 with
      sec := (s.sec.keygen (s.fl.create { req with zoned := a.q.csi == 2 }).2 x.fsn (g.liveOn (s.fl.create { req with zoned := a.q.csi == 2 }).2 x.fsn) false).1 })
      (st := .success) rfl (Sec.keygen_sanitize _ _ _ _ _) rfl hcalm ((s.fl.create { req with zoned := a.q.csi == 2 }).2 + 1) 0
    rw [hgood] at hexec
    dsimp only at hexec
    rw [hkeys, if_neg Bool.false_ne_true, hfin] at hexec
    refine ⟨_, hexec, hdone, rfl, Flash.create_ns _ _, ?_⟩
    dsimp only [State.withFl]
    rw [f.frame]
  · intro st hst hbad hne
    obtain ⟨t, hfin, haway⟩ := f.away hbad hne hcalm
    rw [hst] at hexec
    exact ⟨t, hexec.trans (congrArg _ hfin), haway⟩

/-! ## Attach and detach -/

/-- What an attachment (SEL 0) or a detachment of some controllers answers, if it may not be made (R165). -/
def Ns.attachVerdict (n : Ns) (sel : Nat) (ctrls : List Nat) : Option Status :=
  if sel = 0 then n.attachStatus ctrls else if ctrls.all n.attached.contains then none else some (stat 1 0x1A)

/-- The controllers of a namespace after it. -/
def Ns.attachedAfter (n : Ns) (sel : Nat) (ctrls : List Nat) : Ns :=
  { n with attached := if sel = 0 then n.attached ++ ctrls else n.attached.filter fun k => !ctrls.contains k }

theorem exec_namespaceAttachment_goes {s g : State} {a : AdminCmd} {ctrls : List Nat} {k nsx : Nat} {x : Ctx} {n : Ns} (ht : adminTaken s g a 0x15 .pf k x)
    (hnsid : a.q.nsid = nsx + 1) (hn : s.fl.ns? nsx = some n) (hlist : g.listOk ctrls = true) (hsel : natBits a.q.cdw10 3 0 ≤ 1) :
    (∀ st, n.attachVerdict (natBits a.q.cdw10 3 0) ctrls = some st → exec (.namespaceAttachment a ctrls) s = .next (g.fin k st).settle)
    ∧ (n.attachVerdict (natBits a.q.cdw10 3 0) ctrls = none → exec (.namespaceAttachment a ctrls) s = .next
      (({ g.updNs nsx fun m => m.attachedAfter (natBits a.q.cdw10 3 0) ctrls with qce := g.qce.nsChanged (nsx + 1) ctrls } : State).fin k .success).settle) := by
  have f := admin_facts ht
  have hns : (if a.q.nsid = 0 then none else g.fl.ns? (a.q.nsid - 1)) = some n := by rw [hnsid, if_neg (by omega), f.fl_eq]; exact hn
  constructor
  · intro st hst
    change execNamespaceAttachment a ctrls s = _
    rw [execNamespaceAttachment, State.admin_goes ht]
    dsimp only
    rw [f.sqe, hns]
    dsimp only
    rw [if_neg (by omega), hlist, if_neg (by decide)]
    change Host.Outcome.next (State.settle (match n.attachVerdict _ ctrls with | some st => g.fin k st | none => _)) = _
    rw [hst]
  · intro hgood
    change execNamespaceAttachment a ctrls s = _
    rw [execNamespaceAttachment, State.admin_goes ht]
    dsimp only
    rw [f.sqe, hns]
    dsimp only
    rw [if_neg (by omega), hlist, if_neg (by decide), hnsid]
    change Host.Outcome.next (State.settle (match n.attachVerdict _ ctrls with | some st => g.fin k st | none => _)) = _
    rw [hgood]
    rfl

/-- An attachment or a detachment that may be made is made, and only that (R165). -/
theorem exec_namespaceAttachment_changes {s g : State} {a : AdminCmd} {ctrls : List Nat} {k nsx : Nat} {x : Ctx} {n : Ns}
    (ht : adminTaken s g a 0x15 .pf k x) (hnsid : a.q.nsid = nsx + 1) (hn : s.fl.ns? nsx = some n) (hlist : g.listOk ctrls = true)
    (hsel : natBits a.q.cdw10 3 0 ≤ 1) (hgood : n.attachVerdict (natBits a.q.cdw10 3 0) ctrls = none)
    (haers : ∀ j ∈ ctrls, ∀ i, g.qce.inst? j = some i → i.aers = []) :
    ∃ t, exec (.namespaceAttachment a ctrls) s = .next t ∧ completed s t k .success 0
      ∧ t.fl.ns? nsx = some (n.attachedAfter (natBits a.q.cdw10 3 0) ctrls) ∧ (∀ j, j ≠ nsx → t.fl.ns? j = s.fl.ns? j)
      ∧ t = { s with hfu := t.hfu, qce := t.qce, out := t.out, fl := { s.fl with ptx := { s.fl.ptx with nss := t.fl.ptx.nss } } } := by
  have f := admin_facts ht
  obtain ⟨ins, hchanged, -⟩ := Qce.nsChanged_waits (q := g.qce) (nsx + 1) haers
  obtain ⟨q, hfin, hdone, -⟩ := f.ends (st := .success)
    (h := { g.updNs nsx fun m => m.attachedAfter (natBits a.q.cdw10 3 0) ctrls with qce := { g.qce with insts := ins } }) rfl (congrArg _ f.sec_eq) rfl
    ht.2.2.2.2.2.2.2
  have hexec := (exec_namespaceAttachment_goes ht hnsid hn hlist hsel).2 hgood
  rw [hchanged, hfin] at hexec
  refine ⟨_, hexec, hdone, ?_, fun j hj => ?_, ?_⟩
  · exact Tab.get?_upd_self (f := fun m : Ns => m.attachedAfter (natBits a.q.cdw10 3 0) ctrls) (f.fl_eq ▸ hn)
  · dsimp only [State.updNs, Flash.ns?]
    rw [Tab.get?_upd, if_neg hj, f.fl_eq]
  · dsimp only [State.updNs]
    rw [f.frame]

/-! ## Admin commands that act on whole namespaces -/

/-- An admin command that is alone in the device has nothing before it. -/
theorem Qce.alone_admin {q : Qce} {c : Nat} {w : Ctx} (h : q.ctxs = [(c, w)]) (hw : w.kind = .admin) : q.readBefore w = false ∧ q.ahead w = false := by
  rw [Qce.readBefore, Qce.ahead, h]
  simp [hw, Kind.reads]

theorem State.actOnNs_delete {s : State} {c : Nat} {w : Ctx} (hctx : s.qce.ctxs = [(c, w)]) (hw : w.kind = .admin ∧ w.rlWait = false) (hop : w.sqe.opc = 0x0D) :
    s.actOnNs c w = (w.nss.foldl (fun (g : State) k => g.deleteNs w.fsn k) s).fin c .success := by
  obtain ⟨hread, hahead⟩ := Qce.alone_admin hctx hw.1
  rw [State.actOnNs, hw.2, hread, hahead, hop]
  rfl

theorem State.actOnNs_format {s : State} {c : Nat} {w : Ctx} (hctx : s.qce.ctxs = [(c, w)]) (hw : w.kind = .admin ∧ w.rlWait = false) (hop : w.sqe.opc = 0x80)
    (hkeys : w.sqe.ses ≠ 0 → s.fl.hostKeyed = false ∧ s.sec.noKeys = false) :
    s.actOnNs c w = (w.nss.foldl (fun (g : State) k => g.formatNs w k) (s.withFl (s.fl.release c))).fin c .success := by
  obtain ⟨hread, hahead⟩ := Qce.alone_admin hctx hw.1
  rw [State.actOnNs, hw.2, hread, hahead, hop, Bool.and_false, if_neg (by decide), if_pos rfl, if_neg (by decide), if_neg fun h => by simp [(hkeys h.1).1] at h, if_neg fun h => by simp [(hkeys h.1).2] at h]

/-! ## Delete -/

/-- The lease records of some namespaces join the journal and touch no namespace. -/
theorem Ptx.logLeases_nss (p : Ptx) (now : Nat) (gs : List (Nat × Nat)) : (p.logLeases now gs).1.nss = p.nss := by
  rw [Ptx.logLeases]
  dsimp only
  generalize p.wsn + 1 = w
  suffices h : ∀ q : Ptx, (gs.foldl (fun (q : Ptx) e => q.log now (.lease e.1 e.2) w true) q).nss = q.nss from h _
  induction gs with
  | nil => exact fun q => rfl
  | cons e gs ih => exact fun q => ih _

/-- A namespace that no controller is attached to and that has no host keys is gone with its key, its lease and its reservation. -/
theorem State.deleteNs_unattached {s : State} {nsx : Nat} {n : Ns} (fsn : Nat) (hn : s.fl.ns? nsx = some n) (hkpio : n.kpio = none) (hatt : n.attached = []) :
    ∃ f, s.deleteNs fsn nsx = { s with
        fl := f, sec := s.sec.dropKey nsx fsn (s.liveOn nsx fsn), hfu := { s.hfu with leases := Tab.erase s.hfu.leases nsx, resv := Tab.erase s.hfu.resv nsx } }
      ∧ f.ns? nsx = none := by
  rw [State.deleteNs, hn]
  dsimp only
  rw [hkpio, hatt]
  refine ⟨_, rfl, ?_⟩
  rw [Flash.remove, Flash.ns?, Tab.get?_erase, if_pos rfl]

/-- Delete of a namespace that nothing else works on (R167, R362). -/
theorem exec_namespaceManagement_deletes {s g : State} {a : AdminCmd} {req : NsReq} {k nsx : Nat} {x : Ctx} {n : Ns} (ht : adminTaken s g a 0x0D .pf k x)
    (hsel : natBits a.q.cdw10 3 0 = 1) (hnsid : a.q.nsid = nsx + 1) (hnsx : nsx < 8192) (hn : s.fl.ns? nsx = some n) (hkpio : n.kpio = none)
    (h0 : s.qce.ctxs = []) (hl0 : s.qce.locks = []) (hatt : n.attached = []) :
    ∃ t, exec (.namespaceManagement a req) s = .next t ∧ completed s t k .success 0 ∧ t.fl.ns? nsx = none
      ∧ Tab.get? t.hfu.leases nsx = none ∧ Tab.get? t.hfu.resv nsx = none ∧ Tab.get? t.sec.blobs nsx = none ∧ t.qce.locks = [] := by
  have f := admin_facts ht
  obtain ⟨gone, hgone⟩ : ∃ gone, gone = (([nsx].filter fun k => (g.leaseOf k).gen != 0).map fun k => (k, 0)) := ⟨_, rfl⟩
  obtain ⟨p, hp⟩ : ∃ p, p = if gone.isEmpty then g.fl.ptx else (g.fl.ptx.logLeases g.clock.now gone).1 := ⟨_, rfl⟩
  have hnss : p.nss = s.fl.ptx.nss := by
    rw [hp, ← f.fl_eq]
    split
    · rfl
    · exact Ptx.logLeases_nss _ _ _
  obtain ⟨h, hh⟩ : ∃ h : State, h = { g with hfu := g.hfu.dropLeases [nsx], fl := { g.fl with ptx := p } } := ⟨_, rfl⟩
  have hexec : exec (.namespaceManagement a req) s = .next ((h.setCtx k { x with nss := [nsx], arrived := true }).lockAndRoute k).settle := by
    have hthere : g.fl.ns? (a.q.nsid - 1) = some n := by rw [hnsid, f.fl_eq]; exact hn
    change execNamespaceManagement a req s = _
    rw [execNamespaceManagement, State.admin_goes ht, f.sqe, hsel]
    change Host.Outcome.next (g.deleteFetch k x).settle = _
    rw [State.deleteFetch, f.sqe]
    dsimp only
    rw [hthere, hnsid, if_neg (show ¬ nsx + 1 = 0xFFFFFFFF by omega), if_neg (Nat.succ_ne_zero nsx), if_neg (by simp), hh, hp, hgone]
    rfl
  obtain ⟨w, l, hlocked, hw, hown⟩ := f.locked (h := h) (ks := [nsx]) (by rw [hh]) (by rw [hh]; exact f.locks.trans hl0) h0 (by simp)
  obtain ⟨u, hu⟩ : ∃ u : State, u = { h with qce := { h.qce with ctxs := [(k, w)], locks := l } } := ⟨_, rfl⟩
  rw [hlocked, ← hu] at hexec
  obtain ⟨fl, hdel, hnone⟩ := State.deleteNs_unattached (s := u) w.fsn (by rw [hu, hh, Flash.ns?]; exact (congrArg (Tab.get? · nsx) hnss).trans hn) hkpio hatt
  have hact : u.actOnNs k w = (u.deleteNs w.fsn nsx).fin k .success := by
    rw [State.actOnNs_delete (by rw [hu]) (by rw [hw]; exact ⟨f.kind, f.rlWait⟩) (by rw [hw]; exact f.sqe ▸ ht.2.2.2.1), show w.nss = [nsx] by rw [hw]]
    rfl
  have hsan : s.sec.sanitize = none := ht.2.2.2.2.2.2.2.1
  have hho : g.handover = false := adminTaken_handover ht
  obtain ⟨hfin, hdone, hlocks⟩ := f.acted h0 hw hown (u := u) (h := u.deleteNs w.fsn nsx) (by rw [hu]) hact (by rw [hdel, hu]) (by rw [hdel, hu])
    (by rw [hdel]; exact (Sec.dropKey_sanitize _ _ _ _).trans (by rw [hu, hh]; exact (congrArg _ f.sec_eq).trans hsan))
    (by rw [hu, hh]; exact hho)
  rw [hfin] at hexec
  refine ⟨_, hexec, hdone, ?_, ?_, ?_, ?_, hlocks⟩
  · dsimp only
    rw [hdel]
    exact hnone
  · dsimp only
    rw [hdel]
    exact (Tab.get?_erase _ _ _).trans (if_pos rfl)
  · dsimp only
    rw [hdel]
    exact (Tab.get?_erase _ _ _).trans (if_pos rfl)
  · dsimp only
    rw [hdel]
    exact Sec.dropKey_blob _ _ _ _

/-! ## Format -/

/-- What is reserved is only a growth. -/
theorem Flash.reserve_frame {f f0 : Flash} {mapRegion c cap map : Nat} (h : f.reserve mapRegion c cap map = some f0) :
    ∃ gr, f0 = { f with ptx := { f.ptx with growths := gr } } := by
  rw [Flash.reserve] at h
  split at h
  · exact absurd h (by simp)
  split at h
  · exact ⟨_, (Option.some.inj h).symm⟩
  · exact ⟨_, (Option.some.inj h).symm⟩

theorem Flash.formatReserve_frame {f f0 : Flash} {mapRegion c : Nat} {q : Sqe} {ks : List Nat} (h : f.formatReserve mapRegion c q ks = .ok f0) :
    ∃ gr, f0 = { f with ptx := { f.ptx with growths := gr } } := by
  rw [Flash.formatReserve] at h
  extract_lets ns at h
  split at h
  · exact absurd h (by simp)
  split at h
  · exact absurd h (by simp)
  next f1 h1 =>
    rw [← Except.ok.inj h]
    exact Flash.reserve_frame h1

/-- A Format of one namespace replaces its data and what a block is, with SES 1 or 2 its key, and tells the hosts that see it (R167, R376). -/
theorem State.formatNs_eq {s : State} {w : Ctx} {nsx : Nat} {n : Ns} (hn : s.fl.ns? nsx = some n)
    (haers : ∀ j ∈ n.attached, ∀ i, s.qce.inst? j = some i → i.aers = []) :
    ∃ ins sec, s.formatNs w nsx = { s with
        fl := { s.fl.clearNs s.clock.now s.hours nsx n with ptx := { (s.fl.clearNs s.clock.now s.hours nsx n).ptx with
          nss := Tab.upd (s.fl.clearNs s.clock.now s.hours nsx n).ptx.nss nsx fun m => m.formatted w.sqe } }
        sec := sec, qce := { s.qce with insts := ins } }
      ∧ sec.sanitize = s.sec.sanitize ∧ (w.sqe.ses = 0 → sec = s.sec) := by
  obtain ⟨ins, hchanged, -⟩ := Qce.nsChanged_waits (q := s.qce) (nsx + 1) haers
  obtain ⟨sec, hsec⟩ : ∃ sec, sec = if w.sqe.ses = 0 then s.sec else (s.sec.keygen nsx w.fsn (s.liveOn nsx w.fsn) false).1 := ⟨_, rfl⟩
  refine ⟨if n.reformats w.sqe then ins else s.qce.insts, sec, ?_, ?_, fun hses => by rw [hsec, if_pos hses]⟩
  · rw [State.formatNs, hn, hsec]
    dsimp only
    rw [hchanged]
    split <;> rfl
  · rw [hsec]
    split
    · rfl
    · exact Sec.keygen_sanitize _ _ _ _ _

/-- Format of a namespace that nothing else works on (R167, R376). -/
theorem exec_formatNvm_formats {s g : State} {a : AdminCmd} {k nsx : Nat} {x : Ctx} {n : Ns} {f0 : Flash} (ht : adminTaken s g a 0x80 .pf k x)
    (hnsid : a.q.nsid = nsx + 1) (hnsx : nsx < 8192) (hn : s.fl.attachedNs a.inst a.q.nsid = some n) (hfmt : a.q.fmtOk = true) (hses : a.q.ses ≤ 2)
    (hrights : g.adminRights x nsx n = none) (h0 : s.qce.ctxs = []) (hl0 : s.qce.locks = [])
    (haers : ∀ j ∈ n.attached, ∀ i, g.qce.inst? j = some i → i.aers = []) (hkeys : a.q.ses ≠ 0 → s.fl.hostKeyed = false ∧ s.sec.noKeys = false)
    (hf0 : s.fl.formatReserve s.mapRegion k a.q [nsx] = .ok f0) :
    ∃ t, exec (.formatNvm a) s = .next t ∧ completed s t k .success 0
      ∧ t.fl = { (f0.release k).clearNs s.clock.now s.hours nsx n with ptx := { ((f0.release k).clearNs s.clock.now s.hours nsx n).ptx with
          nss := Tab.upd ((f0.release k).clearNs s.clock.now s.hours nsx n).ptx.nss nsx fun m => m.formatted a.q } }
      ∧ (a.q.ses = 0 → t.sec = s.sec) ∧ t.qce.locks = [] := by
  have f := admin_facts ht
  have hns : s.fl.ns? nsx = some n := by
    have h := Flash.attached_ns hn
    rwa [hnsid] at h
  have hnamed : g.namedNs x = [nsx] := by
    rw [State.namedNs, f.sqe, if_neg (by omega), f.callerNs, hn, Option.isSome_some, if_pos rfl, hnsid]
    rfl
  have hmay : ([nsx].findSome? fun k => (g.fl.ns? k).bind fun n => g.adminRights x k n) = none := by
    rw [List.findSome?_cons, f.fl_eq, hns, Option.bind_some, hrights]
    rfl
  have hexec : exec (.formatNvm a) s = .next (((g.withFl f0).setCtx k { x with nss := [nsx], arrived := true }).lockAndRoute k).settle := by
    change execFormatNvm a s = _
    rw [execFormatNvm, State.admin_goes ht]
    dsimp only
    rw [hnamed, f.sqe, if_neg (by simp), if_neg (by omega), hfmt, if_neg (by decide), hmay]
    dsimp only
    rw [f.fl_eq, f.mapRegion_eq, hf0]
  obtain ⟨gr, hgr⟩ := Flash.formatReserve_frame hf0
  obtain ⟨w, l, hlocked, hw, hown⟩ := f.locked (h := g.withFl f0) (ks := [nsx]) rfl (f.locks.trans hl0) h0 (by simp)
  have hwq : w.sqe = a.q := by rw [hw]; exact f.sqe
  obtain ⟨u, hu⟩ : ∃ u : State, u = { g.withFl f0 with qce := { (g.withFl f0).qce with ctxs := [(k, w)], locks := l } } := ⟨_, rfl⟩
  rw [hlocked, ← hu] at hexec
  obtain ⟨v, hv⟩ : ∃ v, v = u.withFl (u.fl.release k) := ⟨_, rfl⟩
  obtain ⟨ins, sec, hform, hsan, hsec⟩ := State.formatNs_eq (s := v) (w := w) (nsx := nsx) (n := n) (by rw [hv, hu, State.withFl, hgr]; exact hns)
    (by rw [hv, hu]; exact haers)
  have hact : u.actOnNs k w = (v.formatNs w nsx).fin k .success := by
    rw [State.actOnNs_format (by rw [hu]) (by rw [hw]; exact ⟨f.kind, f.rlWait⟩) (by rw [hwq]; exact ht.2.2.2.1)
      (fun h => by rw [hu, State.withFl, hgr, f.sec_eq]; exact hkeys (hwq ▸ h)), show w.nss = [nsx] by rw [hw], hv]
    rfl
  have hho : g.handover = false := adminTaken_handover ht
  have hsec0 : v.sec = s.sec := by rw [hv, hu]; exact f.sec_eq
  obtain ⟨hfin, hdone, hlocks⟩ := f.acted h0 hw hown (u := u) (h := v.formatNs w nsx) (by rw [hu]) hact (by rw [hform, hv, hu]; rfl) (by rw [hform, hv, hu]; rfl)
    (by rw [hform]; exact hsan.trans (by rw [hsec0]; exact ht.2.2.2.2.2.2.2.1)) (by rw [hu]; exact hho)
  rw [hfin] at hexec
  refine ⟨_, hexec, hdone, ?_, fun hz => ?_, hlocks⟩
  · dsimp only
    rw [hform, hwq, hv, hu]
    dsimp only [State.withFl]
    rw [f.frame]
    rfl
  · dsimp only
    rw [hform]
    exact (hsec (hwq ▸ hz)).trans hsec0

/-- Settles O33: each command by its lemma. -/
theorem namespaceCommands : Obligations.NamespaceCommands := by
  refine ⟨fun s g a req k x ht hsel hcsi hkeys => exec_namespaceManagement_creates ht hsel hcsi hkeys,
    fun s g a req k nsx x n ht hsel hnsid hnsx hn hkpio h0 hl0 hatt => exec_namespaceManagement_deletes ht hsel hnsid hnsx hn hkpio h0 hl0 hatt,
    fun s g a ctrls k nsx x n ht hnsid hn hlist => ⟨fun hsel hgood haers => ?_, fun hsel hall haers => ?_, fun hsel hany => ?_⟩,
    fun s g a k nsx x n f ht hnsid hnsx hn hfmt hses hrights h0 hl0 haers hkeys f0 hf0 hf => ?_⟩
  · obtain ⟨t, hexec, hdone, hat, hrest⟩ := exec_namespaceAttachment_changes ht hnsid hn hlist (by omega) (by rw [Ns.attachVerdict, if_pos hsel]; exact hgood) haers
    refine ⟨t, hexec, hdone, hat.trans ?_, hrest⟩
    rw [Ns.attachedAfter, if_pos hsel]
  · obtain ⟨t, hexec, hdone, hat, -, hframe⟩ := exec_namespaceAttachment_changes ht hnsid hn hlist (by omega)
      (by rw [Ns.attachVerdict, if_neg (by omega), if_pos hall]) haers
    refine ⟨t, hexec, hdone, hat.trans ?_, hframe⟩
    rw [Ns.attachedAfter, if_neg (by omega)]
  · obtain ⟨t, hfin, haway⟩ := (admin_facts ht).away (st := stat 1 0x18) rfl (by decide) ht.2.2.2.2.2.2.2
    have hexec := (exec_namespaceAttachment_goes ht hnsid hn hlist (by omega)).1 (stat 1 0x18)
      (by rw [Ns.attachVerdict, if_pos hsel, Ns.attachStatus, hany, if_pos rfl])
    exact ⟨t, hexec.trans (congrArg _ hfin), haway⟩
  · rw [hf]
    exact exec_formatNvm_formats ht hnsid hnsx hn hfmt hses hrights h0 hl0 haers hkeys hf0

end Sys2Proof.Machine
end

section
/-! Sanitize (R375, R377). -/

namespace Sys2Proof.Machine

open Safety

/-! ## The keys of a sanitize -/

/-- A key that is made changes keys, blobs and changes only. -/
theorem Sec.keygen_frame (c : Sec) (slot fsn live : Nat) (bySeal : Bool) :
    ∃ made blobs keys changes, (c.keygen slot fsn live bySeal).1 = { c with made := made, blobs := blobs, keys := keys, changes := changes } := by
  rw [Sec.keygen, Sec.freshKey]
  dsimp only
  rw [Sec.change]
  split
  · exact ⟨_, _, _, _, rfl⟩
  · exact ⟨_, _, _, _, rfl⟩

/-- Replacing the namespace keys changes nothing of what a sanitize reports. -/
theorem Sec.rekey_frame (c : Sec) (fsn : Nat) (live : Nat → Nat) (slots : List Nat) :
    ∃ made blobs keys changes, c.rekey fsn live slots = { c with made := made, blobs := blobs, keys := keys, changes := changes } := by
  induction slots generalizing c with
  | nil => exact ⟨_, _, _, _, rfl⟩
  | cons k ks ih =>
    obtain ⟨_, _, _, _, hkey⟩ := c.keygen_frame k fsn (live k) false
    obtain ⟨m, b, ky, ch, hrest⟩ := ih (c.keygen k fsn (live k) false).1
    exact ⟨m, b, ky, ch, hrest.trans (by rw [hkey])⟩

/-! ## The start of the action -/

/-- A sanitize whose command is alone in the device starts its action, and its command completes (R377). -/
theorem State.sanitizeStart_alone {s : State} {z : Sanitize} {c : Nat} {w : Ctx} (hz : s.sec.sanitize = some z) (hnew : z.started = false)
    (hctx : s.qce.ctxs = [(c, w)]) (hw : w.kind = .admin ∧ w.sqe.opc = 0x84 ∧ w.arrived = true ∧ w.state = .fw) (hkeys : s.sec.noKeys = false)
    (hho : s.handover = false) :
    s.sanitizeStart = { s with
      fl := s.fl.discardAll s.clock.now s.hours
      sec := { (s.sec.rekey s.qce.fsn (fun _ => 0) (s.fl.ptx.nss.map Prod.fst)).clearPool with sanitize := some { z with started := true } }
      qce := s.qce.setDone c .success } := by
  obtain ⟨hadmin, hopc, harr, hfw⟩ := hw
  have hopen : w.open' = true := by simp [Ctx.open', hfw]
  have hdrained : s.drained = true := by simp [State.drained, hctx, hadmin]
  have hmine : (Tab.keysWhere s.qce.ctxs fun _ x => x.kind == .admin && x.sqe.opc == 0x84 && x.arrived && x.open') = [c] := by
    simp [Tab.keysWhere, hctx, hadmin, hopc, harr, hopen]
  have hx : s.qce.ctx? c = some w := by simp [Qce.ctx?, hctx, Tab.get?]
  rw [State.sanitizeStart, hz]
  dsimp only
  rw [hnew, hdrained, hkeys, hho, if_neg (by decide), hmine, List.foldl_cons, List.foldl_nil]
  exact State.fin_ok (x := w) hx hopen rfl

/-- The one context of a started sanitize waits in FW, and settling starts the action. -/
theorem State.settle_sanitize {s : State} {z : Sanitize} {c : Nat} {w : Ctx} (hz : s.sec.sanitize = some z) (hnew : z.started = false)
    (hctx : s.qce.ctxs = [(c, w)])
    (hw : w.kind = .admin ∧ w.sqe.opc = 0x84 ∧ w.arrived = true ∧ w.state = .fw) (hidle : w.encrypted = false ∧ w.side = false ∧ w.detached = false)
    (hkeys : s.sec.noKeys = false) (hho : s.handover = false) :
    s.settle = { s with
      fl := s.fl.discardAll s.clock.now s.hours
      sec := { (s.sec.rekey s.qce.fsn (fun _ => 0) (s.fl.ptx.nss.map Prod.fst)).clearPool with sanitize := some { z with started := true } }
      qce := s.qce.setDone c .success } := by
  obtain ⟨hadmin, hopc, harr, hfw⟩ := hw
  have hx : s.qce.ctx? c = some w := by simp [Qce.ctx?, hctx, Tab.get?]
  have hstalled : s.qce.stalled = [c] := by simp [Qce.stalled, hctx, hfw, harr, insertBy]
  have hstays : s.settleCtx c = s := by
    rw [State.settleCtx, hx]
    dsimp only
    rw [hfw]
    dsimp only
    rw [hho, hidle.1, harr, if_neg Bool.false_ne_true, if_neg Bool.false_ne_true, if_pos rfl, State.actOnNs, hopc]
    simp
  have hpass : ∀ n, State.settlePass n s = s := by
    intro n
    induction n with
    | zero => rfl
    | succ n ih => rw [State.settlePass, hstalled, List.foldl_cons, List.foldl_nil, hstays, ih]
  have hdone : (s.qce.setDone c .success).ctxs
      = [(c, { w with rlidx := none, rlWait := false, state := .completing, status := .success, doneSeq := s.qce.doneSeq + 1 })] :=
    Qce.setDone_set (t := []) hctx rfl
  rw [State.settle, hstalled]
  dsimp only
  rw [hpass, State.sanitizeStart_alone hz hnew hctx ⟨hadmin, hopc, harr, hfw⟩ hkeys hho]
  refine State.answerSide_calm ?_
  dsimp only
  rw [hdone]
  simp [atRest, hidle.2.1, hidle.2.2]

/-- A Sanitize of the idle device: the action starts, the keys are replaced and the command completes (R375, R377). -/
theorem exec_sanitize_starts {s g : State} {a : AdminCmd} {k : Nat} {x : Ctx} {act : SanAction} (ht : adminTaken s g a 0x84 .pf k x)
    (hact : sanActOf a.q.sanact = some act) (hexit : act ≠ .exitFailure) (hndas : a.q.ndas = false)
    (hover : (act == .overwrite && a.q.oipbp && a.q.passes == 1) = false) (hlease : g.leasedByOther (g.callerHost x) = false)
    (hhost : act = .crypto → s.fl.hostKeyed = false) (h0 : s.qce.ctxs = []) (hl0 : s.qce.locks = []) (hlen : s.fl.ptx.nss.length ≤ 262144)
    (hkeys : s.sec.noKeys = false) :
    ∃ t, exec (.sanitize a) s = .next t ∧ completed s t k .success 0 ∧ t.qce.locks = []
      ∧ t.sec.sanitize = some ⟨act, a.inst, a.q.ause, a.q.passes, a.q.cdw11, a.q.oipbp, true⟩ ∧ t.sec.sanStatus = 2 ∧ t.sec.sanProgress = 0
      ∧ t.fl = s.fl.discardAll s.clock.now s.hours := by
  have f := admin_facts ht
  have hsan : s.sec.sanitize = none := ht.2.2.2.2.2.2.2.1
  have hst3 : s.sec.sanStatus ≠ 3 := ht.2.2.2.2.2.1
  have hfetch : exec (.sanitize a) s = .next (g.sanitizeFetch k x act).settle := by
    change execSanitize a s = _
    rw [execSanitize, State.admin_goes ht]
    dsimp only
    rw [f.sqe, hact]
    dsimp only
    rw [hndas, hover, hlease, f.sec_eq, f.fl_eq, hsan, if_neg (by decide), if_neg (by decide), if_neg (by decide), if_neg hexit, if_neg fun h => hst3 h.1,
      if_neg fun h => by simp [hhost h.1] at h]
  obtain ⟨sec, hsec⟩ : ∃ sec : Sec, sec = { s.sec with
      sanitize := some ⟨act, a.inst, a.q.ause, a.q.passes, a.q.cdw11, a.q.oipbp, false⟩, sanStatus := 2, sanCdw10 := a.q.cdw10, sanProgress := 0, passesDone := 0
      lastPasses := if act = .overwrite then a.q.passes else s.sec.lastPasses } := ⟨_, rfl⟩
  obtain ⟨h, hh⟩ : ∃ h : State, h = { g with sec := sec } := ⟨_, rfl⟩
  have hctxs : g.qce.ctxs = [(k, x)] := by rw [f.ctxs, h0]; rfl
  have hgo : g.sanitizeFetch k x act = (h.setCtx k { x with nss := h.fl.ptx.nss.map Prod.fst, arrived := true }).lockAndRoute k := by
    have hnone : (Tab.keysWhere g.qce.ctxs fun k y =>
        y.kind != .admin && !y.admitted && y.open' && !(y.kind == .parity && ((Tab.get? g.fl.dip.pcJobs k).map (·.running)).getD false)) = [] := by
      simp [Tab.keysWhere, hctxs, f.kind]
    rw [State.sanitizeFetch]
    dsimp only
    rw [hnone, List.foldl_nil, hh, hsec, f.sqe, f.inst, f.sec_eq]
  obtain ⟨w, l, hlocked, hw, hown⟩ := f.locked (h := h) (ks := h.fl.ptx.nss.map Prod.fst) (by rw [hh]) (by rw [hh]; exact f.locks.trans hl0) h0
    (by rw [List.length_map, hh, f.fl_eq]; exact hlen)
  have hwx : (w.kind = .admin ∧ w.sqe.opc = 0x84 ∧ w.arrived = true ∧ w.state = .fw) ∧ w.encrypted = false ∧ w.side = false ∧ w.detached = false := by
    rw [hw]
    exact ⟨⟨f.kind, f.sqe ▸ ht.2.2.2.1, rfl, f.state⟩, f.encrypted, f.side, f.detached⟩
  have hdw : w.dw0 = 0 := by rw [hw]; exact f.dw0
  have hho : g.handover = false := adminTaken_handover ht
  obtain ⟨u, hu⟩ : ∃ u : State, u = { h with qce := { h.qce with ctxs := [(k, w)], locks := l } } := ⟨_, rfl⟩
  have husec : u.sec = sec := by rw [hu, hh]
  have hufl : u.fl = s.fl := by rw [hu, hh]; exact f.fl_eq
  have hux : u.qce.ctx? k = some w := by rw [hu]; simp [Qce.ctx?, Tab.get?]
  have hsettle := State.settle_sanitize (s := u) (c := k) (w := w) (z := ⟨act, a.inst, a.q.ause, a.q.passes, a.q.cdw11, a.q.oipbp, false⟩) (by rw [husec, hsec]) rfl
    (by rw [hu]) hwx.1 hwx.2 (by rw [husec, hsec]; exact hkeys) (by rw [hu, hh]; exact hho)
  rw [hgo, hlocked, ← hu, hsettle] at hfetch
  obtain ⟨made, blobs, keys, changes, hrekey⟩ := u.sec.rekey_frame u.qce.fsn (fun _ => 0) (u.fl.ptx.nss.map Prod.fst)
  refine ⟨_, hfetch, ⟨⟨_, Qce.setDone_ctx .success hux, rfl, rfl, hdw⟩, fun j hj => ?_⟩, ?_, rfl, ?_, ?_, ?_⟩
  · refine (Qce.setDone_other .success hj).trans ?_
    rw [hu, Qce.ctx?, Qce.ctx?, h0]
    simp [Tab.get?, Ne.symm hj]
  · dsimp only
    rw [Qce.setDone_locks, Tab.keep, List.filter_eq_nil_iff]
    intro e he
    rw [hu] at he
    simp [(hown e he).2]
  · dsimp only
    rw [hrekey, husec, hsec]
    rfl
  · dsimp only
    rw [hrekey, husec, hsec]
    rfl
  · dsimp only
    rw [hufl, hu, hh, f.frame]
    rfl

/-! ## The end of the action -/

/-- At the end of the action its result stands in the log (R375, R377). -/
theorem exec_sanitizeComplete_reports {s : State} {z : Sanitize} (ok : Bool) (hruns : s.runs = true) (hz : s.sec.sanitize = some z) (hst : z.started = true)
    (hrest : ∀ e ∈ s.qce.ctxs, atRest e.2 = true) (haers : ∀ i, s.qce.inst? z.inst = some i → i.aers = []) :
    ∃ t, exec (.sanitizeComplete ok) s = .next t ∧ t.sec.sanitize = none ∧ t.sec.sanStatus = (if ok then 1 else 3) ∧ t.sec.sanProgress = 65535
      ∧ (z.action = .crypto → t.fl = s.fl) ∧ (z.action = .block → ok = true → t.fl = s.fl.eraseAll 1)
      ∧ (z.action = .overwrite → ok = true → t.fl = s.fl.eraseAll (z.passes + 1) ∧ t.sec.passesDone = z.passes)
      ∧ t = { s with qce := t.qce, fl := t.fl, sec := t.sec, health := t.health } := by
  obtain ⟨ins, hraise, -⟩ := Qce.raise_waits (q := s.qce) (inst := z.inst) (e := ⟨6, 0x01, 0x81⟩) haers
  obtain ⟨sec, hsec⟩ : ∃ sec : Sec, sec = { s.sec with
      sanitize := none, sanStatus := if ok then 1 else 3, sanProgress := 65535, sanFailUse := z.ause
      passesDone := if z.action = .overwrite ∧ ok then z.passes else s.sec.passesDone } := ⟨_, rfl⟩
  obtain ⟨u, hu⟩ : ∃ u : State, u = { s with fl := s.fl.sanitized z ok, sec := sec, qce := { s.qce with insts := ins } } := ⟨_, rfl⟩
  have hsettle : u.settle = u := by
    have hat : ∀ e ∈ u.qce.ctxs, atRest e.2 = true := by rw [hu]; exact hrest
    rw [State.settle, Qce.stalled_calm hat]
    dsimp only
    rw [State.sanitizeStart_calm (by rw [hu, hsec]), State.answerSide_calm hat]
  have hexec : exec (.sanitizeComplete ok) s = .next u.warn := by
    have hgoes : s.sanitizeStart = s := by
      rw [State.sanitizeStart, hz]
      dsimp only
      rw [hst, Bool.true_or, Bool.true_or, Bool.true_or, if_pos rfl]
    change execSanitizeComplete ok s = _
    rw [execSanitizeComplete, State.whenRuns_on hruns, hgoes]
    dsimp only
    rw [hz]
    dsimp only
    rw [hst, if_neg (by decide), State.notify, hraise, ← hsec, ← hu, hsettle]
  refine ⟨_, hexec, ?_, ?_, ?_, fun ha => ?_, fun ha hok => ?_, fun ha hok => ?_, ?_⟩
  · rw [State.warn, hu, hsec]
  · rw [State.warn, hu, hsec]
  · rw [State.warn, hu, hsec]
  · rw [State.warn, hu, Flash.sanitized, ha]
  · rw [State.warn, hu, Flash.sanitized, ha]
    exact if_pos hok
  · rw [State.warn, hu, hsec, Flash.sanitized, ha]
    exact ⟨if_pos hok, if_pos ⟨rfl, hok⟩⟩
  · rw [State.warn, hu]

/-- Settles O34: the start of the action, and its end. -/
theorem sanitizeCommands : Obligations.SanitizeCommands :=
  ⟨fun _ _ _ _ _ _ ht hact hexit hndas hover hlease hhost h0 hl0 hlen hkeys =>
      exec_sanitize_starts ht hact hexit hndas hover hlease hhost h0 hl0 hlen hkeys,
    fun _ _ ok hruns hz hst hrest haers => exec_sanitizeComplete_reports ok hruns hz hst hrest haers⟩

end Sys2Proof.Machine
end

section
/-! Security Send and Receive, and the boot record (R355, R357, R363, R364). -/

namespace Sys2Proof.Machine

open Safety

/-! ## SPDM in band -/

/-- An SPDM request changes its endpoint only. -/
theorem Sec.spdmAt_frame (c : Sec) (newest : Option (Nat × List Byte)) (ep : Nat) (q : SpdmReq) :
    ∃ e, (c.spdmAt newest ep q).1 = { c with endpoints := Tab.set c.endpoints ep e } := ⟨_, rfl⟩

/-- An admin command that changes the security block besides the queues. -/
theorem AdminFacts.secured {s g : State} {a : AdminCmd} {k : Nat} {x : Ctx} {sec : Sec} (f : AdminFacts s g a k x) (hs : Safety.calm s)
    (hsan : sec.sanitize = s.sec.sanitize) (o : List Output) :
    ∃ t, (({ g with sec := sec, out := o } : State).fin k .success).settle = t ∧ completed s t k .success 0 ∧ t.sec = sec ∧ t.out = o
      ∧ t = { s with hfu := { s.hfu with ports := t.hfu.ports }, qce := t.qce, out := t.out, sec := t.sec } := by
  obtain ⟨q, hfin, hdone, -⟩ := f.ends (h := { g with sec := sec, out := o }) (st := .success) rfl hsan rfl hs
  exact ⟨_, hfin, hdone, rfl, rfl, by dsimp only; rw [f.frame]⟩

theorem exec_securitySend_spdm {s g : State} {a : AdminCmd} {k : Nat} {x : Ctx} (ht : adminTaken s g a 0x81 .every k x) (q : SpdmReq) :
    ∃ t, exec (.securitySend a (.spdm q)) s = .next t ∧ completed s t k .success 0
      ∧ (Tab.get? t.sec.endpoints (2 * a.inst + 1)).bind (·.waiting) = some (s.sec.spdmAt (newestRecord s.fev.bootRecords) (2 * a.inst + 1) q).2
      ∧ t = { s with hfu := { s.hfu with ports := t.hfu.ports }, qce := t.qce, out := t.out, sec := { s.sec with endpoints := t.sec.endpoints } } := by
  have f := admin_facts ht
  have hfev : g.fev = s.fev := by rw [f.frame]
  obtain ⟨r, hr⟩ : ∃ r, r = s.sec.spdmAt (newestRecord s.fev.bootRecords) (2 * a.inst + 1) q := ⟨_, rfl⟩
  obtain ⟨e, he⟩ := s.sec.spdmAt_frame (newestRecord s.fev.bootRecords) (2 * a.inst + 1) q
  obtain ⟨keep, hkeep⟩ : ∃ h : SpdmEp → SpdmEp, h = fun e => { e with waiting := some r.2 } := ⟨_, rfl⟩
  obtain ⟨t, hfin, hdone, hsec, -, hframe⟩ := f.secured (sec := { s.sec with endpoints := Tab.upd r.1.endpoints (2 * a.inst + 1) keep }) ht.2.2.2.2.2.2.2 rfl g.out
  have hexec : exec (.securitySend a (.spdm q)) s
      = .next (({ g with sec := { s.sec with endpoints := Tab.upd r.1.endpoints (2 * a.inst + 1) keep } } : State).fin k .success).settle := by
    change execSecuritySend a (.spdm q) s = _
    rw [execSecuritySend, State.admin_goes ht]
    dsimp only
    rw [f.side, f.inst, f.sec_eq, hfev, Bool.false_and, if_neg Bool.false_ne_true, ← hr, hkeep]
    rw [← hr] at he
    rw [he]
  refine ⟨t, hexec.trans (congrArg _ hfin), hdone, ?_, ?_⟩
  · rw [hsec, ← hr]
    dsimp only
    rw [← hr] at he
    rw [he, Tab.get?_upd_self (f := keep) (Tab.get?_set_self _ _ _), hkeep]
    rfl
  · rw [hsec] at hframe ⊢
    exact hframe

/-- SPDM's answer waits for Security Receive (R357). -/
theorem exec_securityReceive_spdm {s g : State} {a : AdminCmd} {k : Nat} {x : Ctx} (ht : adminTaken s g a 0x82 .every k x) :
    (∀ r, (Tab.get? s.sec.endpoints (2 * a.inst + 1)).bind (·.waiting) = some r →
      ∃ t, exec (.securityReceive a .spdm) s = .next t ∧ completed s t k .success 0 ∧ t.out = .spdm (2 * a.inst + 1) r :: g.out
        ∧ (Tab.get? t.sec.endpoints (2 * a.inst + 1)).bind (·.waiting) = none)
    ∧ ((Tab.get? s.sec.endpoints (2 * a.inst + 1)).bind (·.waiting) = none →
      ∃ t, exec (.securityReceive a .spdm) s = .next t ∧ turnedAway s t k .sequenceError) := by
  have f := admin_facts ht
  constructor
  · intro r hr
    obtain ⟨e, he, -⟩ := Option.bind_eq_some_iff.1 hr
    obtain ⟨drop, hdrop⟩ : ∃ h : SpdmEp → SpdmEp, h = fun e => { e with waiting := none } := ⟨_, rfl⟩
    obtain ⟨t, hfin, hdone, hsec, hout, -⟩ := f.secured (sec := { s.sec with endpoints := Tab.upd s.sec.endpoints (2 * a.inst + 1) drop }) ht.2.2.2.2.2.2.2 rfl
      (.spdm (2 * a.inst + 1) r :: g.out)
    refine ⟨t, ?_, hdone, hout, ?_⟩
    · rw [← hfin, hdrop]
      change execSecurityReceive a .spdm s = _
      rw [execSecurityReceive, State.admin_goes ht]
      dsimp only
      rw [f.side, f.inst, f.sec_eq, Bool.false_and, if_neg Bool.false_ne_true, hr]
      rfl
    · rw [hsec]
      dsimp only
      rw [Tab.get?_upd_self (f := drop) he, hdrop]
      rfl
  · intro hnone
    obtain ⟨t, hfin, haway⟩ := f.away (st := .sequenceError) rfl (by decide) ht.2.2.2.2.2.2.2
    refine ⟨t, ?_, haway⟩
    rw [← hfin]
    change execSecurityReceive a .spdm s = _
    rw [execSecurityReceive, State.admin_goes ht]
    dsimp only
    rw [f.side, f.inst, f.sec_eq, Bool.false_and, if_neg Bool.false_ne_true, hnone]

/-! ## Key Per I/O -/

theorem AdminFacts.kpioOn_eq {s g : State} {a : AdminCmd} {k : Nat} {x : Ctx} (f : AdminFacts s g a k x) : g.kpioOn = s.kpioOn := by
  rw [State.kpioOn, State.kpioOn, f.sec_eq]

/-- A host's key goes into the slot of its key tag (R364). -/
theorem exec_securitySend_injects {s g : State} {a : AdminCmd} {k : Nat} {x : Ctx} {nsid tag base nkt : Nat} {blob : List Byte} {n : Ns} {key : XKey}
    (ht : adminTaken s g a 0x81 .every k x) (hon : s.kpioOn = true) (hn : s.fl.attachedNs a.inst nsid = some n) (hkpio : n.kpio = some (base, nkt))
    (htag : tag < nkt) (hkeys : s.sec.noKeys = false) (hlen : blob.length = 204) (hkey : s.sec.injection blob (some (nsid, tag)) = some key) :
    ∃ t, exec (.securitySend a (.inject nsid tag blob)) s = .next t ∧ completed s t k .success 0
      ∧ t.sec = s.sec.change (base + tag) (some key) s.qce.fsn (g.liveOn (base + tag) s.qce.fsn) false
      ∧ t = { s with hfu := { s.hfu with ports := t.hfu.ports }, qce := t.qce, out := t.out, sec := t.sec } := by
  have f := admin_facts ht
  obtain ⟨t, hfin, hdone, hsec, -, hframe⟩ := f.secured (sec := s.sec.change (base + tag) (some key) s.qce.fsn (g.liveOn (base + tag) s.qce.fsn) false)
    ht.2.2.2.2.2.2.2 (Sec.change_keeps _ _ _ _ _ _).2 g.out
  refine ⟨t, ?_, hdone, hsec, hframe⟩
  rw [← hfin]
  change execSecuritySend a (.inject nsid tag blob) s = _
  rw [execSecuritySend, State.admin_goes ht]
  dsimp only
  rw [f.kpioOn_eq, hon, if_neg (by decide), f.callerNs, hn]
  dsimp only
  rw [State.injectKey, hkpio]
  dsimp only [Option.map_some, Option.getD_some]
  rw [if_pos htag, f.sec_eq, hkeys, if_neg Bool.false_ne_true, if_pos hlen, hkey, f.fsn]

/-- A block of pool slots for a namespace that has none (R363). -/
theorem exec_securitySend_enables {s g : State} {a : AdminCmd} {k : Nat} {x : Ctx} {nsid nkt base : Nat} {n : Ns}
    (ht : adminTaken s g a 0x81 .every k x) (hon : s.kpioOn = true) (hn : s.fl.attachedNs a.inst nsid = some n) (hkpio : n.kpio = none)
    (h1 : 1 ≤ nkt) (h2 : nkt ≤ 1024) (hfree : (s.setKpio (nsid - 1) none).fl.ptx.freePool nkt = some base) :
    ∃ t, exec (.securitySend a (.kpioEnable nsid nkt)) s = .next t ∧ completed s t k .success 0
      ∧ t.fl.ns? (nsid - 1) = some { n with kpio := some (base, nkt) } ∧ t.sec = s.sec := by
  have f := admin_facts ht
  have hfree' : (g.setKpio (nsid - 1) none).fl.ptx.freePool nkt = some base := by
    rw [State.setKpio, f.fl_eq]
    exact hfree
  obtain ⟨q, hfin, hdone, -⟩ := f.ends (h := (g.setKpio (nsid - 1) none).setKpio (nsid - 1) (some (base, nkt))) (st := .success) rfl (congrArg _ f.sec_eq) rfl
    ht.2.2.2.2.2.2.2
  have hexec : exec (.securitySend a (.kpioEnable nsid nkt)) s
      = .next ((((g.setKpio (nsid - 1) none).setKpio (nsid - 1) (some (base, nkt)) : State).fin k .success).settle) := by
    change execSecuritySend a (.kpioEnable nsid nkt) s = _
    rw [execSecuritySend, State.admin_goes ht]
    dsimp only
    rw [f.kpioOn_eq, hon, if_neg (by decide), f.callerNs, hn]
    dsimp only
    rw [State.kpioEnable, hkpio, if_neg (by omega), State.clearBlock, hfree']
  obtain ⟨set1, hset1⟩ : ∃ h : Ns → Ns, h = fun n => { n with kpio := none } := ⟨_, rfl⟩
  obtain ⟨set2, hset2⟩ : ∃ h : Ns → Ns, h = fun n => { n with kpio := some (base, nkt) } := ⟨_, rfl⟩
  refine ⟨_, hexec.trans (congrArg _ hfin), hdone, ?_, f.sec_eq⟩
  dsimp only [State.setKpio, State.withFl, Flash.ns?]
  rw [← hset1, ← hset2, Tab.get?_upd_self (f := set2) (Tab.get?_upd_self (f := set1) (f.fl_eq ▸ Flash.attached_ns hn)), hset2, hset1]

/-- Without the Key Per I/O SSC no block is given (R363). -/
theorem exec_securitySend_kpioOff {s g : State} {a : AdminCmd} {k : Nat} {x : Ctx} (ht : adminTaken s g a 0x81 .every k x) (hoff : s.kpioOn = false)
    (nsid nkt : Nat) : ∃ t, exec (.securitySend a (.kpioEnable nsid nkt)) s = .next t ∧ turnedAway s t k .invalidField := by
  have f := admin_facts ht
  obtain ⟨t, hfin, haway⟩ := f.away (st := .invalidField) rfl (by decide) ht.2.2.2.2.2.2.2
  refine ⟨t, ?_, haway⟩
  rw [← hfin]
  change execSecuritySend a (.kpioEnable nsid nkt) s = _
  rw [execSecuritySend, State.admin_goes ht]
  dsimp only
  rw [f.kpioOn_eq, hoff, if_pos (by decide)]

/-! ## The boot record -/

/-- A retained boot record is handed out, and one that is not retained is named so (R355). -/
theorem exec_bootRecordFetch_answers {s g : State} {a : AdminCmd} {k : Nat} {x : Ctx} (ht : adminTaken s g a 0xCA .every k x) :
    (∀ (seq : Nat) (bs : List Byte), pickRecord s.fev.bootRecords (a.q.cdw10 % 4) (a.q.cdw11 + 2 ^ 32 * a.q.cdw12) = some (seq, bs) →
      ∃ t, exec (.bootRecordFetch a) s = .next t ∧ completed s t k .success (leNat (slice bs 6 2) + 65536 * leNat (slice bs 5 1))
        ∧ t.out = .data k (fit 4096 bs) :: g.out ∧ (t.qce.ctx? k).map (·.dw1) = some (seq % 2 ^ 32) ∧ onlyQueues s t)
    ∧ (pickRecord s.fev.bootRecords (a.q.cdw10 % 4) (a.q.cdw11 + 2 ^ 32 * a.q.cdw12) = none →
      ∃ t, exec (.bootRecordFetch a) s = .next t ∧ turnedAway s t k .notRetained) := by
  have f := admin_facts ht
  have hfev : g.fev = s.fev := by rw [f.frame]
  constructor
  · intro seq bs hpick
    obtain ⟨q, hfin, hdone, -, -, -, -, hdw⟩ := f.endsWith (h := g.emit (.data k (fit 4096 bs))) (st := .success) rfl (by rw [State.emit_sec]; exact congrArg _ f.sec_eq) rfl
      ht.2.2.2.2.2.2.2 (leNat (slice bs 6 2) + 65536 * leNat (slice bs 5 1)) (seq % 2 ^ 32)
    refine ⟨_, ?_, hdone, rfl, hdw, f.only q _⟩
    rw [← hfin]
    change execBootRecordFetch a s = _
    rw [execBootRecordFetch, State.admin_goes ht]
    rw [hfev, f.sqe, hpick]
  · intro hnone
    obtain ⟨t, hfin, haway⟩ := f.away (st := .notRetained) rfl (by decide) ht.2.2.2.2.2.2.2
    refine ⟨t, ?_, haway⟩
    rw [← hfin]
    change execBootRecordFetch a s = _
    rw [execBootRecordFetch, State.admin_goes ht]
    rw [hfev, f.sqe, hnone]

/-- Settles O35: each command by its lemma. -/
theorem securityCommands : Obligations.SecurityCommands :=
  ⟨fun _ _ _ _ _ ht =>
      ⟨exec_securitySend_spdm ht,
        fun _ _ _ _ _ _ _ hon hn hkpio htag hkeys hlen hkey => exec_securitySend_injects ht hon hn hkpio htag hkeys hlen hkey,
        fun _ _ _ _ hon hn hkpio h1 h2 hfree => exec_securitySend_enables ht hon hn hkpio h1 h2 hfree,
        exec_securitySend_kpioOff ht⟩,
    fun _ _ _ _ _ ht => exec_securityReceive_spdm ht, fun _ _ _ _ _ ht => exec_bootRecordFetch_answers ht⟩

end Sys2Proof.Machine
end

section
/-! Firmware: the download, the commit, hot activation and the end of its boot record (R97, R401 to R405, R410). -/

namespace Sys2Proof.Machine

open Safety

/-! ## The download -/

theorem AdminFacts.dlOwner_eq {s g : State} {a : AdminCmd} {k : Nat} {x : Ctx} (f : AdminFacts s g a k x) : x.dlOwner = .inst a.inst := by
  rw [Ctx.dlOwner, f.side, f.inst, if_neg Bool.false_ne_true]

theorem AdminFacts.now_eq {s g : State} {a : AdminCmd} {k : Nat} {x : Ctx} (f : AdminFacts s g a k x) : g.clock.now = s.clock.now := by rw [f.frame]

/-- A piece that the open download, if there is one, takes. -/
theorem Mgc.takePiece_joins {m : Mgc} {now o : Nat} {owner : DlOwner} {bs : List Byte}
    (h : ∀ d, m.download = some d → d.owner = owner ∧ (d.pieces.any fun p => piecesMeet p o bs.length) = false) :
    ∃ d, m.takePiece now owner o bs = .ok { m with download := some d } ∧ d.owner = owner ∧ d.lastAt = now ∧ Tab.get? d.pieces o = some bs := by
  rw [Mgc.takePiece]
  cases hd : m.download with
  | none =>
    rw [Option.getD_none, if_neg (by simp), if_neg (by simp)]
    exact ⟨_, rfl, rfl, rfl, Tab.get?_set_self _ _ _⟩
  | some d =>
    obtain ⟨howner, hmeet⟩ := h d hd
    rw [Option.getD_some, if_neg (by simp [howner]), if_neg (by simp [hmeet])]
    exact ⟨_, rfl, howner, rfl, Tab.get?_set_self _ _ _⟩

/-- A piece of a download that another requester holds open. -/
theorem Mgc.takePiece_other {m : Mgc} {d : Download} {now o : Nat} {owner : DlOwner} {bs : List Byte} (hd : m.download = some d) (h : d.owner ≠ owner) :
    m.takePiece now owner o bs = .error .sequenceError := by
  rw [Mgc.takePiece, hd, Option.getD_some, if_pos h]

theorem exec_firmwareImageDownload_goes {s g : State} {a : AdminCmd} {data : List Byte} {k : Nat} {x : Ctx} (ht : adminTaken s g a 0x11 .pfOrEth k x)
    (hlen : (a.q.cdw10 + 1) * 4 % 4096 = 0) (ho : a.q.cdw11 * 4 % 4096 = 0) (hmax : a.q.cdw11 * 4 + (a.q.cdw10 + 1) * 4 ≤ 41943040) :
    (∀ m, s.mgc.takePiece s.clock.now (.inst a.inst) (a.q.cdw11 * 4) (fit ((a.q.cdw10 + 1) * 4) data) = .ok m →
      exec (.firmwareImageDownload a data) s = .next (({ g with mgc := m } : State).fin k .success).settle)
    ∧ (∀ st, s.mgc.takePiece s.clock.now (.inst a.inst) (a.q.cdw11 * 4) (fit ((a.q.cdw10 + 1) * 4) data) = .error st →
      exec (.firmwareImageDownload a data) s = .next (g.fin k st).settle) := by
  have f := admin_facts ht
  constructor
  all_goals
    intro r hr
    change execFirmwareImageDownload a data s = _
    rw [execFirmwareImageDownload, State.admin_goes ht]
    dsimp only
    rw [f.sqe, f.dlOwner_eq, f.mgc_eq, f.now_eq, if_neg (by omega), hr]

/-- A piece joins the requester's one download (R97). -/
theorem exec_firmwareImageDownload_takes {s g : State} {a : AdminCmd} {data : List Byte} {k : Nat} {x : Ctx} (ht : adminTaken s g a 0x11 .pfOrEth k x)
    (hlen : (a.q.cdw10 + 1) * 4 % 4096 = 0) (ho : a.q.cdw11 * 4 % 4096 = 0) (hmax : a.q.cdw11 * 4 + (a.q.cdw10 + 1) * 4 ≤ 41943040) :
    ((∀ d, s.mgc.download = some d → d.owner = .inst a.inst ∧ (d.pieces.any fun p => piecesMeet p (a.q.cdw11 * 4) (fit ((a.q.cdw10 + 1) * 4) data).length) = false) →
      ∃ t d, exec (.firmwareImageDownload a data) s = .next t ∧ completed s t k .success 0 ∧ t.mgc = { s.mgc with download := some d }
        ∧ d.owner = .inst a.inst ∧ d.lastAt = s.clock.now ∧ Tab.get? d.pieces (a.q.cdw11 * 4) = some (fit ((a.q.cdw10 + 1) * 4) data)
        ∧ t = { s with hfu := { s.hfu with ports := t.hfu.ports }, qce := t.qce, out := t.out, mgc := t.mgc })
    ∧ ∀ d, s.mgc.download = some d → d.owner ≠ .inst a.inst → ∃ t, exec (.firmwareImageDownload a data) s = .next t ∧ turnedAway s t k .sequenceError := by
  have f := admin_facts ht
  have hcalm : calm s := ht.2.2.2.2.2.2.2
  obtain ⟨hok, herr⟩ := exec_firmwareImageDownload_goes (data := data) ht hlen ho hmax
  constructor
  · intro hfree
    obtain ⟨d, htake, howner, hat, hpiece⟩ := Mgc.takePiece_joins (now := s.clock.now) hfree
    obtain ⟨q, hfin, hdone, -⟩ := f.managed hcalm { s.mgc with download := some d }
    refine ⟨_, d, (hok _ htake).trans (congrArg _ hfin), hdone, rfl, howner, hat, hpiece, ?_⟩
    dsimp only
    rw [f.frame]
  · intro d hd hother
    obtain ⟨t, hfin, haway⟩ := f.away (st := .sequenceError) rfl (by decide) hcalm
    exact ⟨t, (herr _ (Mgc.takePiece_other hd hother)).trans (congrArg _ hfin), haway⟩

/-- The sideband's download ends after 60 s (R410). -/
theorem exec_sidebandDownloadTimeout_ends {s : State} {d : Download} (hd : s.mgc.download = some d) (howner : d.owner = .sideband) (hup : s.up = true) :
    exec .sidebandDownloadTimeout s = .next { s.until' (d.lastAt + 60 * secT) with mgc := { s.mgc with download := none } } := by
  change execSidebandDownloadTimeout s = _
  rw [execSidebandDownloadTimeout, hd]
  dsimp only
  rw [if_pos ⟨howner, hup⟩, State.until'_mgc]

/-! ## The commit -/

theorem Mgc.writeImage_run (m : Mgc) (owner : DlOwner) (slot : Nat) : (m.writeImage owner slot).run = m.run := by
  rw [Mgc.writeImage]
  cases m.downloadOf owner with
  | none => rfl
  | some d =>
    dsimp only
    rw [Mgc.writeStage2]
    split <;> rfl

/-- A commit that its verdict lets through waits for no activation unless its action is 3 and its slot is not the running one. -/
theorem Mgc.commit_now {m : Mgc} {now fs act : Nat} (by' : CommitFrom) (owner : DlOwner) (h3 : act ≤ 3) (h : act ≠ 3 ∨ m.commitSlot fs = m.run.slot) :
    (m.commit now by' owner fs act .ok).2 = false := by
  rw [Mgc.commit]
  dsimp only
  split
  · rfl
  split
  · rfl
  split
  · rfl
  · rw [if_pos (by omega)]

/-- A commit that activates. -/
theorem Mgc.commit_activates {m : Mgc} {now fs : Nat} (by' : CommitFrom) (owner : DlOwner) (h : m.commitSlot fs ≠ m.run.slot) :
    m.commit now by' owner fs 3 .ok = ({ m.writeImage owner (m.commitSlot fs) with
      act := some ⟨.prepare, m.commitSlot fs, (m.writeImage owner (m.commitSlot fs)).header (m.commitSlot fs), by', now⟩ }, true) := by
  rw [Mgc.commit]
  dsimp only
  rw [if_neg (by decide), if_neg (by decide), if_neg (by decide), if_neg h]

theorem exec_firmwareCommit_goes {s g : State} {a : AdminCmd} {k : Nat} {x : Ctx} (ht : adminTaken s g a 0x10 .pfOrEth k x)
    (h3 : natBits a.q.cdw10 5 3 ≤ 3)
    (hok : s.mgc.commitVerdict s.sec.sanitize.isSome (.inst a.inst) (natBits a.q.cdw10 2 0) (natBits a.q.cdw10 5 3) s.sec.stage2Svn s.fl.dvers = .ok)
    {m : Mgc} {waits : Bool} (hm : s.mgc.commit s.clock.now (.ctx k) (.inst a.inst) (natBits a.q.cdw10 2 0) (natBits a.q.cdw10 5 3) .ok = (m, waits)) :
    exec (.firmwareCommit a) s = .next (if waits
      then { g with mgc := m, sec := { s.sec with regs := s.sec.regs.setFld .secBrctl 29 29 0 } }
      else ({ g with mgc := m } : State).fin k .success).settle := by
  have f := admin_facts ht
  have hcommit : g.commit (.ctx k) x.dlOwner (natBits a.q.cdw10 2 0) (natBits a.q.cdw10 5 3)
      = ({ g with mgc := m, sec := if waits then { s.sec with regs := s.sec.regs.setFld .secBrctl 29 29 0 } else s.sec }, .ok, waits) := by
    rw [State.commit, f.dlOwner_eq, f.mgc_eq, f.sec_eq, f.fl_eq, f.now_eq, hok, hm]
    rfl
  change execFirmwareCommit a s = _
  rw [execFirmwareCommit, State.admin_goes ht]
  dsimp only
  rw [f.sqe, if_neg (by omega), hcommit]
  dsimp only
  cases waits with
  | true => rfl
  | false =>
    have hsame : ({ g with mgc := m, sec := s.sec } : State) = { g with mgc := m } := by rw [← f.sec_eq]
    rw [if_neg Bool.false_ne_true, if_neg Bool.false_ne_true, if_pos rfl, if_neg Bool.false_ne_true, hsame]

/-- A commit does what its action says, and a hot activation keeps it waiting (R402, R403). -/
theorem exec_firmwareCommit_commits {s g : State} {a : AdminCmd} {k act fs : Nat} {x : Ctx} (ht : adminTaken s g a 0x10 .pfOrEth k x)
    (hact : act = natBits a.q.cdw10 5 3) (hfs : fs = natBits a.q.cdw10 2 0) (h3 : act ≤ 3)
    (hok : s.mgc.commitVerdict s.sec.sanitize.isSome (.inst a.inst) fs act s.sec.stage2Svn s.fl.dvers = .ok) :
    ((act ≠ 3 ∨ s.mgc.commitSlot fs = s.mgc.run.slot) → ∃ t, exec (.firmwareCommit a) s = .next t ∧ completed s t k .success 0
      ∧ t.mgc = (s.mgc.commit s.clock.now (.ctx k) (.inst a.inst) fs act .ok).1
      ∧ t = { s with hfu := { s.hfu with ports := t.hfu.ports }, qce := t.qce, out := t.out, mgc := t.mgc })
    ∧ (act = 3 → s.mgc.commitSlot fs ≠ s.mgc.run.slot → ∃ t v, exec (.firmwareCommit a) s = .next t ∧ t.qce.ctx? k = g.qce.ctx? k
      ∧ t.mgc.act = some v ∧ v.phase = .prepare ∧ v.slot = s.mgc.commitSlot fs ∧ v.by' = .ctx k ∧ v.startedAt = s.clock.now ∧ t.mgc.run = s.mgc.run) := by
  have f := admin_facts ht
  subst hact hfs
  constructor
  · intro hnow
    obtain ⟨m, hm⟩ : ∃ m, s.mgc.commit s.clock.now (.ctx k) (.inst a.inst) (natBits a.q.cdw10 2 0) (natBits a.q.cdw10 5 3) .ok = (m, false) :=
      ⟨_, Prod.ext rfl (Mgc.commit_now _ _ h3 hnow)⟩
    obtain ⟨q, hfin, hdone, -⟩ := f.managed ht.2.2.2.2.2.2.2 m
    have hexec := exec_firmwareCommit_goes ht h3 hok hm
    rw [if_neg Bool.false_ne_true, hfin] at hexec
    refine ⟨_, hexec, hdone, by rw [hm], ?_⟩
    dsimp only
    rw [f.frame]
  · intro hthree hother
    have hm := Mgc.commit_activates (m := s.mgc) (now := s.clock.now) (.ctx k) (.inst a.inst) hother
    have hexec := exec_firmwareCommit_goes ht h3 hok (hthree ▸ hm)
    obtain ⟨u, hu⟩ : ∃ u : State, u = { g with
        mgc := { s.mgc.writeImage (.inst a.inst) (s.mgc.commitSlot (natBits a.q.cdw10 2 0)) with
          act := some ⟨.prepare, s.mgc.commitSlot (natBits a.q.cdw10 2 0),
            (s.mgc.writeImage (.inst a.inst) (s.mgc.commitSlot (natBits a.q.cdw10 2 0))).header (s.mgc.commitSlot (natBits a.q.cdw10 2 0)), .ctx k, s.clock.now⟩ }
        sec := { s.sec with regs := s.sec.regs.setFld .secBrctl 29 29 0 } } := ⟨_, rfl⟩
    rw [if_pos rfl, ← hu, State.settle_calm (calm_of f.calm (by rw [hu, f.sec_eq]) (by rw [hu]))] at hexec
    subst hu
    exact ⟨_, _, hexec, rfl, rfl, rfl, rfl, rfl, rfl, Mgc.writeImage_run _ _ _⟩

/-! ## Hot activation -/

/-- The handover takes the new image's identity (R404, R405). -/
theorem exec_activationPrepareDone_hands {s : State} {v : Activation} (hruns : s.runs = true) (hv : s.mgc.act = some v) (hphase : v.phase = .prepare)
    (hfree : s.recoveringFw = false) :
    ∃ t, exec (.activationPrepareDone true) s = .next t ∧ t.mgc.run = ⟨v.slot, v.header.svn, v.header.version, v.header.hsv⟩
      ∧ t.mgc.act = some { v with phase := .handover, startedAt := s.clock.now } ∧ t.mgc.postHold = s.clock.now + 20000 ∧ t.sec.endpoints = []
      ∧ t.sec.bootCause = 2 ∧ t.sec.meas = replaceMeas s.sec.meas (imageMeas v.slot (s.mgc.headerDigest v.slot) v.header)
      ∧ t = { s with sec := t.sec, mgc := t.mgc } := by
  have hexec : exec (.activationPrepareDone true) s = .next { s with
      sec := { s.sec with
        meas := replaceMeas s.sec.meas (imageMeas v.slot (s.mgc.headerDigest v.slot) v.header), endpoints := [], bootCause := 2
        regs := s.sec.regs.setFld .secBrctl 29 29 0 }
      mgc := { s.mgc with
        regs := s.mgc.regs.setFld .mgcActstat 21 0 handoverUs, act := some { v with phase := .handover, startedAt := s.clock.now }
        run := ⟨v.slot, v.header.svn, v.header.version, v.header.hsv⟩, postHold := s.clock.now + 20000 } } := by
    change execActivationPrepareDone true s = _
    rw [execActivationPrepareDone, State.whenRuns_on hruns, hv]
    dsimp only
    rw [if_neg (by simp [hphase, hfree]), if_pos rfl]
  exact ⟨_, hexec, rfl, rfl, rfl, rfl, rfl, rfl, rfl⟩

/-- The end of a commit that an Ahnah task sent. -/
theorem State.endCommit_ahnah {s : State} {v : Activation} (st : Status) (h : v.by' = .ahnah) :
    s.endCommit v st = { s with mgc := Mgc.ahEnd { s.mgc with act := none } (if st.isOk then 0 else 0x8000 + st.sct * 256 + st.sc) [] } := by
  rw [State.endCommit, h]

/-- A digest that does not match leaves the image that runs (R407). -/
theorem exec_activationPrepareDone_aborts {s : State} {v : Activation} (hruns : s.runs = true) (hv : s.mgc.act = some v) (hphase : v.phase = .prepare)
    (hfree : s.recoveringFw = false) (hcalm : calm s) (hby : v.by' = .ahnah) :
    ∃ t, exec (.activationPrepareDone false) s = .next t ∧ t.mgc.act = none ∧ t.mgc.run = s.mgc.run ∧ t.mgc.postHold = s.clock.now + 20000 ∧ t.sec = s.sec := by
  obtain ⟨r, hr⟩ : ∃ r : Report, r = mkReport 0x09 0x03 0 0 s.fresh.1 0 0 := ⟨_, rfl⟩
  have hmild : r.mild = true := by rw [hr]; rfl
  obtain ⟨u, hu⟩ : ∃ u : State, u = { s with
      free := s.free + 1, fev := s.fev.report r s.stamp
      mgc := Mgc.ahEnd { s.mgc with regs := (s.mgc.regs.setFld .mgcActstat 29 29 1).setFld .mgcActstat 21 0 handoverUs, postHold := s.clock.now + 20000, act := none }
        (0x8000 + 1 * 256 + 0x13) [] } := ⟨_, rfl⟩
  have hexec : exec (.activationPrepareDone false) s = .next u.settle := by
    change execActivationPrepareDone false s = _
    rw [execActivationPrepareDone, State.whenRuns_on hruns, hv]
    dsimp only
    rw [if_neg (by simp [hphase, hfree]), if_neg Bool.false_ne_true, ← hr, State.report_mild hmild, State.endCommit_ahnah _ hby, hu]
    rfl
  rw [State.settle_calm (calm_of hcalm (by rw [hu]) (by rw [hu]))] at hexec
  refine ⟨u, hexec, ?_⟩
  rw [hu]
  exact ⟨rfl, rfl, rfl, rfl⟩

/-! ## The end of a boot record -/

theorem Sec.chained_sanitize (c : Sec) (e : Nat × Nat) : (c.chained e).sanitize = c.sanitize := by
  rw [Sec.chained]
  split
  · split <;> rfl
  · split <;> rfl

/-- The record that was being built is done; a sanitize is not touched. -/
theorem Sec.appended_ends {c : Sec} (f : Fev) (t : Stamp) (h : c.building.isSome = true) :
    (c.appended f t).1.building = none ∧ (c.appended f t).1.sanitize = c.sanitize := by
  obtain ⟨r, hr⟩ := Option.isSome_iff_exists.1 h
  rw [Sec.appended, hr]
  dsimp only
  split
  · exact ⟨rfl, Sec.chained_sanitize _ _⟩
  · exact ⟨rfl, rfl⟩

/-- What the calibration region holds once a boot record is appended (R401). -/
def State.calAppended (s : State) : Calib := if s.sec.runFits s.fev then s.mgc.cal.raised s.mgc.run.svn else s.mgc.cal

theorem State.calAppended_minimg (s : State) :
    s.calAppended.minimg = if s.sec.runFits s.fev = true then max s.mgc.cal.minimg s.mgc.run.svn else s.mgc.cal.minimg := by
  rw [State.calAppended]
  split <;> rfl

/-- A boot record that is appended while no activation runs (R354). -/
theorem exec_bootRecordAppended_alone {s : State} (hup : s.up = true) (hsafe : s.fev.safe = false) (hbuild : s.sec.building.isSome = true)
    (hpost : s.mgc.postHold ≤ s.clock.now) (hact : s.mgc.act = none) :
    ∃ t, exec .bootRecordAppended s = .next t ∧ t.sec.building = none
      ∧ t.mgc.cal.minimg = (if s.sec.runFits s.fev = true then max s.mgc.cal.minimg s.mgc.run.svn else s.mgc.cal.minimg)
      ∧ t = { s with sec := t.sec, fev := t.fev, mgc := t.mgc, clock := t.clock } := by
  refine ⟨{ s with sec := (s.sec.appended s.fev s.stamp).1, fev := (s.sec.appended s.fev s.stamp).2, mgc := { s.mgc with cal := s.calAppended } }, ?_,
    (Sec.appended_ends _ _ hbuild).1, s.calAppended_minimg, rfl⟩
  change execBootRecordAppended s = _
  rw [execBootRecordAppended, hup, hsafe, hbuild, if_pos (by decide), State.until'_past hpost]
  dsimp only
  rw [hact]
  rfl

/-- The boot record that follows a handover ends its commit (R405). -/
theorem exec_bootRecordAppended_ends {s : State} {v : Activation} (hup : s.up = true) (hsafe : s.fev.safe = false) (hbuild : s.sec.building.isSome = true)
    (hpost : s.mgc.postHold ≤ s.clock.now) (hact : s.mgc.act = some v) (hphase : v.phase ≠ .prepare) (hby : v.by' = .ahnah) (hcalm : calm s) :
    ∃ t, exec .bootRecordAppended s = .next t ∧ t.sec.building = none ∧ t.mgc.act = none ∧ t.mgc.cal.next = v.slot ∧ t.mgc.cal.nextPending = false
      ∧ t.mgc.cal.minimg = (if s.sec.runFits s.fev = true then max s.mgc.cal.minimg s.mgc.run.svn else s.mgc.cal.minimg) ∧ t.qce = s.qce := by
  obtain ⟨hnone, hsan⟩ := Sec.appended_ends s.fev s.stamp hbuild
  obtain ⟨u, hu⟩ : ∃ u : State, u = { s with
      sec := (s.sec.appended s.fev s.stamp).1, fev := (s.sec.appended s.fev s.stamp).2
      mgc := Mgc.ahEnd { s.mgc with cal := { s.calAppended with next := v.slot, nextPending := false }, act := none } 0 [] } := ⟨_, rfl⟩
  have hexec : exec .bootRecordAppended s = .next u.settle := by
    change execBootRecordAppended s = _
    rw [execBootRecordAppended, hup, hsafe, hbuild, if_pos (by decide), State.until'_past hpost]
    dsimp only
    rw [hact]
    dsimp only
    rw [if_neg hphase, State.endCommit_ahnah _ hby, hu]
    rfl
  rw [State.settle_calm (calm_of hcalm (by rw [hu]; exact hsan) (by rw [hu]))] at hexec
  refine ⟨u, hexec, ?_⟩
  rw [hu]
  exact ⟨hnone, rfl, rfl, rfl, s.calAppended_minimg, rfl⟩

/-- Settles O36: each command by its lemma. -/
theorem firmwareCommands : Obligations.FirmwareCommands := by
  refine ⟨fun s g a data k x ht hlen ho hmax => exec_firmwareImageDownload_takes ht hlen ho hmax,
    fun s g a k act fs x ht hact hfs h3 hok => exec_firmwareCommit_commits ht hact hfs h3 hok,
    fun s d hd howner hup => ⟨_, exec_sidebandDownloadTimeout_ends hd howner hup, rfl⟩,
    fun s v hruns hv hphase hfree => ⟨exec_activationPrepareDone_hands hruns hv hphase hfree,
      fun hcalm hby => exec_activationPrepareDone_aborts hruns hv hphase hfree hcalm hby⟩,
    fun s hup hsafe hbuild hpost => ⟨exec_bootRecordAppended_alone hup hsafe hbuild hpost,
      fun v hact hphase hby hcalm => exec_bootRecordAppended_ends hup hsafe hbuild hpost hact hphase hby hcalm⟩⟩

end Sys2Proof.Machine
end

section
/-! The ownership lease (R65 to R70) and the retirement of dies (R285, R286). -/

namespace Sys2Proof.Machine

open Safety

/-! ## Ends of admin commands with dwords -/

/-- An admin command that fails with both completion dwords set. -/
theorem AdminFacts.awayDwords {s g : State} {a : AdminCmd} {k : Nat} {x : Ctx} {st : Status} (f : AdminFacts s g a k x) (hok : st.isOk = false)
    (hne : ¬ (st.sct = 2 ∧ st.sc = 0x81)) (hs : Safety.calm s) (d0 d1 : Nat) :
    ∃ t, (g.finWith k st d0 d1).settle = t ∧ (t.qce.ctx? k).map (fun y => (y.state, y.status, y.dw0)) = some (.completing, st, d0) ∧ t.hfu = g.hfu := by
  obtain ⟨y, hy⟩ : ∃ y, y = ({ x with dw0 := d0, dw1 := d1 } : Ctx) := ⟨_, rfl⟩
  have hset : (g.updCtx k fun x => { x with dw0 := d0, dw1 := d1 }) = g.setCtx k y := (State.updCtx_calm f.calm f.here _).trans (by rw [hy])
  have hyx : (g.setCtx k y).qce.ctx? k = some y := Tab.get?_set_self _ _ _
  obtain ⟨d, m, hfin, -⟩ := f.fails (h := g.setCtx k y) (y := y) (f.setSelf y) (by rw [hy]; exact f.own) (by rw [hy]; exact f.zone) (by rw [hy]; exact f.ord)
    (congrArg _ f.sec_eq) hok hne hs
  rw [State.finWith, hset]
  refine ⟨_, hfin, ?_, rfl⟩
  dsimp only
  rw [Qce.setDone_ctx st hyx, hy]
  rfl

/-- An admin command that ends once its record is durable (R67, R70): it is done at once where the record is, and waits in FW where it is not. -/
theorem AdminFacts.durable {s g h : State} {a : AdminCmd} {k : Nat} {x : Ctx} {st : Status} (f : AdminFacts s g a k x) (hctx : h.qce.ctxs = g.qce.ctxs)
    (hsec : h.sec.sanitize = s.sec.sanitize) (hho : h.handover = false) (hok : st.isOk = true) (hs : Safety.calm s) (d0 d1 w : Nat) :
    ∃ q y, (h.finDurable k st d0 d1 w).settle = { h with qce := q } ∧ q.ctx? k = some y ∧ y.status = st ∧ y.wsn = w ∧ y.dw0 = d0
      ∧ (h.fl.recDurable w = false → y.state = .fw) := by
  have hcalm : Safety.calm h := calm_of f.calm (hsec.trans (by rw [f.sec_eq])) hctx
  have hx : h.qce.ctx? k = some x := by rw [Qce.ctx?, hctx]; exact f.here
  obtain ⟨y, hy⟩ : ∃ y, y = ({ x with status := st, dw0 := d0, dw1 := d1, wsn := w, encrypted := true } : Ctx) := ⟨_, rfl⟩
  have hset : h.finDurable k st d0 d1 w = h.setCtx k y := (State.updCtx_calm hcalm hx _).trans (by rw [hy])
  obtain ⟨hst, hside, hdet, hrl, -, -⟩ := f.own
  have hyst : y.state = .fw ∧ y.encrypted = true ∧ y.recorded = false ∧ y.status = st ∧ y.wsn = w ∧ y.side = false ∧ y.detached = false := by
    rw [hy]
    exact ⟨hst, rfl, f.recorded, rfl, rfl, hside, hdet⟩
  obtain ⟨hyfw, henc, hrec, hyok, hyw, hys, hyd⟩ := hyst
  have hstalls : y.stalls = true := by simp [Ctx.stalls, hyfw, henc, hrec]
  have hyx : (h.setCtx k y).qce.ctx? k = some y := Tab.get?_set_self _ _ _
  have hgo : (h.setCtx k y).settleCtx k = if h.fl.recDurable w then (h.setCtx k y).fin k st else h.setCtx k y := by
    have hho' : (h.setCtx k y).handover = false := hho
    rw [State.settleCtx, hyx]
    dsimp only
    rw [hyfw]
    dsimp only
    rw [hho', if_neg Bool.false_ne_true, henc, if_pos rfl, hyw, hyok]
    rfl
  rw [hset]
  by_cases hdur : h.fl.recDurable w = true
  · obtain ⟨z, hz⟩ : ∃ z, z = ({ y with rlidx := none, rlWait := false, state := .completing, status := st, doneSeq := h.qce.doneSeq + 1 } : Ctx) := ⟨_, rfl⟩
    have hfin : (h.setCtx k y).settleCtx k = { h with qce := (h.setCtx k y).qce.setDone k st } := by
      rw [hgo, if_pos hdur, State.fin_ok hyx (by simp [Ctx.open', hyfw]) hok]
      rfl
    have hctxs : ((h.setCtx k y).qce.setDone k st).ctxs = Tab.set h.qce.ctxs k z := by
      rw [hz]
      exact Qce.setDone_set (t := h.qce.ctxs) rfl hcalm.2.2
    have hzrest : atRest z = true := by simp [hz, atRest, hys, hyd]
    have hcalm' : Safety.calm ((h.setCtx k y).settleCtx k) := by
      rw [hfin]
      exact calm_of (calm_setCtx (c := k) hcalm hzrest) rfl hctxs
    refine ⟨_, z, (State.settle_one (t := h.qce.ctxs) rfl hcalm.2.1 hstalls hcalm').trans hfin, ?_, ?_, ?_, ?_, fun hnot => absurd hdur (by simp [hnot])⟩
    · rw [Qce.ctx?, hctxs]
      exact Tab.get?_set_self _ _ _
    · rw [hz]
    · rw [hz, hy]
    · rw [hz, hy]
  · have hstays : (h.setCtx k y).settleCtx k = h.setCtx k y := by rw [hgo, if_neg hdur]
    refine ⟨_, y, State.settle_held (t := h.qce.ctxs) rfl hcalm.2.1 hstalls (hsec.trans hs.1) ⟨hys, hyd⟩ hstays, hyx, hyok, hyw, ?_, fun _ => hyfw⟩
    rw [hy]

/-! ## The lease -/

/-- Dword 0 of a lease action that is done (R65, R66). -/
def leaseDw0 (l : Lease) (clock act dur : Nat) : Nat := if act = 0 then l.remaining clock else if act = 3 then 0 else dur

theorem leaseDw1_one (host : Nat) (l : Lease) : leaseDw1 host [l] = l.gen % 2 ^ 31 * 2 + b2n (host != 0 && l.owner == some host) := by
  simp [leaseDw1, bne, beq_eq_decide]

/-- A lease action on one namespace. -/
theorem State.lease_one {s : State} {c nsx : Nat} {x : Ctx} {host : Nat} {l : Lease} {v : LeaseVerdict} {dur : Nat}
    (hdur : dur = grantMs (s.hfu.regs.fld .hfuLeasecfg 15 0) (s.hfu.regs.fld .hfuLeasecfg 31 16) x.sqe.cdw11)
    (hact : (s.leaseOf nsx).act s.hfu.holdoff.isSome s.clock.lease host (x.sqe.cdw10 % 16) dur = (l, v)) :
    (v = .held → s.lease c x host [nsx]
      = s.finWith c .leaseHeld ((s.leaseOf nsx).remaining s.clock.lease) (leaseDw1 host [s.leaseOf nsx]))
    ∧ (v = .ok → l.gen = (s.leaseOf nsx).gen → s.lease c x host [nsx]
      = ({ s with hfu := { s.hfu with leases := Tab.set s.hfu.leases nsx l } } : State).finWith c .success
          (leaseDw0 (s.leaseOf nsx) s.clock.lease (x.sqe.cdw10 % 16) dur) (leaseDw1 host [l]))
    ∧ (v = .ok → l.gen ≠ (s.leaseOf nsx).gen → s.lease c x host [nsx]
      = ({ s with
          hfu := { s.hfu with leases := Tab.set s.hfu.leases nsx l }
          fl := { s.fl with ptx := (s.fl.ptx.logLeases s.clock.now [(nsx, l.gen)]).1 } } : State).finDurable c .success
          (leaseDw0 (s.leaseOf nsx) s.clock.lease (x.sqe.cdw10 % 16) dur) (leaseDw1 host [l]) (s.fl.ptx.wsn + 1)) := by
  refine ⟨fun hv => ?_, fun hv hgen => ?_, fun hv hgen => ?_⟩
  · rw [State.lease]
    dsimp only [List.map]
    rw [← hdur, hact, hv]
    simp
    rfl
  · rw [State.lease]
    dsimp only [List.map]
    rw [← hdur, hact, hv]
    simp [hgen, leaseDw0, least]
  · rw [State.lease]
    dsimp only [List.map]
    rw [← hdur, hact, hv]
    simp [hgen, leaseDw0, least]
    rfl

/-- An ownership lease command on one guarded namespace (R65). -/
theorem exec_ownershipLease_goes {s g : State} {a : AdminCmd} {k nsx : Nat} {x : Ctx} {n : Ns} (ht : adminTaken s g a 0xC8 .every k x)
    (hact : a.q.cdw10 % 16 ≤ 3) (hnsid : a.q.nsid = nsx + 1) (hnsx : nsx < 8192) (hn : s.fl.attachedNs a.inst a.q.nsid = some n)
    (hguard : (s.leaseOf nsx).guarded = true) :
    exec (.ownershipLease a) s = .next (
      if g.callerHost x = 0 ∧ a.q.cdw10 % 16 ≠ 0 then g.finWith k .hostIdRequired 0 (leaseDw1 (g.callerHost x) [s.leaseOf nsx])
      else g.lease k x (g.callerHost x) [nsx]).settle := by
  have f := admin_facts ht
  have hlease : g.leaseOf nsx = s.leaseOf nsx := by
    rw [State.leaseOf, f.frame]
    rfl
  have htargets : g.leaseTargets x = .ok [nsx] := by
    rw [State.leaseTargets, f.sqe, if_neg (by omega), f.callerNs, hn]
    dsimp only
    rw [hnsid, Nat.add_sub_cancel, hlease, hguard, if_pos rfl]
  change execOwnershipLease a s = _
  rw [execOwnershipLease, State.adminNow_goes ht, f.sqe, if_neg (by omega), htargets]
  dsimp only [List.map]
  rw [hlease]

/-- Only an Acquire changes a lease's generation (R66). -/
theorem Lease.act_gen {l m : Lease} {v : LeaseVerdict} {holdoff : Bool} {clock host act dur : Nat} (h : l.act holdoff clock host act dur = (m, v))
    (hgen : m.gen ≠ l.gen) : act = 1 := by
  rw [Lease.act.eq_def] at h
  split at h
  · exact absurd (congrArg (·.1.gen) h).symm hgen
  · rfl
  · split at h <;> exact absurd (congrArg (·.1.gen) h).symm hgen
  · split at h <;> exact absurd (congrArg (·.1.gen) h).symm hgen

/-- An action that needs a host identifier comes from a host without one (R65). -/
theorem exec_ownershipLease_hostless {s g : State} {a : AdminCmd} {k nsx : Nat} {x : Ctx} {n : Ns} (ht : adminTaken s g a 0xC8 .every k x)
    (hact : a.q.cdw10 % 16 ≤ 3) (hnsid : a.q.nsid = nsx + 1) (hnsx : nsx < 8192) (hn : s.fl.attachedNs a.inst a.q.nsid = some n)
    (hguard : (s.leaseOf nsx).guarded = true) (hhost : g.callerHost x = 0) (hquery : a.q.cdw10 % 16 ≠ 0) :
    ∃ t, exec (.ownershipLease a) s = .next t ∧ turnedAway s t k .hostIdRequired ∧ (t.qce.ctx? k).map (·.dw1) = some ((s.leaseOf nsx).gen % 2 ^ 31 * 2) := by
  obtain ⟨t, hfin, haway, hdw⟩ := (admin_facts ht).awayWith (st := .hostIdRequired) rfl (by decide) ht.2.2.2.2.2.2.2 (leaseDw1 0 [s.leaseOf nsx])
  have hexec := exec_ownershipLease_goes ht hact hnsid hnsx hn hguard
  rw [if_pos ⟨hhost, hquery⟩, hhost, hfin] at hexec
  refine ⟨t, hexec, haway, hdw.trans ?_⟩
  rw [leaseDw1_one]
  rfl

/-- An action that its rules decide (R66, R67). -/
theorem exec_ownershipLease_decides {s g : State} {a : AdminCmd} {k nsx dur : Nat} {x : Ctx} {n : Ns} {l : Lease} {v : LeaseVerdict}
    (ht : adminTaken s g a 0xC8 .every k x) (hact : a.q.cdw10 % 16 ≤ 3) (hnsid : a.q.nsid = nsx + 1) (hnsx : nsx < 8192)
    (hn : s.fl.attachedNs a.inst a.q.nsid = some n) (hguard : (s.leaseOf nsx).guarded = true)
    (hdur : dur = grantMs (s.hfu.regs.fld .hfuLeasecfg 15 0) (s.hfu.regs.fld .hfuLeasecfg 31 16) a.q.cdw11)
    (hhost : g.callerHost x ≠ 0 ∨ a.q.cdw10 % 16 = 0)
    (hv : (s.leaseOf nsx).act s.hfu.holdoff.isSome s.clock.lease (g.callerHost x) (a.q.cdw10 % 16) dur = (l, v)) :
    (v = .ok → l.gen = (s.leaseOf nsx).gen →
      ∃ t, exec (.ownershipLease a) s = .next t
        ∧ completed s t k .success (if a.q.cdw10 % 16 = 0 then (s.leaseOf nsx).remaining s.clock.lease else if a.q.cdw10 % 16 = 3 then 0 else dur)
        ∧ t.hfu.leases = Tab.set s.hfu.leases nsx l
        ∧ (t.qce.ctx? k).map (·.dw1) = some (l.gen % 2 ^ 31 * 2 + b2n (g.callerHost x != 0 && l.owner == some (g.callerHost x)))
        ∧ t = { s with hfu := t.hfu, qce := t.qce, out := t.out })
    ∧ (v = .held → ∃ t, exec (.ownershipLease a) s = .next t
        ∧ (t.qce.ctx? k).map (fun y => (y.state, y.status, y.dw0)) = some (.completing, .leaseHeld, (s.leaseOf nsx).remaining s.clock.lease)
        ∧ t.hfu.leases = s.hfu.leases)
    ∧ (v = .ok → l.gen ≠ (s.leaseOf nsx).gen →
      ∃ t, exec (.ownershipLease a) s = .next t ∧ t.hfu.leases = Tab.set s.hfu.leases nsx l ∧ t.fl.ptx = (s.fl.ptx.logLeases s.clock.now [(nsx, l.gen)]).1
        ∧ ∃ y, t.qce.ctx? k = some y ∧ y.status = .success ∧ y.wsn = s.fl.ptx.wsn + 1 ∧ y.dw0 = dur
          ∧ (t.fl.recDurable (s.fl.ptx.wsn + 1) = false → y.state = .fw)) := by
  have f := admin_facts ht
  have hcalm : calm s := ht.2.2.2.2.2.2.2
  have hlease : g.leaseOf nsx = s.leaseOf nsx := by
    rw [State.leaseOf, f.frame]
    rfl
  have hregs : g.hfu.regs = s.hfu.regs := by rw [f.frame]
  have hleases : g.hfu.leases = s.hfu.leases := by rw [f.frame]
  have hoff : g.hfu.holdoff = s.hfu.holdoff := by rw [f.frame]
  have hclock : g.clock = s.clock := by rw [f.frame]
  have hexec := exec_ownershipLease_goes ht hact hnsid hnsx hn hguard
  rw [if_neg (by omega)] at hexec
  obtain ⟨hheld, hsame, hnew⟩ := State.lease_one (s := g) (c := k) (nsx := nsx) (x := x) (dur := dur) (l := l) (v := v) (host := g.callerHost x) (by rw [hregs, f.sqe]; exact hdur)
    (by rw [hlease, hoff, hclock, f.sqe]; exact hv)
  have hdw0 : leaseDw0 (g.leaseOf nsx) g.clock.lease (x.sqe.cdw10 % 16) dur = leaseDw0 (s.leaseOf nsx) s.clock.lease (a.q.cdw10 % 16) dur := by
    rw [hlease, hclock, f.sqe]
  have hlog : g.fl.ptx.logLeases g.clock.now [(nsx, l.gen)] = g.fl.ptx.logLeases s.clock.now [(nsx, l.gen)] := by rw [hclock]
  rw [hdw0, hlease, hleases] at hsame
  rw [hdw0, hlease, hleases, hlog] at hnew
  refine ⟨fun hok hgen => ?_, fun hno => ?_, fun hok hgen => ?_⟩
  · obtain ⟨q, hfin, hdone, -, -, -, -, hdw⟩ := f.endsWith (h := { g with hfu := { g.hfu with leases := Tab.set s.hfu.leases nsx l } }) (st := .success) rfl
      (congrArg _ f.sec_eq) rfl hcalm (leaseDw0 (s.leaseOf nsx) s.clock.lease (a.q.cdw10 % 16) dur) (leaseDw1 (g.callerHost x) [l])
    rw [hsame hok hgen, hfin] at hexec
    refine ⟨_, hexec, hdone, rfl, hdw.trans (by rw [leaseDw1_one]), ?_⟩
    dsimp only
    rw [f.frame]
  · obtain ⟨t, hfin, hctx, hhfu⟩ := f.awayDwords (st := .leaseHeld) rfl (by decide) hcalm ((s.leaseOf nsx).remaining s.clock.lease)
      (leaseDw1 (g.callerHost x) [s.leaseOf nsx])
    rw [hheld hno, hlease, hclock, hfin] at hexec
    exact ⟨t, hexec, hctx, by rw [hhfu, hleases]⟩
  · have hone := Lease.act_gen hv hgen
    have hho : g.handover = false := adminTaken_handover ht
    obtain ⟨q, y, hfin, hy, hst, hwsn, hdw, hfw⟩ := f.durable (st := .success)
      (h := { g with hfu := { g.hfu with leases := Tab.set s.hfu.leases nsx l }, fl := { g.fl with ptx := (g.fl.ptx.logLeases s.clock.now [(nsx, l.gen)]).1 } })
      rfl (congrArg _ f.sec_eq) hho rfl hcalm (leaseDw0 (s.leaseOf nsx) s.clock.lease (a.q.cdw10 % 16) dur) (leaseDw1 (g.callerHost x) [l])
      (g.fl.ptx.wsn + 1)
    rw [hnew hok hgen, hfin, f.fl_eq] at hexec
    rw [f.fl_eq] at hwsn hfw
    exact ⟨_, hexec, rfl, rfl, y, hy, hst, hwsn, hdw.trans (by rw [leaseDw0, hone]; rfl), hfw⟩

/-- The hold-off ends when its time on the lease clock has come (R70). -/
theorem exec_leaseHoldoffEnd_ends {s : State} {t0 : Nat} (hruns : s.runs = true) (hoff : s.hfu.holdoff = some t0)
    (hreach : t0 ≤ (s.until' (s.clock.now + (t0 - s.clock.lease))).clock.lease) :
    ∃ t, exec .leaseHoldoffEnd s = .next t ∧ t.hfu = { s.hfu with holdoff := none } ∧ t.clock.now = s.clock.now + (t0 - s.clock.lease)
      ∧ t = { s with hfu := t.hfu, clock := t.clock } := by
  refine ⟨{ s.until' (s.clock.now + (t0 - s.clock.lease)) with hfu := { s.hfu with holdoff := none } }, ?_, rfl, ?_, rfl⟩
  · change execLeaseHoldoffEnd s = _
    rw [execLeaseHoldoffEnd, State.whenRuns_on hruns, hoff]
    dsimp only
    rw [if_pos hreach, State.until'_hfu]
  · simp [Clock.pass]

/-! ## Die Retire -/

/-- A Die Retire of an installed die in its turn (R285). -/
theorem exec_dieRetire_goes {s g : State} {a : AdminCmd} {k d : Nat} {x : Ctx} (ht : adminTaken s g a 0xCC .pf k x) (hd : d = natBits a.q.cdw10 10 0)
    (hdie : s.fl.hw.hasDie d = true) (hact : natBits a.q.cdw11 2 0 ≤ 2) (hblk : natBits a.q.cdw11 2 0 = 2 → natBits a.q.cdw12 11 0 < (s.fl.hw.desc d).blks)
    {r : Except Status State}
    (hr : (if natBits a.q.cdw11 2 0 = 1 then g.retireByCommand d (natBits a.q.cdw11 8 8 == 1)
      else if natBits a.q.cdw11 2 0 = 2 then g.retireBlock d (natBits a.q.cdw12 11 0) (natBits a.q.cdw11 8 8 == 1) else .ok g) = r) :
    (∀ h, r = .ok h → exec (.dieRetire a) s = .next (h.finWith k .success (h.fl.dieRec d).answer.1 (h.fl.dieRec d).answer.2).settle)
    ∧ ∀ st, r = .error st → exec (.dieRetire a) s = .next (g.fin k st).settle := by
  have f := admin_facts ht
  have hgood : ¬ ((!g.fl.hw.hasDie d) = true ∨ 2 < natBits a.q.cdw11 2 0 ∨ natBits a.q.cdw11 2 0 = 2 ∧ (g.fl.hw.desc d).blks ≤ natBits a.q.cdw12 11 0) := by
    rw [f.fl_eq, hdie]
    rintro (h | h | ⟨h1, h2⟩)
    · exact absurd h (by decide)
    · omega
    · exact absurd (hblk h1) h2.not_gt
  constructor
  all_goals
    intro o ho
    change execDieRetire a s = _
    rw [execDieRetire, State.admin_goes ht]
    dsimp only
    rw [f.sqe, ← hd, if_neg hgood, hr, ho]

/-- The answer about a die, with nothing changed (R285). -/
theorem exec_dieRetire_answers {s g : State} {a : AdminCmd} {k d : Nat} {x : Ctx} (ht : adminTaken s g a 0xCC .pf k x)
    (hexec : exec (.dieRetire a) s = .next (g.finWith k .success (g.fl.dieRec d).answer.1 (g.fl.dieRec d).answer.2).settle) :
    ∃ t, exec (.dieRetire a) s = .next t ∧ completed s t k .success (s.fl.dieRec d).answer.1 ∧ (t.qce.ctx? k).map (·.dw1) = some (s.fl.dieRec d).gbad
      ∧ onlyQueues s t := by
  have f := admin_facts ht
  obtain ⟨q, hfin, hdone, -, -, -, -, hdw⟩ := f.endsWith (h := g) (st := .success) rfl (congrArg _ f.sec_eq) rfl ht.2.2.2.2.2.2.2 (g.fl.dieRec d).answer.1
    (g.fl.dieRec d).answer.2
  rw [hfin] at hexec
  rw [f.fl_eq] at hdone hdw
  exact ⟨_, hexec, hdone, hdw, f.only q g.out⟩

/-- A retirement that would lose data, or that the allowance does not carry, is refused unless it is forced (R286). -/
theorem State.retireByCommand_refuses {s : State} {d : Nat} (hstay : (s.fl.dieRec d).health.leaving = false) :
    (s.fl.retireLoses d = true → s.retireByCommand d false = .error .wouldLose)
    ∧ (s.fl.retireLoses d = false → s.fl.allowanceLeft < (s.fl.hw.desc d).dieBytes → s.retireByCommand d false = .error .allowanceGone) := by
  rw [State.retireByCommand]
  rw [hstay, if_neg Bool.false_ne_true]
  constructor
  · intro hloses
    rw [hloses, if_pos (by decide)]
  · intro hkeeps hleft
    rw [hkeeps, if_neg (by decide), if_pos ⟨by decide, hleft⟩]

/-- Settles O37: the lease's actions, its hold-off, and the retirement of a die. -/
theorem leaseAndRetire : Obligations.LeaseAndRetire := by
  refine ⟨fun s g a k nsx dur x n l v ht hact hnsid hnsx hn hguard hdur =>
      ⟨fun hhost hquery => exec_ownershipLease_hostless ht hact hnsid hnsx hn hguard hhost hquery,
        fun hhost hv => exec_ownershipLease_decides ht hact hnsid hnsx hn hguard hdur hhost hv⟩,
    fun s t0 hruns hoff hreach => exec_leaseHoldoffEnd_ends hruns hoff hreach, fun s g a k d x ht hd hdie => ⟨fun hact => ?_, fun hact hforce hstay => ?_, fun h hact hh => ?_,
      fun hact hblk hbad => ?_⟩⟩
  · exact exec_dieRetire_answers ht ((exec_dieRetire_goes ht hd hdie (by omega) (by omega) (by rw [if_neg (by omega), if_neg (by omega)])).1 g rfl)
  · have f := admin_facts ht
    have hunforced : (natBits a.q.cdw11 8 8 == 1) = false := by rw [hforce]; rfl
    obtain ⟨-, herr⟩ := exec_dieRetire_goes ht hd hdie (by omega) (by omega) (if_pos hact)
    obtain ⟨hloses, hleft⟩ := State.retireByCommand_refuses (s := g) (d := d) (by rw [f.fl_eq]; exact hstay)
    rw [hunforced] at herr
    rw [f.fl_eq] at hloses hleft
    refine ⟨fun h => ?_, fun h1 h2 => ?_⟩
    · obtain ⟨t, hfin, haway⟩ := f.away (st := .wouldLose) rfl (by decide) ht.2.2.2.2.2.2.2
      exact ⟨t, (herr _ (hloses h)).trans (congrArg _ hfin), haway⟩
    · obtain ⟨t, hfin, haway⟩ := f.away (st := .allowanceGone) rfl (by decide) ht.2.2.2.2.2.2.2
      exact ⟨t, (herr _ (hleft h1 h2)).trans (congrArg _ hfin), haway⟩
  · exact (exec_dieRetire_goes ht hd hdie (by omega) (by omega) (if_pos hact)).1 h hh
  · have hblock : g.retireBlock d (natBits a.q.cdw12 11 0) (natBits a.q.cdw11 8 8 == 1) = .ok g := by
      rw [State.retireBlock]
      dsimp only
      rw [(admin_facts ht).fl_eq, if_pos hbad]
    obtain ⟨t, hexec, hdone, -, honly⟩ := exec_dieRetire_answers ht
      ((exec_dieRetire_goes ht hd hdie (by omega) (fun _ => hblk) (by rw [if_neg (by omega), if_pos hact, hblock])).1 g rfl)
    exact ⟨t, hexec, hdone, honly⟩

end Sys2Proof.Machine
end

section
/-! Resets of instances (R45, R143, R158 to R160). -/

namespace Sys2Proof.Machine

open Safety

/-! ## Tables filtered by their keys -/

theorem Tab.get?_keepKeys {α : Type} (t : Tab α) (p : Nat → Bool) (j : Nat) :
    Tab.get? (Tab.keep t fun k _ => p k) j = if p j then Tab.get? t j else none := by
  induction t with
  | nil => simp [Tab.keep]
  | cons e t ih =>
    obtain ⟨k, a⟩ := e
    rw [Tab.keep] at ih ⊢
    by_cases hk : p k = true
    · rw [List.filter_cons_of_pos (p := fun e : Nat × α => p e.1) hk, Tab.get?_cons, Tab.get?_cons]
      by_cases hj : k = j
      · rw [if_pos hj, if_pos hj, ← hj, if_pos hk]
      · rw [if_neg hj, if_neg hj, ih]
    · rw [List.filter_cons_of_neg (p := fun e : Nat × α => p e.1) hk, ih, Tab.get?_cons]
      by_cases hj : k = j
      · rw [← hj, if_neg hk, if_neg hk]
      · rw [if_neg hj]

/-- Changing an entry in a way that a condition does not see keeps the keys that meet it. -/
theorem Tab.keysWhere_upd {α : Type} {t : Tab α} {i : Nat} {f : α → α} {p : α → Bool} (h : ∀ a, p (f a) = p a) :
    Tab.keysWhere (Tab.upd t i f) (fun _ a => p a) = Tab.keysWhere t fun _ a => p a := by
  induction t with
  | nil => rfl
  | cons e t ih =>
    rw [Tab.keysWhere, Tab.keysWhere, Tab.upd] at ih ⊢
    have hhead : p (if e.1 = i then (e.1, f e.2) else e).2 = p e.2 := by
      split
      · exact h e.2
      · rfl
    have hkey : (if e.1 = i then (e.1, f e.2) else e).1 = e.1 := by split <;> rfl
    rw [List.map_cons, List.filter_cons, List.filter_cons, hhead]
    split
    · rw [List.map_cons, List.map_cons, hkey, ih]
    · exact ih

/-! ## The registers of a function -/

/-- A function's own registers at their reset values (R45). -/
def Inst.functionCleared (i : Inst) : Inst := { i with vectors := [], irq := .fresh, aqa := 0, asq := 0, acq := 0 }

/-- A state with a function's own registers returned. -/
def State.functionCleared (s : State) (inst : Nat) : State :=
  { s with qce := s.qce.updInst inst Inst.functionCleared, hfu := { s.hfu with cfg := Tab.erase s.hfu.cfg inst } }

theorem State.functionReset_eq (s : State) (inst : Nat) (to' : ResetTo) : s.functionReset inst to' = (s.functionCleared inst).resetInst inst to' := rfl

theorem State.functionCleared_inst {s : State} {inst : Nat} {x : Inst} (hx : s.qce.inst? inst = some x) :
    (s.functionCleared inst).qce.inst? inst = some x.functionCleared := Tab.get?_upd_self hx

/-! ## Putting an instance into reset -/

/-- Outside the safe state, and before a dump, an instance that is there is reset as its state says (R143). -/
theorem State.resetInst_there {s : State} {inst : Nat} {i : Inst} (to' : ResetTo) (hsafe : s.fev.safe = false) (hdump : s.dumped = false)
    (hi : s.qce.inst? inst = some i) :
    (i.state = .disabled → to' = .disabled → s.resetInst inst to' = s)
    ∧ (i.state = .disabled → to' = .unused → s.resetInst inst to' = s.removeInst inst)
    ∧ (i.state = .resetting → s.resetInst inst to' = { s with qce := s.qce.updInst inst fun i => { i with resetTo := i.resetTo.max to' } }) := by
  unfold State.resetInst
  rw [hsafe, hdump, if_neg (by decide), hi]
  dsimp only
  refine ⟨fun hst hto => ?_, fun hst hto => ?_, fun hst => ?_⟩
  · rw [hst, hto]
  · rw [hst, hto]
  · rw [hst]

/-- Tearing down an instance while no context is live only counts it. -/
theorem State.teardown_idle {s : State} (inst : Nat) (h0 : s.qce.ctxs = []) : ∃ tas, s.teardown inst = { s with tas := tas } := by
  have hkept : s.qce.keptWrites inst = [] := by simp [Qce.keptWrites, Qce.ofInst, h0]
  have hall : s.qce.ofInst inst = [] := by simp [Qce.ofInst, h0]
  rw [State.teardown, hkept, hall]
  exact ⟨_, rfl⟩

/-- What a reset leaves of an instance that goes into RESETTING (R143). -/
def Inst.resetting (i : Inst) (to' : ResetTo) (now : Nat) : Inst :=
  { i with state := .resetting, resetTo := to', resetAt := now, aers := [], events := [], reported := [], shutdown := none }

theorem calm_idle {s : State} (hsan : s.sec.sanitize = none) (h0 : s.qce.ctxs = []) : calm s := by
  refine ⟨hsan, ?_, ?_⟩
  · rw [h0]; simp
  · rw [h0]; rfl

/-- With no context and no sanitize, nothing is left to settle. -/
theorem State.settle_idle {s : State} (hsan : s.sec.sanitize = none) (h0 : s.qce.ctxs = []) : s.settle = s := State.settle_calm (calm_idle hsan h0)

/-- An idle ready instance is RESETTING at once (R143, R158). -/
theorem State.resetInst_ready {s : State} {inst : Nat} {i : Inst} (to' : ResetTo) (hsafe : s.fev.safe = false) (hdump : s.dumped = false)
    (hi : s.qce.inst? inst = some i) (hst : i.state = .ready) (h0 : s.qce.ctxs = []) (hpost : s.mgc.postHold ≤ s.clock.now) (hsan : s.sec.sanitize = none) :
    ∃ tas dl, s.resetInst inst to' = { s with
      qce := s.qce.updInst inst fun i => i.resetting to' s.clock.now, tas := tas, sec := s.sec.dropEndpoints inst, mgc := { s.mgc with download := dl } } := by
  obtain ⟨tas, htear⟩ := s.teardown_idle inst h0
  unfold State.resetInst
  rw [hsafe, hdump, if_neg (by decide), hi]
  dsimp only
  rw [hst]
  dsimp only
  rw [State.until'_past hpost, htear]
  dsimp only
  rw [State.settle_idle]
  · cases s.mgc.download with
    | none => exact ⟨tas, s.mgc.download, rfl⟩
    | some d =>
      refine ⟨tas, if d.owner = .inst inst then none else s.mgc.download, ?_⟩
      dsimp only
      split <;> rfl
  · exact hsan
  · exact h0

/-! ## Function-level reset -/

/-- What a physical function's reset does to one of its virtual functions (R45). -/
def State.withoutVf (s : State) (v : Nat) : State :=
  match (s.qce.inst? v).map (·.state) with
  | some InstState.offline => s.removeInst v
  | _ => s.functionReset v .unused

theorem exec_functionLevelReset_goes {s : State} {i : Nat} {x : Inst} (hsafe : s.fev.safe = false) (hdump : s.dumped = false) (hx : s.qce.inst? i = some x)
    (heth : x.eth = false) :
    (x.pf = false → exec (.functionLevelReset i) s = .next ((s.functionCleared i).resetInst i .disabled))
    ∧ (x.pf = true → exec (.functionLevelReset i) s = .next
      ((Tab.keysWhere ((s.functionCleared i).resetInst i .disabled).qce.insts fun _ j => j.port == x.port && !j.pf).foldl State.withoutVf ((s.functionCleared i).resetInst i .disabled))) := by
  have hgo : ¬ ((x.eth || s.fev.safe || s.dumped) = true) := by simp [heth, hsafe, hdump]
  refine ⟨fun hpf => ?_, fun hpf => ?_⟩
  · change execFunctionLevelReset i s = _
    rw [execFunctionLevelReset, hx]
    dsimp only
    rw [if_neg hgo, hpf, if_neg Bool.false_ne_true, State.functionReset_eq]
  · change execFunctionLevelReset i s = _
    rw [execFunctionLevelReset, hx]
    dsimp only
    rw [if_neg hgo, hpf, if_pos rfl, State.functionReset_eq] <;> rfl

/-- A function-level reset of a virtual function (R45). -/
theorem exec_functionLevelReset_vf {s : State} {i : Nat} {x : Inst} (hsafe : s.fev.safe = false) (hdump : s.dumped = false) (hx : s.qce.inst? i = some x)
    (heth : x.eth = false) (hpf : x.pf = false) :
    (x.state = .ready → s.qce.ctxs = [] → s.mgc.postHold ≤ s.clock.now → s.sec.sanitize = none → ∃ t, exec (.functionLevelReset i) s = .next t
      ∧ t.qce.inst? i = some (x.functionCleared.resetting .disabled s.clock.now)
      ∧ t.qce.sqs = s.qce.sqs ∧ t.qce.cqs = s.qce.cqs ∧ t.fl = s.fl ∧ t.mss = s.mss ∧ t.clock = s.clock
      ∧ t = { s with qce := { s.qce with insts := t.qce.insts }, hfu := { s.hfu with cfg := Tab.erase s.hfu.cfg i }, tas := t.tas, sec := s.sec.dropEndpoints i, mgc := { s.mgc with download := t.mgc.download } })
    ∧ (x.state = .disabled → ∃ t, exec (.functionLevelReset i) s = .next t ∧ t = { s with qce := { s.qce with insts := t.qce.insts }, hfu := { s.hfu with cfg := Tab.erase s.hfu.cfg i } }
      ∧ t.qce.inst? i = some x.functionCleared)
    ∧ (x.state = .resetting → ∃ t, exec (.functionLevelReset i) s = .next t ∧ t = { s with qce := { s.qce with insts := t.qce.insts }, hfu := { s.hfu with cfg := Tab.erase s.hfu.cfg i } }
      ∧ t.qce.inst? i = some { x.functionCleared with resetTo := x.resetTo.max .disabled }) := by
  have hexec := (exec_functionLevelReset_goes hsafe hdump hx heth).1 hpf
  have hcleared := State.functionCleared_inst hx
  obtain ⟨hdis, -, hres⟩ := State.resetInst_there (s := s.functionCleared i) .disabled hsafe hdump hcleared
  refine ⟨fun hst h0 hpost hsan => ?_, fun hst => ?_, fun hst => ?_⟩
  · obtain ⟨tas, dl, hreset⟩ := State.resetInst_ready (s := s.functionCleared i) .disabled hsafe hdump hcleared hst h0 hpost hsan
    refine ⟨_, hexec.trans (congrArg _ hreset), ?_, rfl, rfl, rfl, rfl, rfl, rfl⟩
    exact Tab.get?_upd_self (f := fun j : Inst => j.resetting .disabled (s.functionCleared i).clock.now) hcleared
  · exact ⟨_, hexec.trans (congrArg _ (hdis hst rfl)), rfl, hcleared⟩
  · refine ⟨_, hexec.trans (congrArg _ (hres hst)), rfl, ?_⟩
    exact Tab.get?_upd_self (f := fun j : Inst => { j with resetTo := j.resetTo.max .disabled }) hcleared

/-- A virtual function that is Disabled or Offline is gone. -/
theorem State.takeVf {s : State} {v : Nat} (hsafe : s.fev.safe = false) (hdump : s.dumped = false)
    (hv : ∀ y, s.qce.inst? v = some y → y.state = .disabled ∨ y.state = .offline) :
    (s.withoutVf v).fl = s.fl ∧ (s.withoutVf v).fev = s.fev ∧ (s.withoutVf v).ptm = s.ptm
      ∧ ∀ j, (s.withoutVf v).qce.inst? j = if j = v then none else s.qce.inst? j := by
  rw [State.withoutVf]
  cases hy : s.qce.inst? v with
  | none =>
    have hgone : (s.functionCleared v).qce.inst? v = none := by
      rw [State.functionCleared, Qce.inst?, Qce.updInst, Tab.get?_upd, if_pos rfl]
      exact (congrArg (Option.map Inst.functionCleared) hy).trans rfl
    have hstays : (s.functionCleared v).resetInst v .unused = s.functionCleared v := by
      have hgo : ((s.functionCleared v).fev.safe || (s.functionCleared v).dumped) = false := by
        change (s.fev.safe || s.dumped) = false
        rw [hsafe, hdump]; rfl
      rw [State.resetInst, hgo, if_neg Bool.false_ne_true, hgone]
    rw [Option.map_none]
    dsimp only
    rw [State.functionReset_eq, hstays]
    refine ⟨rfl, rfl, rfl, fun j => ?_⟩
    by_cases hj : j = v
    · rw [if_pos hj, hj, hgone]
    · rw [if_neg hj, State.functionCleared, Qce.inst?, Qce.updInst, Tab.get?_upd, if_neg hj]
      rfl
  | some y =>
    rw [Option.map_some]
    obtain hst | hst := hv y hy
    · rw [hst]
      dsimp only
      rw [State.functionReset_eq,
        (State.resetInst_there (s := s.functionCleared v) .unused hsafe hdump (State.functionCleared_inst hy)).2.1 hst rfl]
      refine ⟨rfl, rfl, rfl, fun j => ?_⟩
      change Tab.get? (Tab.erase (Tab.upd s.qce.insts v Inst.functionCleared) v) j = _
      rw [Tab.get?_erase, Tab.get?_upd]
      by_cases hj : j = v
      · rw [if_pos hj, if_pos hj]
      · rw [if_neg hj, if_neg hj, if_neg hj]
        rfl
    · rw [hst]
      exact ⟨rfl, rfl, rfl, fun j => Tab.get?_erase _ _ _⟩

/-- All of a physical function's virtual functions are gone, and nothing else of the instances changes. -/
theorem State.takeVfs (vs : List Nat) {s : State} (hsafe : s.fev.safe = false) (hdump : s.dumped = false)
    (hvs : ∀ v ∈ vs, ∀ y, s.qce.inst? v = some y → y.state = .disabled ∨ y.state = .offline) :
    (vs.foldl State.withoutVf s).fl = s.fl
    ∧ ∀ j, (vs.foldl State.withoutVf s).qce.inst? j = if j ∈ vs then none else s.qce.inst? j := by
  induction vs generalizing s with
  | nil => exact ⟨rfl, fun j => by simp⟩
  | cons v vs ih =>
    obtain ⟨hfl, hfev, hptm, hinst⟩ := State.takeVf hsafe hdump (hvs v List.mem_cons_self)
    rw [List.foldl_cons]
    obtain ⟨hfl', hinst'⟩ := ih (s := s.withoutVf v) (by rw [hfev]; exact hsafe) (by rw [State.dumped, hptm]; exact hdump) (fun w hw y hy => by
      rw [hinst w] at hy
      split at hy
      · exact absurd hy (by simp)
      · exact hvs w (List.mem_cons_of_mem _ hw) y hy)
    refine ⟨hfl'.trans hfl, fun j => ?_⟩
    rw [hinst' j, hinst j]
    by_cases hj : j = v
    · rw [if_pos hj, ite_self, if_pos (hj ▸ List.mem_cons_self)]
    · rw [if_neg hj]
      by_cases hm : j ∈ vs
      · rw [if_pos hm, if_pos (List.mem_cons_of_mem _ hm)]
      · rw [if_neg hm, if_neg (by simp [hj, hm])]

/-- A function-level reset of a disabled physical function takes its virtual functions away (R45). -/
theorem exec_functionLevelReset_pf {s : State} {i : Nat} {x : Inst} (hsafe : s.fev.safe = false) (hdump : s.dumped = false) (hx : s.qce.inst? i = some x)
    (heth : x.eth = false) (hpf : x.pf = true) (hst : x.state = .disabled)
    (hvfs : ∀ e ∈ s.qce.insts, e.2.port = x.port → e.2.pf = false → s.qce.inst? e.1 = some e.2 ∧ (e.2.state = .disabled ∨ e.2.state = .offline)) :
    ∃ t, exec (.functionLevelReset i) s = .next t ∧ (∀ e ∈ s.qce.insts, e.2.port = x.port → e.2.pf = false → t.qce.inst? e.1 = none)
      ∧ t.qce.inst? i = some x.functionCleared ∧ t.fl = s.fl := by
  have hexec := (exec_functionLevelReset_goes hsafe hdump hx heth).2 hpf
  have hcleared := State.functionCleared_inst hx
  rw [(State.resetInst_there (s := s.functionCleared i) .disabled hsafe hdump hcleared).1 hst rfl] at hexec
  obtain ⟨vs, hvs⟩ : ∃ vs, vs = Tab.keysWhere s.qce.insts fun _ j => j.port == x.port && !j.pf := ⟨_, rfl⟩
  have hkeys : (Tab.keysWhere (s.functionCleared i).qce.insts fun _ j => j.port == x.port && !j.pf) = vs := by
    rw [hvs]
    exact Tab.keysWhere_upd (p := fun j : Inst => j.port == x.port && !j.pf) (fun _ => rfl)
  rw [hkeys] at hexec
  have hmine : ∀ v ∈ vs, ∃ e ∈ s.qce.insts, e.1 = v ∧ e.2.port = x.port ∧ e.2.pf = false := by
    intro v hv
    rw [hvs, Tab.keysWhere, List.mem_map] at hv
    obtain ⟨e, he, hev⟩ := hv
    obtain ⟨hmem, hcond⟩ := List.mem_filter.1 he
    simp only [Bool.and_eq_true, beq_iff_eq, Bool.not_eq_true'] at hcond
    exact ⟨e, hmem, hev, hcond⟩
  have hother : ∀ v ∈ vs, v ≠ i ∧ ∀ y, s.qce.inst? v = some y → y.state = .disabled ∨ y.state = .offline := by
    intro v hv
    obtain ⟨e, hmem, rfl, hport, hvf⟩ := hmine v hv
    obtain ⟨hthere, hstate⟩ := hvfs e hmem hport hvf
    refine ⟨fun heq => ?_, fun y hy => ?_⟩
    · rw [heq, hx, Option.some.injEq] at hthere
      rw [hthere, hvf] at hpf
      exact absurd hpf Bool.false_ne_true
    · rw [hthere, Option.some.injEq] at hy
      exact hy ▸ hstate
  have hsame : ∀ v, v ≠ i → (s.functionCleared i).qce.inst? v = s.qce.inst? v := fun v hv => by
    rw [State.functionCleared, Qce.inst?, Qce.updInst, Tab.get?_upd, if_neg hv]
    rfl
  obtain ⟨hfl, hinst⟩ := State.takeVfs vs (s := s.functionCleared i) hsafe hdump (fun v hv y hy => (hother v hv).2 y (hsame v (hother v hv).1 ▸ hy))
  refine ⟨_, hexec, fun e hmem hport hvf => ?_, ?_, hfl⟩
  · refine (hinst e.1).trans (if_pos ?_)
    rw [hvs]
    exact List.mem_map.2 ⟨e, List.mem_filter.2 ⟨hmem, by simp [hport, hvf]⟩, rfl⟩
  · exact (hinst i).trans ((if_neg fun hi => (hother i hi).1 rfl).trans hcleared)

/-- In the safe state and after a dump nothing is reset (R446). -/
theorem exec_functionLevelReset_off {s : State} (i : Nat) (h : s.fev.safe = true ∨ s.dumped = true) : exec (.functionLevelReset i) s = .next s := by
  have hoff : ∀ x : Inst, (x.eth || s.fev.safe || s.dumped) = true := fun x => by
    obtain h | h := h <;> simp [h]
  change execFunctionLevelReset i s = _
  rw [execFunctionLevelReset]
  split
  · rfl
  · rw [if_pos (hoff _)]

/-! ## The end of a reset -/

/-- The queues of an instance are gone; its admin queues stay where `admin` says so. -/
theorem Qce.dropQueues_queues (q : Qce) (i : Nat) (admin : Bool) (j : Nat) (hj : j ≤ 511) (hgone : admin = false ∨ j ≠ 0) :
    (q.dropQueues i admin).sq? i j = none ∧ (q.dropQueues i admin).cq? i j = none := by
  have hkey : (qKey i j / 512 != i || admin && qKey i j % 512 == 0) = false := by
    have h1 : qKey i j / 512 = i := by rw [qKey]; omega
    have h2 : qKey i j % 512 = j := by rw [qKey]; omega
    rw [h1, h2]
    obtain h | h := hgone <;> simp [h]
  constructor
  · exact (Tab.get?_keepKeys q.sqs (fun k => k / 512 != i || admin && k % 512 == 0) (qKey i j)).trans (if_neg (by simp [hkey]))
  · exact (Tab.get?_keepKeys q.cqs (fun k => k / 512 != i || admin && k % 512 == 0) (qKey i j)).trans (if_neg (by simp [hkey]))

/-- A reset that completes leaves RESETTING (R143, R159). -/
theorem exec_instanceResetComplete_leaves {s : State} {i : Nat} {x : Inst} (hx : s.qce.inst? i = some x) (hst : x.state = .resetting)
    (hdev : s.fev.active.contains .device = false) (hsafe : s.fev.safe = false) (hdump : s.dumped = false) (h0 : s.qce.ctxs = []) (hsan : s.sec.sanitize = none) :
    (x.resetTo = .disabled → ∃ t, exec (.instanceResetComplete i) s = .next t ∧ t.qce.inst? i = some (x.cleared .disabled)
      ∧ (∀ j y, j ≠ i → s.qce.inst? j = some y → t.qce.inst? j = some y) ∧ (∀ q, 1 ≤ q → q ≤ 511 → t.qce.sq? i q = none ∧ t.qce.cq? i q = none)
      ∧ (x.eth = false → t.qce.sq? i 0 = none ∧ t.qce.cq? i 0 = none)
      ∧ t = { s with qce := { s.qce with insts := t.qce.insts, sqs := t.qce.sqs, cqs := t.qce.cqs }, hfu := { s.hfu with conns := t.hfu.conns } })
    ∧ (x.resetTo = .unused → ∃ t, exec (.instanceResetComplete i) s = .next t ∧ t.qce.inst? i = none ∧ Tab.get? t.tas.insts i = none) := by
  have hgo : ¬ ((decide (x.state ≠ .resetting) || s.fev.active.contains .device || s.fev.safe || s.dumped) = true) := by
    rw [hst, hdev, hsafe, hdump]
    decide
  have hgone : (s.qce.ctxs.filter fun e => e.2.inst == i && e.2.state == .cancelled && !e.2.side && !e.2.detached) = [] := by rw [h0]; rfl
  refine ⟨fun hto => ?_, fun hto => ?_⟩
  · obtain ⟨drop, hdrop⟩ : ∃ h : Sq → Sq, h = fun q => { q with heldRes := 0, heldSh := 0, capsules := [], heldBytes := [] } := ⟨_, rfl⟩
    obtain ⟨u, hu⟩ : ∃ u : State, u = { s with
        qce := ((s.qce.dropQueues i x.eth).updInst i fun i => i.cleared .disabled).updSq i 0 drop
        hfu := { s.hfu with conns := Tab.keep s.hfu.conns fun _ c => c.inst != i || c.qid == 0 } } := ⟨_, rfl⟩
    have hexec : exec (.instanceResetComplete i) s = .next u.settle := by
      change execInstanceResetComplete i s = _
      rw [execInstanceResetComplete, hx]
      dsimp only
      rw [if_neg hgo, hgone, List.foldl_nil, hto, hu, hdrop]
      rfl
    rw [State.settle_idle (by rw [hu]; exact hsan) (by rw [hu]; exact h0)] at hexec
    have hsq : ∀ j, Tab.get? (s.qce.dropQueues i x.eth).sqs j = none → Tab.get? u.qce.sqs j = none := fun j hj => by
      rw [hu]
      dsimp only [Qce.updSq, Qce.updInst]
      rw [Tab.get?_upd, hj]
      exact ite_self _
    refine ⟨u, hexec, ?_, fun j y hj hy => ?_, fun q h1 hq => ?_, fun heth => ?_, ?_⟩
    · rw [hu]
      exact Tab.get?_upd_self (f := fun j : Inst => j.cleared .disabled) hx
    · rw [hu]
      exact (Tab.get?_upd _ _ _ (fun j : Inst => j.cleared .disabled)).trans ((if_neg hj).trans hy)
    · obtain ⟨h1, h2⟩ := s.qce.dropQueues_queues i x.eth q hq (Or.inr (by omega))
      exact ⟨hsq _ h1, by rw [hu]; exact h2⟩
    · obtain ⟨h1, h2⟩ := s.qce.dropQueues_queues i x.eth 0 (by omega) (Or.inl heth)
      exact ⟨hsq _ h1, by rw [hu]; exact h2⟩
    · rw [hu]
      rfl
  · obtain ⟨u, hu⟩ : ∃ u : State, u = ({ s with qce := s.qce.dropQueues i x.eth } : State).removeInst i := ⟨_, rfl⟩
    have hexec : exec (.instanceResetComplete i) s = .next u.settle := by
      change execInstanceResetComplete i s = _
      rw [execInstanceResetComplete, hx]
      dsimp only
      rw [if_neg hgo, hgone, List.foldl_nil, hto, hu]
    have hctx : u.qce.ctxs = [] := by
      rw [hu, State.removeInst]
      dsimp only [Qce.dropQueues]
      rw [h0]
      rfl
    rw [State.settle_idle (by rw [hu]; exact hsan) hctx] at hexec
    refine ⟨u, hexec, ?_, ?_⟩
    · rw [hu]
      exact (Tab.get?_erase _ _ _).trans (if_pos rfl)
    · rw [hu]
      exact (Tab.get?_erase _ _ _).trans (if_pos rfl)

/-- A device recovery pauses the reset (R160). -/
theorem exec_instanceResetComplete_paused {s : State} {i : Nat} {x : Inst} (hx : s.qce.inst? i = some x) (hdev : s.fev.active.contains .device = true) :
    exec (.instanceResetComplete i) s = .next s := by
  change execInstanceResetComplete i s = _
  rw [execInstanceResetComplete, hx]
  dsimp only
  rw [hdev, if_pos (by simp)]

/-! ## NumVFs -/

/-- A write of NumVFs on a PCIe port (R141). -/
theorem exec_numvfsWrite_goes {s : State} {n k : Nat} {p : Port} (enable : Bool) (hp : Tab.get? s.hfu.ports n = some p) (hproto : p.proto = .pcie)
    (hup : s.up = true) (hdump : s.dumped = false) (hk : k < (s.hfu.range n).2) :
    exec (.numvfsWrite n k enable) s = .next (
      if enable then (List.range k).foldl (fun (g : State) j => g.addVf n ((s.hfu.range n).1 + 1 + j)) s
      else (Tab.keysWhere s.qce.insts fun _ i => i.port == n && !i.pf).foldl State.dropVf s) := by
  change execNumvfsWrite n k enable s = _
  rw [execNumvfsWrite, hp]
  dsimp only
  rw [if_neg (by simp [hproto, hup, hdump, hk])]

/-- The first virtual function comes with the queues that it was assigned (R141, R143). -/
theorem State.addVf_new {s : State} {n v : Nat} (hnone : s.qce.inst? v = none) :
    ∃ y, (s.addVf n v).qce.inst? v = some y ∧ y.pf = false ∧ y.port = n ∧ y.allot = s.qce.vqOf n v - 1
      ∧ y.state = if 2 ≤ s.qce.vqOf n v then .disabled else .offline := by
  rw [State.addVf, hnone]
  exact ⟨_, Tab.get?_set_self _ _ _, rfl, rfl, rfl, rfl⟩

/-- Settles O38: function-level resets, the end of a reset, and NumVFs. -/
theorem instanceResets : Obligations.InstanceResets := by
  refine ⟨fun s i x hsafe hdump hx heth hpf => exec_functionLevelReset_vf hsafe hdump hx heth hpf,
    fun s i x hsafe hdump hx heth hpf hst hvfs => exec_functionLevelReset_pf hsafe hdump hx heth hpf hst hvfs,
    fun s i h => ⟨s, exec_functionLevelReset_off i h, rfl⟩,
    fun s i x hx hst hdev hsafe hdump h0 hsan => exec_instanceResetComplete_leaves hx hst hdev hsafe hdump h0 hsan,
    fun s i x hx _ hdev => ⟨s, exec_instanceResetComplete_paused hx hdev, rfl⟩,
    fun s n k p hp hproto hup hdump hk => ⟨⟨_, exec_numvfsWrite_goes true hp hproto hup hdump hk, rfl⟩, fun hnone => ?_,
      ⟨_, exec_numvfsWrite_goes false hp hproto hup hdump hk, rfl⟩⟩⟩
  obtain ⟨y, hy⟩ := State.addVf_new (n := n) hnone
  obtain ⟨t, ht⟩ : ∃ t, exec (.numvfsWrite n 1 true) s = .next t := ⟨_, rfl⟩
  refine ⟨t, y, ht, fun h1 => ?_⟩
  have hgo := exec_numvfsWrite_goes true hp hproto hup hdump h1
  rw [ht] at hgo
  rw [Host.Outcome.next.inj hgo]
  exact hy

end Sys2Proof.Machine
end

section
/-! Enable, controller reset and shutdown by the host, and doorbells (R74, R78, R105, R107, R143). -/

namespace Sys2Proof.Machine

open Safety

/-! ## CC -/

/-- A change of one instance that is there. -/
theorem Qce.updInst_inst {q : Qce} {i : Nat} {x : Inst} (f : Inst → Inst) (hx : q.inst? i = some x) : (q.updInst i f).inst? i = some (f x) :=
  Tab.get?_upd_self (f := f) hx

/-- In the safe state CC is only stored (R446). -/
theorem exec_cc_safe {s : State} {i cc : Nat} {x : Inst} (aqa asq acq : Nat) (hx : s.qce.inst? i = some x) (hsafe : s.fev.safe = true) :
    exec (.ccEnSet i cc aqa asq acq) s = .next (s.storeCc i cc) ∧ exec (.ccEnClear i cc) s = .next (s.storeCc i cc) := by
  constructor
  · change execCcEnSet i cc aqa asq acq s = _
    rw [execCcEnSet, hx]
    dsimp only
    rw [hsafe, if_pos rfl]
  · change execCcEnClear i cc s = _
    rw [execCcEnClear, hx]
    dsimp only
    rw [hsafe, if_pos rfl]

/-- An instance that is ready, as CC.EN leaves it (R74, R143). -/
def Inst.enabled (i : Inst) (cc aqa asq acq : Nat) (rdy : Bool) (now : Nat) : Inst :=
  { i with state := .ready, cc := cc, aqa := aqa, asq := asq, acq := acq, rdy := rdy, cfs := false, shst := 0, freezes := 0, frozen := [], kaAt := now }

/-- CC.EN of a disabled PCIe instance (R74, R143). -/
theorem exec_ccEnSet_enables {s : State} {i cc aqa asq acq : Nat} {x : Inst} (hx : s.qce.inst? i = some x) (hsafe : s.fev.safe = false) (hup : s.up = true)
    (heth : x.eth = false) (hst : x.state = .disabled) (hen : natBits cc 0 0 = 1) :
    (asqs aqa < 2 ∨ acqs aqa < 2 → ∃ t, exec (.ccEnSet i cc aqa asq acq) s = .next t ∧ t.qce.inst? i = some { x with cc := cc, aqa := aqa, asq := asq, acq := acq, cfs := true }
      ∧ t = { s with qce := { s.qce with insts := t.qce.insts } })
    ∧ (2 ≤ asqs aqa → 2 ≤ acqs aqa → ∃ t, exec (.ccEnSet i cc aqa asq acq) s = .next t
      ∧ t.qce.inst? i = some (x.enabled cc aqa asq acq s.mayReady s.clock.now)
      ∧ (∃ q, t.qce.sq? i 0 = some q ∧ q.size = asqs aqa ∧ q.head = 0 ∧ q.tail = 0 ∧ q.reads = []) ∧ t.qce.cq? i 0 = some ⟨acqs aqa, 0, 0, true, some 0⟩
      ∧ (∀ j, j ≠ qKey i 0 → Tab.get? t.qce.sqs j = Tab.get? s.qce.sqs j ∧ Tab.get? t.qce.cqs j = Tab.get? s.qce.cqs j) ∧ t.mgc = { s.mgc with quiesced := false }
      ∧ t = { s with qce := t.qce, mgc := t.mgc }) := by
  have hexec : exec (.ccEnSet i cc aqa asq acq) s = .next (
      if asqs aqa < 2 || acqs aqa < 2 then
        { s with qce := s.qce.updInst i fun j => { j with cc := cc, aqa := aqa, asq := asq, acq := acq, cfs := true } }
      else (({ s with qce := s.qce.updInst i fun j => j.enabled cc aqa asq acq s.mayReady s.clock.now, mgc := { s.mgc with quiesced := false } } : State).addSq i 0 (asqs aqa)
        0 0 true).addCq i 0 (acqs aqa) (some 0)) := by
    change execCcEnSet i cc aqa asq acq s = _
    rw [execCcEnSet, hx]
    dsimp only
    rw [hsafe, if_neg Bool.false_ne_true, State.enable, if_neg (by simp [hst, hup, hen]), heth, Bool.not_false, Bool.true_and]
    rfl
  constructor
  · intro hsmall
    rw [if_pos (by simpa using hsmall)] at hexec
    exact ⟨_, hexec, Qce.updInst_inst (fun j : Inst => { j with cc := cc, aqa := aqa, asq := asq, acq := acq, cfs := true }) hx, rfl⟩
  · intro hsq hcq
    rw [if_neg (by simp; omega)] at hexec
    obtain ⟨u, hu⟩ : ∃ u : State, u = { s with
        qce := s.qce.updInst i fun j => j.enabled cc aqa asq acq s.mayReady s.clock.now, mgc := { s.mgc with quiesced := false } } := ⟨_, rfl⟩
    rw [← hu] at hexec
    obtain ⟨r, hr⟩ : ∃ r : Qce, r = { u.qce with sqs := Tab.set u.qce.sqs (qKey i 0) (Sq.fresh (asqs aqa) 0 0 u.qce.rsvadm (u.lcdef i) true) } := ⟨_, rfl⟩
    obtain ⟨rg, hrg⟩ := r.noteEmpty_frame
    have hadd : (u.addSq i 0 (asqs aqa) 0 0 true).addCq i 0 (acqs aqa) (some 0)
        = { u with qce := { r with regs := rg, cqs := Tab.set r.cqs (qKey i 0) ⟨acqs aqa, 0, 0, true, some 0⟩ } } := by
      rw [State.addCq, State.addSq, if_pos rfl, ← hr, hrg]
    refine ⟨_, hexec.trans (congrArg _ hadd), ?_, ⟨Sq.fresh (asqs aqa) 0 0 u.qce.rsvadm (u.lcdef i) true, ?_, rfl, rfl, rfl, rfl⟩, Tab.get?_set_self _ _ _, fun j hj => ⟨?_, ?_⟩, ?_, ?_⟩
    · rw [hr, hu]
      exact Qce.updInst_inst (fun j : Inst => j.enabled cc aqa asq acq s.mayReady s.clock.now) hx
    · rw [hr]
      exact Tab.get?_set_self _ _ _
    · rw [hr, hu]
      exact Tab.get?_set_ne _ _ hj
    · rw [hr, hu]
      exact Tab.get?_set_ne _ _ hj
    · rw [hu]
    · dsimp only
      rw [hu]

/-- CC.EN of an instance goes to 0 (R107, R143). -/
theorem exec_ccEnClear_disables {s : State} {i cc : Nat} {x : Inst} (hx : s.qce.inst? i = some x) (hsafe : s.fev.safe = false) (hen : natBits cc 0 0 = 0) :
    (x.state = .disabled → natBits x.cc 0 0 = 1 → ∃ t, exec (.ccEnClear i cc) s = .next t ∧ t.qce.inst? i = some { x with cc := 0, cfs := false } ∧ t = { s with qce := { s.qce with insts := t.qce.insts } })
    ∧ (x.state = .ready → s.dumped = false → s.qce.ctxs = [] → s.mgc.postHold ≤ s.clock.now → s.sec.sanitize = none → ∃ t, exec (.ccEnClear i cc) s = .next t
      ∧ t.qce.inst? i = some (x.resetting .disabled s.clock.now) ∧ t.fl = s.fl ∧ t.clock = s.clock) := by
  have hexec : exec (.ccEnClear i cc) s = .next (s.disable i x) := by
    change execCcEnClear i cc s = _
    rw [execCcEnClear, hx]
    dsimp only
    rw [hsafe, if_neg Bool.false_ne_true, if_pos hen]
  rw [State.disable] at hexec
  constructor
  · intro hst hon
    rw [if_pos ⟨hon, hst⟩] at hexec
    exact ⟨_, hexec, Qce.updInst_inst (fun j : Inst => { j with cc := 0, cfs := false }) hx, rfl⟩
  · intro hst hdump h0 hpost hsan
    obtain ⟨tas, dl, hreset⟩ := State.resetInst_ready .disabled hsafe hdump hx hst h0 hpost hsan
    rw [if_neg (by simp [hst]), hreset] at hexec
    exact ⟨_, hexec, Qce.updInst_inst (fun j : Inst => j.resetting .disabled s.clock.now) hx, rfl, rfl⟩

/-! ## Shutdown by the host -/

/-- A shutdown notification of a ready instance (R107). -/
theorem exec_ccShutdownNotify_starts {s : State} {i shn : Nat} {x : Inst} (hx : s.qce.inst? i = some x) (hruns : s.runs = true) (hshn : shn = 1 ∨ shn = 2)
    (hst : x.state = .ready) (hrdy : x.rdy = true) (hno : x.shst = 0) :
    ∃ t, exec (.ccShutdownNotify i shn) s = .next t
      ∧ t.qce.inst? i = some { x with cc := x.cc - natBits x.cc 15 14 * 2 ^ 14 + shn % 4 * 2 ^ 14, shst := 1, shutdown := some none }
      ∧ t = { s with qce := { s.qce with insts := t.qce.insts } } := by
  have hsafe : s.fev.safe = false := by
    rw [State.runs] at hruns
    simp only [Bool.and_eq_true, Bool.not_eq_true'] at hruns
    exact hruns.1.1.2
  obtain ⟨cc, hcc⟩ : ∃ cc, cc = x.cc - natBits x.cc 15 14 * 2 ^ 14 + shn % 4 * 2 ^ 14 := ⟨_, rfl⟩
  obtain ⟨shut, hshut⟩ : ∃ f : Inst → Inst, f = fun j => { j with shst := 1, shutdown := some none } := ⟨_, rfl⟩
  have hexec : exec (.ccShutdownNotify i shn) s = .next { s with qce := (s.storeCc i cc).qce.updInst i shut } := by
    change execCcShutdownNotify i shn s = _
    rw [execCcShutdownNotify, hx]
    dsimp only
    rw [hsafe, hruns, if_neg Bool.false_ne_true, if_pos (by obtain h | h := hshn <;> simp [h]), State.shutdownInst, if_pos ⟨hst, hrdy, hno⟩, ← hcc, hshut]
    rfl
  refine ⟨_, hexec, ?_, rfl⟩
  rw [← hcc]
  refine (Qce.updInst_inst shut (Qce.updInst_inst (fun j : Inst => { j with cc := cc }) hx)).trans ?_
  rw [hshut]

/-- Whether the other instances are shut does not depend on an instance itself. -/
theorem State.othersShut_own (s : State) (i : Nat) (f : Inst → Inst) : State.othersShut { s with qce := s.qce.updInst i f } i = s.othersShut i := by
  rw [State.othersShut, State.othersShut, Qce.updInst]
  dsimp only [Tab.upd]
  rw [List.all_map]
  congr 1
  funext e
  by_cases he : e.1 = i
  · simp [he]
  · simp [he]

/-- A shutdown that waits for commands, then for their durability, and is done (R107). -/
theorem exec_ccShutdownFlushDone_advances {s : State} {i : Nat} {x : Inst} (hx : s.qce.inst? i = some x) (hruns : s.runs = true) (hst : x.state = .ready)
    (hshst : x.shst = 1) (hshut : x.shutdown = some none) :
    (s.liveCmds i x = true → ∃ t, exec (.ccShutdownFlushDone i) s = .next t ∧ t = s)
    ∧ (s.liveCmds i x = false → s.fl.ptx.unp = false → State.othersShut { s with qce := s.qce.updInst i fun i => { i with shst := 2 } } i = false →
      ∃ t w, exec (.ccShutdownFlushDone i) s = .next t ∧ t.qce.inst? i = some { x with shutdown := w, shst := 2 } ∧ t = { s with qce := { s.qce with insts := t.qce.insts } })
    ∧ (s.liveCmds i x = false → s.fl.ptx.unp = true → ∃ t w, exec (.ccShutdownFlushDone i) s = .next t ∧ t.qce.inst? i = some { x with shutdown := some (some (s.fl.ptx.wsn, w)) }
      ∧ t = { s with qce := { s.qce with insts := t.qce.insts } }) := by
  obtain ⟨ex, hex⟩ : ∃ ex, ex = (s.qce.ctxs.filter fun e => e.2.kind.modifies && e.2.recorded).map fun e => e.2.wsn := ⟨_, rfl⟩
  obtain ⟨note, hnote⟩ : ∃ f : Inst → Inst, f = fun j => { j with shutdown := some (some (s.fl.ptx.wsn, ex)) } := ⟨_, rfl⟩
  obtain ⟨g, hg⟩ : ∃ g : State, g = { s with qce := s.qce.updInst i note } := ⟨_, rfl⟩
  have hexec : exec (.ccShutdownFlushDone i) s = .next (if s.liveCmds i x = true then s else if (!s.fl.ptx.unp) = true then g.shutdownDone i else g) := by
    change execCcShutdownFlushDone i s = _
    rw [execCcShutdownFlushDone, State.whenRuns_on hruns, hx]
    dsimp only
    rw [hst, hshst, hshut, hg, hnote, hex]
    rfl
  have hgi : g.qce.inst? i = some { x with shutdown := some (some (s.fl.ptx.wsn, ex)) } := by
    rw [hg]
    refine (Qce.updInst_inst note hx).trans ?_
    rw [hnote]
  refine ⟨fun hlive => ?_, fun hlive hunp hothers => ?_, fun hlive hunp => ?_⟩
  · rw [hlive, if_pos rfl] at hexec
    exact ⟨s, hexec, rfl⟩
  · have hothers' : State.othersShut { g with qce := g.qce.updInst i fun j => { j with shst := 2 } } i = false := by
      rw [State.othersShut_own] at hothers ⊢
      rw [hg, State.othersShut_own, hothers]
    rw [hlive, hunp, if_neg Bool.false_ne_true, if_pos (by decide), State.shutdownDone] at hexec
    dsimp only at hexec
    rw [hothers', if_neg (by simp)] at hexec
    refine ⟨_, some (some (s.fl.ptx.wsn, ex)), hexec, Qce.updInst_inst (fun j : Inst => { j with shst := 2 }) hgi, ?_⟩
    dsimp only
    rw [hg]
    rfl
  · rw [hlive, hunp, if_neg Bool.false_ne_true, if_neg (by decide)] at hexec
    refine ⟨g, ex, hexec, hgi, ?_⟩
    rw [hg]
    rfl

/-! ## Doorbells -/

/-- The submission queue's tail doorbell (R78, R105). -/
theorem exec_sqTailDoorbell_rings {s : State} {i j : Nat} (v : Nat) (hring : s.ringing i = true) (hj : j ≤ 256) :
    (s.qce.sq? i j = none → exec (.sqTailDoorbell i j v) s = .next (s.notify i (doorbellError 0)))
    ∧ ∀ q, s.qce.sq? i j = some q → exec (.sqTailDoorbell i j v) s = .next (
        if q.size ≤ v then s.notify i (doorbellError 1) else { s with qce := s.qce.updSq i j fun q => { q with tail := v } }) := by
  constructor
  · intro hq
    change execSqTailDoorbell i j v s = _
    rw [execSqTailDoorbell, hring, if_neg (by simpa using hj), hq]
  · intro q hq
    change execSqTailDoorbell i j v s = _
    rw [execSqTailDoorbell, hring, if_neg (by simpa using hj), hq]

/-- The completion queue's head doorbell (R78, R105). -/
theorem exec_cqHeadDoorbell_rings {s : State} {i j : Nat} (v : Nat) (hring : s.ringing i = true) (hj : j ≤ 256) :
    (s.qce.cq? i j = none → exec (.cqHeadDoorbell i j v) s = .next (s.notify i (doorbellError 0)))
    ∧ ∀ q, s.qce.cq? i j = some q → exec (.cqHeadDoorbell i j v) s = .next (
        if q.size ≤ v || !q.mayFree v then s.notify i (doorbellError 1) else { s with qce := s.qce.updCq i j fun q => { q with head := v } }) := by
  constructor
  · intro hq
    change execCqHeadDoorbell i j v s = _
    rw [execCqHeadDoorbell, hring, if_neg (by simpa using hj), hq]
  · intro q hq
    change execCqHeadDoorbell i j v s = _
    rw [execCqHeadDoorbell, hring, if_neg (by simpa using hj), hq]

/-- Settles O39: CC, the host's shutdown, and the doorbells. -/
theorem controllerRegisters : Obligations.ControllerRegisters := by
  refine ⟨fun s i cc aqa asq acq x hx hsafe hup heth hst hen => exec_ccEnSet_enables hx hsafe hup heth hst hen,
    fun s i cc aqa asq acq x c hx hsafe hc => ?_,
    fun s i cc x hx hsafe hen => exec_ccEnClear_disables hx hsafe hen,
    fun s i shn x hx hruns hshn hst hrdy hno => exec_ccShutdownNotify_starts hx hruns hshn hst hrdy hno,
    fun s i x hx hruns hst hshst hshut => exec_ccShutdownFlushDone_advances hx hruns hst hshst hshut,
    fun s i j v hring hj => ⟨fun hq => ⟨_, (exec_sqTailDoorbell_rings v hring hj).1 hq, rfl⟩, fun hq => ⟨_, (exec_cqHeadDoorbell_rings v hring hj).1 hq, rfl⟩,
      fun q hq => ⟨fun hbig => ?_, fun hin => ?_⟩, fun q hq => ⟨fun hbad => ?_, fun hin hfree => ?_⟩⟩⟩
  · obtain ⟨hset, hclear⟩ := exec_cc_safe (cc := cc) aqa asq acq hx hsafe
    have hexec : exec c s = .next (s.storeCc i cc) := by
      obtain h | h := hc
      · rw [h, hset]
      · rw [h, hclear]
    exact ⟨_, hexec, Qce.updInst_inst (fun j : Inst => { j with cc := cc }) hx, rfl⟩
  · exact ⟨_, ((exec_sqTailDoorbell_rings v hring hj).2 q hq).trans (congrArg _ (if_pos hbig)), rfl⟩
  · exact ⟨_, ((exec_sqTailDoorbell_rings v hring hj).2 q hq).trans (congrArg _ (if_neg (by omega))), Tab.get?_upd_self (f := fun q : Sq => { q with tail := v }) hq, rfl⟩
  · exact ⟨_, ((exec_cqHeadDoorbell_rings v hring hj).2 q hq).trans (congrArg _ (if_pos (by simpa using hbad))), rfl⟩
  · exact ⟨_, ((exec_cqHeadDoorbell_rings v hring hj).2 q hq).trans (congrArg _ (if_neg (by simp [hfree, hin]))),
      Tab.get?_upd_self (f := fun q : Cq => { q with head := v }) hq, rfl⟩

end Sys2Proof.Machine
end

section
/-! NVMe-oF transports (R46, R47, R49, R51, R52, R57). -/

namespace Sys2Proof.Machine

open Safety

/-! ## The receive allotment -/

/-- Whether XOFF stands after the allotment changes (R47). -/
def Port.xoffAt (p : Port) (n : Nat) : Bool := if p.xoff then decide (2 * mib ≤ n) else decide (3 * mib < n)

/-- A new fill of the allotment, and the flow frame that it brings (R47). -/
theorem Port.setAllot_eq (p : Port) (n : Nat) :
    p.setAllot n = ({ p with allot := n, xoff := p.xoffAt n }, if p.xoff = p.xoffAt n then none else some (if p.xoffAt n then .xoff else .xon)) := by
  rw [Port.setAllot, Port.xoffAt]
  cases hx : p.xoff with
  | true =>
    by_cases h : 2 * mib ≤ n
    · simp [h, h.not_gt]
    · simp [h, Nat.lt_of_not_ge h]
  | false =>
    by_cases h : 3 * mib < n
    · simp [h]
    · simp [h]

theorem State.allotment_eq {s : State} {n : Nat} {p : Port} (hp : Tab.get? s.hfu.ports n = some p) (f : Nat → Nat) :
    s.allotment n f = { s with
      hfu := { s.hfu with ports := Tab.set s.hfu.ports n { p with allot := f p.allot, xoff := p.xoffAt (f p.allot) } }
      out := if p.xoff = p.xoffAt (f p.allot) then s.out else .flow n (if p.xoffAt (f p.allot) then .xoff else .xon) :: s.out } := by
  rw [State.allotment, hp]
  dsimp only
  rw [Port.setAllot_eq]
  by_cases h : p.xoff = p.xoffAt (f p.allot)
  · rw [if_pos h, if_pos h]
  · rw [if_neg h, if_neg h]
    rfl

/-! ## Frames -/

/-- The corrected codewords of a frame are counted on its port (R56). -/
theorem State.countFec_counts {s : State} {n : Nat} {p : Port} (w : Nat) (hp : Tab.get? s.hfu.ports n = some p) :
    (s.countFec n w).hfu.regs.fld (.hfuErrcnt n) 31 16 = min 65535 (s.hfu.regs.fld (.hfuErrcnt n) 31 16 + (p.fec + w) / 65536)
      ∧ (s.countFec n w).hfu.regs.fld (.hfuErrcnt n) 15 0 = s.hfu.regs.fld (.hfuErrcnt n) 15 0
      ∧ Tab.get? (s.countFec n w).hfu.ports n = some { p with fec := (p.fec + w) % 65536 }
      ∧ s.countFec n w = { s with hfu := { s.hfu with ports := (s.countFec n w).hfu.ports, regs := (s.countFec n w).hfu.regs } } := by
  rw [State.countFec, Hfu.countFec, hp]
  exact ⟨RegFile.satFld_self _ _ _ _ _ (by decide), RegFile.fld_satFld_ne _ _ _ (by decide) (Or.inl (by decide)), Tab.get?_set_self _ _ _, rfl⟩

/-- A frame on a port whose link is up (R46). -/
theorem exec_ethFrameReceive_goes {s : State} {n : Nat} {h : EthHead} {p : Port} (f : EthFrame) (hp : Tab.get? s.hfu.ports n = some p) (heth : p.proto = .eth)
    (hup : p.state = .up) (hdump : s.dumped = false) : exec (.ethFrameReceive n ⟨h, f⟩) s = .next ((s.countFec n h.fec).frame n h f) := by
  have hport : s.portUp n .eth = true := by
    rw [State.portUp, hp]
    simp [heth, hup]
  change execEthFrameReceive n ⟨h, f⟩ s = _
  rw [execEthFrameReceive, hport, hdump, if_pos (by decide)]

/-- Counting codewords does not change what a port takes. -/
theorem State.countFec_reads {s : State} {n : Nat} {p : Port} (w : Nat) (h : EthHead) (hp : Tab.get? s.hfu.ports n = some p) :
    (s.countFec n w).accepts n h = s.accepts n h ∧ (s.countFec n w).pfcPrio n = s.pfcPrio n ∧ ∀ b, (s.countFec n w).roomFor n h b = s.roomFor n h b := by
  obtain ⟨-, -, hport, hframe⟩ := s.countFec_counts w hp
  have hblock : (s.countFec n w).portBlock n = s.portBlock n := by rw [hframe]; rfl
  have hprio : (s.countFec n w).pfcPrio n = s.pfcPrio n := by rw [State.pfcPrio, hblock]; rfl
  refine ⟨by rw [State.accepts, hblock]; rfl, hprio, fun b => ?_⟩
  rw [State.roomFor, State.roomFor, hprio, hport, hp]
  rfl

theorem State.roomFor_lossless {s : State} {n b : Nat} {p : Port} {h : EthHead} (hp : Tab.get? s.hfu.ports n = some p) (hprio : h.prio = s.pfcPrio n) :
    s.roomFor n h b = decide (p.allot + b ≤ 4 * mib) := by
  rw [State.roomFor, if_pos hprio, hp]
  rfl

/-- Data that finds no taker or no room is dropped (R47, log entry 181). -/
theorem State.frame_data_dropped {s : State} {n b : Nat} {p : Port} {h : EthHead} (hp : Tab.get? s.hfu.ports n = some p)
    (hno : s.accepts n h = false ∨ h.prio = s.pfcPrio n ∧ 4 * mib < p.allot + b ∨ h.prio ≠ s.pfcPrio n ∧ h.full = true) :
    (s.countFec n h.fec).frame n h (.data b) = s.countFec n h.fec := by
  obtain ⟨hacc, -, hroom⟩ := s.countFec_reads h.fec h hp
  have hstop : (s.accepts n h && s.roomFor n h b) = false := by
    obtain h | ⟨h1, h2⟩ | ⟨h1, h2⟩ := hno
    · rw [h, Bool.false_and]
    · rw [State.roomFor_lossless hp h1, decide_eq_false (by omega), Bool.and_false]
    · rw [State.roomFor, if_neg h1, h2, Bool.not_true, Bool.and_false]
  rw [State.frame, hacc, hroom, hstop, if_neg Bool.false_ne_true]

/-- Data of the lossless priority enters the allotment (R47). -/
theorem State.frame_data_enters {s : State} {n b : Nat} {p : Port} {h : EthHead} (hp : Tab.get? s.hfu.ports n = some p) (hacc : s.accepts n h = true)
    (hprio : h.prio = s.pfcPrio n) (hroom : p.allot + b ≤ 4 * mib) :
    (s.countFec n h.fec).frame n h (.data b) = (s.countFec n h.fec).allotment n fun a => a + b := by
  obtain ⟨hacc', hprio', hroom'⟩ := s.countFec_reads h.fec h hp
  rw [State.frame, hacc', hacc, hroom', State.roomFor_lossless hp hprio, decide_eq_true hroom, if_pos (by decide), State.heldBytes, hprio', if_pos hprio]

/-- What an allotment change leaves of a port whose codewords were counted. -/
theorem State.allotment_counted {s g : State} {n : Nat} {p : Port} {w : Nat} (hp : Tab.get? s.hfu.ports n = some p) (hg : g = s.countFec n w) (f : Nat → Nat) :
    ∃ q, Tab.get? (g.allotment n f).hfu.ports n = some q ∧ q.allot = f p.allot
      ∧ q.xoff = (if p.xoff then decide (2 * mib ≤ f p.allot) else decide (3 * mib < f p.allot))
      ∧ (g.allotment n f).out = (if p.xoff = q.xoff then s.out else .flow n (if q.xoff then .xoff else .xon) :: s.out)
      ∧ g.allotment n f = { g with hfu := { g.hfu with ports := (g.allotment n f).hfu.ports }, out := (g.allotment n f).out } := by
  obtain ⟨-, -, hport, hframe⟩ := s.countFec_counts w hp
  have hout : g.out = s.out := by rw [hg, hframe]
  rw [← hg] at hport
  rw [State.allotment_eq hport, hout]
  exact ⟨_, Tab.get?_set_self _ _ _, rfl, rfl, rfl, rfl⟩

/-- A command capsule waits on its queue, and a too large one ends its connection (R49, R81). -/
theorem exec_ethFrameReceive_capsule {s g : State} {n c b : Nat} {h : EthHead} {p : Port} {k : Conn} (hp : Tab.get? s.hfu.ports n = some p) (heth : p.proto = .eth)
    (hup : p.state = .up) (hdump : s.dumped = false) (hg : g = s.countFec n h.fec) (hk : s.conn? c = some k) (hport : k.port = n)
    (hacc : s.accepts n h = true) (hroom : s.roomFor n h b = true) :
    (b ≤ 8256 → ∃ t, exec (.ethFrameReceive n ⟨h, .capsule c b⟩) s = .next t ∧ t.conn? c = some { k with retries := 0 }
      ∧ (∀ q, s.qce.sq? k.inst k.qid = some q → t.qce.sq? k.inst k.qid = some { q with capsules := q.capsules ++ [if h.prio = s.pfcPrio n then b else 0] })
      ∧ t.qce.ctxs = s.qce.ctxs ∧ t.qce.insts = s.qce.insts ∧ t.fl = s.fl ∧ t.tas = s.tas)
    ∧ (8256 < b → exec (.ethFrameReceive n ⟨h, .capsule c b⟩) s = .next (g.connLost c)) := by
  obtain ⟨hacc', hprio', hroom'⟩ := s.countFec_reads h.fec h hp
  obtain ⟨-, -, hgport, hframe⟩ := s.countFec_counts h.fec hp
  rw [← hg] at hacc' hprio' hroom' hgport hframe
  have hgk : g.conn? c = some k := by rw [State.conn?, hframe]; exact hk
  have hexec : exec (.ethFrameReceive n ⟨h, .capsule c b⟩) s = .next (g.capsule n h c b) := by
    rw [exec_ethFrameReceive_goes _ hp heth hup hdump, ← hg, State.frame, hacc', hacc, hroom', hroom, if_pos (by decide)]
  rw [State.capsule, hgk] at hexec
  dsimp only at hexec
  rw [if_neg (by simp [hport])] at hexec
  constructor
  · intro hsmall
    obtain ⟨add, hadd⟩ : ∃ f : Sq → Sq, f = fun q => { q with capsules := q.capsules ++ [if h.prio = s.pfcPrio n then b else 0] } := ⟨_, rfl⟩
    obtain ⟨clear, hclear⟩ : ∃ f : Conn → Conn, f = fun k => { k with retries := 0 } := ⟨_, rfl⟩
    rw [if_neg (by rw [capsuleMax]; omega), State.heldBytes, hprio', State.allotment_eq hgport, ← hadd, ← hclear] at hexec
    refine ⟨_, hexec, ?_, fun q hq => ?_, ?_, ?_, ?_, ?_⟩
    · refine (Tab.get?_upd_self (f := clear) hgk).trans ?_
      rw [hclear]
    · have hgq : g.qce.sq? k.inst k.qid = some q := by rw [hframe]; exact hq
      refine (Tab.get?_upd_self (f := add) hgq).trans ?_
      rw [hadd]
    · rw [hframe]; rfl
    · rw [hframe]; rfl
    · rw [hframe]; rfl
    · rw [hframe]; rfl
  · intro hbig
    rw [if_pos (by rw [capsuleMax]; omega)] at hexec
    exact hexec

/-- A frame with a bad FCS is counted, and its fault has a free code (R57, log entry 180). -/
theorem exec_ethFrameReceive_bad {s g : State} {n : Nat} {h : EthHead} {p : Port} (hp : Tab.get? s.hfu.ports n = some p) (heth : p.proto = .eth)
    (hup : p.state = .up) (hdump : s.dumped = false) (hg : g = s.countFec n h.fec) :
    ∃ t, exec (.ethFrameReceive n ⟨h, .bad⟩) s = .next t ∧ t.hfu.regs.fld (.hfuErrcnt n) 15 0 = min 65535 (s.hfu.regs.fld (.hfuErrcnt n) 15 0 + 1)
      ∧ t = { g with hfu := { g.hfu with regs := t.hfu.regs }, fev := t.fev, free := t.free } := by
  obtain ⟨-, hsame, -, -⟩ := s.countFec_counts h.fec hp
  rw [← hg] at hsame
  refine ⟨(g.uncoded 4 n).countUncorr n, ?_, ?_, rfl⟩
  · rw [exec_ethFrameReceive_goes _ hp heth hup hdump, ← hg]
    rfl
  · rw [← hsame]
    exact RegFile.satFld_self _ _ _ _ _ (by decide)

/-- A PFC frame of the lossless priority stops or frees it, one of another priority changes nothing (R46). -/
theorem exec_pfcPauseReceive_pauses {s : State} {n : Nat} {p : Port} (q : Nat) (hp : Tab.get? s.hfu.ports n = some p) (heth : p.proto = .eth) (hup : p.state = .up) :
    (∃ t, exec (.pfcPauseReceive n (s.pfcPrio n) q) s = .next t ∧ Tab.get? t.hfu.ports n = some { p with paused := if q = 0 then [] else [s.pfcPrio n] }
        ∧ t = { s with hfu := { s.hfu with ports := t.hfu.ports } })
      ∧ ∀ r, r ≠ s.pfcPrio n → ∃ t, exec (.pfcPauseReceive n r q) s = .next t ∧ t = s := by
  have hport : s.portUp n .eth = true := by
    rw [State.portUp, hp]
    simp [heth, hup]
  constructor
  · obtain ⟨pause, hpause⟩ : ∃ f : Port → Port, f = fun p => { p with paused := if q = 0 then [] else [s.pfcPrio n] } := ⟨_, rfl⟩
    refine ⟨{ s with hfu := { s.hfu with ports := Tab.upd s.hfu.ports n pause } }, ?_, (Tab.get?_upd_self (f := pause) hp).trans ?_, rfl⟩
    · change execPfcPauseReceive n (s.pfcPrio n) q s = _
      rw [execPfcPauseReceive, hport, if_pos (by simp), hpause]
    · rw [hpause]
  · intro r hr
    refine ⟨s, ?_, rfl⟩
    change execPfcPauseReceive n r q s = _
    rw [execPfcPauseReceive, hport, if_neg (by simpa using hr)]

/-! ## Connections -/

/-- A change of one connection that is there. -/
theorem State.updConn_conn {s : State} {c : Nat} {k : Conn} (f : Conn → Conn) (hk : s.conn? c = some k) : (s.updConn c f).conn? c = some (f k) :=
  Tab.get?_upd_self (f := f) hk

/-- A congestion mark is answered with a CNP, at most one in 50 µs (R52). -/
theorem exec_ecnCeReceive_answers {s : State} {c : Nat} {k : Conn} (hk : s.conn? c = some k) (hrdma : k.rdma = true) :
    ((k.cnpSent = none ∨ (∃ a, k.cnpSent = some a ∧ a + 500 ≤ s.clock.now)) → ∃ t, exec (.ecnCeReceive c) s = .next t ∧ t.conn? c = some { k with cnpSent := some s.clock.now }
      ∧ t = { s with hfu := { s.hfu with conns := t.hfu.conns }, out := .cnp c :: s.out })
    ∧ ∀ a, k.cnpSent = some a → s.clock.now < a + 500 → ∃ t, exec (.ecnCeReceive c) s = .next t ∧ t.conn? c = some k ∧ t.out = s.out := by
  have hexec : exec (.ecnCeReceive c) s = .next (if (k.ce s.clock.now).2 then (s.updConn c fun _ => (k.ce s.clock.now).1).emit (.cnp c)
      else s.updConn c fun _ => (k.ce s.clock.now).1) := by
    change execEcnCeReceive c s = _
    rw [execEcnCeReceive, hk]
    dsimp only
    rw [hrdma, if_pos rfl]
  constructor
  · intro hold
    have hce : k.ce s.clock.now = ({ k with cnpSent := some s.clock.now }, true) := by
      rw [Conn.ce]
      obtain h | ⟨a, h, ha⟩ := hold
      · rw [h]
      · rw [h]
        exact if_pos ha
    rw [hce, if_pos rfl] at hexec
    exact ⟨_, hexec, State.updConn_conn (fun _ => { k with cnpSent := some s.clock.now }) hk, rfl⟩
  · intro a ha hsoon
    have hce : k.ce s.clock.now = (k, false) := by
      rw [Conn.ce, ha]
      exact if_neg (by omega)
    rw [hce, if_neg Bool.false_ne_true] at hexec
    exact ⟨_, hexec, State.updConn_conn (fun _ => k) hk, rfl⟩

/-- A CNP halves the rate (R52). -/
theorem exec_cnpReceive_halves {s : State} {c : Nat} {k : Conn} (hk : s.conn? c = some k) (hrdma : k.rdma = true) :
    ∃ t, exec (.cnpReceive c) s = .next t ∧ t.conn? c = some { k with rate := max 1000 (k.rate / 2), cnpSeen := some s.clock.now }
      ∧ t = { s with hfu := { s.hfu with conns := t.hfu.conns } } := by
  refine ⟨s.updConn c fun k => if k.rdma then k.cnp s.clock.now else k, rfl, (State.updConn_conn (fun k => if k.rdma then k.cnp s.clock.now else k) hk).trans ?_, rfl⟩
  exact congrArg some (if_pos hrdma)

/-- 50 µs without a further notification restore a tenth of the rate (R52). -/
theorem exec_cnpRateRecovery_restores {s : State} {c a : Nat} {k : Conn} {p : Port} (hk : s.conn? c = some k) (ha : k.cnpSeen = some a)
    (hp : Tab.get? s.hfu.ports k.port = some p) :
    ∃ t r, exec (.cnpRateRecovery c) s = .next t ∧ r = min (portRate p.lanes) (k.rate + portRate p.lanes / 10)
      ∧ t.clock.now = max s.clock.now (a + 500) ∧ t.conn? c = some { k with rate := r, cnpSeen := if r = portRate p.lanes then none else some t.clock.now }
      ∧ t = { s with hfu := { s.hfu with conns := t.hfu.conns }, clock := t.clock } := by
  obtain ⟨g, hg⟩ : ∃ g : State, g = s.until' (a + 500) := ⟨_, rfl⟩
  have hnow : g.clock.now = max s.clock.now (a + 500) := by
    rw [hg, State.until'_clock]
    simp only [Clock.pass]
    omega
  obtain ⟨rise, hrise⟩ : ∃ f : Conn → Conn, f = fun k => k.recover g.clock.now (portRate (((Tab.get? s.hfu.ports k.port).map (·.lanes)).getD 2)) := ⟨_, rfl⟩
  have hexec : exec (.cnpRateRecovery c) s = .next (g.updConn c rise) := by
    change execCnpRateRecovery c s = _
    rw [execCnpRateRecovery, hk]
    dsimp only
    rw [ha, hrise, hg]
  have hgk : g.conn? c = some k := by rw [hg]; exact hk
  refine ⟨_, _, hexec, rfl, hnow, (State.updConn_conn rise hgk).trans ?_, ?_⟩
  · rw [hrise]
    dsimp only
    rw [hp, Option.map_some, Option.getD_some, Conn.recover, ha]
    dsimp only
    rw [if_pos (by omega)]
    rfl
  · rw [State.updConn, hg]
    rfl

/-- A request or segment that is not acknowledged (R49). -/
theorem State.resend_there {s : State} {c limit : Nat} {k : Conn} (hk : s.conn? c = some k) :
    (s.pausedPort k.port = false → k.retries < limit → s.resend c k.rdma limit = (s.updConn c fun k => { k with retries := k.retries + 1 }).emit (.resend c))
    ∧ (s.pausedPort k.port = false → limit ≤ k.retries → s.resend c k.rdma limit = s.connLost c) ∧ (s.pausedPort k.port = true → s.resend c k.rdma limit = s) := by
  rw [State.resend, hk]
  dsimp only
  refine ⟨fun hpause hfew => ?_, fun hpause hmany => ?_, fun hpause => ?_⟩
  · rw [hpause, if_neg (by simp), if_neg (by omega)]
  · rw [hpause, if_neg (by simp), if_pos hmany]
  · rw [hpause, if_pos (by simp)]

/-- A transport connection that is lost (R51). -/
theorem State.connLost_there {s : State} {c : Nat} {k : Conn} (hk : s.conn? c = some k) :
    (k.inst < 2048 → s.connLost c = s.endAssociation k.inst)
      ∧ (2048 ≤ k.inst → s.connLost c = { s with hfu := { s.hfu with conns := Tab.erase s.hfu.conns c } }) := by
  rw [State.connLost, hk]
  exact ⟨fun h => if_neg (by omega), fun h => if_pos h⟩

/-- Settles O40: frames, and the connections. -/
theorem transports : Obligations.Transports := by
  refine ⟨fun s g n h p hp heth hup hdump hg => ⟨?_, fun b hacc hprio hroom => ?_, fun b hno => ?_, fun b => ?_, fun c => ?_, fun c b k hk hport hacc hroom => ?_, ?_, fun q => ?_⟩,
    fun s c k hk => ⟨fun hrdma hold => (exec_ecnCeReceive_answers hk hrdma).1 hold, fun a hrdma ha hsoon => (exec_ecnCeReceive_answers hk hrdma).2 a ha hsoon,
      fun hrdma => exec_cnpReceive_halves hk hrdma, fun a p ha hp => exec_cnpRateRecovery_restores hk ha hp, fun i limit hi => ?_, ?_⟩⟩
  · obtain ⟨hcorr, -, hport, hframe⟩ := s.countFec_counts h.fec hp
    rw [← hg] at hcorr hport hframe
    exact ⟨hcorr, hport, hframe⟩
  · obtain ⟨q, hport, hallot, hxoff, hout, hframe⟩ := State.allotment_counted hp hg fun a => a + b
    exact ⟨_, q, by rw [exec_ethFrameReceive_goes _ hp heth hup hdump, State.frame_data_enters hp hacc hprio hroom, ← hg], hport, hallot, hxoff, hout, hframe⟩
  · rw [exec_ethFrameReceive_goes _ hp heth hup hdump, State.frame_data_dropped hp hno, ← hg]
  · obtain ⟨q, hport, hallot, hxoff, -, hframe⟩ := State.allotment_counted hp hg fun a => a - b
    exact ⟨_, q, by rw [exec_ethFrameReceive_goes _ hp heth hup hdump, ← hg]; rfl, hport, hallot, hxoff, hframe⟩
  · rw [exec_ethFrameReceive_goes _ hp heth hup hdump, ← hg]
    rfl
  · exact exec_ethFrameReceive_capsule hp heth hup hdump hg hk hport hacc hroom
  · exact exec_ethFrameReceive_bad hp heth hup hdump hg
  · exact exec_pfcPauseReceive_pauses q hp heth hup
  · have hexec : exec i s = .next (s.resend c k.rdma limit) := by
      obtain ⟨rfl, hrdma, rfl⟩ | ⟨rfl, hrdma, rfl⟩ := hi
      · rw [hrdma]; rfl
      · rw [hrdma]; rfl
    obtain ⟨hagain, hlost, hpaused⟩ := State.resend_there (limit := limit) hk
    exact ⟨fun hfree hfew => ⟨_, hexec.trans (congrArg _ (hagain hfree hfew)), State.updConn_conn (fun k => { k with retries := k.retries + 1 }) hk, rfl⟩,
      fun hfree hmany => hexec.trans (congrArg _ (hlost hfree hmany)), fun hp => hexec.trans (congrArg _ (hpaused hp))⟩
  · exact ⟨s.connLost c, rfl, rfl, (State.connLost_there hk).1, (State.connLost_there hk).2⟩

end Sys2Proof.Machine
end

section
/-! Associations (R50, R51, R75, R142, R143). -/

namespace Sys2Proof.Machine

open Safety

/-! ## Queues and connections that come to be -/

/-- A submission queue that comes to be, and nothing but its note in the registers besides. -/
theorem State.addSq_eq (s : State) (i j size cq prio : Nat) (flow : Bool) :
    ∃ rg y, s.addSq i j size cq prio flow = { s with qce := { s.qce with regs := rg, sqs := Tab.set s.qce.sqs (qKey i j) y } }
      ∧ y.size = size ∧ y.head = 0 ∧ y.tail = 0 ∧ y.cq = cq := by
  rw [State.addSq]
  dsimp only
  obtain ⟨rg, hrg⟩ := Qce.noteEmpty_frame
    { s.qce with sqs := Tab.set s.qce.sqs (qKey i j) (Sq.fresh size cq prio (if j = 0 then s.qce.rsvadm else s.qce.rsvio) (s.lcdef i) flow) }
  rw [hrg]
  exact ⟨rg, _, rfl, rfl, rfl, rfl, rfl⟩

/-! ## Connect -/

/-- A Connect that the port hears and that its block lets in (R49, R413). -/
theorem exec_fabricsConnect_goes {s : State} {n : Nat} {q : ConnectReq} {b : List Byte} {p : Port} (hruns : s.runs = true) (hb : s.portBlock n = some b)
    (hp : Tab.get? s.hfu.ports n = some p) (heth : p.proto = .eth) (hup : p.state = .up)
    (hon : natBits (leNat (slice b 1 1)) (if q.rdma then 2 else 3) (if q.rdma then 2 else 3) = 1) (hheard : q.heard = true) (hroom : s.hfu.conns.length < 18432) :
    exec (.fabricsConnect n q) s = .next (
      if q.discovery then s.connectDiscovery n q (portRate p.lanes)
      else if q.qid = 0 then s.connectAdmin n q b (portRate p.lanes)
      else s.connectIo n q (portRate p.lanes)) := by
  have hport : s.portUp n .eth = true := by
    rw [State.portUp, hp]
    simp [heth, hup]
  change execFabricsConnect n q s = _
  rw [execFabricsConnect, State.whenRuns_on hruns, hb]
  dsimp only
  rw [hport, hon, if_pos (by decide), hheard, decide_eq_false (by rw [connLimit]; omega), if_neg (by decide), hp]
  rfl

/-- A Connect that no one hears, or that comes before device ready, changes nothing (R49, R413, R470). -/
theorem exec_fabricsConnect_unheard {s : State} {n : Nat} {q : ConnectReq}
    (h : s.runs = false ∨ s.portBlock n = none ∨ q.heard = false ∨ 18432 ≤ s.hfu.conns.length) : exec (.fabricsConnect n q) s = .next s := by
  change execFabricsConnect n q s = _
  rw [execFabricsConnect, State.whenRuns]
  by_cases hruns : s.runs = true
  · rw [if_pos hruns]
    cases hb : s.portBlock n with
    | none => rfl
    | some b =>
      have hdeaf : (!q.heard || decide (connLimit ≤ s.hfu.conns.length)) = true := by
        obtain h | h | h | h := h
        · rw [h] at hruns; exact absurd hruns (by decide)
        · rw [h] at hb; exact absurd hb (by simp)
        · simp [h]
        · simp [connLimit, h]
      dsimp only
      rw [hdeaf, if_pos rfl, ite_self]
  · rw [if_neg hruns]

/-- A port's discovery controller takes no instance (R50). -/
theorem State.connectDiscovery_admin {s : State} {n rate : Nat} {q : ConnectReq} (hq : q.qid = 0) :
    ∃ t, s.connectDiscovery n q rate = t ∧ t.out = .connect n (2048 + n) 0 none :: s.out
      ∧ (∃ c k, t.conn? c = some k ∧ k.inst = 2048 + n ∧ k.port = n ∧ k.qid = 0) ∧ t = { s with hfu := { s.hfu with conns := t.hfu.conns }, out := t.out } := by
  rw [State.connectDiscovery, if_neg (by simp [hq])]
  exact ⟨_, rfl, rfl, ⟨_, q.conn n (discInst n) 0 rate, Tab.get?_set_self _ _ _, rfl, rfl, rfl⟩, rfl⟩

/-- A Connect to an admin queue whose parameters are good (R50, R142). -/
theorem State.connectAdmin_good {s : State} {n rate : Nat} {q : ConnectReq} {b : List Byte} (h1 : 1 ≤ q.sqsize) (h2 : q.sqsize ≤ 4095)
    (hkato : q.kato = 0 ∨ 1000 ≤ q.kato ∧ q.kato ≤ 3600000) :
    (∀ j, ((List.range (s.hfu.range n).2).find? fun j => (s.qce.inst? ((s.hfu.range n).1 + j)).isNone) = some j →
      ∃ t x, s.connectAdmin n q b rate = t ∧ t.qce.inst? ((s.hfu.range n).1 + j) = some x ∧ x.port = n ∧ x.eth = true ∧ x.pf = false
        ∧ x.state = .disabled ∧ x.hostId = q.hostId ∧ x.kato = q.kato ∧ x.allot = min (s.qce.qpdef n) (s.qce.pool n - s.qce.allotted n)
        ∧ (∃ y, t.qce.sq? ((s.hfu.range n).1 + j) 0 = some y ∧ y.size = q.sqsize + 1 ∧ y.head = 0 ∧ y.tail = 0) ∧ t.mgc.quiesced = false
        ∧ t.out = .connect n ((s.hfu.range n).1 + j) 0 none :: s.out ∧ t.fl = s.fl)
    ∧ (((List.range (s.hfu.range n).2).find? fun j => (s.qce.inst? ((s.hfu.range n).1 + j)).isNone) = none →
      s.connectAdmin n q b rate = { s with out := .connect n 0 0 (some .connectHost) :: s.out }) := by
  rw [State.connectAdmin]
  dsimp only
  rw [if_neg (by omega)]
  constructor
  · intro j hj
    rw [hj]
    dsimp only
    obtain ⟨x, hx⟩ : ∃ x, x = ({ Inst.fresh n false true .disabled (min (s.qce.qpdef n) (s.qce.pool n - s.qce.allotted n)) s.clock.now with
      hostId := q.hostId, kato := q.kato } : Inst) := ⟨_, rfl⟩
    rw [← hx]
    obtain ⟨g, hg⟩ : ∃ g, g = s.addInst ((s.hfu.range n).1 + j) x (shareOfBlock b) := ⟨_, rfl⟩
    rw [← hg]
    obtain ⟨rg, y, hadd, hsize, hhead, htail, -⟩ := g.addSq_eq ((s.hfu.range n).1 + j) 0 (q.sqsize + 1) 0 0 (!q.noFlow)
    rw [hadd]
    subst hg hx
    exact ⟨_, _, rfl, Tab.get?_set_self _ _ _, rfl, rfl, rfl, rfl, rfl, rfl, rfl, ⟨y, Tab.get?_set_self _ _ _, hsize, hhead, htail⟩, rfl, rfl, rfl⟩
  · intro hnone
    rw [hnone]
    rfl

/-- A Connect to an I/O queue of a ready instance (R75). -/
theorem State.connectIo_ready {s : State} {n rate : Nat} {q : ConnectReq} {x : Inst} (hx : s.qce.inst? q.cntlid = some x) (hport : x.port = n)
    (heth : x.eth = true) (hst : x.state = .ready) (hrdy : x.rdy = true) (hqid : q.qid ≤ x.allot) (hfree : s.qce.sq? q.cntlid q.qid = none)
    (h1 : 1 ≤ q.sqsize) (h2 : q.sqsize ≤ 4095) :
    (x.hostId = q.hostId → ∃ t, s.connectIo n q rate = t ∧ (∃ y, t.qce.sq? q.cntlid q.qid = some y ∧ y.size = q.sqsize + 1 ∧ y.cq = q.qid)
        ∧ t.qce.cq? q.cntlid q.qid = some ⟨0, 0, 0, true, none⟩ ∧ t.out = .connect n q.cntlid q.qid none :: s.out
        ∧ t = { s with qce := t.qce, hfu := { s.hfu with conns := t.hfu.conns }, out := t.out })
    ∧ (x.hostId ≠ q.hostId → s.connectIo n q rate = { s with out := .connect n q.cntlid q.qid (some .connectHost) :: s.out }) := by
  rw [State.connectIo, hx]
  dsimp only
  rw [if_neg (by simp [hport, heth, hst, hrdy, hqid, hfree]; omega)]
  constructor
  · intro hhost
    obtain ⟨rg, y, hadd, hsize, -, -, hcq⟩ := s.addSq_eq q.cntlid q.qid (q.sqsize + 1) q.qid 0 (!q.noFlow)
    rw [if_neg (by simpa using hhost), hadd]
    exact ⟨_, rfl, ⟨y, Tab.get?_set_self _ _ _, hsize, hcq⟩, Tab.get?_set_self _ _ _, rfl, rfl⟩
  · intro hhost
    rw [if_pos hhost]
    rfl

/-! ## The end of an association -/

/-- An association's connections are gone. -/
def State.withoutConns (s : State) (i : Nat) : State := { s with hfu := { s.hfu with conns := Tab.keep s.hfu.conns fun _ c => c.inst != i } }

theorem State.withoutConns_gone (s : State) (i : Nat) : ∀ e ∈ (s.withoutConns i).hfu.conns, e.2.inst ≠ i := fun e he => by
  simpa using (List.mem_filter.1 he).2

theorem State.endAssociation_eth {s : State} {i : Nat} {x : Inst} (hx : s.qce.inst? i = some x) (heth : x.eth = true) :
    s.endAssociation i = (s.withoutConns i).resetInst i .unused := by
  rw [State.endAssociation, hx]
  dsimp only
  rw [heth, if_pos rfl]
  rfl

/-- A Disconnect ends the association of an instance (R51). -/
theorem exec_fabricsDisconnect_ends {s : State} {i : Nat} {x : Inst} (hx : s.qce.inst? i = some x) (hsafe : s.fev.safe = false) (hdump : s.dumped = false)
    (heth : x.eth = true) (hi : i < 2048) :
    (x.state = .disabled → ∃ t, exec (.fabricsDisconnect i) s = .next t ∧ t.qce.inst? i = none ∧ (∀ e ∈ t.hfu.conns, e.2.inst ≠ i) ∧ Tab.get? t.tas.insts i = none ∧ t.fl = s.fl)
    ∧ (x.state = .ready → s.qce.ctxs = [] → s.mgc.postHold ≤ s.clock.now → s.sec.sanitize = none → ∃ t y, exec (.fabricsDisconnect i) s = .next t
      ∧ t.qce.inst? i = some y ∧ y.state = .resetting ∧ y.resetTo = .unused ∧ (∀ e ∈ t.hfu.conns, e.2.inst ≠ i) ∧ t.fl = s.fl) := by
  have hexec : exec (.fabricsDisconnect i) s = .next ((s.withoutConns i).resetInst i .unused) := by
    change execFabricsDisconnect i s = _
    rw [execFabricsDisconnect, State.dropAssociation, if_neg (by omega), State.endAssociation_eth hx heth]
  constructor
  · intro hst
    have hreset := (State.resetInst_there (s := s.withoutConns i) .unused hsafe hdump hx).2.1 hst rfl
    refine ⟨_, hexec.trans (congrArg _ hreset), (Tab.get?_erase _ _ _).trans (if_pos rfl), fun e he => ?_, (Tab.get?_erase _ _ _).trans (if_pos rfl), rfl⟩
    exact s.withoutConns_gone i e (List.mem_filter.1 he).1
  · intro hst h0 hpost hsan
    obtain ⟨tas, dl, hreset⟩ := State.resetInst_ready (s := s.withoutConns i) .unused hsafe hdump hx hst h0 hpost hsan
    exact ⟨_, x.resetting .unused s.clock.now, hexec.trans (congrArg _ hreset), Qce.updInst_inst (fun j : Inst => j.resetting .unused s.clock.now) hx, rfl, rfl,
      s.withoutConns_gone i, rfl⟩

/-- A keep-alive timeout ends the association at the next multiple of 100 ms; without one nothing does (R51). -/
theorem exec_keepAliveTimeout_ends {s : State} {i : Nat} {x : Inst} (hx : s.qce.inst? i = some x) (hsafe : s.fev.safe = false) (hdump : s.dumped = false)
    (heth : x.eth = true) :
    (x.kato ≠ 0 → s.mgc.postHold = 0 → exec (.keepAliveTimeout i) s = .next ((s.until' (ceilDiv (x.kaAt + x.kato * msT) (100 * msT) * (100 * msT))).endAssociation i))
    ∧ (x.kato = 0 → exec (.keepAliveTimeout i) s = .next s) := by
  constructor
  · intro hkato hpost
    change execKeepAliveTimeout i s = _
    rw [execKeepAliveTimeout, hx]
    dsimp only
    rw [if_neg (by simp [heth, hkato, hsafe, hdump]), if_neg (by simp [hpost]), Nat.add_zero]
  · intro hkato
    change execKeepAliveTimeout i s = _
    rw [execKeepAliveTimeout, hx]
    dsimp only
    rw [if_pos (by simp [hkato])]

/-- Settles O41: Connect, Disconnect and the keep-alive timeout. -/
theorem associations : Obligations.Associations := by
  refine ⟨fun s n q b p hruns hb hp heth hup hon hheard hroom => ?_, fun s n q h => ⟨s, exec_fabricsConnect_unheard h, rfl⟩,
    fun s i x hx hsafe hdump heth hi => ?_, fun s i hi => ⟨s.withoutConns i, ?_, s.withoutConns_gone i, rfl⟩⟩
  · have hexec := exec_fabricsConnect_goes hruns hb hp heth hup hon hheard hroom
    refine ⟨fun hdisc hq => ?_, fun j hdisc hq h1 h2 hkato hj => ?_, fun hdisc hq h1 h2 hkato hnone => ?_,
      fun x hdisc hq hx hport heth hst hrdy hqid hfree h1 h2 => ⟨fun hhost => ?_, fun hhost => ?_⟩⟩
    · obtain ⟨t, ht, hrest⟩ := State.connectDiscovery_admin (s := s) (n := n) (rate := portRate p.lanes) hq
      rw [hdisc, if_pos rfl, ht] at hexec
      exact ⟨t, hexec, hrest⟩
    · obtain ⟨t, x, ht, hrest⟩ := (State.connectAdmin_good (s := s) (n := n) (rate := portRate p.lanes) (b := b) h1 h2 hkato).1 j hj
      rw [hdisc, if_neg Bool.false_ne_true, if_pos hq, ht] at hexec
      exact ⟨t, x, hexec, by simpa using List.find?_some hj, hrest⟩
    · rw [hdisc, if_neg Bool.false_ne_true, if_pos hq, (State.connectAdmin_good h1 h2 hkato).2 hnone] at hexec
      exact ⟨_, hexec, rfl⟩
    · obtain ⟨t, ht, hrest⟩ := (State.connectIo_ready (rate := portRate p.lanes) hx hport heth hst hrdy hqid hfree h1 h2).1 hhost
      rw [hdisc, if_neg Bool.false_ne_true, if_neg hq, ht] at hexec
      exact ⟨t, hexec, hrest⟩
    · rw [hdisc, if_neg Bool.false_ne_true, if_neg hq, (State.connectIo_ready hx hport heth hst hrdy hqid hfree h1 h2).2 hhost] at hexec
      exact ⟨_, hexec, rfl⟩
  · obtain ⟨hdis, hready⟩ := exec_fabricsDisconnect_ends hx hsafe hdump heth hi
    obtain ⟨hend, hnone⟩ := exec_keepAliveTimeout_ends hx hsafe hdump heth
    exact ⟨hdis, hready, fun hkato hpost => ⟨_, hend hkato hpost, rfl⟩, fun hkato => ⟨s, hnone hkato, rfl⟩⟩
  · change execFabricsDisconnect i s = _
    rw [execFabricsDisconnect, State.dropAssociation, if_pos hi]
    rfl

end Sys2Proof.Machine
end

section
/-! Property Get and Property Set of an Ethernet instance (R496). -/

namespace Sys2Proof.Machine

open Safety

/-- The offset names one of CAP, VS, CC and CSTS, or nothing (R496). -/
theorem exec_fabricsPropertyGet_answers {s : State} {i : Nat} {x : Inst} (o : Nat) (hx : s.qce.inst? i = some x) (heth : x.eth = true) :
    exec (.fabricsPropertyGet i o) s = .next { s with
      out := .property i (if o = 0 then x.cap else if o = 0x08 then 0x00020100 else if o = 0x14 then x.cc else if o = 0x1C then x.csts else 0)
        (if o = 0 ∨ o = 0x08 ∨ o = 0x14 ∨ o = 0x1C then none else some .invalidField) :: s.out } := by
  change execFabricsPropertyGet i o s = _
  rw [execFabricsPropertyGet, hx]
  dsimp only
  rw [heth, if_neg (by decide)]
  split
  case h_5 h0 h8 h14 h1c =>
    rw [if_neg h0, if_neg h8, if_neg h14, if_neg h1c, if_neg (by simp only [not_or]; exact ⟨h0, h8, h14, h1c⟩)]
    rfl
  all_goals rfl

/-- A write of anything but CC changes nothing (R496). -/
theorem exec_fabricsPropertySet_other {s : State} {i o : Nat} {x : Inst} (v : Nat) (hx : s.qce.inst? i = some x) (heth : x.eth = true) (ho : o ≠ 0x14) :
    exec (.fabricsPropertySet i o v) s = .next { s with out := .property i 0 (if o = 0 ∨ o = 0x08 ∨ o = 0x1C then none else some .invalidField) :: s.out } := by
  change execFabricsPropertySet i o v s = _
  rw [execFabricsPropertySet, hx]
  dsimp only
  rw [heth, if_neg (by decide), if_neg ho]
  by_cases hro : o = 0 ∨ o = 8 ∨ o = 0x1C
  · rw [if_pos hro, if_pos hro]
    rfl
  · rw [if_neg hro, if_neg hro]
    rfl

theorem exec_fabricsPropertySet_cc {s : State} {i : Nat} {x : Inst} (v : Nat) (hx : s.qce.inst? i = some x) (heth : x.eth = true) :
    exec (.fabricsPropertySet i 0x14 v) s = .next ((s.writeCc i x v).emit (.property i 0 none)) := by
  change execFabricsPropertySet i 0x14 v s = _
  rw [execFabricsPropertySet, hx]
  dsimp only
  rw [heth, if_neg (by decide), if_pos rfl]

/-- CC that sets EN of a disabled Ethernet instance makes it ready (R143). -/
theorem State.writeCc_enables {s : State} {i v : Nat} {x : Inst} (hx : s.qce.inst? i = some x) (heth : x.eth = true) (hsafe : s.fev.safe = false)
    (hen : natBits v 0 0 = 1) (hwas : natBits x.cc 0 0 = 0) (hst : x.state = .disabled) (hup : s.up = true) :
    ∃ y, (s.writeCc i x v).qce.inst? i = some y ∧ y.state = .ready ∧ y.cc = v ∧ y.rdy = s.mayReady := by
  rw [State.writeCc, hsafe, if_neg Bool.false_ne_true, if_pos ⟨hen, hwas⟩, State.enable, if_neg (by simp [hst, hup, hen]), heth, if_neg (by simp), if_pos rfl]
  exact ⟨x.enabled v x.aqa x.asq x.acq s.mayReady s.clock.now,
    Qce.updInst_inst (fun j : Inst => j.enabled v x.aqa x.asq x.acq s.mayReady s.clock.now) hx, rfl, rfl, rfl⟩

/-- CC that leaves EN as it is and notifies no shutdown is only stored (R105). -/
theorem State.writeCc_stores {s : State} {i v : Nat} {x : Inst}
    (h : s.fev.safe = true ∨ natBits v 0 0 = natBits x.cc 0 0 ∧ natBits v 15 14 ≠ 1 ∧ natBits v 15 14 ≠ 2) : s.writeCc i x v = s.storeCc i v := by
  rw [State.writeCc]
  obtain hsafe | ⟨hen, h1, h2⟩ := h
  · rw [hsafe, if_pos rfl]
  · rw [if_neg (c := natBits v 0 0 = 1 ∧ natBits x.cc 0 0 = 0) (by omega), if_neg (c := natBits v 0 0 = 0 ∧ natBits x.cc 0 0 = 1) (by omega),
      if_neg (c := (s.runs && (natBits v 15 14 == 1 || natBits v 15 14 == 2)) = true) (by simp [h1, h2]), ite_self]

/-- Settles O42: Get, a Set of another property, and a Set of CC. -/
theorem fabricsProperties : Obligations.FabricsProperties := by
  refine fun s i o v x hx heth => ⟨⟨_, exec_fabricsPropertyGet_answers o hx heth, rfl⟩, fun ho => ⟨_, exec_fabricsPropertySet_other v hx heth ho, rfl⟩, fun ho => ?_⟩
  have hstore : (s.storeCc i v).qce.inst? i = some { x with cc := v } := Qce.updInst_inst (fun j : Inst => { j with cc := v }) hx
  refine ⟨_, by rw [ho]; exact exec_fabricsPropertySet_cc v hx heth, rfl, fun hsafe => ?_, fun hsafe hen hwas hst hup => ?_, fun hsafe hen h1 h2 => ?_⟩
  · rw [State.writeCc_stores (Or.inl hsafe)]
    exact hstore
  · exact State.writeCc_enables hx heth hsafe hen hwas hst hup
  · rw [State.writeCc_stores (Or.inr ⟨hen, h1, h2⟩)]
    exact ⟨hstore, rfl⟩

end Sys2Proof.Machine
end

section
/-! An epoch boundary (R147, R151, R155, R277). -/

namespace Sys2Proof.Machine

open Safety

/-! ## Tables mapped entry by entry -/

theorem Tab.get?_mapKeyed {α β : Type} (t : Tab α) (f : Nat × α → β) (k : Nat) :
    Tab.get? (t.map fun e => (e.1, f e)) k = (Tab.get? t k).map fun a => f (k, a) := by
  induction t with
  | nil => rfl
  | cons e t ih =>
    rw [List.map_cons, Tab.get?_cons, Tab.get?_cons, ih]
    by_cases h : e.1 = k
    · rw [if_pos h, if_pos h, Option.map_some, ← h]
    · rw [if_neg h, if_neg h]

/-! ## One instance -/

/-- What a boundary leaves of an instance's share and buckets (R147, R155). -/
def TasInst.refilled (x y : TasInst) : Prop :=
  y.cur = x.staged.getD x.cur ∧ y.staged = none ∧ y.vtag = x.vtag + (x.rclwu : Rat) / y.cur.weight ∧ y.rclwu = 0 ∧ y.rclbytes = 0 ∧ y.charged = 0
    ∧ (x.staged = none → x.cur.iopslim ≠ 0 → y.cmdtok = min (x.cmdtok + ((x.cur.iopslim * 1024 : Nat) : Int)) ((x.cur.iopslim * 1024 * x.cur.burst : Nat) : Int))
    ∧ (x.staged = none → x.cur.bwlim ≠ 0 → x.cur.rclbkt = false → y.bytetok = min (x.bytetok + ((x.cur.bwlim * 100 : Nat) : Int)) ((x.cur.bwlim * 100 * x.cur.burst : Nat) : Int))
    ∧ (x.staged = none → x.cur.bwlim ≠ 0 → x.cur.rclbkt = true → y.bytetok = max (min (x.bytetok + ((x.cur.bwlim * 100 : Nat) : Int)) ((x.cur.bwlim * 100 * x.cur.burst : Nat) : Int)
        - (x.rclbytes : Int)) (-((x.cur.bwlim * 100 * x.cur.burst : Nat) : Int)))

theorem TasInst.boundary_refills (x : TasInst) : x.refilled x.boundary := by
  rw [TasInst.boundary]
  cases hst : x.staged with
  | none =>
    refine ⟨by rw [hst]; rfl, hst, rfl, rfl, rfl, rfl, fun _ hlim => ?_, fun _ hlim hbkt => ?_, fun _ hlim hbkt => ?_⟩
    · exact if_neg hlim
    · dsimp only
      rw [if_neg (by simp [hbkt]), if_neg hlim]
      rfl
    · dsimp only
      rw [if_pos ⟨hlim, hbkt⟩, if_neg hlim]
      rfl
  | some sh =>
    refine ⟨by rw [hst]; rfl, rfl, rfl, rfl, rfl, rfl, fun h => ?_, fun h => ?_, fun h => ?_⟩
    all_goals rw [hst] at h; exact absurd h (by simp)

theorem TasInst.bump_if (c : Prop) [Decidable c] (u : TasInst) (k n : Nat) :
    (if c then u.bump k n else u) = { u with stats := if c then (u.bump k n).stats else u.stats } := by split <;> rfl

/-! ## All instances -/

/-- Judging the ending epoch changes what it counts, not the shares and buckets. -/
theorem Tas.judge_inst {a : Tas} {i : Nat} {x : TasInst} (waits : Nat → Bool) (w : Nat) (hx : Tab.get? a.insts i = some x) :
    ∃ within stats, Tab.get? (a.judge waits w) i = some { x with within := within, stats := stats } := by
  rw [Tas.judge]
  dsimp only
  rw [Tab.get?_mapKeyed, hx, Option.map_some]
  dsimp only
  rw [TasInst.bump_if, TasInst.bump_if, TasInst.bump_if, TasInst.bump_if]
  exact ⟨_, _, rfl⟩

/-- The boundary of every instance (R147). -/
theorem Tas.boundary_inst {a : Tas} {i : Nat} {x : TasInst} (waits : Nat → Bool) (caps : Option (Nat × Nat)) (hx : Tab.get? a.insts i = some x) :
    ∃ y, Tab.get? (a.boundary waits caps).insts i = some y ∧ x.refilled y := by
  have hjudged : ∃ within stats, Tab.get? (if a.epoch = 0 then a.insts else a.judge waits a.wcost) i = some { x with within := within, stats := stats } := by
    split
    · exact ⟨x.within, x.stats, hx⟩
    · exact Tas.judge_inst waits a.wcost hx
  obtain ⟨within, stats, hj⟩ := hjudged
  refine ⟨({ x with within := within, stats := stats } : TasInst).boundary, ?_, TasInst.boundary_refills { x with within := within, stats := stats }⟩
  exact (Tab.get?_mapKeyed _ (fun e : Nat × TasInst => e.2.boundary) i).trans (by rw [hj]; rfl)

/-- What is counted of an epoch, and who stands in it, touches no share and no bucket. -/
theorem Tas.counted_inst {a : Tas} {i : Nat} {x y : TasInst} (ended : Bool) (inside : List Nat) (hy : Tab.get? a.insts i = some y) (hxy : x.refilled y) :
    ∃ z, Tab.get? ((if ended then a.countEpoch else a).markActive inside).insts i = some z ∧ x.refilled z := by
  have hcount : ∃ hist, Tab.get? (if ended then a.countEpoch else a).insts i = some { y with hist := hist } := by
    split
    · rw [Tas.countEpoch, Tab.get?_mapVals, hy]
      exact ⟨_, rfl⟩
    · exact ⟨y.hist, hy⟩
  obtain ⟨hist, hc⟩ := hcount
  rw [Tas.markActive, Tab.get?_mapVals, hc]
  exact ⟨_, rfl, hxy⟩

/-- Judging who is shut changes only that. -/
theorem Qce.judgeShuts_frame (is : List Nat) (q : Qce) (tas : Tas) (now : Nat) :
    ∃ shut, is.foldl (fun (q : Qce) i => q.judgeShut tas now i) q = { q with shut := shut } := by
  induction is generalizing q with
  | nil => exact ⟨q.shut, rfl⟩
  | cons i is ih =>
    obtain ⟨shut, h⟩ := ih (q.judgeShut tas now i)
    exact ⟨shut, h.trans (by rw [Qce.judgeShut_frame])⟩

/-- A queue's class after its instance's share has changed (R151). -/
theorem Qce.reclass_sq {q : Qce} {k : Nat} {e : Sq} (tas : Tas) (he : Tab.get? q.sqs k = some e) :
    ∃ r, Tab.get? (q.reclass tas).sqs k = some r
      ∧ (∀ y, Tab.get? tas.insts (k / 512) = some y → r = if y.cur.lcmask.testBit e.lc = true then e else { e with lc := y.cur.lcdef })
      ∧ (Tab.get? tas.insts (k / 512) = none → r = e) := by
  obtain ⟨f, hf⟩ : ∃ f : Nat × Sq → Sq, f = fun e => match Tab.get? tas.insts (e.1 / 512) with
      | some t => if t.cur.lcmask.testBit e.2.lc then e.2 else { e.2 with lc := t.cur.lcdef }
      | none => e.2 := ⟨_, rfl⟩
  have hsqs : (q.reclass tas).sqs = q.sqs.map fun e => (e.1, f e) := by
    rw [Qce.reclass, hf]
    dsimp only
    congr 1
    funext e
    cases Tab.get? tas.insts (e.1 / 512) <;> rfl
  rw [hsqs, Tab.get?_mapKeyed, he]
  refine ⟨_, rfl, fun y hy => ?_, fun hnone => ?_⟩
  · rw [hf]
    dsimp only
    rw [hy]
  · rw [hf]
    dsimp only
    rw [hnone]

/-- The epoch boundary's own state change. -/
theorem State.epochBoundary_frame (s : State) : ∃ shut, s.epochBoundary = { s with
    tas := s.epochBoundary.tas
    qce := { (s.qce.epochJudged s.epochBoundary.tas s.tas.epoch).reclass s.epochBoundary.tas with shut := shut }
    fl := s.fl.refillMirage, hist := s.epochBoundary.hist } := by
  obtain ⟨shut, h⟩ := Qce.judgeShuts_frame (Tab.keysWhere s.epochBoundary.tas.insts fun _ _ => true)
    ((s.qce.epochJudged s.epochBoundary.tas s.tas.epoch).reclass s.epochBoundary.tas) s.epochBoundary.tas s.clock.now
  exact ⟨shut, by rw [← h]; rfl⟩

theorem State.epochBoundary_tas (s : State) : ∃ waits caps inside, s.epochBoundary.tas
    = (if s.tas.epoch != 0 then (s.tas.boundary waits caps).countEpoch else s.tas.boundary waits caps).markActive inside := ⟨_, _, _, rfl⟩

theorem State.epochBoundary_epoch (s : State) : s.epochBoundary.tas.epoch = s.tas.epoch + 1 := by
  obtain ⟨waits, caps, inside, htas⟩ := s.epochBoundary_tas
  rw [htas, Tas.markActive]
  dsimp only
  split <;> rfl

/-- Settles O43: by what a boundary does to an instance, to a queue and to the Mirage bucket. -/
theorem epochBoundary : Obligations.EpochBoundary := by
  intro s hruns
  obtain ⟨u, hu⟩ : ∃ u : State, u = s.until' (s.mgc.readyAt + s.tas.epoch * 1000) := ⟨_, rfl⟩
  have hexec : exec .tasEpochBoundary s = .next u.epochBoundary := by
    change execTasEpochBoundary s = _
    rw [execTasEpochBoundary, State.whenRuns_on hruns, hu]
  obtain ⟨shut, hframe⟩ := u.epochBoundary_frame
  have hnow : u.clock.now = max s.clock.now (s.mgc.readyAt + s.tas.epoch * 1000) := by
    rw [hu, State.until'_clock]
    simp only [Clock.pass]
    omega
  refine ⟨_, hexec, hnow, ?_, fun i x hx => ?_, fun k q hq => ?_, ?_, ?_⟩
  · rw [u.epochBoundary_epoch, hu, State.until'_tas]
  · obtain ⟨waits, caps, inside, htas⟩ := u.epochBoundary_tas
    have hux : Tab.get? u.tas.insts i = some x := by rw [hu]; exact hx
    obtain ⟨y, hy, hxy⟩ := Tas.boundary_inst waits caps hux
    rw [htas]
    exact Tas.counted_inst _ inside hy hxy
  · have huq : Tab.get? (u.qce.epochJudged u.epochBoundary.tas u.tas.epoch).sqs k = some q := by rw [hu]; exact hq
    have hsqs : u.epochBoundary.qce.sqs = ((u.qce.epochJudged u.epochBoundary.tas u.tas.epoch).reclass u.epochBoundary.tas).sqs := by rw [hframe]
    rw [hsqs]
    exact Qce.reclass_sq u.epochBoundary.tas huq
  · rw [hframe, hu]
    rfl
  · rw [hframe, hu]
    rfl

end Sys2Proof.Machine
end

section
/-! Register writes (R12, R485 to R488): what each page's own write does, the refusals that MGC_CSRERR tells, and O44. -/

namespace Sys2Proof.Machine

/-- A refused access sets MGC_CSRERR's reason and address, and no other register. -/
theorem State.csrErr_tells (s : State) (reason : Nat) (r : Requester) (addr : Nat) (hr : reason < 8) :
    ((s.csrErr reason r addr).reg .mgcCsrerr).bits 31 31 = 1 ∧ ((s.csrErr reason r addr).reg .mgcCsrerr).bits 30 28 = reason
      ∧ ((s.csrErr reason r addr).reg .mgcCsrerr).bits 21 0 = (addr - 0x40000000) / 8 % 2 ^ 22
      ∧ (∀ q : Reg, q ≠ .mgcCsrerr → (s.csrErr reason r addr).reg q = s.reg q)
      ∧ s.csrErr reason r addr = { s with mgc := (s.csrErr reason r addr).mgc } := by
  have hne (q : Reg) (hq : q ≠ .mgcCsrerr) : (s.csrErr reason r addr).reg q = s.reg q := by
    rw [State.csrErr, State.setReg_reg, if_neg hq]
  refine ⟨?_, ?_, ?_, hne, rfl⟩ <;> rw [State.csrErr, State.setReg_reg, if_pos rfl]
  · rw [W32.bits_setBits_ne _ _ _ _ _ _ (by decide) (by decide), W32.bits_setBits_ne _ _ _ _ _ _ (by decide) (by decide),
      W32.bits_setBits_ne _ _ _ _ _ _ (by decide) (by decide), W32.bits_setBits_self _ _ _ _ (by decide)]
    rfl
  · rw [W32.bits_setBits_ne _ _ _ _ _ _ (by decide) (by decide), W32.bits_setBits_ne _ _ _ _ _ _ (by decide) (by decide),
      W32.bits_setBits_self _ _ _ _ (by decide)]
    exact Nat.mod_eq_of_lt hr
  · rw [W32.bits_setBits_self _ _ _ _ (by decide)]

/-- A requester that the CSR fabric serves is not the sideband. -/
theorem State.serves_ne_sideband {s : State} {r : Requester} (h : s.serves r = true) : r ≠ .sideband := by
  rintro rfl
  simp [State.serves] at h

section
variable {s : State} {r : Requester} {addr width v : Nat} (hs : s.serves r = true) (hlo : 0x40000000 ≤ addr) (hhi : addr < 0x50000000)
  (hw : width ∈ [8, 16, 32, 64])
include hs hlo hhi hw

theorem exec_registerWrite_inRange :
    exec (.registerWrite r addr width v) s = .next (
      if addr % (width / 8) ≠ 0 then s.csrErr 2 r addr
      else if width < 32 then s.csrErr 1 r addr
      else if pageRefused r addr then s.csrErr 3 r addr
      else if 0x40071000 ≤ addr ∧ addr < 0x40072000 then { s with sec := s.sec.writeBuffer (addr - 0x40071000) (width / 8) v }
      else
        match regAt? addr with
        | some reg => s.csrWrite r reg (BitVec.ofNat 32 v) fun g => s.csrEffect r reg (BitVec.ofNat 32 v) g
        | none => s) := by
  change execRegisterWrite r addr width v s = _
  have hcond : (!s.serves r || decide (addr < 0x40000000 ∨ 0x50000000 ≤ addr) || !([8, 16, 32, 64].contains width)) = false := by
    have hcontains : [8, 16, 32, 64].contains width = true := List.elem_eq_true_of_mem hw
    have hrange : ¬ (addr < 0x40000000 ∨ 0x50000000 ≤ addr) := by omega
    rw [hs, hcontains, decide_eq_false hrange]; rfl
  rw [execRegisterWrite, if_neg (State.serves_ne_sideband hs), hcond, if_neg Bool.false_ne_true] <;> rfl

/-- The reason of a refusal: 2 before 1 before 3 (R486). -/
theorem exec_registerWrite_refused {reason : Nat}
    (h : reason = 2 ∧ addr % (width / 8) ≠ 0 ∨ reason = 1 ∧ addr % (width / 8) = 0 ∧ width < 32
      ∨ reason = 3 ∧ addr % (width / 8) = 0 ∧ 32 ≤ width ∧ pageRefused r addr = true) :
    exec (.registerWrite r addr width v) s = .next (s.csrErr reason r addr) := by
  rw [exec_registerWrite_inRange hs hlo hhi hw]
  rcases h with ⟨rfl, h⟩ | ⟨rfl, ha, h⟩ | ⟨rfl, ha, h, hp⟩
  · rw [if_pos h]
  · rw [if_neg (not_not.2 ha), if_pos h]
  · rw [if_neg (not_not.2 ha), if_neg (not_lt.2 h), if_pos hp]

theorem exec_registerWrite_served {reg : Reg} (ha : addr % (width / 8) = 0) (h32 : 32 ≤ width) (hp : pageRefused r addr = false)
    (hb : ¬ (0x40071000 ≤ addr ∧ addr < 0x40072000)) (hreg : regAt? addr = some reg) (hserved : Safety.served s r reg) :
    exec (.registerWrite r addr width v) s = .next (s.csrEffect r reg (BitVec.ofNat 32 v) (s.storeReg reg (BitVec.ofNat 32 v))) := by
  rw [exec_registerWrite_inRange hs hlo hhi hw, if_neg (not_not.2 ha), if_neg (not_lt.2 h32), hp, if_neg Bool.false_ne_true, if_neg hb, hreg]
  exact congrArg _ (served_write hserved _ _)

end

/-- A write to HFU_LEASECFG holds times in their bounds, or changes nothing (R28). -/
theorem exec_hfuLeasecfgWrite {s : State} {r : Requester} (h : Safety.served s r .hfuLeasecfg) (v : W32) :
    ∃ t, exec (.hfuLeasecfgWrite r v) s = .next t
      ∧ t.hfu.regs.get .hfuLeasecfg = (if 100 ≤ v.bits 15 0 ∧ v.bits 15 0 ≤ v.bits 31 16 ∧ v.bits 31 16 ≤ 60000 then v else s.hfu.regs.get .hfuLeasecfg)
      ∧ t = { s with hfu := { s.hfu with regs := t.hfu.regs } } := by
  have hopen : s.hfu.regs.bit .hfuLgcfg 31 = false := h.2.2
  have hexec : exec (.hfuLeasecfgWrite r v) s = .next { s with hfu := s.hfu.writeLeasecfg v } :=
    congrArg _ (served_write h v id)
  refine ⟨_, hexec, ?_, ?_⟩
  · by_cases hok : 100 ≤ v.bits 15 0 ∧ v.bits 15 0 ≤ v.bits 31 16 ∧ v.bits 31 16 ≤ 60000
    · simp [Hfu.writeLeasecfg, hok, hopen]
    · rw [if_neg hok]
      dsimp only
      rw [Hfu.writeLeasecfg, if_neg fun hall => hok ⟨hall.1, hall.2.1, hall.2.2.1⟩]
  · dsimp only [Hfu.writeLeasecfg]
    split <;> rfl

/-- A write to PTM_HUECFG that leaves too little energy for a dump changes nothing (R419). -/
theorem exec_ptmHuecfgWrite {s : State} {r : Requester} (h : Safety.served s r .ptmHuecfg) (v : W32) :
    ∃ t, exec (.ptmHuecfgWrite r v) s = .next t ∧ t = { s with ptm := { s.ptm with regs := t.ptm.regs } }
      ∧ (∀ q : Reg, q ≠ .ptmHuecfg → t.ptm.regs.get q = s.ptm.regs.get q)
      ∧ (t.ptm.regs.get .ptmHuecfg = s.ptm.regs.get .ptmHuecfg
        ∨ edegCovers (((t.ptm.regs.fld .ptmHuecfg 15 8 : Nat) : Rat) / 4) s.fl.ptx.protMax
          ∧ ((t.ptm.regs.fld .ptmHuecfg 15 8 : Nat) : Rat) / 4 + 2 ≤ ((t.ptm.regs.fld .ptmHuecfg 23 16 : Nat) : Rat) / 4) := by
  have hexec : exec (.ptmHuecfgWrite r v) s = .next { s with ptm := s.ptm.writeHuecfg s.fl.ptx.protMax v } :=
    congrArg _ (served_write h v id)
  refine ⟨_, hexec, ?_⟩
  dsimp only [Ptm.writeHuecfg]
  split
  case isTrue hok =>
    refine ⟨rfl, fun q hq => RegFile.get_set_ne _ _ hq, .inr ?_⟩
    rw [RegFile.fld_set_self, RegFile.fld_set_self]
    exact hok
  case isFalse => exact ⟨rfl, fun _ _ => rfl, .inl rfl⟩

/-- LOAD puts the selected instance's share into the data registers (R157). -/
theorem exec_tasShcmdLoad {s : State} {r : Requester} (h : Safety.served s r .tasShcmd) :
    ∃ t, exec (.tasShcmdLoad r) s = .next t ∧ t = { s with tas := t.tas } ∧ t.tas.insts = s.tas.insts ∧ t.tas.stagedUnused = s.tas.stagedUnused
      ∧ (∀ x, Tab.get? s.tas.insts s.tas.sel = some x → t.tas.regs = (x.staged.getD x.cur).toRegs (s.storeReg .tasShcmd 2).tas.regs)
      ∧ (Tab.get? s.tas.insts s.tas.sel = none → t.tas.regs = ((Tab.get? s.tas.stagedUnused s.tas.sel).getD .default').toRegs (s.storeReg .tasShcmd 2).tas.regs) := by
  have hexec : exec (.tasShcmdLoad r) s = .next { s.storeReg .tasShcmd 2 with tas := (s.storeReg .tasShcmd 2).tas.load } :=
    congrArg _ (served_write h 2 _)
  have hsel : (s.storeReg .tasShcmd 2).tas.sel = s.tas.sel := RegFile.fld_set_of_ne _ _ (by decide) _ _
  have hregs : (s.storeReg .tasShcmd 2).tas.load.regs
      = ((s.tas.instOf s.tas.sel).staged.getD (s.tas.instOf s.tas.sel).cur).toRegs (s.storeReg .tasShcmd 2).tas.regs := by
    rw [Tas.load, hsel]
    rfl
  refine ⟨_, hexec, rfl, rfl, rfl, fun x hx => hregs.trans ?_, fun hx => hregs.trans ?_⟩
  · rw [Tas.instOf, hx]
  · rw [Tas.instOf, hx]; rfl

theorem Tas.stageRegs_refused {a : Tas} (h : (Share.ofRegs a.regs).valid = false) :
    a.stageRegs.regs = a.regs.setFld .tasShsel 30 30 1 ∧ a.stageRegs.insts = a.insts ∧ a.stageRegs.stagedUnused = a.stagedUnused := by
  rw [Tas.stageRegs, h]
  exact ⟨rfl, rfl, rfl⟩

theorem Tas.stageRegs_valid {a : Tas} (h : (Share.ofRegs a.regs).valid = true) :
    a.stageRegs.regs = a.regs.setFld .tasShsel 30 30 0 ∧ a.stageRegs.insts = (a.stage a.sel (Share.ofRegs a.regs)).insts
      ∧ a.stageRegs.stagedUnused = (a.stage a.sel (Share.ofRegs a.regs)).stagedUnused := by
  rw [Tas.stageRegs, h]
  exact ⟨rfl, rfl, rfl⟩

/-- STAGE stages a valid share and refuses another with its error bit (R157). -/
theorem exec_tasShcmdStage {s : State} {r : Requester} (h : Safety.served s r .tasShcmd) :
    ∃ t, exec (.tasShcmdStage r) s = .next t ∧ t = { s with tas := t.tas }
      ∧ t.tas.regs.bit .tasShsel 30 = !(Share.ofRegs (s.storeReg .tasShcmd 1).tas.regs).valid
      ∧ ∀ h : Share, h = Share.ofRegs (s.storeReg .tasShcmd 1).tas.regs →
        (h.valid = false → t.tas.insts = s.tas.insts ∧ t.tas.stagedUnused = s.tas.stagedUnused)
        ∧ (h.valid = true → Tab.has s.tas.insts s.tas.sel = true → t.tas.insts = Tab.upd s.tas.insts s.tas.sel (fun x => { x with staged := some h }) ∧ t.tas.stagedUnused = s.tas.stagedUnused)
        ∧ (h.valid = true → Tab.has s.tas.insts s.tas.sel = false → t.tas.insts = s.tas.insts ∧ t.tas.stagedUnused = Tab.set s.tas.stagedUnused s.tas.sel h) := by
  have hexec : exec (.tasShcmdStage r) s = .next { s.storeReg .tasShcmd 1 with tas := (s.storeReg .tasShcmd 1).tas.stageRegs } :=
    congrArg _ (served_write h 1 _)
  have hsel : (s.storeReg .tasShcmd 1).tas.sel = s.tas.sel := RegFile.fld_set_of_ne _ _ (by decide) _ _
  refine ⟨_, hexec, rfl, ?_, ?_⟩
  · cases hv : (Share.ofRegs (s.storeReg .tasShcmd 1).tas.regs).valid
    · exact congrArg (RegFile.bit · _ _) (Tas.stageRegs_refused hv).1 |>.trans (RegFile.bit_setFld_self _ _ _ (by decide))
    · exact congrArg (RegFile.bit · _ _) (Tas.stageRegs_valid hv).1 |>.trans (RegFile.bit_setFld_self _ _ _ (by decide))
  · rintro h rfl
    refine ⟨fun hv => (Tas.stageRegs_refused hv).2, fun hv hhas => ?_, fun hv hhas => ?_⟩
    · obtain ⟨-, hinsts, hunused⟩ := Tas.stageRegs_valid hv
      rw [Tas.stage, hsel, if_pos (by exact hhas)] at hinsts hunused
      exact ⟨hinsts, hunused⟩
    · obtain ⟨-, hinsts, hunused⟩ := Tas.stageRegs_valid hv
      rw [Tas.stage, hsel, if_neg (by exact ne_true_of_eq_false hhas)] at hinsts hunused
      exact ⟨hinsts, hunused⟩

/-- The device watchdog takes its key alone (R28). -/
theorem exec_fevDevwdgWrite {s : State} {r : Requester} (h : Safety.served s r .fevDevwdg) (v : W32) :
    ∃ t, exec (.fevDevwdgWrite r v) s = .next t ∧ t.fev.kickedAt = (if v.bits 31 16 = 0xA5C3 then s.clock.now else s.fev.kickedAt)
      ∧ t.fev.badKick = (if v.bits 31 16 = 0xA5C3 then s.fev.badKick else satAdd 15 s.fev.badKick 1)
      ∧ (v.bits 31 16 = 0xA5C3 → t.fev.hbStarted = true) ∧ t = { s with fev := t.fev } := by
  have hexec : exec (.fevDevwdgWrite r v) s = .next ((s.storeReg .fevDevwdg v).kick v) := congrArg _ (served_write h v _)
  refine ⟨_, hexec, ?_⟩
  rw [State.kick]
  split
  · exact ⟨rfl, rfl, fun _ => rfl, rfl⟩
  · next hk => exact ⟨rfl, rfl, fun h => absurd h hk, rfl⟩

/-- A write to the event record's header with GO: refused at severity 3, else the record joins the log (R453). -/
theorem exec_fevEvwrhdrGo {s : State} {r : Requester} {v : W32} (h : Safety.served s r .fevEvwrhdr) (hgo : v.bits 31 31 = 1) :
    (v.bits 25 24 = 3 → ∃ t, exec (.fevEvwrhdrGo r v) s = .next t ∧ t.fev.regs.fld .fevEvwrhdr 29 29 = 1 ∧ t = { s with fev := { s.fev with regs := t.fev.regs } })
    ∧ (v.bits 25 24 ≠ 3 → ∃ (t : State) (f : Fev), exec (.fevEvwrhdrGo r v) s = .next t ∧ t = { s with fev := t.fev }
      ∧ t.fev = f.append ⟨s.hours, s.clock.pcyc, 0, .event, v.bits 25 24, r.source, v.bits 7 0,
          .std (v.bits 23 20) (s.fev.payload 0) (s.fev.payload 1) (s.fev.payload 2) (s.fev.payload 3)⟩
      ∧ f = { s.fev with regs := f.regs } ∧ f.regs.fld .fevEvwrhdr 29 29 = 0) := by
  have hexec : exec (.fevEvwrhdrGo r v) s = .next ((s.storeReg .fevEvwrhdr v).firmwareRecord r v) := congrArg _ (served_write h v _)
  have hgo' : ¬ v.bits 31 31 = 0 := by omega
  have hpay (m : Nat) : (s.storeReg .fevEvwrhdr v).fev.payload m = s.fev.payload m := by
    have hget (k : Nat) : (s.storeReg .fevEvwrhdr v).fev.regs.get (.fevEvwrpay k) = s.fev.regs.get (.fevEvwrpay k) :=
      RegFile.get_set_ne _ _ (by simp)
    rw [Fev.payload, hget, hget, ← Fev.payload]
  refine ⟨fun h3 => ⟨_, hexec, ?_, ?_⟩, fun h3 => ?_⟩
  · rw [State.firmwareRecord, if_neg hgo', if_pos h3]
    exact RegFile.fld_setFld_self _ _ _ _ _ (by decide)
  · rw [State.firmwareRecord, if_neg hgo', if_pos h3]; rfl
  · rw [State.firmwareRecord, if_neg hgo', if_neg h3] at hexec
    refine ⟨_, { (s.storeReg .fevEvwrhdr v).fev with regs := (s.storeReg .fevEvwrhdr v).fev.regs.setFld .fevEvwrhdr 29 29 0 }, hexec, rfl, ?_, rfl,
      RegFile.fld_setFld_self _ _ _ _ _ (by decide)⟩
    rw [← hpay 0, ← hpay 1, ← hpay 2, ← hpay 3]
    rfl

/-- The Ahnah interface takes 32-bit accesses alone, and its command and argument registers while nothing runs (R411). -/
theorem exec_registerWrite_sideband (s : State) (addr v : Nat) :
    (∀ width, width ≠ 32 → ∃ t, exec (.registerWrite .sideband addr width v) s = .next t ∧ t = s)
    ∧ (s.sideband = true → s.mgc.regs.bit .mgcSbicfg 15 = true → (s.dumped = false ∨ s.fev.safe = true) →
      (natBits v 31 31 = 0 → ∃ t, exec (.registerWrite .sideband 0 32 v) s = .next t
        ∧ t = { s with mgc := { s.mgc with ah := { s.mgc.ah with task := natBits v 23 16, tag := natBits v 7 0, done := s.mgc.ah.done && natBits v 29 29 == 0 } } })
      ∧ (s.mgc.ah.busy = none → 2 ≤ addr → addr < 6 → ∃ t, exec (.registerWrite .sideband addr 32 v) s = .next t
        ∧ t = { s with mgc := { s.mgc with ah := { s.mgc.ah with args := s.mgc.ah.args.set (addr - 2) (v % 2 ^ 32) } } })) := by
  have hexec (a w : Nat) : exec (.registerWrite .sideband a w v) s = .next (if w = 32 then s.ahWrite a v else s) := by
    change execRegisterWrite .sideband a w v s = _
    rw [execRegisterWrite, if_pos rfl]
  refine ⟨fun width hw => ⟨_, hexec addr width, if_neg hw⟩, fun hsb hen hd => ?_⟩
  have hopen : (!(s.sideband && s.mgc.regs.bit .mgcSbicfg 15 && (!s.dumped || s.fev.safe))) = false := by
    rcases hd with hd | hd <;> simp [hsb, hen, hd]
  refine ⟨fun hgo => ⟨_, hexec 0 32, ?_⟩, fun hfree h2 h6 => ⟨_, hexec addr 32, ?_⟩⟩
  · rw [if_pos rfl, State.ahWrite, hopen, if_neg Bool.false_ne_true, if_pos rfl, if_neg (by omega)]
  · have h0 : addr ≠ 0 := by omega
    rw [if_pos rfl, State.ahWrite, hopen, if_neg Bool.false_ne_true, if_neg h0]
    rw [if_neg (by simp [hfree]), if_pos ⟨h2, h6⟩]

/-- Settles O44: each served write reaches its register and its effect, and a refused one tells MGC_CSRERR why. -/
theorem registerWrites : Obligations.RegisterWrites := by
  refine ⟨fun s r addr width v hs hlo hhi hw => ⟨fun reason h => ?_, fun reg ha h32 hp hb hreg hserved => ?_⟩,
    fun s r v h => exec_hfuLeasecfgWrite h v, fun s r v h => exec_ptmHuecfgWrite h v,
    fun s r h => ⟨exec_tasShcmdLoad h, exec_tasShcmdStage h⟩, fun s r v h => exec_fevDevwdgWrite h v, fun s r h => ?_,
    exec_registerWrite_sideband, fun s r v h hgo => exec_fevEvwrhdrGo h hgo⟩
  · exact ⟨_, exec_registerWrite_refused hs hlo hhi hw h, State.csrErr_tells s reason r addr (by omega)⟩
  · exact ⟨_, exec_registerWrite_served hs hlo hhi hw ha h32 hp hb hreg hserved, rfl⟩
  · exact ⟨_, congrArg Host.Outcome.next (served_write h 0x80000000 fun g => g.ffqClear 0x80000000), rfl⟩

end Sys2Proof.Machine
end

section
/-! The Seal engine, the key slots and the boot record's FIN (R353, R365, R368 to R370), and O45. -/

namespace Sys2Proof.Machine

/-- A refused operation sets ERR and starts nothing. -/
theorem Sec.sealErr_sets (c : Sec) : c.sealErr.regs.fld .secSealctl 29 29 = 1 := RegFile.fld_setFld_self _ _ _ _ _ (by decide)

/-- The value that starts operation `op`, with the other fields of the write. -/
def sealWord (v : W32) (op : Nat) : W32 := (v.setBits 24 22 op).setBits 31 31 1

theorem sealWord_go (v : W32) (op : Nat) : (sealWord v op).bits 31 31 = 1 := W32.bits_setBits_self _ _ _ _ (by decide)

theorem sealWord_op (v : W32) {op : Nat} (h : op < 8) : (sealWord v op).bits 24 22 = op := by
  rw [sealWord, W32.bits_setBits_ne _ _ _ _ _ _ (by decide) (by decide), W32.bits_setBits_self _ _ _ _ (by decide)]
  exact Nat.mod_eq_of_lt h

/-- The operation that the stored write names. -/
theorem State.storeReg_sealOp (s : State) (v : W32) {op : Nat} (h : op < 8) :
    (s.storeReg .secSealctl (sealWord v op)).sec.regs.fld .secSealctl 24 22 = op := by
  change ((s.sec.regs.set .secSealctl _).fld .secSealctl 24 22) = op
  rw [RegFile.fld_set_self]
  refine (Reg.bits_write_rw (r := .secSealctl) (f := ⟨"OP", 24, 22, .rw, 0⟩) (by simp [Reg.fields]) rfl ?_ _ _).trans (sealWord_op v h)
  rfl

/-- What an unwrap into a slot of a namespace starts. -/
theorem Sec.sealUnwrap_starts {c : Sec} {slot : Nat} (hfree : c.run = none) (hslot : slot < nsSlots) (hk : c.noKeys = false) (fsn live : Nat) :
    ∃ bad out, (c.sealUnwrap slot fsn live).run = some (.key out bad) ∧ (c.sealUnwrap slot fsn live).blobs = c.blobs
      ∧ (bad = true → (c.sealUnwrap slot fsn live).keys = c.keys) := by
  have htaken : (decide (nsSlots ≤ slot) || c.noKeys) = false := by rw [hk]; simpa using hslot
  rw [Sec.sealUnwrap, hfree, if_neg (by simp), htaken, if_neg Bool.false_ne_true]
  split
  · split
    · exact ⟨false, _, rfl, (Sec.change_keeps _ _ _ _ _ _).1, by simp⟩
    · exact ⟨true, _, rfl, rfl, fun _ => rfl⟩
  · exact ⟨true, _, rfl, rfl, fun _ => rfl⟩

/-- What an injection into a slot of the pool starts; a refused blob is reported as an event. -/
theorem Sec.sealInject_starts {c : Sec} {slot : Nat} (hfree : c.run = none) (hlo : nsSlots ≤ slot) (hhi : slot < keySlots) (hk : c.noKeys = false)
    (fsn live : Nat) (target : Option (Nat × Nat)) :
    ∃ bad out, (c.sealInject slot fsn live target).1.run = some (.key out bad) ∧ (bad = true → (c.sealInject slot fsn live target).1.keys = c.keys)
      ∧ ∀ x ∈ (c.sealInject slot fsn live target).2, x.mild = true := by
  have htaken : ¬ (slot < nsSlots ∨ keySlots ≤ slot ∨ c.noKeys = true) := by rw [hk]; simp; omega
  rw [Sec.sealInject, hfree, if_neg (by simp), if_neg htaken]
  split
  · exact ⟨false, _, rfl, by simp, by simp⟩
  · exact ⟨true, _, rfl, fun _ => rfl, fun x hx => List.mem_singleton.1 hx ▸ rfl⟩

/-- A clear keeps every blob, and refuses only a slot outside the namespaces'. -/
theorem Sec.sealClear_runs {c : Sec} (hfree : c.run = none) (slot fsn live : Nat) :
    (slot < nsSlots → ∃ out, (c.sealClear slot fsn live).run = some (.key out false)) ∧ (c.sealClear slot fsn live).blobs = c.blobs := by
  rw [Sec.sealClear, hfree, if_neg (by simp)]
  split
  · next hbad => exact ⟨fun hslot => absurd hbad (by omega), rfl⟩
  · exact ⟨fun _ => ⟨_, rfl⟩, (Sec.change_keeps _ _ _ _ _ _).1⟩

section
variable {s : State} {r : Requester} {v : W32} (h : Safety.served s r .secSealctl) (hrun : s.sec.run = none)
include h hrun

/-- An operation that GO starts on a free engine runs on the state with the write stored. -/
theorem State.sealOp_starts (op : Nat) (hop : op < 8) {u : State} (hu : u = s.storeReg .secSealctl (sealWord v op)) :
    s.sealOp r v op = u.sealGo (sealWord v op) ∧ ¬ ((sealWord v op).bits 31 31 = 0 ∨ u.sec.run.isSome = true) ∧ u.sec.regs.fld .secSealctl 24 22 = op := by
  subst hu
  refine ⟨served_write h (sealWord v op) fun g => g.sealGo (sealWord v op), ?_, State.storeReg_sealOp s v hop⟩
  have hfree : (s.storeReg .secSealctl (sealWord v op)).sec.run = none := hrun
  rw [sealWord_go, hfree]
  simp

theorem exec_sealGcm {u : State} (hu : u = s.storeReg .secSealctl (sealWord v 0)) :
    ∃ t, exec (.sealGcm r v) s = .next t ∧ t = { u with sec := u.sec.sealGcm }
      ∧ (s.sec.kvalid = false → t.sec.run = none ∧ t.sec.regs.fld .secSealctl 29 29 = 1) := by
  obtain ⟨hstart, hgo, hop⟩ := State.sealOp_starts h hrun 0 (by decide) hu
  have hfree : u.sec.run = none := hu ▸ hrun
  have hrow : u.sealGo (sealWord v 0) = { u with sec := u.sec.sealGcm } := by
    rw [State.sealGo, if_neg hgo, hop] <;> rfl
  refine ⟨_, congrArg Host.Outcome.next (hstart.trans hrow), rfl, fun hk => ?_⟩
  have hk' : u.sec.kvalid = false := hu ▸ hk
  have herr : u.sec.sealGcm = u.sec.sealErr := by
    rw [Sec.sealGcm, hfree, hk']; rfl
  dsimp only
  rw [herr]
  exact ⟨hfree, Sec.sealErr_sets _⟩

theorem exec_sealKeygen {u : State} (hu : u = s.storeReg .secSealctl (sealWord v 1)) :
    ∃ t, exec (.sealKeygen r v) s = .next t ∧ t = { u with
        sec := u.sec.sealKeygen (u.sec.regs.fld .secSealctl 15 0) s.qce.fsn (u.liveOn (u.sec.regs.fld .secSealctl 15 0) s.qce.fsn) }
      ∧ (nsSlots ≤ u.sec.regs.fld .secSealctl 15 0 ∨ s.sec.noKeys = true → t.sec.run = none ∧ t.sec.keys = s.sec.keys ∧ t.sec.blobs = s.sec.blobs
          ∧ t.sec.regs.fld .secSealctl 29 29 = 1)
      ∧ (u.sec.regs.fld .secSealctl 15 0 < nsSlots → s.sec.noKeys = false → t.sec.run.isSome = true) := by
  obtain ⟨hstart, hgo, hop⟩ := State.sealOp_starts h hrun 1 (by decide) hu
  have hfree : u.sec.run = none := hu ▸ hrun
  have hfsn : u.qce.fsn = s.qce.fsn := hu ▸ rfl
  have hkeys : u.sec.keys = s.sec.keys ∧ u.sec.blobs = s.sec.blobs ∧ u.sec.noKeys = s.sec.noKeys := hu ▸ ⟨rfl, rfl, rfl⟩
  have hrow : u.sealGo (sealWord v 1) = { u with
      sec := u.sec.sealKeygen (u.sec.regs.fld .secSealctl 15 0) u.qce.fsn (u.liveOn (u.sec.regs.fld .secSealctl 15 0) u.qce.fsn) } := by
    rw [State.sealGo, if_neg hgo, hop] <;> rfl
  rw [hfsn] at hrow
  refine ⟨_, congrArg Host.Outcome.next (hstart.trans hrow), rfl, fun hbad => ?_, fun hslot hk => ?_⟩
  · have hrefused : (decide (nsSlots ≤ u.sec.regs.fld .secSealctl 15 0) || u.sec.noKeys) = true := by
      rw [hkeys.2.2]; simpa using hbad
    dsimp only
    rw [Sec.sealKeygen, hfree, if_neg (by simp), if_pos hrefused]
    exact ⟨hfree, hkeys.1, hkeys.2.1, Sec.sealErr_sets _⟩
  · have htaken : (decide (nsSlots ≤ u.sec.regs.fld .secSealctl 15 0) || u.sec.noKeys) = false := by
      rw [hkeys.2.2, hk]; simpa using hslot
    dsimp only
    rw [Sec.sealKeygen, hfree, if_neg (by simp), htaken, if_neg Bool.false_ne_true]
    rfl

theorem exec_sealUnwrap {u : State} (hu : u = s.storeReg .secSealctl (sealWord v 2)) :
    ∃ t, exec (.sealUnwrap r v) s = .next t ∧ t = { u with sec := t.sec }
      ∧ (u.sec.regs.fld .secSealctl 15 0 < nsSlots → s.sec.noKeys = false → ∃ bad out, t.sec.run = some (.key out bad) ∧ t.sec.blobs = s.sec.blobs
          ∧ (bad = true → t.sec.keys = s.sec.keys)) := by
  obtain ⟨hstart, hgo, hop⟩ := State.sealOp_starts h hrun 2 (by decide) hu
  have hfree : u.sec.run = none := hu ▸ hrun
  have hkeys : u.sec.keys = s.sec.keys ∧ u.sec.blobs = s.sec.blobs ∧ u.sec.noKeys = s.sec.noKeys := hu ▸ ⟨rfl, rfl, rfl⟩
  have hrow : u.sealGo (sealWord v 2) = { u with
      sec := u.sec.sealUnwrap (u.sec.regs.fld .secSealctl 15 0) u.qce.fsn (u.liveOn (u.sec.regs.fld .secSealctl 15 0) u.qce.fsn) } := by
    rw [State.sealGo, if_neg hgo, hop] <;> rfl
  refine ⟨_, congrArg Host.Outcome.next (hstart.trans hrow), rfl, fun hslot hk => ?_⟩
  rw [← hkeys.1, ← hkeys.2.1]
  exact Sec.sealUnwrap_starts hfree hslot (hkeys.2.2.trans hk) _ _

theorem exec_sealInject {u : State} (hu : u = s.storeReg .secSealctl (sealWord v 3)) :
    ∃ t, exec (.sealInject r v) s = .next t
      ∧ (nsSlots ≤ u.sec.regs.fld .secSealctl 15 0 → u.sec.regs.fld .secSealctl 15 0 < keySlots → s.sec.noKeys = false →
          ∃ bad out, t.sec.run = some (.key out bad) ∧ (bad = true → t.sec.keys = s.sec.keys)) := by
  obtain ⟨hstart, hgo, hop⟩ := State.sealOp_starts h hrun 3 (by decide) hu
  have hfree : u.sec.run = none := hu ▸ hrun
  have hkeys : u.sec.keys = s.sec.keys ∧ u.sec.noKeys = s.sec.noKeys := hu ▸ ⟨rfl, rfl⟩
  obtain ⟨p, hp⟩ : ∃ p, p = u.sec.sealInject (u.sec.regs.fld .secSealctl 15 0) u.qce.fsn (u.liveOn (u.sec.regs.fld .secSealctl 15 0) u.qce.fsn)
      (u.fl.ptx.poolTarget (u.sec.regs.fld .secSealctl 15 0)) := ⟨_, rfl⟩
  have hrow : u.sealGo (sealWord v 3) = ({ u with sec := p.1 } : State).reports p.2 := by
    rw [State.sealGo, if_neg hgo, hop, hp] <;> rfl
  refine ⟨_, congrArg Host.Outcome.next (hstart.trans hrow), fun hlo hhi hk => ?_⟩
  obtain ⟨bad, out, hout, hbad, hmild⟩ := Sec.sealInject_starts hfree hlo hhi (hkeys.2.trans hk) u.qce.fsn
    (u.liveOn (u.sec.regs.fld .secSealctl 15 0) u.qce.fsn) (u.fl.ptx.poolTarget (u.sec.regs.fld .secSealctl 15 0))
  rw [← hp] at hout hbad hmild
  rw [State.reports_mild _ _ hmild]
  exact ⟨bad, out, hout, fun hb => (hbad hb).trans hkeys.1⟩

theorem exec_sealClear {u : State} (hu : u = s.storeReg .secSealctl (sealWord v 4)) :
    ∃ t, exec (.sealClear r v) s = .next t ∧ t = { u with sec := t.sec }
      ∧ (u.sec.regs.fld .secSealctl 15 0 < nsSlots → ∃ out, t.sec.run = some (.key out false)) ∧ t.sec.blobs = s.sec.blobs := by
  obtain ⟨hstart, hgo, hop⟩ := State.sealOp_starts h hrun 4 (by decide) hu
  have hfree : u.sec.run = none := hu ▸ hrun
  have hblobs : u.sec.blobs = s.sec.blobs := hu ▸ rfl
  have hrow : u.sealGo (sealWord v 4) = { u with
      sec := u.sec.sealClear (u.sec.regs.fld .secSealctl 15 0) u.qce.fsn (u.liveOn (u.sec.regs.fld .secSealctl 15 0) u.qce.fsn) } := by
    rw [State.sealGo, if_neg hgo, hop] <;> rfl
  refine ⟨_, congrArg Host.Outcome.next (hstart.trans hrow), rfl, ?_⟩
  rw [← hblobs]
  exact Sec.sealClear_runs hfree _ _ _

end

/-- A key operation without a waiting slot change ends with its output. -/
theorem Sec.sealDone_key {c : Sec} {out : List Byte} {bad : Bool} (hrun : c.run = some (.key out bad)) (hc : ∀ x ∈ c.changes, x.bySeal = false) :
    c.sealDone = { c with run := none, buffer := out, regs := if bad then c.regs.setFld .secSealctl 28 28 1 else c.regs } := by
  have hnone : (c.changes.any fun x => x.bySeal) = false := List.any_eq_false.2 fun x hx => by simp [hc x hx]
  rw [Sec.sealDone, hrun]
  dsimp only
  rw [hnone, if_neg Bool.false_ne_true]

theorem exec_sealDone_key {s : State} {out : List Byte} {bad : Bool} (hrun : s.sec.run = some (.key out bad)) (hc : ∀ x ∈ s.sec.changes, x.bySeal = false) :
    ∃ t, exec .sealDone s = .next t ∧ t.sec.run = none ∧ t.sec.buffer = out ∧ (bad = true → t.sec.regs.fld .secSealctl 28 28 = 1)
      ∧ t = { s with sec := { s.sec with run := none, buffer := out, regs := t.sec.regs } } := by
  have hexec : exec .sealDone s = .next { s with sec := s.sec.sealDone } := rfl
  rw [Sec.sealDone_key hrun hc] at hexec
  refine ⟨_, hexec, rfl, rfl, ?_, rfl⟩
  rintro rfl
  exact RegFile.fld_setFld_self _ _ _ _ _ (by decide)

theorem exec_sealDone_gcm {s : State} {out : List Byte} {tag : Option Nat} {bad : Bool} {st : GcmState} (hrun : s.sec.run = some (.gcm out tag bad st)) :
    ∃ t, exec .sealDone s = .next t ∧ t.sec.run = none ∧ t.sec.buffer = out ∧ t.sec.gcm = st ∧ (bad = true → t.sec.regs.fld .secSealctl 28 28 = 1)
      ∧ t = { s with sec := { s.sec with run := none, buffer := out, gcm := st, regs := t.sec.regs } } := by
  have hexec : exec .sealDone s = .next { s with sec := s.sec.sealDone } := rfl
  rw [Sec.sealDone, hrun] at hexec
  refine ⟨_, hexec, rfl, rfl, rfl, ?_, rfl⟩
  rintro rfl
  exact RegFile.fld_setFld_self _ _ _ _ _ (by decide)

/-- KCLR clears the key words unless KLOCK holds them. -/
theorem exec_secSeallockKclr {s : State} {r : Requester} (h : Safety.served s r .secSeallock) :
    ∃ t, exec (.secSeallockKclr r) s = .next t ∧ t.sec.skey = (if s.sec.regs.bit .secSeallock 0 then s.sec.skey else [])
      ∧ t = { s with sec := { s.sec with regs := t.sec.regs, skey := t.sec.skey } } := by
  have hexec : exec (.secSeallockKclr r) s = .next ((s.storeReg .secSeallock 2).sealLock (s.sec.regs.bit .secSeallock 0) 2) :=
    congrArg _ (served_write h _ _)
  refine ⟨_, hexec, ?_⟩
  cases s.sec.regs.bit .secSeallock 0 <;> exact ⟨rfl, rfl⟩

/-- KLOCK is set by a 1 and stays until the next reset. -/
theorem exec_secSeallockKlock {s : State} {r : Requester} (h : Safety.served s r .secSeallock) :
    ∃ t, exec (.secSeallockKlock r) s = .next t ∧ t.sec.regs.bit .secSeallock 0 = true ∧ t = { s with sec := { s.sec with regs := t.sec.regs } } := by
  have hexec : exec (.secSeallockKlock r) s = .next (s.storeReg .secSeallock 1) := congrArg _ (served_write h _ _)
  refine ⟨_, hexec, ?_, rfl⟩
  obtain ⟨u, -, hw⟩ := Reg.bits_write (r := .secSeallock) (f := ⟨"KLOCK", 0, 0, .w1s, 0⟩) (by simp [Reg.fields]) (s.locked .secSeallock)
    (s.reg .secSeallock) 1
  have hset : (u ||| (1 &&& maskOf 0 0)).bits 0 0 = 1 := by
    rw [W32.bits_eq]
    have hbit : (u ||| (1 &&& maskOf 0 0)).extractLsb' 0 1 = 1 := by
      apply BitVec.eq_of_getLsbD_eq
      intro i hi
      obtain rfl : i = 0 := by omega
      simp [maskOf]
    exact congrArg BitVec.toNat hbit
  have hfld : (s.storeReg .secSeallock 1).sec.regs.fld .secSeallock 0 0 = 1 :=
    (RegFile.fld_set_self _ _ _ _ _).trans (hw.trans hset)
  exact beq_iff_eq.2 hfld

theorem exec_keySlotChangeApply {s : State} {slot : Nat} {x : SlotChange} (hx : (s.sec.changes.find? fun x => x.slot == slot) = some x) :
    exec (.keySlotChangeApply slot) s
      = .next (if s.liveOn slot x.fsn = 0 then ({ s with sec := s.sec.applyChange slot } : State).settle else s) := by
  change execKeySlotChangeApply slot s = _
  rw [execKeySlotChangeApply, hx]

/-- FIN begins the signing of the boot record, and a handover that waits for it goes on. -/
theorem exec_secBrctlFin {s : State} {r : Requester} (h : Safety.served s r .secBrctl) :
    ∃ t, exec (.secBrctlFin r) s = .next t ∧ t = { s with sec := t.sec, mgc := { s.mgc with act := t.mgc.act } }
      ∧ t.sec = (s.storeReg .secBrctl 0x80000000).sec.finish s.fev.bootRecords s.stamp s.mgc.cal.serial := by
  have hexec : exec (.secBrctlFin r) s = .next ((s.storeReg .secBrctl 0x80000000).brFin 0x80000000) := congrArg _ (served_write h _ _)
  exact ⟨_, hexec, rfl, rfl⟩

/-- Settles O45: what each operation of the Seal engine, each lock bit and each waiting slot change does. -/
theorem sealEngine : Obligations.SealEngine := by
  refine ⟨fun s r v u h hrun hu => ⟨exec_sealGcm h hrun (hu 0), exec_sealKeygen h hrun (hu 1), exec_sealUnwrap h hrun (hu 2),
      exec_sealInject h hrun (hu 3), exec_sealClear h hrun (hu 4)⟩,
    fun s out bad hrun hc => exec_sealDone_key hrun hc, fun s out tag bad st hrun => exec_sealDone_gcm hrun,
    fun s r h => ⟨exec_secSeallockKclr h, exec_secSeallockKlock h⟩, fun s slot x hx => ⟨fun hlive => ?_, fun hlive => ?_⟩,
    fun s r h => exec_secBrctlFin h⟩
  · exact ⟨_, exec_keySlotChangeApply hx, if_pos hlive⟩
  · exact ⟨_, exec_keySlotChangeApply hx, if_neg hlive⟩

end Sys2Proof.Machine
end

section
/-! SPDM over the three transports (R357, R358), and O46. -/

namespace Sys2Proof.Machine

theorem SpdmEp.respond_whole {e : SpdmEp} {bytes : List Byte} (r : SpdmResp) (h : e.maxSize = 0 ∨ bytes.length ≤ e.maxSize) : e.respond bytes r = (e, r) := by
  rw [SpdmEp.respond, if_neg (by omega)]

section
variable {c : Sec} {newest : Option (Nat × List Byte)} {e : SpdmEp}

theorem Sec.spdm_getVersion :
    c.spdm newest e .getVersion = ({ SpdmEp.fresh with stage := 1, handles := e.handles }, .version [0x12, 0x13]) := rfl

theorem Sec.spdm_getCapabilities {v n : Nat} (hv : v = 0x12 ∨ v = 0x13) (h : 1 ≤ e.stage) :
    c.spdm newest e (.getCapabilities v n) = ({ e with stage := 2, version := v, maxSize := n }, .capabilities 15) := by
  change (if e.stage < 1 then _ else _) = _
  rw [if_neg (by omega), if_pos hv]

theorem Sec.spdm_negotiate (a b : Bool) (h : 2 ≤ e.stage) :
    c.spdm newest e (.negotiate a b) = ({ e with stage := if a && b then 3 else 2 }, .algorithms a b) := by
  change (if e.stage < 2 then _ else _) = _
  rw [if_neg (by omega)]

theorem Sec.spdm_getDigests_early (h : e.stage < 3) : c.spdm newest e .getDigests = (e, e.early) := by
  change (if e.stage < 3 then _ else _) = _
  rw [if_pos h]

section
variable (h : 3 ≤ e.stage)
include h

theorem Sec.spdm_getDigests :
    c.spdm newest e .getDigests = (e, .digests [Config.sha384 (c.chainBytes 0), Config.sha384 (c.chainBytes 1)]) := by
  change (if e.stage < 3 then _ else _) = _
  rw [if_neg (by omega)]

theorem Sec.spdm_getCertificate {slot off n : Nat} (hslot : slot ≤ 1) (hoff : off < (c.chainBytes slot).length)
    (hfits : (((c.chainBytes slot).drop off).take n).length ≤ e.maxSize) :
    c.spdm newest e (.getCertificate slot off n)
      = (e, .certificate slot (((c.chainBytes slot).drop off).take n) ((c.chainBytes slot).length - off - (((c.chainBytes slot).drop off).take n).length)) := by
  change (if e.stage < 3 then _ else _) = _
  rw [if_neg (by omega)]
  dsimp only
  rw [if_pos ⟨hslot, hoff⟩, SpdmEp.respond_whole _ (.inr hfits)]

theorem Sec.spdm_challenge {slot : Nat} (hslot : slot ≤ 1) (hkeys : c.privKeys = true) :
    c.spdm newest e (.challenge slot) = (e, .challengeAuth slot (Config.signature c.alias' (c.chainBytes slot))) := by
  change (if e.stage < 3 then _ else _) = _
  rw [if_neg (by omega), hkeys, if_neg (by simp), if_pos hslot]

theorem Sec.spdm_getMeasurements {i v : Nat} {signed : Bool} (h0 : i ≠ 0) (hall : i ≠ 0xFF) (hval : measValue newest i = some v)
    (hkeys : signed = true → c.privKeys = true) (hsize : e.maxSize = 0) :
    c.spdm newest e (.getMeasurements i signed)
      = (e, .measurements [(i, v)] (if signed then some (Config.signature c.alias' (leBytes 1 i ++ leBytes 48 v)) else none)) := by
  have hsigns : (signed && !c.privKeys) = false := by
    cases signed
    · rfl
    · rw [hkeys rfl]; rfl
  change (if e.stage < 3 then _ else _) = _
  rw [if_neg (by omega), hsigns, if_neg Bool.false_ne_true, if_neg h0, if_neg hall]
  have hvals : [i].filterMap (fun k => (measValue newest k).map fun v => (k, v)) = [(i, v)] := by simp [hval]
  dsimp only
  rw [hvals]
  rw [if_neg (by simp), SpdmEp.respond_whole _ (.inl hsize), List.flatMap_cons, List.flatMap_nil, List.append_nil]

end

end

/-- Where no endpoint answers, a request changes nothing. -/
theorem State.spdmAsk_silent {s : State} {ep : Nat} (h : s.runs = false ∨ s.fetchPaused = true ∨ s.spdmEndpoint ep = false) (q : SpdmReq) :
    s.spdmAsk ep q = .next s := by
  have hsilent : (s.runs && !s.fetchPaused && s.spdmEndpoint ep) = false := by rcases h with h | h | h <;> simp [h]
  rw [State.spdmAsk, State.spdmServed, hsilent, if_neg Bool.false_ne_true]

section
variable {s : State} {ep : Nat} {e : SpdmEp} (he : e = Tab.getD s.sec.endpoints ep .fresh)
  (hruns : s.runs = true) (hfetch : s.fetchPaused = false) (hep : s.spdmEndpoint ep = true)
include hruns hfetch hep

theorem State.spdmServed_there (f : State → State) : s.spdmServed ep f = .next (f s) := by
  rw [State.spdmServed, hruns, hfetch, hep]
  exact congrArg _ (if_pos rfl)

include he

/-- An endpoint that is there answers with what its state gives. -/
theorem State.spdmAsk_answers {q : SpdmReq} {e' : SpdmEp} {r : SpdmResp} (h : s.sec.spdm (newestRecord s.fev.bootRecords) e q = (e', r)) :
    s.spdmAsk ep q = .next { s with sec := { s.sec with endpoints := Tab.set s.sec.endpoints ep e' }, out := .spdm ep r :: s.out } := by
  rw [State.spdmAsk, State.spdmServed_there hruns hfetch hep]
  dsimp only
  rw [Sec.spdmAt, ← he, h] <;> rfl

/-- CHUNK_GET hands out the next chunk of the response that waits. -/
theorem exec_chunkGet {c : SpdmChunks} (hsend : e.sending = some c) :
    ∃ t, exec (.chunkGet ep c.handle c.nextSeq) s = .next t
      ∧ t.out = .spdm ep (.chunk c.handle c.nextSeq (c.data.take e.maxSize) (c.data.drop e.maxSize).isEmpty) :: s.out
      ∧ (Tab.getD t.sec.endpoints ep .fresh).sending
        = if (c.data.drop e.maxSize).isEmpty then none else some ⟨c.handle, c.nextSeq + 1, c.data.drop e.maxSize⟩ := by
  obtain ⟨e', he'⟩ : ∃ e' : SpdmEp, e' = { e with
      sending := if (c.data.drop e.maxSize).isEmpty then none else some ⟨c.handle, c.nextSeq + 1, c.data.drop e.maxSize⟩ } := ⟨_, rfl⟩
  have hchunk : s.sec.chunkGet ep c.handle c.nextSeq = ({ s.sec with endpoints := Tab.set s.sec.endpoints ep e' },
      .chunk c.handle c.nextSeq (c.data.take e.maxSize) (c.data.drop e.maxSize).isEmpty) := by
    rw [he', Sec.chunkGet, ← he, hsend]
    exact if_pos ⟨rfl, rfl⟩
  have hexec : exec (.chunkGet ep c.handle c.nextSeq) s = .next (({ s with sec := { s.sec with endpoints := Tab.set s.sec.endpoints ep e' } } : State).emit
      (.spdm ep (.chunk c.handle c.nextSeq (c.data.take e.maxSize) (c.data.drop e.maxSize).isEmpty))) := by
    change execChunkGet ep c.handle c.nextSeq s = _
    rw [execChunkGet, State.spdmServed_there hruns hfetch hep, hchunk]
  refine ⟨_, hexec, rfl, ?_⟩
  rw [State.emit_sec, Tab.getD_set_self, he']

/-- CHUNK_SEND begins a large request with its first chunk. -/
theorem exec_chunkSend (handle : Nat) (part : List Byte) (q : SpdmReq) (hstage : 2 ≤ e.stage) :
    ∃ t, exec (.chunkSend ep handle 0 false part q) s = .next t
      ∧ t.out = .spdm ep (.chunkAck handle 0 []) :: s.out ∧ (Tab.getD t.sec.endpoints ep .fresh).receiving = some ⟨handle, 1, part⟩ := by
  obtain ⟨e', he'⟩ : ∃ e' : SpdmEp, e' = { e with receiving := some ⟨handle, 1, part⟩ } := ⟨_, rfl⟩
  have hchunk : s.sec.chunkSend (newestRecord s.fev.bootRecords) ep handle 0 false part q
      = ({ s.sec with endpoints := Tab.set s.sec.endpoints ep e' }, [.chunkAck handle 0 []]) := by
    rw [he', Sec.chunkSend, ← he, if_neg (by omega), if_pos rfl]
    exact if_pos ⟨rfl, rfl⟩
  have hexec : exec (.chunkSend ep handle 0 false part q) s = .next (({ s with sec := { s.sec with endpoints := Tab.set s.sec.endpoints ep e' } } : State).emits
      [.spdm ep (.chunkAck handle 0 [])]) := by
    change execChunkSend ep handle 0 false part q s = _
    rw [execChunkSend, State.spdmServed_there hruns hfetch hep, hchunk]
    rfl
  refine ⟨_, hexec, rfl, ?_⟩
  rw [State.emits_sec, Tab.getD_set_self, he']

end

/-- Settles O46: what an endpoint answers at each stage, in one piece or in chunks. -/
theorem spdmRequests : Obligations.SpdmRequests := by
  intro s ep e he
  refine ⟨fun h => ⟨_, State.spdmAsk_silent h _, rfl⟩, fun hruns hfetch hep => ?_⟩
  have hask {q : SpdmReq} {e' : SpdmEp} {r : SpdmResp} (h : s.sec.spdm (newestRecord s.fev.bootRecords) e q = (e', r)) :=
    State.spdmAsk_answers he hruns hfetch hep h
  exact ⟨⟨_, hask Sec.spdm_getVersion, rfl⟩,
    fun v n hv hst => ⟨_, hask (Sec.spdm_getCapabilities hv hst), rfl⟩,
    fun a b hst => ⟨_, hask (Sec.spdm_negotiate a b hst), rfl⟩,
    fun hst => ⟨_, hask (Sec.spdm_getDigests_early hst), rfl⟩,
    fun hst => ⟨⟨_, hask (Sec.spdm_getDigests hst), rfl⟩,
      fun slot off n hslot hoff hfits => ⟨_, hask (Sec.spdm_getCertificate hst hslot hoff hfits), rfl⟩,
      fun slot hslot hkeys => ⟨_, hask (Sec.spdm_challenge hst hslot hkeys), rfl⟩,
      fun i v signed h0 hall hval hkeys hsize => ⟨_, hask (Sec.spdm_getMeasurements hst h0 hall hval hkeys hsize), rfl⟩⟩,
    fun c hc => exec_chunkGet he hruns hfetch hep hc, fun handle part q hst => exec_chunkSend he hruns hfetch hep handle part q hst⟩

end Sys2Proof.Machine
end

section
/-! Faults of the whole device (R26, R371 to R373, R432, R436, R440, R445, R463), and O47. -/

namespace Sys2Proof.Machine

/-- A report leaves the safe state as it is. -/
theorem Fev.report_safe (f : Fev) (r : Report) (t : Stamp) : (f.report r t).safe = f.safe := congrArg Prod.fst (Fev.report_core f r t)

section
variable {s : State} (hup : s.up = true) (hsafe : s.fev.safe = false) (hdump : s.dumped = false)
include hup hsafe hdump

/-- The loss of a main clock enters the safe state. -/
theorem State.clockFault_fells {code : Nat} (arg : Nat) (hc : (mkReport 0x0B code 0 0 arg 0 0).cls = .u) :
    Safety.fellSafe s (s.clockFault code arg) 0x0B code ∧ (s.clockFault code arg).sec = s.sec := by
  rw [State.clockFault, if_pos hup]
  obtain ⟨hfell, hsec, -⟩ := State.report_unsafe hc hsafe hdump
  exact ⟨hfell, hsec⟩

/-- An alarm erases every key and enters the safe state (R371, R372). -/
theorem State.alarm_fells (n : Nat) :
    Safety.fellSafe s (s.alarm n) 0x08 0x05 ∧ (s.alarm n).sec = s.sec.alarm n ∧ (s.alarm n).sec.keys = [] ∧ (s.alarm n).sec.skey = []
      ∧ (s.alarm n).sec.privKeys = false := by
  obtain ⟨g, hg⟩ : ∃ g : State, g = { s with sec := s.sec.alarm n } := ⟨_, rfl⟩
  have halarm : s.alarm n = g.report (mkReport 0x08 0x05 0 0 g.sec.alarmstat.toNat 0 0) := by
    rw [State.alarm, if_pos hup, hg]
  obtain ⟨hfell, hsec, -⟩ := State.report_unsafe (s := g) (r := mkReport 0x08 0x05 0 0 g.sec.alarmstat.toNat 0 0) rfl (hg ▸ hsafe) (hg ▸ hdump)
  have hkeys : g.sec = s.sec.alarm n := hg ▸ rfl
  rw [halarm, hsec, hkeys]
  refine ⟨?_, rfl, rfl, rfl, rfl⟩
  rw [hg] at hfell ⊢
  exact hfell

theorem exec_thermalShutdown (hthr : s.ptm.throttle ≠ .shutdown) (hhot : 2 ≤ hotCount s.ptm.onDie) :
    ∃ t, exec .thermalShutdown s = .next t ∧ Safety.fellSafe s t 0x0A 0x06 ∧ t.ptm.throttle = .shutdown ∧ t.ptm.shutAt = s.clock.now
      ∧ t.fev.safeThermal = true := by
  obtain ⟨g, hg⟩ : ∃ g : State, g = { s.fresh.2 with ptm := s.ptm.shutDown s.clock.now } := ⟨_, rfl⟩
  have hcond : (s.up && s.ptm.throttle != .shutdown && decide (2 ≤ hotCount s.ptm.onDie)) = true := by simp [hup, hthr, hhot]
  have hexec : exec .thermalShutdown s = .next (g.report (mkReport 0x0A 0x06 9 s.fresh.1 0 0 0)) := by
    change execThermalShutdown s = _
    rw [execThermalShutdown, if_pos hcond, hg]
  obtain ⟨hfell, -, hthrottle, hat, hthermal⟩ :=
    State.report_unsafe (s := g) (r := mkReport 0x0A 0x06 9 s.fresh.1 0 0 0) rfl (hg ▸ hsafe) (hg ▸ hdump)
  refine ⟨_, hexec, ?_, hthrottle.trans (hg ▸ rfl), hat.trans (hg ▸ rfl), hthermal⟩
  rw [hg] at hfell ⊢
  exact hfell

theorem exec_faultReport_coded {src code : Nat} (ot ob a0 a1 a2 : Nat) {severe : Bool} (h : reported src code = true) :
    ((evClass src code severe).1 = .u → ∃ t, exec (.faultReport (.coded src code ot ob a0 a1 a2 severe)) s = .next t ∧ Safety.fellSafe s t src code)
      ∧ ((evClass src code severe).1 ≠ .u → ∃ t, exec (.faultReport (.coded src code ot ob a0 a1 a2 severe)) s = .next t
        ∧ t = { s with fev := s.fev.report (mkReport src code ot ob a0 a1 a2 severe) s.stamp }) := by
  have hexec : exec (.faultReport (.coded src code ot ob a0 a1 a2 severe)) s = .next (s.report (mkReport src code ot ob a0 a1 a2 severe)) := by
    change execFaultReport (.coded src code ot ob a0 a1 a2 severe) s = _
    rw [execFaultReport, hup, if_neg (by simp)]
    exact congrArg _ (if_pos h)
  refine ⟨fun hu => ⟨_, hexec, (State.report_unsafe hu hsafe hdump).1⟩, fun hu => ⟨_, hexec, ?_⟩⟩
  rw [State.report, if_neg fun hall => hu hall.1]

end

theorem exec_thermalShutdown_cool {s : State} (h : hotCount s.ptm.onDie < 2) : exec .thermalShutdown s = .next s := by
  change execThermalShutdown s = _
  rw [execThermalShutdown, if_neg (by simp [h])]

/-- A debug unlock erases the keys and reports an event: the safe state stays (R373). -/
theorem exec_debugUnlock {s : State} (hup : s.up = true) (hlocked : s.sec.debugUnlocked = false) :
    ∃ t, exec .debugUnlock s = .next t ∧ t.sec = { s.sec.alarm 3 with debugUnlocked := true }
      ∧ t.sec.keys = [] ∧ t.fev.safe = s.fev.safe ∧ t.qce = s.qce ∧ t.fl = s.fl := by
  obtain ⟨u, hu⟩ : ∃ u : State, u = { s with sec := { s.sec.alarm 3 with debugUnlocked := true } } := ⟨_, rfl⟩
  obtain ⟨g, hg⟩ : ∃ g : State, g = if s.straps.testBit 6 then { u with mgc := { u.mgc with ah := { u.mgc.ah with busy := none } } } else u := ⟨_, rfl⟩
  have hexec : exec .debugUnlock s = .next (g.report (mkReport 0x08 0x06 0 0 0 0 0)) := by
    change execDebugUnlock s = _
    rw [execDebugUnlock, hup, hlocked, hg, hu]
    rfl
  have hframe : g = { u with mgc := g.mgc } := by
    rw [hg]; split <;> rfl
  rw [State.report_mild rfl] at hexec
  refine ⟨_, hexec, ?_, ?_, (Fev.report_safe _ _ _).trans ?_, ?_, ?_⟩ <;> rw [hframe, hu] <;> rfl

theorem State.until'_frame (s : State) (t : Nat) : s.until' t = { s with clock := (s.until' t).clock } := rfl

theorem State.until'_now (s : State) (t : Nat) : (s.until' t).clock.now = max s.clock.now t := by
  change s.clock.now + (t - s.clock.now) = _
  omega

/-- 200 ms after a thermal shutdown THERMTRIP falls (R432). -/
theorem exec_thermtripAssert {s : State} (hup : s.up = true) (hthr : s.ptm.throttle = .shutdown) :
    ∃ t, exec .thermtripAssert s = .next t ∧ t = { s with ptm := { s.ptm with thermtrip := true }, clock := t.clock }
      ∧ t.clock.now = (if s.ptm.hue = .off then s.clock.now else max s.clock.now (s.ptm.shutAt + 200 * msT)) := by
  obtain ⟨g, hg⟩ : ∃ g, g = if s.ptm.hue = .off then s else s.until' (s.ptm.shutAt + 200 * msT) := ⟨_, rfl⟩
  have hexec : exec .thermtripAssert s = .next { g with ptm := { g.ptm with thermtrip := true } } := by
    change execThermtripAssert s = _
    rw [execThermtripAssert, hup, hthr, hg]
    rfl
  have hframe : g = { s with clock := g.clock } := by
    rw [hg]
    split
    · rfl
    · exact State.until'_frame _ _
  refine ⟨_, hexec, ?_, ?_⟩
  · rw [hframe]
  · rw [hg, apply_ite State.clock, apply_ite Clock.now, State.until'_now]

/-- The loss of the always-on crystal becomes an event after its time (R463). -/
theorem exec_aonXtalLoss {s : State} (hup : s.up = true) (hlost : s.clock.xtalLost = false) :
    ∃ t, exec .aonXtalLoss s = .next t ∧ t.clock = { s.clock with xtal := false, xtalLost := decide (s.clock.aonAt + 20000000 ≤ s.clock.aon) }
      ∧ t = { s with clock := t.clock, fev := t.fev } ∧ (s.clock.aon < s.clock.aonAt + 20000000 → t.fev = s.fev) := by
  have hgo : (!s.up || s.clock.xtalLost) = false := by rw [hup, hlost]; rfl
  by_cases hearly : s.clock.aon < s.clock.aonAt + 20000000
  · have hexec : exec .aonXtalLoss s = .next { s with clock := { s.clock with xtal := false } } := by
      change execAonXtalLoss s = _
      rw [execAonXtalLoss, hgo, if_neg Bool.false_ne_true]
      exact congrArg _ (if_pos hearly)
    have hlate : decide (s.clock.aonAt + 20000000 ≤ s.clock.aon) = s.clock.xtalLost := by
      rw [hlost]; exact decide_eq_false (by omega)
    refine ⟨_, hexec, ?_, rfl, fun _ => rfl⟩
    rw [hlate]
  · have hexec : exec .aonXtalLoss s = .next (({ s with clock := { s.clock with xtal := false, xtalLost := true } } : State).report (mkReport 0x0B 0x07 0 0 0 0 0)) := by
      change execAonXtalLoss s = _
      rw [execAonXtalLoss, hgo, if_neg Bool.false_ne_true]
      exact congrArg _ (if_neg hearly)
    rw [State.report_mild rfl] at hexec
    refine ⟨_, hexec, ?_, rfl, fun h => absurd h hearly⟩
    rw [decide_eq_true (by omega)]

/-- Settles O47: what the loss of a clock, an alarm, heat, a report, an unlock and the crystal each leave. -/
theorem deviceFaults : Obligations.DeviceFaults := by
  refine ⟨fun s hup hsafe hdump => ⟨?_, fun clk hclk => ?_, ?_, exec_thermalShutdown hup hsafe hdump, exec_thermalShutdown_cool,
      fun src code ot ob a0 a1 a2 severe h => exec_faultReport_coded hup hsafe hdump ot ob a0 a1 a2 h⟩,
    fun s hup hlocked => exec_debugUnlock hup hlocked, fun s hup hthr => exec_thermtripAssert hup hthr,
    fun s hup => ⟨exec_aonXtalLoss hup, _, congrArg Host.Outcome.next (if_pos hup), rfl⟩⟩
  · exact ⟨_, rfl, (State.clockFault_fells (s := s.fresh.2) hup hsafe hdump s.fresh.1 rfl).1⟩
  · exact ⟨_, congrArg Host.Outcome.next (if_pos hclk), State.clockFault_fells hup hsafe hdump clk rfl⟩
  · rintro c n (⟨rfl, rfl⟩ | ⟨rfl, rfl⟩ | ⟨rfl, rfl⟩)
    · exact ⟨_, rfl, State.alarm_fells hup hsafe hdump 0⟩
    · exact ⟨_, rfl, State.alarm_fells hup hsafe hdump 1⟩
    · exact ⟨_, rfl, State.alarm_fells hup hsafe hdump 2⟩

end Sys2Proof.Machine
end

section
/-! Recoveries (R27 to R32, R455), and O48. -/

namespace Sys2Proof.Machine

theorem Fev.report_active (f : Fev) (r : Report) (t : Stamp) : (f.report r t).active = f.active :=
  congrArg (fun c => c.2.2.2.2.1) (Fev.report_core f r t)

/-- A scope's own report enters no safe state. -/
theorem Scope.report_mild (sc : Scope) (count absorbed : Nat) : (sc.report count absorbed).mild = true := by
  cases sc <;> rfl

theorem State.watched_up {s : State} (h : s.watched = true) : s.up = true ∧ s.dumped = false := by
  simp only [State.watched, Bool.and_eq_true, beq_iff_eq, Bool.not_eq_true'] at h
  obtain ⟨⟨hboot, hdump⟩, -⟩ := h
  exact ⟨by simp [State.up, hboot], hdump⟩

/-- A running device is neither in the safe state nor dumped. -/
theorem State.runs_awake {s : State} (h : s.runs = true) : s.fev.safe = false ∧ s.dumped = false := by
  simp only [State.runs, Bool.and_eq_true, Bool.not_eq_true'] at h
  simp_all

/-- What a fault in a watched scope does, by the verdict on it (R29 to R31). -/
theorem State.faultIn_judged {s : State} (hw : s.watched = true) (sc : Scope) :
    (s.fev.judge sc s.hours = .recovers → s.faultIn sc = State.recover { s with fev := s.fev.startRecovery sc s.stamp } sc)
    ∧ (s.fev.judge sc s.hours = .absorbed → s.faultIn sc = { s with fev := (s.faultIn sc).fev })
    ∧ (∀ e, s.fev.judge sc s.hours = .escalate e → s.faultIn sc = State.scopeFault 2 { s with fev := s.fev.escBit sc } e)
    ∧ (s.fev.judge sc s.hours = .fatal → s.fev.safe = false → Safety.fellSafe s (s.faultIn sc) 0x0B 0x04) := by
  rw [State.faultIn, if_pos hw]
  refine ⟨fun h => ?_, fun h => ?_, fun e h => ?_, fun h hsafe => ?_⟩ <;> rw [State.scopeFault, h]
  · dsimp only
    rw [State.report_mild (sc.report_mild _ _)]
  · exact (State.report_unsafe rfl hsafe (State.watched_up hw).2).1

/-- A core whose heartbeat stops is stopped, and its recovery is in progress (R30). -/
theorem exec_acHeartbeatMiss {s : State} {n : Nat} (hw : s.watched = true) (hn : n < 8) (hj : s.fev.judge (.core n) s.hours = .recovers) :
    ∃ t, exec (.acHeartbeatMiss n) s = .next t ∧ t.fev.active = .core n :: s.fev.active.filter (fun a => !(Scope.core n).contains a)
      ∧ t.mgc.acRun = s.mgc.acRun - s.mgc.acRun / 2 ^ n % 2 * 2 ^ n ∧ t = { s with fev := t.fev, mgc := { s.mgc with acRun := t.mgc.acRun } } := by
  have hexec : exec (.acHeartbeatMiss n) s = .next (s.faultIn (.core n)) := congrArg Host.Outcome.next (if_pos hn)
  rw [(State.faultIn_judged hw _).1 hj] at hexec
  refine ⟨_, hexec, ?_, rfl, rfl⟩
  rw [State.recover, Fev.startRecovery]
  exact Fev.report_active _ _ _

/-- An expiry of a channel's watchdog is met where the die stands (R29). -/
theorem exec_channelWatchdogExpiry {s g : State} {ch die due : Nat} (hw : s.watched = true) (hdie : s.fl.hw.hasDie die = true) (hch : die / 32 = ch)
    (hdue : s.fl.watchdogDue s.clock.now die = some due) (hg : g = s.until' due) :
    exec (.channelWatchdogExpiry ch die) s
      = .next (State.faultIn (if s.fev.safe = true then g else g.media (g.fl.dieExpiry g.clock.now g.hours die)) (.channel ch)) := by
  have hcond : (s.watched && s.fl.hw.hasDie die && die / 32 == ch) = true := by rw [hw, hdie, hch]; simp
  have hsafe : g.fev = s.fev := hg ▸ rfl
  change execChannelWatchdogExpiry ch die s = _
  rw [execChannelWatchdogExpiry, if_pos hcond, hdue]
  dsimp only
  rw [← hg, hsafe, ← apply_ite (fun g => State.faultIn g (.channel ch))]

theorem State.until'_watched (s : State) (t : Nat) : (s.until' t).watched = s.watched := rfl

/-- The Cameleer's watchdog: its record, and the recovery of the device or the next interval (R28). -/
theorem exec_cameleerWatchdogExpiry {s g h : State} {m : Nat} (hk : s.kicking = true) (hdev : s.fev.active.contains .device = false)
    (hg : g = s.until' (s.fev.kickedAt + 2500000)) (hh : h = { g with fev := { g.fev with regs := g.fev.regs.setFld .fevDevwdg 3 3 1 } }) :
    exec (.cameleerWatchdogExpiry m) s
      = .next (if s.watched = true then State.faultIn { h with mgc := { h.mgc with reload := some m } } .device
          else { h with fev := { h.fev with kickedAt := h.clock.now } }) := by
  have hgo : (!s.kicking || s.fev.active.contains .device) = false := by rw [hk, hdev]; rfl
  have hwatched : h.watched = s.watched := by
    rw [hh]
    exact (congrArg State.watched hg).trans (State.until'_watched s _)
  change execCameleerWatchdogExpiry m s = _
  rw [execCameleerWatchdogExpiry, hgo, if_neg Bool.false_ne_true]
  rw [← hg]
  dsimp only
  rw [← hwatched, hh]

/-- A recovery in progress that completes. -/
theorem State.recovered_there {s : State} {sc : Scope} (hr : s.runs = true) (ha : s.fev.active.contains sc = true) (f : State → State) :
    s.recovered sc f = f { s with fev := s.fev.endRecovery sc } := by
  rw [State.recovered, hr, ha]
  exact if_pos rfl

/-- A mask with bit `n` set has it set. -/
theorem bit_set_acRun (a n : Nat) : (a + (1 - a / 2 ^ n % 2) * 2 ^ n) / 2 ^ n % 2 = 1 := by
  rw [Nat.add_mul_div_right _ _ (Nat.two_pow_pos n)]
  omega

theorem exec_acRecoveryComplete {s : State} {n : Nat} (hr : s.runs = true) (ha : s.fev.active.contains (.core n) = true) :
    ∃ t, exec (.acRecoveryComplete n) s = .next t ∧ t.fev = s.fev.endRecovery (.core n) ∧ t.mgc.acRun / 2 ^ n % 2 = 1
      ∧ t = { s with fev := t.fev, mgc := { s.mgc with acRun := t.mgc.acRun } } :=
  ⟨_, congrArg Host.Outcome.next (State.recovered_there hr ha _), rfl, bit_set_acRun _ _, rfl⟩

/-- The units of a scope are back, where nothing else is due (R32). -/
theorem exec_unitRecoveryComplete {s u : State} {ch : Nat} (hr : s.runs = true) (ha : s.fev.active.contains (.channel ch) = true)
    (hu : u = { s with fev := s.fev.endRecovery (.channel ch) }) (hq : Safety.quiet (u.withFl (u.fl.channelsBack [ch]))) :
    ∃ t, exec (.unitRecoveryComplete ch) s = .next t ∧ t = u.withFl (u.fl.channelsBack [ch]) := by
  have hrun : u.runs = true := hu ▸ hr
  refine ⟨_, congrArg Host.Outcome.next (State.recovered_there hr ha _), ?_⟩
  rw [← hu]
  exact State.media_quiet hq hrun

theorem exec_clusterRecoveryComplete {s u : State} {k : Nat} (hr : s.runs = true) (ha : s.fev.active.contains (.cluster k) = true)
    (hu : u = { s with fev := { s.fev.endRecovery (.cluster k) with schedFrom := Tab.set (s.fev.endRecovery (.cluster k)).schedFrom k s.clock.now } })
    (hq : Safety.quiet (u.withFl (u.fl.channelsBack (clusterChannels k)))) :
    ∃ t, exec (.clusterRecoveryComplete k) s = .next t ∧ t = u.withFl (u.fl.channelsBack (clusterChannels k)) := by
  have hrun : u.runs = true := hu ▸ hr
  refine ⟨_, congrArg Host.Outcome.next (State.recovered_there hr ha _), ?_⟩
  have hfl : s.fl = u.fl := hu ▸ rfl
  dsimp only
  rw [← hu, hfl]
  exact State.media_quiet hq hrun

theorem exec_deviceRecoveryComplete_foreign {s : State} (hr : s.runs = true) (ha : s.fev.active.contains .device = true) (hne : s.reloaded ≠ s.sec.imageDigest) :
    ∃ t, exec .deviceRecoveryComplete s = .next t ∧ Safety.fellSafe s t 0x0B 0x08 := by
  have hcond : (s.runs && s.fev.active.contains .device && s.reloaded != s.sec.imageDigest) = true := by rw [hr, ha]; simpa using hne
  obtain ⟨hsafe, hdump⟩ := State.runs_awake hr
  exact ⟨_, congrArg Host.Outcome.next (if_pos hcond), (State.report_unsafe (r := mkReport 0x0B 0x08 0 0 0 0 0) rfl hsafe hdump).1⟩

theorem exec_deviceRecoveryComplete_same {s u : State} (hr : s.runs = true) (ha : s.fev.active.contains .device = true) (heq : s.reloaded = s.sec.imageDigest)
    (hu : u = ({ s with fev := s.fev.endRecovery .device } : State).deviceBack) (hq : Safety.quiet (u.withFl (u.fl.channelsBack u.fl.hw.channels))) :
    ∃ t, exec .deviceRecoveryComplete s = .next t ∧ t = u.withFl (u.fl.channelsBack u.fl.hw.channels) := by
  have hcond : ¬ (s.runs && s.fev.active.contains .device && s.reloaded != s.sec.imageDigest) = true := by rw [heq]; simp
  have hrun : u.runs = true := hu ▸ hr
  refine ⟨_, congrArg Host.Outcome.next ((if_neg hcond).trans (State.recovered_there hr ha _)), ?_⟩
  dsimp only
  rw [← hu]
  exact State.media_quiet hq hrun

/-- Settles O48: a fault by the verdict on its scope, each watchdog, and the end of each recovery. -/
theorem recoveries : Obligations.Recoveries := by
  refine ⟨fun s g c sc hw hc => ?_, fun s n hw hn hj => exec_acHeartbeatMiss hw hn hj,
    fun s g ch die due hw hdie hch hdue hg => ⟨_, exec_channelWatchdogExpiry hw hdie hch hdue hg, rfl⟩,
    fun s g m hk hdev hg => ⟨_, _, exec_cameleerWatchdogExpiry hk hdev hg rfl, rfl, fun hw => if_pos hw, fun hw => if_neg (ne_true_of_eq_false hw)⟩,
    fun s n hr ha => exec_acRecoveryComplete hr ha, fun s u ch hr ha hu hq => exec_unitRecoveryComplete hr ha hu hq,
    fun s u k hr ha hu hq => exec_clusterRecoveryComplete hr ha hu hq,
    fun s u hr ha => ⟨exec_deviceRecoveryComplete_foreign hr ha, fun heq hu hq => exec_deviceRecoveryComplete_same hr ha heq hu hq⟩⟩
  have hfault : exec c s = .next (g.faultIn sc) ∧ g.watched = true := by
    rcases hc with ⟨n, hn, rfl, rfl, rfl⟩ | ⟨k, rfl, rfl, hany, rfl⟩ | ⟨k, rfl, rfl, hany, hsafe, hactive, hdev, rfl⟩ | ⟨ch, rfl, rfl, hch, rfl⟩
    · exact ⟨congrArg Host.Outcome.next (if_pos hn), hw⟩
    · exact ⟨congrArg Host.Outcome.next (if_pos hany), hw⟩
    · refine ⟨congrArg Host.Outcome.next (if_pos ?_), hw⟩
      rw [hany, hw, hsafe, hactive, hdev]; rfl
    · refine ⟨congrArg Host.Outcome.next ((if_neg ?_).trans (if_pos hch)), hw⟩
      rw [(State.watched_up hw).1]; simp
  obtain ⟨hrecovers, habsorbed, hescalate, hfatal⟩ := State.faultIn_judged hfault.2 sc
  exact ⟨fun h => ⟨_, hfault.1, hrecovers h⟩, fun h => ⟨_, hfault.1, habsorbed h⟩, fun e h => ⟨_, hfault.1, hescalate e h⟩,
    fun h hsafe => ⟨_, hfault.1, hfatal h hsafe⟩⟩

end Sys2Proof.Machine
end

section
/-! Hold-up energy and temperature (R414 to R419, R428 to R433), and O49. -/

namespace Sys2Proof.Machine

/-- Warnings that stand already raise nothing. -/
theorem State.warn_still {s : State} (h : s.warnings = s.health.warning) : s.warn = s := by
  have hnone : ((List.range 5).filter fun b => natBits s.warnings b b == 1 && natBits s.health.warning b b == 0) = [] := by
    rw [List.filter_eq_nil_iff]
    intro b _
    rw [h]
    simp only [Bool.and_eq_true, beq_iff_eq]
    omega
  rw [State.warn]
  dsimp only
  rw [hnone, h]
  rfl

/-- A change of PTM's part where nothing else is due. -/
theorem State.power_quiet {s : State} {p : Ptm} (h : Safety.quiet { s with ptm := p }) : s.power p = { s with ptm := p } := by
  obtain ⟨hstill, -, hjudge⟩ := h
  obtain ⟨u, hu⟩ : ∃ u : State, u = { s with ptm := p } := ⟨_, rfl⟩
  rw [← hu] at hstill hjudge
  have hmode : u.judgeMode = u := by
    rw [State.judgeMode]
    split
    · have htold : u.told (u.fl, []) = u := State.told_still (f := u.fl) hstill
      dsimp only
      rw [hjudge, htold, if_neg (by cases u.fl.ptx.unp <;> simp)]
    · rfl
  rw [State.power, ← hu, hmode, State.warn_still hstill.2.2]

/-! ## Samples of V -/

theorem Ptm.sample_absent {p : Ptm} {mV : Nat} (now protmax : Nat) (hj : p.hue.judged = true) (hhi : p.board.vhmax < mV) (hpf : p.board.vpf ≤ mV)
    (hcount : 1 ≤ p.outCount) :
    (p.sample now mV protmax).2 = false ∧ (p.sample now mV protmax).1.hue = .absent ∧ (p.sample now mV protmax).1.v = mV := by
  have hdark : ¬ (p.hue = .dumping ∨ p.hue = .off) := by rintro (h | h) <;> simp [h, HueState.judged] at hj
  have hthere : ¬ p.hue = .absent := by intro h; simp [h, HueState.judged] at hj
  have hout : ({ p with v := mV } : Ptm).inBounds = false := by simp [Ptm.inBounds, hhi]
  have hpower : ¬ 2 ≤ (if p.hue ≠ .absent ∧ mV < p.board.vpf then p.pfCount + 1 else 0) := by
    rw [if_neg fun h => absurd h.2 (by omega)]
    omega
  have htwo : 2 ≤ p.outCount + 1 := by omega
  rw [Ptm.sample, if_neg hdark]
  dsimp only
  rw [hout, if_neg Bool.false_ne_true, if_neg hpower, if_neg hthere, if_pos htwo]
  exact ⟨rfl, rfl, rfl⟩

/-- A second sample below VPF is a power loss, and the state of the HUE stays judged (R421). -/
theorem Ptm.sample_loses {p : Ptm} {mV : Nat} (now protmax : Nat) (hj : p.hue.judged = true) (hpf : mV < p.board.vpf) (hcount : 1 ≤ p.pfCount) :
    (p.sample now mV protmax).2 = true ∧ (p.sample now mV protmax).1.hue.judged = true := by
  have hdark : ¬ (p.hue = .dumping ∨ p.hue = .off) := by rintro (h | h) <;> simp [h, HueState.judged] at hj
  have hthere : p.hue ≠ .absent := by intro h; simp [h, HueState.judged] at hj
  rw [Ptm.sample, if_neg hdark]
  dsimp only
  have htwo : 2 ≤ (if p.hue ≠ .absent ∧ mV < p.board.vpf then p.pfCount + 1 else 0) := by
    rw [if_pos ⟨hthere, hpf⟩]
    omega
  rw [if_pos htwo]
  exact ⟨rfl, hj⟩

section
variable {s u : State} {mV : Nat} {P : Ptm} (hup : s.up = true) (hj : s.ptm.hue.judged = true) (hu : u = s.until' (nextMultiple s.clock.now msT))
  (hP : P = (u.ptm.sample u.clock.now mV u.fl.ptx.protMax).1) (hq : Safety.quiet { u with ptm := P })
include hup hu hP hq

theorem exec_hueSample :
    exec (.hueSample mV) s
      = .next (if (u.ptm.sample u.clock.now mV u.fl.ptx.protMax).2 then State.powerLoss { u with ptm := P } else { u with ptm := P }) := by
  change execHueSample mV s = _
  rw [execHueSample, if_pos hup, ← hu]
  dsimp only
  rw [← hP, State.power_quiet hq]

include hj

theorem exec_hueSample_absent (hhi : s.ptm.board.vhmax < mV) (hpf : s.ptm.board.vpf ≤ mV) (hcount : 1 ≤ s.ptm.outCount) :
    ∃ t, exec (.hueSample mV) s = .next t ∧ t = { u with ptm := P } ∧ t.ptm.hue = .absent ∧ t.ptm.v = mV := by
  have hptm : u.ptm = s.ptm := by rw [hu, State.until'_ptm]
  have hsample := Ptm.sample_absent (p := u.ptm) u.clock.now u.fl.ptx.protMax (hptm ▸ hj) (hptm ▸ hhi) (hptm ▸ hpf) (hptm ▸ hcount)
  rw [← hP] at hsample
  refine ⟨_, exec_hueSample hup hu hP hq, ?_⟩
  rw [hsample.1]
  exact ⟨rfl, hsample.2⟩

theorem exec_hueSample_loses (hpf : mV < s.ptm.board.vpf) (hcount : 1 ≤ s.ptm.pfCount) :
    ∃ t, exec (.hueSample mV) s = .next t ∧ t.ptm.hue = .dumping ∧ t.ptm.dump.isSome = true ∧ t.fl.ptx.dump.isSome = true ∧ t.clock = u.clock ∧ t.mgc.acRun = 0 := by
  have hptm : u.ptm = s.ptm := by rw [hu, State.until'_ptm]
  have hsample := Ptm.sample_loses (p := u.ptm) u.clock.now u.fl.ptx.protMax (hptm ▸ hj) (hptm ▸ hpf) (hptm ▸ hcount)
  rw [← hP] at hsample
  refine ⟨_, exec_hueSample hup hu hP hq, ?_⟩
  rw [hsample.1, if_pos rfl, State.powerLoss, if_pos (by exact hsample.2)]
  exact ⟨rfl, rfl, rfl, rfl, rfl⟩

end

/-! ## Capacitor tests -/

theorem exec_hueRetestTimer {s : State} (hup : s.up = true) (hd : s.ptm.hue = .degraded) :
    ∃ t, exec .hueRetestTimer s = .next t ∧ t.ptm.testWanted = true ∧ t.clock.now = max s.clock.now (s.ptm.degradedAt + 60 * secT)
      ∧ t.ptm.degradedAt = t.clock.now ∧ t = { s with ptm := { s.ptm with testWanted := true, degradedAt := t.ptm.degradedAt }, clock := t.clock } := by
  obtain ⟨g, hg⟩ : ∃ g, g = s.until' (s.ptm.degradedAt + 60 * secT) := ⟨_, rfl⟩
  have hframe : g = { s with clock := g.clock } := hg.trans ((State.until'_frame _ _).trans (by rw [← hg]))
  have hnow : g.clock.now = max s.clock.now (s.ptm.degradedAt + 60 * secT) := by rw [hg, State.until'_now]
  have hwanted : g.ptm.schedule = { g.ptm with testWanted := true } := by
    have hhue : g.ptm.hue = .degraded := by rw [hframe]; exact hd
    have hjudged : (g.ptm.testWanted || g.ptm.hue.judged) = true := by rw [hhue]; exact Bool.or_true _
    rw [Ptm.schedule, hjudged]
  have hexec : exec .hueRetestTimer s = .next { g with ptm := { g.ptm.schedule with degradedAt := g.clock.now } } := by
    change execHueRetestTimer s = _
    rw [execHueRetestTimer, hup, hd, ← hg]
    rfl
  rw [hwanted] at hexec
  refine ⟨_, hexec, rfl, hnow, rfl, ?_⟩
  rw [hframe]

theorem exec_hueTestPeriodExpiry {s : State} {a : Nat} (hup : s.up = true) (ha : s.ptm.lastTest = some a) :
    ∃ t, exec .hueTestPeriodExpiry s = .next t ∧ t.clock.now = max s.clock.now (a + s.ptm.regs.fld .ptmHuecfg 7 0 * 3600 * secT)
      ∧ t = { s with ptm := s.ptm.schedule, clock := t.clock } := by
  obtain ⟨g, hg⟩ : ∃ g, g = s.until' (a + s.ptm.regs.fld .ptmHuecfg 7 0 * 3600 * secT) := ⟨_, rfl⟩
  have hframe : g = { s with clock := g.clock } := hg.trans ((State.until'_frame _ _).trans (by rw [← hg]))
  have hnow : g.clock.now = max s.clock.now (a + s.ptm.regs.fld .ptmHuecfg 7 0 * 3600 * secT) := by rw [hg, State.until'_now]
  have hexec : exec .hueTestPeriodExpiry s = .next { g with ptm := g.ptm.schedule } := by
    change execHueTestPeriodExpiry s = _
    rw [execHueTestPeriodExpiry, hup, ha]
    dsimp only
    rw [← hg]
  refine ⟨_, hexec, hnow, ?_⟩
  rw [hframe]

theorem exec_capTestStart {s : State} (hup : s.up = true) :
    exec .capTestStart s = .next { s with ptm := s.ptm.testStart s.clock.now } := congrArg Host.Outcome.next (if_pos hup)

/-- The dwell in a state keeps what a test left. -/
theorem Ptm.dwell_tested (p : Ptm) (now protmax : Nat) :
    (p.dwell now protmax).testRun = p.testRun ∧ (p.dwell now protmax).lastTest = p.lastTest ∧ (p.dwell now protmax).cap = p.cap
      ∧ (p.dwell now protmax).esr = p.esr := by
  rw [Ptm.dwell]
  split
  · split
    · exact ⟨rfl, rfl, rfl, rfl⟩
    · split <;> exact ⟨rfl, rfl, rfl, rfl⟩
  · exact ⟨rfl, rfl, rfl, rfl⟩

/-- What a finished test leaves (R416): on a pass C and ESR are taken, on a failure C stays. -/
theorem Ptm.testDone_judged {p : Ptm} {a : Nat} (h : p.testRun = some a) (now stampMs protmax v1 vs v2 : Nat) :
    (p.testDone now stampMs protmax v1 vs v2).testRun = none ∧ (p.testDone now stampMs protmax v1 vs v2).lastTest = some now
      ∧ ∀ c esr, testResult p.board.rtest v1 vs v2 = some (c, esr) →
        (p.board.passes c esr = true → (p.testDone now stampMs protmax v1 vs v2).cap = some c ∧ (p.testDone now stampMs protmax v1 vs v2).esr = esr)
        ∧ (p.board.passes c esr = false → (p.testDone now stampMs protmax v1 vs v2).cap = p.cap ∧ (p.testDone now stampMs protmax v1 vs v2).testFail = true
          ∧ (p.testDone now stampMs protmax v1 vs v2).testFails = p.testFails + 1) := by
  rw [Ptm.testDone, h]
  dsimp only
  cases hresult : testResult p.board.rtest v1 vs v2 with
  | none =>
    dsimp only
    split <;> exact ⟨rfl, rfl, fun c esr h => absurd h (by simp)⟩
  | some r =>
    obtain ⟨c, esr⟩ := r
    dsimp only
    by_cases hpass : p.board.passes c esr = true
    · rw [if_pos hpass]
      obtain ⟨hrun, hlast, hcap, hesr⟩ := Ptm.dwell_tested
        { p with testRun := none, lastTest := some now, lastTestStamp := stampMs, degradedAt := now, cap := some c, esr := esr, testFail := false, passed := true } now protmax
      refine ⟨hrun, hlast, fun c' esr' h => ?_⟩
      obtain ⟨rfl, rfl⟩ : c = c' ∧ esr = esr' := by simpa using h
      exact ⟨fun _ => ⟨hcap, hesr⟩, fun hfail => absurd (hpass.symm.trans hfail) (by simp)⟩
    · rw [if_neg hpass]
      have hfails (c' : Rat) (esr' : Rat) (h : some (c, esr) = some (c', esr')) : ¬ p.board.passes c' esr' = true := by
        obtain ⟨rfl, rfl⟩ : c = c' ∧ esr = esr' := by simpa using h
        exact hpass
      split <;> exact ⟨rfl, rfl, fun c' esr' h => ⟨fun hp => absurd hp (hfails c' esr' h), fun _ => ⟨rfl, rfl, rfl⟩⟩⟩

theorem exec_capTestComplete {s u : State} {a v1 vs v2 : Nat} {P : Ptm} (hup : s.up = true) (ha : s.ptm.testRun = some a) (hu : u = s.until' (a + 12 * msT))
    (hP : P = u.ptm.testDone u.clock.now u.stampMs u.fl.ptx.protMax v1 vs v2) (hq : Safety.quiet { u with ptm := P }) :
    ∃ t, exec (.capTestComplete v1 vs v2) s = .next t ∧ t = { u with ptm := P } ∧ t.ptm.testRun = none ∧ t.ptm.lastTest = some u.clock.now
      ∧ ∀ c esr, testResult s.ptm.board.rtest v1 vs v2 = some (c, esr) →
        (s.ptm.board.passes c esr = true → t.ptm.cap = some c ∧ t.ptm.esr = esr)
        ∧ (s.ptm.board.passes c esr = false → t.ptm.cap = s.ptm.cap ∧ t.ptm.testFail = true ∧ t.ptm.testFails = s.ptm.testFails + 1) := by
  have hptm : u.ptm = s.ptm := by rw [hu, State.until'_ptm]
  have hexec : exec (.capTestComplete v1 vs v2) s = .next { u with ptm := P } := by
    change execCapTestComplete v1 vs v2 s = _
    rw [execCapTestComplete, hup, ha]
    dsimp only
    rw [← hu, ← hP, State.power_quiet hq]
  have hdone := Ptm.testDone_judged (p := u.ptm) (hptm ▸ ha) u.clock.now u.stampMs u.fl.ptx.protMax v1 vs v2
  rw [← hP, hptm] at hdone
  exact ⟨_, hexec, rfl, hdone⟩

/-! ## Sensors and the throttle -/

theorem exec_sensorSample {s g : State} {readings : List Int} {P : Ptm × List Report} (hup : s.up = true) (hdump : s.dumped = false)
    (hg : g = s.until' (nextMultiple s.clock.now (10 * msT)))
    (hP : P = g.ptm.sensorSample g.clock.now readings g.part.minTj (g.tas.rates g.clock.now).1 (g.tas.rates g.clock.now).2) :
    exec (.sensorSample readings) s = .next (State.reports { g with
        ptm := P.1, health := g.health.sampled P.1.composite (g.ptm.throttle == .none && P.1.throttle == .active)
        qce := g.qce.temperature g.ptm.composite P.1.composite } P.2).warn := by
  have hcond : (s.up && !s.dumped) = true := by rw [hup, hdump]; rfl
  change execSensorSample readings s = _
  rw [execSensorSample, if_pos hcond, ← hg, hP]

theorem exec_nandTemperatureRead {s : State} {k : Nat} {readings : Tab Int} {P : Ptm × List Report} (hr : s.runs = true) (hk : k < 8)
    (hP : P = s.ptm.nandRead s.clock.now k (Tab.keep readings fun c _ => s.fl.hw.hasChannel c)) :
    exec (.nandTemperatureRead k readings) s = .next ((({ s with ptm := P.1 } : State).nandBands k).reports P.2).warn := by
  change execNandTemperatureRead k readings s = _
  rw [execNandTemperatureRead, State.whenRuns_on hr, if_pos hk, hP]

/-- The next multiple of a period lies ahead. -/
theorem le_nextMultiple (now : Nat) {period : Nat} (h : 0 < period) : now ≤ nextMultiple now period := by
  rw [nextMultiple, Nat.mul_comm]
  exact (Nat.lt_mul_div_succ now h).le

/-- The throttle's level is set again at the next multiple of 100 ms (R433). -/
theorem exec_throttleLevelUpdate {s : State} (hup : s.up = true) (hdump : s.dumped = false) (hthr : s.ptm.throttle = .active) :
    ∃ t, exec .throttleLevelUpdate s = .next t ∧ t.clock.now = nextMultiple s.clock.now (100 * msT) ∧ t = { s with ptm := s.ptm.levelNow, clock := t.clock } := by
  obtain ⟨g, hg⟩ : ∃ g, g = s.until' (nextMultiple s.clock.now (100 * msT)) := ⟨_, rfl⟩
  have hframe : g = { s with clock := g.clock } := hg.trans ((State.until'_frame _ _).trans (by rw [← hg]))
  have hnow : g.clock.now = nextMultiple s.clock.now (100 * msT) := by
    rw [hg, State.until'_now, max_eq_right (le_nextMultiple _ (by decide))]
  have hcond : (s.up && !s.dumped && s.ptm.throttle == .active) = true := by rw [hup, hdump, hthr]; rfl
  have hexec : exec .throttleLevelUpdate s = .next { g with ptm := g.ptm.levelNow } := by
    change execThrottleLevelUpdate s = _
    rw [execThrottleLevelUpdate, if_pos hcond, ← hg]
  refine ⟨_, hexec, hnow, ?_⟩
  rw [hframe]

/-- TESTGO schedules a capacitor test where the HUE is judged (R416, R419). -/
theorem exec_ptmHuestatTestgo {s : State} {r : Requester} (h : Safety.served s r .ptmHuestat) :
    ∃ t, exec (.ptmHuestatTestgo r) s = .next t
      ∧ t = { s with ptm := { s.ptm with regs := t.ptm.regs, testWanted := s.ptm.testWanted || s.ptm.hue.judged } } :=
  ⟨_, congrArg Host.Outcome.next (served_write h 0x08000000 fun g => g.testGo 0x08000000), rfl⟩

/-- Settles O49: samples of V, tests of the capacitors, sensors and the throttle's level. -/
theorem powerAndThermal : Obligations.PowerAndThermal := by
  refine ⟨fun s u mV P hup hj hu hP hq => ⟨exec_hueSample_absent hup hj hu hP hq, exec_hueSample_loses hup hj hu hP hq⟩,
    fun s hup hd => exec_hueRetestTimer hup hd, fun s a hup ha => exec_hueTestPeriodExpiry hup ha,
    fun s hup => ⟨fun h => ⟨_, exec_capTestStart hup, ?_⟩, fun h => ⟨_, exec_capTestStart hup, ?_⟩⟩, fun s r h => exec_ptmHuestatTestgo h,
    fun s u a v1 vs v2 P hup ha hu hP hq => exec_capTestComplete hup ha hu hP hq,
    fun s g readings P hup hdump hg hP => ⟨_, exec_sensorSample hup hdump hg hP, rfl⟩,
    fun s k readings P hr hk hP => ⟨_, exec_nandTemperatureRead hr hk hP, rfl⟩, fun s hup hdump hthr => exec_throttleLevelUpdate hup hdump hthr⟩
  · rw [Ptm.testStart, if_pos h]
  · rw [Ptm.testStart, if_neg (ne_true_of_eq_false h)]

end Sys2Proof.Machine
end

section
/-! What a die reports (R29, R237, R239, R243 to R249, R279), and O50. -/

namespace Sys2Proof.Machine

theorem State.until'_runs (s : State) (t : Nat) : (s.until' t).runs = s.runs := rfl

section
variable {s : State} (hr : s.runs = true)
include hr

theorem State.onMedia_runs (f : State → Flash × List Note) : s.onMedia f = .next (s.media (f s)) := by
  rw [State.onMedia, State.whenRuns_on hr]

theorem State.onDie_runs {d : Nat} (hd : s.dieRuns d = true) (f : State → Flash × List Note) : s.onDie d f = .next (s.media (f s)) := by
  rw [State.onDie, State.onMedia_runs hr, if_pos hd]

/-- What a media event leaves where nothing else is due. -/
theorem State.onMedia_quiet {e : State → Flash × List Note} {f : Flash} (he : e s = (f, [])) (hq : Safety.quiet (s.withFl f)) :
    ∃ t, s.onMedia e = .next t ∧ t = s.withFl f := by
  refine ⟨_, State.onMedia_runs hr e, ?_⟩
  rw [he, State.media_quiet hq hr]

theorem State.onDie_quiet {d : Nat} (hd : s.dieRuns d = true) {e : State → Flash × List Note} {f : Flash} (he : e s = (f, []))
    (hq : Safety.quiet (s.withFl f)) : ∃ t, s.onDie d e = .next t ∧ t = s.withFl f := by
  refine ⟨_, State.onDie_runs hr hd e, ?_⟩
  rw [he, State.media_quiet hq hr]

end

/-! ## What each report makes of the die -/

theorem Flash.suspended_die {f : Flash} {d : Nat} {o : Op} (now : Nat) (hs : (f.die d).suspending = true) (ho : (f.die d).op = some o) :
    f.suspended now d = f.setDie d { f.die d with
      st := if o.kind.isErase then .es else .ps, op := some { o with ran := o.ranAt now, suspends := o.suspends + 1 }, suspending := false
      holdEnd := now + (if o.kind.isErase then f.eholdT d else f.pholdT d), holdOver := false } := by
  rw [Flash.suspended, Flash.updDie, hs, ho]

/-- The only read of a die ends: its job goes on to the transfer. -/
theorem Flash.readDone_die {f : Flash} {d id at' : Nat} {j : Job} (hreads : (f.die d).reads = [(id, at')]) (hj : Tab.get? f.dip.jobs id = some j)
    (hstage : j.stage = .running) :
    f.readDone d id = (f.setDie d ({ f.die d with reads := [] } : Die).readsDone).setJob id { j with stage := .transfer } := by
  have hany : ((f.die d).reads.any fun r => r.1 == id) = true := by simp [hreads]
  have hnone : ((f.die d).reads.filter fun r => r.1 != id) = [] := by simp [hreads]
  have hget : Tab.get? (f.setDie d ({ f.die d with reads := [] } : Die).readsDone).dip.jobs id = some j := hj
  rw [Flash.readDone, if_pos hany, Flash.updDie, hnone]
  dsimp only
  rw [hget]
  dsimp only
  rw [hstage, if_pos (by rfl)]

theorem Flash.resetDone_ok {f : Flash} {d : Nat} (now hours : Nat) (h : (f.die d).st = .reset) :
    f.resetDone now hours d true = (f.setDie d { f.die d with st := .idle, resets := 0 }, []) := by
  rw [Flash.resetDone]
  exact (if_pos h).trans (if_pos rfl)

/-- A first reset that fails is tried again (R29). -/
theorem Flash.resetDone_again {f : Flash} {d : Nat} (now hours : Nat) (h : (f.die d).st = .reset) (h0 : (f.die d).resets = 0) :
    f.resetDone now hours d false = (f.setDie d { f.die d with resets := 1, resetAt := now }, []) := by
  rw [Flash.resetDone]
  refine (if_pos h).trans ((if_neg Bool.false_ne_true).trans ((if_neg (by omega)).trans ?_))
  rw [h0]

/-- A second reset that fails takes the die out (R29). -/
theorem Flash.resetDone_out {f : Flash} {d : Nat} (now hours : Nat) (h : (f.die d).st = .reset) (h1 : 1 ≤ (f.die d).resets) :
    f.resetDone now hours d false = f.dieOut now hours d 3 false := by
  rw [Flash.resetDone]
  exact (if_pos h).trans ((if_neg Bool.false_ne_true).trans (if_pos h1))

/-- NESTWAIT ends: the erase is suspended for a nested program, unless it has nested all it may (R248). -/
theorem Flash.nestExpired_erase {f : Flash} {now d : Nat} (hours : Nat) {o : Op} (hst : (f.die d).st = .erase) (ho : (f.die d).op = some o)
    (hmay : f.maySuspend now d = true) (hreg : f.mbe.regs.bit (.mbeSchedcfg (dieCluster d)) 28 = true) (hflag : (f.hw.desc d).flags.testBit 2 = true)
    (hany : (f.die d).internal.any (f.nestable now d) = true) :
    f.nestExpired now hours d = (if o.nests < (f.hw.desc d).nestmax then f.suspend now d else f, []) := by
  have hopen : f.nestOpen now d = decide (o.nests < (f.hw.desc d).nestmax) := by
    rw [Flash.nestOpen, hreg, hflag, ho, hany]
    simp
  rw [Flash.nestExpired, hst]
  dsimp only
  rw [hmay, hopen, Bool.true_and]
  simp only [decide_eq_true_eq]

theorem Flash.transferDone_staged {f : Flash} {ch id : Nat} {j : Job} {rest : List (Nat × Job)} (now : Nat) (hq : f.transferring ch = (id, j) :: rest)
    (hstage : j.stage = .transfer) : f.transferDone now ch = f.setJob id { j with stage := .staged, readsLeft := 0 } := by
  rw [Flash.transferDone, hq]
  dsimp only
  rw [hstage, if_pos (by rfl)]

theorem exec_frameTransferDone {s : State} {ch id : Nat} {j : Job} {rest : List (Nat × Job)} (hr : s.runs = true) (hch : s.fl.hw.hasChannel ch = true)
    (hst : Tab.getD s.fl.mbe.chSt ch 0 = 2) (hq : s.fl.transferring ch = (id, j) :: rest) (hstage : j.stage = .transfer)
    (hquiet : Safety.quiet (s.withFl (s.fl.setJob id { j with stage := .staged, readsLeft := 0 }))) :
    ∃ t, exec (.frameTransferDone ch) s = .next t ∧ t = s.withFl (s.fl.setJob id { j with stage := .staged, readsLeft := 0 }) := by
  refine State.onMedia_quiet hr ?_ hquiet
  have hcond : (s.fl.hw.hasChannel ch && Tab.getD s.fl.mbe.chSt ch 0 == 2) = true := by rw [hch, hst]; rfl
  rw [if_pos hcond, Flash.transferDone_staged _ hq hstage]

/-! ## The hold's expiry and a day without an expiry -/

/-- A die whose hold is over, with what MBE_SCHEDSTAT shows of host reads that wait (R245). -/
def Flash.holdEnded (f : Flash) (d : Nat) : Flash :=
  { f.setDie d { f.die d with holdOver := true } with
    mbe := { (f.setDie d { f.die d with holdOver := true }).mbe with
      regs := if (f.die d).host = [] then f.mbe.regs else f.mbe.regs.setFld (.mbeSchedstat (dieCluster d)) 15 15 1 } }

theorem Flash.holdExpired_busy {f : Flash} {d : Nat} (now : Nat) (recovering : Nat → Bool)
    (h : (f.die d).st = .psRead ∨ (f.die d).st = .esRead ∨ (f.die d).st = .esProg) :
    f.holdExpired now d recovering = (f.holdEnded d).decideAll now d recovering := by
  have hended : (if (f.die d).host.isEmpty then f.updDie d fun x => { x with holdOver := true }
      else { f.updDie d fun x => { x with holdOver := true } with
        mbe := { (f.updDie d fun x => { x with holdOver := true }).mbe with
          regs := (f.updDie d fun x => { x with holdOver := true }).mbe.regs.setFld (.mbeSchedstat (dieCluster d)) 15 15 1 } }) = f.holdEnded d := by
    rw [Flash.holdEnded]
    cases (f.die d).host <;> rfl
  rw [Flash.holdExpired]
  dsimp only
  rw [hended]
  rcases h with h | h | h <;> rw [h] <;> rfl

theorem exec_suspendHoldExpiry {s g : State} {d : Nat} {f : Flash} (hr : s.runs = true) (hd : s.dieRuns d = true) (hg : g = s.until' (s.fl.die d).holdEnd)
    (hst : (s.fl.die d).st = .psRead ∨ (s.fl.die d).st = .esRead ∨ (s.fl.die d).st = .esProg) (hq : Safety.quiet (g.withFl f))
    (hf : f = (s.fl.holdEnded d).decideAll g.clock.now d g.recovering) :
    ∃ t, exec (.suspendHoldExpiry d) s = .next t ∧ t = g.withFl f := by
  have hfl : g.fl = s.fl := by rw [hg, State.until'_fl]
  have hrun : g.runs = true := by rw [hg, State.until'_runs, hr]
  have hexec : exec (.suspendHoldExpiry d) s = .next (g.media (g.fl.holdExpired g.clock.now d g.recovering, [])) := by
    change execSuspendHoldExpiry d s = _
    rw [execSuspendHoldExpiry, State.whenRuns_on hr, if_pos hd, ← hg]
  refine ⟨_, hexec, ?_⟩
  rw [hfl, Flash.holdExpired_busy _ _ hst, ← hf, State.media_quiet hq hrun]

theorem exec_dieSuspectClear {s g : State} {d : Nat} {f : Flash} (hr : s.runs = true) (hsus : (s.fl.dieRec d).health = .suspect)
    (hg : g = s.until' ((s.fl.dieRec d).suspectAt + dayT)) (hf : f = s.fl.setDieRec d { s.fl.dieRec d with health := .inService, expiries := [] })
    (hq : Safety.quiet (g.withFl f)) : ∃ t, exec (.dieSuspectClear d) s = .next t ∧ t = g.withFl f := by
  have hfl : g.fl = s.fl := by rw [hg, State.until'_fl]
  have hrun : g.runs = true := by rw [hg, State.until'_runs, hr]
  have hnow : (s.fl.dieRec d).suspectAt + dayT ≤ g.clock.now := by
    rw [hg, State.until'_now]
    exact Nat.le_max_right _ _
  have hclear : s.fl.suspectClear g.clock.now d = f := by
    rw [Flash.suspectClear, hf, hsus, decide_eq_true hnow]
    rfl
  have hexec : exec (.dieSuspectClear d) s = .next (g.media (g.fl.suspectClear g.clock.now d, [])) := by
    change execDieSuspectClear d s = _
    rw [execDieSuspectClear, State.whenRuns_on hr, if_pos hsus, ← hg]
  refine ⟨_, hexec, ?_⟩
  rw [hfl, hclear, State.media_quiet hq hrun]

/-! ## The status of a program and of an erase -/

theorem Flash.programStatus_passed {f : Flash} {d id key : Nat} {o : Op} {w : Wordline} {b : Band} (now hours : Nat) (hst : (f.die d).st = .prog)
    (ho : (f.die d).op = some o) (hkind : o.kind = .program id) (hw : Tab.get? f.ptx.wls id = some w) (hb : Tab.get? f.ptx.bands w.band = some b)
    (hset : b.set.find? (fun y => y.1 == d) = some (d, key)) :
    f.programStatus now hours d true
      = ((f.setDie d { f.die d with st := .idle, op := none, suspending := false }).setBlk (blkKey d key)
          { f.blk (blkKey d key) with
            done := w.wl * (f.hw.desc d).step b.slc + (f.hw.desc d).step b.slc
            st := if (f.hw.desc d).units b.slc ≤ w.wl * (f.hw.desc d).step b.slc + (f.hw.desc d).step b.slc then .full
              else (f.blk (blkKey d key)).st }).programPassed now hours id d := by
  obtain ⟨g, hg⟩ : ∃ g : Flash, g = f.setDie d { f.die d with st := .idle, op := none, suspending := false } := ⟨_, rfl⟩
  have hw' : Tab.get? g.ptx.wls id = some w := hg ▸ hw
  have hb' : Tab.get? g.ptx.bands w.band = some b := hg ▸ hb
  have hhw : g.hw = f.hw := hg ▸ rfl
  have hblk : g.blk (blkKey d key) = f.blk (blkKey d key) := hg ▸ rfl
  rw [Flash.programStatus, hst, ho]
  dsimp only [Option.map]
  rw [hkind, if_neg Bool.false_ne_true, ← hg]
  dsimp only
  rw [hw']
  dsimp only
  rw [hb']
  dsimp only
  rw [hset, Option.getD_some, if_pos rfl, hhw, hblk]

theorem Flash.eraseDone_status {f : Flash} {d key : Nat} {o : Op} {band : Option Nat} {slc : Bool} (now hours : Nat) (pass : Bool) (hst : (f.die d).st = .erase)
    (ho : (f.die d).op = some o) (hkind : o.kind = .erase key band slc) :
    f.eraseDone now hours d pass
      = (f.setDie d { f.die d with st := .idle, op := none, suspending := false }).eraseStatus now hours key band slc pass := by
  obtain ⟨kind, from', ran, suspends, resumes, nests⟩ := o
  obtain rfl : kind = .erase key band slc := hkind
  rw [Flash.eraseDone, hst, ho]

/-- A device that does not run takes the die's status alone: nothing follows from it. -/
theorem exec_status_stopped {s : State} {d : Nat} {pass : Bool} {i : Instr} (hi : i = .wordlineProgramStatus d pass ∨ i = .eraseStatus d pass)
    (hr : s.runs = false) (hup : s.up = true) : exec i s = .next (s.withFl (s.fl.quietEnd d)) := by
  rcases hi with rfl | rfl
  · change execWordlineProgramStatus d pass s = _
    rw [execWordlineProgramStatus, hr, if_neg Bool.false_ne_true, if_pos hup]
  · change execEraseStatus d pass s = _
    rw [execEraseStatus, hr, if_neg Bool.false_ne_true, if_pos hup]

theorem Flash.quietEnd_die (f : Flash) (d : Nat) :
    ((f.die d).st = .prog ∨ (f.die d).st = .erase → f.quietEnd d = f.setDie d { f.die d with st := .idle, op := none, suspending := false })
      ∧ ((f.die d).st = .esProg → f.quietEnd d = f.setDie d { f.die d with st := .es, nested := none }) := by
  rw [Flash.quietEnd, Flash.updDie]
  refine ⟨fun h => ?_, fun h => ?_⟩
  · rcases h with h | h <;> rw [h]
  · rw [h]

/-- Settles O50: what each report of a die makes of it, of its job and of its blocks. -/
theorem dieOperations : Obligations.DieOperations := by
  refine ⟨fun s d f hr hd hq => ⟨fun o hs ho hf => ?_, fun id at' j hreads hj hstage hf => ?_, fun hst hf => ?_, fun hst h0 hf => ?_,
      fun o hst ho hmay hreg hflag hany hf => ?_⟩,
    fun s ch id j rest hr hch hst hqueue hstage hq => exec_frameTransferDone hr hch hst hqueue hstage hq, fun s d hr hst h1 => ?_,
    fun s g d f hr hd hg hst hq hf => exec_suspendHoldExpiry hr hd hg hst hq hf, fun s g d f hr hsus hg hf hq => exec_dieSuspectClear hr hsus hg hf hq,
    fun s d o hr hd ho => ⟨fun id w b key step r hst hkind hw hb hset hrec hstep => ?_, fun key band slc pass hst hkind => ?_⟩,
    fun s d pass i hi hr hup => ?_⟩
  · exact State.onDie_quiet hr hd (by rw [hf, Flash.suspended_die _ hs ho]) hq
  · refine State.onDie_quiet hr hd ?_ hq
    rw [hf, Flash.readDone_die hreads hj hstage, Die.readsDone, if_pos (by rfl)] <;> rfl
  · exact State.onMedia_quiet hr (by rw [hf]; exact Flash.resetDone_ok _ _ hst) hq
  · exact State.onMedia_quiet hr (by rw [hf]; exact Flash.resetDone_again _ _ hst h0) hq
  · exact State.onDie_quiet hr hd (by rw [hf]; exact Flash.nestExpired_erase _ hst ho hmay hreg hflag hany) hq
  · exact ⟨_, State.onMedia_runs hr _, congrArg s.media (Flash.resetDone_out _ _ hst h1)⟩
  · refine ⟨_, congrArg Host.Outcome.next ((if_pos hr).trans (if_pos hd)), ?_⟩
    rw [Flash.programStatus_passed _ _ hst ho hkind hw hb hset, hrec, hstep]
  · refine ⟨_, congrArg Host.Outcome.next ((if_pos hr).trans (if_pos hd)), ?_⟩
    rw [Flash.eraseDone_status _ _ _ hst ho hkind]
  · obtain ⟨hfirst, hnested⟩ := s.fl.quietEnd_die d
    exact ⟨_, exec_status_stopped hi hr hup, fun h => congrArg s.withFl (hfirst h), fun h => congrArg s.withFl (hnested h)⟩

end Sys2Proof.Machine
end

section
/-! What a scheduler decides (R236, R248, R301 to R305), and O51. -/

namespace Sys2Proof.Machine

/-! ## The choice of a die's next work (R301) -/

section
variable {f : Flash} {now hours d : Nat} {recovering : Nat → Bool}

theorem Flash.selectWork_dueFirst (hst : (f.die d).st = .idle) (hdue : (f.die d).internal.any (f.dueFirst now d) = true) :
    f.selectWork now hours d recovering = f.issueInternal now hours d (f.dueFirst now d) false := by
  rw [Flash.selectWork, hst]
  exact if_pos hdue

theorem Flash.selectWork_host (hst : (f.die d).st = .idle) (hdue : (f.die d).internal.any (f.dueFirst now d) = false) (hwadi : f.wadiNext d = false)
    (hhost : (f.die d).host ≠ []) : f.selectWork now hours d recovering = f.readOn now d recovering := by
  rw [Flash.selectWork, hst]
  refine (if_neg (ne_true_of_eq_false hdue)).trans ((if_neg (ne_true_of_eq_false hwadi)).trans (if_pos ?_))
  simpa using hhost

theorem Flash.selectWork_erase {key : Nat} (hst : (f.die d).st = .idle) (hdue : (f.die d).internal.any (f.dueFirst now d) = false)
    (hfree : f.wadiNext d = true ∨ (f.die d).host = [] ∧ (f.die d).internal = []) (hkey : f.nextErase d = some key) :
    f.selectWork now hours d recovering = f.issueOp now hours d (.erase key none (f.blk key).pool) false := by
  have hfirst : f.firstErase now hours d = f.issueOp now hours d (.erase key none (f.blk key).pool) false := by rw [Flash.firstErase, hkey]
  rw [Flash.selectWork, hst, ← hfirst]
  refine (if_neg (ne_true_of_eq_false hdue)).trans ?_
  by_cases hwadi : f.wadiNext d = true
  · exact if_pos hwadi
  · obtain ⟨hhost, hint⟩ := hfree.resolve_left hwadi
    refine (if_neg hwadi).trans ((if_neg ?_).trans (if_pos ?_))
    · rw [hhost]; simp
    · rw [hint]; rfl

theorem Flash.selectWork_internal (hst : (f.die d).st = .idle) (hdue : (f.die d).internal.any (f.dueFirst now d) = false) (hwadi : f.wadiNext d = false)
    (hhost : (f.die d).host = []) (hint : (f.die d).internal ≠ []) :
    f.selectWork now hours d recovering = f.issueInternal now hours d (fun _ => true) false := by
  rw [Flash.selectWork, hst]
  refine (if_neg (ne_true_of_eq_false hdue)).trans ((if_neg (ne_true_of_eq_false hwadi)).trans ((if_neg ?_).trans (if_neg ?_)))
  · rw [hhost]; simp
  · simpa using hint

/-- Host reads of a suspended die may not start: none waits, or its hold has passed. -/
theorem Flash.no_read {f : Flash} {now d : Nat} (h : (f.die d).host = [] ∨ f.holdPast now d = true) :
    ¬ (!(f.die d).host.isEmpty && !f.holdPast now d) = true := by
  rcases h with h | h <;> simp [h]

theorem Flash.selectWork_resume (hst : (f.die d).st = .ps ∨ (f.die d).st = .es ∧ f.mayNest now d = false)
    (hidle : (f.die d).host = [] ∨ f.holdPast now d = true) : f.selectWork now hours d recovering = (f.resume now d, []) := by
  rcases hst with hst | ⟨hst, hnest⟩ <;> rw [Flash.selectWork, hst]
  · exact if_neg (Flash.no_read hidle)
  · exact (if_neg (Flash.no_read hidle)).trans (if_neg (ne_true_of_eq_false hnest))

theorem Flash.selectWork_nest (hst : (f.die d).st = .es) (hnest : f.mayNest now d = true) (hhost : (f.die d).host = []) :
    f.selectWork now hours d recovering = f.issueInternal now hours d (f.nestable now d) true := by
  rw [Flash.selectWork, hst]
  exact (if_neg (Flash.no_read (.inl hhost))).trans (if_pos hnest)

theorem Flash.selectWork_suspended (hst : (f.die d).st = .ps ∨ (f.die d).st = .es) (hhost : (f.die d).host ≠ []) (hhold : f.holdPast now d = false) :
    f.selectWork now hours d recovering = f.readOn now d recovering := by
  have hreads : (!(f.die d).host.isEmpty && !f.holdPast now d) = true := by simp [hhost, hhold]
  rcases hst with hst | hst <;> rw [Flash.selectWork, hst]
  · exact if_pos hreads
  · exact if_pos hreads

theorem Flash.selectWork_programming (hst : (f.die d).st = .prog ∨ (f.die d).st = .esProg) :
    f.selectWork now hours d recovering = (f.decideAll now d recovering, []) := by
  rcases hst with hst | hst <;> rw [Flash.selectWork, hst]

/-- A die that resets takes no work, nor does one out of service without internal work. -/
theorem Flash.selectWork_none (h : (f.die d).st = .reset ∨ (f.die d).st = .out ∧ (f.die d).internal = []) :
    f.selectWork now hours d recovering = (f, []) := by
  rcases h with hst | ⟨hst, hint⟩ <;> rw [Flash.selectWork, hst]
  dsimp only
  rw [Flash.issueInternal, Flash.nextInternal, hint]
  rfl

end

/-- Where nothing is due, a media event without a change leaves the state. -/
theorem State.media_still {s : State} (hr : s.runs = true) (hq : Safety.quiet s) : s.media (s.fl, []) = s := State.media_quiet (f := s.fl) hq hr

section
variable {s : State} {d : Nat} (hr : s.runs = true)
include hr

theorem exec_dieWorkSelect (hd : s.dieRuns d = true) :
    exec (.dieWorkSelect d) s = .next (s.media (s.fl.selectWork s.clock.now s.hours d s.recovering)) := by
  refine (State.onMedia_runs hr _).trans ?_
  rw [if_pos hd]

/-- In a scope that recovers the reads wait or become Mirage reads (R303). -/
theorem exec_dieWorkSelect_recovering (hdie : s.fl.hw.hasDie d = true) (hrec : s.recovering d = true) :
    exec (.dieWorkSelect d) s = .next (s.media (s.fl.mirageWaiting s.clock.now d s.recovering, [])) := by
  have hstopped : s.dieRuns d = false := by simp [State.dieRuns, hrec]
  refine (State.onMedia_runs hr _).trans ?_
  rw [hstopped, if_neg Bool.false_ne_true, hdie, hrec]
  rfl

theorem exec_typicalTimePassed (hd : s.dieRuns d = true) :
    exec (.typicalTimePassed d) s = .next (s.media (s.fl.typicalPassed s.clock.now d s.recovering, [])) := State.onDie_runs hr hd _

/-- INTMAX has passed for the oldest internal operation: it goes first (R302). -/
theorem exec_intmaxExpiry {g : State} {q : Queued} {rest : List Queued} (hd : s.dieRuns d = true) (hint : (s.fl.die d).internal = q :: rest)
    (hst : (s.fl.die d).st = .idle) (hg : g = s.until' (q.since + s.fl.intmaxT d)) :
    exec (.intmaxExpiry d) s = .next (g.media (s.fl.issueInternal g.clock.now g.hours d (s.fl.dueFirst g.clock.now d) false)) := by
  have hfl : g.fl = s.fl := by rw [hg, State.until'_fl]
  have hnow : q.since + s.fl.intmaxT d ≤ g.clock.now := by
    rw [hg, State.until'_now]
    exact Nat.le_max_right _ _
  have hdue : (s.fl.die d).internal.any (s.fl.dueFirst g.clock.now d) = true := by
    rw [hint, List.any_cons, Flash.dueFirst, decide_eq_true hnow, Bool.or_true, Bool.true_or]
  change execIntmaxExpiry d s = _
  rw [execIntmaxExpiry, State.whenRuns_on hr, hint, List.head?_cons]
  dsimp only
  rw [if_pos hd, ← hg, hfl, Flash.selectWork_dueFirst hst hdue]

end

/-! ## What a cluster publishes, and calibration -/

/-- The die states that cluster `k` publishes (R305). -/
def Flash.publishedBy (f : Flash) (now k : Nat) : Tab (DieSt × Nat) :=
  (f.mbe.dies.filter fun e => dieCluster e.1 == k).foldl (fun t e => Tab.set t e.1 (e.2.st, f.opEnd now e.1)) f.dip.published

theorem Tab.get?_foldl_set_of_ne {α β : Type} (l : List (Nat × β)) (v : Nat × β → α) (t : Tab α) {k : Nat} (h : ∀ e ∈ l, e.1 ≠ k) :
    Tab.get? (l.foldl (fun t e => Tab.set t e.1 (v e)) t) k = Tab.get? t k := by
  induction l generalizing t with
  | nil => rfl
  | cons e l ih =>
    rw [List.forall_mem_cons] at h
    rw [List.foldl_cons, ih _ h.2, Tab.get?_set_ne _ _ h.1.symm]

theorem Flash.publishedBy_other (f : Flash) (now : Nat) {k d : Nat} (h : dieCluster d ≠ k) :
    Tab.get? (f.publishedBy now k) d = Tab.get? f.dip.published d := by
  refine Tab.get?_foldl_set_of_ne _ (fun e : Nat × Die => (e.2.st, f.opEnd now e.1)) _ fun e he => ?_
  have hk : dieCluster e.1 = k := by simpa using (List.mem_filter.1 he).2
  rintro rfl
  exact h hk

/-- Where no busy die has a read that waits, a cluster's states are published and nothing is decided. -/
theorem Flash.publish_still {f : Flash} {k : Nat} (now : Nat) (recovering : Nat → Bool) (h : ∀ e ∈ f.mbe.dies, e.2.st.busy = true → e.2.host = []) :
    f.publish now k recovering = { f with dip := { f.dip with published := f.publishedBy now k } } := by
  obtain ⟨g, hg⟩ : ∃ g : Flash, g = { f with dip := { f.dip with published := f.publishedBy now k } } := ⟨_, rfl⟩
  have hnone (p : Nat → Bool) : (f.mbe.dies.filter fun e => e.2.st.busy && e.2.host.any p) = [] := by
    rw [List.filter_eq_nil_iff]
    intro e he
    cases hb : e.2.st.busy with
    | false => simp
    | true => rw [h e he hb]; simp
  rw [Flash.publish, ← Flash.publishedBy]
  dsimp only
  rw [← hg, hnone]
  rfl

/-- Calibration is queued for dies: it touches neither the tables nor a block. -/
theorem Flash.calibrate_frame (f : Flash) (now k : Nat) : (f.calibrate now k).ptx = f.ptx ∧ (f.calibrate now k).mbe.blks = f.mbe.blks := by
  have hfold (l : List Nat) (g : Flash) (u : Die → Die) : (l.foldl (fun (g : Flash) d => g.updDie d u) g).ptx = g.ptx
      ∧ (l.foldl (fun (g : Flash) d => g.updDie d u) g).mbe.blks = g.mbe.blks := by
    induction l generalizing g with
    | nil => exact ⟨rfl, rfl⟩
    | cons d l ih => exact ih (g.updDie d u)
  exact hfold _ f _

section
variable {s : State} (hr : s.runs = true)
include hr

theorem exec_dieStatePublish (k : Nat) : exec (.dieStatePublish k) s = .next (s.media (s.fl.publish s.clock.now k s.recovering, [])) :=
  State.onMedia_runs hr _

theorem exec_dieStatePublish_still {k : Nat} (hq : Safety.quiet (s.withFl (s.fl.publish s.clock.now k s.recovering)))
    (h : ∀ e ∈ s.fl.mbe.dies, e.2.st.busy = true → e.2.host = []) :
    ∃ t, exec (.dieStatePublish k) s = .next t ∧ t = { s with fl := { s.fl with dip := { s.fl.dip with published := t.fl.dip.published } } }
      ∧ (∀ d, dieCluster d ≠ k → Tab.get? t.fl.dip.published d = Tab.get? s.fl.dip.published d) := by
  have hexec := exec_dieStatePublish hr k
  rw [State.media_quiet hq hr, Flash.publish_still _ _ h] at hexec
  exact ⟨_, hexec, rfl, fun d hd => Flash.publishedBy_other s.fl s.clock.now hd⟩

theorem exec_zqShortCalibration {k : Nat} (hq : Safety.quiet (s.withFl (s.fl.calibrate s.clock.now k))) :
    ∃ t, exec (.zqShortCalibration k) s = .next t ∧ t = s.withFl (s.fl.calibrate s.clock.now k) ∧ t.fl.ptx = s.fl.ptx ∧ t.fl.mbe.blks = s.fl.mbe.blks := by
  have hexec : exec (.zqShortCalibration k) s = .next (s.media (s.fl.calibrate s.clock.now k, [])) := State.onMedia_runs hr _
  rw [State.media_quiet hq hr] at hexec
  exact ⟨_, hexec, rfl, s.fl.calibrate_frame s.clock.now k⟩

end

/-- A die that does not run its array takes no decision after the typical time. -/
theorem Flash.typicalPassed_still {f : Flash} {d : Nat} (now : Nat) (recovering : Nat → Bool) (h : (f.die d).st = .reset ∨ (f.die d).st = .out) :
    f.typicalPassed now d recovering = f := by
  rcases h with h | h <;> rw [Flash.typicalPassed, h] <;> rfl

theorem Flash.typicalPassed_busy {f : Flash} {d : Nat} (now : Nat) (recovering : Nat → Bool) (h : (f.die d).st = .prog ∨ (f.die d).st = .esProg) :
    f.typicalPassed now d recovering = f.decideAll now d recovering := by
  rcases h with h | h <;> rw [Flash.typicalPassed, h] <;> rfl

/-- Settles O51: the work that a die takes, by its state and what waits, and what a cluster publishes. -/
theorem dieScheduling : Obligations.DieScheduling := by
  refine ⟨fun s d hr hd => ?_, fun s d hr hdie hrec => ⟨_, exec_dieWorkSelect_recovering hr hdie hrec, rfl⟩,
    fun s g d q rest hr hd hint hst hg => ⟨_, exec_intmaxExpiry hr hd hint hst hg, rfl⟩,
    fun s k hr => ⟨⟨_, exec_dieStatePublish hr k, rfl⟩, exec_dieStatePublish_still hr, exec_zqShortCalibration hr⟩⟩
  have hselect {r : Flash × List Note} (h : s.fl.selectWork s.clock.now s.hours d s.recovering = r) :
      ∃ t, exec (.dieWorkSelect d) s = .next t ∧ t = s.media r := ⟨_, exec_dieWorkSelect hr hd, congrArg s.media h⟩
  refine ⟨fun hst hdue => hselect (Flash.selectWork_dueFirst hst hdue), fun hst hdue hwadi hhost => hselect (Flash.selectWork_host hst hdue hwadi hhost),
    fun hst hdue hfree key hkey => hselect (Flash.selectWork_erase hst hdue hfree hkey),
    fun hst hdue hwadi hhost hint => hselect (Flash.selectWork_internal hst hdue hwadi hhost hint), fun hst hidle => hselect (Flash.selectWork_resume hst hidle),
    fun hst hnest hhost => hselect (Flash.selectWork_nest hst hnest hhost), fun hst hhost hhold => hselect (Flash.selectWork_suspended hst hhost hhold),
    fun hst => ⟨hselect (Flash.selectWork_programming hst), _, exec_typicalTimePassed hr hd, ?_⟩, fun hst hq => ⟨fun hnone => ?_, ?_⟩⟩
  · rw [Flash.typicalPassed_busy _ _ hst]
  · have hout : (s.fl.die d).st = .reset ∨ (s.fl.die d).st = .out ∧ (s.fl.die d).internal = [] := by
      rcases hst with hst | hst
      · exact .inl hst
      · exact .inr ⟨hst, hnone.resolve_left (by simp [hst])⟩
    rw [exec_dieWorkSelect hr hd, Flash.selectWork_none hout, State.media_still hr hq]
  · rw [exec_typicalTimePassed hr hd, Flash.typicalPassed_still _ _ hst, State.media_still hr hq]

end Sys2Proof.Machine
end

section
/-! Decoders and rebuild (R263, R266 to R270, R275, R278, R281, R282), and O52. -/

namespace Sys2Proof.Machine

/-! ## Decoders -/

section
variable {f : Flash} {id : Nat} {j : Job} (now hours tler : Nat) (hj : Tab.get? f.dip.jobs id = some j)
include hj

/-- A staged frame goes by the verdict on it (R266). -/
theorem Flash.hardDone_staged (hst : j.stage = .staged) (d : Decoded) :
    f.hardDone now hours tler id d = (match f.verdict j d with
      | .accepted => f.deliver id j false
      | .misplaced => f.misplaced now hours id j
      | .failed u => f.nextStep now hours tler id (j.attempt u)) := by
  rw [Flash.hardDone, hj]
  dsimp only
  rw [if_pos hst] <;> rfl

theorem Flash.hardDone_other (hst : j.stage ≠ .staged) (d : Decoded) : f.hardDone now hours tler id d = (f, []) := by
  rw [Flash.hardDone, hj]
  exact if_neg hst

/-- A frame of parity is never misplaced: it carries no address of its own. -/
theorem Flash.hardDone_misplaced (hst : j.stage = .staged) :
    f.hardDone now hours tler id .misplaced = if f.parityFrame j.loc then f.deliver id j false else f.misplaced now hours id j := by
  rw [Flash.hardDone_staged now hours tler hj hst, Flash.verdict]
  cases f.parityFrame j.loc <;> rfl

theorem Flash.softDone_reads (hst : j.stage = .soft2 ∨ j.stage = .soft3) (hleft : j.readsLeft = 0) (d : Decoded) :
    f.softDone now hours tler id d = (match f.verdict j d with
      | .accepted => (f.countSoft (j.loc / 2 ^ 27)).deliver id j false
      | .misplaced => f.misplaced now hours id j
      | .failed _ => f.nextStep now hours tler id j) := by
  have hcond : ((j.stage = .soft2 || j.stage = .soft3) && j.readsLeft == 0) = true := by
    rcases hst with h | h <;> simp [h, hleft]
  rw [Flash.softDone, hj]
  dsimp only
  rw [if_pos hcond] <;> rfl

end

/-- A verdict other than misplaced stands. -/
theorem Flash.verdict_other (f : Flash) (j : Job) {d : Decoded} (h : d ≠ .misplaced) : f.verdict j d = d := if_neg fun hd => h hd.1

theorem Flash.countSoft_counts (f : Flash) (d : Nat) :
    (f.countSoft d).dip.softdec = f.dip.softdec + 1 ∧ (f.countSoft d).dieRec d = { f.dieRec d with soft := (f.dieRec d).soft + 1 } :=
  ⟨rfl, Tab.getD_set_self _ _ _ _⟩

/-! ## Reconstruction -/

/-- Where every helper has come back well, all are in. -/
theorem Job.helpers_good {j : Job} (hall : j.wanted.all (fun r => Tab.get? j.helpers r == some true) = true) :
    (j.wanted.all fun r => (Tab.get? j.helpers r).getD false) = true ∧ j.helpersIn = true := by
  rw [List.all_eq_true] at hall
  refine ⟨List.all_eq_true.2 fun r hr => ?_, List.all_eq_true.2 fun r hr => ?_⟩
  · have hget : Tab.get? j.helpers r = some true := by simpa using hall r hr
    rw [hget]; rfl
  · have hget : Tab.get? j.helpers r = some true := by simpa using hall r hr
    rw [Tab.has, hget]; rfl

section
variable {f : Flash} {id now : Nat} {j : Job} (hj : Tab.get? f.dip.jobs id = some j)
include hj

section
variable (hall : j.wanted.all (fun r => Tab.get? j.helpers r == some true) = true)
include hall

theorem Flash.rebuilt_mirage (hst : j.stage = .mirage) :
    f.rebuilt now id true = ({ f with dip := { f.dip with mirages := f.dip.mirages + 1 } } : Flash).deliver id j true := by
  obtain ⟨hgood, hin⟩ := Job.helpers_good hall
  rw [Flash.rebuilt, hj]
  dsimp only
  rw [hgood, hin, hst]
  rfl

theorem Flash.rebuilt_dune (hst : j.stage = .localRec ∨ j.stage = .globalRec) :
    f.rebuilt now id true = (f.countDune (j.loc / 2 ^ 27)).deliver id j false := by
  obtain ⟨hgood, hin⟩ := Job.helpers_good hall
  rcases hst with hst | hst
  all_goals
    rw [Flash.rebuilt, hj]
    dsimp only
    rw [hgood, hin, hst]
    rfl

theorem Flash.rebuilt_unrecoverable (hst : j.stage = .globalRec) : f.rebuilt now id false = f.unrecoverable now id j := by
  obtain ⟨hgood, hin⟩ := Job.helpers_good hall
  rw [Flash.rebuilt, hj]
  dsimp only
  rw [hgood, hin, hst]
  rfl

end

/-- A reconstruction waits for every helper that it wants. -/
theorem Flash.rebuilt_waits {r : Nat} (hr : r ∈ j.wanted) (hmissing : Tab.has j.helpers r = false) (ok : Bool) : f.rebuilt now id ok = (f, []) := by
  have hin : j.helpersIn = false := by
    rw [Job.helpersIn, List.all_eq_false]
    exact ⟨r, hr, by rw [hmissing]; simp⟩
  rw [Flash.rebuilt, hj]
  dsimp only
  rw [hin]
  rfl

end

/-! ## Patrol reads and the work of a rebuild -/

section
variable {s : State} (hr : s.runs = true)
include hr

/-- A media event without a change of a quiet state. -/
theorem State.onMedia_still {e : State → Flash × List Note} (he : e s = (s.fl, [])) (hq : Safety.quiet s) : s.onMedia e = .next s := by
  rw [State.onMedia_runs hr, he, State.media_still hr hq]

theorem exec_patrolRead {d blk frame k : Nat} {b : Band} (hb : s.fl.bandOf d blk = some (k, b)) :
    exec (.patrolRead d blk frame) s
      = .next (s.media (if frame / 16 < b.committed && (s.fl.blk (blkKey d blk)).st == .full && s.fl.dip.regs.fld .dipCfg 15 8 != 0
        then s.fl.startRead s.clock.now .patrol (locKey d blk frame) none 0 s.clock.now false else (s.fl, []))) := by
  refine (State.onMedia_runs hr _).trans ?_
  rw [hb]

theorem exec_rebuildWorkIssue {d : Nat} (hrec : s.recovering d = false) :
    exec (.rebuildWorkIssue d) s = .next (s.media (if (s.fl.dieRec d).promoting.isSome then s.fl.spareDone s.clock.now d else (s.fl.rebuildIssue d, []))) := by
  refine (State.onMedia_runs hr _).trans ?_
  rw [hrec, if_neg Bool.false_ne_true]
  cases (s.fl.dieRec d).promoting <;> rfl

end

theorem Flash.rebuildIssue_forces {f : Flash} {d key k : Nat} {b : Band} (hp : (f.dieRec d).promoting = none) (hreb : f.rebuilding.contains d = true)
    (hnext : f.nextRebuild d = some (key, k, b)) (hvalid : f.valid b * 100 < f.dip.regs.fld .dipRebcfg 23 16 * b.userFrames) :
    f.rebuildIssue d = f.force k (refreshDest b.slc) := by
  rw [Flash.rebuildIssue, hp, hreb, hnext]
  exact (if_neg (by simp)).trans (if_pos hvalid)

theorem Flash.rebuildIssue_none {f : Flash} {d : Nat} (hreb : f.rebuilding.contains d = false) : f.rebuildIssue d = f := by
  rw [Flash.rebuildIssue, hreb]
  exact if_pos rfl

/-- Settles O52: what each result of a decoder or a reconstruction does with its job, and the work of the patrol and a rebuild. -/
theorem decodersAndRebuild : Obligations.DecodersAndRebuild := by
  refine ⟨fun s id j hr hj => ⟨fun hst => ⟨?_, ?_, fun u => ?_⟩, fun hst hleft => ⟨?_, fun u => ?_⟩, fun hst hq d => ?_, fun hall => ⟨fun hst => ?_,
      fun hst => ?_, fun hst => ?_⟩, fun r ok hw hmissing hq => ?_⟩,
    fun s d blk frame k b hr hb => ⟨fun hframe hfull hcfg => ⟨_, exec_patrolRead hr hb, ?_⟩, fun hno hq => ?_⟩,
    fun s d hr => ⟨fun hrec hq => ?_, fun p hrec hp => ⟨_, exec_rebuildWorkIssue hr hrec, ?_⟩,
      fun key k b hrec hp hreb hnext hvalid => ⟨_, exec_rebuildWorkIssue hr hrec, ?_⟩, fun hp hreb hq => ?_⟩⟩
  · refine ⟨_, State.onMedia_runs hr _, congrArg s.media ?_⟩
    rw [Flash.hardDone_staged _ _ _ hj hst, Flash.verdict_other _ _ (by simp)]
  · exact ⟨_, State.onMedia_runs hr _, congrArg s.media (Flash.hardDone_misplaced _ _ _ hj hst)⟩
  · refine ⟨_, State.onMedia_runs hr _, congrArg s.media ?_⟩
    rw [Flash.hardDone_staged _ _ _ hj hst, Flash.verdict_other _ _ (by simp)]
  · refine ⟨_, s.fl.countSoft (j.loc / 2 ^ 27), State.onMedia_runs hr _, congrArg s.media ?_, s.fl.countSoft_counts _⟩
    rw [Flash.softDone_reads _ _ _ hj hst hleft, Flash.verdict_other _ _ (by simp)]
  · refine ⟨_, State.onMedia_runs hr _, congrArg s.media ?_⟩
    rw [Flash.softDone_reads _ _ _ hj hst hleft, Flash.verdict_other _ _ (by simp)]
  · exact State.onMedia_still hr (Flash.hardDone_other _ _ _ hj hst d) hq
  · exact ⟨_, _, State.onMedia_runs hr _, congrArg s.media (Flash.rebuilt_mirage hj hall hst), rfl, rfl⟩
  · exact ⟨_, _, State.onMedia_runs hr _, congrArg s.media (Flash.rebuilt_dune hj hall hst), rfl, rfl⟩
  · exact ⟨_, State.onMedia_runs hr _, congrArg s.media (Flash.rebuilt_unrecoverable hj hall hst)⟩
  · exact State.onMedia_still hr (Flash.rebuilt_waits hj hw hmissing ok) hq
  · rw [if_pos (by simp [hframe, hfull, hcfg])]
  · have hcond : (decide (frame / 16 < b.committed) && (s.fl.blk (blkKey d blk)).st == .full && s.fl.dip.regs.fld .dipCfg 15 8 != 0) = false := by
      rcases hno with h | h | h
      · simp [Nat.not_lt.2 h]
      · simp [h]
      · simp [h]
    rw [exec_patrolRead hr hb, hcond, if_neg Bool.false_ne_true, State.media_still hr hq]
  · exact State.onMedia_still hr (if_pos hrec) hq
  · rw [hp, if_pos (by rfl)]
  · rw [hp, if_neg (by simp), Flash.rebuildIssue_forces hp hreb hnext hvalid]
  · cases hrec : s.recovering d with
    | true => exact State.onMedia_still hr (if_pos hrec) hq
    | false => rw [exec_rebuildWorkIssue hr hrec, hp, if_neg (by simp), Flash.rebuildIssue_none hreb, State.media_still hr hq]

end Sys2Proof.Machine
end

section
/-! Space (R134, R186, R199 to R205, R215, R222, R224, R254, R257), and O53. -/

namespace Sys2Proof.Machine

/-! ## Stripes -/

/-- A stripe that is held is ready. -/
theorem State.holds_ready {s : State} {n : Nat} (h : s.holds n = true) : s.fl.stripeReady n = true := by
  simp only [State.holds, Bool.and_eq_true] at h
  exact h.1.1.1.1.1

section
variable {s : State} {n : Nat} (h16 : n ≠ 16) (h17 : n ≠ 17)
include h16 h17

theorem State.placeStripe_none {pad : Bool} (expired : Bool) (hready : s.fl.stripeReady n = false) (hpad : (pad && s.padOk n) = false) :
    s.placeStripe n pad expired = (s.fl, []) := by
  rw [State.placeStripe, if_neg (by omega), hready, hpad]
  rfl

section
variable {pad : Bool} (hok : (s.fl.stripeReady n || (pad && s.padOk n)) = true)
include hok

theorem State.placeStripe_open (expired : Bool) :
    s.placeStripe n pad expired = if !(s.fl.needMerge n).isEmpty then s.fl.mergeAll s.clock.now n
      else if !expired && s.holds n then (s.fl, [])
      else (s.fl.issueStripe s.clock.now n (pad && s.padOk n) (s.urgentFor n), []) := by
  have hopen : ¬ (!(s.fl.stripeReady n) && !(pad && s.padOk n)) = true := by
    rw [← Bool.not_or, hok]
    exact Bool.false_ne_true
  rw [State.placeStripe, if_neg (by omega), if_neg hopen]

theorem State.placeStripe_merge (expired : Bool) (hm : s.fl.needMerge n ≠ []) : s.placeStripe n pad expired = s.fl.mergeAll s.clock.now n := by
  rw [State.placeStripe_open h16 h17 hok, if_pos (by simpa using hm)]

theorem State.placeStripe_issue {expired : Bool} (hm : s.fl.needMerge n = []) (hgo : expired = true ∨ s.holds n = false) :
    s.placeStripe n pad expired = (s.fl.issueStripe s.clock.now n (pad && s.padOk n) (s.urgentFor n), []) := by
  rw [State.placeStripe_open h16 h17 hok, hm, if_neg (by simp)]
  rcases hgo with h | h <;> rw [h] <;> simp

end

theorem State.placeStripe_held {pad : Bool} (hheld : s.holds n = true) (hm : s.fl.needMerge n = []) : s.placeStripe n pad false = (s.fl, []) := by
  have hok : (s.fl.stripeReady n || (pad && s.padOk n)) = true := by rw [State.holds_ready hheld, Bool.true_or]
  rw [State.placeStripe_open h16 h17 hok, hm, if_neg (by simp), hheld]
  rfl

/-- A hold's time has passed: the stripe is placed as it is (R186). -/
theorem exec_stripeHoldExpiry {a : Nat} {g : State} (hr : s.runs = true) (hheld : s.holds n = true) (ha : Tab.get? s.fl.ptx.readyAt n = some a)
    (hg : g = s.until' (a + s.fl.ptx.regs.fld .ptxSteercfg 27 16 * 10)) (hm : s.fl.needMerge n = []) :
    exec (.stripeHoldExpiry n) s = .next (g.media (s.fl.issueStripe g.clock.now n false (g.urgentFor n), [])) := by
  have hfl : g.fl = s.fl := by rw [hg, State.until'_fl]
  have hplace : g.placeStripe n false true = (s.fl.issueStripe g.clock.now n false (g.urgentFor n), []) := by
    rw [State.placeStripe_issue h16 h17 (by rw [hfl, State.holds_ready hheld]; rfl) (by rw [hfl, hm]) (.inl rfl), hfl, Bool.false_and]
  change execStripeHoldExpiry n s = _
  rw [execStripeHoldExpiry, State.whenRuns_on hr, hheld, ha]
  dsimp only
  rw [← hg, hplace]

end

theorem exec_stripeHoldExpiry_free {s : State} {n : Nat} (hr : s.runs = true) (h : s.holds n = false) : exec (.stripeHoldExpiry n) s = .next s := by
  change execStripeHoldExpiry n s = _
  rw [execStripeHoldExpiry, State.whenRuns_on hr, h]

theorem exec_stripeProgramIssue_ckpt {s : State} {n : Nat} (pad : Bool) (hr : s.runs = true) (hn : n = 16 ∨ n = 17) :
    ∃ t, exec (.stripeProgramIssue n pad) s = .next t ∧ t = s.media (s.fl.placeCkpt s.clock.now n, []) :=
  ⟨_, State.onMedia_runs hr _, congrArg s.media (if_pos hn)⟩

/-- JTIME has passed since the tail's first record: the journal is programmed (R222). -/
theorem exec_jtimeExpiry {s g : State} (hr : s.runs = true) (ht : s.fl.ptx.tail ≠ []) (hg : g = s.until' (s.fl.ptx.tailAt + s.fl.ptx.jtime)) :
    exec .jtimeExpiry s = .next (g.media (s.fl.programJournal g.clock.now false, [])) := by
  have hfl : g.fl = s.fl := by rw [hg, State.until'_fl]
  have hsome : ¬ s.fl.ptx.tail.isEmpty = true := by simpa using ht
  change execJtimeExpiry s = _
  rw [execJtimeExpiry, State.whenRuns_on hr, if_neg hsome, ← hg]
  dsimp only
  rw [hfl]

/-! ## Blocks and bands -/

theorem Flash.eraseBand_held {f : Flash} {k : Nat} {b : Band} (now : Nat) (hb : Tab.get? f.ptx.bands k = some b) (hmay : f.mayErase k b = false) :
    f.eraseBand now k = (f, []) := by
  rw [Flash.eraseBand, hb]
  exact if_neg (ne_true_of_eq_false hmay)

theorem Flash.rebalance_even {f : Flash} (now : Nat) (h : f.slcSpare = f.slcTarget) : f.rebalance now = f := by
  rw [Flash.rebalance, h]
  exact (if_neg (lt_irrefl _)).trans (if_neg (lt_irrefl _))

theorem Flash.rebalance_fewer {f : Flash} {k : Nat} (now : Nat) (h : f.slcTarget < f.slcSpare) (hk : leastBy (fun k => (f.blk k).ecnt) f.slcFree = some k) :
    f.rebalance now = f.movePool now k false := by
  rw [Flash.rebalance]
  refine (if_neg h.not_gt).trans ((if_pos h).trans ?_)
  rw [hk]

theorem Flash.rebalance_more {f : Flash} {k : Nat} (now : Nat) (h : f.slcSpare < f.slcTarget)
    (hk : leastBy (fun k => (f.blk k).ecnt) (f.hw.dies.filterMap fun d =>
      if f.inService d then leastBy (fun k => (f.blk k).ecnt) (f.freeOf d false) else none) = some k) :
    f.rebalance now = f.movePool now k true := by
  rw [Flash.rebalance]
  refine (if_pos h).trans ?_
  rw [hk]

/-- A worn block of a Wadi band changes place with a young SLC block (R254). -/
theorem Flash.wadiExchange_swaps {f g h : Flash} {n old new : Nat} (hold : f.wadiAt n = some old) (hnew : leastBy (fun k => (f.blk k).ecnt) f.slcFree = some new)
    (hmean : f.meanAll true + 64 < (f.blk old).ecnt) (hyoung : (f.blk new).ecnt < (f.blk old).ecnt)
    (hg : g = (f.setBlk old { f.blk old with pool := true, slc := true }).setBlk new { f.blk new with pool := true, slc := true })
    (hh : h = { g with mbe := { g.mbe with wadiSwap := Tab.set g.mbe.wadiSwap n new } }) :
    f.wadiExchange n = { h with ptx := { h.ptx with wadiErased := h.wadiCount } } := by
  subst hh hg
  rw [Flash.wadiExchange, hold, hnew]
  exact if_pos ⟨hmean, hyoung⟩

/-! ## The capacity state's timed rows -/

section
variable {s : State} (st t next : Nat)

theorem State.capTimeout_due {a : Nat} (hcap : s.fl.ptx.cap = st) (ha : s.fl.ptx.capSince = some a) :
    s.capTimeout st t next = (s.until' (a + t)).media (s.fl.toCap next) := by
  rw [State.capTimeout, decide_eq_true hcap, ha]
  dsimp only
  rw [State.until'_fl]

theorem State.capTimeout_other (hcap : s.fl.ptx.cap ≠ st) : s.capTimeout st t next = s := by
  rw [State.capTimeout, decide_eq_false hcap]

theorem State.capTimeout_unset (ha : s.fl.ptx.capSince = none) : s.capTimeout st t next = s := by
  rw [State.capTimeout, ha]
  cases decide (s.fl.ptx.cap = st) <;> rfl

end

/-! ## Checkpoints -/

theorem Flash.ckptStart_running {f : Flash} {c : Ckpt} (now hours : Nat) (clean : Bool) (hc : f.ptx.ckptRun = some c) : f.ckptStart now hours clean = (f, []) := by
  rw [Flash.ckptStart, if_pos (by rw [hc]; rfl)]

/-- A new checkpoint takes the next sequence number and the journal's next position (R224). -/
theorem Flash.ckptStart_new {f : Flash} (now hours : Nat) (clean : Bool) (hc : f.ptx.ckptRun = none) :
    ∃ (c : Ckpt) (g : Flash), f.ckptStart now hours clean = (g, [.descriptor c.offset ((c.bytes 0xFF).take 32)]) ∧ g.ptx.ckptRun = some c ∧ g.ptx.ckptStage = 0
      ∧ c.seq = f.ptx.ckptSeq + 1 ∧ g.ptx.ckptSeq = c.seq ∧ c.jpos = f.ptx.jnext ∧ g.ptx.slots = f.ptx.slots ∧ g.ptx.map = f.ptx.map := by
  have hfree : ¬ f.ptx.ckptRun.isSome = true := by rw [hc]; simp
  rw [Flash.ckptStart, if_neg hfree]
  exact ⟨_, _, rfl, rfl, rfl, rfl, rfl, rfl, rfl, rfl⟩

section
variable {s g : State} {r : Requester} (hr : s.runs = true) (h : Safety.served s r .ptxCkptstat) (hg : g = s.storeReg .ptxCkptstat 0x40000000)
include hr h hg

theorem exec_ptxCkptstatForce : exec (.ptxCkptstatForce r) s = .next (g.media (g.fl.ckptStart g.clock.now g.hours false)) := by
  have hrun : g.runs = true := hg ▸ hr
  change Host.Outcome.next (s.csrWrite r .ptxCkptstat 0x40000000 State.forceCkpt) = _
  rw [served_write h, ← hg, State.forceCkpt, State.whenRuns_on hrun]

theorem exec_ptxCkptstatForce_running {c : Ckpt} (hc : s.fl.ptx.ckptRun = some c) (hq : Safety.quiet g) : exec (.ptxCkptstatForce r) s = .next g := by
  have hrun : g.runs = true := hg ▸ hr
  have hc' : g.fl.ptx.ckptRun = some c := hg ▸ hc
  rw [exec_ptxCkptstatForce hr h hg, Flash.ckptStart_running _ _ _ hc', State.media_still hrun hq]

theorem exec_ptxCkptstatForce_new (hc : s.fl.ptx.ckptRun = none) :
    ∃ (t : State) (c : Ckpt) (f : Flash), exec (.ptxCkptstatForce r) s = .next t ∧ t = g.media (f, [.descriptor c.offset ((c.bytes 0xFF).take 32)])
      ∧ f.ptx.ckptRun = some c ∧ f.ptx.ckptStage = 0 ∧ c.seq = s.fl.ptx.ckptSeq + 1 ∧ f.ptx.ckptSeq = c.seq ∧ c.jpos = s.fl.ptx.jnext
      ∧ f.ptx.slots = s.fl.ptx.slots ∧ f.ptx.map = s.fl.ptx.map := by
  have hc' : g.fl.ptx.ckptRun = none := hg ▸ hc
  have hptx : g.fl.ptx = { s.fl.ptx with regs := g.fl.ptx.regs } := hg ▸ rfl
  obtain ⟨c, f, hstart, hrun, hstage, hseq, hnum, hjpos, hslots, hmap⟩ := Flash.ckptStart_new g.clock.now g.hours false hc'
  refine ⟨_, c, f, exec_ptxCkptstatForce hr h hg, congrArg g.media hstart, hrun, hstage, hseq.trans ?_, hnum, hjpos.trans ?_, hslots.trans ?_, hmap.trans ?_⟩ <;>
    rw [hptx]

end

/-- A write to PTX_OASISCFG that leaves PROTMAX: the durability mode is judged again (R134). -/
theorem exec_ptxOasiscfgWrite {s g : State} {r : Requester} {v : W32} (h : Safety.served s r .ptxOasiscfg) (hg : g = s.storeReg .ptxOasiscfg v)
    (hsame : g.fl.ptx.protMax = s.fl.ptx.protMax) :
    ∃ t, exec (.ptxOasiscfgWrite r v) s = .next t ∧ t = g.judgeMode ∧ g = { s with fl := { s.fl with ptx := { s.fl.ptx with regs := g.fl.ptx.regs } } } := by
  have hexec : exec (.ptxOasiscfgWrite r v) s = .next (g.oasisChanged s.fl.ptx.protMax) := by
    rw [hg]
    exact congrArg Host.Outcome.next (served_write h v fun g => g.oasisChanged s.fl.ptx.protMax)
  refine ⟨_, hexec, ?_, hg ▸ rfl⟩
  rw [State.oasisChanged, if_pos hsame]

/-- Settles O53: where a stripe goes, what becomes of blocks, bands, the capacity state and checkpoints. -/
theorem spaceEvents : Obligations.SpaceEvents := by
  refine ⟨fun s n hr h16 h17 => ⟨fun pad hready hpad hq => State.onMedia_still hr (State.placeStripe_none h16 h17 _ hready hpad) hq,
      fun pad hok hm => ⟨_, State.onMedia_runs hr _, congrArg s.media (State.placeStripe_merge h16 h17 hok _ hm)⟩,
      fun pad hok hm hfree => ⟨_, State.onMedia_runs hr _, congrArg s.media (State.placeStripe_issue h16 h17 hok hm (.inr hfree))⟩,
      fun pad hheld hm hq => State.onMedia_still hr (State.placeStripe_held h16 h17 hheld hm) hq,
      fun a g hheld ha hg hm => ⟨_, exec_stripeHoldExpiry h16 h17 hr hheld ha hg hm, rfl⟩, exec_stripeHoldExpiry_free hr⟩,
    fun s n pad hr hn => exec_stripeProgramIssue_ckpt pad hr hn, fun s g hr ht hg => ⟨_, exec_jtimeExpiry hr ht hg, rfl⟩,
    fun s k b hr hb => ⟨fun _ => ⟨_, State.onMedia_runs hr _, rfl⟩, fun hmay hq => State.onMedia_still hr (Flash.eraseBand_held _ hb hmay) hq⟩,
    fun s hr => ⟨fun heven hq => State.onMedia_still hr (congrArg (·, []) (Flash.rebalance_even _ heven)) hq,
      fun k hlt hk hq => State.onMedia_quiet hr (congrArg (·, []) (Flash.rebalance_fewer _ hlt hk)) hq,
      fun k hlt hk hq => State.onMedia_quiet hr (congrArg (·, []) (Flash.rebalance_more _ hlt hk)) hq,
      fun n old new f h hold hnew hmean hyoung hf hh hq => State.onMedia_quiet hr ?_ hq, ⟨_, State.onMedia_runs hr _, rfl⟩⟩,
    fun s i st d next hi hr => ?_,
    fun s hr => ⟨fun c d hw hc hd => ⟨_, State.onMedia_runs hr _, congrArg s.media ?_⟩, fun hw hq => ?_,
      fun r g => ⟨fun h hg => ⟨fun c hc hq => ⟨_, exec_ptxCkptstatForce_running hr h hg hc hq, rfl⟩, exec_ptxCkptstatForce_new hr h hg⟩,
        fun v h hg hsame => exec_ptxOasiscfgWrite h hg hsame⟩⟩⟩
  · rw [Flash.wadiExchange_swaps hold hnew hmean hyoung hf hh]
  · have hexec : exec i s = .next (s.capTimeout st d next) := by
      rcases hi with ⟨rfl, rfl, rfl, rfl⟩ | ⟨rfl, rfl, rfl, rfl⟩
      · exact congrArg Host.Outcome.next (State.whenRuns_on hr)
      · exact congrArg Host.Outcome.next (State.whenRuns_on hr)
    exact ⟨fun a hcap ha => ⟨_, hexec, State.capTimeout_due st d next hcap ha⟩, fun hcap => hexec.trans (congrArg _ (State.capTimeout_other st d next hcap)),
      fun ha => hexec.trans (congrArg _ (State.capTimeout_unset st d next ha))⟩
  · rw [if_pos hw, Flash.ckptSeal, hc, hd]
  · exact State.onMedia_still hr (if_neg (ne_true_of_eq_false hw)) hq

end Sys2Proof.Machine
end

section
/-! The firmware store (R389 to R394): calls that the service takes, the controller's reads, and the ends of its programs and erases; and O54. -/

namespace Sys2Proof.Machine

/-! ## Calls that the service takes -/

section
variable {m : Mgc} (hwin : m.fromWindow = false)
include hwin

theorem Mgc.svcRead_ok {o n : Nat} (shown : Tab NorWord) (h1 : 1 ≤ n) (hmax : n ≤ 1048576) (hend : o + n ≤ storeSize) :
    m.svcRead shown o n = ⟨.ok, o, m.readStore shown o n⟩ := by
  rw [Mgc.svcRead, hwin, if_neg Bool.false_ne_true, if_neg (by omega)]

section
variable {o : Nat} {bs : List Byte}
  (hrange : ¬ (bs.length < 16 ∨ 256 < bs.length ∨ bs.length % 16 ≠ 0 ∨ o % 16 ≠ 0 ∨ o / 256 ≠ (o + bs.length - 1) / 256 ∨ storeSize < o + bs.length))
  (now : Nat) (shown : Tab NorWord) (fp : Bool) (fe : Option Nat)
include hrange

theorem Mgc.svcProgram_protected (hprot : m.protects o bs.length = true) : m.svcProgram now shown fp fe o bs = (m, ⟨.protected', o, []⟩) := by
  simp only [Mgc.svcProgram, hwin, hprot, if_neg hrange, Bool.false_eq_true, if_false, if_true]

theorem Mgc.svcProgram_starts (hprot : m.protects o bs.length = false) (hbusy : m.programBusy fp fe o = false) (hbad : m.firstBad shown o bs = none) :
    m.svcProgram now shown fp fe o bs = (m.startProgram now .service o bs (m.erase.isSome || fe.isSome), ⟨.ok, o, []⟩) := by
  simp only [Mgc.svcProgram, hwin, hprot, hbusy, hbad, if_neg hrange, Bool.false_eq_true, if_false]

end

theorem Mgc.svcErase_starts {o n : Nat} {fe : Bool} (now : Nat)
    (hrange : ¬ (n = 0 ∨ n % sectorSize ≠ 0 ∨ 16 * sectorSize < n ∨ o % sectorSize ≠ 0 ∨ storeSize < o + n)) (hprot : m.protects o n = false)
    (hfree : m.erase = none) (hfev : fe = false) :
    m.svcErase now fe o n = ({ m with erase := some ⟨.service, (List.range (n / sectorSize)).map (o / sectorSize + ·), now, 0, false⟩ }, ⟨.ok, o, []⟩) := by
  have hrun : (m.erase.isSome || fe) = false := by rw [hfree, hfev]; rfl
  simp only [Mgc.svcErase, hwin, hprot, hrun, if_neg hrange, Bool.false_eq_true, if_false]

/-- What a poll tells of the service's last operation. -/
def Mgc.pollResult (m : Mgc) : SvcResult := m.svcFail.elim ⟨.ok, 0, []⟩ fun b => ⟨.fail, b, []⟩

/-- A poll with nothing running tells of the last failure once. -/
theorem Mgc.svcPoll_idle (hprog : m.prog = none) (herase : m.erase = none) : m.svcPoll = ({ m with svcFail := none }, m.pollResult) := by
  rw [Mgc.svcPoll, hwin, if_neg Bool.false_ne_true]
  refine (if_neg ?_).trans ?_
  · simp [hprog, herase]
  · cases hfail : m.svcFail with
    | none =>
      have hsame : m = { m with svcFail := none } := by rw [← hfail]
      rw [Mgc.pollResult, hfail]
      exact Prod.ext hsame rfl
    | some b =>
      rw [Mgc.pollResult, hfail]
      rfl

end

section
variable {s : State} {fr : Nat} {m : Mgc} (hup : s.storeUp = true) (hm : m = s.mgc.enterService fr)
include hup hm

theorem exec_storeServiceRead_self (o n : Nat) (hwin : m.fromWindow = true) :
    exec (.storeServiceRead 0x08070000 fr o n) s = .next { s with mgc := m, out := .service ⟨.self, o, []⟩ :: s.out } := by
  subst hm
  rw [exec_storeServiceRead]
  refine State.enterStore_svcCall hup fr _ (congrArg (Prod.mk _) ?_)
  exact if_pos hwin

variable (hwin : m.fromWindow = false)
include hwin

theorem exec_storeServiceRead_ok {o n : Nat} (h1 : 1 ≤ n) (hmax : n ≤ 1048576) (hend : o + n ≤ storeSize) :
    exec (.storeServiceRead 0x08070000 fr o n) s = .next { s with mgc := m, out := .service ⟨.ok, o, s.mgc.readStore s.storeWords o n⟩ :: s.out } := by
  subst hm
  rw [exec_storeServiceRead]
  exact State.enterStore_svcCall hup fr _ (congrArg (Prod.mk _) (Mgc.svcRead_ok hwin _ h1 hmax hend))

section
variable {o : Nat} {bs : List Byte}
  (hrange : ¬ (bs.length < 16 ∨ 256 < bs.length ∨ bs.length % 16 ≠ 0 ∨ o % 16 ≠ 0 ∨ o / 256 ≠ (o + bs.length - 1) / 256 ∨ storeSize < o + bs.length))
include hrange

theorem exec_storeServiceProgram_protected (hprot : m.protects o bs.length = true) :
    exec (.storeServiceProgram 0x08070000 fr o bs) s = .next { s with mgc := m, out := .service ⟨.protected', o, []⟩ :: s.out } := by
  subst hm
  rw [exec_storeServiceProgram]
  exact State.enterStore_svcCall hup fr _ (Mgc.svcProgram_protected hwin hrange _ _ _ _ hprot)

theorem exec_storeServiceProgram_starts (hprot : m.protects o bs.length = false) (hbusy : m.programBusy s.fev.writing.isSome s.fev.erasingSector o = false)
    (hbad : m.firstBad s.storeWords o bs = none) :
    ∃ t e, exec (.storeServiceProgram 0x08070000 fr o bs) s = .next t ∧ t.mgc.prog = some ⟨.service, o, bs, m.programAt s.clock.now, e⟩
      ∧ t = { s with mgc := { m with prog := t.mgc.prog, erase := t.mgc.erase }, out := .service ⟨.ok, o, []⟩ :: s.out } := by
  subst hm
  have hstarts := Mgc.svcProgram_starts hwin hrange s.clock.now s.storeWords s.fev.writing.isSome s.fev.erasingSector hprot hbusy hbad
  have hexec := exec_storeServiceProgram 0x08070000 fr o bs s
  rw [State.enterStore_svcCall hup fr _ hstarts] at hexec
  exact ⟨_, _, hexec, rfl, rfl⟩

end

theorem exec_storeServiceErase_starts {o n : Nat} (h0 : n ≠ 0) (hlen : n % sectorSize = 0) (hmax : n ≤ 16 * sectorSize) (hoff : o % sectorSize = 0)
    (hend : o + n ≤ storeSize) (hprot : m.protects o n = false) (hfree : s.mgc.erase = none) (hfev : s.fev.erasing = none) :
    exec (.storeServiceErase 0x08070000 fr o n) s = .next { s with
      mgc := { m with erase := some ⟨.service, (List.range (n / sectorSize)).map (o / sectorSize + ·), s.clock.now, 0, false⟩ }
      out := .service ⟨.ok, o, []⟩ :: s.out } := by
  subst hm
  have hnone : s.fev.erasing.isSome = false := by rw [hfev]; rfl
  have hstarts := Mgc.svcErase_starts hwin s.clock.now (by omega) hprot hfree hnone
  rw [exec_storeServiceErase, State.enterStore_svcCall hup fr _ hstarts]

theorem exec_storeServicePoll_idle (hprog : s.mgc.prog = none) (herase : s.mgc.erase = none) :
    exec (.storeServicePoll 0x08070000 fr) s = .next { s with mgc := { m with svcFail := none }, out := .service s.mgc.pollResult :: s.out } := by
  subst hm
  have hidle : (s.mgc.enterService fr).svcPoll = ({ s.mgc.enterService fr with svcFail := none }, s.mgc.pollResult) := Mgc.svcPoll_idle hwin hprog herase
  rw [exec_storeServicePoll, State.enterStore_svcCall hup fr _ hidle]

end

/-! ## The controller (R390) -/

/-- A resumption touches the program and the erase alone. -/
theorem Mgc.resumed_frame (m : Mgc) (now : Nat) : m.resumed now = { m with prog := (m.resumed now).prog, erase := (m.resumed now).erase } := by
  rw [Mgc.resumed]
  split <;> rfl

/-- Without a read that waits the state stays. -/
theorem State.serveReads_none {s : State} (h : s.mgc.reads = []) : s.serveReads = s := by
  rw [State.serveReads, h]
  dsimp only [List.foldl_nil]
  rw [← h]

/-- After a program with nothing waiting, the erase it was nested in runs again. -/
theorem State.afterProgram_alone {s : State} (hreads : s.mgc.reads = []) (hwait : s.mgc.waiting = []) (fev : Bool) :
    s.afterProgram fev = { s with mgc := { s.mgc with erase := (s.afterProgram fev).mgc.erase } } := by
  obtain ⟨m, hm⟩ : ∃ m : Mgc, m = { s.mgc with erase := s.mgc.erase.map fun e =>
      { e with runSince := s.clock.now, suspensions := if fev then satAdd 255 e.suspensions 1 else e.suspensions } } := ⟨_, rfl⟩
  have hnext : m.nextProgram s.clock.now = m := by
    have hwait' : m.waiting = [] := hm ▸ hwait
    rw [Mgc.nextProgram, hwait']
  have hafter : s.afterProgram fev = { s with mgc := m } := by
    rw [State.afterProgram, State.serveReads_none hreads]
    dsimp only
    rw [← hm, hnext, ite_self]
  rw [hafter, hm]

section
variable {s : State} (hup : s.up = true)
include hup

section
variable (port : FscPort) {o n : Nat} (hend : o + n ≤ storeSize)
include hend

theorem exec_fscReadRequest_waits (hnested : s.nestedProgram = true) :
    exec (.fscReadRequest port o n) s = .next { s with mgc := { s.mgc with reads := s.mgc.reads ++ [⟨port, o, n⟩] } } := by
  have hgo : ¬ (!s.up || decide (storeSize < o + n)) = true := by rw [hup, decide_eq_false hend.not_gt]; simp
  change execFscReadRequest port o n s = _
  rw [execFscReadRequest, if_neg hgo]
  exact congrArg _ (if_pos hnested)

theorem exec_fscReadRequest_serves (hnested : s.nestedProgram = false) :
    ∃ t, exec (.fscReadRequest port o n) s = .next t ∧ t.out = .store port (s.mgc.readStore s.storeWords o n) :: s.out
      ∧ t.clock.now = max s.clock.now s.mgc.suspendAt ∧ t = { s with mgc := { s.mgc with prog := t.mgc.prog, erase := t.mgc.erase }, clock := t.clock, out := t.out } := by
  have hgo : ¬ (!s.up || decide (storeSize < o + n)) = true := by rw [hup, decide_eq_false hend.not_gt]; simp
  obtain ⟨g, hg⟩ : ∃ g, g = s.until' s.mgc.suspendAt := ⟨_, rfl⟩
  have hframe : g = { s with clock := g.clock } := hg.trans ((State.until'_frame _ _).trans (by rw [← hg]))
  have hnow : g.clock.now = max s.clock.now s.mgc.suspendAt := by rw [hg, State.until'_now]
  have hexec : exec (.fscReadRequest port o n) s = .next { g.serveRead ⟨port, o, n⟩ with mgc := g.mgc.resumed g.clock.now } := by
    change execFscReadRequest port o n s = _
    rw [execFscReadRequest, if_neg hgo]
    dsimp only
    rw [hnested, if_neg Bool.false_ne_true, ← hg]
  have hmgc : g.mgc = s.mgc := by rw [hframe]
  rw [hmgc, Mgc.resumed_frame] at hexec
  refine ⟨_, hexec, ?_, hnow, ?_⟩
  · rw [hframe]; rfl
  · rw [hframe]; rfl

end

theorem exec_fscProgramDone {p : FscProgram} (hp : s.mgc.prog = some p) (hport : p.port ≠ .fev) (hat : p.started ≤ s.clock.now) (hwait : s.mgc.waiting = [])
    (hreads : s.mgc.reads = []) :
    ∃ t, exec (.fscProgramDone p.port true) s = .next t ∧ t = { s with fl := if p.port = .ptx then s.fl.ckptProgrammed true else s.fl, mgc := { s.mgc with
      prog := none
      nor := s.mgc.programWords s.storeWords p.offset p.bytes
      erase := t.mgc.erase
      regs := s.mgc.regs.setFld .mgcFscstat 26 24 0 } } := by
  obtain ⟨g, hg⟩ : ∃ g : State, g = { s with
      fl := if p.port = .ptx then s.fl.ckptProgrammed true else s.fl
      mgc := { s.mgc with prog := none, nor := s.mgc.programWords s.storeWords p.offset p.bytes, regs := s.mgc.regs.setFld .mgcFscstat 26 24 0 } } := ⟨_, rfl⟩
  have hdone : s.mgc.programDone s.storeWords true = ({ s.mgc with
      prog := none, nor := s.mgc.programWords s.storeWords p.offset p.bytes, regs := s.mgc.regs.setFld .mgcFscstat 26 24 0 }, []) := by
    rw [Mgc.programDone, hp]
    rfl
  have hexec : exec (.fscProgramDone p.port true) s = .next (g.afterProgram false) := by
    change execFscProgramDone p.port true s = _
    rw [execFscProgramDone, hup, if_neg (by simp), hp]
    · dsimp only
      rw [if_neg (by simp), State.until'_past hat, hdone, hg]
      rfl
    · exact hport
  refine ⟨_, hexec, ?_⟩
  have hmgc : g.mgc.reads = [] ∧ g.mgc.waiting = [] := hg ▸ ⟨hreads, hwait⟩
  rw [State.afterProgram_alone hmgc.1 hmgc.2]
  subst hg
  rfl

theorem exec_fscProgramDone_fev {n : Nat} (hw : s.fev.writing = some n) (hp : s.mgc.prog = none) (hwait : s.mgc.waiting = []) (hreads : s.mgc.reads = []) :
    ∃ t, exec (.fscProgramDone .fev true) s = .next t ∧ t.fev = s.fev.programDone true
      ∧ t = { s with fev := t.fev, mgc := { s.mgc with regs := t.mgc.regs, erase := t.mgc.erase } } := by
  obtain ⟨g, hg⟩ : ∃ g : State, g = { s with fev := s.fev.programDone true, mgc := { s.mgc with regs := s.mgc.regs.setFld .mgcFscstat 26 24 0 } } := ⟨_, rfl⟩
  have hexec : exec (.fscProgramDone .fev true) s = .next (g.afterProgram true) := by
    change execFscProgramDone .fev true s = _
    rw [execFscProgramDone, hup, hw, hp, hg]
    rfl
  refine ⟨_, hexec, ?_⟩
  have hmgc : g.mgc.reads = [] ∧ g.mgc.waiting = [] := hg ▸ ⟨hreads, hwait⟩
  rw [State.afterProgram_alone hmgc.1 hmgc.2]
  subst hg
  exact ⟨rfl, rfl⟩

theorem exec_fscEraseDone_fev {n : Nat} (hw : s.fev.erasing = some n) (he : s.mgc.erase = none) :
    ∃ t, exec (.fscEraseDone .fev true) s = .next t ∧ t.fev = s.fev.eraseDone true ∧ t = { s with fev := t.fev, mgc := { s.mgc with regs := t.mgc.regs } } := by
  have hexec : exec (.fscEraseDone .fev true) s
      = .next { s with fev := s.fev.eraseDone true, mgc := { s.mgc with regs := s.mgc.regs.setFld .mgcFscstat 26 24 0 } } := by
    change execFscEraseDone .fev true s = _
    rw [execFscEraseDone, hup, hw, he]
    rfl
  exact ⟨_, hexec, rfl, rfl⟩

theorem exec_fscEraseDone {e : FscErase} {sec : Nat} (he : s.mgc.erase = some e) (hport : e.port ≠ .fev) (hsec : e.sectors = [sec]) (hreads : s.mgc.reads = []) :
    ∃ t, exec (.fscEraseDone e.port true) s = .next t ∧ t = { s with mgc := { s.mgc with
      erase := none
      nor := s.mgc.eraseSector sec
      factory := (s.mgc.unfactory sec).factory
      s2 := (s.mgc.unfactory sec).s2
      regs := s.mgc.regs.setFld .mgcFscstat 26 24 0 } } := by
  obtain ⟨m, hm⟩ : ∃ m : Mgc, m = { s.mgc with
      erase := none
      nor := s.mgc.eraseSector sec
      factory := (s.mgc.unfactory sec).factory
      s2 := (s.mgc.unfactory sec).s2
      regs := s.mgc.regs.setFld .mgcFscstat 26 24 0 } := ⟨_, rfl⟩
  have hdone : s.mgc.eraseDone s.clock.now true = (m, []) := by
    rw [Mgc.eraseDone, he]
    dsimp only
    rw [hsec, hm]
    rfl
  have hmine : s.mgc.erase.map (·.port) = some e.port := by rw [he]; rfl
  have hm_reads : m.reads = [] := hm ▸ hreads
  have hexec : exec (.fscEraseDone e.port true) s = .next (State.serveReads { s with mgc := m }) := by
    change execFscEraseDone e.port true s = _
    rw [execFscEraseDone, hup, if_neg (by simp), if_pos hmine]
    · rw [hdone]
      rfl
    · exact hport
  rw [State.serveReads_none (by exact hm_reads)] at hexec
  exact ⟨_, hexec, by rw [hm]⟩

/-- A suspension of an erase ends after 2 ms, or with the program that is nested in it. -/
theorem exec_fscSuspendHoldExpiry {e : FscErase} (he : s.mgc.erase = some e) :
    exec .fscSuspendHoldExpiry s
      = .next { s with mgc := { s.mgc with erase := some { e with holdOver := true, runSince := if s.mgc.prog.isNone then s.clock.now else e.runSince } } } := by
  change execFscSuspendHoldExpiry s = _
  rw [execFscSuspendHoldExpiry, if_pos hup, he]
  rfl

end

/-- Settles O54: the calls of the store service, and what the controller's reads, programs and erases do. -/
theorem firmwareStore : Obligations.FirmwareStore := by
  refine ⟨fun s en fr o n bs hup hen => ?_, fun s fr o n bs m hup hm => ⟨fun hwin => ⟨_, exec_storeServiceRead_self hup hm o n hwin, rfl⟩, fun hwin => ⟨?_, ?_, ?_, ?_⟩⟩,
    fun s port o n hup hend => ⟨fun hnested => ⟨_, exec_fscReadRequest_waits hup port hend hnested, rfl⟩, exec_fscReadRequest_serves hup port hend⟩,
    fun s p hup hp hport hat hwait hreads => exec_fscProgramDone hup hp hport hat hwait hreads,
    fun s n hup hw hp hwait hreads => exec_fscProgramDone_fev hup hw hp hwait hreads, fun s n hup hw he => exec_fscEraseDone_fev hup hw he,
    fun s e sec hup he hport hsec hreads => exec_fscEraseDone hup he hport hsec hreads, fun s e hup he => ⟨_, exec_fscSuspendHoldExpiry hup he, rfl⟩⟩
  · rw [exec_storeServiceRead, exec_storeServiceProgram, exec_storeServiceErase, exec_storeServicePoll]
    exact ⟨State.enterStore_wrong_address hup hen _ _, State.enterStore_wrong_address hup hen _ _, State.enterStore_wrong_address hup hen _ _,
      State.enterStore_wrong_address hup hen _ _⟩
  · exact fun h1 hmax hend => ⟨_, exec_storeServiceRead_ok hup hm hwin h1 hmax hend, rfl⟩
  · intro hmin hmax hlen hoff hpage hend
    have hrange : ¬ (bs.length < 16 ∨ 256 < bs.length ∨ bs.length % 16 ≠ 0 ∨ o % 16 ≠ 0 ∨ o / 256 ≠ (o + bs.length - 1) / 256 ∨ storeSize < o + bs.length) := by
      omega
    exact ⟨fun hprot => ⟨_, exec_storeServiceProgram_protected hup hm hwin hrange hprot, rfl⟩, exec_storeServiceProgram_starts hup hm hwin hrange⟩
  · exact fun h0 hlen hmax hoff hend hprot hfree hfev => ⟨_, exec_storeServiceErase_starts hup hm hwin h0 hlen hmax hoff hend hprot hfree hfev, rfl⟩
  · intro hprog herase
    refine ⟨_, exec_storeServicePoll_idle hup hm hwin hprog herase, rfl, ?_⟩
    rw [Mgc.pollResult]
    cases s.mgc.svcFail <;> rfl

end Sys2Proof.Machine
end

section
/-! NVMe-MI and MCTP over the sideband (R409), and O55. -/

namespace Sys2Proof.Machine

/-- With no handover under way, sideband work is taken up at once (R407). -/
theorem State.afterHandover_calm {s : State} (h : s.mgc.postHold ≤ s.clock.now + 5000) : s.afterHandover = s :=
  State.until'_past (by omega)

section
variable {s : State} (hans : s.mctpAnswers = true) (hpost : s.mgc.postHold ≤ s.clock.now + 5000)
include hans hpost

/-- While the endpoint answers, an NVMe-MI command does what it sets and sends its answer. -/
theorem State.miSide_answers (m : MiReq) :
    s.miSide m = { (s.mi m).1 with out := .mi (s.mi m).2.status (leBytes 3 (s.mi m).2.resp ++ (s.mi m).2.data) :: (s.mi m).1.out } := by
  rw [State.miSide, if_pos hans, State.afterHandover_calm hpost]
  rfl

theorem exec_mctpControlMessage (m : MctpReq) :
    exec (.mctpControlMessage m) s = .next { (s.mctp m).1 with out := .mi (s.mctp m).2.1 (s.mctp m).2.2 :: (s.mctp m).1.out } := by
  change execMctpControlMessage m s = _
  rw [execMctpControlMessage, if_pos hans, State.afterHandover_calm hpost]
  rfl

end

/-- Where the endpoint does not answer, a message changes nothing. -/
theorem exec_sideband_silent {s : State} (h : s.mctpAnswers = false) {a b : Nat} {bo : Bool} {bs : List Byte} {m : MctpReq} {c : Instr}
    (hc : c ∈ [.readNvmeMiDataStructure a, .subsystemHealthStatusPoll bo, .controllerHealthStatusPoll a b bo, .configurationSet a b, .configurationGet a,
      .vpdRead a b, .vpdWrite a bs, .mctpControlMessage m, .basicManagementRead a b]) : exec c s = .next s := by
  have hsilent : ¬ s.mctpAnswers = true := ne_true_of_eq_false h
  have hmi (m : MiReq) : s.miSide m = s := if_neg hsilent
  have hbasic : ¬ (s.mctpAnswers && s.mgc.regs.bit .mgcSbicfg 12) = true := by rw [h]; simp
  simp only [List.mem_cons, List.not_mem_nil, or_false] at hc
  rcases hc with rfl | rfl | rfl | rfl | rfl | rfl | rfl | rfl | rfl
  · exact congrArg _ (hmi (.readData a))
  · exact congrArg _ (hmi (.subsystemPoll bo))
  · exact congrArg _ (hmi (.controllerPoll a b bo))
  · exact congrArg _ (hmi (.configSet a b))
  · exact congrArg _ (hmi (.configGet a))
  · exact congrArg _ (hmi (.vpdRead a b))
  · exact congrArg _ (hmi (.vpdWrite a bs))
  · exact congrArg Host.Outcome.next (if_neg hsilent)
  · exact congrArg Host.Outcome.next (if_neg hbasic)

/-! ## What each message sets and answers -/

theorem State.miStructure_answer (s : State) (dtyp : Nat) : (s.miStructure dtyp).resp = 0 ∧ (4 < dtyp → (s.miStructure dtyp).status = 4) := by
  unfold State.miStructure
  split
  case h_6 => exact ⟨rfl, fun _ => rfl⟩
  all_goals exact ⟨rfl, fun h => absurd h (by decide)⟩

/-- A configuration in its range is set, and no other. -/
theorem State.miSet_sets (s : State) (id v : Nat) :
    (s.miSet id v).1 = { s with mgc := { s.mgc with
      miFreq := if id = 1 ∧ 1 ≤ v ∧ v ≤ 3 then v else s.mgc.miFreq
      miMtu := if id = 3 ∧ 64 ≤ v ∧ v ≤ 256 then v else s.mgc.miMtu
      miAen := if id = 4 then v else s.mgc.miAen } } := by
  unfold State.miSet
  split
  case h_1 =>
    split
    case isTrue h => rw [if_pos ⟨rfl, h⟩]; rfl
    case isFalse h => rw [if_neg fun hall => h hall.2]; rfl
  case h_2 => rfl
  case h_3 =>
    split
    case isTrue h => rw [if_pos (c := (3 = 3 ∧ 64 ≤ v ∧ v ≤ 256)) ⟨rfl, h⟩]; rfl
    case isFalse h => rw [if_neg (c := (3 = 3 ∧ 64 ≤ v ∧ v ≤ 256)) fun hall => h hall.2]; rfl
  case h_4 => rfl
  case h_5 h1 h2 h3 h4 => rw [if_neg fun h => h1 h.1, if_neg fun h => h3 h.1, if_neg h4]

theorem State.miGet_answer (s : State) (id : Nat) :
    s.miGet id = { status := if 1 ≤ id ∧ id ≤ 4 then 0 else 4
                   resp := if id = 1 then s.mgc.miFreq else if id = 3 then s.mgc.miMtu else if id = 4 then s.mgc.miAen else 0 } := by
  unfold State.miGet
  split
  case h_5 h1 h2 h3 h4 =>
    have hout : id ≠ 1 ∧ id ≠ 2 ∧ id ≠ 3 ∧ id ≠ 4 := ⟨h1, h2, h3, h4⟩
    have hrange : ¬ (1 ≤ id ∧ id ≤ 4) := by omega
    rw [if_neg hrange, if_neg h1, if_neg h3, if_neg h4]
    rfl
  all_goals rfl

theorem State.mctp_setEid {s : State} {e : Nat} (h1 : 1 ≤ e) (h2 : e ≤ 254) :
    s.mctp (.setEid e) = ({ s with mgc := { s.mgc with eid := e } }, 0, leBytes 1 0 ++ leBytes 1 e ++ leBytes 1 0) := by
  rw [State.mctp]
  exact if_neg (by omega)

/-- Settles O55: each message while the endpoint answers, and none while it does not. -/
theorem sidebandMessages : Obligations.SidebandMessages := by
  refine fun s => ⟨fun h a b bo bs m c hc => exec_sideband_silent h hc, fun hans hpost => ?_, fun hans o n hbit => ?_⟩
  · have hmi (m : MiReq) : (.next (s.miSide m) : Host.Outcome State Fault Refusal) = _ := congrArg Host.Outcome.next (State.miSide_answers hans hpost m)
    refine ⟨fun dtyp => ⟨_, hmi (.readData dtyp), ?_, (s.miStructure_answer dtyp).2⟩, fun clear => ⟨_, hmi (.subsystemPoll clear), rfl⟩,
      fun start count clear => ⟨_, hmi (.controllerPoll start count clear), rfl⟩, fun id v => ⟨_, hmi (.configSet id v), ?_⟩,
      fun id => ⟨_, hmi (.configGet id), ?_⟩, fun o n => ⟨_, hmi (.vpdRead o n), ?_⟩, fun o bs hfits => ⟨_, hmi (.vpdWrite o bs), ?_⟩,
      fun e h1 h2 => ⟨_, exec_mctpControlMessage hans hpost (.setEid e), ?_⟩, _, exec_mctpControlMessage hans hpost .getTypes, rfl⟩
    · rw [State.mi, (s.miStructure_answer dtyp).1]
    · rw [State.mi, State.miSet_sets]
      exact ⟨rfl, rfl, rfl, rfl⟩
    · rw [State.mi, State.miGet_answer, List.append_nil]
    · rw [State.mi]
      dsimp only
      split <;> rfl
    · rw [State.mi, if_pos hfits]
      rfl
    · rw [State.mctp_setEid h1 h2]
      exact ⟨rfl, rfl⟩
  · have hboth : (s.mctpAnswers && s.mgc.regs.bit .mgcSbicfg 12) = true := by rw [hans, hbit]; rfl
    exact ⟨_, congrArg Host.Outcome.next (if_pos hboth), rfl⟩

end Sys2Proof.Machine
end

section
/-! The Ahnah tasks (R411, R412), and O56. -/

namespace Sys2Proof.Machine

/-- A GO is taken: the arguments and data stand in the registers. -/
def State.ahBegun (s : State) (code tag : Nat) (args : List Nat) (data : List Byte) : State :=
  { s with mgc := s.mgc.ahStart code (tag % 256) args data }

/-- While the Cameleer serves, the recovery state of stage 2 does not. -/
theorem State.serves_notRecovery {s : State} (h : s.cameleerServes = true) : s.inRecovery = false := by
  simp only [State.cameleerServes, State.runs, Bool.and_eq_true, beq_iff_eq] at h
  have hboot : s.mgc.boot = .ready := h.1.1.1.1
  rw [State.inRecovery, hboot]
  rfl

section
variable {s : State} {code tag : Nat} {args : List Nat} {data : List Byte} {hardware write recovery : Bool}

theorem State.ahTask_busy (h : s.ahTakes = false) (go : State → State) : s.ahTask code tag args data hardware write recovery go = s := by
  rw [State.ahTask, h]
  rfl

variable (h : s.ahTakes = true)
include h

/-- A task of the hardware runs whatever the Cameleer does. -/
theorem State.ahTask_hardware (go : State → State) :
    s.ahTask code tag args data true false recovery go = go (s.ahBegun code tag args data) := by
  rw [State.ahTask, h]
  rfl

/-- A task of the Cameleer's is refused with 4 while it does not serve. -/
theorem State.ahTask_unserved (hserves : s.cameleerServes = false) (hrec : s.inRecovery = false) (go : State → State) :
    s.ahTask code tag args data false write recovery go = (s.ahBegun code tag args data).ahDone 4 [] := by
  rw [State.ahTask, h, hserves, hrec, Bool.and_false]
  rfl

variable (hserves : s.cameleerServes = true)
include hserves

/-- A Write task is refused with 2 without the permission. -/
theorem State.ahTask_unpermitted (hwr : s.mgc.ahWr = false) (go : State → State) :
    s.ahTask code tag args data false true recovery go = (s.ahBegun code tag args data).ahDone 2 [] := by
  rw [State.ahTask, h, hserves, State.serves_notRecovery hserves, Bool.and_false, hwr]
  rfl

/-- With no handover under way a task that may run runs at once. -/
theorem State.ahTask_goes (hpost : s.mgc.postHold ≤ s.clock.now + 5000) (hwr : write = true → s.mgc.ahWr = true) (go : State → State) :
    s.ahTask code tag args data false write recovery go = go (s.ahBegun code tag args data) := by
  have hcalm : (s.ahBegun code tag args data).afterHandover = s.ahBegun code tag args data := State.afterHandover_calm hpost
  have hpermits : (write && !(recovery && s.inRecovery) && !s.mgc.ahWr) = false := by
    cases write
    · rfl
    · rw [hwr rfl]; simp
  rw [State.ahTask, h, if_neg (by simp)]
  dsimp only
  rw [hserves, if_neg (by simp), hpermits, if_neg Bool.false_ne_true, if_neg Bool.false_ne_true, ← State.ahBegun, hcalm]

end

/-- A task that ends at once leaves its result, and nothing else but what it did. -/
theorem State.ahDone_ended (s : State) (code tag : Nat) (args : List Nat) (data : List Byte) (result : Nat) (answer : List Byte) :
    Safety.ahEnded s ((s.ahBegun code tag args data).ahDone result answer) code tag args data result answer
      ∧ (s.ahBegun code tag args data).ahDone result answer
        = { s with mgc := { s.mgc with ah := ((s.ahBegun code tag args data).ahDone result answer).mgc.ah } } := ⟨rfl, rfl⟩

/-- A GO that the interface does not take changes nothing. -/
theorem exec_ahnah_busy {s : State} {tag : Nat} {args : List Nat} {data : List Byte} {c : Instr} (h : s.ahTakes = false)
    (hc : c ∈ [.ahnahHealthSummary tag args data, .ahnahRegisterRead tag args data, .ahnahEventRecordRead tag args data, .ahnahBootRecordRead tag args data,
      .ahnahSetInstanceShare tag args data, .ahnahSetNamespaceSize tag args data, .ahnahSetMediaMode tag args data, .ahnahPortConfigWrite tag args data,
      .ahnahImageWrite tag args data, .ahnahImageCommit tag args data, .ahnahCleanShutdown tag args data]) : exec c s = .next s := by
  have hbusy (code : Nat) (hw wr rc : Bool) (go : State → State) : s.ahTask code tag args data hw wr rc go = s := State.ahTask_busy h go
  simp only [List.mem_cons, List.not_mem_nil, or_false] at hc
  rcases hc with rfl | rfl | rfl | rfl | rfl | rfl | rfl | rfl | rfl | rfl | rfl
  · exact congrArg Host.Outcome.next (hbusy ..)
  · exact congrArg Host.Outcome.next (hbusy ..)
  · exact congrArg Host.Outcome.next (hbusy ..)
  · exact congrArg Host.Outcome.next (hbusy ..)
  · exact congrArg Host.Outcome.next (hbusy ..)
  · refine congrArg Host.Outcome.next ((congrArg (ite _ s) (hbusy ..)).trans (ite_self _))
  · refine congrArg Host.Outcome.next ((congrArg (ite _ s) (hbusy ..)).trans (ite_self _))
  · exact congrArg Host.Outcome.next (hbusy ..)
  · exact congrArg Host.Outcome.next (hbusy ..)
  · exact congrArg Host.Outcome.next (hbusy ..)
  · exact congrArg Host.Outcome.next (hbusy ..)

/-! ## What the interface's registers leave alone -/

/-- The GO of a task leaves the download to take its piece. -/
theorem Mgc.takePiece_ahStart {m m' : Mgc} {now o : Nat} {owner : DlOwner} {bs : List Byte} (ht : m.takePiece now owner o bs = .ok m') (code tag : Nat)
    (args : List Nat) (data : List Byte) :
    (m.ahStart code tag args data).takePiece now owner o bs = .ok { m.ahStart code tag args data with download := m'.download } := by
  have hdl : (m.ahStart code tag args data).download = m.download := rfl
  rw [Mgc.takePiece] at ht ⊢
  dsimp only at ht ⊢
  rw [hdl]
  split_ifs at ht ⊢
  obtain rfl := Except.ok.inj ht
  rfl

section
variable (m : Mgc) (a : Ahnah) (owner : DlOwner)

theorem Mgc.closeDownload_ah : ({ m with ah := a } : Mgc).closeDownload owner = { m.closeDownload owner with ah := a } := by
  have hdl : ({ m with ah := a } : Mgc).downloadOf owner = m.downloadOf owner := rfl
  rw [Mgc.closeDownload, Mgc.closeDownload, hdl]
  cases m.downloadOf owner <;> rfl

theorem Mgc.endSideDownload_ah : ({ m with ah := a } : Mgc).endSideDownload owner = { m.endSideDownload owner with ah := a } := by
  rw [Mgc.endSideDownload, Mgc.endSideDownload, Mgc.closeDownload_ah]
  split <;> rfl

theorem Mgc.writeStage2_ah (h : ImgHeader) (bytes : Nat → Nat → List Byte) :
    ({ m with ah := a } : Mgc).writeStage2 h bytes = { m.writeStage2 h bytes with ah := a } := by
  rw [Mgc.writeStage2, Mgc.writeStage2]
  cases h.comps.find? fun c => c.kind == 1 <;> rfl

theorem Mgc.writeImage_ah (slot : Nat) : ({ m with ah := a } : Mgc).writeImage owner slot = { m.writeImage owner slot with ah := a } := by
  have hdl : ({ m with ah := a } : Mgc).downloadOf owner = m.downloadOf owner := rfl
  rw [Mgc.writeImage, Mgc.writeImage, hdl]
  cases m.downloadOf owner with
  | none => rfl
  | some d =>
    have hslot : ({ m with ah := a } : Mgc).writeSlot slot d = { m.writeSlot slot d with ah := a } := rfl
    dsimp only
    rw [hslot, Mgc.writeStage2_ah]

/-- A commit that activates nothing leaves the interface's registers. -/
theorem Mgc.commit_ah {act : Nat} (h2 : act ≤ 2) (now fs : Nat) (by' : CommitFrom) :
    (({ m with ah := a } : Mgc).commit now by' owner fs act .ok).1 = { (m.commit now by' owner fs act .ok).1 with ah := a } := by
  have hslot : ({ m with ah := a } : Mgc).commitSlot fs = m.commitSlot fs := rfl
  rw [Mgc.commit, Mgc.commit]
  dsimp only
  rw [hslot]
  rcases (by omega : act = 0 ∨ act = 1 ∨ act = 2) with rfl | rfl | rfl
  · exact Mgc.writeImage_ah m a owner _
  · exact congrArg (Mgc.makeNext · _) (Mgc.writeImage_ah m a owner _)
  · exact Mgc.closeDownload_ah (m.makeNext _) a owner

end

section
variable {s : State} (tag : Nat) (args : List Nat) (data : List Byte) (h : s.ahTakes = true)
include h

/-! ## Tasks of the hardware -/

theorem exec_ahnahHealthSummary :
    ∃ t, exec (.ahnahHealthSummary tag args data) s = .next t ∧ (∃ answer, Safety.ahEnded s t 0x01 tag args data 0 answer)
      ∧ t = { s with mgc := { s.mgc with ah := t.mgc.ah } } :=
  ⟨_, congrArg Host.Outcome.next (State.ahTask_hardware h _), ⟨_, rfl⟩, rfl⟩

theorem exec_ahnahRegisterRead {g : State} (hg : g = s.ahBegun 0x02 tag args data) :
    ∃ t, exec (.ahnahRegisterRead tag args data) s = .next t ∧ t = { s with mgc := { s.mgc with ah := t.mgc.ah } }
      ∧ (ahReadable (argOf args 0) = true → argOf args 0 % 4 = 0 → Safety.ahEnded s t 0x02 tag args data 0 (leBytes 4 (g.csrRead (0x40000000 + argOf args 0)).toNat))
      ∧ (ahReadable (argOf args 0) = true → argOf args 0 % 4 ≠ 0 → Safety.ahEnded s t 0x02 tag args data 3 [])
      ∧ (ahReadable (argOf args 0) = false → Safety.ahEnded s t 0x02 tag args data 2 []) := by
  have hexec : exec (.ahnahRegisterRead tag args data) s = .next (if !ahReadable (argOf args 0) then g.ahDone 2 []
      else if argOf args 0 % 4 ≠ 0 then g.ahDone 3 []
      else g.ahDone 0 (leBytes 4 (g.csrRead (0x40000000 + argOf args 0)).toNat)) := by
    rw [hg]
    exact congrArg Host.Outcome.next (State.ahTask_hardware h _)
  have hended (r : Nat) (d : List Byte) : Safety.ahEnded s (g.ahDone r d) 0x02 tag args data r d
      ∧ g.ahDone r d = { s with mgc := { s.mgc with ah := (g.ahDone r d).mgc.ah } } := hg ▸ State.ahDone_ended s 0x02 tag args data r d
  cases hread : ahReadable (argOf args 0) with
  | false =>
    rw [hread] at hexec
    exact ⟨_, hexec, (hended 2 []).2, nofun, nofun, fun _ => (hended 2 []).1⟩
  | true =>
    rw [hread, if_neg (by simp)] at hexec
    by_cases haligned : argOf args 0 % 4 = 0
    · rw [if_neg (not_not.2 haligned)] at hexec
      exact ⟨_, hexec, (hended 0 _).2, fun _ _ => (hended 0 _).1, fun _ hno => absurd haligned hno, nofun⟩
    · rw [if_pos haligned] at hexec
      exact ⟨_, hexec, (hended 3 []).2, fun _ hyes => absurd hyes haligned, fun _ _ => (hended 3 []).1, nofun⟩

/-! ## Refusals -/

theorem exec_ahnahImageWrite_unserved (hserves : s.cameleerServes = false) (hrec : s.inRecovery = false) :
    ∃ t, exec (.ahnahImageWrite tag args data) s = .next t ∧ Safety.ahEnded s t 0x09 tag args data 4 [] ∧ t = { s with mgc := { s.mgc with ah := t.mgc.ah } } :=
  ⟨_, congrArg Host.Outcome.next (State.ahTask_unserved h hserves hrec _), rfl, rfl⟩

variable (hserves : s.cameleerServes = true)
include hserves

theorem exec_ahnahImageWrite_unpermitted (hwr : s.mgc.ahWr = false) :
    ∃ t, exec (.ahnahImageWrite tag args data) s = .next t ∧ Safety.ahEnded s t 0x09 tag args data 2 [] ∧ t = { s with mgc := { s.mgc with ah := t.mgc.ah } } :=
  ⟨_, congrArg Host.Outcome.next (State.ahTask_unpermitted h hserves hwr _), rfl, rfl⟩

/-! ## Reads that the Cameleer serves -/

variable (hpost : s.mgc.postHold ≤ s.clock.now + 5000)
include hpost

theorem exec_ahnahEventRecordRead :
    ∃ t, exec (.ahnahEventRecordRead tag args data) s = .next t ∧ t = { s with mgc := { s.mgc with ah := t.mgc.ah } }
      ∧ (argOf args 0 = 0xFFFFFFFF → Safety.ahEnded s t 0x03 tag args data 0 s.fev.logHeader)
      ∧ (argOf args 0 < 262144 → 1 ≤ argOf args 1 → argOf args 1 ≤ 4 → argOf args 0 + argOf args 1 ≤ 262144 →
        Safety.ahEnded s t 0x03 tag args data 0 ((List.range (argOf args 1)).flatMap fun i => s.fev.slotBytes (argOf args 0 + i))) := by
  obtain ⟨g, hg⟩ : ∃ g, g = s.ahBegun 0x03 tag args data := ⟨_, rfl⟩
  have hsafe : s.fev.safe = false := by
    have hruns : s.runs = true := by
      simp only [State.cameleerServes, Bool.and_eq_true] at hserves
      exact hserves.1
    exact (State.runs_awake hruns).1
  have hfev : g.fev = s.fev := hg ▸ rfl
  have hexec : exec (.ahnahEventRecordRead tag args data) s = .next (
      if argOf args 0 = 0xFFFFFFFF then g.ahDone 0 g.fev.logHeader
      else if argOf args 0 = 0xFFFFFFFE then
        (if 7 < argOf args 1 then g.ahDone 3 [] else g.ahDone 0 ((List.range 4).flatMap fun i => g.fev.ffqBytes (4 * argOf args 1 + i)))
      else if argOf args 1 < 1 ∨ 4 < argOf args 1 ∨ 262144 < argOf args 0 + argOf args 1 then g.ahDone 3 []
      else g.ahDone 0 ((List.range (argOf args 1)).flatMap fun i => g.fev.slotBytes (argOf args 0 + i))) := by
    change execAhnahEventRecordRead tag args data s = _
    rw [execAhnahEventRecordRead, hsafe, State.ahTask_goes (write := false) h hserves hpost (by simp), ← hg]
  have hended (r : Nat) (d : List Byte) : Safety.ahEnded s (g.ahDone r d) 0x03 tag args data r d
      ∧ g.ahDone r d = { s with mgc := { s.mgc with ah := (g.ahDone r d).mgc.ah } } := hg ▸ State.ahDone_ended s 0x03 tag args data r d
  rw [hfev] at hexec
  refine ⟨_, hexec, ?_, fun hall => ?_, fun ha h1 h4 hend => ?_⟩
  · split_ifs
    · exact (hended _ _).2
    · exact (hended _ _).2
    · exact (hended _ _).2
    · exact (hended _ _).2
    · exact (hended _ _).2
  · rw [if_pos hall]
    exact (hended _ _).1
  · rw [if_neg (by omega), if_neg (by omega), if_neg (by omega)]
    exact (hended _ _).1

theorem exec_ahnahBootRecordRead :
    ∃ t, exec (.ahnahBootRecordRead tag args data) s = .next t ∧ t = { s with mgc := { s.mgc with ah := t.mgc.ah } }
      ∧ (argOf args 0 ≤ 3 → argOf args 3 % 256 = 0 → argOf args 3 < 4096 →
        (∀ r, pickRecord s.fev.bootRecords (argOf args 0) (argOf args 1 + 2 ^ 32 * argOf args 2) = some r → Safety.ahEnded s t 0x04 tag args data 0 (slice (fit 4096 r.2) (argOf args 3) 256))
        ∧ (pickRecord s.fev.bootRecords (argOf args 0) (argOf args 1 + 2 ^ 32 * argOf args 2) = none → Safety.ahEnded s t 0x04 tag args data 0x8790 [])) := by
  obtain ⟨g, hg⟩ : ∃ g, g = s.ahBegun 0x04 tag args data := ⟨_, rfl⟩
  have hfev : g.fev = s.fev := hg ▸ rfl
  have hexec : exec (.ahnahBootRecordRead tag args data) s = .next (
      if 3 < argOf args 0 ∨ argOf args 3 % 256 ≠ 0 ∨ 4096 ≤ argOf args 3 then g.ahDone 3 []
      else (pickRecord g.fev.bootRecords (argOf args 0) (argOf args 1 + 2 ^ 32 * argOf args 2)).elim (g.ahDone Status.notRetained.ahResult [])
        fun r => g.ahDone 0 (slice (fit 4096 r.2) (argOf args 3) 256)) := by
    change execAhnahBootRecordRead tag args data s = _
    rw [execAhnahBootRecordRead, State.ahTask_goes (write := false) h hserves hpost (by simp), ← hg]
    cases pickRecord g.fev.bootRecords (argOf args 0) (argOf args 1 + 2 ^ 32 * argOf args 2) <;> rfl
  have hended (r : Nat) (d : List Byte) : Safety.ahEnded s (g.ahDone r d) 0x04 tag args data r d
      ∧ g.ahDone r d = { s with mgc := { s.mgc with ah := (g.ahDone r d).mgc.ah } } := hg ▸ State.ahDone_ended s 0x04 tag args data r d
  rw [hfev] at hexec
  by_cases hbad : 3 < argOf args 0 ∨ argOf args 3 % 256 ≠ 0 ∨ 4096 ≤ argOf args 3
  · rw [if_pos hbad] at hexec
    exact ⟨_, hexec, (hended _ _).2, fun h0 h3 hmax => absurd hbad (by omega)⟩
  · rw [if_neg hbad] at hexec
    cases hpick : pickRecord s.fev.bootRecords (argOf args 0) (argOf args 1 + 2 ^ 32 * argOf args 2) with
    | none =>
      rw [hpick] at hexec
      exact ⟨_, hexec, (hended _ _).2, fun _ _ _ => ⟨nofun, fun _ => (hended 0x8790 []).1⟩⟩
    | some r =>
      rw [hpick] at hexec
      refine ⟨_, hexec, (hended _ _).2, fun _ _ _ => ⟨fun r' hr => ?_, nofun⟩⟩
      obtain rfl : r = r' := Option.some_injective _ hr
      exact (hended _ _).1

/-! ## Write tasks -/

variable (hwr : s.mgc.ahWr = true)
include hwr

theorem exec_ahnahSetInstanceShare :
    ∃ t, exec (.ahnahSetInstanceShare tag args data) s = .next t
      ∧ t = { s with mgc := { s.mgc with ah := t.mgc.ah }, qce := { s.qce with fsn := nextFsn s.qce.fsn }, tas := t.tas }
      ∧ (argOf args 0 ≤ 2047 → (ahShare args).valid = true → Safety.ahEnded s t 0x05 tag args data 0 [] ∧ t.tas = s.tas.stage (argOf args 0) (ahShare args))
      ∧ (2047 < argOf args 0 ∨ (ahShare args).valid = false → Safety.ahEnded s t 0x05 tag args data 3 [] ∧ t.tas = s.tas) := by
  obtain ⟨g, hg⟩ : ∃ g : State, g = { s.ahBegun 0x05 tag args data with qce := { s.qce with fsn := nextFsn s.qce.fsn } } := ⟨_, rfl⟩
  have hexec : exec (.ahnahSetInstanceShare tag args data) s = .next (if 2047 < argOf args 0 ∨ !(ahShare args).valid then g.ahDone 3 []
      else ({ g with tas := g.tas.stage (argOf args 0) (ahShare args) } : State).ahDone 0 []) := by
    change execAhnahSetInstanceShare tag args data s = _
    rw [execAhnahSetInstanceShare, State.ahTask_goes h hserves hpost fun _ => hwr, hg]
    rfl
  by_cases hbad : 2047 < argOf args 0 ∨ (!(ahShare args).valid) = true
  · rw [if_pos hbad, hg] at hexec
    refine ⟨_, hexec, rfl, fun h0 hvalid => absurd hbad ?_, fun _ => ⟨rfl, rfl⟩⟩
    rw [hvalid]
    simpa using h0
  · rw [if_neg hbad, hg] at hexec
    exact ⟨_, hexec, rfl, fun _ _ => ⟨rfl, rfl⟩, fun hno => absurd (hno.imp_right fun hv => by rw [hv]; rfl) hbad⟩

section
variable {g : State} {c : Nat} {x : Ctx} (hfetch : s.fetches = true) (hfree : s.qce.shFree ≠ 0)
include hfetch hfree

theorem exec_ahnahSetNamespaceSize
    (htake : State.takeSide (s.ahBegun 0x06 tag args data) 0xFFFF (featureSqe 0xD5 (argOf args 0) 0 (argOf args 1) (argOf args 2)) = some (g, c))
    (hx : g.qce.ctx? c = some x) :
    exec (.ahnahSetNamespaceSize tag args data) s = .next (State.setSize ((g.setCtx c { x with sqid := 1 }).ahWaits 0x06) c { x with sqid := 1 }).settle := by
  have hgo : ¬ (s.cameleerServes && s.mgc.ahWr && (!s.fetches || s.qce.shFree == 0)) = true := by simp [hfetch, hfree]
  change execAhnahSetNamespaceSize tag args data s = _
  rw [execAhnahSetNamespaceSize, if_neg hgo, State.ahTask_goes h hserves hpost fun _ => hwr, State.ahFeature, htake]
  dsimp only
  rw [hx]

theorem exec_ahnahSetMediaMode
    (htake : State.takeSide (s.ahBegun 0x07 tag args data) 0xFFFF (featureSqe 0xD6 (argOf args 0) (argOf args 1 % 2) 0 0) = some (g, c))
    (hx : g.qce.ctx? c = some x) :
    exec (.ahnahSetMediaMode tag args data) s = .next (State.setMode ((g.setCtx c { x with sqid := 1 }).ahWaits 0x07) c { x with sqid := 1 }).settle := by
  have hgo : ¬ (s.cameleerServes && s.mgc.ahWr && (!s.fetches || s.qce.shFree == 0)) = true := by simp [hfetch, hfree]
  change execAhnahSetMediaMode tag args data s = _
  rw [execAhnahSetMediaMode, if_neg hgo, State.ahTask_goes h hserves hpost fun _ => hwr, State.ahFeature, htake]
  dsimp only
  rw [hx]

end

theorem exec_ahnahPortConfigWrite :
    ∃ t, exec (.ahnahPortConfigWrite tag args data) s = .next t ∧ t = { s with mgc := { s.mgc with ah := t.mgc.ah, cal := t.mgc.cal } }
      ∧ (argOf args 0 ≤ 3 → portBlockOk (fit 256 data) = true → Safety.ahEnded s t 0x08 tag args data 0 []
        ∧ t.mgc.cal = { s.mgc.cal with ports := Tab.set s.mgc.cal.ports (argOf args 0) (fit 256 data) })
      ∧ (3 < argOf args 0 ∨ portBlockOk (fit 256 data) = false → Safety.ahEnded s t 0x08 tag args data 3 [] ∧ t.mgc.cal = s.mgc.cal) := by
  obtain ⟨g, hg⟩ : ∃ g, g = s.ahBegun 0x08 tag args data := ⟨_, rfl⟩
  have hexec : exec (.ahnahPortConfigWrite tag args data) s = .next (if 3 < argOf args 0 ∨ !portBlockOk (fit 256 data) then g.ahDone 3 []
      else ({ g with mgc := { g.mgc with cal := { g.mgc.cal with ports := Tab.set g.mgc.cal.ports (argOf args 0) (fit 256 data) } } } : State).ahDone 0 []) := by
    change execAhnahPortConfigWrite tag args data s = _
    rw [execAhnahPortConfigWrite, State.ahTask_goes h hserves hpost fun _ => hwr, hg]
  by_cases hbad : 3 < argOf args 0 ∨ (!portBlockOk (fit 256 data)) = true
  · rw [if_pos hbad, hg] at hexec
    refine ⟨_, hexec, rfl, fun h0 hok => absurd hbad ?_, fun _ => ⟨rfl, rfl⟩⟩
    rw [hok]
    simpa using h0
  · rw [if_neg hbad, hg] at hexec
    exact ⟨_, hexec, rfl, fun _ _ => ⟨rfl, rfl⟩, fun hno => absurd (hno.imp_right fun hv => by rw [hv]; rfl) hbad⟩

theorem exec_ahnahImageWrite_joins {m : Mgc} (halign : argOf args 0 % 256 = 0) (hend : argOf args 0 + 256 ≤ 41943040)
    (htake : s.mgc.takePiece s.clock.now .sideband (argOf args 0) (fit 256 data) = .ok m) :
    ∃ t, exec (.ahnahImageWrite tag args data) s = .next t ∧ Safety.ahEnded s t 0x09 tag args data 0 [] ∧ t.mgc.download = m.download
      ∧ t = { s with mgc := { s.mgc with ah := t.mgc.ah, download := t.mgc.download } } := by
  have htake' := Mgc.takePiece_ahStart htake 0x09 (tag % 256) args data
  have hexec : exec (.ahnahImageWrite tag args data) s = .next (({ s with
      mgc := { s.mgc.ahStart 0x09 (tag % 256) args data with download := m.download } } : State).ahDone 0 []) := by
    change execAhnahImageWrite tag args data s = _
    rw [execAhnahImageWrite, State.ahTask_goes h hserves hpost fun _ => hwr]
    dsimp only
    rw [if_neg (by omega)]
    dsimp only [State.ahBegun]
    rw [htake']
  exact ⟨_, hexec, rfl, rfl, rfl⟩

theorem exec_ahnahImageCommit {fs act : Nat} (hfs : fs = argOf args 0) (hact : act = argOf args 1) (h2 : act ≤ 2)
    (hok : s.mgc.commitVerdict s.sec.sanitize.isSome .sideband fs act s.sec.stage2Svn s.fl.dvers = .ok) :
    ∃ t, exec (.ahnahImageCommit tag args data) s = .next t ∧ Safety.ahEnded s t 0x0A tag args data 0 []
      ∧ t = { s with
        mgc := { (s.mgc.commit s.clock.now .ahnah .sideband fs act .ok).1.endSideDownload .sideband with ah := t.mgc.ah }
        qce := { s.qce with fsn := nextFsn s.qce.fsn } } := by
  obtain ⟨g, hg⟩ : ∃ g, g = s.ahBegun 0x0A tag args data := ⟨_, rfl⟩
  obtain ⟨u, hu⟩ : ∃ u : State, u = { s with
      mgc := { (s.mgc.commit s.clock.now .ahnah .sideband fs act .ok).1.endSideDownload .sideband with ah := g.mgc.ah }
      qce := { s.qce with fsn := nextFsn s.qce.fsn } } := ⟨_, rfl⟩
  have hnorec : g.inRecovery = false := by
    rw [hg]
    exact State.serves_notRecovery hserves
  have hcommit : ({ g with qce := { g.qce with fsn := nextFsn g.qce.fsn } } : State).commit .ahnah .sideband fs act = (u, .ok, false) := by
    have hverdict : g.mgc.commitVerdict g.sec.sanitize.isSome .sideband fs act g.sec.stage2Svn g.fl.dvers = .ok := hg ▸ hok
    have hmgc : g.mgc = { s.mgc with ah := g.mgc.ah } := hg ▸ rfl
    have hdone : (g.mgc.commit g.clock.now .ahnah .sideband fs act .ok).2 = false := Mgc.commit_now _ _ (by omega) (.inl (by omega))
    rw [State.commit]
    dsimp only
    rw [hverdict, hdone, if_neg Bool.false_ne_true, hmgc, Mgc.commit_ah _ _ _ h2, Mgc.endSideDownload_ah, hu, hg]
    rfl
  have hexec : exec (.ahnahImageCommit tag args data) s = .next (u.ahDone 0 []) := by
    change execAhnahImageCommit tag args data s = _
    rw [execAhnahImageCommit, State.ahTask_goes h hserves hpost fun _ => hwr, ← hg]
    dsimp only
    rw [← hact, ← hfs, hnorec, if_neg (by simp; omega), hcommit, if_neg Bool.false_ne_true]
    rfl
  rw [hu, hg] at hexec
  exact ⟨_, hexec, rfl, rfl⟩

/-- A clean shutdown that the sideband asks for: the task ends when the device is quiesced (R482). -/
theorem exec_ahnahCleanShutdown {g u : State} (h1 : argOf args 0 ≤ 1) (hg : g = (s.ahBegun 0x0B tag args data).ahWaits 0x0B)
    (hu : u = g.startShutdown (argOf args 0 == 1)) :
    exec (.ahnahCleanShutdown tag args data) s = .next (if u.mgc.quiesced then u.ahDone 0 [] else u) := by
  change execAhnahCleanShutdown tag args data s = _
  rw [execAhnahCleanShutdown, State.ahTask_goes h hserves hpost fun _ => hwr, if_neg (by omega), ← hg, ← hu]

end

/-- Settles O56: what the interface takes, what it refuses, and what each task leaves. -/
theorem ahnahTasks : Obligations.AhnahTasks := by
  refine ⟨fun s tag args data c h hc => exec_ahnah_busy h hc,
    fun s g tag args data h => ⟨exec_ahnahHealthSummary tag args data h, fun hg => exec_ahnahRegisterRead tag args data h hg⟩,
    fun s tag args data h hserves hrec => exec_ahnahImageWrite_unserved tag args data h hserves hrec,
    fun s tag args data h hserves hwr => exec_ahnahImageWrite_unpermitted tag args data h hserves hwr,
    fun s tag args data h hserves hpost => ⟨exec_ahnahEventRecordRead tag args data h hserves hpost, exec_ahnahBootRecordRead tag args data h hserves hpost⟩,
    fun s tag args data h hserves hwr hpost => ⟨exec_ahnahSetInstanceShare tag args data h hserves hpost hwr,
      fun g c x hfetch hfree htake hx => ⟨_, exec_ahnahSetNamespaceSize tag args data h hserves hpost hwr hfetch hfree htake hx, rfl⟩,
      fun g c x hfetch hfree htake hx => ⟨_, exec_ahnahSetMediaMode tag args data h hserves hpost hwr hfetch hfree htake hx, rfl⟩,
      exec_ahnahPortConfigWrite tag args data h hserves hpost hwr,
      fun m halign hend htake => exec_ahnahImageWrite_joins tag args data h hserves hpost hwr halign hend htake,
      fun fs act hfs hact h2 _ hok => exec_ahnahImageCommit tag args data h hserves hpost hwr hfs hact h2 hok,
      fun h1 => ⟨_, _, exec_ahnahCleanShutdown tag args data h hserves hpost hwr h1 rfl rfl, rfl, fun hq => ?_, fun hq => ?_⟩⟩⟩
  · exact if_neg (ne_true_of_eq_false hq)
  · exact if_pos hq

end Sys2Proof.Machine
end

section
/-! What resets, power loss and the end of a dump leave (R421, R422, R427, R446, R478, R480, R512), and O57. -/

namespace Sys2Proof.Machine

/-! ### The cold entry: ports open without commands, connections and keys -/

/-- `t` is `s` but for the host side, whose contexts, connections and namespace keys it leaves empty where they were. -/
def State.HostCleared (s t : State) : Prop :=
  t = { s with qce := t.qce, tas := t.tas, hfu := t.hfu, sec := t.sec }
    ∧ (s.qce.ctxs = [] → t.qce.ctxs = []) ∧ (s.hfu.conns = [] → t.hfu.conns = []) ∧ t.sec.keys = s.sec.keys

theorem State.HostCleared.refl (s : State) : s.HostCleared s := ⟨rfl, id, id, rfl⟩

theorem State.HostCleared.trans {s t u : State} (h₁ : s.HostCleared t) (h₂ : t.HostCleared u) : s.HostCleared u := by
  obtain ⟨ht, hctx, hconn, hkeys⟩ := h₁
  obtain ⟨hu, hctx', hconn', hkeys'⟩ := h₂
  refine ⟨?_, hctx' ∘ hctx, hconn' ∘ hconn, hkeys'.trans hkeys⟩
  rw [hu, ht]

theorem State.HostCleared.foldl {α : Type} {f : State → α → State} (hf : ∀ (s : State) a, s.HostCleared (f s a)) (l : List α) (s : State) :
    s.HostCleared (l.foldl f s) := by
  induction l generalizing s with
  | nil => exact .refl s
  | cons a l ih => exact (hf s a).trans (ih (f s a))

theorem State.removeInst_hostCleared (s : State) (i : Nat) : s.HostCleared (s.removeInst i) := by
  refine ⟨rfl, fun h => ?_, fun h => ?_, rfl⟩
  · simp only [State.removeInst, Qce.dropQueues, h, Tab.keep, List.filter_nil]
  · simp only [State.removeInst, h, Tab.keep, List.filter_nil]

theorem State.openPort_hostCleared (s : State) (n : Nat) (p : Port) : s.HostCleared (s.openPort n p) := by
  unfold State.openPort
  dsimp only
  refine .trans (.foldl State.removeInst_hostCleared (Tab.keysWhere s.qce.insts fun _ i => i.port == n) s) ?_
  split
  · exact ⟨rfl, id, id, rfl⟩
  · exact ⟨rfl, id, id, rfl⟩

theorem laneReports_mild (again : List Nat) (old new : LaneEval) : ∀ r ∈ laneReports again old new, r.mild = true := by
  intro r hr
  simp only [laneReports, List.mem_append] at hr
  rcases hr with hr | hr
  all_goals
    split at hr
    · rw [List.mem_singleton.mp hr]; rfl
    · cases hr

/-- The ports open with nothing of the hosts' left; only the host side, the event log and the zones' growths change. -/
theorem State.openPorts_hostSide (s : State) (perst : List Nat) :
    s.openPorts perst = { s with
        qce := (s.openPorts perst).qce, tas := (s.openPorts perst).tas, hfu := (s.openPorts perst).hfu, sec := (s.openPorts perst).sec
        fev := (s.openPorts perst).fev, fl := { s.fl with ptx := { s.fl.ptx with growths := [] } } }
      ∧ (s.openPorts perst).qce.ctxs = [] ∧ (s.openPorts perst).hfu.conns = [] ∧ (s.openPorts perst).sec.keys = s.sec.keys := by
  obtain ⟨g, rs, hopen, hmild, hbase⟩ : ∃ (g : State) (rs : List Report), s.openPorts perst = g.reports rs ∧ (∀ r ∈ rs, r.mild = true)
      ∧ ∃ b : State, b.HostCleared g ∧ b = { s with hfu := b.hfu, qce := b.qce, tas := b.tas, fl := { s.fl with ptx := { s.fl.ptx with growths := [] } } }
        ∧ b.qce.ctxs = [] ∧ b.hfu.conns = [] :=
    ⟨_, _, rfl, laneReports_mild _ _ _, _, .foldl (f := fun (s : State) (p : Nat × Port) => s.openPort p.1 p.2) (fun s p => s.openPort_hostCleared p.1 p.2) _ _, rfl, rfl, rfl⟩
  obtain ⟨b, hcleared, hb, hctx, hconn⟩ := hbase
  obtain ⟨hg, hgctx, hgconn, hgkeys⟩ := hcleared
  rw [hopen, State.reports_mild g rs hmild]
  refine ⟨?_, hgctx hctx, hgconn hconn, ?_⟩
  · rw [hg, hb]
  · rw [hgkeys, hb]

/-! ### A start whose boot ROM fails -/

/-- A start that finds the ROM's checks failing stops after the cold entry. -/
theorem State.start_romHalt (s : State) (env : StartEnv) (powerOn : Bool) (lastCold : Nat) (hrom : env.romGood = false) :
    s.start env powerOn lastCold
      = { s.coldEntry env powerOn lastCold with
          mgc := { (s.coldEntry env powerOn lastCold).mgc with
            regs := (s.coldEntry env powerOn lastCold).mgc.regs.setFld .mgcBootstat 23 16 (s.coldEntry env powerOn lastCold).straps, boot := .romHalt } } := by
  rw [State.start, hrom]
  rfl

/-- What the cold entry leaves: nothing of the hosts' commands, connections and keys, no byte listed in DRAM, no Cameleer; the flash side as it was. -/
theorem State.coldEntry_leaves (s : State) (env : StartEnv) (powerOn : Bool) (lastCold : Nat) :
    (s.coldEntry env powerOn lastCold).clock = (if powerOn then { s.clock with now := 0, pcyc := s.clock.pcyc + 1 } else s.clock)
      ∧ (s.coldEntry env powerOn lastCold).straps = (if powerOn then env.straps % 256 else s.straps) ∧ (s.coldEntry env powerOn lastCold).porst = false
      ∧ (s.coldEntry env powerOn lastCold).qce.ctxs = [] ∧ (s.coldEntry env powerOn lastCold).hfu.conns = []
      ∧ (s.coldEntry env powerOn lastCold).sec.keys = [] ∧ (s.coldEntry env powerOn lastCold).mss.mem = []
      ∧ (s.coldEntry env powerOn lastCold).mgc.acRun = 0 ∧ (s.coldEntry env powerOn lastCold).mgc.resetDue = false
      ∧ (s.coldEntry env powerOn lastCold).fl = { s.fl with ptx := { s.fl.ptx with growths := [] } }
      ∧ (s.coldEntry env powerOn lastCold).pending = s.pending ∧ (s.coldEntry env powerOn lastCold).out = s.out := by
  obtain ⟨b, hentry, hclock, hstraps, hporst, hkeys, hmem, hrun, hdue, hfl, hpending, hout⟩ : ∃ b : State, s.coldEntry env powerOn lastCold = b.openPorts env.perst
      ∧ b.clock = (if powerOn then { s.clock with now := 0, pcyc := s.clock.pcyc + 1 } else s.clock)
      ∧ b.straps = (if powerOn then env.straps % 256 else s.straps) ∧ b.porst = false ∧ b.sec.keys = [] ∧ b.mss.mem = [] ∧ b.mgc.acRun = 0
      ∧ b.mgc.resetDue = false ∧ b.fl = s.fl ∧ b.pending = s.pending ∧ b.out = s.out :=
    ⟨_, rfl, rfl, rfl, rfl, rfl, rfl, rfl, rfl, rfl, rfl, rfl⟩
  obtain ⟨hframe, hctx, hconn, hkeys'⟩ := b.openPorts_hostSide env.perst
  rw [hentry]
  refine ⟨?_, ?_, ?_, hctx, hconn, hkeys'.trans hkeys, ?_, ?_, ?_, ?_, ?_, ?_⟩
  · rw [hframe, ← hclock]
  · rw [hframe, ← hstraps]
  · rw [hframe, ← hporst]
  · rw [hframe, ← hmem]
  · rw [hframe, ← hrun]
  · rw [hframe, ← hdue]
  · rw [hframe, ← hfl]
  · rw [hframe, ← hpending]
  · rw [hframe, ← hout]

/-! ### Power loss -/

/-- A power loss with a judged HUE: no command runs any more, no port has a link, and the dump starts. -/
theorem State.powerLoss_judged {s : State} (h : s.ptm.hue.judged = true) :
    s.powerLoss = ({ s with
        fl := s.fl.enterSafe, mss := s.mss.stopScrub, hfu := s.hfu.dark, mgc := { s.mgc with act := none, acRun := 0 } } : State).startDump 0 :=
  if_pos h

/-- A power loss without a HUE loses what no dump carries. -/
theorem State.powerLoss_absent {s : State} (h : s.ptm.hue = .absent) :
    s.powerLoss = { s with ptm := { s.ptm with dumpRes := 3 }, fl := { s.fl with ptx := { s.fl.ptx with unsafeShut := s.fl.ptx.unsafeShut + 1 } } } := by
  rw [State.powerLoss, h]
  rfl

/-- What the start of a dump leaves of PTM, and that it leaves the host side and MGC. -/
theorem State.startDump_starts (s : State) (cause : Nat) :
    (s.startDump cause).ptm.hue = .dumping ∧ (s.startDump cause).ptm.dumpSeq = s.ptm.dumpSeq + 1 ∧ (s.startDump cause).ptm.dump.isSome = true
      ∧ (s.startDump cause).fl.ptx.dump.isSome = true ∧ (s.startDump cause).ptm.pfail = s.ptm.pfail ∧ (s.startDump cause).ptm.regs = s.ptm.regs
      ∧ (s.startDump cause).mgc = s.mgc ∧ (s.startDump cause).hfu = s.hfu :=
  ⟨rfl, rfl, rfl, rfl, rfl, rfl, rfl, rfl⟩

/-- No port of a dark HFU has a link. -/
theorem Hfu.dark_down (h : Hfu) {n : Nat} {p : Port} (hp : Tab.get? h.dark.ports n = some p) : p.state = .down := by
  simp only [Hfu.dark, Tab.get?_mapVals, Option.map_eq_some_iff] at hp
  obtain ⟨q, -, rfl⟩ := hp
  rfl

/-! ### PORST_ASSERT (R478, R480) -/

section
variable {s : State} (hup : s.up = true) (hporst : s.porst = false)
include hup hporst

/-- An asserted PORST_N acts by the state of the HUE. -/
theorem exec_porstAssert_acts : exec .porstAssert s = .next (
    if s.ptm.hue = .dumping then { s with porst := true }
    else if s.ptm.hue = .off || s.mgc.quiesced || s.mgc.boot != .ready then s.hold
    else if s.ptm.hue.judged then { s.powerLoss with porst := true }
    else s.powerLoss.hold) := by
  change execPorstAssert s = _
  rw [execPorstAssert, hup, hporst]
  rfl

theorem exec_porstAssert_dumping (hhue : s.ptm.hue = .dumping) : exec .porstAssert s = .next { s with porst := true } := by
  rw [exec_porstAssert_acts hup hporst, if_pos hhue]

/-- With nothing to dump the reset takes effect at once. -/
theorem exec_porstAssert_holds (hhue : s.ptm.hue ≠ .dumping) (hidle : s.ptm.hue = .off ∨ s.mgc.quiesced = true ∨ s.mgc.boot ≠ .ready) :
    exec .porstAssert s = .next { s with porst := true, mgc := { s.mgc with boot := .reset } } := by
  rw [exec_porstAssert_acts hup hporst, if_neg hhue, if_pos (by simpa [or_assoc] using hidle), State.hold, State.cutDump, if_neg hhue]

theorem exec_porstAssert_live (hhue : s.ptm.hue ≠ .dumping) (hoff : s.ptm.hue ≠ .off) (hquiet : s.mgc.quiesced = false) (hready : s.mgc.boot = .ready) :
    exec .porstAssert s = .next (if s.ptm.hue.judged then { s.powerLoss with porst := true } else s.powerLoss.hold) := by
  rw [exec_porstAssert_acts hup hporst, if_neg hhue, if_neg (by simp [hoff, hquiet, hready])]

end

/-! ### The rails (R512) -/

/-- A power-on reset holds the device; a dump that runs is cut off. -/
theorem State.hold_holds (s : State) :
    s.hold.porst = true ∧ s.hold.mgc.boot = .reset ∧ s.hold.clock = s.clock ∧ (s.ptm.hue = .dumping → s.hold.ptm.dumpRes = 2) := by
  rw [State.hold, State.cutDump]
  split
  · exact ⟨rfl, rfl, rfl, fun _ => rfl⟩
  · next h => exact ⟨rfl, rfl, rfl, fun h' => absurd h' h⟩

/-- The fault of a rail is one of class U, and fells the device. -/
theorem State.railFault_fells {s : State} (hdump : s.dumped = false) (hsafe : s.fev.safe = false) : ∃ src code, Safety.fellSafe s s.railFault src code := by
  obtain ⟨u, r, hcls, hu, hdump', hrail⟩ : ∃ (u : State) (r : Report), r.cls = .u ∧ u = { s with free := u.free } ∧ u.dumped = s.dumped
      ∧ s.railFault = if s.dumped || s.fev.safe then s else u.report r :=
    ⟨s.fresh.2.fresh.2, ⟨s.fresh.1 % 256, s.fresh.2.fresh.1 % 256, .u, 3, 0, 0, 0, 0, 0⟩, rfl, rfl, rfl, rfl⟩
  rw [hrail, hdump, hsafe]
  refine ⟨r.src, r.code, ?_⟩
  have hfell := (State.report_unsafe hcls (by rw [hu]; exact hsafe) (hdump'.trans hdump)).1
  rw [hu] at hfell ⊢
  exact hfell

/-- While no port has a link the SerDes rail takes none away. -/
theorem State.portsLost_none {s : State} (hdown : ∀ n p, Tab.get? s.hfu.ports n = some p → p.state = .down) (l : List Nat) :
    l.foldl (fun (g : State) n => if g.linked n .pcie || g.linked n .eth then g.portLoss n .down else g) s = s := by
  have hlinked : ∀ n proto, s.linked n proto = false := fun n proto => by
    unfold State.linked
    split
    · next p hp => simp [hdown n p hp]
    · exact Bool.and_false _
  induction l with
  | nil => rfl
  | cons n l ih => rw [List.foldl_cons, hlinked, hlinked]; exact ih

/-- The supplies of the parts: nothing acts while the dump owns them. -/
theorem exec_undervoltage_dumped {s : State} (hdump : s.dumped = true) (k : Nat) : exec (.supplyUndervoltage (.nand k)) s = .next s := by
  change execSupplyUndervoltage (.nand k) s = _
  simp only [execSupplyUndervoltage, hdump, Bool.or_true, if_true]

theorem exec_undervoltage_nand {s : State} (hup : s.up = true) (hdump : s.dumped = false) {k : Nat} (hch : (clusterChannels k).any s.fl.hw.hasChannel = true) :
    exec (.supplyUndervoltage (.nand k)) s = .next s.railFault := by
  change execSupplyUndervoltage (.nand k) s = _
  simp only [execSupplyUndervoltage, hup, hdump, hch]
  rfl

theorem exec_undervoltage_serdes {s : State} (hup : s.up = true) (hdump : s.dumped = false) :
    exec (.supplyUndervoltage .serdes) s
      = .next (let g := (s.hfu.ports.map Prod.fst).foldl (fun (g : State) n => if g.linked n .pcie || g.linked n .eth then g.portLoss n .down else g) s
        { g with hfu := { g.hfu with railLow := true } }) := by
  change execSupplyUndervoltage .serdes s = _
  simp only [execSupplyUndervoltage, hup, hdump]
  rfl

/-! ### O57 -/

/-- POWER_ON_RESET with PORST_N low and no dump is a start; with a failing ROM it halts on the cold entry. -/
theorem exec_powerOnReset_starts {s : State} (env : StartEnv) (hporst : s.porst = true) (hhue : s.ptm.hue ≠ .dumping) :
    exec (.powerOnReset env) s = .next (s.start env true 0) :=
  congrArg Host.Outcome.next (if_pos (by simp [hporst, hhue]))

theorem exec_deviceReset_starts {s : State} (env : StartEnv) (hdue : s.mgc.resetDue = true) (hup : s.up = true) (hsafe : s.fev.safe = false) :
    exec (.deviceReset env) s = .next ((s.until' (s.clock.now + msT)).start env false 1) :=
  congrArg Host.Outcome.next (if_pos (by simp [hdue, hup, hsafe]))

theorem exec_powerReturn_starts {s : State} (env : StartEnv) (hhue : s.ptm.hue = .off) (hporst : s.porst = false) (hthr : s.ptm.throttle ≠ .shutdown)
    (hup : s.up = true) :
    exec (.powerReturnAfterDump env) s
      = .next (({ s.until' (s.clock.now + 100 * msT) with ptm := { s.ptm with pfail := false } } : State).start env false 3) := by
  change execPowerReturnAfterDump env s = _
  rw [execPowerReturnAfterDump, if_pos (by simp [hhue, hporst, hthr, hup])]
  dsimp only
  rw [State.until'_ptm]

theorem exec_safehold_keeps {s : State} (env : StartEnv) (hhold : s.fev.regs.fld .fevCfg 7 0 = 0) : exec (.safeholdExpiry env) s = .next s :=
  congrArg Host.Outcome.next (if_neg (by simp [hhold]))

theorem exec_safehold_starts {s : State} (env : StartEnv) (hsafe : s.fev.safe = true) (hsd : s.fev.safeDump = false) (hst : s.fev.safeThermal = false)
    (hdump : s.dumped = false) (hporst : s.porst = false) (hhold : s.fev.regs.fld .fevCfg 7 0 ≠ 0) :
    exec (.safeholdExpiry env) s
      = .next ((s.until' (s.clock.now + ((s.fev.safeEntries.headD 0 + s.fev.regs.fld .fevCfg 7 0 * secT) - s.clock.aon))).start env false 2) :=
  congrArg Host.Outcome.next (if_pos (by simp [hsafe, hsd, hst, hdump, hporst, hhold]))

theorem exec_pfailAssert_loses {s : State} (hup : s.up = true) :
    exec .pfailAssert s = .next ({ s with ptm := { s.ptm with pfail := true, regs := s.ptm.regs.setFld .ptmHuestat 25 25 1 } } : State).powerLoss :=
  congrArg Host.Outcome.next (if_pos hup)

/-- DUMP_COMPLETE with a dump that runs writes its trailer and ends it. -/
theorem exec_dumpComplete_ends {s : State} {d : DumpInfo} (hhue : s.ptm.hue = .dumping) (hd : s.ptm.dump = some d) :
    ∃ t, exec .dumpComplete s = .next t ∧ t.ptm.hue = .off ∧ t.ptm.dumpRes = 1 ∧ t.ptm.dumpTime = (s.clock.now - d.started) / 10
      ∧ (∀ w, s.fl.ptx.dump = some w → t.ptm.dumpBytes = w.bytes ∧ t.fl.ptx.dump = some { w with trailer := true })
      ∧ t.mgc = { s.mgc with acRun := 0, boot := if s.porst then .reset else s.mgc.boot } := by
  have hend (carried : Nat) : s.ptm.dumpEnd s.clock.now carried
      = { s.ptm with hue := .off, dumpBytes := carried, dumpTime := (s.clock.now - d.started) / 10, dumpRes := 1 } := by
    simp only [Ptm.dumpEnd, hd]
  refine ⟨_, congrArg Host.Outcome.next (if_pos hhue), ?_, ?_, ?_, ?_, rfl⟩
  · dsimp only; rw [hend]
  · dsimp only; rw [hend]
  · dsimp only; rw [hend]
  · intro w hw
    dsimp only
    rw [hend, hw]
    exact ⟨rfl, rfl⟩

/-- Settles O57: the starts go through the cold entry; power loss, the dump's end and the rails through what each leaves. -/
theorem resetsAndPowerLoss : Obligations.ResetsAndPowerLoss := by
  unfold Obligations.ResetsAndPowerLoss
  refine ⟨?_, ?_, ?_, ?_, ?_, ?_, ?_, ?_⟩
  · intro s env hporst hhue
    refine ⟨_, exec_powerOnReset_starts env hporst hhue, rfl, fun hrom => ?_⟩
    obtain ⟨hclock, hstraps, hlow, hctx, hconn, hkeys, hmem, hrun, -, hfl, hpending, hout⟩ := s.coldEntry_leaves env true 0
    rw [s.start_romHalt env true 0 hrom]
    exact ⟨rfl, by rw [hclock]; rfl, by rw [hclock]; rfl, hstraps, hlow, hctx, hconn, hkeys, hmem, hrun, hfl, hpending, hout⟩
  · intro s env hdue hup hsafe
    refine ⟨_, exec_deviceReset_starts env hdue hup hsafe, rfl, fun hrom => ?_⟩
    have hnow := s.until'_now (s.clock.now + msT)
    have hpcyc : (s.until' (s.clock.now + msT)).clock.pcyc = s.clock.pcyc := rfl
    have hfl0 := s.until'_fl (s.clock.now + msT)
    have hstraps0 := s.until'_straps (s.clock.now + msT)
    obtain ⟨g, hg⟩ : ∃ g, g = s.until' (s.clock.now + msT) := ⟨_, rfl⟩
    rw [← hg] at hnow hpcyc hfl0 hstraps0 ⊢
    obtain ⟨hclock, hstraps, hlow, hctx, hconn, hkeys, hmem, hrun, hres, hfl, -, -⟩ := g.coldEntry_leaves env false 1
    rw [g.start_romHalt env false 1 hrom]
    refine ⟨rfl, ?_, ?_, hstraps.trans hstraps0, hctx, hconn, hkeys, hmem, hrun, hres, hfl.trans (by rw [hfl0])⟩
    · rw [hclock, if_neg Bool.false_ne_true, hnow]
      exact Nat.max_eq_right (Nat.le_add_right _ _)
    · rw [hclock, if_neg Bool.false_ne_true, hpcyc]
  · intro s env hhue hporst hthr hup
    exact ⟨_, exec_powerReturn_starts env hhue hporst hthr hup, rfl⟩
  · intro s env hsafe hsd hst hdump hporst
    exact ⟨fun hhold => ⟨_, exec_safehold_keeps env hhold, rfl⟩,
      fun hhold => ⟨_, _, exec_safehold_starts env hsafe hsd hst hdump hporst hhold, rfl, rfl⟩⟩
  · intro s hup hporst
    refine ⟨fun hhue => ⟨_, exec_porstAssert_dumping hup hporst hhue, rfl⟩, fun hhue hidle => ⟨_, exec_porstAssert_holds hup hporst hhue hidle, rfl⟩, ?_, ?_⟩
    · intro hjudged hquiet hready
      have hhue : s.ptm.hue ≠ .dumping ∧ s.ptm.hue ≠ .off := by
        constructor <;> (intro h; rw [h] at hjudged; cases hjudged)
      have hexec := exec_porstAssert_live hup hporst hhue.1 hhue.2 hquiet hready
      rw [if_pos hjudged, State.powerLoss_judged hjudged] at hexec
      obtain ⟨g, hg⟩ : ∃ g, g = ({ s with fl := s.fl.enterSafe, mss := s.mss.stopScrub, hfu := s.hfu.dark, mgc := { s.mgc with act := none, acRun := 0 } } : State) := ⟨_, rfl⟩
      rw [← hg] at hexec
      obtain ⟨hdumping, -, hinfo, hdump, -, -, hmgc, -⟩ := g.startDump_starts 0
      exact ⟨_, hexec, rfl, hdumping, hinfo, hdump, by rw [hmgc, hg]; exact hready, by rw [hmgc, hg]⟩
    · intro hhue hquiet hready
      have hexec := exec_porstAssert_live hup hporst (by rw [hhue]; decide) (by rw [hhue]; decide) hquiet hready
      rw [hhue, if_neg (by decide), State.powerLoss_absent hhue, State.hold, State.cutDump, if_neg (by dsimp only; rw [hhue]; decide)] at hexec
      exact ⟨_, hexec, rfl, rfl, rfl, rfl, rfl⟩
  · intro s hup
    refine ⟨fun hjudged => ?_, fun hhue => ?_⟩
    · have hexec := exec_pfailAssert_loses hup
      rw [State.powerLoss_judged (by exact hjudged)] at hexec
      obtain ⟨g, hg, hpfail, hregs, hseq, hrun, hact, hhfu⟩ : ∃ g : State, g = ({ s with
          ptm := { s.ptm with pfail := true, regs := s.ptm.regs.setFld .ptmHuestat 25 25 1 }
          fl := s.fl.enterSafe, mss := s.mss.stopScrub, hfu := s.hfu.dark, mgc := { s.mgc with act := none, acRun := 0 } } : State) ∧ g.ptm.pfail = true
          ∧ g.ptm.regs = s.ptm.regs.setFld .ptmHuestat 25 25 1 ∧ g.ptm.dumpSeq = s.ptm.dumpSeq ∧ g.mgc.acRun = 0 ∧ g.mgc.act = none ∧ g.hfu = s.hfu.dark :=
        ⟨_, rfl, rfl, rfl, rfl, rfl, rfl, rfl⟩
      replace hexec : exec .pfailAssert s = .next (g.startDump 0) := by rw [hexec, hg]
      obtain ⟨hdumping, hnext, hinfo, hdump, hpf, hrg, hmgc, hports⟩ := g.startDump_starts 0
      refine ⟨_, hexec, hpf.trans hpfail, ?_, hdumping, hnext.trans (by rw [hseq]), hinfo, hdump, by rw [hmgc, hrun], by rw [hmgc, hact], fun n p hp => ?_⟩
      · rw [hrg, hregs]
        exact RegFile.bit_setFld_self _ _ 1 (by decide)
      · rw [hports, hhfu] at hp
        exact Hfu.dark_down _ hp
    · have hexec := exec_pfailAssert_loses hup
      rw [State.powerLoss_absent (by exact hhue)] at hexec
      exact ⟨_, hexec, rfl, hhue, rfl, rfl⟩
  · exact fun s d hhue hd => exec_dumpComplete_ends hhue hd
  · intro s hup
    refine ⟨?_, ?_, fun hdump k => ⟨s, exec_undervoltage_dumped hdump k, rfl⟩, ?_, ?_⟩
    · obtain ⟨hlow, hboot, -, hres⟩ := s.hold_holds
      exact ⟨s.hold, congrArg Host.Outcome.next (if_pos hup), hlow, hboot, hres⟩
    · obtain ⟨hlow, hboot, hclock, -⟩ := s.hold_holds
      exact ⟨s.hold.aonLost, rfl, hlow, hboot, rfl, rfl, congrArg Clock.aon hclock⟩
    · intro hdump hsafe k hch
      obtain ⟨src, code, hfell⟩ := State.railFault_fells hdump hsafe
      exact ⟨_, src, code, exec_undervoltage_nand hup hdump hch, hfell⟩
    · intro hdump hdown
      have hexec := exec_undervoltage_serdes hup hdump
      rw [State.portsLost_none hdown] at hexec
      exact ⟨_, hexec, rfl⟩

end Sys2Proof.Machine
end

section
/-! Clean shutdown (R472 to R475), and O58. -/

namespace Sys2Proof.Machine

/-- SHUT and DEVRST, served, start a shutdown on the state with the register stored. -/
theorem exec_rstctl_served {s : State} {r : Requester} (h : Safety.served s r .mgcRstctl) :
    (∃ regs, exec (.mgcRstctlShut r) s = .next (({ s with mgc := { s.mgc with regs := regs } } : State).startShutdown false))
      ∧ ∃ regs, exec (.mgcRstctlDevrst r) s = .next (({ s with mgc := { s.mgc with regs := regs } } : State).startShutdown true) :=
  ⟨⟨_, congrArg Host.Outcome.next (served_write h 0x80000000 fun g => g.rstCtl 0x80000000)⟩,
    ⟨_, congrArg Host.Outcome.next (served_write h 0x40000000 fun g => g.rstCtl 0x40000000)⟩⟩

/-- An instance of a table whose every instance was mapped. -/
theorem Qce.inst?_of_mapped {q q' : Qce} {f : Inst → Inst} (hq : q'.insts = Tab.mapVals q.insts fun _ i => f i) {i : Nat} {x : Inst} (hx : q.inst? i = some x) :
    q'.inst? i = some (f x) := by
  rw [Qce.inst?] at hx ⊢
  rw [hq, Tab.get?_mapVals, hx]
  rfl

section
variable {s : State} {dev : Bool} (hruns : s.runs = true)
include hruns

/-- Where nothing shuts down yet, a shutdown starts now. -/
theorem State.startShutdown_new (hquiet : s.mgc.quiesced = false) (hnone : s.mgc.shutdown = none) :
    s.startShutdown dev = { s with
      mgc := { s.mgc with shutdown := some ⟨s.clock.now, dev⟩ }
      qce := { s.qce with insts := Tab.mapVals s.qce.insts fun _ i => if i.state = .ready ∧ i.shst = 0 then { i with shst := 1 } else i } } := by
  rw [State.startShutdown, hruns, hquiet, hnone]
  rfl

/-- One that runs may only gain the reset. -/
theorem State.startShutdown_running {d : Shutdown} (hquiet : s.mgc.quiesced = false) (hsome : s.mgc.shutdown = some d) :
    s.startShutdown dev = { s with mgc := { s.mgc with shutdown := some { d with devrst := d.devrst || dev } } } := by
  rw [State.startShutdown, hruns, hquiet, hsome]
  rfl

/-- One that has ended is followed by the reset. -/
theorem State.startShutdown_ended (hquiet : s.mgc.quiesced = true) :
    s.startShutdown dev = { s with mgc := { s.mgc with resetDue := s.mgc.resetDue || dev } } := by
  rw [State.startShutdown, hruns, hquiet]
  rfl

/-- CLEAN_SHUTDOWN_COMPLETE waits, takes the step that is due, or ends the shutdown. -/
theorem exec_cleanShutdownComplete_steps {d : Shutdown} (hsome : s.mgc.shutdown = some d) :
    exec .cleanShutdownComplete s = .next (if s.anyLive || s.mgc.act.isSome || s.recoveringFw then s
      else match s.fl.shutdownStep s.clock.now s.hours with
        | none => s.quiesce d
        | some r => s.media r) := by
  change Host.Outcome.next (s.whenRuns _) = _
  rw [State.whenRuns, if_pos hruns, hsome] <;> rfl

end

/-- What the end of a shutdown leaves. -/
theorem State.quiesce_ends (s : State) (d : Shutdown) :
    (s.quiesce d).mgc.quiesced = true ∧ (s.quiesce d).mgc.shutdown = none ∧ (s.quiesce d).mgc.resetDue = d.devrst
      ∧ (s.quiesce d).mgc.regs.fld .mgcRstctl 23 0 = min 16777215 ((s.clock.now - d.startedAt) / 10000)
      ∧ s.quiesce d = { s with
          mgc := { s.mgc with shutdown := none, quiesced := true, resetDue := d.devrst, regs := (s.quiesce d).mgc.regs, ah := (s.quiesce d).mgc.ah }
          qce := { s.qce with insts := Tab.mapVals s.qce.insts fun _ i => if i.state = .ready then { i with shst := 2 } else i } } := by
  obtain ⟨m, hm, hq, hs, hr, hregs, hframe⟩ : ∃ m : Mgc, s.quiesce d = { s with
      mgc := m, qce := { s.qce with insts := Tab.mapVals s.qce.insts fun _ i => if i.state = .ready then { i with shst := 2 } else i } }
      ∧ m.quiesced = true ∧ m.shutdown = none ∧ m.resetDue = d.devrst
      ∧ m.regs = s.mgc.regs.setFld .mgcRstctl 23 0 (min 16777215 ((s.clock.now - d.startedAt) / 10000))
      ∧ m = { s.mgc with shutdown := none, quiesced := true, resetDue := d.devrst, regs := m.regs, ah := m.ah } := by
    rw [State.quiesce]
    dsimp only
    split
    · split
      · exact ⟨_, rfl, rfl, rfl, rfl, rfl, rfl⟩
      · exact ⟨_, rfl, rfl, rfl, rfl, rfl, rfl⟩
    · exact ⟨_, rfl, rfl, rfl, rfl, rfl, rfl⟩
  rw [hm]
  refine ⟨hq, hs, hr, ?_, ?_⟩
  · dsimp only
    rw [hregs, RegFile.fld_setFld_self _ _ _ _ _ (by decide)]
    exact Nat.mod_eq_of_lt (Nat.lt_of_le_of_lt (Nat.min_le_left _ _) (by decide))
  · dsimp only
    rw [← hframe]

/-- Settles O58: the write that starts a shutdown by what runs already, and each CLEAN_SHUTDOWN_COMPLETE by the step that is due. -/
theorem cleanShutdown : Obligations.CleanShutdown := by
  unfold Obligations.CleanShutdown
  refine ⟨?_, ?_, ?_, ?_⟩
  · intro s r v dev c hserved hruns hquiet hnone hc
    obtain ⟨hshut, hdevrst⟩ := exec_rstctl_served hserved
    obtain ⟨regs, hexec⟩ : ∃ regs, exec c s = .next (({ s with mgc := { s.mgc with regs := regs } } : State).startShutdown dev) := by
      rcases hc with ⟨rfl, -, rfl⟩ | ⟨rfl, -, rfl⟩
      · exact hshut
      · exact hdevrst
    refine ⟨_, hexec.trans (congrArg _ (State.startShutdown_new (by exact hruns) hquiet hnone)), rfl, ?_, fun i x hx => ?_, rfl⟩
    · simp [State.fetches]
    · exact Qce.inst?_of_mapped (f := fun i => if i.state = .ready ∧ i.shst = 0 then { i with shst := 1 } else i) rfl hx
  · intro s r d c hserved hruns hquiet hsome
    have hadded (regs : RegFile) (dev : Bool) :
        (({ s with mgc := { s.mgc with regs := regs } } : State).startShutdown dev).mgc.shutdown = some { d with devrst := d.devrst || dev } :=
      congrArg (·.mgc.shutdown) (State.startShutdown_running (s := { s with mgc := { s.mgc with regs := regs } }) hruns hquiet hsome)
    obtain ⟨⟨regs, hshut⟩, regs', hdevrst⟩ := exec_rstctl_served hserved
    refine ⟨?_, ?_⟩
    · rintro rfl
      exact ⟨_, hshut, by rw [hadded, Bool.or_false]⟩
    · rintro rfl
      exact ⟨_, hdevrst, by rw [hadded, Bool.or_true]⟩
  · intro s r hserved hruns hquiet
    obtain ⟨-, regs, hexec⟩ := exec_rstctl_served hserved
    have hended := State.startShutdown_ended (s := { s with mgc := { s.mgc with regs := regs } }) (dev := true) hruns hquiet
    rw [Bool.or_true] at hended
    exact ⟨_, hexec.trans (congrArg _ hended), rfl, rfl⟩
  · intro s d hruns hsome
    have hexec := exec_cleanShutdownComplete_steps hruns hsome
    refine ⟨fun hbusy => ⟨s, ?_, rfl⟩, fun hlive hact hrec => ?_⟩
    · rw [hexec, if_pos (by simpa [or_assoc] using hbusy)]
    · rw [if_neg (by simp [hlive, hact, hrec])] at hexec
      refine ⟨fun step hstep => ⟨s.media step, ?_, rfl⟩, fun hstep => ?_⟩
      · rw [hexec, hstep]
      · rw [hstep] at hexec
        obtain ⟨hq, hs, hr, hfld, hframe⟩ := s.quiesce_ends d
        have hinsts : (s.quiesce d).qce = { s.qce with insts := Tab.mapVals s.qce.insts fun _ i => if i.state = .ready then { i with shst := 2 } else i } := by
          rw [hframe]
        refine ⟨_, hexec, hq, hs, hr, hfld, fun i x hx => ?_, hframe.trans (by rw [hinsts])⟩
        exact Qce.inst?_of_mapped (f := fun i => if i.state = .ready then { i with shst := 2 } else i) (by rw [hinsts]) hx

end Sys2Proof.Machine
end

section
/-! Links (R37 to R42, R44, R54, R55, R476, R512), and O59. -/

namespace Sys2Proof.Machine

/-! ### A link goes down -/

/-- The report of a link's loss reaches FEV alone. -/
theorem State.linkLoss_eq (s : State) (n : Nat) (next : LinkState) :
    s.linkLoss n next = { s with hfu := (s.hfu.linkDown n next).1
                                 fev := s.fev.report (mkReport 0x01 0x03 4 n ((s.hfu.linkDown n next).1.regs.fld (.hfuLinkstat n) 7 0) 0 0) s.stamp } :=
  State.report_mild (s := { s with hfu := (s.hfu.linkDown n next).1 }) (r := mkReport 0x01 0x03 4 n ((s.hfu.linkDown n next).1.regs.fld (.hfuLinkstat n) 7 0) 0 0) rfl

/-- What a link's loss leaves: the port without speed and width, the loss counted and latched. -/
theorem Hfu.linkDown_leaves {h : Hfu} {n : Nat} {p : Port} (next : LinkState) (hp : Tab.get? h.ports n = some p) :
    Tab.get? (h.linkDown n next).1.ports n = some { p with state := next, speed := 0, width := 0, paused := [] }
      ∧ (h.linkDown n next).1.regs.fld (.hfuLinkstat n) 7 0 = min 255 (h.regs.fld (.hfuLinkstat n) 7 0 + 1)
      ∧ (h.linkDown n next).1.regs.fld (.hfuLinkstat n) 13 13 = 1 := by
  refine ⟨Tab.get?_upd_self (f := fun q : Port => { q with state := next, speed := 0, width := 0, paused := [] }) hp, ?_, RegFile.fld_setFld_self _ _ _ _ _ (by decide)⟩
  exact (RegFile.fld_setFld_ne _ _ _ _ _ _ _ (by decide) (Or.inl (by decide))).trans (RegFile.satFld_self _ _ _ _ _ (by decide))

theorem State.linkLoss_enclosed (s : State) (n : Nat) (next : LinkState) :
    (s.linkLoss n next).fev.safe = s.fev.safe ∧ (s.linkLoss n next).dumped = s.dumped := by
  rw [State.linkLoss_eq]
  exact ⟨congrArg Prod.fst (Fev.report_core ..), rfl⟩

/-- In the safe state and while the dump owns the supplies no instance is reset. -/
theorem State.portReset_enclosed {s : State} (h : s.fev.safe = true ∨ s.dumped = true) (n : Nat) : s.portReset n = s := by
  rw [State.portReset, if_pos (by simpa using h)]

/-- A PCIe port whose link is not down is linked as such, and an Ethernet one as such. -/
theorem State.linked_iff {s : State} {n : Nat} {p : Port} (hup : s.up = true) (hp : Tab.get? s.hfu.ports n = some p) (hstate : p.state ≠ .down) (proto : Proto) :
    s.linked n proto = (p.proto == proto) := by
  simp [State.linked, hup, hp, hstate]

section
variable {s : State} {n : Nat} {p : Port} (hup : s.up = true) (hp : Tab.get? s.hfu.ports n = some p) (hstate : p.state ≠ .down)
include hup hp hstate

/-- The loss of a PCIe port resets its instances. -/
theorem State.portLoss_pcie (hproto : p.proto = .pcie) (next : LinkState) : s.portLoss n next = (s.linkLoss n next).portReset n := by
  rw [State.portLoss, State.linked_iff hup hp hstate, hproto]
  rfl

/-- The loss of an Ethernet port leaves its associations. -/
theorem State.portLoss_eth (hproto : p.proto = .eth) (next : LinkState) : s.portLoss n next = s.linkLoss n next := by
  rw [State.portLoss, State.linked_iff hup hp hstate, State.linked_iff hup hp hstate, hproto]
  rfl

theorem exec_linkDown_pcie (hproto : p.proto = .pcie) {c : Instr} (hc : c = .pcieHotReset n ∨ c = .pcieLinkDown n) :
    exec c s = .next ((s.linkLoss n .training).portReset n) := by
  have hlinked : s.linked n .pcie = true := by rw [State.linked_iff hup hp hstate, hproto]; rfl
  have hloss := State.portLoss_pcie hup hp hstate hproto .training
  rcases hc with rfl | rfl
  · exact congrArg Host.Outcome.next ((if_pos hlinked).trans hloss)
  · exact congrArg Host.Outcome.next ((if_pos hlinked).trans hloss)

theorem exec_linkDown_eth (hproto : p.proto = .eth) : exec (.ethLinkDown n) s = .next (s.linkLoss n .training) := by
  have hlinked : s.linked n .eth = true := by rw [State.linked_iff hup hp hstate, hproto]; rfl
  exact congrArg Host.Outcome.next ((if_pos hlinked).trans (State.portLoss_eth hup hp hstate hproto .training))

end

/-- Without a link on any port the loss of a list of them does nothing. -/
theorem State.portLosses_unlinked {s : State} (h : ∀ n, s.linked n .pcie = false ∧ s.linked n .eth = false) (next : LinkState) (l : List Nat) :
    l.foldl (fun (u : State) n => u.portLoss n next) s = s := by
  induction l with
  | nil => rfl
  | cons n l ih =>
    rw [List.foldl_cons, State.portLoss, (h n).1, (h n).2]
    exact ih

/-! ### LINK_TRAINED (R54) -/

/-- A port whose link is up at a speed and a width. -/
def Port.trained (q : Port) (speed width : Nat) : Port := { q with state := .up, speed := speed, width := width }

section
variable {s : State} {n speed width best : Nat} {p : Port} (hup : s.up = true) (hrail : s.hfu.railLow = false)
include hup hrail

theorem exec_linkTrained_acts :
    exec (.linkTrained n speed width best) s = .next (({ s with hfu := (s.hfu.linkUp n speed width best).1 } : State).reports (s.hfu.linkUp n speed width best).2) :=
  congrArg Host.Outcome.next (if_pos (by simp [hup, hrail]))

variable (hp : Tab.get? s.hfu.ports n = some p)
include hp

/-- A port that does not train, or has trained, stays as it is. -/
theorem exec_linkTrained_keeps
    (hno : p.state = .down ∨ p.proto = .eth ∧ p.state = .up ∨ p.proto = .pcie ∧ pcieTrains p.lanes speed width = false) :
    exec (.linkTrained n speed width best) s = .next s := by
  have hkeep : s.hfu.linkUp n speed width best = (s.hfu, []) := by
    rw [Hfu.linkUp, hp]
    refine if_pos ?_
    rcases hno with h | ⟨h, h'⟩ | ⟨h, h'⟩
    · exact Or.inl h
    · exact Or.inr (Or.inl ⟨h', h⟩)
    · exact Or.inr (Or.inr ⟨h, by rw [h']; rfl⟩)
  rw [exec_linkTrained_acts hup hrail, hkeep]
  rfl

theorem exec_linkTrained_eth (hproto : p.proto = .eth) (hstate : p.state = .training) :
    exec (.linkTrained n speed width best) s = .next { s with
      hfu := { s.hfu with ports := Tab.upd s.hfu.ports n fun q => q.trained (ethSpeed p.lanes) p.lanes } } := by
  have htrains : s.hfu.linkUp n speed width best
      = ({ s.hfu with ports := Tab.upd s.hfu.ports n fun q => q.trained (ethSpeed p.lanes) p.lanes }, []) := by
    rw [Hfu.linkUp, hp]
    simp [hproto, hstate, Port.trained]
  rw [exec_linkTrained_acts hup hrail, htrains]
  rfl

variable (hproto : p.proto = .pcie) (hstate : p.state ≠ .down) (htrain : pcieTrains p.lanes speed width = true)
include hproto hstate htrain

theorem exec_linkTrained_full (hwidth : p.lanes ≤ width) (hspeed : best ≤ speed) :
    exec (.linkTrained n speed width best) s = .next { s with
      hfu := { s.hfu with ports := Tab.upd s.hfu.ports n fun q => q.trained speed width } } := by
  have htrains : s.hfu.linkUp n speed width best
      = ({ s.hfu with ports := Tab.upd s.hfu.ports n fun q => q.trained speed width }, []) := by
    rw [Hfu.linkUp, hp]
    simp [hproto, hstate, htrain, Nat.not_lt.mpr hwidth, Nat.not_lt.mpr hspeed, Port.trained]
  rw [exec_linkTrained_acts hup hrail, htrains]
  rfl

/-- A link that trains below what it could is latched and reported. -/
theorem exec_linkTrained_degraded (hless : width < p.lanes ∨ speed < best) :
    exec (.linkTrained n speed width best) s = .next { s with
      hfu := { s.hfu with
        ports := Tab.upd s.hfu.ports n fun q => q.trained speed width
        regs := s.hfu.regs.setFld (.hfuLinkstat n) 14 14 1 }
      fev := s.fev.report (mkReport 0x01 0x02 4 n speed width 0) s.stamp } := by
  have htrains : s.hfu.linkUp n speed width best
      = ({ s.hfu with
            ports := Tab.upd s.hfu.ports n fun q => q.trained speed width
            regs := s.hfu.regs.setFld (.hfuLinkstat n) 14 14 1 }, [mkReport 0x01 0x02 4 n speed width 0]) := by
    rw [Hfu.linkUp, hp]
    simp [hproto, hstate, htrain, hless, Port.trained]
  rw [exec_linkTrained_acts hup hrail, htrains]
  exact congrArg Host.Outcome.next (State.report_mild (s := { s with hfu := { s.hfu with
    ports := Tab.upd s.hfu.ports n fun q => q.trained speed width
    regs := s.hfu.regs.setFld (.hfuLinkstat n) 14 14 1 } }) (r := mkReport 0x01 0x02 4 n speed width 0) rfl)

end

/-! ### Lane groups (R39) -/

/-- A write that leaves HFU_LGCFG as it was takes no group down and brings none up. -/
theorem State.lanesChanged_same {s : State} {old : W32} (h : s.reg .hfuLgcfg = old) : s.lanesChanged old = s := by
  have hnone : ∀ f : Nat → Bool, ((List.range 2).filter fun g => f g && !f g) = [] := fun f => by simp
  have hnone' : ∀ f : Nat → Bool, ((List.range 2).filter fun g => !f g && f g) = [] := fun f => by simp
  rw [State.lanesChanged, h]
  dsimp only
  rw [hnone, hnone']
  rfl

/-- Settles O59, by the moves of a port's link. -/
theorem links : Obligations.Links := by
  unfold Obligations.Links
  refine ⟨?_, ?_, ?_, ?_, ?_, ?_, ?_, ?_⟩
  · intro s g hlow
    refine ⟨_, congrArg Host.Outcome.next (if_neg (by simp [hlow])), rfl, Tab.get?_set_self _ _ _, fun n p hp => ?_⟩
    dsimp only
    rw [Tab.get?_mapVals, hp]
    rfl
  · rintro s h g mine rfl rfl
    exact ⟨_, rfl, rfl, fun hun => State.portLosses_unlinked hun .down _⟩
  · intro s n speed width best p hup hrail hp
    refine ⟨fun hproto hstate => ?_, fun hproto hstate htrain hwidth hspeed => ?_, fun hproto hstate htrain hless => ?_, fun hno => exec_linkTrained_keeps hup hrail hp hno⟩
    · exact ⟨_, exec_linkTrained_eth hup hrail hp hproto hstate, Tab.get?_upd_self (f := fun q => q.trained (ethSpeed p.lanes) p.lanes) hp, rfl⟩
    · exact ⟨_, exec_linkTrained_full hup hrail hp hproto hstate htrain hwidth hspeed, Tab.get?_upd_self (f := fun q => q.trained speed width) hp, rfl⟩
    · exact ⟨_, exec_linkTrained_degraded hup hrail hp hproto hstate htrain hless, Tab.get?_upd_self (f := fun q => q.trained speed width) hp, RegFile.fld_setFld_self _ _ _ _ _ (by decide), rfl, rfl⟩
  · intro s n p c hup hp hstate
    refine ⟨fun hproto hc => ⟨_, exec_linkDown_pcie hup hp hstate hproto hc, rfl, fun hencl => State.portReset_enclosed ?_ n⟩, fun hproto hc => ?_⟩
    · obtain ⟨hsafe, hdump⟩ := s.linkLoss_enclosed n .training
      rwa [hsafe, hdump]
    · rw [hc]
      exact ⟨_, exec_linkDown_eth hup hp hstate hproto, rfl⟩
  · rintro s t n p next hp rfl
    obtain ⟨hport, hcount, hlatch⟩ := Hfu.linkDown_leaves next hp
    rw [State.linkLoss_eq]
    exact ⟨hport, hcount, hlatch, rfl, rfl⟩
  · intro s g hup hg
    exact ⟨_, congrArg Host.Outcome.next (if_pos (by simp [hup, hg])), rfl⟩
  · intro s hrail
    refine ⟨_, congrArg Host.Outcome.next (if_pos hrail), rfl, rfl, fun n p hp => ?_⟩
    dsimp only
    rw [Tab.get?_mapVals, hp]
    rfl
  · intro s r v hserved
    exact ⟨_, congrArg Host.Outcome.next (served_write hserved v _), rfl, fun hsame => State.lanesChanged_same hsame⟩

end Sys2Proof.Machine
end

section
/-! Errors at the link and configuration requests (R43, R44, R57), and O60. -/

namespace Sys2Proof.Machine

/-! ### What is counted and reported -/

/-- A fault without a code reaches the first-fault queue with free code and severity, and takes the free values. -/
theorem State.uncoded_eq (s : State) (objType obj : Nat) : ∃ code sev free, s.uncoded objType obj
    = { s with fev := s.fev.firstFault ⟨0x01, code % 256, .d, sev % 4, objType, obj, 0, 0, 0⟩ s.stamp, free := free } := ⟨_, _, _, rfl⟩

theorem State.countUncorr_counts (s : State) (n : Nat) :
    (s.countUncorr n).hfu.regs.fld (.hfuErrcnt n) 15 0 = min 65535 (s.hfu.regs.fld (.hfuErrcnt n) 15 0 + 1)
      ∧ (s.countUncorr n).hfu.regs.fld (.hfuErrcnt n) 31 16 = s.hfu.regs.fld (.hfuErrcnt n) 31 16
      ∧ s.countUncorr n = { s with hfu := { s.hfu with regs := (s.countUncorr n).hfu.regs } } :=
  ⟨RegFile.satFld_self _ _ _ _ _ (by decide), RegFile.fld_satFld_ne _ _ _ (by decide) (Or.inr (by decide)), rfl⟩

theorem State.countCorr_counts (s : State) (n : Nat) :
    (s.countCorr n).hfu.regs.fld (.hfuErrcnt n) 31 16 = min 65535 (s.hfu.regs.fld (.hfuErrcnt n) 31 16 + 1)
      ∧ (s.countCorr n).hfu.regs.fld (.hfuErrcnt n) 15 0 = s.hfu.regs.fld (.hfuErrcnt n) 15 0
      ∧ s.countCorr n = { s with hfu := { s.hfu with regs := (s.countCorr n).hfu.regs } } :=
  ⟨RegFile.satFld_self _ _ _ _ _ (by decide), RegFile.fld_satFld_ne _ _ _ (by decide) (Or.inl (by decide)), rfl⟩

/-- The link of a port is up where its state says so. -/
theorem State.portUp_of_up {s : State} {n : Nat} {p : Port} (hp : Tab.get? s.hfu.ports n = some p) (hstate : p.state = .up) :
    s.portUp n p.proto = true := by
  simp [State.portUp, hp, hstate]

/-! ### Configuration space (R43, R44, R495) -/

/-- A write to configuration space reaches the function's own registers and its interrupt settings alone. -/
theorem State.cfgWrite_frame (s : State) (inst : Nat) (i : Inst) (r : CfgReg) (v : Nat) :
    s.cfgWrite inst i r v = { s with
      hfu := { s.hfu with cfg := (s.cfgWrite inst i r v).hfu.cfg }, qce := { s.qce with insts := (s.cfgWrite inst i r v).qce.insts }, out := (s.cfgWrite inst i r v).out } := by
  have hirq (q : Irq) : s.setIrq inst q = { s with
      hfu := { s.hfu with cfg := (s.setIrq inst q).hfu.cfg }, qce := { s.qce with insts := (s.setIrq inst q).qce.insts }, out := (s.setIrq inst q).out } := by
    unfold State.setIrq
    split
    · rfl
    · rfl
  unfold State.cfgWrite
  cases r with
  | msi =>
    dsimp only
    split
    · exact hirq _
    · rfl
  | msix => exact hirq _
  | devCtl => rfl
  | bar n => dsimp only; split <;> rfl
  | devCtl2 => dsimp only; split <;> rfl
  | pmCtl => dsimp only; split <;> rfl
  | sysPage => dsimp only; split <;> rfl
  | vfBar n => dsimp only; split <;> rfl
  | rom | devCap | devCap2 | linkCap | linkSta | msixTable | msixPba | totalVfs | pageSizes | dvsec _ => rfl

/-- Bytes 8 to 15 of the DVSEC: its id, the port and its groups, and the port's instances. -/
theorem State.portIdentity_words {s : State} {n : Nat} (p : Port) (hn : n < 4) (hg : p.group < 2) (hbase : (s.hfu.range n).1 < 65536) (hcount : (s.hfu.range n).2 < 65536) :
    leNat (slice (s.portIdentity n p) 8 4) = 1 + 65536 * n + 16777216 * (if p.lanes = 16 then 2 else p.group)
      ∧ leNat (slice (s.portIdentity n p) 12 4) = (s.hfu.range n).1 + 65536 * (s.hfu.range n).2 := by
  obtain ⟨w, hw⟩ : ∃ w, w = if p.lanes = 16 then 2 else p.group := ⟨_, rfl⟩
  have hw3 : w < 3 := by rw [hw]; split <;> omega
  rw [State.portIdentity, ← hw]
  constructor
  · simp [leBytes, slice, fit, leNat, zeros]
    omega
  · simp [leBytes, slice, fit, leNat, zeros]
    omega

section
variable {s : State} {n : Nat} {p : Port} (hp : Tab.get? s.hfu.ports n = some p) (hproto : p.proto = .pcie) (hstate : p.state = .up)
include hp hproto hstate

theorem exec_configRequest_acts {q : CfgReq} (hq : q.port = n) :
    exec (.configRequest q) s = .next (
      if (s.hfu.range n).2 ≤ q.fn then s.emit (.unsupported ((s.hfu.range n).1 + q.fn))
      else if s.clock.now < p.perstAt + 100 * msT then s.emit (.config n q.fn none)
      else
        match s.qce.inst? ((s.hfu.range n).1 + q.fn) with
        | none => s.emit (.unsupported ((s.hfu.range n).1 + q.fn))
        | some i =>
          match q.w with
          | none => s.emit (.config n q.fn (some (s.cfgRead n p ((s.hfu.range n).1 + q.fn) i q.reg)))
          | some v => (s.cfgWrite ((s.hfu.range n).1 + q.fn) i q.reg v).emit (.config n q.fn (some 0))) := by
  subst hq
  change execConfigRequest q s = _
  rw [execConfigRequest, hp]
  dsimp only
  rw [if_neg (by simp [hproto, hstate])] <;> rfl

theorem exec_configRequest_absent {q : CfgReq} (hq : q.port = n) (hfn : (s.hfu.range n).2 ≤ q.fn) :
    exec (.configRequest q) s = .next (s.emit (.unsupported ((s.hfu.range n).1 + q.fn))) := by
  rw [exec_configRequest_acts hp hproto hstate hq, if_pos hfn]

theorem exec_configRequest_early {q : CfgReq} (hq : q.port = n) (hfn : q.fn < (s.hfu.range n).2) (hearly : s.clock.now < p.perstAt + 100 * msT) :
    exec (.configRequest q) s = .next (s.emit (.config n q.fn none)) := by
  rw [exec_configRequest_acts hp hproto hstate hq, if_neg (Nat.not_le.mpr hfn), if_pos hearly]

theorem exec_configRequest_there {q : CfgReq} {i : Inst} (hq : q.port = n) (hfn : q.fn < (s.hfu.range n).2) (hlate : p.perstAt + 100 * msT ≤ s.clock.now)
    (hi : s.qce.inst? ((s.hfu.range n).1 + q.fn) = some i) :
    (q.w = none → exec (.configRequest q) s = .next (s.emit (.config n q.fn (some (s.cfgRead n p ((s.hfu.range n).1 + q.fn) i q.reg)))))
      ∧ ∀ v, q.w = some v → exec (.configRequest q) s = .next ((s.cfgWrite ((s.hfu.range n).1 + q.fn) i q.reg v).emit (.config n q.fn (some 0))) := by
  have hexec := exec_configRequest_acts hp hproto hstate hq
  rw [if_neg (Nat.not_le.mpr hfn), if_neg (Nat.not_lt.mpr hlate), hi] at hexec
  refine ⟨fun hw => ?_, fun v hw => ?_⟩
  · rw [hw] at hexec; exact hexec
  · rw [hw] at hexec; exact hexec

/-! ### Errors that a port counts (R57) -/

theorem exec_receiverError_counts :
    exec (.pcieReceiverError n) s = .next ((s.countCorr n).emit (.aer n 0)) ∧ exec (.malformedTlp n) s = .next (((s.uncoded 4 n).countUncorr n).emit (.aer n 2)) := by
  have hup := State.portUp_of_up hp hstate
  rw [hproto] at hup
  exact ⟨congrArg Host.Outcome.next (if_pos hup), congrArg Host.Outcome.next (if_pos hup)⟩

theorem exec_barUnsupportedAccess_counts {i o : Nat} {x : Inst} (hx : s.qce.inst? i = some x) (heth : x.eth = false) (hport : x.port = n)
    (hholds : barHolds (x.allot + 1) o = false) :
    exec (.barUnsupportedAccess i o) s = .next ((((s.uncoded 5 i).countUncorr n).emit (.unsupported i)).emit (.aer n 3)) := by
  have hup := State.portUp_of_up hp hstate
  rw [hproto] at hup
  change execBarUnsupportedAccess i o s = _
  rw [execBarUnsupportedAccess, hx]
  dsimp only
  rw [hport, hup, heth, hholds]
  rfl

end

/-! ### Host reads that fail (R57) -/

section
variable {s : State} (hruns : s.runs = true)
include hruns

/-- A timeout and a poisoned completion of a fetch read are one failure. -/
theorem exec_fetchRead_fails {i sq : Nat} {c : Instr} (hc : c = .completionTimeout (.fetch i sq) ∨ c = .hostReadFailure (.fetch i sq) .poisoned) :
    exec c s = .next (s.fetchFailed i sq) := by
  rcases hc with rfl | rfl
  · exact congrArg Host.Outcome.next (if_pos hruns)
  · exact congrArg Host.Outcome.next (if_pos hruns)

theorem exec_dataRead_fails {k : Nat} {why : ReadFault} {c : Instr} (hc : c = .completionTimeout (.data k) ∨ c = .hostReadFailure (.data k) why) :
    exec c s = .next (s.dataFailed k) := by
  rcases hc with rfl | rfl
  · exact congrArg Host.Outcome.next (if_pos hruns)
  · exact congrArg Host.Outcome.next (if_pos hruns)

end

/-- A fetch read that fails is retried; the failure of the second fails the instance. -/
theorem State.fetchFailed_acts {s : State} {i sq : Nat} {x : Inst} {q : Sq} (hx : s.qce.inst? i = some x) (hq : s.qce.sq? i sq = some q) (heth : x.eth = false)
    (hreads : q.reads ≠ []) (hready : x.state = .ready) :
    s.fetchFailed i sq = if q.retried then
        ({ (s.countUncorr x.port).emit (.aer x.port 1) with qce := s.qce.updInst i fun i => { i with state := .failed, cfs := true } } : State).report
          (mkReport 0x01 0x04 5 i sq 0 0)
      else ({ (s.countUncorr x.port).emit (.aer x.port 1) with qce := s.qce.updSq i sq fun q => { q with retried := true } } : State).uncoded 5 i := by
  rw [State.fetchFailed, hx, hq]
  exact if_neg (by simp [heth, hreads, hready])

/-- A data read that fails ends its command with Data Transfer Error. -/
theorem State.dataFailed_ends {s : State} {k : Nat} {x : Ctx} {i : Inst} (hcalm : Safety.calm s) (hx : s.qce.ctx? k = some x) (hi : s.qce.inst? x.inst = some i)
    (heth : i.eth = false) (hside : x.side = false) (hdet : x.detached = false) (hrec : x.recorded = false) (hoas : x.oas = false) (hopen : x.open' = true)
    (hzone : x.zone = none) (hord : x.ord = false) :
    Safety.completed s (s.dataFailed k) k .dataTransfer x.dw0
      ∧ (s.dataFailed k).fl.ptx = { s.fl.ptx with growths := Tab.erase s.fl.ptx.growths k }
      ∧ (s.dataFailed k).hfu.regs.fld (.hfuErrcnt i.port) 15 0 = min 65535 (s.hfu.regs.fld (.hfuErrcnt i.port) 15 0 + 1) := by
  obtain ⟨g, hg⟩ : ∃ g, g = ((s.uncoded 5 x.inst).countUncorr i.port).emit (.aer i.port 1) := ⟨_, rfl⟩
  have hfails : s.dataFailed k = (g.fin k .dataTransfer).settle := by
    rw [State.dataFailed, hx]
    dsimp only
    rw [hi, hg]
    exact if_neg (by simp [heth, hside, hrec, hoas, hopen])
  have hqce : g.qce = s.qce := hg ▸ rfl
  have hptx : g.fl.ptx = s.fl.ptx := hg ▸ rfl
  have hcount : g.hfu.regs.fld (.hfuErrcnt i.port) 15 0 = min 65535 (s.hfu.regs.fld (.hfuErrcnt i.port) 15 0 + 1) := by
    rw [hg]
    exact ((s.uncoded 5 x.inst).countUncorr_counts i.port).1
  have hgcalm : Safety.calm g := calm_of hcalm (hg ▸ rfl) (by rw [hqce])
  obtain ⟨d, m, hend⟩ := State.fail_calm (st := .dataTransfer) hgcalm (by rw [hqce]; exact hx) hopen ⟨hside, hdet⟩ hzone hord rfl (by decide)
  rw [hfails, hend, hqce, hptx]
  exact ⟨⟨⟨_, Qce.setDone_ctx .dataTransfer hx, rfl, rfl, rfl⟩, fun j hj => Qce.setDone_other .dataTransfer hj⟩, rfl, hcount⟩

/-- Settles O60: each error by what it counts, reports and ends. -/
theorem linkErrors : Obligations.LinkErrors := by
  unfold Obligations.LinkErrors
  refine ⟨?_, ?_, ?_⟩
  · intro s n p hp hproto hstate
    obtain ⟨hcorr, hmal⟩ := exec_receiverError_counts hp hproto hstate
    refine ⟨?_, ?_, ?_, ?_, ?_, ?_, ?_⟩
    · obtain ⟨hcount, hkeep, -⟩ := s.countCorr_counts n
      exact ⟨_, hcorr, hcount, hkeep, rfl⟩
    · obtain ⟨hcount, hkeep, -⟩ := (s.uncoded 4 n).countUncorr_counts n
      exact ⟨_, hmal, hcount, hkeep, ⟨_, _, rfl⟩, rfl⟩
    · exact fun q hq hfn => ⟨_, exec_configRequest_absent hp hproto hstate hq hfn, rfl⟩
    · exact fun q hq hfn hearly => ⟨_, exec_configRequest_early hp hproto hstate hq hfn hearly, rfl⟩
    · intro q i hq hfn hlate hi
      obtain ⟨hread, hwrite⟩ := exec_configRequest_there hp hproto hstate hq hfn hlate hi
      refine ⟨fun hw => ⟨_, hread hw, rfl⟩, fun v hw => ⟨_, hwrite v hw, rfl, ?_⟩⟩
      exact congrArg (fun u : State => u.emit (.config n q.fn (some 0))) (s.cfgWrite_frame ((s.hfu.range n).1 + q.fn) i q.reg v)
    · intro j i hn hg hbase hcount
      obtain ⟨hport, hrange⟩ := State.portIdentity_words p hn hg hbase hcount
      exact ⟨hport, hrange, rfl, rfl, rfl, fun hpf => if_pos hpf⟩
    · intro i x o hx heth hport hholds
      exact ⟨_, exec_barUnsupportedAccess_counts hp hproto hstate hx heth hport hholds, ((s.uncoded 5 i).countUncorr_counts n).1, ⟨_, _, rfl⟩, rfl⟩
  · intro s i sq x q c hruns hx hq heth hreads hready hc
    have hexec := exec_fetchRead_fails hruns hc
    rw [State.fetchFailed_acts hx hq heth hreads hready] at hexec
    refine ⟨fun hfirst => ?_, fun hsecond => ?_⟩
    · rw [hfirst, if_neg Bool.false_ne_true] at hexec
      exact ⟨_, hexec, Qce.updSq_sq hq _, hx, rfl⟩
    · rw [hsecond, if_pos rfl, State.report_mild rfl] at hexec
      exact ⟨_, hexec, Qce.updInst_inst _ hx, rfl⟩
  · intro s k x i why c hruns hcalm hx hi heth hside hdet hrec hoas hopen hzone hord hc
    exact ⟨_, exec_dataRead_fails hruns hc, State.dataFailed_ends hcalm hx hi heth hside hdet hrec hoas hopen hzone hord⟩

end Sys2Proof.Machine
end
